-- ==== Sys2Proof/Word.lean ====
section
/-! DEFINITION. Widths of data the CX-40 holds, and the type of the sparse tables that State is made of. -/
namespace Sys2Proof

/-- One byte. -/
abbrev Byte := BitVec 8
/-- A scalar register value (R39). -/
abbrev W32 := BitVec 32
/-- A pair value, a control register, an address (R39, R41). -/
abbrev W64 := BitVec 64
/-- A row of an accumulator tile, 512 bytes, and a predicate-wide value has 512 bits (R39). -/
abbrev Row := BitVec 4096
/-- A predicate register (R39). -/
abbrev Pred := BitVec 512
/-- A 64-byte line of memory. -/
abbrev Line := BitVec 512
/-- A row of an operand register bN, 256 bytes (R39). -/
abbrev BRow := BitVec 2048

/-- A sparse table: keys strictly rising, no entry equal to the table's default. -/
abbrev Tab (α : Type) := List (Nat × α)

end Sys2Proof
end

