-- ==== Sys2Proof/Syntax.lean ====
section
/-! DEFINITION. The instructions: every row of spec/opcode_table.json is one constructor of `Instr`.
S-words and heath words carry the fields of their own form (R28), V-words and M-words the fields of the one
V-word and M-word layout (R30, R37), and the table's events the things they happen to. -/
namespace Sys2Proof

/-- Scope codes 000-101 of R47. -/
inductive Scope | ctx | mdw | die | stk | pkg | sys
  deriving DecidableEq, Repr

/-- Type codes 00-10 of FRED (R46). -/
inductive FredType | f32 | bf16 | f16
  deriving DecidableEq, Repr

/-- The sixteen element types of R31, in code order. -/
inductive ElemType | f32 | bf16 | f16 | e4m3 | e5m2 | cb4 | mx4 | mx8 | i8 | i16 | i32 | i64 | n8 | n16 | n32 | n64
  deriving DecidableEq, Repr

/-- Rounding modes 000-100 of R32. -/
inductive Round | rne | rz | rd | ru | sr
  deriving DecidableEq, Repr

/-- The stream of a context (R18). -/
inductive StreamId | s | v | m
  deriving DecidableEq, Repr

/-- The units that a meadow's contexts share (R292). -/
inductive IssueUnit | vector | array | load | drain
  deriving DecidableEq, Repr

/-- Who executes: a stream of a context of a meadow, a heath command processor, or the device itself. -/
inductive Agent | stream (mdw ctx : Nat) (st : StreamId) | hcp (h : Nat) | device
  deriving DecidableEq, Repr

/-- Sources of the security alarm (R366, R367). `debugAdmitted` is the admission of a certificate (R393). -/
inductive AlarmSource | tamper | debug | attest | firmware | debugAdmitted
  deriving DecidableEq, Repr

/-- An operand field of a V-word by its kind (R33). A row operand carries its negate and absolute-value bits. -/
inductive VOperand
  | rows (base : BitVec 10) (stride : BitVec 6) (neg abs : Bool)
  | queue (q : BitVec 3)
  | imm (v : BitVec 20)
  | bcast (base : BitVec 10) (stride : BitVec 6) (g : BitVec 4)
  deriving DecidableEq, Repr

/-- The fields of a V-word (R30) beside its opcode. -/
structure VWord where
  ic : BitVec 2
  et : ElemType
  pred : BitVec 4
  sense : Bool
  rm : Round
  n : BitVec 8
  dst : VOperand
  src1 : VOperand
  src2 : VOperand
  deriving DecidableEq, Repr

/-- Stamp modes 00-10 of R37. -/
inductive StampMode | none | absolute | relative
  deriving DecidableEq, Repr

/-- An A or B source of an M-word (R38): an operand register or the descriptor pair m(2N):m(2N+1). -/
inductive MSource | breg (n : BitVec 2) | desc (pair : BitVec 4)
  deriving DecidableEq, Repr

/-- The fields of an M-word (R37) beside its opcode. A list is the descriptor pair it names, or none (R38). -/
structure MWord where
  ic : BitVec 2
  fa : ElemType
  fb : ElemType
  tile : BitVec 3
  rm : Round
  stampMode : StampMode
  stamp : BitVec 32
  srcA : MSource
  srcB : MSource
  gather : Option (BitVec 4)
  scatter : Option (BitVec 4)
  acc : Bool
  full : Bool
  once : Bool
  steps : BitVec 16
  mx : BitVec 5
  my : BitVec 5
  imm64 : BitVec 64
  deriving DecidableEq, Repr

/-- A Favex packet as R391 lays it out: the header fields and the four payload lines with their poison markers. -/
structure FavexPacket where
  type : BitVec 8
  dpkg : BitVec 12
  dheath : BitVec 9
  line : BitVec 32
  lid : BitVec 8
  rank : BitVec 13
  payload : BitVec 2048
  poison : BitVec 4
  deriving DecidableEq, Repr

/-- The instructions and events of the CX-40. -/
inductive Instr
  /-- ADD (R97): S-stream 32-bit wrapping addition of two scalar registers. -/
  | add (ic : BitVec 2) (rd : BitVec 6) (ra : BitVec 6) (rb : BitVec 6)
  /-- SUB (R97): S-stream 32-bit wrapping subtraction. -/
  | sub (ic : BitVec 2) (rd : BitVec 6) (ra : BitVec 6) (rb : BitVec 6)
  /-- AND (R97): S-stream bitwise AND. -/
  | and (ic : BitVec 2) (rd : BitVec 6) (ra : BitVec 6) (rb : BitVec 6)
  /-- OR (R97): S-stream bitwise OR. -/
  | or (ic : BitVec 2) (rd : BitVec 6) (ra : BitVec 6) (rb : BitVec 6)
  /-- XOR (R97): S-stream bitwise XOR. -/
  | xor (ic : BitVec 2) (rd : BitVec 6) (ra : BitVec 6) (rb : BitVec 6)
  /-- SHL (R97): S-stream left shift by an unmasked amount; 0 for amounts of 32 or more. -/
  | shl (ic : BitVec 2) (rd : BitVec 6) (ra : BitVec 6) (rb : BitVec 6)
  /-- SHR (R97): S-stream logical right shift. -/
  | shr (ic : BitVec 2) (rd : BitVec 6) (ra : BitVec 6) (rb : BitVec 6)
  /-- SRA (R97): S-stream arithmetic right shift. -/
  | sra (ic : BitVec 2) (rd : BitVec 6) (ra : BitVec 6) (rb : BitVec 6)
  /-- MUL (R97): S-stream low 32 bits of the product. -/
  | mul (ic : BitVec 2) (rd : BitVec 6) (ra : BitVec 6) (rb : BitVec 6)
  /-- MULH (R97): S-stream high 32 bits of the signed product. -/
  | mulh (ic : BitVec 2) (rd : BitVec 6) (ra : BitVec 6) (rb : BitVec 6)
  /-- MULHU (R97): S-stream high 32 bits of the unsigned product. -/
  | mulhu (ic : BitVec 2) (rd : BitVec 6) (ra : BitVec 6) (rb : BitVec 6)
  /-- DIV (R97): S-stream signed quotient truncated toward zero, with the division-by-zero rules of R76. -/
  | div (ic : BitVec 2) (rd : BitVec 6) (ra : BitVec 6) (rb : BitVec 6)
  /-- DIVU (R97): S-stream unsigned quotient. -/
  | divu (ic : BitVec 2) (rd : BitVec 6) (ra : BitVec 6) (rb : BitVec 6)
  /-- REM (R97): S-stream signed remainder. -/
  | rem (ic : BitVec 2) (rd : BitVec 6) (ra : BitVec 6) (rb : BitVec 6)
  /-- REMU (R97): S-stream unsigned remainder. -/
  | remu (ic : BitVec 2) (rd : BitVec 6) (ra : BitVec 6) (rb : BitVec 6)
  /-- MIN (R97): S-stream signed minimum. -/
  | min (ic : BitVec 2) (rd : BitVec 6) (ra : BitVec 6) (rb : BitVec 6)
  /-- MAX (R97): S-stream signed maximum. -/
  | max (ic : BitVec 2) (rd : BitVec 6) (ra : BitVec 6) (rb : BitVec 6)
  /-- MINU (R97): S-stream unsigned minimum. -/
  | minu (ic : BitVec 2) (rd : BitVec 6) (ra : BitVec 6) (rb : BitVec 6)
  /-- MAXU (R97): S-stream unsigned maximum. -/
  | maxu (ic : BitVec 2) (rd : BitVec 6) (ra : BitVec 6) (rb : BitVec 6)
  /-- SEQ (R97): S-stream set if equal. -/
  | seq (ic : BitVec 2) (rd : BitVec 6) (ra : BitVec 6) (rb : BitVec 6)
  /-- SNE (R97): S-stream set if not equal. -/
  | sne (ic : BitVec 2) (rd : BitVec 6) (ra : BitVec 6) (rb : BitVec 6)
  /-- SLT (R97): S-stream set if less, signed. -/
  | slt (ic : BitVec 2) (rd : BitVec 6) (ra : BitVec 6) (rb : BitVec 6)
  /-- SLTU (R97): S-stream set if less, unsigned. -/
  | sltu (ic : BitVec 2) (rd : BitVec 6) (ra : BitVec 6) (rb : BitVec 6)
  /-- SGE (R97): S-stream set if greater or equal, signed. -/
  | sge (ic : BitVec 2) (rd : BitVec 6) (ra : BitVec 6) (rb : BitVec 6)
  /-- SGEU (R97): S-stream set if greater or equal, unsigned. -/
  | sgeu (ic : BitVec 2) (rd : BitVec 6) (ra : BitVec 6) (rb : BitVec 6)
  /-- ADDD (R100): 64-bit pair addition modulo 2^64. -/
  | addd (ic : BitVec 2) (rd : BitVec 5) (ra : BitVec 5) (rb : BitVec 5)
  /-- SUBD (R100): 64-bit pair subtraction modulo 2^64. -/
  | subd (ic : BitVec 2) (rd : BitVec 5) (ra : BitVec 5) (rb : BitVec 5)
  /-- SHLD (R100): 64-bit pair left shift by a scalar amount. -/
  | shld (ic : BitVec 2) (rd : BitVec 5) (ra : BitVec 5) (rb : BitVec 6)
  /-- SHRD (R100): 64-bit pair logical right shift. -/
  | shrd (ic : BitVec 2) (rd : BitVec 5) (ra : BitVec 5) (rb : BitVec 6)
  /-- SRAD (R100): 64-bit pair arithmetic right shift. -/
  | srad (ic : BitVec 2) (rd : BitVec 5) (ra : BitVec 5) (rb : BitVec 6)
  /-- ADDI (R98): Add a sign-extended 12-bit immediate. -/
  | addi (ic : BitVec 2) (rd : BitVec 6) (ra : BitVec 6) (imm : BitVec 12)
  /-- ANDI (R98): AND with a zero-extended immediate. -/
  | andi (ic : BitVec 2) (rd : BitVec 6) (ra : BitVec 6) (imm : BitVec 12)
  /-- ORI (R98): OR with a zero-extended immediate. -/
  | ori (ic : BitVec 2) (rd : BitVec 6) (ra : BitVec 6) (imm : BitVec 12)
  /-- XORI (R98): XOR with a zero-extended immediate. -/
  | xori (ic : BitVec 2) (rd : BitVec 6) (ra : BitVec 6) (imm : BitVec 12)
  /-- SHLI (R98): Left shift by an immediate 0-31. -/
  | shli (ic : BitVec 2) (rd : BitVec 6) (ra : BitVec 6) (sh : BitVec 5)
  /-- SHRI (R98): Logical right shift by an immediate. -/
  | shri (ic : BitVec 2) (rd : BitVec 6) (ra : BitVec 6) (sh : BitVec 5)
  /-- SRAI (R98): Arithmetic right shift by an immediate. -/
  | srai (ic : BitVec 2) (rd : BitVec 6) (ra : BitVec 6) (sh : BitVec 5)
  /-- SLTI (R98): Set if less than a signed immediate. -/
  | slti (ic : BitVec 2) (rd : BitVec 6) (ra : BitVec 6) (imm : BitVec 12)
  /-- SLTIU (R98): Set if less than an immediate, unsigned. -/
  | sltiu (ic : BitVec 2) (rd : BitVec 6) (ra : BitVec 6) (imm : BitVec 12)
  /-- ADDDI (R100): Add a sign-extended immediate to a 64-bit pair. -/
  | adddi (ic : BitVec 2) (rd : BitVec 5) (ra : BitVec 5) (imm : BitVec 12)
  /-- LIH (R99): Shift an 18-bit immediate into a scalar register. -/
  | lih (ic : BitVec 2) (rd : BitVec 6) (imm : BitVec 18)
  /-- JAL (R102): PC-relative jump that writes a link value. -/
  | jal (ic : BitVec 2) (rd : BitVec 6) (imm : BitVec 18)
  /-- JALR (R102): Register-indirect jump that writes a link value; misaligned target traps with FETCH_ALIGN. -/
  | jalr (ic : BitVec 2) (rd : BitVec 6) (ra : BitVec 6) (imm : BitVec 12)
  /-- BEQ (R101): Branch if equal. -/
  | beq (ic : BitVec 2) (ra : BitVec 6) (rb : BitVec 6) (imm : BitVec 12)
  /-- BNE (R101): Branch if not equal. -/
  | bne (ic : BitVec 2) (ra : BitVec 6) (rb : BitVec 6) (imm : BitVec 12)
  /-- BLT (R101): Branch if less, signed. -/
  | blt (ic : BitVec 2) (ra : BitVec 6) (rb : BitVec 6) (imm : BitVec 12)
  /-- BGE (R101): Branch if greater or equal, signed. -/
  | bge (ic : BitVec 2) (ra : BitVec 6) (rb : BitVec 6) (imm : BitVec 12)
  /-- BLTU (R101): Branch if less, unsigned. -/
  | bltu (ic : BitVec 2) (ra : BitVec 6) (rb : BitVec 6) (imm : BitVec 12)
  /-- BGEU (R101): Branch if greater or equal, unsigned. -/
  | bgeu (ic : BitVec 2) (ra : BitVec 6) (rb : BitVec 6) (imm : BitVec 12)
  /-- LOOP (R103): Decrement a counter and branch while it differs from a bound. -/
  | loop (ic : BitVec 2) (ra : BitVec 6) (rb : BitVec 6) (imm : BitVec 12)
  /-- QPUSH (R104): Push a 64-bit pair onto q0-q3, waiting for room. -/
  | qpush (ic : BitVec 2) (q : BitVec 2) (ra : BitVec 5)
  /-- QPOP (R104): Pop the head entry of q0-q3 into a pair, waiting for data. -/
  | qpop (ic : BitVec 2) (rd : BitVec 5) (q : BitVec 2)
  /-- QPEEK (R104): Copy the head entry of q0-q3 without removing it. -/
  | qpeek (ic : BitVec 2) (rd : BitVec 5) (q : BitVec 2)
  /-- GTCR (R105): Read the 64-bit global tick count into a pair. -/
  | gtcr (ic : BitVec 2) (rd : BitVec 5)
  /-- WAITG (R106): Hold the S-stream until GTC reaches a target. -/
  | waitg (ic : BitVec 2) (ra : BitVec 5)
  /-- EXIT (R109): End the S-stream task body (or, on an HCP, the near-memory kernel) once its loads have landed. -/
  | exit (ic : BitVec 2)
  /-- GAP (R107): Delay the stream's next word by an immediate count of MTC cycles. -/
  | gap (ic : BitVec 2) (imm : BitVec 12)
  /-- CSRR (R108): Read a control and status register into a pair. -/
  | csrr (ic : BitVec 2) (rd : BitVec 5) (imm : BitVec 12)
  /-- CSRW (R108): Write a pair into a control and status register, effective at issue + 1. -/
  | csrw (ic : BitVec 2) (ra : BitVec 5) (imm : BitVec 12)
  /-- LDB (R196): Load one byte from memory, zero-extended, landing at a named offset. -/
  | ldb (ic : BitVec 2) (rd : BitVec 6) (ra : BitVec 5) (imm : BitVec 12)
  /-- LDH (R196): Load two bytes from memory at a landing offset. -/
  | ldh (ic : BitVec 2) (rd : BitVec 6) (ra : BitVec 5) (imm : BitVec 12)
  /-- LDW (R196): Load four bytes from memory at a landing offset. -/
  | ldw (ic : BitVec 2) (rd : BitVec 6) (ra : BitVec 5) (imm : BitVec 12)
  /-- LDD (R196): Load eight bytes into a pair at a landing offset. -/
  | ldd (ic : BitVec 2) (rd : BitVec 5) (ra : BitVec 5) (imm : BitVec 12)
  /-- STB (R196): Store the low byte of a scalar to memory. -/
  | stb (ic : BitVec 2) (rd : BitVec 6) (ra : BitVec 5)
  /-- STH (R196): Store the low two bytes of a scalar. -/
  | sth (ic : BitVec 2) (rd : BitVec 6) (ra : BitVec 5)
  /-- STW (R196): Store a 32-bit scalar. -/
  | stw (ic : BitVec 2) (rd : BitVec 6) (ra : BitVec 5)
  /-- STD (R196): Store a 64-bit pair. -/
  | std (ic : BitVec 2) (rd : BitVec 5) (ra : BitVec 5)
  /-- LDS (R199): Load a 32-bit scratchpad word at a landing offset. -/
  | lds (ic : BitVec 2) (rd : BitVec 6) (ra : BitVec 6) (imm : BitVec 12)
  /-- STS (R199): Store a 32-bit word to scratchpad at issue + 1. -/
  | sts (ic : BitVec 2) (rd : BitVec 6) (ra : BitVec 6)
  /-- TLOOK (R201): Find the lowest valid tag-table slot matching a virtual page. -/
  | tlook (ic : BitVec 2) (rd : BitVec 6) (ra : BitVec 5)
  /-- TSET (R201): Write a tag-table entry. -/
  | tset (ic : BitVec 2) (ra : BitVec 5) (rb : BitVec 6)
  /-- TINV (R201): Clear VALID and DIRTY of a tag-table slot. -/
  | tinv (ic : BitVec 2) (ra : BitVec 6)
  /-- BDECL (R202): Declare or undeclare a scratchpad buffer. -/
  | bdecl (ic : BitVec 2) (ra : BitVec 6)
  /-- BSTATE_FULL (R202): Raise the full event on a buffer. -/
  | bstateFull (ic : BitVec 2) (ra : BitVec 6)
  /-- BSTATE_DRAIN (R202): Raise the drain event on a non-consume-once FULL buffer. -/
  | bstateDrain (ic : BitVec 2) (ra : BitVec 6)
  /-- BQUERY (R202): Read a buffer's state, reader count and declaration bits. -/
  | bquery (ic : BitVec 2) (rd : BitVec 6) (ra : BitVec 6)
  /-- SBFW (R203): Write a bank format register and return its previous value. -/
  | sbfw (ic : BitVec 2) (rd : BitVec 6) (ra : BitVec 6) (rb : BitVec 6)
  /-- SEW (R207): Write a stream-engine shadow register. -/
  | sew (ic : BitVec 2) (n : BitVec 3) (ra : BitVec 5)
  /-- SEGO (R207): Push the shadow descriptor as a command, releasing earlier stores at its scope. -/
  | sego (ic : BitVec 2) (sc : Scope)
  /-- SEGO_RESUME (R208): Restart a halted stream-engine command at its failing granule. -/
  | segoResume (ic : BitVec 2) (sc : Scope)
  /-- SEGO_DROP (R208): Remove a halted command and push its DROPPED entry. -/
  | segoDrop (ic : BitVec 2) (sc : Scope)
  /-- SEPOP (R207): Pop a stream-engine result entry, acquiring its command. -/
  | sepop (ic : BitVec 2) (rd : BitVec 5)
  /-- SECHAIN (R207): Push a chain token for a chain of command descriptors in memory. -/
  | sechain (ic : BitVec 2) (sc : Scope) (ra : BitVec 5)
  /-- RQPAGE (R211): Ask the management core to make a window entry resident. -/
  | rqpage (ic : BitVec 2) (ra : BitVec 5) (rb : BitVec 6)
  /-- FENCE (R220): Hold the S-stream until acquire and/or release conditions at a scope hold. -/
  | fence (ic : BitVec 2) (un rc : Bool) (ord : BitVec 2) (sc : Scope)
  /-- AFENCE (R221): Full fence over an alias group and write-back of its held sync-engine lines. -/
  | afence (ic : BitVec 2) (ra : BitVec 5) (sc : Scope)
  /-- ATOM_ADD (R232): Atomic add in the home sync engine, returning the old value. -/
  | atomAdd (ic : BitVec 2) (sg wide : Bool) (sc : Scope) (ra : BitVec 5) (rb : BitVec 6)
  /-- ATOM_AND (R232): Atomic AND returning the old value. -/
  | atomAnd (ic : BitVec 2) (sg wide : Bool) (sc : Scope) (ra : BitVec 5) (rb : BitVec 6)
  /-- ATOM_OR (R232): Atomic OR returning the old value. -/
  | atomOr (ic : BitVec 2) (sg wide : Bool) (sc : Scope) (ra : BitVec 5) (rb : BitVec 6)
  /-- ATOM_XOR (R232): Atomic XOR returning the old value. -/
  | atomXor (ic : BitVec 2) (sg wide : Bool) (sc : Scope) (ra : BitVec 5) (rb : BitVec 6)
  /-- ATOM_MIN (R232): Atomic minimum returning the old value. -/
  | atomMin (ic : BitVec 2) (sg wide : Bool) (sc : Scope) (ra : BitVec 5) (rb : BitVec 6)
  /-- ATOM_MAX (R232): Atomic maximum returning the old value. -/
  | atomMax (ic : BitVec 2) (sg wide : Bool) (sc : Scope) (ra : BitVec 5) (rb : BitVec 6)
  /-- ATOM_SWAP (R232): Atomic swap returning the old value. -/
  | atomSwap (ic : BitVec 2) (sg wide : Bool) (sc : Scope) (ra : BitVec 5) (rb : BitVec 6)
  /-- ACAS (R232): Atomic compare-and-swap returning the old value. -/
  | acas (ic : BitVec 2) (sg wide : Bool) (sc : Scope) (ra : BitVec 5) (rb : BitVec 6)
  /-- RED_ADD (R232): Reduction add in the home engine, returning nothing. -/
  | redAdd (ic : BitVec 2) (sg wide : Bool) (sc : Scope) (ra : BitVec 5) (rb : BitVec 6)
  /-- RED_AND (R232): Reduction AND. -/
  | redAnd (ic : BitVec 2) (sg wide : Bool) (sc : Scope) (ra : BitVec 5) (rb : BitVec 6)
  /-- RED_OR (R232): Reduction OR. -/
  | redOr (ic : BitVec 2) (sg wide : Bool) (sc : Scope) (ra : BitVec 5) (rb : BitVec 6)
  /-- RED_XOR (R232): Reduction XOR. -/
  | redXor (ic : BitVec 2) (sg wide : Bool) (sc : Scope) (ra : BitVec 5) (rb : BitVec 6)
  /-- RED_MIN (R232): Reduction minimum. -/
  | redMin (ic : BitVec 2) (sg wide : Bool) (sc : Scope) (ra : BitVec 5) (rb : BitVec 6)
  /-- RED_MAX (R232): Reduction maximum. -/
  | redMax (ic : BitVec 2) (sg wide : Bool) (sc : Scope) (ra : BitVec 5) (rb : BitVec 6)
  /-- FRED_ADD (R233): Floating-point reduction add, RNE, per lane. -/
  | fredAdd (ic : BitVec 2) (ty : FredType) (sc : Scope) (ra : BitVec 5) (rb : BitVec 6)
  /-- FRED_MIN (R233): Floating-point reduction minimum. -/
  | fredMin (ic : BitVec 2) (ty : FredType) (sc : Scope) (ra : BitVec 5) (rb : BitVec 6)
  /-- FRED_MAX (R233): Floating-point reduction maximum. -/
  | fredMax (ic : BitVec 2) (ty : FredType) (sc : Scope) (ra : BitVec 5) (rb : BitVec 6)
  /-- APOP (R234): Pop the atomic-return queue head, acquiring its atomic. -/
  | apop (ic : BitVec 2) (rd : BitVec 5)
  /-- BARI (R241): Initialise a barrier line with an expected arrival count. -/
  | bari (ic : BitVec 2) (sc : Scope) (ra : BitVec 5) (rb : BitVec 6)
  /-- BARV (R241): Arrive at a barrier with release, returning the phase. -/
  | barv (ic : BitVec 2) (sc : Scope) (ra : BitVec 5)
  /-- BARD (R241): Arrive and drop out after this phase. -/
  | bard (ic : BitVec 2) (sc : Scope) (ra : BitVec 5)
  /-- BARX (R241): Add pending bytes to a barrier. -/
  | barx (ic : BitVec 2) (sc : Scope) (ra : BitVec 5) (rb : BitVec 6)
  /-- BARW (R241): Bounded wait until the barrier phase differs from a value, then acquire. -/
  | barw (ic : BitVec 2) (sc : Scope) (ra : BitVec 5) (rb : BitVec 5)
  /-- BART (R241): Subtract transferred bytes from pending, with release. -/
  | bart (ic : BitVec 2) (sc : Scope) (ra : BitVec 5) (rb : BitVec 6)
  /-- WAITQ_DATA (R239): Bounded wait until a ring holds at least k items. -/
  | waitqData (ic : BitVec 2) (sc : Scope) (ra : BitVec 5) (rb : BitVec 5)
  /-- WAITQ_SPACE (R239): Bounded wait until a ring has at least k free slots. -/
  | waitqSpace (ic : BitVec 2) (sc : Scope) (ra : BitVec 5) (rb : BitVec 5)
  /-- SEMS (R236): Release and add to a semaphore count. -/
  | sems (ic : BitVec 2) (sc : Scope) (ra : BitVec 5) (rb : BitVec 6)
  /-- SEMW (R236): Bounded wait until a semaphore reaches a target, then acquire. -/
  | semw (ic : BitVec 2) (sc : Scope) (ra : BitVec 5) (rb : BitVec 5)
  /-- UIEN (R245): Enable or disable user-interrupt entry. -/
  | uien (ic : BitVec 2) (ra : BitVec 6)
  /-- UIRET (R245): Return from a user-interrupt handler. -/
  | uiret (ic : BitVec 2)
  /-- LNCH (R247): Append a launch record to a launch ring with release at PKG. -/
  | lnch (ic : BitVec 2) (rd : BitVec 6) (ra : BitVec 5) (rb : BitVec 5)
  /-- HSPDECL (R322): Declare or undeclare a hasp atomic set. -/
  | hspdecl (ic : BitVec 2) (ra : BitVec 5) (rb : BitVec 6)
  /-- TBEGIN (R331): Open or restart a hasp task. -/
  | tbegin (ic : BitVec 2) (rd : BitVec 6)
  /-- TEND (R332): Commit a hasp task and release its sets. -/
  | tend (ic : BitVec 2)
  /-- TABORT (R333): Roll back and end a hasp task with a code. -/
  | tabort (ic : BitVec 2) (ra : BitVec 6)
  /-- TAGE (R334): Read the GTC part of the hasp task's age key. -/
  | tage (ic : BitVec 2) (rd : BitVec 5)
  /-- DSEED (R166): Set the context's draw seed and counter. -/
  | dseed (ic : BitVec 2) (ra : BitVec 5) (rb : BitVec 6)
  /-- DTOPO (R164): Read, check and install a topology table. -/
  | dtopo (ic : BitVec 2) (ra : BitVec 5)
  /-- MDEQ (R308): Offer a descriptor entry for one beat to a beat port. -/
  | mdeq (ic : BitVec 2) (rd : BitVec 6) (ra : BitVec 5) (rb : BitVec 5)
  /-- BDWAIT (R309): Bounded wait for a demand or the end of a run at a beat port. -/
  | bdwait (ic : BitVec 2) (rd : BitVec 5) (ra : BitVec 6) (rb : BitVec 6)
  /-- NOP (R374): S-stream no operation. -/
  | nop (ic : BitVec 2)
  /-- HALT (R374): End the region without a save, completing it with HALTED. -/
  | halt (ic : BitVec 2) (ra : BitVec 5)
  /-- TRAP (R374): Raise SOFT_TRAP with a value. -/
  | trap (ic : BitVec 2) (ra : BitVec 6)
  /-- ERET (R375): Return from a trap handler. -/
  | eret (ic : BitVec 2)
  /-- CTXSV (R383): Checkpoint the issuing meadow to an image while the region runs. -/
  | ctxsv (ic : BitVec 2) (rd : BitVec 6) (ra : BitVec 5)
  /-- CTXLD (R383): Replace the meadow's state with a checked image. -/
  | ctxld (ic : BitVec 2) (rd : BitVec 6) (ra : BitVec 5) (rb : BitVec 6)
  /-- TWLD (R353): Check and load window entries into the meadow's window copy. -/
  | twld (ic : BitVec 2) (rd : BitVec 6) (ra : BitVec 5) (rb : BitVec 6)
  /-- KEYLD (R363): Unwrap and load, or erase, a key slot. -/
  | keyld (ic : BitVec 2) (rd : BitVec 6) (ra : BitVec 5) (rb : BitVec 6)
  /-- HGEMV (R266): HCP pushes a matrix-vector multiply command to its heath engines. -/
  | hgemv (ic : BitVec 2) (ra : BitVec 5)
  /-- HRED (R267): HCP pushes a pairwise element reduction command. -/
  | hred (ic : BitVec 2) (ra : BitVec 5)
  /-- HLAND (R268): HCP arms a collective landing on its reduction engine. -/
  | hland (ic : BitVec 2) (ra : BitVec 5)
  /-- HWALK (R270): HCP pushes an embedding pooling command. -/
  | hwalk (ic : BitVec 2) (ra : BitVec 5)
  /-- HSCAN (R271): HCP pushes a predicate or top-k scan command. -/
  | hscan (ic : BitVec 2) (ra : BitVec 5)
  /-- HCOPY (R272): HCP pushes a raw row copy command. -/
  | hcopy (ic : BitVec 2) (ra : BitVec 5)
  /-- HROW (R273): Take an explicit row lease with column and time limits. -/
  | hrow (ic : BitVec 2) (ra : BitVec 5) (rb : BitVec 6)
  /-- HFENCE (R274): Hold the HCP until its pushed commands complete and writes are performed. -/
  | hfence (ic : BitVec 2) (sc : Scope)
  /-- HWAIT (R275): Hold the HCP until the named tags are not BUSY. -/
  | hwait (ic : BitVec 2) (ra : BitVec 6)
  /-- HPOST (R276): Release and add to a post slot count. -/
  | hpost (ic : BitVec 2) (sc : Scope) (ra : BitVec 6) (rb : BitVec 6)
  /-- HPOST_ERR (R276): Post and also write the slot's error word. -/
  | hpostErr (ic : BitVec 2) (sc : Scope) (ra : BitVec 6) (rb : BitVec 6)
  /-- HSTAT (R275): Read a tag's status word. -/
  | hstat (ic : BitVec 2) (rd : BitVec 6) (ra : BitVec 6)
  /-- V_NOP (R133): V-stream no operation occupying the vector unit one cycle. -/
  | vNop (w : VWord)
  /-- VADD (R118): Lane-wise addition over a row sweep. -/
  | vadd (w : VWord)
  /-- VSUB (R118): Lane-wise subtraction. -/
  | vsub (w : VWord)
  /-- VMUL (R118): Lane-wise multiplication. -/
  | vmul (w : VWord)
  /-- VFMA (R118): Lane-wise fused multiply-add into the destination. -/
  | vfma (w : VWord)
  /-- VMIN (R118): Lane-wise minimum. -/
  | vmin (w : VWord)
  /-- VMAX (R118): Lane-wise maximum. -/
  | vmax (w : VWord)
  /-- VABS (R118): Lane-wise absolute value. -/
  | vabs (w : VWord)
  /-- VNEG (R118): Lane-wise negation. -/
  | vneg (w : VWord)
  /-- VEXP2 (R120): Correctly rounded base-2 exponential. -/
  | vexp2 (w : VWord)
  /-- VLOG2 (R120): Correctly rounded base-2 logarithm. -/
  | vlog2 (w : VWord)
  /-- VRCP (R120): Correctly rounded reciprocal. -/
  | vrcp (w : VWord)
  /-- VRSQ (R120): Correctly rounded reciprocal square root. -/
  | vrsq (w : VWord)
  /-- VSQRT (R120): Correctly rounded square root. -/
  | vsqrt (w : VWord)
  /-- VCMP_EQ (R122): Compare equal into predicates. -/
  | vcmpEq (w : VWord)
  /-- VCMP_NE (R122): Compare not equal into predicates. -/
  | vcmpNe (w : VWord)
  /-- VCMP_LT (R122): Compare less than into predicates. -/
  | vcmpLt (w : VWord)
  /-- VCMP_LE (R122): Compare less or equal into predicates. -/
  | vcmpLe (w : VWord)
  /-- VCMP_GT (R122): Compare greater than into predicates. -/
  | vcmpGt (w : VWord)
  /-- VCMP_GE (R122): Compare greater or equal into predicates. -/
  | vcmpGe (w : VWord)
  /-- VCMP_UN (R122): Compare unordered into predicates. -/
  | vcmpUn (w : VWord)
  /-- VSEL (R123): Select lanes from two sources by predicate. -/
  | vsel (w : VWord)
  /-- VCVT (R124): Convert lanes between formats, or pack block-scaled formats. -/
  | vcvt (w : VWord)
  /-- VSCALE (R126): Propose a CB4 band scale from a band's largest magnitude. -/
  | vscale (w : VWord)
  /-- VAND (R127): Lane-wise bitwise AND. -/
  | vand (w : VWord)
  /-- VOR (R127): Lane-wise bitwise OR. -/
  | vor (w : VWord)
  /-- VXOR (R127): Lane-wise bitwise XOR. -/
  | vxor (w : VWord)
  /-- VNOT (R127): Lane-wise bitwise NOT. -/
  | vnot (w : VWord)
  /-- VSHL (R127): Lane-wise saturating left shift. -/
  | vshl (w : VWord)
  /-- VSHR (R127): Lane-wise logical right shift. -/
  | vshr (w : VWord)
  /-- VSRA (R127): Lane-wise arithmetic right shift. -/
  | vsra (w : VWord)
  /-- VPOPC (R127): Lane-wise population count. -/
  | vpopc (w : VWord)
  /-- VCLZ (R127): Lane-wise count of leading zeros. -/
  | vclz (w : VWord)
  /-- VMULH (R127): Lane-wise high half of the product. -/
  | vmulh (w : VWord)
  /-- VPERM (R128): Permute lanes by an index row. -/
  | vperm (w : VWord)
  /-- VBCAST (R128): Broadcast one lane to all lanes. -/
  | vbcast (w : VWord)
  /-- VIOTA (R128): Write an arithmetic sequence of lane values. -/
  | viota (w : VWord)
  /-- VROT (R128): Rotate lanes by an immediate. -/
  | vrot (w : VWord)
  /-- VCOMP (R128): Compact active lanes to the low lanes. -/
  | vcomp (w : VWord)
  /-- VMOV (R128): Copy lanes, with optional negate or absolute value. -/
  | vmov (w : VWord)
  /-- VRSUM (R129): Pairwise-tree sum of a row's active lanes. -/
  | vrsum (w : VWord)
  /-- VRMAX (R129): Tree maximum of a row's active lanes. -/
  | vrmax (w : VWord)
  /-- VRMIN (R129): Tree minimum of a row's active lanes. -/
  | vrmin (w : VWord)
  /-- VSCAN (R130): Serial running sum across lanes. -/
  | vscan (w : VWord)
  /-- VSCANMAX (R130): Serial running maximum across lanes. -/
  | vscanmax (w : VWord)
  /-- PAND (R131): Predicate AND. -/
  | pand (w : VWord)
  /-- POR (R131): Predicate OR. -/
  | por (w : VWord)
  /-- PXOR (R131): Predicate XOR. -/
  | pxor (w : VWord)
  /-- PNOT (R131): Predicate NOT. -/
  | pnot (w : VWord)
  /-- VLD (R197): Load 512-byte rows from popped memory addresses at a landing offset, reporting residency. -/
  | vld (w : VWord)
  /-- VST (R198): Store the active lanes of rows to popped memory addresses. -/
  | vst (w : VWord)
  /-- VLDS (R200): Load scratchpad rows into vector rows or queues. -/
  | vlds (w : VWord)
  /-- VSTS (R200): Store the active lanes of rows to scratchpad. -/
  | vsts (w : VWord)
  /-- VDRAW (R160): Tempered draw over logit rows, one draw pair per step. -/
  | vdraw (w : VWord)
  /-- VDMRG (R162): Lane-wise merge of two draw pairs. -/
  | vdmrg (w : VWord)
  /-- DTREE (R165): Merge draw pairs through the installed topology table. -/
  | dtree (w : VWord)
  /-- VMARK_FULL (R132): Set a tile's bit to full, keeping it on the vector side. -/
  | vmarkFull (w : VWord)
  /-- VMARK_EMPTY (R132): Set a tile's bit to empty, handing it to the M-stream. -/
  | vmarkEmpty (w : VWord)
  /-- VEXIT (R133): End the V-stream task body after earlier words deliver. -/
  | vexit (w : VWord)
  /-- M_NOP (R154): M-stream no operation. -/
  | mNop (w : MWord)
  /-- MMA (R145): Issue a word of tile steps multiplying A and B into an accumulator tile. -/
  | mma (w : MWord)
  /-- MMAG (R146): Tile steps with a gather list and optional scatter list. -/
  | mmag (w : MWord)
  /-- MZERO (R147): Zero a tile and clear its rows' poison bits. -/
  | mzero (w : MWord)
  /-- MTYPE (R147): Set a tile's type register. -/
  | mtype (w : MWord)
  /-- MLDB_SPAD (R148): Load an operand register from scratchpad without conversion. -/
  | mldbSpad (w : MWord)
  /-- MLDB_ACC (R148): Load an operand register by converting accumulator rows. -/
  | mldbAcc (w : MWord)
  /-- MSTA (R149): Drain accumulator rows into scratchpad with conversion. -/
  | msta (w : MWord)
  /-- MSET (R150): Write an m register from an immediate. -/
  | mset (w : MWord)
  /-- MQPOP (R150): Pop a q0-q3 entry into an m register pair. -/
  | mqpop (w : MWord)
  /-- MWALK (R152): Start the loop-nest walker from a TOPB. -/
  | mwalk (w : MWord)
  /-- MWRES (R153): Continue a suspended walk, or act as a NOP. -/
  | mwres (w : MWord)
  /-- MFULL (R151): Set a tile's bit to full, handing it to the V-stream. -/
  | mfull (w : MWord)
  /-- MEMPTY (R151): Hold until a tile's bit is empty. -/
  | mempty (w : MWord)
  /-- MWAIT (R151): Hold until earlier M-words (optionally masked by tile) complete. -/
  | mwait (w : MWord)
  /-- MDRAW (R168): Draw one index from accumulator rows and write it to a list entry. -/
  | mdraw (w : MWord)
  /-- MBEAT (R304): Enter a beat-mode run after admission checks. -/
  | mbeat (w : MWord)
  /-- MBEND (R314): End the standing beat run at the next slot. -/
  | mbend (w : MWord)
  /-- MLOOK (R314): Set the beat lookahead LOOK. -/
  | mlook (w : MWord)
  /-- MEXIT (R154): End the M-stream task body after earlier words complete. -/
  | mexit (w : MWord)
  /-- S_WORD_RESULT (R96): A word's register result is written in its result cycle. -/
  | sWordResult (a : Agent)
  /-- VECTOR_SWEEP_STEP (R116): One sweep step of a V-word reads its sources and pops its queue entries. -/
  | vectorSweepStep (mdw fl : Nat)
  /-- VECTOR_STEP_RESULT (R116): A V-word step writes its row or predicate or pushes its entry in its result cycle. -/
  | vectorStepResult (mdw fl st : Nat)
  /-- LOAD_DATA_ARRIVAL (R190): A load's data arrives and waits in the landing buffer. -/
  | loadDataArrival (mdw ctx id : Nat)
  /-- LOAD_LANDING (R190): A load writes its landed value in MTC cycle lambda. -/
  | loadLanding (mdw ctx id : Nat)
  /-- LATE_LANDING_FREEZE (R190): MTC reaches lambda with the data not arrived, and the meadow freezes until it arrives. -/
  | lateLandingFreeze (mdw : Nat)
  /-- TILE_STEP_ISSUE (R140): One tile step of a tile-step word issues on the array. -/
  | tileStepIssue (mdw : Nat)
  /-- TILE_STEP_RESULT (R140): A tile step writes its whole result into the tile, optionally marking it full. -/
  | tileStepResult (mdw id : Nat)
  /-- MLDB_COMPLETE (R148): An MLDB finishes with rows, tag and scales in place. -/
  | mldbComplete (mdw id : Nat)
  /-- MSTA_COMPLETE (R149): An MSTA finishes writing its drained rows. -/
  | mstaComplete (mdw id : Nat)
  /-- MDRAW_COMPLETE (R168): MDRAW writes its index and list entry. -/
  | mdrawComplete (mdw id : Nat)
  /-- DTOPO_COMPLETE (R164): DTOPO's table reads finish and the table is checked and installed. -/
  | dtopoComplete (mdw ctx : Nat)
  /-- BUFFER_DRAIN_EMPTY (R184): A DRAINING buffer with no stream-engine read in flight becomes EMPTY. -/
  | bufferDrainEmpty (mdw buf : Nat)
  /-- SE_PATTERN (R206): A PATTERN command at the head of a context's queue starts, after any counter wait. -/
  | sePattern (mdw ctx : Nat)
  /-- SE_GATHER (R206): A GATHER command starts, reading rows through an index list. -/
  | seGather (mdw ctx : Nat)
  /-- SE_SCATTER (R206): A SCATTER command starts, writing rows through an index list. -/
  | seScatter (mdw ctx : Nat)
  /-- SE_SYNC (R206): A SYNC command starts; it moves nothing and only waits and posts. -/
  | seSync (mdw ctx : Nat)
  /-- SE_GRANULE_MOVE (R206): The stream engine moves one 64-byte granule of a command. -/
  | seGranuleMove (mdw ctx : Nat)
  /-- SE_COMMAND_COMPLETE (R206): A command completes: counter post, LAST event, result entry and NOTIFY. -/
  | seCommandComplete (mdw ctx : Nat)
  /-- SE_CHAIN_FETCH (R210): A chain token fetches its next 64-byte entry. -/
  | seChainFetch (mdw ctx : Nat)
  /-- USER_INTERRUPT_ENTRY (R244): A pending notification enters the user-interrupt handler at a word boundary. -/
  | userInterruptEntry (mdw ctx : Nat)
  /-- SYNC_REQUEST_APPLY (R230): A sync engine applies an arrived operation to a line in its cycle. -/
  | syncRequestApply (die : Nat)
  /-- SYNC_ANSWER_ARRIVAL (R396): An engine's answer or returned value reaches the meadow. -/
  | syncAnswerArrival (mdw ctx id : Nat)
  /-- BOUNDED_WAIT_EXPIRY (R237): A SEMW, WAITQ or BARW limit passes without its condition holding. -/
  | boundedWaitExpiry (die id : Nat)
  /-- BDWAIT_LIMIT_EXPIRY (R309): A BDWAIT limit passes without its condition holding and traps with BDWAIT_EXPIRED. -/
  | bdwaitLimitExpiry (mdw id : Nat)
  /-- HEATH_COMMAND_START (R262): A handed-on heath command begins on its engines in push order. -/
  | heathCommandStart (id : Nat)
  /-- HEATH_COMMAND_COMPLETE (R265): A heath command completes, sets its tag status and posts. -/
  | heathCommandComplete (id : Nat)
  /-- ARBITER_SLOT (R254): A base-die arbiter gives each bus of a pseudo-channel to one command per 0.5 ns slot. -/
  | arbiterSlot (pc : Nat)
  /-- ACTIVATE_PROMOTION (R254): A heath activate waiting 256 slots is promoted. -/
  | activatePromotion (pc id : Nat)
  /-- LEASE_EXPIRY (R255): A row lease reaches its column or time limit and ownership passes. -/
  | leaseExpiry (pc bank : Nat)
  /-- REFRESH_DUE (R255): A due refresh ends any lease and is sent first. -/
  | refreshDue (pc bank : Nat)
  /-- LANDING_CONTRIBUTION (R268): A Favex landing-contribution packet arrives and is combined into its tree. -/
  | landingContribution (p : FavexPacket)
  /-- GTC_SYNC_FLIT (R392): A GTC-sync flit arrives and loads GTC with V + D. -/
  | gtcSyncFlit (port : Nat) (v d : BitVec 64)
  /-- FAVEX_PORT_FAILURE (R384): No flit arrives on a Favex port for 1 ms; the port is declared failed, LINK_FAIL logged and traffic rerouted. -/
  | favexPortFailure (port : Nat)
  /-- LQDB (R343): Write of a launch-queue doorbell releases the core's stores and makes the unit examine the queue. -/
  | lqdb (v : BitVec 64)
  /-- LAUNCH_RECORD_START (R285): A launch record whose conditions hold is checked and started, placing regions or kernels. -/
  | launchRecordStart (q slot : Nat)
  /-- LAUNCH_COMPLETION (R288): Work completes; the completion record is written, POST posted and LQDONE set. -/
  | launchCompletion (id : Nat)
  /-- TASK_START (R291): The scheduler starts a chosen stage task on a free context. -/
  | taskStart (mdw ctx stage : Nat)
  /-- TASK_END (R291): A task ends, freeing its input slot and committing its output. -/
  | taskEnd (mdw ctx : Nat)
  /-- CONTEXT_PROMOTION (R293): A context's ready head word waits LIMIT x 256 cycles and is promoted. -/
  | contextPromotion (mdw ctx : Nat) (u : IssueUnit)
  /-- TURN_TIMEOUT (R294): A timed-region turn holder not ready for LIMIT x 256 cycles loses the turn. -/
  | turnTimeout (mdw : Nat) (u : IssueUnit)
  /-- ENERGY_CHARGE (R296): Every 4,096 cycles meters are charged to budgets, dropping classes at exhaustion. -/
  | energyCharge
  /-- POWER_COMPARE (R297): Every 14,000 cycles package power is compared and THRESH adjusted. -/
  | powerCompare
  /-- PREEMPTION (R300): A meadow is stopped, drained and saved to its context area. -/
  | preemption (mdw : Nat)
  /-- PREEMPT_STUCK (R300): A load not arrived within 2^20 cycles during pre-emption stops the fault domain. -/
  | preemptStuck (mdw : Nat)
  /-- RESUMPTION (R301): A pre-empted region resumes on its meadows from saved state. -/
  | resumption (region : Nat)
  /-- BEAT_SLOT_START (R310): A beat slot begins and the sequencer runs, skips or stalls the next beat. -/
  | beatSlotStart (mdw : Nat)
  /-- BEAT_DRAIN (R311): A draining beat's tile rows are converted and written through the drain entry. -/
  | beatDrain (mdw row : Nat)
  /-- BEAT_RUN_END (R313): A beat run ends, setting the tile full and releasing the power reservation. -/
  | beatRunEnd (mdw : Nat)
  /-- HASP_TOUCH (R323): A hasp-task access reaches its engine and is judged against the set's owner. -/
  | haspTouch (die id : Nat)
  /-- HASP_ROLLBACK (R326): A rolled-back task restores its registers once its loads land and restarts. -/
  | haspRollback (mdw ctx : Nat)
  /-- TRAP_ENTRY (R373): After issued words complete, trap registers are written and the handler entered. -/
  | trapEntry (mdw ctx : Nat)
  /-- FAULT_DOMAIN_STOP (R359): The stopped node's regions and kernels are stopped and completed with FAULTED or KILLED. -/
  | faultDomainStop (node cause : Nat) (fctx fval : BitVec 64) (killed : Bool)
  /-- IBUF_PARITY (R376): An instruction-buffer parity error discards and refetches the line. -/
  | ibufParity (mdw ctx : Nat) (st : StreamId)
  /-- HRQDB (R390): Host writes the HRQ doorbell, and the core reads the new host entries. -/
  | hrqdb (v : BitVec 64)
  /-- HRQ_ANSWER (R355): A host answer completes or refuses a flip to the device and answers page requests. -/
  | hrqAnswer (seq : Nat) (status frame : BitVec 64)
  /-- HRQ_RECLAIM (R356): A host request starts a flip to the host, setting OWN to 0. -/
  | hrqReclaim (image : BitVec 64) (entry : Nat)
  /-- RECLAIM_COMPLETE (R356): Earlier accesses are performed and lines written back, and RECLAIMED is appended. -/
  | reclaimComplete (id : Nat)
  /-- PAGE_REQUEST_TIMEOUT (R357): A host gives no answer within 2^31 cycles and the request fails. -/
  | pageRequestTimeout (seq : Nat)
  /-- APERTURE_ACCESS (R386): A host access through BAR2 reaches device memory at SYS. -/
  | apertureAccess (write : Bool) (off : BitVec 64) (size : Nat) (data : BitVec 512)
  /-- BOOTCFG (R388): Write of boot configuration, honoured only before reset step 5. -/
  | bootcfg (v : BitVec 64)
  /-- LQREGH (R389): Write of the high half of a launch-queue registration, held until LQREGL. -/
  | lqregh (q : Nat) (v : BitVec 64)
  /-- LQREGL (R389): Write of the low half commits a launch-queue registration. -/
  | lqregl (q : Nat) (v : BitVec 64)
  /-- MCIRQ (R343): Write-one-to-clear of management interrupt bits. -/
  | mcirq (v : BitVec 64)
  /-- SECSTAT (R367): Write clearing source bits or lowering alarm level 1 with CLR1. -/
  | secstat (v : BitVec 64)
  /-- SECCFG (R367): Write of alarm levels and lock, ignored once locked. -/
  | seccfg (v : BitVec 64)
  /-- NRCTL (R258): Write of neighbour-refresh control; setting SEEDED restarts the activate count. -/
  | nrctl (stack : Nat) (v : BitVec 64)
  /-- REGISTER_WRITE (R388): Write of a management-window register that has no behaviour of its own. -/
  | registerWrite (byM : Bool) (off : Nat) (v : BitVec 64)
  /-- ALARM_RAISE (R366): A tamper, debug, attestation or firmware source raises the security alarm. -/
  | alarmRaise (src : AlarmSource)
  /-- DEBUG_ACCESS (R393): A debug access to the dies, admitted with a certificate or treated as misuse. -/
  | debugAccess (cert : Nat)
  /-- FIRMWARE_UPDATE (R364): An image written through the management window is verified. -/
  | firmwareUpdate (image : Nat)
  /-- ATTESTATION_REPORT (R365): A requested attestation report is signed with the per-boot key. -/
  | attestationReport (nonce : BitVec 256)
  /-- POWER_ON_RESET (R394): Power-on or PERST# runs the reset sequence from step 1. -/
  | powerOnReset
  /-- GEN_ITERATION_ISSUE (R342): Firmware writes an iteration record and batch launch record and rings LQDB. -/
  | genIterationIssue
  /-- GEN_COMMIT (R344): After batch completion the firmware accepts drafts and commits tokens to output rings. -/
  | genCommit
  /-- SEQUENCE_ADD (R346): A host ADD request writes a sequence table entry. -/
  | sequenceAdd (image : BitVec 1024)
  /-- SEQUENCE_CANCEL (R346): A host CANCEL request frees a sequence entry. -/
  | sequenceCancel (seqid : BitVec 32)
  /-- HCP_LOAD_ARRIVAL (R252): The data of an HCP load arrives after its variable latency, releasing the held HCP or ending the kernel POISONED. -/
  | hcpLoadArrival (h : Nat)
  /-- FAULT_DOMAIN_STOP_CLEAR (R359): The management core clears a fault-domain stop, after which records naming RCBs under the node are no longer refused with FAULTED. -/
  | faultDomainStopClear (node : Nat)
  deriving DecidableEq, Repr

end Sys2Proof
end

