-- ==== Sys2Proof/Decode.lean ====
section
/-! DEFINITION. The decoder, total on any bytes, and the encoder.
A word is refused with one of the causes 0x01-0x07 of R50 and the bit position that TVAL receives (R51). The checks here are
those that read the word alone; the checks that read registers, grants or memory stand with the meanings. -/
namespace Sys2Proof

/-! ## Refusals -/

/-- The causes a word alone can violate, with their codes 0x01-0x07 (R50). -/
inductive RejCause | resOpcode | resFunc | resEtype | resRound | resKind | resBit | resOperand
  deriving DecidableEq, Repr

/-- The code of R50. -/
def RejCause.code : RejCause → Nat
  | .resOpcode => 1 | .resFunc => 2 | .resEtype => 3 | .resRound => 4 | .resKind => 5 | .resBit => 6 | .resOperand => 7

/-- Why a word is no instruction: the cause and the highest bit of the first offending field (R51). -/
structure Reject where
  cause : RejCause
  bit : Nat
  deriving DecidableEq, Repr

/-- Which of two violations R51 reports: the lower code, then the field nearer the top of the word. DEDUCED (log entry 20):
fields are taken from the high bit down. -/
def Reject.before (a b : Reject) : Bool :=
  a.cause.code < b.cause.code || (a.cause.code == b.cause.code && b.bit ≤ a.bit)

-- DEDUCED, unsafe: log entry 20.
/-- The violation that R51 reports of several. -/
def worst : List Reject → Option Reject
  | [] => none
  | r :: rs => match worst rs with
    | none => some r
    | some q => if r.before q then some r else some q

/-- One violation when a condition holds. -/
def viol (c : Bool) (k : RejCause) (b : Nat) : List Reject := if c then [⟨k, b⟩] else []

/-! ## Element types -/

/-- Types by their code (R31). -/
def ElemType.ofCode (c : BitVec 4) : ElemType :=
  match c.toNat with
  | 0 => .f32 | 1 => .bf16 | 2 => .f16 | 3 => .e4m3 | 4 => .e5m2 | 5 => .cb4 | 6 => .mx4 | 7 => .mx8
  | 8 => .i8 | 9 => .i16 | 10 => .i32 | 11 => .i64 | 12 => .n8 | 13 => .n16 | 14 => .n32 | _ => .n64

/-- The code of a type (R31). -/
def ElemType.code : ElemType → BitVec 4
  | .f32 => 0 | .bf16 => 1 | .f16 => 2 | .e4m3 => 3 | .e5m2 => 4 | .cb4 => 5 | .mx4 => 6 | .mx8 => 7
  | .i8 => 8 | .i16 => 9 | .i32 => 10 | .i64 => 11 | .n8 => 12 | .n16 => 13 | .n32 => 14 | .n64 => 15

/-- width(T) of R31. -/
def ElemType.width : ElemType → Nat
  | .f32 | .i32 | .n32 => 32
  | .bf16 | .f16 | .i16 | .n16 => 16
  | .e4m3 | .e5m2 | .mx8 | .i8 | .n8 => 8
  | .cb4 | .mx4 => 4
  | .i64 | .n64 => 64

/-- Lanes of one step's operand (R39, R112): a 64-bit type has 128 lanes in a pair of rows. -/
def ElemType.lanes (t : ElemType) : Nat := if t.width = 64 then 128 else 4096 / t.width

/-- The classes of R117. -/
inductive TypeClass | F | E | I | W | B
  deriving DecidableEq, Repr

def ElemType.cls : ElemType → TypeClass
  | .f32 | .bf16 | .f16 => .F
  | .e4m3 | .e5m2 => .E
  | .i8 | .i16 | .i32 | .n8 | .n16 | .n32 => .I
  | .i64 | .n64 => .W
  | .cb4 | .mx4 | .mx8 => .B

/-- A 64-bit type, whose operands are pairs of rows (R34). -/
def ElemType.wide (t : ElemType) : Bool := t.width == 64

/-- A two's-complement type (.i). -/
def ElemType.signed : ElemType → Bool
  | .i8 | .i16 | .i32 | .i64 => true
  | _ => false

def Round.ofCode (c : BitVec 3) : Round :=
  match c.toNat with | 0 => .rne | 1 => .rz | 2 => .rd | 3 => .ru | _ => .sr
def Round.code : Round → BitVec 3
  | .rne => 0 | .rz => 1 | .rd => 2 | .ru => 3 | .sr => 4

def Scope.ofCode (c : BitVec 3) : Scope :=
  match c.toNat with | 0 => .ctx | 1 => .mdw | 2 => .die | 3 => .stk | 4 => .pkg | _ => .sys
def Scope.code : Scope → BitVec 3
  | .ctx => 0 | .mdw => 1 | .die => 2 | .stk => 3 | .pkg => 4 | .sys => 5

def FredType.ofCode (c : BitVec 2) : FredType :=
  match c.toNat with | 0 => .f32 | 1 => .bf16 | _ => .f16
def FredType.code : FredType → BitVec 2
  | .f32 => 0 | .bf16 => 1 | .f16 => 2

def StampMode.ofCode (c : BitVec 2) : StampMode :=
  match c.toNat with | 0 => .none | 1 => .absolute | _ => .relative
def StampMode.code : StampMode → BitVec 2
  | .none => 0 | .absolute => 1 | .relative => 2

/-! ## S-words and heath words (R28, R43-R47) -/

def sMajor (w : W32) : BitVec 6 := w.extractLsb' 24 6
def sIc (w : W32) : BitVec 2 := w.extractLsb' 30 2
def sRd (w : W32) : BitVec 6 := w.extractLsb' 18 6
def sRa (w : W32) : BitVec 6 := w.extractLsb' 12 6
def sRb (w : W32) : BitVec 6 := w.extractLsb' 6 6
def sFunc (w : W32) : BitVec 6 := w.extractLsb' 0 6
def sImm12 (w : W32) : BitVec 12 := w.extractLsb' 0 12
def sImm18 (w : W32) : BitVec 18 := w.extractLsb' 0 18

/-- How an instruction reads a 6-bit register field (R29, R46, R47, R104, R207, R239, R276). -/
inductive FieldUse
  | scalar | pair | unused | queue | scope | shadow
  /-- [2:0] scope, [3] selects the form, [5:4] zero -/
  | scopeSel
  /-- [2:0] scope, [4:3] SEGO's mode, [5] zero -/
  | sego
  /-- BSTATE's rd: 0 or 1 -/
  | bstate
  /-- type and scope of an atomic or reduction; of FRED -/
  | atom | fred
  deriving DecidableEq, Repr

/-- The violations of one register field whose top bit is `top`. -/
def fieldViol (u : FieldUse) (top : Nat) (v : BitVec 6) : List Reject :=
  let lo3 := v.toNat % 8
  let hi3 := v.toNat / 8
  match u with
  | .scalar => []
  | .pair => viol (v.toNat % 2 == 1) .resOperand top
  | .unused => viol (v != 0) .resBit top
  | .queue => viol (4 ≤ lo3) .resKind top ++ viol (hi3 != 0) .resBit top
  | .scope => viol (6 ≤ lo3) .resKind (top - 3) ++ viol (hi3 != 0) .resBit top
  | .shadow => viol (hi3 != 0) .resBit top
  | .scopeSel => viol (6 ≤ lo3) .resKind (top - 3) ++ viol (2 ≤ hi3) .resBit top
  | .sego => viol (6 ≤ lo3) .resKind (top - 3) ++ viol (hi3 % 4 == 3) .resKind (top - 1) ++ viol (4 ≤ hi3) .resBit top
  | .bstate => viol (2 ≤ v.toNat) .resOperand top
  | .atom => viol (6 ≤ lo3) .resKind (top - 3) ++ viol (4 ≤ hi3) .resBit top
  | .fred => viol (6 ≤ lo3) .resKind (top - 3) ++ viol (hi3 % 4 == 3) .resEtype (top - 1) ++ viol (4 ≤ hi3) .resBit top

/-- How the low twelve bits of an immediate-form word are read. -/
inductive ImmUse | any | unused | shift
  deriving DecidableEq, Repr

/-- The shape of an S-word by its major and func (R28). -/
inductive SShape
  | reg (rd ra rb : FieldUse)
  /-- a register form whose rb must be even when rd bit 3 is set (64-bit ATOM and RED), or even and a multiple of 4 (ACAS) -/
  | atom (cas : Bool)
  | imm (rd ra : FieldUse) (i : ImmUse)
  | upper
  | fence
  | afence
  deriving DecidableEq, Repr

/-- The violations of an S-word of a given shape. -/
def shapeViol (sh : SShape) (w : W32) : List Reject :=
  match sh with
  | .reg d a b => fieldViol d 23 (sRd w) ++ fieldViol a 17 (sRa w) ++ fieldViol b 11 (sRb w)
  | .atom cas =>
    let wide := (sRd w).getLsbD 3
    fieldViol .atom 23 (sRd w) ++ fieldViol .pair 17 (sRa w) ++
      viol ((wide || cas) && (sRb w).toNat % (if wide && cas then 4 else 2) != 0) .resOperand 11
  | .imm d a i => fieldViol d 23 (sRd w) ++ fieldViol a 17 (sRa w) ++
      (match i with
       | .any => []
       | .unused => viol (sImm12 w != 0) .resBit 11
       | .shift => viol (32 ≤ (sImm12 w).toNat) .resOperand 11)
  | .upper => []
  | .fence => fieldViol .unused 23 (sRd w) ++ fieldViol .unused 17 (sRa w) ++
      viol (w.extractLsb' 7 5 != 0) .resBit 11 ++ viol (6 ≤ w.toNat % 8) .resKind 2
  | .afence => fieldViol .unused 23 (sRd w) ++ fieldViol .pair 17 (sRa w) ++
      viol (w.extractLsb' 3 9 != 0) .resBit 11 ++ viol (6 ≤ w.toNat % 8) .resKind 2

/-- The pair number of an even register field (R29). -/
def pairOf (v : BitVec 6) : BitVec 5 := v.extractLsb' 1 5

/-- The shape of each assigned major and func (R43-R45, R261); none for a reserved one. -/
def sShape (major func : Nat) : Option SShape :=
  match major with
  | 0x01 => match func with
    | 0x00 | 0x01 | 0x02 | 0x03 | 0x04 | 0x05 | 0x06 | 0x07 | 0x08 | 0x09 | 0x0A | 0x0B | 0x0C | 0x0D | 0x0E | 0x0F | 0x10 | 0x11 | 0x12 | 0x18 | 0x19 | 0x1A | 0x1B | 0x1C | 0x1D => some (.reg .scalar .scalar .scalar)
    | _ => none
  | 0x02 => match func with
    | 0x00 | 0x01 => some (.reg .pair .pair .pair)
    | 0x02 | 0x03 | 0x04 => some (.reg .pair .pair .scalar)
    | _ => none
  | 0x03 => some (.imm .scalar .scalar .any)
  | 0x04 => some (.imm .scalar .scalar .any)
  | 0x05 => some (.imm .scalar .scalar .any)
  | 0x06 => some (.imm .scalar .scalar .any)
  | 0x07 => some (.imm .scalar .scalar .shift)
  | 0x08 => some (.imm .scalar .scalar .shift)
  | 0x09 => some (.imm .scalar .scalar .shift)
  | 0x0A => some (.imm .scalar .scalar .any)
  | 0x0B => some (.imm .scalar .scalar .any)
  | 0x0C => some (.imm .pair .pair .any)
  | 0x0D => some (.upper)
  | 0x0E => some (.upper)
  | 0x0F => some (.imm .scalar .scalar .any)
  | 0x10 => some (.imm .scalar .scalar .any)
  | 0x11 => some (.imm .scalar .scalar .any)
  | 0x12 => some (.imm .scalar .scalar .any)
  | 0x13 => some (.imm .scalar .scalar .any)
  | 0x14 => some (.imm .scalar .scalar .any)
  | 0x15 => some (.imm .scalar .scalar .any)
  | 0x16 => some (.imm .scalar .scalar .any)
  | 0x17 => match func with
    | 0x00 => some (.reg .queue .pair .unused)
    | 0x01 | 0x02 => some (.reg .pair .queue .unused)
    | 0x08 => some (.reg .pair .unused .unused)
    | 0x09 => some (.reg .unused .pair .unused)
    | 0x3F => some (.reg .unused .unused .unused)
    | _ => none
  | 0x18 => some (.imm .unused .unused .any)
  | 0x19 => some (.imm .pair .unused .any)
  | 0x1A => some (.imm .unused .pair .any)
  | 0x20 => some (.imm .scalar .pair .any)
  | 0x21 => some (.imm .scalar .pair .any)
  | 0x22 => some (.imm .scalar .pair .any)
  | 0x23 => some (.imm .pair .pair .any)
  | 0x24 => some (.imm .scalar .pair .unused)
  | 0x25 => some (.imm .scalar .pair .unused)
  | 0x26 => some (.imm .scalar .pair .unused)
  | 0x27 => some (.imm .pair .pair .unused)
  | 0x28 => some (.imm .scalar .scalar .any)
  | 0x29 => some (.imm .scalar .scalar .unused)
  | 0x2A => match func with
    | 0x00 => some (.reg .scalar .pair .unused)
    | 0x01 => some (.reg .unused .pair .scalar)
    | 0x02 | 0x08 => some (.reg .unused .scalar .unused)
    | 0x09 => some (.reg .bstate .scalar .unused)
    | 0x0A => some (.reg .scalar .scalar .unused)
    | 0x10 => some (.reg .scalar .scalar .scalar)
    | _ => none
  | 0x2B => match func with
    | 0x00 => some (.reg .shadow .pair .unused)
    | 0x01 => some (.reg .sego .unused .unused)
    | 0x02 => some (.reg .pair .unused .unused)
    | 0x03 => some (.reg .scope .pair .unused)
    | 0x08 => some (.reg .unused .pair .scalar)
    | _ => none
  | 0x2C => some (.fence)
  | 0x2D => some (.afence)
  | 0x2E => match func with
    | 0x00 | 0x01 | 0x02 | 0x03 | 0x04 | 0x05 | 0x06 => some (.atom false)
    | _ => none
  | 0x2F => match func with
    | 0x00 => some (.atom true)
    | _ => none
  | 0x30 => match func with
    | 0x00 | 0x01 | 0x02 | 0x03 | 0x04 | 0x05 => some (.atom false)
    | _ => none
  | 0x31 => match func with
    | 0x00 | 0x04 | 0x05 => some (.reg .fred .pair .scalar)
    | _ => none
  | 0x32 => match func with
    | 0x00 => some (.reg .pair .unused .unused)
    | 0x08 | 0x0B | 0x0D | 0x11 => some (.reg .scope .pair .scalar)
    | 0x09 | 0x0A => some (.reg .scope .pair .unused)
    | 0x0C | 0x12 => some (.reg .scope .pair .pair)
    | 0x10 => some (.reg .scopeSel .pair .pair)
    | 0x18 => some (.reg .unused .scalar .unused)
    | 0x19 => some (.reg .unused .unused .unused)
    | 0x20 => some (.reg .scalar .pair .pair)
    | _ => none
  | 0x33 => match func with
    | 0x00 => some (.reg .unused .pair .scalar)
    | 0x01 => some (.reg .scalar .unused .unused)
    | 0x02 => some (.reg .unused .unused .unused)
    | 0x03 => some (.reg .unused .scalar .unused)
    | 0x04 => some (.reg .pair .unused .unused)
    | _ => none
  | 0x34 => match func with
    | 0x00 => some (.reg .unused .pair .scalar)
    | 0x01 => some (.reg .unused .pair .unused)
    | _ => none
  | 0x35 => match func with
    | 0x00 => some (.reg .scalar .pair .pair)
    | 0x01 => some (.reg .pair .scalar .scalar)
    | _ => none
  | 0x36 => match func with
    | 0x00 | 0x03 => some (.reg .unused .unused .unused)
    | 0x01 => some (.reg .unused .pair .unused)
    | 0x02 => some (.reg .unused .scalar .unused)
    | 0x04 => some (.reg .scalar .pair .unused)
    | 0x05 | 0x06 | 0x07 => some (.reg .scalar .pair .scalar)
    | _ => none
  | 0x3E => match func with
    | 0x00 | 0x01 | 0x02 | 0x03 | 0x04 | 0x05 => some (.reg .unused .pair .unused)
    | 0x08 => some (.reg .unused .pair .scalar)
    | 0x10 => some (.reg .scope .unused .unused)
    | 0x11 => some (.reg .unused .scalar .unused)
    | 0x12 => some (.reg .scopeSel .scalar .scalar)
    | 0x18 => some (.reg .scalar .scalar .unused)
    | _ => none
  | _ => none

/-- The register-form majors, whose reserved func traps with RES_FUNC (R44, R45). -/
def sRegMajor (major : Nat) : Bool :=
  [0x01, 0x02, 0x17, 0x2A, 0x2B, 0x2E, 0x2F, 0x30, 0x31, 0x32, 0x33, 0x34, 0x35, 0x36, 0x3E].contains major

-- DEDUCED, unsafe: log entry 20.
/-- The violations of an S-word (R43-R47, R51). -/
def sViol (w : W32) : List Reject :=
  match sShape (sMajor w).toNat (sFunc w).toNat with
  | none => if sRegMajor (sMajor w).toNat then [⟨.resFunc, 5⟩] else [⟨.resOpcode, 29⟩]
  | some sh => shapeViol sh w

/-- The instructions of major 0x01 by func. -/
def sBuild01 (w : W32) : Option Instr :=
  match (sFunc w).toNat with
  | 0x00 => some (.add (sIc w) (sRd w) (sRa w) (sRb w))
  | 0x01 => some (.sub (sIc w) (sRd w) (sRa w) (sRb w))
  | 0x02 => some (.and (sIc w) (sRd w) (sRa w) (sRb w))
  | 0x03 => some (.or (sIc w) (sRd w) (sRa w) (sRb w))
  | 0x04 => some (.xor (sIc w) (sRd w) (sRa w) (sRb w))
  | 0x05 => some (.shl (sIc w) (sRd w) (sRa w) (sRb w))
  | 0x06 => some (.shr (sIc w) (sRd w) (sRa w) (sRb w))
  | 0x07 => some (.sra (sIc w) (sRd w) (sRa w) (sRb w))
  | 0x08 => some (.mul (sIc w) (sRd w) (sRa w) (sRb w))
  | 0x09 => some (.mulh (sIc w) (sRd w) (sRa w) (sRb w))
  | 0x0A => some (.mulhu (sIc w) (sRd w) (sRa w) (sRb w))
  | 0x0B => some (.div (sIc w) (sRd w) (sRa w) (sRb w))
  | 0x0C => some (.divu (sIc w) (sRd w) (sRa w) (sRb w))
  | 0x0D => some (.rem (sIc w) (sRd w) (sRa w) (sRb w))
  | 0x0E => some (.remu (sIc w) (sRd w) (sRa w) (sRb w))
  | 0x0F => some (.min (sIc w) (sRd w) (sRa w) (sRb w))
  | 0x10 => some (.max (sIc w) (sRd w) (sRa w) (sRb w))
  | 0x11 => some (.minu (sIc w) (sRd w) (sRa w) (sRb w))
  | 0x12 => some (.maxu (sIc w) (sRd w) (sRa w) (sRb w))
  | 0x18 => some (.seq (sIc w) (sRd w) (sRa w) (sRb w))
  | 0x19 => some (.sne (sIc w) (sRd w) (sRa w) (sRb w))
  | 0x1A => some (.slt (sIc w) (sRd w) (sRa w) (sRb w))
  | 0x1B => some (.sltu (sIc w) (sRd w) (sRa w) (sRb w))
  | 0x1C => some (.sge (sIc w) (sRd w) (sRa w) (sRb w))
  | 0x1D => some (.sgeu (sIc w) (sRd w) (sRa w) (sRb w))
  | _ => none

/-- The instructions of major 0x02 by func. -/
def sBuild02 (w : W32) : Option Instr :=
  match (sFunc w).toNat with
  | 0x00 => some (.addd (sIc w) (pairOf (sRd w)) (pairOf (sRa w)) (pairOf (sRb w)))
  | 0x01 => some (.subd (sIc w) (pairOf (sRd w)) (pairOf (sRa w)) (pairOf (sRb w)))
  | 0x02 => some (.shld (sIc w) (pairOf (sRd w)) (pairOf (sRa w)) (sRb w))
  | 0x03 => some (.shrd (sIc w) (pairOf (sRd w)) (pairOf (sRa w)) (sRb w))
  | 0x04 => some (.srad (sIc w) (pairOf (sRd w)) (pairOf (sRa w)) (sRb w))
  | _ => none

/-- The instructions of major 0x17 by func. -/
def sBuild17 (w : W32) : Option Instr :=
  match (sFunc w).toNat with
  | 0x00 => some (.qpush (sIc w) ((sRd w).extractLsb' 0 2) (pairOf (sRa w)))
  | 0x01 => some (.qpop (sIc w) (pairOf (sRd w)) ((sRa w).extractLsb' 0 2))
  | 0x02 => some (.qpeek (sIc w) (pairOf (sRd w)) ((sRa w).extractLsb' 0 2))
  | 0x08 => some (.gtcr (sIc w) (pairOf (sRd w)))
  | 0x09 => some (.waitg (sIc w) (pairOf (sRa w)))
  | 0x3F => some (.exit (sIc w))
  | _ => none

/-- The instructions of major 0x2A by func. -/
def sBuild2A (w : W32) : Option Instr :=
  match (sFunc w).toNat with
  | 0x00 => some (.tlook (sIc w) (sRd w) (pairOf (sRa w)))
  | 0x01 => some (.tset (sIc w) (pairOf (sRa w)) (sRb w))
  | 0x02 => some (.tinv (sIc w) (sRa w))
  | 0x08 => some (.bdecl (sIc w) (sRa w))
  | 0x09 => if (sRd w) = 0 then some (.bstateFull (sIc w) (sRa w)) else some (.bstateDrain (sIc w) (sRa w))
  | 0x0A => some (.bquery (sIc w) (sRd w) (sRa w))
  | 0x10 => some (.sbfw (sIc w) (sRd w) (sRa w) (sRb w))
  | _ => none

/-- The instructions of major 0x2B by func. -/
def sBuild2B (w : W32) : Option Instr :=
  match (sFunc w).toNat with
  | 0x00 => some (.sew (sIc w) ((sRd w).extractLsb' 0 3) (pairOf (sRa w)))
  | 0x01 => match ((sRd w).extractLsb' 3 2).toNat with
      | 0 => some (.sego (sIc w) (Scope.ofCode ((sRd w).extractLsb' 0 3)))
      | 1 => some (.segoResume (sIc w) (Scope.ofCode ((sRd w).extractLsb' 0 3)))
      | _ => some (.segoDrop (sIc w) (Scope.ofCode ((sRd w).extractLsb' 0 3)))
  | 0x02 => some (.sepop (sIc w) (pairOf (sRd w)))
  | 0x03 => some (.sechain (sIc w) (Scope.ofCode ((sRd w).extractLsb' 0 3)) (pairOf (sRa w)))
  | 0x08 => some (.rqpage (sIc w) (pairOf (sRa w)) (sRb w))
  | _ => none

/-- The instructions of major 0x2E by func. -/
def sBuild2E (w : W32) : Option Instr :=
  match (sFunc w).toNat with
  | 0x00 => some (.atomAdd (sIc w) ((sRd w).getLsbD 4) ((sRd w).getLsbD 3) (Scope.ofCode ((sRd w).extractLsb' 0 3)) (pairOf (sRa w)) (sRb w))
  | 0x01 => some (.atomAnd (sIc w) ((sRd w).getLsbD 4) ((sRd w).getLsbD 3) (Scope.ofCode ((sRd w).extractLsb' 0 3)) (pairOf (sRa w)) (sRb w))
  | 0x02 => some (.atomOr (sIc w) ((sRd w).getLsbD 4) ((sRd w).getLsbD 3) (Scope.ofCode ((sRd w).extractLsb' 0 3)) (pairOf (sRa w)) (sRb w))
  | 0x03 => some (.atomXor (sIc w) ((sRd w).getLsbD 4) ((sRd w).getLsbD 3) (Scope.ofCode ((sRd w).extractLsb' 0 3)) (pairOf (sRa w)) (sRb w))
  | 0x04 => some (.atomMin (sIc w) ((sRd w).getLsbD 4) ((sRd w).getLsbD 3) (Scope.ofCode ((sRd w).extractLsb' 0 3)) (pairOf (sRa w)) (sRb w))
  | 0x05 => some (.atomMax (sIc w) ((sRd w).getLsbD 4) ((sRd w).getLsbD 3) (Scope.ofCode ((sRd w).extractLsb' 0 3)) (pairOf (sRa w)) (sRb w))
  | 0x06 => some (.atomSwap (sIc w) ((sRd w).getLsbD 4) ((sRd w).getLsbD 3) (Scope.ofCode ((sRd w).extractLsb' 0 3)) (pairOf (sRa w)) (sRb w))
  | _ => none

/-- The instructions of major 0x2F by func. -/
def sBuild2F (w : W32) : Option Instr :=
  match (sFunc w).toNat with
  | 0x00 => some (.acas (sIc w) ((sRd w).getLsbD 4) ((sRd w).getLsbD 3) (Scope.ofCode ((sRd w).extractLsb' 0 3)) (pairOf (sRa w)) (sRb w))
  | _ => none

/-- The instructions of major 0x30 by func. -/
def sBuild30 (w : W32) : Option Instr :=
  match (sFunc w).toNat with
  | 0x00 => some (.redAdd (sIc w) ((sRd w).getLsbD 4) ((sRd w).getLsbD 3) (Scope.ofCode ((sRd w).extractLsb' 0 3)) (pairOf (sRa w)) (sRb w))
  | 0x01 => some (.redAnd (sIc w) ((sRd w).getLsbD 4) ((sRd w).getLsbD 3) (Scope.ofCode ((sRd w).extractLsb' 0 3)) (pairOf (sRa w)) (sRb w))
  | 0x02 => some (.redOr (sIc w) ((sRd w).getLsbD 4) ((sRd w).getLsbD 3) (Scope.ofCode ((sRd w).extractLsb' 0 3)) (pairOf (sRa w)) (sRb w))
  | 0x03 => some (.redXor (sIc w) ((sRd w).getLsbD 4) ((sRd w).getLsbD 3) (Scope.ofCode ((sRd w).extractLsb' 0 3)) (pairOf (sRa w)) (sRb w))
  | 0x04 => some (.redMin (sIc w) ((sRd w).getLsbD 4) ((sRd w).getLsbD 3) (Scope.ofCode ((sRd w).extractLsb' 0 3)) (pairOf (sRa w)) (sRb w))
  | 0x05 => some (.redMax (sIc w) ((sRd w).getLsbD 4) ((sRd w).getLsbD 3) (Scope.ofCode ((sRd w).extractLsb' 0 3)) (pairOf (sRa w)) (sRb w))
  | _ => none

/-- The instructions of major 0x31 by func. -/
def sBuild31 (w : W32) : Option Instr :=
  match (sFunc w).toNat with
  | 0x00 => some (.fredAdd (sIc w) (FredType.ofCode ((sRd w).extractLsb' 3 2)) (Scope.ofCode ((sRd w).extractLsb' 0 3)) (pairOf (sRa w)) (sRb w))
  | 0x04 => some (.fredMin (sIc w) (FredType.ofCode ((sRd w).extractLsb' 3 2)) (Scope.ofCode ((sRd w).extractLsb' 0 3)) (pairOf (sRa w)) (sRb w))
  | 0x05 => some (.fredMax (sIc w) (FredType.ofCode ((sRd w).extractLsb' 3 2)) (Scope.ofCode ((sRd w).extractLsb' 0 3)) (pairOf (sRa w)) (sRb w))
  | _ => none

/-- The instructions of major 0x32 by func. -/
def sBuild32 (w : W32) : Option Instr :=
  match (sFunc w).toNat with
  | 0x00 => some (.apop (sIc w) (pairOf (sRd w)))
  | 0x08 => some (.bari (sIc w) (Scope.ofCode ((sRd w).extractLsb' 0 3)) (pairOf (sRa w)) (sRb w))
  | 0x09 => some (.barv (sIc w) (Scope.ofCode ((sRd w).extractLsb' 0 3)) (pairOf (sRa w)))
  | 0x0A => some (.bard (sIc w) (Scope.ofCode ((sRd w).extractLsb' 0 3)) (pairOf (sRa w)))
  | 0x0B => some (.barx (sIc w) (Scope.ofCode ((sRd w).extractLsb' 0 3)) (pairOf (sRa w)) (sRb w))
  | 0x0C => some (.barw (sIc w) (Scope.ofCode ((sRd w).extractLsb' 0 3)) (pairOf (sRa w)) (pairOf (sRb w)))
  | 0x0D => some (.bart (sIc w) (Scope.ofCode ((sRd w).extractLsb' 0 3)) (pairOf (sRa w)) (sRb w))
  | 0x10 => if (sRd w).getLsbD 3 then some (.waitqSpace (sIc w) (Scope.ofCode ((sRd w).extractLsb' 0 3)) (pairOf (sRa w)) (pairOf (sRb w))) else some (.waitqData (sIc w) (Scope.ofCode ((sRd w).extractLsb' 0 3)) (pairOf (sRa w)) (pairOf (sRb w)))
  | 0x11 => some (.sems (sIc w) (Scope.ofCode ((sRd w).extractLsb' 0 3)) (pairOf (sRa w)) (sRb w))
  | 0x12 => some (.semw (sIc w) (Scope.ofCode ((sRd w).extractLsb' 0 3)) (pairOf (sRa w)) (pairOf (sRb w)))
  | 0x18 => some (.uien (sIc w) (sRa w))
  | 0x19 => some (.uiret (sIc w))
  | 0x20 => some (.lnch (sIc w) (sRd w) (pairOf (sRa w)) (pairOf (sRb w)))
  | _ => none

/-- The instructions of major 0x33 by func. -/
def sBuild33 (w : W32) : Option Instr :=
  match (sFunc w).toNat with
  | 0x00 => some (.hspdecl (sIc w) (pairOf (sRa w)) (sRb w))
  | 0x01 => some (.tbegin (sIc w) (sRd w))
  | 0x02 => some (.tend (sIc w))
  | 0x03 => some (.tabort (sIc w) (sRa w))
  | 0x04 => some (.tage (sIc w) (pairOf (sRd w)))
  | _ => none

/-- The instructions of major 0x34 by func. -/
def sBuild34 (w : W32) : Option Instr :=
  match (sFunc w).toNat with
  | 0x00 => some (.dseed (sIc w) (pairOf (sRa w)) (sRb w))
  | 0x01 => some (.dtopo (sIc w) (pairOf (sRa w)))
  | _ => none

/-- The instructions of major 0x35 by func. -/
def sBuild35 (w : W32) : Option Instr :=
  match (sFunc w).toNat with
  | 0x00 => some (.mdeq (sIc w) (sRd w) (pairOf (sRa w)) (pairOf (sRb w)))
  | 0x01 => some (.bdwait (sIc w) (pairOf (sRd w)) (sRa w) (sRb w))
  | _ => none

/-- The instructions of major 0x36 by func. -/
def sBuild36 (w : W32) : Option Instr :=
  match (sFunc w).toNat with
  | 0x00 => some (.nop (sIc w))
  | 0x01 => some (.halt (sIc w) (pairOf (sRa w)))
  | 0x02 => some (.trap (sIc w) (sRa w))
  | 0x03 => some (.eret (sIc w))
  | 0x04 => some (.ctxsv (sIc w) (sRd w) (pairOf (sRa w)))
  | 0x05 => some (.ctxld (sIc w) (sRd w) (pairOf (sRa w)) (sRb w))
  | 0x06 => some (.twld (sIc w) (sRd w) (pairOf (sRa w)) (sRb w))
  | 0x07 => some (.keyld (sIc w) (sRd w) (pairOf (sRa w)) (sRb w))
  | _ => none

/-- The instructions of major 0x3E by func. -/
def sBuild3E (w : W32) : Option Instr :=
  match (sFunc w).toNat with
  | 0x00 => some (.hgemv (sIc w) (pairOf (sRa w)))
  | 0x01 => some (.hred (sIc w) (pairOf (sRa w)))
  | 0x02 => some (.hland (sIc w) (pairOf (sRa w)))
  | 0x03 => some (.hwalk (sIc w) (pairOf (sRa w)))
  | 0x04 => some (.hscan (sIc w) (pairOf (sRa w)))
  | 0x05 => some (.hcopy (sIc w) (pairOf (sRa w)))
  | 0x08 => some (.hrow (sIc w) (pairOf (sRa w)) (sRb w))
  | 0x10 => some (.hfence (sIc w) (Scope.ofCode ((sRd w).extractLsb' 0 3)))
  | 0x11 => some (.hwait (sIc w) (sRa w))
  | 0x12 => if (sRd w).getLsbD 3 then some (.hpostErr (sIc w) (Scope.ofCode ((sRd w).extractLsb' 0 3)) (sRa w) (sRb w)) else some (.hpost (sIc w) (Scope.ofCode ((sRd w).extractLsb' 0 3)) (sRa w) (sRb w))
  | 0x18 => some (.hstat (sIc w) (sRd w) (sRa w))
  | _ => none

/-- The instruction an S-word names, before its fields are checked. -/
def sBuild (w : W32) : Option Instr :=
  match (sMajor w).toNat with
  | 0x01 => sBuild01 w
  | 0x02 => sBuild02 w
  | 0x03 => some (.addi (sIc w) (sRd w) (sRa w) (sImm12 w))
  | 0x04 => some (.andi (sIc w) (sRd w) (sRa w) (sImm12 w))
  | 0x05 => some (.ori (sIc w) (sRd w) (sRa w) (sImm12 w))
  | 0x06 => some (.xori (sIc w) (sRd w) (sRa w) (sImm12 w))
  | 0x07 => some (.shli (sIc w) (sRd w) (sRa w) (w.extractLsb' 0 5))
  | 0x08 => some (.shri (sIc w) (sRd w) (sRa w) (w.extractLsb' 0 5))
  | 0x09 => some (.srai (sIc w) (sRd w) (sRa w) (w.extractLsb' 0 5))
  | 0x0A => some (.slti (sIc w) (sRd w) (sRa w) (sImm12 w))
  | 0x0B => some (.sltiu (sIc w) (sRd w) (sRa w) (sImm12 w))
  | 0x0C => some (.adddi (sIc w) (pairOf (sRd w)) (pairOf (sRa w)) (sImm12 w))
  | 0x0D => some (.lih (sIc w) (sRd w) (sImm18 w))
  | 0x0E => some (.jal (sIc w) (sRd w) (sImm18 w))
  | 0x0F => some (.jalr (sIc w) (sRd w) (sRa w) (sImm12 w))
  | 0x10 => some (.beq (sIc w) (sRd w) (sRa w) (sImm12 w))
  | 0x11 => some (.bne (sIc w) (sRd w) (sRa w) (sImm12 w))
  | 0x12 => some (.blt (sIc w) (sRd w) (sRa w) (sImm12 w))
  | 0x13 => some (.bge (sIc w) (sRd w) (sRa w) (sImm12 w))
  | 0x14 => some (.bltu (sIc w) (sRd w) (sRa w) (sImm12 w))
  | 0x15 => some (.bgeu (sIc w) (sRd w) (sRa w) (sImm12 w))
  | 0x16 => some (.loop (sIc w) (sRd w) (sRa w) (sImm12 w))
  | 0x17 => sBuild17 w
  | 0x18 => some (.gap (sIc w) (sImm12 w))
  | 0x19 => some (.csrr (sIc w) (pairOf (sRd w)) (sImm12 w))
  | 0x1A => some (.csrw (sIc w) (pairOf (sRa w)) (sImm12 w))
  | 0x20 => some (.ldb (sIc w) (sRd w) (pairOf (sRa w)) (sImm12 w))
  | 0x21 => some (.ldh (sIc w) (sRd w) (pairOf (sRa w)) (sImm12 w))
  | 0x22 => some (.ldw (sIc w) (sRd w) (pairOf (sRa w)) (sImm12 w))
  | 0x23 => some (.ldd (sIc w) (pairOf (sRd w)) (pairOf (sRa w)) (sImm12 w))
  | 0x24 => some (.stb (sIc w) (sRd w) (pairOf (sRa w)))
  | 0x25 => some (.sth (sIc w) (sRd w) (pairOf (sRa w)))
  | 0x26 => some (.stw (sIc w) (sRd w) (pairOf (sRa w)))
  | 0x27 => some (.std (sIc w) (pairOf (sRd w)) (pairOf (sRa w)))
  | 0x28 => some (.lds (sIc w) (sRd w) (sRa w) (sImm12 w))
  | 0x29 => some (.sts (sIc w) (sRd w) (sRa w))
  | 0x2A => sBuild2A w
  | 0x2B => sBuild2B w
  | 0x2C => some (.fence (sIc w) (w.getLsbD 6) (w.getLsbD 5) (w.extractLsb' 3 2) (Scope.ofCode (w.extractLsb' 0 3)))
  | 0x2D => some (.afence (sIc w) (pairOf (sRa w)) (Scope.ofCode (w.extractLsb' 0 3)))
  | 0x2E => sBuild2E w
  | 0x2F => sBuild2F w
  | 0x30 => sBuild30 w
  | 0x31 => sBuild31 w
  | 0x32 => sBuild32 w
  | 0x33 => sBuild33 w
  | 0x34 => sBuild34 w
  | 0x35 => sBuild35 w
  | 0x36 => sBuild36 w
  | 0x3E => sBuild3E w
  | _ => none

/-- Decode an S-word or heath word. -/
def decodeS (w : W32) : Except Reject Instr :=
  match worst (sViol w) with
  | some r => .error r
  | none => match sBuild w with
    | some i => .ok i
    | none => .error ⟨.resOpcode, 29⟩

/-- A register-form word. -/
def sRegWord (ic : BitVec 2) (major : BitVec 6) (rd ra rb func : BitVec 6) : W32 := ic ++ major ++ rd ++ ra ++ rb ++ func
/-- An immediate-form or branch-form word. -/
def sImmWord (ic : BitVec 2) (major : BitVec 6) (rd ra : BitVec 6) (imm : BitVec 12) : W32 := ic ++ major ++ rd ++ ra ++ imm
/-- An upper-immediate word. -/
def sUpperWord (ic : BitVec 2) (major : BitVec 6) (rd : BitVec 6) (imm : BitVec 18) : W32 := ic ++ major ++ rd ++ imm
/-- The field of a pair. -/
def pairField (p : BitVec 5) : BitVec 6 := p ++ 0#1
/-- A register field that holds a scope, with a value in its upper three bits. -/
def scopeField (hi : BitVec 3) (sc : Scope) : BitVec 6 := hi ++ sc.code
/-- The rd field of an atomic or reduction (R46). -/
def atomField (sg wide : Bool) (sc : Scope) : BitVec 6 := 0#1 ++ BitVec.ofBool sg ++ BitVec.ofBool wide ++ sc.code

/-- The 32-bit word of an S-word or heath word (R28, R43-R47); none for the other constructors. -/
def encodeS : Instr → Option W32
  | .add ic rd ra rb => some (sRegWord ic 0x01 rd ra rb 0x00)
  | .sub ic rd ra rb => some (sRegWord ic 0x01 rd ra rb 0x01)
  | .and ic rd ra rb => some (sRegWord ic 0x01 rd ra rb 0x02)
  | .or ic rd ra rb => some (sRegWord ic 0x01 rd ra rb 0x03)
  | .xor ic rd ra rb => some (sRegWord ic 0x01 rd ra rb 0x04)
  | .shl ic rd ra rb => some (sRegWord ic 0x01 rd ra rb 0x05)
  | .shr ic rd ra rb => some (sRegWord ic 0x01 rd ra rb 0x06)
  | .sra ic rd ra rb => some (sRegWord ic 0x01 rd ra rb 0x07)
  | .mul ic rd ra rb => some (sRegWord ic 0x01 rd ra rb 0x08)
  | .mulh ic rd ra rb => some (sRegWord ic 0x01 rd ra rb 0x09)
  | .mulhu ic rd ra rb => some (sRegWord ic 0x01 rd ra rb 0x0A)
  | .div ic rd ra rb => some (sRegWord ic 0x01 rd ra rb 0x0B)
  | .divu ic rd ra rb => some (sRegWord ic 0x01 rd ra rb 0x0C)
  | .rem ic rd ra rb => some (sRegWord ic 0x01 rd ra rb 0x0D)
  | .remu ic rd ra rb => some (sRegWord ic 0x01 rd ra rb 0x0E)
  | .min ic rd ra rb => some (sRegWord ic 0x01 rd ra rb 0x0F)
  | .max ic rd ra rb => some (sRegWord ic 0x01 rd ra rb 0x10)
  | .minu ic rd ra rb => some (sRegWord ic 0x01 rd ra rb 0x11)
  | .maxu ic rd ra rb => some (sRegWord ic 0x01 rd ra rb 0x12)
  | .seq ic rd ra rb => some (sRegWord ic 0x01 rd ra rb 0x18)
  | .sne ic rd ra rb => some (sRegWord ic 0x01 rd ra rb 0x19)
  | .slt ic rd ra rb => some (sRegWord ic 0x01 rd ra rb 0x1A)
  | .sltu ic rd ra rb => some (sRegWord ic 0x01 rd ra rb 0x1B)
  | .sge ic rd ra rb => some (sRegWord ic 0x01 rd ra rb 0x1C)
  | .sgeu ic rd ra rb => some (sRegWord ic 0x01 rd ra rb 0x1D)
  | .addd ic rd ra rb => some (sRegWord ic 0x02 (pairField rd) (pairField ra) (pairField rb) 0x00)
  | .subd ic rd ra rb => some (sRegWord ic 0x02 (pairField rd) (pairField ra) (pairField rb) 0x01)
  | .shld ic rd ra rb => some (sRegWord ic 0x02 (pairField rd) (pairField ra) rb 0x02)
  | .shrd ic rd ra rb => some (sRegWord ic 0x02 (pairField rd) (pairField ra) rb 0x03)
  | .srad ic rd ra rb => some (sRegWord ic 0x02 (pairField rd) (pairField ra) rb 0x04)
  | .addi ic rd ra imm => some (sImmWord ic 0x03 rd ra imm)
  | .andi ic rd ra imm => some (sImmWord ic 0x04 rd ra imm)
  | .ori ic rd ra imm => some (sImmWord ic 0x05 rd ra imm)
  | .xori ic rd ra imm => some (sImmWord ic 0x06 rd ra imm)
  | .shli ic rd ra sh => some (sImmWord ic 0x07 rd ra (0#7 ++ sh))
  | .shri ic rd ra sh => some (sImmWord ic 0x08 rd ra (0#7 ++ sh))
  | .srai ic rd ra sh => some (sImmWord ic 0x09 rd ra (0#7 ++ sh))
  | .slti ic rd ra imm => some (sImmWord ic 0x0A rd ra imm)
  | .sltiu ic rd ra imm => some (sImmWord ic 0x0B rd ra imm)
  | .adddi ic rd ra imm => some (sImmWord ic 0x0C (pairField rd) (pairField ra) imm)
  | .lih ic rd imm => some (sUpperWord ic 0x0D rd imm)
  | .jal ic rd imm => some (sUpperWord ic 0x0E rd imm)
  | .jalr ic rd ra imm => some (sImmWord ic 0x0F rd ra imm)
  | .beq ic ra rb imm => some (sImmWord ic 0x10 ra rb imm)
  | .bne ic ra rb imm => some (sImmWord ic 0x11 ra rb imm)
  | .blt ic ra rb imm => some (sImmWord ic 0x12 ra rb imm)
  | .bge ic ra rb imm => some (sImmWord ic 0x13 ra rb imm)
  | .bltu ic ra rb imm => some (sImmWord ic 0x14 ra rb imm)
  | .bgeu ic ra rb imm => some (sImmWord ic 0x15 ra rb imm)
  | .loop ic ra rb imm => some (sImmWord ic 0x16 ra rb imm)
  | .qpush ic q ra => some (sRegWord ic 0x17 (0#4 ++ q) (pairField ra) 0 0x00)
  | .qpop ic rd q => some (sRegWord ic 0x17 (pairField rd) (0#4 ++ q) 0 0x01)
  | .qpeek ic rd q => some (sRegWord ic 0x17 (pairField rd) (0#4 ++ q) 0 0x02)
  | .gtcr ic rd => some (sRegWord ic 0x17 (pairField rd) 0 0 0x08)
  | .waitg ic ra => some (sRegWord ic 0x17 0 (pairField ra) 0 0x09)
  | .exit ic => some (sRegWord ic 0x17 0 0 0 0x3F)
  | .gap ic imm => some (sImmWord ic 0x18 0 0 imm)
  | .csrr ic rd imm => some (sImmWord ic 0x19 (pairField rd) 0 imm)
  | .csrw ic ra imm => some (sImmWord ic 0x1A 0 (pairField ra) imm)
  | .ldb ic rd ra imm => some (sImmWord ic 0x20 rd (pairField ra) imm)
  | .ldh ic rd ra imm => some (sImmWord ic 0x21 rd (pairField ra) imm)
  | .ldw ic rd ra imm => some (sImmWord ic 0x22 rd (pairField ra) imm)
  | .ldd ic rd ra imm => some (sImmWord ic 0x23 (pairField rd) (pairField ra) imm)
  | .stb ic rd ra => some (sImmWord ic 0x24 rd (pairField ra) 0)
  | .sth ic rd ra => some (sImmWord ic 0x25 rd (pairField ra) 0)
  | .stw ic rd ra => some (sImmWord ic 0x26 rd (pairField ra) 0)
  | .std ic rd ra => some (sImmWord ic 0x27 (pairField rd) (pairField ra) 0)
  | .lds ic rd ra imm => some (sImmWord ic 0x28 rd ra imm)
  | .sts ic rd ra => some (sImmWord ic 0x29 rd ra 0)
  | .tlook ic rd ra => some (sRegWord ic 0x2A rd (pairField ra) 0 0x00)
  | .tset ic ra rb => some (sRegWord ic 0x2A 0 (pairField ra) rb 0x01)
  | .tinv ic ra => some (sRegWord ic 0x2A 0 ra 0 0x02)
  | .bdecl ic ra => some (sRegWord ic 0x2A 0 ra 0 0x08)
  | .bstateFull ic ra => some (sRegWord ic 0x2A 0 ra 0 0x09)
  | .bstateDrain ic ra => some (sRegWord ic 0x2A 1 ra 0 0x09)
  | .bquery ic rd ra => some (sRegWord ic 0x2A rd ra 0 0x0A)
  | .sbfw ic rd ra rb => some (sRegWord ic 0x2A rd ra rb 0x10)
  | .sew ic n ra => some (sRegWord ic 0x2B (0#3 ++ n) (pairField ra) 0 0x00)
  | .sego ic sc => some (sRegWord ic 0x2B (scopeField 0 sc) 0 0 0x01)
  | .segoResume ic sc => some (sRegWord ic 0x2B (scopeField 1 sc) 0 0 0x01)
  | .segoDrop ic sc => some (sRegWord ic 0x2B (scopeField 2 sc) 0 0 0x01)
  | .sepop ic rd => some (sRegWord ic 0x2B (pairField rd) 0 0 0x02)
  | .sechain ic sc ra => some (sRegWord ic 0x2B (scopeField 0 sc) (pairField ra) 0 0x03)
  | .rqpage ic ra rb => some (sRegWord ic 0x2B 0 (pairField ra) rb 0x08)
  | .fence ic un rc ord sc => some (sImmWord ic 0x2C 0 0 (0#5 ++ BitVec.ofBool un ++ BitVec.ofBool rc ++ ord ++ sc.code))
  | .afence ic ra sc => some (sImmWord ic 0x2D 0 (pairField ra) (0#9 ++ sc.code))
  | .atomAdd ic sg wide sc ra rb => some (sRegWord ic 0x2E (atomField sg wide sc) (pairField ra) rb 0x00)
  | .atomAnd ic sg wide sc ra rb => some (sRegWord ic 0x2E (atomField sg wide sc) (pairField ra) rb 0x01)
  | .atomOr ic sg wide sc ra rb => some (sRegWord ic 0x2E (atomField sg wide sc) (pairField ra) rb 0x02)
  | .atomXor ic sg wide sc ra rb => some (sRegWord ic 0x2E (atomField sg wide sc) (pairField ra) rb 0x03)
  | .atomMin ic sg wide sc ra rb => some (sRegWord ic 0x2E (atomField sg wide sc) (pairField ra) rb 0x04)
  | .atomMax ic sg wide sc ra rb => some (sRegWord ic 0x2E (atomField sg wide sc) (pairField ra) rb 0x05)
  | .atomSwap ic sg wide sc ra rb => some (sRegWord ic 0x2E (atomField sg wide sc) (pairField ra) rb 0x06)
  | .acas ic sg wide sc ra rb => some (sRegWord ic 0x2F (atomField sg wide sc) (pairField ra) rb 0x00)
  | .redAdd ic sg wide sc ra rb => some (sRegWord ic 0x30 (atomField sg wide sc) (pairField ra) rb 0x00)
  | .redAnd ic sg wide sc ra rb => some (sRegWord ic 0x30 (atomField sg wide sc) (pairField ra) rb 0x01)
  | .redOr ic sg wide sc ra rb => some (sRegWord ic 0x30 (atomField sg wide sc) (pairField ra) rb 0x02)
  | .redXor ic sg wide sc ra rb => some (sRegWord ic 0x30 (atomField sg wide sc) (pairField ra) rb 0x03)
  | .redMin ic sg wide sc ra rb => some (sRegWord ic 0x30 (atomField sg wide sc) (pairField ra) rb 0x04)
  | .redMax ic sg wide sc ra rb => some (sRegWord ic 0x30 (atomField sg wide sc) (pairField ra) rb 0x05)
  | .fredAdd ic ty sc ra rb => some (sRegWord ic 0x31 (0#1 ++ ty.code ++ sc.code) (pairField ra) rb 0x00)
  | .fredMin ic ty sc ra rb => some (sRegWord ic 0x31 (0#1 ++ ty.code ++ sc.code) (pairField ra) rb 0x04)
  | .fredMax ic ty sc ra rb => some (sRegWord ic 0x31 (0#1 ++ ty.code ++ sc.code) (pairField ra) rb 0x05)
  | .apop ic rd => some (sRegWord ic 0x32 (pairField rd) 0 0 0x00)
  | .bari ic sc ra rb => some (sRegWord ic 0x32 (scopeField 0 sc) (pairField ra) rb 0x08)
  | .barv ic sc ra => some (sRegWord ic 0x32 (scopeField 0 sc) (pairField ra) 0 0x09)
  | .bard ic sc ra => some (sRegWord ic 0x32 (scopeField 0 sc) (pairField ra) 0 0x0A)
  | .barx ic sc ra rb => some (sRegWord ic 0x32 (scopeField 0 sc) (pairField ra) rb 0x0B)
  | .barw ic sc ra rb => some (sRegWord ic 0x32 (scopeField 0 sc) (pairField ra) (pairField rb) 0x0C)
  | .bart ic sc ra rb => some (sRegWord ic 0x32 (scopeField 0 sc) (pairField ra) rb 0x0D)
  | .waitqData ic sc ra rb => some (sRegWord ic 0x32 (scopeField 0 sc) (pairField ra) (pairField rb) 0x10)
  | .waitqSpace ic sc ra rb => some (sRegWord ic 0x32 (scopeField 1 sc) (pairField ra) (pairField rb) 0x10)
  | .sems ic sc ra rb => some (sRegWord ic 0x32 (scopeField 0 sc) (pairField ra) rb 0x11)
  | .semw ic sc ra rb => some (sRegWord ic 0x32 (scopeField 0 sc) (pairField ra) (pairField rb) 0x12)
  | .uien ic ra => some (sRegWord ic 0x32 0 ra 0 0x18)
  | .uiret ic => some (sRegWord ic 0x32 0 0 0 0x19)
  | .lnch ic rd ra rb => some (sRegWord ic 0x32 rd (pairField ra) (pairField rb) 0x20)
  | .hspdecl ic ra rb => some (sRegWord ic 0x33 0 (pairField ra) rb 0x00)
  | .tbegin ic rd => some (sRegWord ic 0x33 rd 0 0 0x01)
  | .tend ic => some (sRegWord ic 0x33 0 0 0 0x02)
  | .tabort ic ra => some (sRegWord ic 0x33 0 ra 0 0x03)
  | .tage ic rd => some (sRegWord ic 0x33 (pairField rd) 0 0 0x04)
  | .dseed ic ra rb => some (sRegWord ic 0x34 0 (pairField ra) rb 0x00)
  | .dtopo ic ra => some (sRegWord ic 0x34 0 (pairField ra) 0 0x01)
  | .mdeq ic rd ra rb => some (sRegWord ic 0x35 rd (pairField ra) (pairField rb) 0x00)
  | .bdwait ic rd ra rb => some (sRegWord ic 0x35 (pairField rd) ra rb 0x01)
  | .nop ic => some (sRegWord ic 0x36 0 0 0 0x00)
  | .halt ic ra => some (sRegWord ic 0x36 0 (pairField ra) 0 0x01)
  | .trap ic ra => some (sRegWord ic 0x36 0 ra 0 0x02)
  | .eret ic => some (sRegWord ic 0x36 0 0 0 0x03)
  | .ctxsv ic rd ra => some (sRegWord ic 0x36 rd (pairField ra) 0 0x04)
  | .ctxld ic rd ra rb => some (sRegWord ic 0x36 rd (pairField ra) rb 0x05)
  | .twld ic rd ra rb => some (sRegWord ic 0x36 rd (pairField ra) rb 0x06)
  | .keyld ic rd ra rb => some (sRegWord ic 0x36 rd (pairField ra) rb 0x07)
  | .hgemv ic ra => some (sRegWord ic 0x3E 0 (pairField ra) 0 0x00)
  | .hred ic ra => some (sRegWord ic 0x3E 0 (pairField ra) 0 0x01)
  | .hland ic ra => some (sRegWord ic 0x3E 0 (pairField ra) 0 0x02)
  | .hwalk ic ra => some (sRegWord ic 0x3E 0 (pairField ra) 0 0x03)
  | .hscan ic ra => some (sRegWord ic 0x3E 0 (pairField ra) 0 0x04)
  | .hcopy ic ra => some (sRegWord ic 0x3E 0 (pairField ra) 0 0x05)
  | .hrow ic ra rb => some (sRegWord ic 0x3E 0 (pairField ra) rb 0x08)
  | .hfence ic sc => some (sRegWord ic 0x3E (scopeField 0 sc) 0 0 0x10)
  | .hwait ic ra => some (sRegWord ic 0x3E 0 ra 0 0x11)
  | .hpost ic sc ra rb => some (sRegWord ic 0x3E (scopeField 0 sc) ra rb 0x12)
  | .hpostErr ic sc ra rb => some (sRegWord ic 0x3E (scopeField 1 sc) ra rb 0x12)
  | .hstat ic rd ra => some (sRegWord ic 0x3E rd ra 0 0x18)
  | _ => none

/-! ## V-words (R30-R36, R48, R113-R133, R158-R165, R197-R200) -/

def vOp (w : BitVec 96) : BitVec 8 := w.extractLsb' 86 8
def vDst (w : BitVec 96) : BitVec 22 := w.extractLsb' 44 22
def vSrc1 (w : BitVec 96) : BitVec 22 := w.extractLsb' 22 22
def vSrc2 (w : BitVec 96) : BitVec 22 := w.extractLsb' 0 22
def vRmCode (w : BitVec 96) : BitVec 3 := w.extractLsb' 74 3
def vType (w : BitVec 96) : ElemType := ElemType.ofCode (w.extractLsb' 82 4)

/-- The row count: 0 encodes 256 (R30). -/
def rowCount (n : BitVec 8) : Nat := if n = 0 then 256 else n.toNat
def vCount (w : BitVec 96) : Nat := rowCount (w.extractLsb' 66 8)

def opKind (f : BitVec 22) : Nat := (f.extractLsb' 20 2).toNat
def opBase (f : BitVec 22) : BitVec 10 := f.extractLsb' 10 10
def opStride (f : BitVec 22) : BitVec 6 := f.extractLsb' 4 6
def opAux (f : BitVec 22) : BitVec 4 := f.extractLsb' 0 4
def opImm (f : BitVec 22) : BitVec 20 := f.extractLsb' 0 20
def opQueue (f : BitVec 22) : Nat := (opBase f).toNat % 8

/-- An operand field read by its kind (R33). -/
def VOperand.ofField (f : BitVec 22) : VOperand :=
  match opKind f with
  | 0 => .rows (opBase f) (opStride f) (f.getLsbD 0) (f.getLsbD 1)
  | 1 => .queue ((opBase f).extractLsb' 0 3)
  | 2 => .imm (opImm f)
  | _ => .bcast (opBase f) (opStride f) (opAux f)

/-- The field of an operand (R33). -/
def VOperand.toField : VOperand → BitVec 22
  | .rows b s neg abs => (0#2 ++ b ++ s ++ 0#2 ++ BitVec.ofBool abs ++ BitVec.ofBool neg : BitVec 22)
  | .queue q => (1#2 ++ 0#7 ++ q ++ 0#10 : BitVec 22)
  | .imm v => (2#2 ++ v : BitVec 22)
  | .bcast b s g => (3#2 ++ b ++ s ++ g : BitVec 22)

/-- The row of an operand in sweep step i, as an integer (R34). -/
def sweepRow (base : BitVec 10) (stride : BitVec 6) (i : Nat) : Int := (base.toNat : Int) + (i : Int) * stride.toInt

/-- Every number of a sweep of `cnt` steps lies in 0 to `max` (its ends do). -/
def sweepIn (base : BitVec 10) (stride : BitVec 6) (cnt max : Nat) : Bool :=
  let a := sweepRow base stride 0
  let z := sweepRow base stride (cnt - 1)
  decide (0 ≤ a) && decide (a ≤ max) && decide (0 ≤ z) && decide (z ≤ max)

-- DEDUCED, unsafe: log entry 20.
/-- Rows of an operand: in 0-1023, and even for a 64-bit type (R34). The field that offends is the base or the stride of the operand,
and the base for a row out of range. -/
def rowsViol (lo : Nat) (f : BitVec 22) (wide : Bool) (cnt : Nat) : List Reject :=
  viol (wide && (opBase f).getLsbD 0) .resOperand (lo + 19) ++ viol (wide && (opStride f).getLsbD 0) .resOperand (lo + 9) ++
  viol (!sweepIn (opBase f) (opStride f) cnt 1023) .resOperand (lo + 19)

/-- Which queues an operand may name (R35): any, 64-bit entries, or rows. -/
inductive QueueUse | any | entry | row
  deriving DecidableEq, Repr

/-- Depth of a queue register (R21). -/
def queueDepth (q : Nat) : Nat := if q < 4 then 16 else 4

-- DEDUCED, unsafe: log entry 21.
-- DEDUCED, unsafe: log entry 84.
/-- A queue operand (R33, R35, R115). A pair does not fit a 512-byte entry: DEDUCED, log entry 21. -/
def queueViol (lo : Nat) (f : BitVec 22) (u : QueueUse) (wide : Bool) (total : Nat) : List Reject :=
  let q := opQueue f
  let bad := match u with
    | .any => wide && 4 ≤ q
    | .entry => decide (4 ≤ q)
    | .row => decide (q < 4)
  viol bad .resKind (lo + 21) ++ viol ((opBase f).extractLsb' 3 7 != 0) .resBit (lo + 19) ++
  viol (opStride f != 0) .resOperand (lo + 9) ++ viol (opAux f != 0) .resOperand (lo + 3) ++
  viol (queueDepth q < total) .resOperand (lo + 19)

/-- An immediate operand of type T (R35). -/
def immViol (lo : Nat) (f : BitVec 22) (t : ElemType) : List Reject :=
  match t.cls with
  | .B => [⟨.resKind, lo + 21⟩]
  | .F => viol (t.width == 16 && (opImm f).extractLsb' 16 4 != 0) .resOperand (lo + 19)
  | .E => viol ((opImm f).extractLsb' 8 12 != 0) .resOperand (lo + 19)
  | _ => []

/-- A source operand of type T over `cnt` steps that may be of the listed kinds; `pops` is what the word pops in all
from the queue it names. -/
def srcViol (lo : Nat) (f : BitVec 22) (kinds : List Nat) (u : QueueUse) (t : ElemType) (cnt pops : Nat) : List Reject :=
  if !kinds.contains (opKind f) then [⟨.resKind, lo + 21⟩] else
  match opKind f with
  | 0 => viol ((opAux f).extractLsb' 2 2 != 0) .resBit (lo + 3) ++
      viol ((opAux f).extractLsb' 0 2 != 0 && !(t.cls == .F || t.cls == .E)) .resOperand (lo + 3) ++ rowsViol lo f t.wide cnt
  | 1 => queueViol lo f u t.wide pops
  | 2 => immViol lo f t
  | _ => rowsViol lo f t.wide cnt

/-- A destination operand (R33): rows, or a queue when allowed. -/
def dstViol (f : BitVec 22) (queueOk : Bool) (u : QueueUse) (wide : Bool) (cnt pushes : Nat) : List Reject :=
  match opKind f with
  | 0 => viol (opAux f != 0) .resBit 47 ++ rowsViol 44 f wide cnt
  | 1 => if queueOk then queueViol 44 f u wide pushes else [⟨.resKind, 65⟩]
  | _ => [⟨.resKind, 65⟩]

/-- A field that names predicates (R122, R131). -/
def predViol (lo : Nat) (f : BitVec 22) (cnt : Nat) : List Reject :=
  if opKind f != 0 then [⟨.resKind, lo + 21⟩] else
  viol (opAux f != 0) .resBit (lo + 3) ++ viol (!sweepIn (opBase f) (opStride f) cnt 15) .resOperand (lo + 19)

/-- An unused operand field (R33). -/
def zeroViol (lo : Nat) (f : BitVec 22) : List Reject := viol (f != 0) .resBit (lo + 21)

def typeViol (t : ElemType) (cs : List TypeClass) : List Reject := viol (!cs.contains t.cls) .resEtype 85

/-- What a word pops from the queue that field f names: the sum over its source fields (R115). -/
def popsOf (f : BitVec 22) (srcs : List (BitVec 22 × Nat)) : Nat :=
  srcs.foldl (fun a s => if opKind s.1 == 1 && opQueue s.1 == opQueue f then a + s.2 else a) 0

/-- The frame of a word with two sources (R113). -/
def binaryViol (w : BitVec 96) (cs : List TypeClass) (dstQueue : Bool) : List Reject :=
  let t := vType w
  let n := vCount w
  let ss := [(vSrc1 w, n), (vSrc2 w, n)]
  typeViol t cs ++ dstViol (vDst w) dstQueue .any t.wide n n ++
  srcViol 22 (vSrc1 w) [0, 1, 2, 3] .any t n (popsOf (vSrc1 w) ss) ++
  srcViol 0 (vSrc2 w) [0, 1, 2, 3] .any t n (popsOf (vSrc2 w) ss)

/-- The frame of a word with one source. -/
def unaryViol (w : BitVec 96) (cs : List TypeClass) : List Reject :=
  let t := vType w
  let n := vCount w
  typeViol t cs ++ dstViol (vDst w) true .any t.wide n n ++
  srcViol 22 (vSrc1 w) [0, 1, 2, 3] .any t n n ++ zeroViol 0 (vSrc2 w)

/-- VCMP (R122). -/
def cmpViol (w : BitVec 96) : List Reject :=
  let t := vType w
  let n := vCount w
  let ss := [(vSrc1 w, n), (vSrc2 w, n)]
  typeViol t [.F, .E, .I, .W] ++ predViol 44 (vDst w) n ++
  srcViol 22 (vSrc1 w) [0, 1, 2, 3] .any t n (popsOf (vSrc1 w) ss) ++
  srcViol 0 (vSrc2 w) [0, 1, 2, 3] .any t n (popsOf (vSrc2 w) ss)

/-- Source units that n destination steps of VCVT read (R124). -/
def cvtUnits (d s : ElemType) (n : Nat) : Nat := (n * d.lanes + s.lanes - 1) / s.lanes

/-- VCVT (R124, R125). -/
def cvtViol (w : BitVec 96) : List Reject :=
  let d := vType w
  let n := vCount w
  let f2 := vSrc2 w
  if d.cls == .B then
    let u := cvtUnits d .f32 n
    (if d == .cb4 then
        (if opKind f2 != 2 then [⟨.resKind, 21⟩] else viol ((opImm f2).extractLsb' 16 4 != 0) .resOperand 19)
      else zeroViol 0 f2) ++
    (if opKind (vDst w) != 0 then [⟨.resKind, 65⟩] else viol (opAux (vDst w) != 0) .resBit 47 ++ rowsViol 44 (vDst w) true n) ++
    viol (w.extractLsb' 78 4 != 0) .resOperand 81 ++ viol (w.extractLsb' 77 1 != 0) .resOperand 77 ++
    srcViol 22 (vSrc1 w) [0, 1, 2, 3] .any .f32 u u
  else if opKind f2 != 2 then [⟨.resKind, 21⟩] ++ dstViol (vDst w) true .any d.wide n n
  else
    let s := ElemType.ofCode (f2.extractLsb' 0 4)
    let u := cvtUnits d s n
    viol (s.cls == .B) .resEtype 3 ++ viol ((opImm f2).extractLsb' 4 16 != 0) .resBit 19 ++
    dstViol (vDst w) true .any d.wide n n ++ srcViol 22 (vSrc1 w) [0, 1, 2, 3] .any s u u

/-- VBCAST and VROT: source 2 is a raw lane number below L (R128). -/
def laneImmViol (w : BitVec 96) : List Reject :=
  let t := vType w
  let n := vCount w
  typeViol t [.F, .E, .I, .W] ++ dstViol (vDst w) true .any t.wide n n ++ srcViol 22 (vSrc1 w) [0, 1, 2, 3] .any t n n ++
  (if opKind (vSrc2 w) != 2 then [⟨.resKind, 21⟩] else viol (t.lanes ≤ (opImm (vSrc2 w)).toNat) .resOperand 19)

/-- VSCALE (R126). -/
def scaleViol (w : BitVec 96) : List Reject :=
  let t := vType w
  let n := vCount w
  typeViol t [.F] ++ dstViol (vDst w) true .any false 1 1 ++
  viol (opKind (vDst w) == 0 && opStride (vDst w) != 0) .resOperand 53 ++
  srcViol 22 (vSrc1 w) [0, 1, 2, 3] .any t n n ++ zeroViol 0 (vSrc2 w)

/-- A landing offset in source 2 (R197, R200). -/
def landImmViol (w : BitVec 96) : List Reject :=
  if opKind (vSrc2 w) != 2 then [⟨.resKind, 21⟩] else viol ((opImm (vSrc2 w)).extractLsb' 12 8 != 0) .resBit 19

def memTypeViol (t : ElemType) : List Reject := viol t.wide .resEtype 85

/-- An address operand of VLDS and VSTS: an immediate or q0-q3 (R200). -/
def addrViol (lo : Nat) (f : BitVec 22) (n pops : Nat) : List Reject :=
  if opKind f == 2 then [] else srcViol lo f [1] .entry .n32 n pops

/-- VLD, VST, VLDS, VSTS (R197, R198, R200). -/
def vmemViol (op : Nat) (w : BitVec 96) : List Reject :=
  let t := vType w
  let n := vCount w
  match op with
  | 0x70 => memTypeViol t ++ viol (w.extractLsb' 77 1 != 0) .resBit 77 ++ dstViol (vDst w) true .row false n n ++
      srcViol 22 (vSrc1 w) [1] .entry .n32 n n ++ landImmViol w
  | 0x71 => memTypeViol t ++ zeroViol 44 (vDst w) ++ srcViol 22 (vSrc1 w) [0, 1] .row t n n ++
      srcViol 0 (vSrc2 w) [1] .entry .n32 n n
  | 0x72 => memTypeViol t ++ dstViol (vDst w) true .row false n n ++ addrViol 22 (vSrc1 w) n n ++ landImmViol w
  | _ => memTypeViol t ++ zeroViol 44 (vDst w) ++ srcViol 22 (vSrc1 w) [0, 1] .row t n n ++ addrViol 0 (vSrc2 w) n n

/-- Some row of one sweep equals some row of another; a pair sweep also names the odd rows. -/
def sweepsMeet (f : BitVec 22) (pairF : Bool) (n : Nat) (g : BitVec 22) (m : Nat) : Bool :=
  (List.range n).any fun i => (List.range m).any fun j =>
    let a := sweepRow (opBase f) (opStride f) i
    let b := sweepRow (opBase g) (opStride g) j
    a == b || (pairF && a + 1 == b)

/-- VDRAW, VDMRG, DTREE (R159, R162, R165). -/
def drawViol (op : Nat) (w : BitVec 96) : List Reject :=
  let t := vType w
  let n := vCount w
  let d := vDst w
  match op with
  | 0x80 => typeViol t [.F] ++ dstViol d true .entry true n n ++ srcViol 22 (vSrc1 w) [0] .any t n n ++
      (match opKind (vSrc2 w) with
       | 2 => []
       | 3 => viol (opStride (vSrc2 w) != 0) .resOperand 9
       | _ => [⟨.resKind, 21⟩]) ++
      viol (opKind d == 0 && (sweepsMeet d true n (vSrc1 w) n ||
        (opKind (vSrc2 w) == 3 && sweepsMeet d true n (vSrc2 w) 1))) .resOperand 63
  | 0x81 =>
    let ss := [(vSrc1 w, n), (vSrc2 w, n)]
    viol (t != .n64) .resEtype 85 ++ dstViol d true .entry true n n ++
    srcViol 22 (vSrc1 w) [0, 1, 3] .entry .n64 n (popsOf (vSrc1 w) ss) ++
    srcViol 0 (vSrc2 w) [0, 1, 3] .entry .n64 n (popsOf (vSrc2 w) ss)
  | _ => viol (t != .n64) .resEtype 85 ++ dstViol d true .entry true n n ++ srcViol 22 (vSrc1 w) [0] .any .n64 n n ++
      zeroViol 0 (vSrc2 w)

/-- The fields a word without operands must leave zero (R133). -/
def vZeroViol (w : BitVec 96) : List Reject :=
  viol (w.extractLsb' 82 4 != 0) .resBit 85 ++ viol (w.extractLsb' 78 4 != 0) .resBit 81 ++ viol (w.extractLsb' 77 1 != 0) .resBit 77

/-- VMARK (R132). -/
-- DEDUCED, unsafe: log entry 20.
def markViol (w : BitVec 96) : List Reject :=
  let d := vDst w
  let s := vSrc1 w
  vZeroViol w ++ viol (w.extractLsb' 66 8 != 1) .resBit 73 ++ zeroViol 0 (vSrc2 w) ++
  (if opKind d != 0 then [⟨.resKind, 65⟩] else
    viol (opStride d != 0) .resBit 53 ++ viol (opAux d != 0) .resBit 47 ++ viol ((opBase d).extractLsb' 0 7 != 0) .resOperand 63) ++
  (if opKind s != 2 then [⟨.resKind, 43⟩] else viol (1 < (opImm s).toNat) .resOperand 41)

/-- The violations of the operation named by a V opcode; none for a reserved opcode. -/
def vBodyViol (op : Nat) (w : BitVec 96) : Option (List Reject) :=
  match op with
  | 0x01 | 0xFF => some (vZeroViol w ++ viol (w.extractLsb' 66 8 != 0) .resBit 73 ++ zeroViol 44 (vDst w) ++ zeroViol 22 (vSrc1 w) ++ zeroViol 0 (vSrc2 w))
  | 0x10 | 0x11 | 0x14 | 0x15 => some (binaryViol w [.F, .E, .I, .W] true)
  | 0x12 => some (binaryViol w [.F, .E, .I] true)
  | 0x13 => some (binaryViol w [.F, .E, .I] false)
  | 0x16 | 0x17 => some (unaryViol w [.F, .E, .I])
  | 0x18 | 0x19 | 0x1A | 0x1B | 0x1C => some (unaryViol w [.F])
  | 0x20 | 0x21 | 0x22 | 0x23 | 0x24 | 0x25 | 0x26 => some (cmpViol w)
  | 0x28 => some (binaryViol w [.F, .E, .I, .W, .B] true)
  | 0x29 => some (cvtViol w)
  | 0x2A => some (scaleViol w)
  | 0x30 | 0x31 | 0x32 | 0x34 | 0x35 | 0x36 => some (binaryViol w [.I, .W] true)
  | 0x33 => some (unaryViol w [.I, .W])
  | 0x37 | 0x38 => some (unaryViol w [.I])
  | 0x39 => some (binaryViol w [.I] true)
  | 0x40 => some (binaryViol w [.F, .E, .I, .W] true)
  | 0x41 | 0x43 => some (laneImmViol w)
  | 0x42 => some (typeViol (vType w) [.I, .W] ++ dstViol (vDst w) true .any (vType w).wide (vCount w) (vCount w) ++
      srcViol 22 (vSrc1 w) [2] .any (vType w) 1 0 ++ srcViol 0 (vSrc2 w) [2] .any (vType w) 1 0)
  | 0x44 => some (unaryViol w [.F, .E, .I, .W])
  | 0x45 => some (unaryViol w [.F, .E, .I, .W, .B])
  | 0x50 | 0x51 | 0x52 | 0x53 | 0x54 => some (unaryViol w [.F, .I] ++ viol (vRmCode w == 4) .resOperand 76)
  | 0x60 | 0x61 | 0x62 => some (viol (vType w != .f32) .resEtype 85 ++ predViol 44 (vDst w) (vCount w) ++ predViol 22 (vSrc1 w) (vCount w) ++
      predViol 0 (vSrc2 w) (vCount w))
  | 0x63 => some (viol (vType w != .f32) .resEtype 85 ++ predViol 44 (vDst w) (vCount w) ++ predViol 22 (vSrc1 w) (vCount w) ++
      zeroViol 0 (vSrc2 w))
  | 0x70 | 0x71 | 0x72 | 0x73 => some (vmemViol op w)
  | 0x80 | 0x81 | 0x82 => some (drawViol op w)
  | 0xF0 => some (markViol w)
  | _ => none

-- DEDUCED, unsafe: log entry 20.
/-- The violations of a V-word (R32, R48, R51). -/
def vViol (w : BitVec 96) : List Reject :=
  match vBodyViol (vOp w).toNat w with
  | none => [⟨.resOpcode, 93⟩]
  | some vs => viol (5 ≤ (vRmCode w).toNat) .resRound 76 ++ vs

/-- The fields of a V-word. -/
def vWordOf (w : BitVec 96) : VWord where
  ic := w.extractLsb' 94 2
  et := vType w
  pred := w.extractLsb' 78 4
  sense := w.getLsbD 77
  rm := Round.ofCode (vRmCode w)
  n := w.extractLsb' 66 8
  dst := VOperand.ofField (vDst w)
  src1 := VOperand.ofField (vSrc1 w)
  src2 := VOperand.ofField (vSrc2 w)

/-- The 96-bit word of an opcode and fields (R30). -/
def vWordBits (op : BitVec 8) (x : VWord) : BitVec 96 :=
  x.ic ++ op ++ x.et.code ++ x.pred ++ BitVec.ofBool x.sense ++ x.rm.code ++ x.n ++ x.dst.toField ++ x.src1.toField ++ x.src2.toField

/-- The constructor of each V opcode (R48). VMARK is told apart by its immediate (R132). -/
def vBuild (op : Nat) (x : VWord) : Option Instr :=
  match op with
  | 0x01 => some (.vNop x)
  | 0x10 => some (.vadd x)
  | 0x11 => some (.vsub x)
  | 0x12 => some (.vmul x)
  | 0x13 => some (.vfma x)
  | 0x14 => some (.vmin x)
  | 0x15 => some (.vmax x)
  | 0x16 => some (.vabs x)
  | 0x17 => some (.vneg x)
  | 0x18 => some (.vexp2 x)
  | 0x19 => some (.vlog2 x)
  | 0x1A => some (.vrcp x)
  | 0x1B => some (.vrsq x)
  | 0x1C => some (.vsqrt x)
  | 0x20 => some (.vcmpEq x)
  | 0x21 => some (.vcmpNe x)
  | 0x22 => some (.vcmpLt x)
  | 0x23 => some (.vcmpLe x)
  | 0x24 => some (.vcmpGt x)
  | 0x25 => some (.vcmpGe x)
  | 0x26 => some (.vcmpUn x)
  | 0x28 => some (.vsel x)
  | 0x29 => some (.vcvt x)
  | 0x2A => some (.vscale x)
  | 0x30 => some (.vand x)
  | 0x31 => some (.vor x)
  | 0x32 => some (.vxor x)
  | 0x33 => some (.vnot x)
  | 0x34 => some (.vshl x)
  | 0x35 => some (.vshr x)
  | 0x36 => some (.vsra x)
  | 0x37 => some (.vpopc x)
  | 0x38 => some (.vclz x)
  | 0x39 => some (.vmulh x)
  | 0x40 => some (.vperm x)
  | 0x41 => some (.vbcast x)
  | 0x42 => some (.viota x)
  | 0x43 => some (.vrot x)
  | 0x44 => some (.vcomp x)
  | 0x45 => some (.vmov x)
  | 0x50 => some (.vrsum x)
  | 0x51 => some (.vrmax x)
  | 0x52 => some (.vrmin x)
  | 0x53 => some (.vscan x)
  | 0x54 => some (.vscanmax x)
  | 0x60 => some (.pand x)
  | 0x61 => some (.por x)
  | 0x62 => some (.pxor x)
  | 0x63 => some (.pnot x)
  | 0x70 => some (.vld x)
  | 0x71 => some (.vst x)
  | 0x72 => some (.vlds x)
  | 0x73 => some (.vsts x)
  | 0x80 => some (.vdraw x)
  | 0x81 => some (.vdmrg x)
  | 0x82 => some (.dtree x)
  | 0xF0 => some (if x.src1 = .imm 1 then .vmarkFull x else .vmarkEmpty x)
  | 0xFF => some (.vexit x)
  | _ => none

/-- The opcode and fields of a V-word; none for the other constructors. -/
def vParts : Instr → Option (BitVec 8 × VWord)
  | .vNop w => some (0x01, w)
  | .vadd w => some (0x10, w)
  | .vsub w => some (0x11, w)
  | .vmul w => some (0x12, w)
  | .vfma w => some (0x13, w)
  | .vmin w => some (0x14, w)
  | .vmax w => some (0x15, w)
  | .vabs w => some (0x16, w)
  | .vneg w => some (0x17, w)
  | .vexp2 w => some (0x18, w)
  | .vlog2 w => some (0x19, w)
  | .vrcp w => some (0x1A, w)
  | .vrsq w => some (0x1B, w)
  | .vsqrt w => some (0x1C, w)
  | .vcmpEq w => some (0x20, w)
  | .vcmpNe w => some (0x21, w)
  | .vcmpLt w => some (0x22, w)
  | .vcmpLe w => some (0x23, w)
  | .vcmpGt w => some (0x24, w)
  | .vcmpGe w => some (0x25, w)
  | .vcmpUn w => some (0x26, w)
  | .vsel w => some (0x28, w)
  | .vcvt w => some (0x29, w)
  | .vscale w => some (0x2A, w)
  | .vand w => some (0x30, w)
  | .vor w => some (0x31, w)
  | .vxor w => some (0x32, w)
  | .vnot w => some (0x33, w)
  | .vshl w => some (0x34, w)
  | .vshr w => some (0x35, w)
  | .vsra w => some (0x36, w)
  | .vpopc w => some (0x37, w)
  | .vclz w => some (0x38, w)
  | .vmulh w => some (0x39, w)
  | .vperm w => some (0x40, w)
  | .vbcast w => some (0x41, w)
  | .viota w => some (0x42, w)
  | .vrot w => some (0x43, w)
  | .vcomp w => some (0x44, w)
  | .vmov w => some (0x45, w)
  | .vrsum w => some (0x50, w)
  | .vrmax w => some (0x51, w)
  | .vrmin w => some (0x52, w)
  | .vscan w => some (0x53, w)
  | .vscanmax w => some (0x54, w)
  | .pand w => some (0x60, w)
  | .por w => some (0x61, w)
  | .pxor w => some (0x62, w)
  | .pnot w => some (0x63, w)
  | .vld w => some (0x70, w)
  | .vst w => some (0x71, w)
  | .vlds w => some (0x72, w)
  | .vsts w => some (0x73, w)
  | .vdraw w => some (0x80, w)
  | .vdmrg w => some (0x81, w)
  | .dtree w => some (0x82, w)
  | .vmarkFull w => some (0xF0, w)
  | .vmarkEmpty w => some (0xF0, w)
  | .vexit w => some (0xFF, w)
  | _ => none

/-- Decode a V-word. -/
def decodeV (w : BitVec 96) : Except Reject Instr :=
  match worst (vViol w) with
  | some r => .error r
  | none => match vBuild (vOp w).toNat (vWordOf w) with
    | some i => .ok i
    | none => .error ⟨.resOpcode, 93⟩

/-- The 96-bit word of a V-word; none for the other constructors. -/
def encodeV (i : Instr) : Option (BitVec 96) := (vParts i).map fun p => vWordBits p.1 p.2

/-! ## M-words (R37, R38, R49, R134-R154, R167, R304, R314) -/

def mOp (w : BitVec 192) : BitVec 8 := w.extractLsb' 182 8
def mImm (w : BitVec 192) : BitVec 64 := w.extractLsb' 0 64
def mFa (w : BitVec 192) : ElemType := ElemType.ofCode (w.extractLsb' 178 4)
def mFb (w : BitVec 192) : ElemType := ElemType.ofCode (w.extractLsb' 174 4)
def mSrcA (w : BitVec 192) : BitVec 6 := w.extractLsb' 128 6
def mSrcB (w : BitVec 192) : BitVec 6 := w.extractLsb' 122 6
def mRmCode (w : BitVec 192) : BitVec 3 := w.extractLsb' 168 3

/-- The fields of an M-word that an instruction may use (R37, R144); the rounding field is never unused. -/
inductive MField | fa | fb | tile | stamp | srcA | srcB | acc | full | once | steps | mx | my
  deriving DecidableEq, Repr

/-- The rows of R134: the class of a format as a tile-step operand. -/
inductive StepClass | f16 | f8 | i8 | b4
  deriving DecidableEq, Repr

def ElemType.stepClass : ElemType → Option StepClass
  | .bf16 | .f16 => some .f16
  | .e4m3 | .e5m2 | .mx8 => some .f8
  | .i8 | .n8 => some .i8
  | .cb4 | .mx4 => some .b4
  | _ => none

/-- The format pair of a tile step (R134): the offending field is A's when A stands in no row, else B's. -/
def pairViol (w : BitVec 192) : List Reject :=
  match (mFa w).stepClass, (mFb w).stepClass with
  | none, _ => [⟨.resEtype, 181⟩]
  | some _, none => [⟨.resEtype, 177⟩]
  | some a, some b => viol (a != b) .resEtype 177

/-- An A or B source (R38). -/
def msrcViol (top : Nat) (f : BitVec 6) : List Reject :=
  if f.getLsbD 5 then viol (f.getLsbD 0) .resOperand top else viol (f.extractLsb' 2 3 != 0) .resBit top

/-- A list field (R38): `takes` and `needs` say whether the instruction takes or requires a list. -/
def listViol (top : Nat) (takes needs : Bool) (f : BitVec 6) : List Reject :=
  if f.getLsbD 5 then viol (!takes) .resKind top ++ viol (f.getLsbD 0) .resOperand top
  else viol needs .resKind top ++ viol (f.extractLsb' 0 5 != 0) .resBit top

/-- Unused fields must be zero, used ones are checked by their kind (R37, R38). -/
def mFieldViol (w : BitVec 192) (use : List MField) : List Reject :=
  let z (f : MField) (v : Bool) (top : Nat) : List Reject := viol (v && !use.contains f) .resBit top
  z .fa (w.extractLsb' 178 4 != 0) 181 ++ z .fb (w.extractLsb' 174 4 != 0) 177 ++ z .tile (w.extractLsb' 171 3 != 0) 173 ++
  (if use.contains .stamp then viol (w.extractLsb' 166 2 == 3) .resKind 167 ++
      viol (w.extractLsb' 166 2 == 0 && w.extractLsb' 134 32 != 0) .resBit 165
    else viol (w.extractLsb' 166 2 == 3) .resKind 167 ++ viol (w.extractLsb' 166 2 != 0) .resBit 167 ++ viol (w.extractLsb' 134 32 != 0) .resBit 165) ++
  (if use.contains .srcA then msrcViol 133 (mSrcA w) else viol (mSrcA w != 0) .resBit 133) ++
  (if use.contains .srcB then msrcViol 127 (mSrcB w) else viol (mSrcB w != 0) .resBit 127) ++
  z .acc (w.getLsbD 109) 109 ++ z .full (w.getLsbD 108) 108 ++ z .once (w.getLsbD 107) 107 ++ z .steps (w.extractLsb' 91 16 != 0) 106 ++
  z .mx (w.extractLsb' 86 5 != 0) 90 ++ z .my (w.extractLsb' 81 5 != 0) 85 ++ viol (w.extractLsb' 64 17 != 0) .resBit 80

/-- Bits of imm64 that must be zero. -/
def immZero (w : BitVec 192) (lo len top : Nat) (k : RejCause) : List Reject := viol ((mImm w).extractLsb' lo len != 0) k top

def noLists (w : BitVec 192) : List Reject := listViol 121 false false (w.extractLsb' 116 6) ++ listViol 115 false false (w.extractLsb' 110 6)

/-- MSTA's immediate (R149). -/
def mstaViol (w : BitVec 192) : List Reject :=
  let r0 := ((mImm w).extractLsb' 0 7).toNat
  let c := ((mImm w).extractLsb' 8 8).toNat
  viol (!(mSrcA w).getLsbD 5) .resKind 133 ++ viol ((mFa w).wide) .resEtype 181 ++ viol (mRmCode w == 4) .resOperand 170 ++
  viol ((mImm w).getLsbD 7) .resOperand 7 ++ viol (c == 0 || 128 < c || 128 < r0 + c) .resOperand 15 ++
  viol (mFa w != .cb4 && (mImm w).extractLsb' 16 16 != 0) .resOperand 31 ++ immZero w 32 32 63 .resOperand

/-- MLDB's checks (R148). -/
def mldbViol (w : BitVec 192) : List Reject :=
  viol ((mSrcB w).getLsbD 5) .resKind 127 ++
  (if (mSrcA w).getLsbD 5 then viol (w.extractLsb' 171 3 != 0) .resBit 173 ++ immZero w 0 64 63 .resBit
   else viol (mSrcA w != 0 && (mSrcA w).extractLsb' 2 3 == 0) .resKind 133 ++ viol ((mFa w).cls == .B) .resEtype 181 ++ viol (mRmCode w == 4) .resOperand 170 ++
     immZero w 7 57 63 .resBit)

/-- MDRAW's immediate and registers (R167). -/
def mdrawViol (w : BitVec 192) : List Reject :=
  let r0 := ((mImm w).extractLsb' 0 7).toNat
  let c := ((mImm w).extractLsb' 8 8).toNat
  viol (w.getLsbD 86) .resOperand 90 ++ viol (w.extractLsb' 81 5 == 31) .resOperand 85 ++ viol ((mImm w).getLsbD 7) .resBit 7 ++
  viol (c == 0 || 128 < c || 128 < r0 + c) .resOperand 15 ++ immZero w 32 32 63 .resBit

/-- MBEAT's fields (R304). -/
def mbeatViol (w : BitVec 192) : List Reject :=
  let i := mImm w
  let drain := i.extractLsb' 32 16 != 0
  let s := (w.extractLsb' 91 16).toNat
  pairViol w ++ viol (mRmCode w == 4) .resOperand 170 ++
  (if i.getLsbD 52 then viol (mSrcA w != 0) .resBit 133 else msrcViol 133 (mSrcA w)) ++
  (if i.getLsbD 53 then viol (mSrcB w != 0) .resBit 127 else msrcViol 127 (mSrcB w)) ++
  viol (w.getLsbD 109 && drain) .resOperand 109 ++ viol (s == 0 || 256 < s) .resOperand 106 ++
  (if drain then viol ((ElemType.ofCode (i.extractLsb' 48 4)).wide || (ElemType.ofCode (i.extractLsb' 48 4)).cls == .B) .resEtype 51
   else viol (i.extractLsb' 48 4 != 0) .resBit 51) ++ immZero w 54 10 63 .resBit

/-- The violations of the operation named by an M opcode; none for a reserved opcode. -/
def mBodyViol (op : Nat) (w : BitVec 192) : Option (List Reject) :=
  match op with
  | 0x01 | 0x61 | 0xFF => some (mFieldViol w [] ++ noLists w ++ immZero w 0 64 63 .resBit)
  | 0x10 => some (mFieldViol w [.fa, .fb, .tile, .stamp, .srcA, .srcB, .acc, .full, .once, .steps] ++ noLists w ++ pairViol w ++ immZero w 0 64 63 .resBit)
  | 0x11 => some (mFieldViol w [.fa, .fb, .tile, .stamp, .srcA, .srcB, .acc, .full, .once, .steps] ++
      listViol 121 true true (w.extractLsb' 116 6) ++ listViol 115 true false (w.extractLsb' 110 6) ++ pairViol w ++ immZero w 0 64 63 .resBit)
  | 0x12 | 0x40 | 0x41 => some (mFieldViol w [.tile] ++ noLists w ++ immZero w 0 64 63 .resBit)
  | 0x13 => some (mFieldViol w [.tile] ++ noLists w ++ viol (4 < ((mImm w).extractLsb' 0 3).toNat) .resOperand 2 ++ immZero w 3 61 63 .resBit)
  | 0x14 => some (mFieldViol w [.fa, .tile, .srcA, .srcB, .once] ++ noLists w ++ mldbViol w)
  | 0x15 => some (mFieldViol w [.fa, .tile, .srcA] ++ noLists w ++ mstaViol w)
  | 0x20 => some (mFieldViol w [.mx] ++ noLists w ++ immZero w 32 32 63 .resBit)
  | 0x21 => some (mFieldViol w [.mx, .my] ++ noLists w ++ viol (w.getLsbD 86) .resOperand 90 ++ viol (w.extractLsb' 84 2 != 0) .resBit 85 ++
      viol (w.getLsbD 83) .resKind 85 ++ immZero w 0 64 63 .resBit)
  | 0x30 => some (mFieldViol w [.stamp, .mx] ++ noLists w ++ immZero w 0 64 63 .resBit)
  | 0x31 => some (mFieldViol w [.stamp] ++ noLists w ++ immZero w 0 64 63 .resBit)
  | 0x42 => some (mFieldViol w [] ++ noLists w ++ immZero w 8 56 63 .resBit)
  | 0x50 => some (mFieldViol w [.tile, .mx, .my] ++ noLists w ++ mdrawViol w)
  | 0x60 => some (mFieldViol w [.fa, .fb, .tile, .srcA, .srcB, .acc, .full, .steps] ++ noLists w ++ mbeatViol w)
  | 0x62 => some (mFieldViol w [] ++ noLists w ++ immZero w 4 60 63 .resBit)
  | _ => none

/-- The violations of an M-word (R32, R37, R49, R51). A LOOK out of range is MLOOK's own check. -/
def mViol (w : BitVec 192) : List Reject :=
  match mBodyViol (mOp w).toNat w with
  | none => [⟨.resOpcode, 189⟩]
  | some vs => viol (5 ≤ (mRmCode w).toNat) .resRound 170 ++ vs

def MSource.ofField (f : BitVec 6) : MSource := if f.getLsbD 5 then .desc (f.extractLsb' 1 4) else .breg (f.extractLsb' 0 2)
def MSource.toField : MSource → BitVec 6
  | .breg n => (0#4 ++ n : BitVec 6)
  | .desc p => (1#1 ++ p ++ 0#1 : BitVec 6)
def listOf (f : BitVec 6) : Option (BitVec 4) := if f.getLsbD 5 then some (f.extractLsb' 1 4) else none
def listField : Option (BitVec 4) → BitVec 6
  | none => 0
  | some p => (1#1 ++ p ++ 0#1 : BitVec 6)

/-- The fields of an M-word. -/
def mWordOf (w : BitVec 192) : MWord where
  ic := w.extractLsb' 190 2
  fa := mFa w
  fb := mFb w
  tile := w.extractLsb' 171 3
  rm := Round.ofCode (mRmCode w)
  stampMode := StampMode.ofCode (w.extractLsb' 166 2)
  stamp := w.extractLsb' 134 32
  srcA := MSource.ofField (mSrcA w)
  srcB := MSource.ofField (mSrcB w)
  gather := listOf (w.extractLsb' 116 6)
  scatter := listOf (w.extractLsb' 110 6)
  acc := w.getLsbD 109
  full := w.getLsbD 108
  once := w.getLsbD 107
  steps := w.extractLsb' 91 16
  mx := w.extractLsb' 86 5
  my := w.extractLsb' 81 5
  imm64 := mImm w

/-- The 192-bit word of an opcode and fields (R37). -/
def mWordBits (op : BitVec 8) (x : MWord) : BitVec 192 :=
  x.ic ++ op ++ x.fa.code ++ x.fb.code ++ x.tile ++ x.rm.code ++ x.stampMode.code ++ x.stamp ++ x.srcA.toField ++ x.srcB.toField ++
  listField x.gather ++ listField x.scatter ++ BitVec.ofBool x.acc ++ BitVec.ofBool x.full ++ BitVec.ofBool x.once ++ x.steps ++
  x.mx ++ x.my ++ 0#17 ++ x.imm64

/-- The constructor of each M opcode (R49). MLDB is told apart by its A source (R148). -/
def mBuild (op : Nat) (x : MWord) : Option Instr :=
  match op with
  | 0x01 => some (.mNop x)
  | 0x10 => some (.mma x)
  | 0x11 => some (.mmag x)
  | 0x12 => some (.mzero x)
  | 0x13 => some (.mtype x)
  | 0x14 => some (match x.srcA with | .desc _ => .mldbSpad x | .breg _ => .mldbAcc x)
  | 0x15 => some (.msta x)
  | 0x20 => some (.mset x)
  | 0x21 => some (.mqpop x)
  | 0x30 => some (.mwalk x)
  | 0x31 => some (.mwres x)
  | 0x40 => some (.mfull x)
  | 0x41 => some (.mempty x)
  | 0x42 => some (.mwait x)
  | 0x50 => some (.mdraw x)
  | 0x60 => some (.mbeat x)
  | 0x61 => some (.mbend x)
  | 0x62 => some (.mlook x)
  | 0xFF => some (.mexit x)
  | _ => none

/-- The opcode and fields of an M-word; none for the other constructors. -/
def mParts : Instr → Option (BitVec 8 × MWord)
  | .mNop w => some (0x01, w)
  | .mma w => some (0x10, w)
  | .mmag w => some (0x11, w)
  | .mzero w => some (0x12, w)
  | .mtype w => some (0x13, w)
  | .mldbSpad w => some (0x14, w)
  | .mldbAcc w => some (0x14, w)
  | .msta w => some (0x15, w)
  | .mset w => some (0x20, w)
  | .mqpop w => some (0x21, w)
  | .mwalk w => some (0x30, w)
  | .mwres w => some (0x31, w)
  | .mfull w => some (0x40, w)
  | .mempty w => some (0x41, w)
  | .mwait w => some (0x42, w)
  | .mdraw w => some (0x50, w)
  | .mbeat w => some (0x60, w)
  | .mbend w => some (0x61, w)
  | .mlook w => some (0x62, w)
  | .mexit w => some (0xFF, w)
  | _ => none

/-- Decode an M-word. -/
def decodeM (w : BitVec 192) : Except Reject Instr :=
  match worst (mViol w) with
  | some r => .error r
  | none => match mBuild (mOp w).toNat (mWordOf w) with
    | some i => .ok i
    | none => .error ⟨.resOpcode, 189⟩

/-- The 192-bit word of an M-word; none for the other constructors. -/
def encodeM (i : Instr) : Option (BitVec 192) := (mParts i).map fun p => mWordBits p.1 p.2

/-! ## Words as bytes -/

/-- Little-endian: byte 0 is the lowest (R23). -/
def bytesToNat : List Byte → Nat
  | [] => 0
  | b :: bs => b.toNat + 256 * bytesToNat bs

/-- The bytes of a number, lowest first. -/
def natToBytes : Nat → Nat → List Byte
  | 0, _ => []
  | k + 1, v => BitVec.ofNat 8 v :: natToBytes k (v / 256)

/-- The word of an instruction as a number of bits and its value; none for an event, which is no word. -/
def encode (i : Instr) : Option (Nat × Nat) :=
  match encodeS i with
  | some w => some (32, w.toNat)
  | none => match encodeV i with
    | some w => some (96, w.toNat)
    | none => (encodeM i).map fun w => (192, w.toNat)

/-- The decoder of a stream's word from its bytes, lowest first (R23): 4 bytes for the S-stream and an HCP, 12 for
the V-stream, 24 for the M-stream. Bytes of any other length are refused. -/
def decodeBytes (st : StreamId) (bs : List Byte) : Except Reject Instr :=
  match st, bs.length with
  | .s, 4 => decodeS (BitVec.ofNat 32 (bytesToNat bs))
  | .v, 12 => decodeV (BitVec.ofNat 96 (bytesToNat bs))
  | .m, 24 => decodeM (BitVec.ofNat 192 (bytesToNat bs))
  | _, _ => .error ⟨.resOpcode, 29⟩

/-- The instruction the decoder reads from a word of the opcode table: rows of up to 32 bits are S-words and heath
words, of up to 96 bits V-words, wider ones M-words; bits above nbits are 0. -/
def decodeTableWord (nbits w : Nat) : Option Instr :=
  let v := w % 2 ^ nbits
  let r := if nbits ≤ 32 then decodeBytes .s (natToBytes 4 v)
    else if nbits ≤ 96 then decodeBytes .v (natToBytes 12 v)
    else decodeBytes .m (natToBytes 24 v)
  match r with
  | .ok i => some i
  | .error _ => none

end Sys2Proof
end

