-- ==== Sys2Proof/Config.lean ====
section
/-! DEFINITION. What the spec leaves to an implementation or leaves open: constants without a body, so that nothing in Lean
can evaluate them and a statement holds whatever they are (log entry 2). Functions of `Nat` are applied to State.fresh, a
counter that each use advances. -/
namespace Sys2Proof

-- DESIGN CHOICE, safe: log entry 2.
/-- Latency beyond a published least latency, in cycles of the access's clock (R192, R396, R397). -/
opaque Config.excess : Nat → Nat
-- DESIGN CHOICE, safe: log entry 2.
/-- Cycles between a store's issue and its performance, beyond what order asks (R227). -/
opaque Config.storeDelay : Nat → Nat
-- DESIGN CHOICE, unsafe: log entry 27.
/-- The scopes narrower than DIE at which a store is performed early, and after how many cycles (R212, R213). -/
opaque Config.nearScope : Nat → Nat
opaque Config.nearDelay : Nat → Nat
-- DESIGN CHOICE, safe: log entry 2.
/-- DRAM timing allows a command in this slot (R254). -/
opaque Config.dramReady : Nat → Bool
-- DESIGN CHOICE, unsafe: log entry 53.
/-- Slots after which DRAM timing no longer holds back a request (R227). -/
opaque Config.dramBound : Nat
/-- Latency beyond the least one of a second-tier port (R189, R192). -/
opaque Config.portTime : Nat → Nat
/-- HCP cycles the engines of a heath command take after its first DRAM command (R397). -/
opaque Config.engineTime : Nat → Nat
/-- Cycles a granule of the stream engine takes beyond its memory access (R204). -/
opaque Config.granuleTime : Nat → Nat
-- DESIGN CHOICE, safe: log entry 11.
/-- Virtual address of the base of a region's code section of a stream (0 S, 1 V, 2 M), by the RCB's address (R23). -/
opaque Config.sectionBase : Nat → Nat → W64
-- DESIGN CHOICE, safe: log entry 2.
/-- Bytes of a line read through an EMPTY key slot (R362): line, writing key. -/
opaque Config.scramble : Nat → BitVec 512 → Line
/-- The key of slot 0, loaded at a reset from the hardware random source (R362). -/
opaque Config.slot0Key : Nat → BitVec 512
/-- What an EMPTY key slot writes a line with (R362). -/
opaque Config.emptyKey : Nat → BitVec 512
/-- The wrap key of an epoch (R363, R366). -/
opaque Config.wrapKey : Nat → BitVec 256
/-- The fused wrap epoch (R367). -/
opaque Config.fusedEpoch : BitVec 16
/-- Package power in watts at a comparison (R297). -/
opaque Config.power : Nat → Nat
/-- Energy a meter gains in one cycle of a busy unit, in units of 2^-10 microjoule (R295). -/
opaque Config.energy : Nat → Nat
/-- The hardware random source's decision on a neighbour refresh with probability 2^-k (R258). -/
opaque Config.neighbour : Nat → Nat → Bool
/-- A bank is due for refresh (R255). -/
opaque Config.refreshDue : Nat → Bool

/-- Data with a signer's public key and signature, and the counter-signer's where there is one (R364). -/
structure Signed where
  body : List Nat
  pub : List Nat
  sig : List Nat
  counter : Option (List Nat × List Nat) := none
  deriving DecidableEq, Repr, Inhabited

-- DESIGN CHOICE, safe: log entry 2.
/-- Firmware image and debug certificate number n, as the outside world has made them (R364, R393). -/
opaque Config.image : Nat → Signed
opaque Config.cert : Nat → Signed
/-- The SHA-256 digests of the public keys of Pogrim's and of the customer's signing root (R2, R364). -/
opaque Config.pogrimRoot : BitVec 256
opaque Config.customerRoot : BitVec 256

/-- How the identity key's use at a reset goes: well, or the counter fails to advance, or to persist, or the derived pair fails its
self-verification (R365). -/
inductive AttestFate | ok | noAdvance | noPersist | badPair
  deriving DecidableEq, Repr, Inhabited

opaque Config.attest : Nat → AttestFate
/-- The signature of a report with a leaf of the attestation key derived from the device secret and q: q, leaf, what it covers (R365). -/
opaque Config.reportSig : Nat → Nat → List Nat → List Nat
/-- A boot step's own work is done (R394). -/
opaque Config.bootDone : Nat → Nat → Bool
/-- GTC modulo 14 at an edge of the reference period (R111, R392). -/
opaque Config.edge : Nat → Nat
/-- A line of the opaque blocks of a saved image, by the save and the line's place in the image (R381). -/
opaque Config.imageBlock : Nat → Nat → Line
-- DESIGN CHOICE, safe: log entry 55.
/-- A sync engine has room for one more ownership entry or undo record, by how many of each it has (R321, R325), beside BOOTCFG.OVF. -/
opaque Config.haspRoom : Nat → Nat → Nat → Bool
-- DESIGN CHOICE, safe: log entry 76.
/-- The host trains its port as CXL 3.x, so that port 0 also carries pooled memory (R387). -/
opaque Config.hostCxl : Bool
-- PRESUMED, safe: log entry 96.
/-- Registers of the management core's hart, whose firmware no rule gives, by cycle since power-on and number (R3). -/
opaque Config.hart : Nat → Nat → BitVec 64
-- DESIGN CHOICE, safe: log entry 30.
/-- A value that a rule writes and does not state. -/
opaque Config.unstated : Nat → BitVec 64

end Sys2Proof
end

