-- ==== Sys2Proof/Machine/Crypto.lean ====
section
/-! DEFINITION. The algorithms that the rules of isolation name by their standards: AES-256 and XTS of IEEE 1619 (R361), the key unwrapping
of RFC 3394 (R363), SHA-256, and the LMS signatures of RFC 8554 with LMS_SHA256_M32_H20 and LMOTS_SHA256_N32_W8 (R364). Bytes
are numbers below 256, in the order in which the standards write them. -/
namespace Sys2Proof.Machine

/-- The bytes of a number, lowest first, and the number of bytes. -/
def bytesLe (n v : Nat) : List Nat := (List.range n).map fun i => v / 2 ^ (8 * i) % 256
def ofLe (bs : List Nat) : Nat := bs.foldr (fun b a => b + 256 * a) 0
/-- The same, highest first. -/
def bytesBe (n v : Nat) : List Nat := (bytesLe n v).reverse
def ofBe (bs : List Nat) : Nat := ofLe bs.reverse

def xorBytes (a b : List Nat) : List Nat := List.zipWith Nat.xor a b

/-! ## AES-256 -/

-- PRESUMED, unsafe: log entry 94.
/-- The S-box and its inverse, entry i in byte i. -/
def aesSbox : Nat :=
  0x16bb54b00f2d99416842e6bf0d89a18cdf2855cee9871e9b948ed9691198f8e19e1dc186b95735610ef6034866b53e708a8bbd4b1f74dde8c6b4a61c2e2578ba08ae7a65eaf4566ca94ed58d6d37c8e779e4959162acd3c25c2406490a3a32e0db0b5ede14b8ee4688902a22dc4f816073195d643d7ea7c41744975fec130ccdd2f3ff1021dab6bcf5389d928f40a351a89f3c507f02f94585334d43fbaaefd0cf584c4a39becb6a5bb1fc20ed00d153842fe329b3d63b52a05a6e1b1a2c830975b227ebe28012079a059618c323c7041531d871f1e5a534ccf73f362693fdb7c072a49cafa2d4adf04759fa7dc982ca76abd7fe2b670130c56f6bf27b777c63
def aesInv : Nat :=
  0x7d0c2155631469e126d677ba7e042b17619953833cbbebc8b0f52aae4d3be0a0ef9cc9939f7ae52d0d4ab519a97f51605fec8027591012b131c7078833a8dd1ff45acd78fec0db9a2079d2c64b3e56fc1bbe18aa0e62b76f89c5291d711af1476edf751ce837f9e28535ade72274ac9673e6b4f0cecff297eadc674f4111913a6b8a130103bdafc1020f3fca8f1e2cd00645b3b80558e4f70ad3bc8c00abd890849d8da75746155edab9edfd5048706c92b6655dcc5ca4d41698688664f6f87225d18b6d49a25b76b224d92866a12e084ec3fa420b954cee3d23c2a632947b54cbe9dec444438e3487ff2f9b8239e37cfbd7f3819ea340bf38a53630d56a0952
def tableByte (t i : Nat) : Nat := t / 2 ^ (8 * i) % 256

/-- Products in AES's field, by x and by any byte. -/
def aesX (a : Nat) : Nat := if 128 ≤ a then Nat.xor (2 * a % 256) 0x1B else 2 * a
def aesMul (a b : Nat) : Nat :=
  ((List.range 8).foldl (fun (q : Nat × Nat) i => (if b / 2 ^ i % 2 = 1 then Nat.xor q.1 q.2 else q.1, aesX q.2)) (0, a)).1

/-- Each column of a state by the circulant matrix with this first row. -/
def aesMix (row st : List Nat) : List Nat :=
  (List.range 16).map fun i => (List.range 4).foldl (fun a j => Nat.xor a (aesMul (row.getD ((j + 4 - i % 4) % 4) 0) (st.getD (4 * (i / 4) + j) 0))) 0
/-- Row r of the state moves by r columns to the left, k = 1, or to the right, k = 3. -/
def aesShift (k : Nat) (st : List Nat) : List Nat := (List.range 16).map fun i => st.getD (4 * ((i / 4 + k * (i % 4)) % 4) + i % 4) 0

/-- The 60 words of the key schedule, the last first. -/
def aesWords (key : List Nat) : List (List Nat) :=
  (List.range 52).foldl (fun ws j =>
    let t := ws.headD []
    let u := if j % 8 = 0 then xorBytes ((t.drop 1 ++ t.take 1).map (tableByte aesSbox)) [2 ^ (j / 8), 0, 0, 0]
      else if j % 8 = 4 then t.map (tableByte aesSbox) else t
    xorBytes (ws.getD 7 []) u :: ws) ((List.range 8).map fun i => (key.drop (4 * i)).take 4).reverse
/-- The fifteen round keys of 16 bytes. -/
def aesKeys (key : List Nat) : List (List Nat) :=
  let ws := (aesWords key).reverse
  (List.range 15).map fun r => ((ws.drop (4 * r)).take 4).flatten

/-- Encryption and decryption of one block. -/
def aesEnc (key blk : List Nat) : List Nat :=
  let ks := aesKeys key
  (List.range 14).foldl (fun st r =>
    let t := aesShift 1 (st.map (tableByte aesSbox))
    xorBytes (if r = 13 then t else aesMix [2, 3, 1, 1] t) (ks.getD (r + 1) [])) (xorBytes blk (ks.headD []))
def aesDec (key blk : List Nat) : List Nat :=
  let ks := aesKeys key
  (List.range 14).reverse.foldl (fun st r =>
    let t := xorBytes ((aesShift 3 st).map (tableByte aesInv)) (ks.getD r [])
    if r = 0 then t else aesMix [14, 11, 13, 9] t) (xorBytes blk (ks.getD 14 []))

/-! ## XTS of one line (R361) -/

/-- The tweak of the next block. -/
def xtsNext (t : Nat) : Nat := if 2 ^ 127 ≤ t then Nat.xor (2 * t % 2 ^ 128) 0x87 else 2 * t

-- DEDUCED, unsafe: log entry 94.
/-- XTS over the four blocks of the line at a physical address. key1, the lower half of a slot, encrypts the blocks, and key2 the tweak. -/
def xts (block : List Nat → List Nat → List Nat) (key : BitVec 512) (pa : Nat) (d : Line) : Line :=
  let k1 := bytesLe 32 key.toNat
  let t0 := ofLe (aesEnc (bytesLe 32 (key.toNat / 2 ^ 256)) (bytesLe 16 pa))
  let r := (List.range 4).foldl (fun (q : List Nat × Nat) j =>
    let t := bytesLe 16 q.2
    (q.1 ++ xorBytes (block k1 (xorBytes (bytesLe 16 (d.toNat / 2 ^ (128 * j))) t)) t, xtsNext q.2)) ([], t0)
  BitVec.ofNat 512 (ofLe r.1)
def xtsEnc : BitVec 512 → Nat → Line → Line := xts aesEnc
def xtsDec : BitVec 512 → Nat → Line → Line := xts aesDec

/-! ## Key unwrapping (R363) -/

-- PRESUMED, unsafe: log entry 94.
/-- RFC 3394 unwrapping of a 72-byte blob: key1 and key2, or none where the integrity check fails. -/
def keyUnwrap (kek : BitVec 256) (blob : BitVec 576) : Option (BitVec 512) :=
  let k := bytesLe 32 kek.toNat
  let c := bytesLe 72 blob.toNat
  let r := (List.range 48).reverse.foldl (fun (q : List Nat × List (List Nat)) j =>
    let b := aesDec k (xorBytes q.1 (bytesBe 8 (j + 1)) ++ q.2.getD (j % 8) [])
    (b.take 8, q.2.set (j % 8) (b.drop 8))) (c.take 8, (List.range 8).map fun i => (c.drop (8 * i + 8)).take 8)
  if r.1 = List.replicate 8 0xA6 then some (BitVec.ofNat 512 (ofLe r.2.flatten)) else none

/-! ## SHA-256 -/

-- PRESUMED, unsafe: log entry 94.
/-- The round constants and the first hash value, word i in bits 32i + 31 to 32i. -/
def shaK : Nat :=
  0xc67178f2bef9a3f7a4506ceb90befffa8cc7020884c8781478a5636f748f82ee682e6ff35b9cca4f4ed8aa4a391c0cb334b0bcb52748774c1e376c0819a4c116106aa070f40e3585d6990624d192e819c76c51a3c24b8b70a81a664ba2bfe8a192722c8581c2c92e766a0abb650a735453380d134d2c6dfc2e1b213827b70a851429296706ca6351d5a79147c6e00bf3bf597fc7b00327c8a831c66d983e515276f988da5cb0a9dc4a7484aa2de92c6f240ca1cc0fc19dc6efbe4786e49b69c1c19bf1749bdc06a780deb1fe72be5d74550c7dc3243185be12835b01d807aa98ab1c5ed5923f82a459f111f13956c25be9b5dba5b5c0fbcf71374491428a2f98
def shaH : Nat := 0x5be0cd191f83d9ab9b05688c510e527fa54ff53a3c6ef372bb67ae856a09e667
def shaWord (t i : Nat) : Nat := t / 2 ^ (32 * i) % 2 ^ 32

/-- XOR of three rotations to the right of a 32-bit word, by a, b and c; the third is a shift where `sh`. -/
def shaMix (x a b c : Nat) (sh : Bool) : Nat :=
  let rot (n : Nat) : Nat := x / 2 ^ n + x % 2 ^ n * 2 ^ (32 - n)
  Nat.xor (Nat.xor (rot a) (rot b)) (if sh then x / 2 ^ c else rot c)

/-- The 64 words of a block's schedule, the last first. -/
def shaSchedule (blk : List Nat) : List Nat :=
  (List.range 48).foldl (fun ws _ =>
    let g (i : Nat) : Nat := ws.getD i 0
    (shaMix (g 1) 17 19 10 true + g 6 + shaMix (g 14) 7 18 3 true + g 15) % 2 ^ 32 :: ws)
    ((List.range 16).map fun i => ofBe ((blk.drop (4 * i)).take 4)).reverse

/-- One round on the words a to h; `kw` is the round's constant and word. -/
def shaRound (v : List Nat) (kw : Nat) : List Nat :=
  match v with
  | [a, b, c, d, e, f, g, h] =>
    let t1 := h + shaMix e 6 11 25 false + Nat.xor (Nat.land e f) (Nat.land (2 ^ 32 - 1 - e) g) + kw
    let t2 := shaMix a 2 13 22 false + Nat.xor (Nat.xor (Nat.land a b) (Nat.land a c)) (Nat.land b c)
    [(t1 + t2) % 2 ^ 32, a, b, c, (d + t1) % 2 ^ 32, e, f, g]
  | v => v

def shaBlock (h blk : List Nat) : List Nat :=
  List.zipWith (fun a b => (a + b) % 2 ^ 32) h ((shaSchedule blk).reverse.zipIdx.foldl (fun v q => shaRound v (shaWord shaK q.2 + q.1)) h)

def shaPad (msg : List Nat) : List Nat := msg ++ [0x80] ++ List.replicate ((119 - msg.length % 64) % 64) 0 ++ bytesBe 8 (8 * msg.length)

/-- The 32 bytes of SHA-256. -/
def sha256 (msg : List Nat) : List Nat :=
  let p := shaPad msg
  ((List.range (p.length / 64)).foldl (fun h i => shaBlock h ((p.drop (64 * i)).take 64)) ((List.range 8).map (shaWord shaH))).flatMap (bytesBe 4)

/-! ## LMS (R364) -/

/-- The candidate of the one-time public key (RFC 8554, algorithm 4b) with w = 8 and n = 32: 34 chains of 255 steps. -/
def lmotsKey (ident q c : List Nat) (y : List (List Nat)) (msg : List Nat) : List Nat :=
  let d := sha256 (ident ++ q ++ [0x81, 0x81] ++ c ++ msg)
  let z := ((d ++ bytesBe 2 (d.map fun b => 255 - b).sum).zip y).zipIdx.map fun e =>
    (List.range (255 - e.1.1)).foldl (fun t j => sha256 (ident ++ q ++ bytesBe 2 e.2 ++ [e.1.1 + j] ++ t)) e.1.2
  sha256 (ident ++ q ++ [0x80, 0x80] ++ z.flatten)

-- PRESUMED, unsafe: log entry 94.
/-- A signature of 1,772 bytes verifies over a message under a public key of 56 bytes (RFC 8554, algorithm 6). -/
def lmsVerify (pub msg sig : List Nat) : Bool :=
  let ident := (pub.drop 8).take 16
  let q := sig.take 4
  let part (o : Nat) : List Nat := (sig.drop o).take 32
  let leaf := 2 ^ 20 + ofBe q
  let t0 := sha256 (ident ++ bytesBe 4 leaf ++ [0x82, 0x82] ++ lmotsKey ident q (part 8) ((List.range 34).map fun i => part (40 + 32 * i)) msg)
  let root := (List.range 20).foldl (fun t i =>
    let n := leaf / 2 ^ i
    sha256 (ident ++ bytesBe 4 (n / 2) ++ [0x83, 0x83] ++ if n % 2 = 1 then part (1132 + 32 * i) ++ t else t ++ part (1132 + 32 * i))) t0
  pub.length == 56 && sig.length == 1772 && ofBe (pub.take 4) == 8 && ofBe ((pub.drop 4).take 4) == 4 && ofBe ((sig.drop 4).take 4) == 4 &&
    ofBe ((sig.drop 1128).take 4) == 8 && decide (ofBe q < 2 ^ 20) && root == (pub.drop 24).take 32

/-! ## Signed data (R2, R364, R393) -/

/-- Data verify under a signing root: its digest is that of the public key, and the signature verifies. -/
def signedBy (d : Signed) (root : BitVec 256) : Bool := ofBe (sha256 d.pub) == root.toNat && lmsVerify d.pub d.body d.sig

-- DEDUCED, unsafe: log entry 94.
/-- The device accepts a firmware image (R2, R364): on a -A part one that Pogrim has signed; on a -AC part one signed under the customer's
root, or Pogrim's with the customer's counter-signature over the image and its Pogrim signature. -/
def firmwareOk (customer : Bool) (n : Nat) : Bool :=
  let im := Config.image n
  if customer then
    signedBy im Config.customerRoot ||
      (signedBy im Config.pogrimRoot && match im.counter with
        | some c => signedBy { body := im.body ++ im.sig, pub := c.1, sig := c.2 } Config.customerRoot
        | none => false)
  else signedBy im Config.pogrimRoot

/-- A debug certificate is signed under the part's signing root (R393). -/
def certOk (customer : Bool) (n : Nat) : Bool := signedBy (Config.cert n) (if customer then Config.customerRoot else Config.pogrimRoot)

end Sys2Proof.Machine
end

