-- ==== Sys2Proof/Machine/State.lean ====
section
/-! DEFINITION. The state of the whole CX-40 package as plain data, the reasons a step stops, and the state after reset.
Every field with no docstring of its own is the item of the same name in INVENTORY.md. -/
namespace Sys2Proof.Machine

/-! ## Reasons a step stops -/

-- DESIGN CHOICE, safe: log entry 82.
/-- Faults. -/
inductive Fault
  /-- Raised by an access to a physical address that R186 calls unbacked and that no window or page check refused.
  Safe: the hardware gives such an access no meaning, and the model stops. -/
  | unbacked (pa : Nat)
  deriving DecidableEq, Repr

/-- Refusals. -/
inductive Refusal
  /-- Raised by an arm of exec whose instruction has no meaning yet. Safe: nothing is claimed of it. -/
  | notModelled (mnemonic : String)
  deriving DecidableEq, Repr

/-! ## Registers and queues -/

/-- A register value on its way: visible from cycle `due` on (R26, R94). Lists of these stand in program order. -/
structure PendReg where
  reg : Nat
  due : Nat
  val : W32
  /-- the place of its word among the stream's words: the earliest cycle of the issue after it -/
  ord : Nat := 0
  deriving DecidableEq, Repr

/-- What an S-stream and a heath command processor share: registers, program counter, results in flight, and the
earliest cycle of the next issue (R25, R94, R95). Cycles are MTC in a context and HCP cycles on an HCP (R111). -/
structure SCore where
  regs : Tab W32 := []
  pc : W32 := 0
  pend : List PendReg := []
  nextAt : Nat := 0
  deriving DecidableEq, Repr

/-- What is context-ordered before a point of one stream (R218): for each stream, the accesses with a sequence number
below the bound. -/
structure Reach where
  s : Nat := 0
  v : Nat := 0
  m : Nat := 0
  deriving DecidableEq, Repr

/-- One entry of a queue register with the GTC cycle of its push (R22) and what the push orders (R218). -/
structure QItem (w : Nat) where
  val : BitVec w
  at_ : Nat
  rel : Reach := {}
  deriving DecidableEq, Repr

/-- A queue register: entries oldest first, and how many pops the cycle `popAt` has taken, whose slots are not
free in that cycle (R22). -/
structure QReg (w : Nat) where
  items : List (QItem w) := []
  popAt : Nat := 0
  popCnt : Nat := 0
  deriving DecidableEq, Repr

/-! ## Traps -/

/-- Where SEPC points after trap entry (R373, step 3). -/
inductive SepcRule | atWord | afterWord | nextUnissued
  deriving DecidableEq, Repr

/-- A cause raised and not yet entered (R373). `stream` is none for a cause bound to no word. -/
structure TrapPend where
  cause : Nat
  tval : W64
  tpc : W32
  stream : Option StreamId
  sepc : SepcRule
  /-- GTC and MTC cycle of the cause -/
  at_ : Nat
  mtc : Nat := 0
  /-- the first further cause (R373) -/
  cause2 : Option Nat := none
  /-- the address that TPC receives in place of the cause's own: that after the MWALK whose walk the cause has stopped (R153) -/
  walk : Option W32 := none
  /-- the word had issued when its cause arose: at a landing, a completion or a later step -/
  issued : Bool := false
  deriving DecidableEq, Repr

/-! ## Loads and stores -/

/-- A run of bytes of one access that lies in one page: offset in the access, physical address, key slot, and
whether the entry is resident (R193, R194, R216). -/
structure Part where
  off : Nat
  len : Nat
  va : Nat
  pa : Nat
  key : Nat
  kind : Nat
  res : Bool
  deriving DecidableEq, Repr

/-- Where a load lands (R194, R196, R197, R199, R200). -/
inductive LandDest
  /-- a scalar register, or a pair when `pair`; `p15` says whether the load reports residency -/
  | scalar (rd : Nat) (pair p15 : Bool)
  /-- a whole or guarded row -/
  | row (v : Nat)
  /-- an entry of q4-q7 -/
  | queue (q : Nat)
  deriving DecidableEq, Repr

/-- A landing-buffer entry (R190, R191). `lam` is its landing cycle, `arriveAt` the earliest GTC of its arrival, then that of the arrival, `data`
its bytes once arrived, byte 0 lowest; `bad` marks poisoned bytes and `nonres` bytes of non-resident entries.
`mask` are the lanes a VLDS writes (R200), `et` the element type, `resPred` the predicate that takes the residency report of
a VLD's last step, which `mask` then holds. -/
structure LandEntry where
  id : Nat
  stream : StreamId
  pc : W32
  lam : Nat
  arriveAt : Nat
  dest : LandDest
  bytes : Nat
  parts : List Part
  spad : Option Nat := none
  et : ElemType := .n32
  mask : Option Pred := none
  resPred : Option Nat := none
  arrived : Bool := false
  data : Row := 0
  bad : Pred := 0
  nonres : Pred := 0
  hasp : Bool := false
  /-- the place of its word among the stream's words, as in PendReg -/
  ord : Nat := 0
  /-- GTC of its issue (R96) -/
  at_ : Nat := 0
  /-- the pages' parts that are not read yet, by their offsets, with the earliest GTC of each (R216) -/
  todo : List (Nat × Nat) := []
  /-- what is context-ordered before it (R218) -/
  reach : Reach := {}
  /-- a scratchpad read that waits for the read port of its bank (R176); `data` and `mask` are then the old row and the bytes to
  be written over it (R200) -/
  port : Bool := false
  deriving DecidableEq, Repr

-- DESIGN CHOICE, unsafe: log entry 27.
/-- A store that has issued and is not yet performed at SYS (R213-R215), with the bytes it writes and their mask. From the cycle
`near.1` on it may be performed at the `near.2` narrowest scopes; `seen` is how many it is performed at. -/
structure PendStore where
  id : Nat
  stream : StreamId
  parts : List Part
  data : Row
  mask : Pred
  due : Nat
  hasp : Bool := false
  /-- the address after the store's word -/
  after : W32 := 0
  /-- what is context-ordered before it (R218) -/
  reach : Reach := {}
  near : Nat × Nat := (0, 0)
  seen : Nat := 0
  deriving DecidableEq, Repr

/-- A slot of the atomic-return queue (R234): reserved, then filled with a value or marked with a cause. -/
structure ArqSlot where
  id : Nat
  val : Option W64 := none
  mark : Option Nat := none
  tval : W64 := 0
  deriving DecidableEq, Repr

/-! ## Hasps -/

/-- STATE of a hasp record (R319). -/
inductive HaspState | none | active | restart
  deriving DecidableEq, Repr

/-- Why a task rolls back (R327). -/
inductive RollWhy | restart | capacity | abort (code : Nat)
  deriving DecidableEq, Repr

/-- An age key: GTC, meadow coordinate, context number (R320). -/
structure AgeKey where
  g : Nat
  coord : Nat
  ctx : Nat
  deriving DecidableEq, Repr

/-- The hasp record of a context (R319). WAITSET names a set by die, region and identifier. -/
structure Hasp where
  state : HaspState := .none
  age : AgeKey := ⟨0, 0, 0⟩
  tbpc : W32 := 0
  rd : Nat := 0
  restarts : Nat := 0
  snap : Tab W32 := []
  waitSet : Option (Nat × Nat × Nat) := none
  /-- TEND has marked the sets and waits for its release (R332); its issue control. -/
  committing : Bool := false
  ic : BitVec 2 := 0
  /-- the engine has undone the task, and its registers are restored once its loads have landed (R326) -/
  roll : Option RollWhy := none
  deriving DecidableEq, Repr

/-! ## Stream engine -/

/-- A command of a context's queue (R204): a pushed descriptor, or a chain token with its entry's address (R210). -/
structure SECmd where
  d : List W64
  chain : Option W64 := none
  scope : Scope
  /-- accesses that the push releases (R219) -/
  rel : Reach
  deriving DecidableEq, Repr

/-- The command that runs at the head of the queue (R206): its descriptor, the row and unit it is at, how many
units it has moved, the buffers it has written, and the status it has halted with. -/
structure SERun where
  d : List W64
  chain : Bool := false
  /-- a chain entry that could not be fetched -/
  entryAt : Option W64 := none
  row : Nat := 0
  unit : Nat := 0
  /-- half bytes of source and destination behind the row's start, in a copy between banks (R179) -/
  nibs : Nat × Nat := (0, 0)
  /-- list(r) of the current row, once it is read (R206) -/
  index : Option Nat := none
  /-- the DRAM requests of the next granule or of the chain entry, once they are entered (R253) -/
  req : Option Nat := none
  moved : Nat := 0
  bufs : List Nat := []
  halted : Option Nat := none
  started : Bool := false
  done : Bool := false
  /-- GTC before which the engine does not move the next granule. -/
  readyAt : Nat := 0
  /-- the result entries still to be pushed, and whether each raises the command's notification (R208) -/
  owe : List (W64 × Bool) := []
  deriving DecidableEq, Repr

/-- Stream-engine state of a context (R204). `claims` counts result slots promised to RQPAGE (R211). -/
structure SEState where
  shadow : Tab W64 := []
  queue : List SECmd := []
  run : Option SERun := none
  results : List W64 := []
  claims : Nat := 0
  /-- notifications that wait for a slot of the notification queue, and hold the engine for the context (R244) -/
  owedNotify : List (BitVec 16) := []
  deriving DecidableEq, Repr

/-! ## Words in progress -/

/-- The answer to a held word. -/
inductive Answer
  | ok (v : W64)
  | trap (cause : Nat) (tval : W64)
  deriving DecidableEq, Repr

/-- An S-word held at the head of its stream with a request out (R237, R247, R309, R322): its address, and the answer once it
has come. -/
structure SWait where
  id : Nat
  pc : W32
  answer : Option Answer := none
  /-- the word has issued and its result is written when the answer comes (R247, R322, R383, R353, R363) -/
  issued : Bool := false
  rd : Nat := 0
  ic : BitVec 2 := 0
  deriving DecidableEq, Repr

-- DEDUCED, unsafe: log entry 19.
/-- The result of a swept step that is not yet delivered, with the GTC cycle it is due in (R15, R116). -/
structure VResult where
  step : Nat
  due : Nat
  row : Row
  hi : Row := 0
  /-- bytes written of each row, or bits written of a predicate; the others keep the destination -/
  mask : Pred
  /-- the destination is a pair of rows; a predicate -/
  wide : Bool := false
  pred : Bool := false
  deriving DecidableEq, Repr

/-- A V-word whose sweep is under way (R112-R116). `t0` is the GTC of its issue, `step` the next sweep step, and `slip` the cycles
for which its steps have waited on a queue (R21). -/
structure VFlight where
  id : Nat
  ctx : Nat
  ins : Instr
  pc : W32
  t0 : Nat
  n : Nat
  c : Nat
  lat : Nat
  step : Nat := 0
  slip : Nat := 0
  done : List VResult := []
  k : W64 := 0
  c0 : W32 := 0
  /-- carried values of reductions, scans, merges and compactions -/
  acc : List Nat := []
  accN : Nat := 0
  /-- the landing entries or the store's parts of each step (R197, R198, R200) -/
  ids : List Nat := []
  parts : List (List Part) := []
  rel : Reach := {}
  /-- rows that its results have written: number, contents and poison before, contents after -/
  wrote : List (Nat × Row × Bool × Row) := []
  /-- predicates that its results have written: number, contents before and after -/
  wroteP : List (Nat × Pred × Pred) := []
  deriving DecidableEq, Repr

/-- The walk a tile word follows (R152): the 32 words of its TOPB as read at issue, and the address of the word after its
MWALK. -/
structure Walk where
  topb : List W32
  after : W32
  deriving DecidableEq, Repr

/-- A tile-step word that runs on the array, or that a cause or pre-emption has stopped between steps (R140, R143).
`regs` are the descriptor registers as read at issue: A, B, gather list, scatter list. -/
structure TileWord where
  ins : Instr
  pc : W32
  next : Nat := 0
  total : Nat := 1
  /-- GTC of its last issued step -/
  lastAt : Nat := 0
  stamped : Bool := false
  running : Bool := true
  k : W64 := 0
  c0 : W32 := 0
  walk : Option Walk := none
  regs : List W32 := []
  /-- a suspended walk: the trap being handled is its own (R153) -/
  byTrap : Bool := false
  /-- the word has taken its seed and its counter range (R81) -/
  counted : Bool := false
  /-- an MWRES that has stopped: its re-issue has no stamp (R143) -/
  bare : Bool := false
  deriving DecidableEq, Repr

/-- One operand of a tile step: an operand register, or the address of each of its rows, none for a row of +0; the rows
fetched so far with their block scales, band scales, and the bytes that a bad word or scale spoils, and the address of the first bad word. -/
structure TileOperand where
  fmt : ElemType
  reg : Option Nat := none
  addrs : List (Option Nat) := []
  rows : List BRow := []
  scales : List (BitVec 512) := []
  bands : List (BitVec 16) := []
  bad : List (BitVec 256) := []
  badAt : Option Nat := none
  deriving DecidableEq, Repr

/-- A tile step in flight (R140): its operands are fetched one row per cycle and its result lands 272 cycles after
issue. `sbf` are the format registers of its issue cycle (R178), `c0` the counter value of its first coin. -/
structure TileStep where
  id : Nat
  ctx : Nat
  at_ : Nat
  pc : W32
  step : Nat
  /-- the walk that the step belongs to (R153) -/
  walk : Option TileWord
  last : Bool
  once : Bool
  tile : Nat
  rm : Round
  overwrite : Bool
  markFull : Bool
  a : TileOperand
  b : TileOperand
  scatter : List Nat := []
  sbf : Tab W32
  k : W64
  c0 : W32
  /-- the beat that the step belongs to -/
  beat : Option Nat := none
  deriving DecidableEq, Repr

/-- Tile types (R147). -/
inductive TileType | f32 | i32 | f16 | bf16 | i64
  deriving DecidableEq, Repr

/-- An MLDB, MSTA or MDRAW in flight (R148, R149, R168), with the rows read so far. -/
structure MOp where
  id : Nat
  ctx : Nat
  at_ : Nat
  ins : Instr
  pc : W32
  /-- the descriptor or list pair, or the temperature -/
  regs : List W32 := []
  sbf : Tab W32 := []
  /-- rows to read -/
  count : Nat := 128
  operand : Option TileOperand := none
  rows : List (Row × Bool) := []
  /-- the type of the tile at issue -/
  ty : TileType := .f32
  k : W64 := 0
  c0 : W32 := 0
  deriving DecidableEq, Repr

/-- A task running on a context (R291). -/
structure Task where
  stage : Nat
  /-- index of the claimed input item and of the reserved output slot, counted without the modulus of the ring -/
  claim : Option Nat
  resv : Option Nat
  item : Nat
  deriving DecidableEq, Repr

/-- A DTOPO reading its table (R164): first the header, then, with its COUNT, the whole table. -/
structure Dtopo where
  pc : W32
  ic : BitVec 2
  addr : W64
  doneAt : Nat
  id : Nat := 0
  count : Option Nat := none
  deriving DecidableEq, Repr

/-! ## Contexts -/

-- DESIGN CHOICE, unsafe: log entry 10.
structure Ctx where
  sc : SCore := {}
  reachS : Reach := {}
  reachV : Reach := {}
  reachM : Reach := {}
  vpc : W32 := 0
  mpc : W32 := 0
  sBase : W64 := 0
  vBase : W64 := 0
  mBase : W64 := 0
  sRun : Bool := false
  /-- the S-stream had ended when the trap that is handled was entered -/
  sOver : Bool := false
  vRun : Bool := false
  mRun : Bool := false
  vNextAt : Nat := 0
  mNextAt : Nat := 0
  /-- GTC of the M-stream's previous issue, for relative stamps (R142). -/
  mPrev : Nat := 0
  preds : Tab Pred := []
  q64 : Tab (QReg 64) := []
  qrow : Tab (QReg 4096) := []
  mregs : Tab W32 := []
  seed : W64 := 0
  ctr : W32 := 0
  istat : W64 := 0
  tcause : W64 := 0
  tval : W64 := 0
  tpc : W64 := 0
  /-- the word of the trap that is handled had issued when its cause arose: ERET has no word to discard (R375) -/
  trapIssued : Bool := false
  uivec : W64 := 0
  uistat : W64 := 0
  landing : List LandEntry := []
  stores : List PendStore := []
  arq : List ArqSlot := []
  notif : List (BitVec 16) := []
  shadow : Tab W32 := []
  hasp : Hasp := {}
  se : SEState := {}
  trap : Option TrapPend := none
  unbound : List TrapPend := []
  task : Option Task := none
  tileWord : Option TileWord := none
  suspended : Option TileWord := none
  /-- the stamped word at the head whose waits have been met, and its target cycle (R142) -/
  armed : Option (W32 × Nat) := none
  sWait : Option SWait := none
  dtopo : Option Dtopo := none
  /-- consecutive ready cycles per unit: vector, array, load, drain (R293) -/
  readyRun : Tab Nat := []
  /-- units on which the context is promoted, with the MTC cycle, counted from 2^20 on, in which its wait began (R292, R293) -/
  promoted : Tab Nat := []
  /-- the context's generation (R357) -/
  gen : Nat := 0
  /-- GTC of the last write of bit 0 of p15 by a V-word (R27) -/
  p15At : Option Nat := none
  /-- the boundary of this cycle is for an entry into the user-interrupt handler (R244) -/
  uiNow : Bool := false
  /-- per stream, the word whose parity failed last and how often in a row (R376) -/
  parity : Tab (Nat × Nat) := []
  deriving DecidableEq, Repr

/-! ## Meadows -/

/-- Events of a buffer (R183, R184). -/
inductive BufEv | write | last | full | consumed | drain | emptied
  deriving DecidableEq, Repr

/-- The installed topology table (R163): the parents of its entries. -/
abbrev Topo := List W32

/-- A change that takes effect after the cycle of its word. -/
inductive LateOp
  /-- bytes of the scratchpad, lowest first, that a mask selects (R176) -/
  | spad (a len : Nat) (data : Row) (mask : Pred)
  /-- bytes that the stream engine's copy between banks marks bad (R378) -/
  | spadBad (a : Nat)
  | csr (ctx n : Nat) (v : W64)
  | tag (slot : Nat) (v : W64)
  | tagInv (slot : Nat)
  | sbf (n : Nat) (v : W32)
  | bdecl (w : W32)
  | buf (b : Nat) (ev : BufEv)
  | uien (ctx : Nat) (en : Bool)
  /-- entries of the window copy, and the image that TWLD has read them from -/
  | window (image : Option Nat) (es : List (Nat × W64))
  | topo (t : Topo)
  | look (n : Nat)
  deriving DecidableEq, Repr

/-- A change with the cycle it is made in, seen from the next cycle on, its rank among the cycle's changes (R176, R184), and the
context whose access it belongs to. -/
structure Late where
  at_ : Nat
  rank : Nat
  op : LateOp
  own : Nat := 0
  deriving DecidableEq, Repr

/-- A buffer's declaration and state (R182, R202). `enterDrain` is the GTC at which DRAINING was entered. -/
inductive BufState | empty | filling | full | draining
  deriving DecidableEq, Repr

structure Buf where
  first : Nat
  count : Nat
  readers : Nat
  once : Bool
  state : BufState
  nread : Nat := 0
  enterDrain : Nat := 0
  deriving DecidableEq, Repr

-- DESIGN CHOICE, unsafe: log entry 9.
/-- An operand register bN (R137). -/
structure BReg where
  rows : Tab BRow := []
  scales : Tab (BitVec 512) := []
  bands : Tab (BitVec 16) := []
  tag : ElemType := .f32
  deriving DecidableEq, Repr

/-- An issue unit: who holds its turn, until when it is busy (the vector unit by MTC, the others by GTC), and for how many
cycles the holder has not been ready (R292-R294). -/
structure UnitSt where
  turn : Option Nat := none
  busyUntil : Nat := 0
  idle : Nat := 0
  deriving DecidableEq, Repr

/-- A port of a beat run (R306, R307). -/
structure BeatPort where
  used : Bool := false
  queue : List W64 := []
  out : Nat := 0
  next : Nat := 0
  deriving DecidableEq, Repr

/-- A drain that has been started (R311): its beat and entry, the GTC of the beat's last result, and the rows read so far. -/
structure BeatDrain where
  beat : Nat
  entry : W64
  at_ : Nat
  rows : List (Row × Bool) := []
  deriving DecidableEq, Repr

/-- A beat run (R304-R313). `regs` are the fixed descriptors of A and B; slot s begins at `grid` + s × 128 × B. -/
structure BeatRun where
  owner : Nat
  w : MWord
  pc : W32
  grid : Nat
  slot : Nat := 0
  beat : Nat := 0
  /-- demands have been raised for the beats below this one -/
  raised : Nat := 0
  regs : List W32 := []
  /-- the previous slot ran or skipped a beat -/
  prevRan : Bool := true
  stallUntil : Nat := 0
  ports : List BeatPort := [{}, {}, {}]
  /-- the running beat: its number, entries of A and B and of its drain, operands read as zero, and the steps already issued -/
  cur : Option Nat := none
  entries : List W64 := []
  zeroA : Bool := false
  zeroB : Bool := false
  step : Nat := 0
  stepAt : Nat := 0
  drains : List BeatDrain := []
  /-- no further beat starts; the run ends when its steps and drains have -/
  ended : Bool := false
  preemptLeft : Option Nat := none
  /-- the end of the last slot that a pre-emption leaves it (R316) -/
  stopAt : Nat := 0
  /-- a larger LOOK that an MLOOK has set in this cycle (R314) -/
  lookTo : Option Nat := none
  deriving DecidableEq, Repr

/-- An MDEQ or BDWAIT on its way to or waiting at a port of this meadow (R308, R309): who sent it and when, and for an MDEQ its
entry, beat and its result cycle in the sender's MTC, for a BDWAIT the last cycle in which it is judged, its target word and how long
the answer travels. -/
structure BeatReq where
  id : Nat
  coord : Nat
  ctx : Nat
  wait : Bool
  rd : Nat := 0
  entry : W64 := 0
  n : W32 := 0
  port : Nat
  at_ : Nat
  until_ : Nat := 0
  due : Nat := 0
  sel : W32 := 0
  lat : Nat := 0
  deriving DecidableEq, Repr

/-- Scheduler state of a stage on a meadow (R289-R291). `head` and `tail` count items without the ring's modulus. -/
structure StageRt where
  started : Nat := 0
  running : Nat := 0
  claimed : Nat := 0
  reserved : Nat := 0
  /-- reservations that are finished but not yet committed, and freed items not yet passed -/
  finished : List Nat := []
  freed : List Nat := []
  deriving DecidableEq, Repr

/-- Why and how far a meadow is being stopped (R300). -/
inductive StopWhy
  | preempt
  | stop
  | halt
  | save (ctx : Nat) (rd : Nat) (image : W64)
  | load (ctx : Nat) (image : W64) (move : Bool)
  deriving DecidableEq, Repr

/-- A stop: `since` is the cycle from which its bound counts, `again` a pre-emption to follow it. -/
structure Stopping where
  why : StopWhy
  since : Nat
  /-- the cycle of the request (R302) -/
  asked : Nat := 0
  again : Bool := false
  deriving DecidableEq, Repr

-- DESIGN CHOICE, unsafe: log entry 10.
structure Meadow where
  /-- the region served, by its identifier in State.regions -/
  region : Option Nat := none
  rank : Nat := 0
  timed : Bool := false
  mtc : Nat := 0
  frozen : Bool := false
  ctxs : Tab Ctx := []
  rows : Tab Row := []
  rowPoison : List Nat := []
  tileType : Tab TileType := []
  tileFull : List Nat := []
  /-- the tile bits as they stood at the start of the cycle, which waits look at (R19), and what setting each orders (R218) -/
  tileOld : List Nat := []
  tileRel : Tab Reach := []
  late : List Late := []
  bregs : Tab BReg := []
  spad : List Host.Cell := []
  badWords : List Nat := []
  /-- latent errors: row word 64 v + i at its number, scratchpad word i at 65536 + i; 1 a single, 2 a double bit (R377, R378) -/
  ecc : Tab Nat := []
  sbf : Tab W32 := []
  tags : Tab W64 := []
  bufs : Tab Buf := []
  ring : Tab (BitVec 16) := []
  topo : Option Topo := none
  window : Tab W64 := []
  windowImage : Nat := 0
  /-- the images of entries that TWLD has loaded (R353, R354); the others come from `windowImage` -/
  twld : Tab Nat := []
  ageLimit : BitVec 8 := 16
  prio : W64 := 0
  emeter : W64 := 0
  /-- the part of EMETER that has been charged (R296) -/
  charged : W64 := 0
  mbpol : W64 := 0
  /-- MBPOL at the end of the previous cycle (R312) -/
  mbpolOld : W64 := 0
  missCount : W64 := 0
  beatLimit : BitVec 8 := 8
  beatEnd : Bool := false
  flights : List VFlight := []
  units : Tab UnitSt := []
  tileSteps : List TileStep := []
  mops : List MOp := []
  beat : Option BeatRun := none
  beatReqs : List BeatReq := []
  tvec : W32 := 0
  relmask : BitVec 16 := 0
  stages : Tab StageRt := []
  lastStage : Tab Nat := []
  stopping : Option Stopping := none
  /-- the pipeline of the stream engine: which context is served next (R204) -/
  seTurn : Nat := 0
  /-- bytes that the shared read port of each bank has given in this cycle (R176) -/
  ports : Tab Nat := []
  /-- bytes that the stream engine has moved in this cycle (R204) -/
  seBytes : Nat := 0
  deriving DecidableEq, Repr

/-! ## Sync engines -/

/-- Operations a sync engine performs (R230-R247, R322). Slots and waits are named by their identifier. -/
inductive SyncOp
  | atom (op : Nat) (signed wide : Bool) (x : W64) (slot : Option Nat)
  | cas (wide : Bool) (cmp new : W64) (slot : Nat)
  | fred (op : Nat) (ty : FredType) (x : W32)
  | sems (inc : W32)
  | bari (expect : BitVec 16)
  | barv (drop : Bool) (slot : Nat)
  | barx (bytes : W32)
  | bart (bytes : W32)
  | semw (target : W32) (limit : Nat) (id : Nat)
  | waitq (space : Bool) (k limit : Nat) (id : Nat)
  | barw (phase : W32) (limit : Nat) (id : Nat)
  | lnch (rec : Line) (id : Nat)
  | hspdecl (word : W32) (id : Nat)
  | hpost (inc : W32) (err : Option W32)
  deriving DecidableEq, Repr

/-- An operation that has left a meadow or a heath and reaches its engine at `at_` (R396). -/
structure SyncReq where
  id : Nat
  op : SyncOp
  va : Nat
  pa : Nat
  key : Nat
  scope : Scope
  /-- meadow coordinate, or heath coordinate for a post -/
  coord : Nat
  ctx : Nat
  heath : Bool := false
  region : Nat := 0
  kind : Nat := 0
  /-- what is context-ordered before it (R218) -/
  reach : Reach := {}
  /-- the accesses that must be performed first, when the operation releases (R219) -/
  rel : Option Reach := none
  /-- where a ring's or a launch record's slots translate to (R247) -/
  ring : List Part := []
  at_ : Nat
  /-- the GTC cycle of arrival at the engine, once there (R237) -/
  a0 : Option Nat := none
  /-- its line's read has entered the arbiter (R253) -/
  fetch : Bool := false
  /-- stores of a heath command processor that its post releases (R265) -/
  after : List Nat := []
  deriving DecidableEq, Repr

/-- A line held in a sync engine (R229), least recently used first in its list. -/
structure HeldLine where
  va : Nat
  pa : Nat
  key : Nat
  data : Line
  /-- bytes that its home has not been given yet -/
  dirty : BitVec 64 := 0
  poison : Bool := false
  pinned : Bool := false
  /-- the request of a recall, behind which the line leaves (R254, R256) -/
  recalled : Option Nat := none
  deriving DecidableEq, Repr

/-- An answer on its way back (R396). -/
inductive SyncAns
  | slot (id : Nat) (v : W64)
  | mark (id : Nat) (cause : Nat) (tval : W64)
  | wait (id : Nat) (a : Answer)
  deriving DecidableEq, Repr

/-- What a key slot held before a change, for the accesses issued before it, whose numbers are below `seq` (R363). -/
structure OldKey where
  slot : Nat
  key : Option (BitVec 512)
  seq : Nat
  deriving DecidableEq, Repr

structure AnsMsg where
  id : Nat
  coord : Nat
  ctx : Nat
  ans : SyncAns
  at_ : Nat
  deriving DecidableEq, Repr

/-- An atomic set's ownership entry (R321): its lines, and the holder's age key, meadow and context. -/
structure HaspSet where
  region : Nat
  ident : Nat
  base : Nat
  lines : Nat
  owner : Option AgeKey := none
  holder : Nat × Nat := (0, 0)
  committing : Bool := false
  deriving DecidableEq, Repr

/-- An undo record (R325). -/
structure Undo where
  owner : AgeKey
  set : Nat × Nat
  va : Nat
  pa : Nat
  key : Nat
  data : Line
  deriving DecidableEq, Repr

structure SyncEngine where
  lines : List HeldLine := []
  reqs : List SyncReq := []
  waiters : List SyncReq := []
  sets : List HaspSet := []
  log : List Undo := []
  /-- barrier lines whose phase has completed in the previous cycle: virtual and physical address, key (R242) -/
  again : List (Nat × Nat × Nat) := []
  /-- held lines with an uncorrectable word that nothing has met yet (R379) -/
  ecc : List Nat := []
  deriving DecidableEq, Repr

/-! ## Heaths -/

/-- A 2 MiB page listed for a kernel: its physical base and key slot (R250). -/
structure HPage where
  pa : Nat
  key : Nat
  deriving DecidableEq, Repr

/-- A load an HCP waits on (R252). -/
structure HLoad where
  id : Nat
  rd : Nat
  pair : Bool
  bytes : Nat
  pa : Nat
  key : Nat
  at_ : Nat
  deriving DecidableEq, Repr

structure Hcp where
  sc : SCore := {}
  hi : BitVec 16 := 0
  running : Bool := false
  launch : Nat := 0
  rank : Nat := 0
  entry : Nat := 0
  entryKey : Nat := 0
  /-- the kernel's end writes its entry (R251, R288) -/
  entryOn : Bool := false
  pages : List HPage := []
  /-- its pages and post slots are pinned (R250, R359) -/
  pins : Bool := false
  /-- post slots: virtual address, physical address and key slot of each used slot -/
  posts : Tab (Nat × Nat × Nat) := []
  status : Tab W32 := []
  failed : Nat := 0
  cols : Nat := 64
  ns : Nat := 512
  lease : Option (Nat × Nat) := none
  load : Option HLoad := none
  /-- the kernel has stopped with this status and cause and waits for its commands (R251) -/
  ending : Option (Nat × Nat) := none
  stores : List PendStore := []
  effClass : Nat := 7
  meter : W64 := 0
  charged : W64 := 0
  /-- the channel's walker served this HCP last (R262) -/
  walked : Bool := false
  deriving DecidableEq, Repr

/-- A command handed to engines (R262), in push order. Engines: bank group 0-3, 4 reduction, 5 walker. -/
structure HCmd where
  id : Nat
  hcp : Nat
  func : Nat
  block : List W64
  engines : List Nat
  readyAt : Nat
  started : Bool := false
  doneAt : Nat := 0
  /-- the list that HRED or HWALK read at its push -/
  vbuf : List W64 := []
  /-- lines as their requests have read them: line number, bytes, poison (R253) -/
  got : List (Nat × Line × Bool) := []
  /-- ranges that it writes, once the requests for them have entered, and the place of that entry among the accesses (R253) -/
  wr : List (Nat × Nat) := []
  ord : Nat := 0
  /-- the limits of the leases that its engines take (R273) -/
  lim : Nat × Nat := (64, 1024)
  /-- addresses of the lines that its engines have still to ask for and read (R253) -/
  todo : List Nat := []
  deriving DecidableEq, Repr

/-- A contribution to an armed landing: rank, line and its 64 bytes, in order of arrival. -/
structure Contrib where
  rank : Nat
  line : Nat
  data : Line
  poison : Bool
  deriving DecidableEq, Repr

/-- An armed collective landing (R268). -/
structure Landing where
  cmd : Nat
  hcp : Nat
  block : List W64
  got : List Contrib := []
  written : List Nat := []
  /-- lines whose value is to be written, behind a recall when they are held (R256) -/
  todo : List Nat := []
  /-- physical numbers of the lines to be written, with the place of their requests among the accesses (R253) -/
  ords : Tab Nat := []
  /-- lines that were held in time of the landing, logged and not written again yet (R256) -/
  hit : List Nat := []
  dups : Nat := 0
  poisoned : Nat := 0
  conflict : Bool := false
  /-- the completion post on its way, until which the landing occupies its lines (R223) -/
  post : Option Nat := none
  deriving DecidableEq, Repr

/-- Kinds of request in an arbiter's queue (R253, R254). -/
inductive ArbKind | refresh | recall | arrayRead | arrayWrite | heath
  deriving DecidableEq, Repr

structure ArbReq where
  id : Nat
  kind : ArbKind
  bank : Nat := 0
  row : Nat := 0
  line : Nat := 0
  /-- GTC of the landing cycle of an array load (R254) -/
  deadline : Nat := 0
  /-- the slot in which it entered the queue -/
  enq : Nat := 0
  promoted : Bool := false
  /-- the heath command processor whose engine or access it is -/
  hcp : Nat := 0
  /-- the sub-channel that a 16-byte granule uses alone (R187, R253) -/
  sub : Option Nat := none
  /-- the limits of a lease that it begins: columns and slots (R255, R273) -/
  lim : Nat × Nat := (64, 1024)
  /-- an HROW's explicit lease, which needs no column command -/
  hrow : Bool := false
  /-- a refresh of the rows beside an activated one (R258) -/
  nbr : Bool := false
  /-- its place among the accesses: those with lower numbers entered before (R253) -/
  ord : Nat := 0
  deriving DecidableEq, Repr

-- DESIGN CHOICE, unsafe: log entry 13.
/-- A bank's open row, owner and lease (R255). -/
structure Bank where
  openRow : Option Nat := none
  heath : Bool := false
  lease : Bool := false
  cols : Nat := 0
  since : Nat := 0
  maxCols : Nat := 64
  maxSlots : Nat := 1024
  /-- array requests queued when the last lease ended and not yet served (R255) -/
  owed : List Nat := []
  /-- array requests have been queued at every slot since a lease ended: only a promoted activate is eligible (R255) -/
  after : Bool := false
  /-- the slot of an activate whose first column command has not been sent (R253) -/
  posted : Option Nat := none
  /-- no column command has been sent since the last refresh -/
  refreshed : Bool := false
  deriving DecidableEq, Repr

structure Arbiter where
  queue : List ArbReq := []
  banks : Tab Bank := []
  acts : W32 := 0
  slot : Nat := 0
  deriving DecidableEq, Repr

/-! ## Launches and regions -/

/-- A stage RCB (R283). -/
structure Stage where
  rcb : Nat
  qin : Nat
  qout : Nat
  role : Nat
  insp : Bool
  outsp : Bool
  maxctx : Nat
  ctx : Nat
  tiles : BitVec 8
  bregs : BitVec 4
  vtiles : BitVec 8
  items : Nat
  use : BitVec 3
  sentry : W32
  ventry : W32
  mentry : W32
  prio : Nat
  deriving DecidableEq, Repr

/-- How a launch ends: status code of R286, cause, FCTX and FVAL (R288). -/
structure EndInfo where
  status : Nat
  cause : Nat := 0
  fctx : W64 := 0
  fval : W64 := 0
  deriving DecidableEq, Repr

/-- A launch record that has been consumed and not completed (R246, R285). -/
structure Launch where
  id : Nat
  queue : Nat
  slot : Nat
  batch : Option Nat := none
  kind : Nat
  word0 : W32
  seq : W32
  rcb : Nat
  post : Nat
  pinc : W32
  arg : W64
  crec : Nat
  gstart : Nat := 0
  hcps : List Nat := []
  left : Nat := 0
  fin : Option EndInfo := none
  /-- nodes from the launch's own up to level 0, and its fault domain (R359): node 0 is level 0, and the RCB at physical line n is
  node n + 1 -/
  path : List Nat := []
  domain : Nat := 0
  /-- energy charged, in units of 2^-10 microjoule -/
  used : Nat := 0
  /-- a batch's member: its place in the list; a batch: the place of the member whose status `fin` is (R288) -/
  place : Nat := 0
  worst : Nat := 0
  /-- a batch's listed records that have not started, in list order, with their places in the list -/
  todo : List (Nat × Line) := []
  deriving DecidableEq, Repr

/-- A record that waits for meadows which it has had pre-empted (R287): its queue and slot, its class and the meadows. A slot
is a ring index below 2^24, or 2^24 × (1 + n) + i for place i of the list of the batch that is launch n. -/
structure Claim where
  queue : Nat
  slot : Nat
  cls : Nat
  mdws : List Nat
  deriving DecidableEq, Repr

structure Region where
  id : Nat
  launch : Nat
  rcb : Nat
  path : List Nat
  window : Nat
  key : Nat
  timed : Bool
  gang : Bool
  prio : Nat
  eff : Nat
  drops : Nat := 0
  preempts : Nat := 0
  area : Nat
  stages : List Stage
  plist : List Nat
  /-- placed, pre-empted and waiting, or being stopped -/
  preempted : Bool := false
  /-- beat runs among its saved meadows, whose power a resumption needs (R316) -/
  beats : Nat := 0
  fin : Option EndInfo := none
  deriving DecidableEq, Repr

/-- An energy node (R296). -/
structure Node where
  energy : Nat
  balance : Int
  used : Nat
  deriving DecidableEq, Repr

/-- A launch queue register, committed and held halves (R389). -/
structure LqReg where
  lo : W64 := 0
  hi : W64 := 0
  heldHi : Option W64 := none
  pending : Option (W64 × W64) := none
  /-- records of the window of 16 that have started while an earlier one waits (R285) -/
  startedSlots : List Nat := []
  deriving DecidableEq, Repr

/-- A page request (R355-R358): image, entry index, virtual address, who asked with what, and whether it is out. -/
structure Asker where
  coord : Nat
  ctx : Nat
  gen : Nat
  tagc : BitVec 16
  notify : Bool
  deriving DecidableEq, Repr

structure PageReq where
  seq : Nat
  image : Nat
  entry : Nat
  va : Nat
  askers : List Asker
  since : Nat
  /-- the host has been asked; else a flip to the host comes first (R358) -/
  out : Bool := true
  deriving DecidableEq, Repr

/-- A flip to the host under way (R356). -/
structure Reclaim where
  id : Nat
  image : Nat
  entry : Nat
  since : Nat
  /-- OWN is 0; before, a flip to the device is waited for (R358) -/
  started : Bool := true
  /-- the place of the flip among the accesses: those with lower numbers were issued before -/
  ord : Nat := 0
  deriving DecidableEq, Repr

/-- What the opaque blocks of a saved image stand for: the meadow as it stood at the save, found again by the image's first
opaque line (R381). -/
structure Saved where
  tag : Line
  mdw : Meadow
  deriving DecidableEq, Repr

/-- An error-log entry with its cause (R260, R380). -/
structure LogEntry where
  cause : Nat
  d0 : W64
  d1 : W64
  deriving DecidableEq, Repr

structure ErrLog where
  entries : List LogEntry := []
  lost : W32 := 0
  deriving DecidableEq, Repr

/-- An attestation report (R365): the per-boot key's q, its leaf, what it covers, and its signature. -/
structure Report where
  q : Nat
  leaf : Nat
  images : List (BitVec 256)
  customerPart : Bool
  level : Nat
  alarmSrc : BitVec 4
  wepoch : BitVec 16
  nonce : BitVec 256
  gtc : Nat
  sig : List Nat
  deriving DecidableEq, Repr

/-- How an aperture access completed, with the data of a read (R386). -/
inductive HostCpl | none | success (data : Option (BitVec 512)) | unsupportedRequest | completerAbort
  deriving DecidableEq, Repr

/-- A request of the host to the generation loop (R346). -/
inductive GenReq | add (image : BitVec 1024) | cancel (seqid : BitVec 32)
  deriving DecidableEq, Repr

-- DESIGN CHOICE, unsafe: log entry 16.
/-- The generation loop's place in its iteration (R342). -/
structure GenLoop where
  iter : Nat := 0
  inFlight : Bool := false
  rows : List Nat := []
  /-- rows whose table entry a request has given up or taken since the iteration was issued (R346) -/
  dead : List Nat := []
  /-- the batch's completion record is performed -/
  done : Bool := false
  /-- a failed iteration waits for room in the launch ring -/
  retry : Bool := false
  /-- addresses the firmware uses: iteration record, result rows, launch list, completion record, and the descriptor of the host's request
  ring; and its launch queue -/
  recAddr : Nat := 0
  resAddr : Nat := 0x20000
  listAddr : Nat := 0x40000
  crecAddr : Nat := 0x50000
  ringAddr : Nat := 0x51000
  queue : Nat := 0
  /-- requests of the host that found no room in the request ring, taken before the ring's (R346) -/
  reqs : List GenReq := []
  deriving DecidableEq, Repr

-- DEDUCED, safe: log entry 83.
/-- The events of spec/opcode_table.json that the machine itself brings about, named as in `Instr` with the same fields. The other
events come from outside, as inputs. -/
inductive Ev
  | sWordResult (a : Agent)
  | vectorSweepStep (mdw fl : Nat)
  | vectorStepResult (mdw fl st : Nat)
  | loadDataArrival (mdw ctx id : Nat)
  | loadLanding (mdw ctx id : Nat)
  | lateLandingFreeze (mdw : Nat)
  | tileStepIssue (mdw : Nat)
  | tileStepResult (mdw id : Nat)
  | mldbComplete (mdw id : Nat)
  | mstaComplete (mdw id : Nat)
  | mdrawComplete (mdw id : Nat)
  | dtopoComplete (mdw ctx : Nat)
  | bufferDrainEmpty (mdw buf : Nat)
  | sePattern (mdw ctx : Nat)
  | seGather (mdw ctx : Nat)
  | seScatter (mdw ctx : Nat)
  | seSync (mdw ctx : Nat)
  | seGranuleMove (mdw ctx : Nat)
  | seCommandComplete (mdw ctx : Nat)
  | seChainFetch (mdw ctx : Nat)
  | userInterruptEntry (mdw ctx : Nat)
  | syncRequestApply (die : Nat)
  | syncAnswerArrival (mdw ctx id : Nat)
  | boundedWaitExpiry (die id : Nat)
  | bdwaitLimitExpiry (mdw id : Nat)
  | heathCommandStart (id : Nat)
  | heathCommandComplete (id : Nat)
  | arbiterSlot (pc : Nat)
  | activatePromotion (pc id : Nat)
  | leaseExpiry (pc bank : Nat)
  | refreshDue (pc bank : Nat)
  | launchRecordStart (q slot : Nat)
  | launchCompletion (id : Nat)
  | taskStart (mdw ctx stage : Nat)
  | taskEnd (mdw ctx : Nat)
  | contextPromotion (mdw ctx : Nat) (u : IssueUnit)
  | turnTimeout (mdw : Nat) (u : IssueUnit)
  | energyCharge
  | powerCompare
  | preemption (mdw : Nat)
  | preemptStuck (mdw : Nat)
  | resumption (region : Nat)
  | beatSlotStart (mdw : Nat)
  | beatDrain (mdw row : Nat)
  | beatRunEnd (mdw : Nat)
  | haspTouch (die id : Nat)
  | haspRollback (mdw ctx : Nat)
  | trapEntry (mdw ctx : Nat)
  | faultDomainStop (node cause : Nat) (fctx fval : BitVec 64) (killed : Bool)
  | reclaimComplete (id : Nat)
  | pageRequestTimeout (seq : Nat)
  | genIterationIssue
  | genCommit
  | hcpLoadArrival (h : Nat)
  deriving DecidableEq, Repr

/-- A step of the agenda of the current GTC cycle: an event, an input from outside, or an issue slot of an agent. -/
inductive Act | ev (e : Ev) | input (i : Instr) | slot (a : Agent)
  deriving DecidableEq, Repr

/-! ## The package -/

-- PRESUMED, unsafe: log entry 96.
/-- The hart of the management core, an RV64IMAC core (R3): program counter, x1 to x31, and the reservation of its LR and SC. -/
structure Hart where
  pc : W64 := 0
  x : Tab W64 := []
  reserved : Option W64 := none
  deriving DecidableEq, Repr

/-- The hart's registers in a cycle: what its firmware, whose words no rule gives, has left there. -/
def Hart.atTick (t : Nat) : Hart :=
  { pc := Config.hart t 0
    x := (List.range 31).map fun i => (i + 1, Config.hart t (i + 1))
    reserved := if (Config.hart t 32).getLsbD 0 then some (Config.hart t 33) else none }

structure State where
  gtc : Nat := 0
  gtcRunning : Bool := false
  /-- GTC modulo 14 at an edge of the 10 ns reference period (R111) -/
  edge : Nat := 0
  bootStep : Nat := 1
  /-- cycle, counted from power-on, in which the boot step began (R394) -/
  bootAt : Nat := 0
  enabled : BitVec 512 := 0
  customerPart : Bool := false
  meadows : Tab Meadow := []
  engines : Tab SyncEngine := []
  answers : List AnsMsg := []
  -- DESIGN CHOICE, unsafe: log entry 1.
  mem : List Host.Cell := []
  poisoned : List Nat := []
  /-- latent errors of DRAM lines: 1 correctable, 2 not (R257) -/
  dramErr : Tab Nat := []
  lineKey : Tab (BitVec 512) := []
  host : List Host.Cell := []
  keys : Tab (BitVec 512) := []
  /-- what changed key slots held before, the newest change first -/
  oldKeys : List OldKey := []
  /-- the wrap key of the current epoch has been erased (R366) -/
  wrapErased : Bool := false
  hcps : Tab Hcp := []
  hcmds : List HCmd := []
  landings : List Landing := []
  arbiters : Tab Arbiter := []
  nrctl : Tab W64 := []
  -- DESIGN CHOICE, unsafe: log entry 14.
  nrseed : Tab W64 := []
  logs : Tab ErrLog := []
  lq : Tab LqReg := []
  launches : List Launch := []
  claims : List Claim := []
  regions : List Region := []
  nodes : Tab Node := []
  /-- stopped nodes (R359) with what their stops report -/
  stopped : Tab EndInfo := []
  -- DESIGN CHOICE, unsafe: log entry 15.
  gens : Tab Nat := []
  saved : List Saved := []
  pwrlim : BitVec 16 := 3400
  brlim : BitVec 16 := 1200
  thresh : Nat := 0
  below : Nat := 0
  mcirq : W64 := 0
  /-- bits of MCIRQ that this cycle has set (R343) -/
  mcirqSet : W64 := 0
  bootcfg : W64 := 0
  -- DESIGN CHOICE, unsafe: log entry 14.
  apbase : W64 := 0
  -- DESIGN CHOICE, unsafe: log entry 14.
  apkey : W64 := 0
  -- DESIGN CHOICE, unsafe: log entry 14.
  prq : W64 := 0
  -- DESIGN CHOICE, unsafe: log entry 14.
  hrq : W64 := 0
  -- DESIGN CHOICE, unsafe: log entry 14.
  hrqdb : W64 := 0
  prqHeld : List (BitVec 256) := []
  pageReqs : List PageReq := []
  reclaims : List Reclaim := []
  seqNo : Nat := 0
  level : Nat := 0
  alarmSrc : BitVec 4 := 0
  wepoch : BitVec 16 := Config.fusedEpoch
  seccfg : W64 := 0x5B
  eraseAt : Option Nat := none
  /-- cycle of the last level-1 event of the alarm, counted from power-on (R368) -/
  alarmAt : Option Nat := none
  /-- meadows taken out of the enabled set until reset (R376) -/
  removed : List Nat := []
  -- DESIGN CHOICE, unsafe: log entry 14.
  elogsel : W64 := 0
  -- DESIGN CHOICE, unsafe: log entry 14.
  fvxaddr : W64 := 0
  -- DESIGN CHOICE, unsafe: log entry 14.
  fvxsync : W64 := 0
  portFailed : List Nat := []
  tcm : List Host.Cell := []
  hart : Hart := {}
  gen : GenLoop := {}
  -- DESIGN CHOICE, unsafe: log entry 17.
  identity : Nat := 0
  leaf : Nat := 0
  debugOpen : Bool := false
  /-- the firmware images that run (R364, R365) -/
  firmware : List Nat := []
  /-- the leaf of the identity key with which this boot's attestation key was derived and signed (R365) -/
  bootLeaf : Option Nat := none
  /-- MSI-X vectors raised, oldest first (R386) -/
  msix : List Nat := []
  /-- the last attestation report (R365) and how the host's last aperture access completed (R386) -/
  report : Option Report := none
  hostCpl : HostCpl := .none
  /-- package power of the last comparison, in watts (R297, R393) -/
  power : Nat := 0
  /-- the model's own: who executes now -/
  cur : Agent := .device
  agenda : List Act := []
  /-- the part of the current GTC cycle that the agenda belongs to -/
  phase : Nat := 0
  /-- cycles since power-on, and the inputs to come with their cycles -/
  ticks : Nat := 0
  inputs : List (Nat × Instr) := []
  fresh : Nat := 0
  seq : Nat := 0
  deriving DecidableEq, Repr

-- DESIGN CHOICE, unsafe: log entry 1.
-- DESIGN CHOICE, unsafe: log entry 8.
/-- The machine right after power-on: boot step 1 (R394), GTC 0 and not started (R13), nothing placed, memory with
nothing listed. The enabled-meadow map is the model's (columns 0 to 14 of each row, log entry 8). -/
def State.reset : State where
  enabled := BitVec.ofNat 512 ((List.range 512).foldl (fun a c => if c % 16 = 15 then a else a + 2 ^ c) 0)

end Sys2Proof.Machine
end

