-- ==== Sys2Proof/Machine/Tables.lean ====
section
/-! DEFINITION. Sparse tables and memories as sorted lists, and the bit and byte helpers that the meanings use. -/
namespace Sys2Proof.Machine

/-! ## Tables -/

/-- The entry of a key. -/
def tget {α : Type} : Tab α → Nat → Option α
  | [], _ => none
  | (i, v) :: t, k => if i = k then some v else tget t k

/-- Write an entry, keeping the keys strictly rising. -/
def tput {α : Type} : Tab α → Nat → α → Tab α
  | [], k, v => [(k, v)]
  | (i, u) :: t, k, v => if k < i then (k, v) :: (i, u) :: t else if k = i then (k, v) :: t else (i, u) :: tput t k v

/-- Remove the entry of a key. -/
def tdel {α : Type} : Tab α → Nat → Tab α
  | [], _ => []
  | (i, u) :: t, k => if i = k then tdel t k else (i, u) :: tdel t k

/-- The entry of a key, or the table's default. -/
def tgetD {α : Type} (t : Tab α) (k : Nat) (d : α) : α := (tget t k).getD d

/-- Write an entry; the default is not listed. -/
def tputD {α : Type} [DecidableEq α] (t : Tab α) (k : Nat) (v d : α) : Tab α := if v = d then tdel t k else tput t k v

/-- Keys strictly rising. -/
def tsorted {α : Type} (t : Tab α) : Prop := t.Pairwise fun a b => a.1 < b.1

/-! ## Memories -/

-- DESIGN CHOICE, unsafe: log entry 1.
/-- A byte: an unlisted address reads 0 (log entry 1). -/
def Memory.read (m : List Host.Cell) (a : Nat) : Byte := tgetD m a 0

/-- Write a byte. -/
def Memory.write (m : List Host.Cell) (a : Nat) (b : Byte) : List Host.Cell := tputD m a b 0

/-- The canonical form: addresses strictly rising and no byte 0 listed. -/
abbrev Memory.wf (m : List Host.Cell) : Prop := (m.Pairwise fun a b => a.1 < b.1) ∧ ∀ c ∈ m, c.2 ≠ 0

/-- n bytes from an address, lowest first, as a number. -/
def Memory.readN (m : List Host.Cell) (a : Nat) : Nat → Nat
  | 0 => 0
  | n + 1 => (Memory.read m a).toNat + 256 * Memory.readN m (a + 1) n

/-- Write the n low bytes of a number, lowest first. -/
def Memory.writeN (m : List Host.Cell) (a : Nat) : Nat → Nat → List Host.Cell
  | 0, _ => m
  | n + 1, v => Memory.writeN (Memory.write m a (BitVec.ofNat 8 v)) (a + 1) n (v / 256)

/-- Drop the cells of a range. -/
def Memory.clear (m : List Host.Cell) (a len : Nat) : List Host.Cell := m.filter fun c => c.1 < a || a + len ≤ c.1

/-- The cells of a range, their addresses counted from its start. -/
def Memory.slice (m : List Host.Cell) (a len : Nat) : List Host.Cell :=
  (m.filter fun c => a ≤ c.1 && c.1 < a + len).map fun c => (c.1 - a, c.2)

/-- Replace a range by cells whose addresses count from its start. -/
def Memory.blit (m : List Host.Cell) (a len : Nat) (cs : List Host.Cell) : List Host.Cell :=
  (m.filter fun c => c.1 < a) ++ (cs.filter fun c => c.1 < len).map (fun c => (a + c.1, c.2)) ++ m.filter fun c => a + len ≤ c.1

/-! ## Numbers and bits -/

/-- bits(x, hi, lo) of R54. -/
def bitsN (x hi lo : Nat) : Nat := x / 2 ^ lo % 2 ^ (hi + 1 - lo)

/-- sext(x, n) of R54, as an integer. -/
def sextN (x n : Nat) : Int := if x % 2 ^ n < 2 ^ (n - 1) then (x % 2 ^ n : Nat) else ((x % 2 ^ n : Nat) : Int) - 2 ^ n

/-- The residue of an integer modulo 2^n. -/
def wrapN (x : Int) (n : Nat) : Nat := (x % (2 ^ n : Nat)).toNat

/-- Bits set in a list's positions. -/
def bitset (w : Nat) (ks : List Nat) : BitVec w := ks.foldl (fun a k => a ||| BitVec.ofNat w (2 ^ k)) 0

/-- A field of a word replaced. -/
def setField {w : Nat} (x : BitVec w) (lo len : Nat) (v : Nat) : BitVec w :=
  (x &&& ~~~ BitVec.ofNat w ((2 ^ len - 1) * 2 ^ lo)) ||| BitVec.ofNat w (v % 2 ^ len * 2 ^ lo)

/-- A field of a word. -/
def getField {w : Nat} (x : BitVec w) (lo len : Nat) : Nat := x.toNat / 2 ^ lo % 2 ^ len

/-- The bytes of a mask: bit j of the result list position says byte j takes part. -/
def byteMask (n : Nat) : Pred := BitVec.ofNat 512 (2 ^ n - 1)

end Sys2Proof.Machine
end

