-- ==== Sys2Proof/Machine/Ops.lean ====
section
/-! DEFINITION. The named operations over State: access to its parts, the scalar pipeline shared by contexts and heath
command processors, raising a cause, taking a trap and returning from it, address translation with its checks, and
the bytes of memory behind keys, poison and held lines. -/
namespace Sys2Proof.Machine

open Host (Outcome)

/-- The outcome of every meaning. -/
abbrev Res := Outcome State Fault Refusal

/-! ## Parts of the state -/

def State.mdw (s : State) (c : Nat) : Meadow := tgetD s.meadows c {}
def State.setMdw (s : State) (c : Nat) (m : Meadow) : State := { s with meadows := tput s.meadows c m }
def State.modMdw (s : State) (c : Nat) (f : Meadow → Meadow) : State := s.setMdw c (f (s.mdw c))
def Meadow.ctx (m : Meadow) (x : Nat) : Ctx := tgetD m.ctxs x {}
def Meadow.setCtx (m : Meadow) (x : Nat) (k : Ctx) : Meadow := { m with ctxs := tput m.ctxs x k }
def Meadow.modCtx (m : Meadow) (x : Nat) (f : Ctx → Ctx) : Meadow := m.setCtx x (f (m.ctx x))
def State.ctx (s : State) (c x : Nat) : Ctx := (s.mdw c).ctx x
def State.modCtx (s : State) (c x : Nat) (f : Ctx → Ctx) : State := s.modMdw c fun m => m.modCtx x f
def State.hcp (s : State) (h : Nat) : Hcp := tgetD s.hcps h {}
def State.modHcp (s : State) (h : Nat) (f : Hcp → Hcp) : State := { s with hcps := tput s.hcps h (f (s.hcp h)) }
def State.eng (s : State) (d : Nat) : SyncEngine := tgetD s.engines d {}
def State.modEng (s : State) (d : Nat) (f : SyncEngine → SyncEngine) : State := { s with engines := tput s.engines d (f (s.eng d)) }
def State.arb (s : State) (p : Nat) : Arbiter := tgetD s.arbiters p {}
def State.modArb (s : State) (p : Nat) (f : Arbiter → Arbiter) : State := { s with arbiters := tput s.arbiters p (f (s.arb p)) }

/-- Append events to the agenda of this cycle. -/
def State.later (s : State) (es : List Ev) : State := { s with agenda := s.agenda ++ es.map .ev }
/-- Put events at the front of the agenda. -/
def State.now (s : State) (es : List Ev) : State := { s with agenda := es.map .ev ++ s.agenda }

/-- The meadow and context of the executing stream (0, 0 for the others). -/
def State.curM (s : State) : Nat := match s.cur with | .stream c _ _ => c | _ => 0
def State.curX (s : State) : Nat := match s.cur with | .stream _ x _ => x | _ => 0

/-! ## Scalar registers (R29, R39) -/

/-- s0 reads 0. -/
def SCore.get (k : SCore) (r : Nat) : W32 := if r = 0 then 0 else tgetD k.regs r 0
/-- A write to s0 has no effect. -/
def SCore.set (k : SCore) (r : Nat) (v : W32) : SCore := if r = 0 then k else { k with regs := tputD k.regs r v 0 }
/-- dN = s(2N+1) × 2^32 + s(2N). -/
def SCore.getD (k : SCore) (n : Nat) : W64 := (k.get (2 * n + 1) ++ k.get (2 * n) : BitVec 64)
/-- Writing d0 writes s1 only. -/
def SCore.setD (k : SCore) (n : Nat) (v : W64) : SCore := (k.set (2 * n) (v.extractLsb' 0 32)).set (2 * n + 1) (v.extractLsb' 32 32)

/-- The core that executes S-words now: a context's or an HCP's. -/
def State.core (s : State) : SCore :=
  match s.cur with
  | .stream c x _ => (s.ctx c x).sc
  | .hcp h => (s.hcp h).sc
  | .device => {}

def State.setCore (s : State) (k : SCore) : State :=
  match s.cur with
  | .stream c x _ => s.modCtx c x fun t => { t with sc := k }
  | .hcp h => s.modHcp h fun t => { t with sc := k }
  | .device => s

/-! ## Clocks -/

/-- GTC as the 64-bit count that software reads (R13). -/
def State.gtcW (s : State) : W64 := BitVec.ofNat 64 s.gtc

-- DESIGN CHOICE, unsafe: log entry 7.
/-- The ticks of a 14-tick reference period at which an HCP cycle begins: floor(7j ÷ 5), j = 0-9 (R111). -/
def hcpTicks : List Nat := [0, 1, 2, 4, 5, 7, 8, 9, 11, 12]

-- DESIGN CHOICE, unsafe: log entry 7.
/-- An HCP cycle begins with this GTC tick (R111). -/
def State.hcpTick (s : State) : Bool := hcpTicks.contains ((s.gtc + 14 - s.edge) % 14)

-- DESIGN CHOICE, unsafe: log entry 7.
/-- The number of HCP cycles begun up to this GTC tick. -/
def State.hcpCycle (s : State) : Nat :=
  let g := s.gtc + 14 - s.edge
  10 * (g / 14) + (hcpTicks.filter fun t => t ≤ g % 14).length

/-- The clock in which the executing core counts: MTC in a context (R26), HCP cycles on an HCP (R111). -/
def State.clock (s : State) : Nat :=
  match s.cur with
  | .stream c _ _ => (s.mdw c).mtc
  | .hcp _ => s.hcpCycle
  | .device => s.gtc

/-! ## The scalar pipeline (R25, R26, R94-R96) -/

/-- Add a result that is visible from cycle `due` on. -/
def SCore.push (k : SCore) (r due : Nat) (v : W32) : SCore :=
  if r = 0 then k else { k with pend := k.pend ++ [⟨r, due, v, k.nextAt⟩] }

/-- Add a pair result: both halves share one result cycle (R100). -/
def SCore.pushD (k : SCore) (n due : Nat) (v : W64) : SCore :=
  (k.push (2 * n) due (v.extractLsb' 0 32)).push (2 * n + 1) due (v.extractLsb' 32 32)

-- DEDUCED, unsafe: log entry 60.
/-- Write every result whose cycle has come, in program order (R27). -/
def SCore.settle (k : SCore) (t : Nat) : SCore :=
  let done := k.pend.filter fun p => p.due ≤ t
  done.foldl (fun k p => k.set p.reg p.val) { k with pend := k.pend.filter fun p => t < p.due }

-- DEDUCED, unsafe: log entry 60.
/-- Write the results that are due and come from words up to one place in program order. -/
def SCore.settleTo (k : SCore) (t ord : Nat) : SCore :=
  let now (p : PendReg) : Bool := decide (p.due ≤ t) && decide (p.ord ≤ ord)
  (k.pend.filter now).foldl (fun k p => k.set p.reg p.val) { k with pend := k.pend.filter fun p => !now p }

/-- Cycles from a word's issue to the earliest issue of the next, by issue control (R25). -/
def icGap (ic : BitVec 2) : Nat := match ic.toNat with | 2 => 2 | 3 => 4 | _ => 1

/-- A word has issued at cycle t: the counter advances by 4 and the next issue obeys issue control. -/
def SCore.advance (k : SCore) (ic : BitVec 2) (t : Nat) : SCore := { k with pc := k.pc + 4, nextAt := t + icGap ic }

/-- The word transfers: the target issues no earlier than t + 3 (R95). -/
def SCore.jump (k : SCore) (ic : BitVec 2) (t : Nat) (target : W32) : SCore :=
  { k with pc := target, nextAt := max (t + 3) (t + icGap ic) }

/-- A register has a result in flight, or an S-stream load on its way (R26, R96). -/
def SCore.busy (k : SCore) (r : Nat) : Bool := r != 0 && k.pend.any fun p => p.reg == r

def LandEntry.covers (l : LandEntry) (r : Nat) : Bool :=
  match l.dest with
  | .scalar rd pair _ => rd == r || (pair && rd + 1 == r)
  | _ => false

/-- The executing core holds a word that reads or writes these registers: in a dynamic region and on an HCP, until
their earlier producers have written; never in a timed region (R26, R96, R111). -/
def State.held (s : State) (regs : List Nat) : Bool :=
  match s.cur with
  | .stream c x _ =>
    let k := s.ctx c x
    !(s.mdw c).timed && regs.any fun r => k.sc.busy r || (r != 0 && k.landing.any fun l => l.stream == .s && l.covers r)
  | .hcp h => regs.any fun r => (s.hcp h).sc.busy r
  | .device => false

/-- A pair's two registers. -/
def pairRegs (n : BitVec 5) : List Nat := [2 * n.toNat, 2 * n.toNat + 1]

/-- Issue an S-word that only touches its core: hold it while its registers are held, else advance and apply. -/
def sIssue (s : State) (ic : BitVec 2) (regs : List Nat) (f : SCore → SCore) : Res :=
  if s.held regs then .next s else .next (s.setCore (f (s.core.advance ic s.clock)))

/-! ## Causes (R370) -/

abbrev Cause.softTrap : Nat := 0x00
abbrev Cause.resKind : Nat := 0x05
abbrev Cause.resBit : Nat := 0x06
abbrev Cause.resRound : Nat := 0x04
abbrev Cause.resEtype : Nat := 0x03
abbrev Cause.resOpcode : Nat := 0x01
abbrev Cause.resOperand : Nat := 0x07
abbrev Cause.priv : Nat := 0x08
abbrev Cause.unitDisabled : Nat := 0x09
abbrev Cause.fetchAlign : Nat := 0x0A
abbrev Cause.tileType : Nat := 0x0B
abbrev Cause.topoReject : Nat := 0x0C
abbrev Cause.eretState : Nat := 0x0D
abbrev Cause.tileNotGranted : Nat := 0x20
abbrev Cause.formatConflict : Nat := 0x21
abbrev Cause.bufState : Nat := 0x22
abbrev Cause.winRange : Nat := 0x28
abbrev Cause.winPerm : Nat := 0x29
abbrev Cause.notResident : Nat := 0x2A
abbrev Cause.owner : Nat := 0x2B
abbrev Cause.memAlign : Nat := 0x2C
abbrev Cause.bufDecl : Nat := 0x2D
abbrev Cause.keyEmpty : Nat := 0x2E
abbrev Cause.schedMiss : Nat := 0x40
abbrev Cause.landOverflow : Nat := 0x41
abbrev Cause.waitqExpired : Nat := 0x42
abbrev Cause.semwExpired : Nat := 0x43
abbrev Cause.barwExpired : Nat := 0x44
abbrev Cause.beatRefused : Nat := 0x45
abbrev Cause.bdwaitExpired : Nat := 0x46
abbrev Cause.atomAlign : Nat := 0x50
abbrev Cause.barState : Nat := 0x51
abbrev Cause.uiState : Nat := 0x52
abbrev Cause.ringState : Nat := 0x53
abbrev Cause.arqEmpty : Nat := 0x54
abbrev Cause.haspEscape : Nat := 0x55
abbrev Cause.haspIllegal : Nat := 0x56
abbrev Cause.haspState : Nat := 0x57
abbrev Cause.landConflict : Nat := 0x60
abbrev Cause.heathUe : Nat := 0x61
abbrev Cause.heathCe : Nat := 0x62
abbrev Cause.pktDrop : Nat := 0x63
abbrev Cause.heathKey : Nat := 0x64
abbrev Cause.poisonUse : Nat := 0x70
abbrev Cause.accUe : Nat := 0x71
abbrev Cause.accCe : Nat := 0x72
abbrev Cause.ibufParity : Nat := 0x73
abbrev Cause.ibufFail : Nat := 0x74
abbrev Cause.spadUe : Nat := 0x75
abbrev Cause.spadCe : Nat := 0x76
abbrev Cause.syncUe : Nat := 0x77
abbrev Cause.preemptStuck : Nat := 0x78
abbrev Cause.linkFail : Nat := 0x79
abbrev Cause.alarm : Nat := 0x7A

/-! ## Raising a cause (R51, R373) -/

/-- The place of a cause's stream in the order S, V, M, unbound. -/
def causeRank : Option StreamId → Nat | some .s => 0 | some .v => 1 | some .m => 2 | none => 3

/-- Add a cause to a context. The first cause of a cycle in the order S, V, M, unbound is kept; a losing word raises its
cause again after ERET and a losing unbound cause stays pending; a losing load, which cannot raise its cause again, and a cause of
a later cycle are the further cause. -/
def Ctx.addCause (k : Ctx) (t : TrapPend) (atIssue : Bool) : Ctx :=
  match k.trap with
  | none => { k with trap := some t }
  | some p =>
    if p.at_ = t.at_ then
      if t.stream = none then { k with unbound := k.unbound ++ [t] }
      else if p.stream = none then { k with trap := some t, unbound := p :: k.unbound }
      else if causeRank t.stream < causeRank p.stream then { k with trap := some { t with cause2 := some (p.cause2.getD p.cause) } }
      else if atIssue then k
      else { k with trap := some { p with cause2 := some (p.cause2.getD t.cause) } }
    else { k with trap := some { p with cause2 := some (p.cause2.getD t.cause) } }

/-- An HCP's kernel stops with a status and a cause (R50, R251, R252). The first stop stands, but for a kernel that waits at EXIT for its
commands when its fault domain stops (R277). -/
def Hcp.stopWith (h : Hcp) (status cause : Nat) : Hcp :=
  match h.ending with
  | none => { h with ending := some (status, cause) }
  | some e => if e.1 = 0 ∧ status = 7 then { h with ending := some (status, cause) } else h

/-- The stream's own word address (R372). -/
def Ctx.pcOf (k : Ctx) : StreamId → W32 | .s => k.sc.pc | .v => k.vpc | .m => k.mpc

/-- The word that the executing agent would issue raises a cause and has no effect (R51). On an HCP a cause of R50 ends the
kernel with ENCODING. -/
def State.raise (s : State) (cause : Nat) (tval : W64) : State :=
  match s.cur with
  | .stream c x st =>
    s.modCtx c x fun k => k.addCause
      { cause := cause, tval := tval, tpc := k.pcOf st, stream := some st,
        sepc := if st = .s then .atWord else .nextUnissued, at_ := s.gtc, mtc := (s.mdw c).mtc } true
  | .hcp h => s.modHcp h fun t => t.stopWith 1 cause
  | .device => s

/-- Raise a cause bound to no word on a context (R209, R313, R377). -/
def State.raiseUnbound (s : State) (c x cause : Nat) (tval : W64) : State :=
  s.modCtx c x fun k => k.addCause
    { cause := cause, tval := tval, tpc := k.sc.pc, stream := none, sepc := .nextUnissued, at_ := s.gtc, mtc := (s.mdw c).mtc } false

/-- Raise a cause that a load meets at its landing (R195). -/
def State.raiseAtLanding (s : State) (c x : Nat) (st : StreamId) (pc : W32) (cause : Nat) (tval : W64) : State :=
  s.modCtx c x fun k => k.addCause
    { cause := cause, tval := tval, tpc := pc, stream := some st, sepc := .nextUnissued, at_ := s.gtc, mtc := (s.mdw c).mtc, issued := true } false

/-- Outcome of a word that raises a cause. -/
def trapRes (s : State) (cause : Nat) (tval : W64) : Res := .next (s.raise cause tval)

/-- A bit position as a TVAL (R51). -/
def bitTval (b : Nat) : W64 := BitVec.ofNat 64 b

/-! ## ISTAT and TCAUSE fields (R299, R372) -/

/-- ISTAT.PL. -/
def Ctx.pl (k : Ctx) : Nat := getField k.istat 20 2
def Ctx.setPl (k : Ctx) (pl : Nat) : Ctx := { k with istat := setField k.istat 20 2 pl }
/-- TCAUSE.ACTIVE. -/
def Ctx.active (k : Ctx) : Bool := k.tcause.getLsbD 14
/-- Tiles and operand registers granted. -/
def Ctx.tileGranted (k : Ctx) (t : Nat) : Bool := k.istat.getLsbD (12 + t)
def Ctx.bregGranted (k : Ctx) (n : Nat) : Bool := k.istat.getLsbD (8 + n)

def streamCode : Option StreamId → Nat | some .s => 0 | some .v => 1 | some .m => 2 | none => 3

/-- CTXID (R395). -/
def ctxid (c x : Nat) : W64 := BitVec.ofNat 64 (x % 4 * 512 + c % 512)

/-! ## Taking an exception and returning from it (R373, R375) -/

/-- SEPC at entry: TBPC inside a hasp task, else as step 3 of R373 gives it. -/
def Ctx.sepcOf (k : Ctx) (p : TrapPend) : W32 :=
  if k.hasp.state = .active then k.hasp.tbpc else
  match p.sepc with
  | .atWord => p.tpc
  | .afterWord => p.tpc + 4
  | .nextUnissued => k.sc.pc

/-- TCAUSE as trap entry writes it (R372, R373). -/
def tcauseWord (sepc : W32) (p : TrapPend) (ppl : Nat) : W64 :=
  BitVec.ofNat 64 (sepc.toNat * 2 ^ 32 + (p.cause2.getD 0) % 128 * 2 ^ 17 + (if p.cause2.isSome then 2 ^ 16 else 0) + 2 ^ 14 +
    ppl * 2 ^ 12 + streamCode p.stream * 2 ^ 8 + p.cause % 128)

/-- Trap entry (R373, steps 3 and 4): the saved registers are written, the level becomes S, and the S-stream fetches at
TVEC as a transfer, and after the last word in flight (R191). For an unbound cause TPC is the S-stream's next unissued word (R372), and the word after its
MWALK when the cause has stopped a walk (R153). -/
def Ctx.enterTrap (k : Ctx) (p : TrapPend) (tvec : W32) (mtc : Nat) : Ctx :=
  let k1 := { k with
    tcause := tcauseWord (k.sepcOf p) p k.pl
    tval := p.tval
    tpc := BitVec.setWidth 64 (p.walk.getD (if p.stream = none then k.sc.pc else p.tpc))
    trap := none
    trapIssued := p.issued
    sc := { k.sc with pc := tvec, nextAt := max (p.mtc + 3) (mtc + 1) }
    sOver := !k.sRun
    sRun := true }
  k1.setPl 1

/-- A task that rolls back for a save leaves the trap that its context waits with: TPC is that of the cause, and SEPC the address to which
the S-stream has gone (R327, R382). -/
def Ctx.rollTrap (k : Ctx) : Ctx :=
  { k with trap := k.trap.map fun t => { t with sepc := .nextUnissued, walk := if t.stream = none ∧ t.walk = none then some k.sc.pc else t.walk } }

-- DEDUCED, unsafe: log entry 54.
/-- The return from a trap (R375): level, ACTIVE, MULT, CAUSE2 and SKIP are restored or cleared, a skipped V- or M-word is
discarded, and the S-stream fetches at SEPC as a transfer. -/
def Ctx.leaveTrap (k : Ctx) (ic : BitVec 2) (mtc : Nat) : Ctx :=
  let st := getField k.tcause 8 2
  let skip := k.tcause.getLsbD 15 && !k.trapIssued
  let sepc : W32 := k.tcause.extractLsb' 32 32
  let k1 := k.setPl (getField k.tcause 12 2)
  let k2 := { k1 with
    tcause := k.tcause &&& ~~~(BitVec.ofNat 64 (2 ^ 14 + 2 ^ 15 + 2 ^ 16 + 127 * 2 ^ 17))
    sc := k.sc.jump ic mtc sepc
    sRun := !k.sOver
    sOver := false
    suspended := k.suspended.map fun t => { t with byTrap := false }
    vNextAt := max k.vNextAt (mtc + 1)
    mNextAt := max k.mNextAt (mtc + 1) }
  if skip && st = 1 then { k2 with vpc := k.vpc + 12 }
  else if skip && st = 2 then
    match k.suspended with
    | some t =>
      if t.byTrap then { k2 with suspended := none, mpc := match t.ins with | .mwres _ => k.mpc + 24 | _ => k.mpc }
      else { k2 with mpc := k.mpc + 24, tileWord := none }
    | none => { k2 with mpc := k.mpc + 24, tileWord := none }
  else k2

/-! ## Error logs and interrupts to the host (R260, R380, R386) -/

-- DEDUCED, unsafe: log entry 74.
/-- Append to an error log: 256 entries, the oldest overwritten and counted as lost; MSI-X vector 3. -/
def State.logErr (s : State) (log cause : Nat) (d1 : W64) : State :=
  let l := tgetD s.logs log {}
  let e : LogEntry := ⟨cause, s.gtcW, d1⟩
  let l' := if l.entries.length < 256 then { l with entries := l.entries ++ [e] }
    else { entries := l.entries.drop 1 ++ [e], lost := l.lost + 1 }
  { s with logs := tput s.logs log l', msix := s.msix ++ [3] }

/-- A die's log entry: ADDR, CTX, COORD (R380). -/
def State.logDie (s : State) (cause addr c x : Nat) : State :=
  s.logErr (c / 256) cause (BitVec.ofNat 64 (addr % 2 ^ 48 * 2 ^ 16 + x % 4 * 2 ^ 14 + c % 512 * 2 ^ 5))

/-- A stack's log entry: PA of the line and heath coordinate (R260). -/
def State.logStack (s : State) (cause pa hcoord : Nat) : State :=
  s.logErr (2 + hcoord / 256) cause (BitVec.ofNat 64 (pa / 64 * 64 % 2 ^ 48 * 2 ^ 16 + hcoord % 2 ^ 11 * 2 ^ 5))

/-- A record in a sync engine's error log (R235, R379, R380). -/
def State.logEngine (s : State) (d cause pa coord x : Nat) : State :=
  s.logErr d cause (BitVec.ofNat 64 (pa / 64 * 64 % 2 ^ 48 * 2 ^ 16 + x % 4 * 2 ^ 14 + coord % 512 * 2 ^ 5))

/-- A bit of MCIRQ is set; it wins over a clear of the same cycle (R343). -/
def State.setIrq (s : State) (bit : Nat) : State :=
  { s with mcirq := s.mcirq ||| BitVec.ofNat 64 (2 ^ bit), mcirqSet := s.mcirqSet ||| BitVec.ofNat 64 (2 ^ bit) }
/-- Ones clear bits of MCIRQ. -/
def State.clearIrq (s : State) (v : W64) : State := { s with mcirq := s.mcirq &&& ~~~(v &&& ~~~s.mcirqSet) }
/-- The completion interrupt is asserted while any bit is 1 (R343). -/
def State.completionIrq (s : State) : Bool := s.mcirq != 0

/-! ## Free values -/

/-- Take the next index of the free values. -/
def State.freshIx (s : State) : Nat × State := (s.fresh, { s with fresh := s.fresh + 1 })
/-- Take the next sequence number (program order among pending operations). -/
def State.nextSeq (s : State) : Nat × State := (s.seq, { s with seq := s.seq + 1 })

/-! ## The translation window (R193, R349, R350) -/

def eRes (e : W64) : Bool := e.getLsbD 63
def eOwn (e : W64) : Bool := e.getLsbD 62
def eKind (e : W64) : Nat := getField e 60 2
def eCc (e : W64) : Bool := e.getLsbD 59
def eFar (e : W64) : Bool := e.getLsbD 58
def eKey (e : W64) : Nat := getField e 48 10
def eFrame (e : W64) : Nat := getField e 21 27
def eAlias (e : W64) : Nat := getField e 12 9
def eRead (e : W64) : Bool := e.getLsbD 11
def eWrite (e : W64) : Bool := e.getLsbD 10
def eExec (e : W64) : Bool := e.getLsbD 9

/-- The entry, offset and page size of a virtual address; none outside the window (R349). -/
def vaEntry (va : Nat) : Option (Nat × Nat × Nat) :=
  if va < 2 ^ 41 then some (va / 2 ^ 30, va % 2 ^ 30, 2 ^ 30)
  else if va < 2 ^ 41 + 2 ^ 33 then some (2048 + (va - 2 ^ 41) / 2 ^ 21, (va - 2 ^ 41) % 2 ^ 21, 2 ^ 21)
  else none

/-- A page-sized piece of an access: its offset in the access, virtual address, length, and the entry it meets. -/
structure Piece where
  off : Nat
  va : Nat
  len : Nat
  entry : Option (Nat × Nat)
  deriving DecidableEq, Repr

/-- Cut an access at page boundaries; addresses wrap modulo 2^64. At most `fuel` pages. -/
def cutPages : Nat → Nat → Nat → Nat → List Piece
  | 0, _, _, _ => []
  | fuel + 1, off, va, len =>
    if len = 0 then [] else
    let v := va % 2 ^ 64
    match vaEntry v with
    | none => [⟨off, v, len, none⟩]
    | some (e, o, size) =>
      let n := min len (size - o)
      ⟨off, v, n, some (e, o)⟩ :: cutPages fuel (off + n) (v + n) (len - n)

/-- What an access asks of an entry. -/
structure Want where
  read : Bool := false
  write : Bool := false
  exec : Bool := false
  /-- a store, an instruction fetch or a stream-engine access, which needs residency (R193) -/
  resident : Bool := false
  deriving DecidableEq, Repr

abbrev Want.load : Want := { read := true }
abbrev Want.store : Want := { write := true, resident := true }
abbrev Want.atomic : Want := { read := true, write := true, resident := true }
abbrev Want.fetch : Want := { exec := true, resident := true }
abbrev Want.seRead : Want := { read := true, resident := true }
abbrev Want.seWrite : Want := { write := true, resident := true }

/-- The image that an entry of the window copy was loaded from (R352, R353). -/
def Meadow.imageOf (m : Meadow) (i : Nat) : Nat := tgetD m.twld i m.windowImage

/-- The window entry a piece meets; all zeros outside the window. -/
def Meadow.entryOf (m : Meadow) (p : Piece) : W64 := match p.entry with | some (e, _) => tgetD m.window e 0 | none => 0

def Piece.part (m : Meadow) (p : Piece) : Part :=
  let e := m.entryOf p
  { off := p.off, len := p.len, va := p.va, pa := eFrame e * 2 ^ 21 + (p.entry.map (·.2)).getD 0, key := eKey e,
    kind := eKind e, res := eRes e }

/-- The first failing cause of the pieces in the order of R193 and R350, with the first failing byte's address. -/
def winCheck (keys : Tab (BitVec 512)) (m : Meadow) (w : Want) (ps : List Piece) : Option (Nat × W64) :=
  let bad (cause : Nat) (f : Piece → Bool) : Option (Nat × W64) := (ps.find? f).map fun p => (cause, BitVec.ofNat 64 p.va)
  let e := m.entryOf
  (bad Cause.winRange fun p => p.entry.isNone) <|>
  (bad Cause.winPerm fun p => (w.read && !eRead (e p)) || (w.write && !eWrite (e p)) || (w.exec && !eExec (e p))) <|>
  (bad Cause.notResident fun p => w.resident && !eRes (e p)) <|>
  (bad Cause.owner fun p => eRes (e p) && !eOwn (e p)) <|>
  (bad Cause.keyEmpty fun p => (tget keys (eKey (e p))).isNone)

-- DEDUCED, unsafe: log entry 75.
/-- Pcc of BOOTCFG (R186, R388). -/
def State.pcc (s : State) : Nat := getField s.bootcfg 10 10

-- DESIGN CHOICE, safe: log entry 82.
-- DESIGN CHOICE, unsafe: log entry 93.
/-- A physical address with memory behind it (R186). -/
def State.backed (s : State) (pa : Nat) : Bool :=
  pa < (65536 - 128 * s.pcc) * 2 ^ 23 || (2 ^ 39 ≤ pa && pa < 2 ^ 40 && pa / 2 ^ 21 % 512 < s.pcc) || (2 ^ 44 ≤ pa && pa < 2 ^ 48)

/-- What checking an access gives: the parts of it, a cause with its TVAL, or a physical address without memory. -/
inductive Acc | ok (ps : List Part) | trap (cause : Nat) (tval : W64) | gone (pa : Nat)
  deriving DecidableEq, Repr

-- DESIGN CHOICE, safe: log entry 82.
/-- The first resident part without memory behind it. -/
def State.unbackedPart (s : State) (ps : List Part) : Option Nat :=
  (ps.find? fun p => p.res && (!s.backed p.pa || !s.backed (p.pa + p.len - 1))).map (·.pa)

/-- Translate and check accesses given as (address, length) pairs, in order (R193, R216). -/
def State.access (s : State) (m : Meadow) (w : Want) (as_ : List (Nat × Nat)) : Acc :=
  let ps := as_.flatMap fun a => cutPages 4 0 a.1 a.2
  match winCheck s.keys m w ps with
  | some (c, v) => .trap c v
  | none =>
    let parts := ps.map fun p => p.part m
    match s.unbackedPart parts with
    | some pa => .gone pa
    | none => .ok parts

/-! ## Lines of memory: keys, poison, held lines (R174, R221, R229, R257, R361) -/

/-- The home die of a virtual address: the XOR of its bits 6 to 29 (R228). -/
def homeDie (va : Nat) : Nat := ((List.range 24).foldl (fun a i => a + va / 2 ^ (i + 6) % 2) 0) % 2

/-- The key slots as they stood when the access with a number was issued (R363). -/
def State.keysAt (s : State) (id : Nat) : Tab (BitVec 512) :=
  s.oldKeys.foldl (fun t o => if id < o.seq then (match o.key with | some k => tput t o.slot k | none => tdel t o.slot) else t) s.keys

/-- The state with the key slots that the access with a number uses. -/
def State.issuedAt (s : State) (id : Nat) : State := { s with keys := s.keysAt id }

/-- Perform the access with a number under its keys. -/
def State.underKeys (s : State) (id : Nat) (f : State → State) : State := { f (s.issuedAt id) with keys := s.keys }

-- DEDUCED, unsafe: log entry 36.
/-- A line as read from DRAM or second-tier memory under a key slot: what is stored is its encryption under the key that has written it
(R361). -/
def State.dramLine (s : State) (pa key : Nat) : Line :=
  let l := pa / 64
  let plain : Line := BitVec.ofNat 512 (Memory.readN s.mem (64 * l) 64)
  match tget s.lineKey l with
  | none => plain
  | some k => match tget s.keys key with
    | some j => if j = k then plain else xtsDec j (64 * l) (xtsEnc k (64 * l) plain)
    | none => Config.scramble l k

/-- A line reads as poisoned: it holds the pattern, or an error that its base die cannot correct (R257). -/
def State.linePoison (s : State) (pa : Nat) : Bool :=
  s.poisoned.contains (pa / 64) || (match tget s.dramErr (pa / 64) with | some k => k != 1 | none => false)

/-- A held line is the line of these addresses. -/
def HeldLine.isLine (h : HeldLine) (va pa : Nat) : Bool := h.va == va / 64 * 64 && h.pa == pa / 64 * 64
-- DEDUCED, unsafe: log entry 34.
/-- The line held for a virtual address, mapped to a physical one, in its home engine. -/
def State.heldAt (s : State) (va pa : Nat) : Option HeldLine := (s.eng (homeDie va)).lines.find? fun h => h.isLine va pa

-- DEDUCED, unsafe: log entry 34.
/-- A line held for a physical address in either engine (R256). -/
def State.heldPa (s : State) (pa : Nat) : Option (Nat × HeldLine) :=
  match (s.eng 0).lines.find? fun h => h.pa = pa / 64 * 64 with
  | some h => some (0, h)
  | none => ((s.eng 1).lines.find? fun h => h.pa = pa / 64 * 64).map fun h => (1, h)

/-- Bytes of a line that a mask selects, over the others. -/
def mergeLine (old new : Line) (mask : BitVec 64) : Line :=
  let m : Line := BitVec.ofNat 512 ((List.range 64).foldl (fun a i => if mask.getLsbD i then a + 255 * 2 ^ (8 * i) else a) 0)
  (old &&& ~~~m) ||| (new &&& m)

def sortedInsert : List Nat → Nat → List Nat
  | [], k => [k]
  | i :: t, k => if k < i then k :: i :: t else if k = i then i :: t else i :: sortedInsert t k

/-- Write bytes of a line to DRAM under a key slot. A write of all 64 bytes clears poison and a latent error (R257). -/
def State.dramWrite (s : State) (pa key : Nat) (d : Line) (mask : BitVec 64) : State :=
  let l := pa / 64
  let v := mergeLine (s.dramLine pa key) d mask
  { s with
    mem := Memory.writeN s.mem (64 * l) 64 v.toNat
    lineKey := tput s.lineKey l ((tget s.keys key).getD (Config.emptyKey l))
    poisoned := if mask = BitVec.allOnes 64 then s.poisoned.filter (· != l) else s.poisoned
    dramErr := if mask = BitVec.allOnes 64 then tdel s.dramErr l else s.dramErr }

/-- Mark a DRAM line poisoned (R257). -/
def State.poisonLine (s : State) (pa : Nat) : State := { s with poisoned := sortedInsert s.poisoned (pa / 64) }

/-- An engine holds this line with an uncorrectable word that nothing has met (R379). -/
def State.sramBad (s : State) (die : Nat) (h : HeldLine) : Bool := (s.eng die).ecc.contains (h.pa / 64)

-- DEDUCED, unsafe: log entry 28.
/-- An engine reads the words of the lines that it holds in a physical range: an uncorrectable word poisons its line and is logged (R379). -/
def State.sramScrub (s : State) (pa len : Nat) : State :=
  [0, 1].foldl (fun s d => ((s.eng d).ecc.filter fun l => decide (pa < 64 * l + 64) && decide (64 * l < pa + len)).foldl (fun s l =>
    (s.modEng d fun e => { e with
      ecc := e.ecc.filter fun g => g != l
      lines := e.lines.map fun h => if h.pa = 64 * l then { h with poison := true } else h }).logEngine d Cause.syncUe (64 * l) 0 0) s) s

/-- No latent error waits to be met in DRAM or in an engine's SRAM (R257, R379). -/
def State.memClean (s : State) : Bool := s.dramErr.isEmpty && s.engines.all fun e => e.2.ecc.isEmpty

/-- Read a line as an array access of a virtual address does: from its engine when held there, else from its home (R174). -/
def State.arrayLine (s : State) (va pa key : Nat) : Line × Bool :=
  match s.heldAt va pa with
  | some h => (h.data, h.poison || s.sramBad (homeDie va) h)
  | none => (s.dramLine pa key, s.linePoison pa)

/-- Write bytes of a line as an array access does (R174). -/
def State.arrayWrite (s : State) (va pa key : Nat) (d : Line) (mask : BitVec 64) : State :=
  match s.heldAt va pa with
  | some _ => s.modEng (homeDie va) fun e => { e with lines := e.lines.map (fun l =>
      if l.isLine va pa then
        { l with data := mergeLine l.data d mask, dirty := l.dirty ||| mask, poison := l.poison && mask != BitVec.allOnes 64 } else l) }
  | none => s.dramWrite pa key d mask

/-- A held line leaves its engine: the bytes written there, or the poison pattern, go to its home (R221, R229, R379). -/
def State.writeBack (s : State) (die : Nat) (h : HeldLine) : State :=
  let bad := s.sramBad die h
  let s0 := if bad then s.sramScrub h.pa 64 else s
  let s1 := s0.modEng die fun e => { e with lines := e.lines.filter fun g => !g.isLine h.va h.pa }
  let s2 := if h.dirty = 0 then s1 else s1.dramWrite h.pa h.key h.data h.dirty
  if h.poison || bad then s2.poisonLine h.pa else s2

/-- Read `len` bytes at a virtual and physical address, line by line: the bytes, and which of them are poisoned. -/
def State.readRun (s : State) (key : Nat) : Nat → Nat → Nat → Nat → Nat × Nat
  | 0, _, _, _ => (0, 0)
  | fuel + 1, va, pa, len =>
    if len = 0 then (0, 0) else
    let o := pa % 64
    let n := min len (64 - o)
    let (d, bad) := s.arrayLine va pa key
    let v := d.toNat / 2 ^ (8 * o) % 2 ^ (8 * n)
    let rest := s.readRun key fuel (va + n) (pa + n) (len - n)
    (v + rest.1 * 2 ^ (8 * n), (if bad then 2 ^ n - 1 else 0) + rest.2 * 2 ^ n)

/-- Write the bytes of a run that a mask selects, line by line. -/
def State.writeRun (s : State) (key : Nat) : Nat → Nat → Nat → Nat → Nat → Nat → State
  | 0, _, _, _, _, _ => s
  | fuel + 1, va, pa, len, v, mask =>
    if len = 0 then s else
    let o := pa % 64
    let n := min len (64 - o)
    let d : Line := BitVec.ofNat 512 (v % 2 ^ (8 * n) * 2 ^ (8 * o))
    let mk : BitVec 64 := BitVec.ofNat 64 (mask % 2 ^ n * 2 ^ o)
    let s1 := if mk = 0 then s else s.arrayWrite va pa key d mk
    s1.writeRun key fuel (va + n) (pa + n) (len - n) (v / 2 ^ (8 * n)) (mask / 2 ^ n)

/-- The bytes of an access: value, poisoned bytes, bytes of non-resident entries, which read 0 (R194). -/
def State.readParts (s : State) (ps : List Part) : Nat × Nat × Nat :=
  ps.foldl (fun a p =>
    if p.res then
      let r := s.readRun p.key (p.len / 64 + 2) p.va p.pa p.len
      (a.1 + r.1 * 2 ^ (8 * p.off), a.2.1 + r.2 * 2 ^ p.off, a.2.2)
    else (a.1, a.2.1, a.2.2 + (2 ^ p.len - 1) * 2 ^ p.off)) (0, 0, 0)

/-- Write the bytes of an access that a mask selects. -/
def State.writeParts (s : State) (ps : List Part) (v mask : Nat) : State :=
  ps.foldl (fun s p => s.writeRun p.key (p.len / 64 + 2) p.va p.pa p.len (v / 2 ^ (8 * p.off)) (mask / 2 ^ p.off)) s

/-! ## Heath accesses by physical address (R252, R256, R362) -/

-- DEDUCED, unsafe: log entry 34.
/-- A line as a heath reads it: forwarded from the engine that holds it, else from DRAM; an EMPTY slot makes it poisoned. -/
def State.heathLine (s : State) (pa key : Nat) : Line × Bool :=
  match s.heldPa pa with
  | some (d, h) => (h.data, h.poison || s.sramBad d h)
  | none => if (tget s.keys key).isNone then (0, true) else (s.dramLine pa key, s.linePoison pa)

/-- A heath write: a held line is recalled first (R256). Through an EMPTY slot the line is one that is poisoned, and stays so unless all of it
is written (R362). -/
def State.heathWrite (s : State) (pa key : Nat) (d : Line) (mask : BitVec 64) : State :=
  let s1 := match s.heldPa pa with
    | some (die, h) => (s.writeBack die h).dramWrite pa key d mask
    | none => s.dramWrite pa key d mask
  if (tget s.keys key).isNone ∧ mask ≠ BitVec.allOnes 64 then s1.poisonLine pa else s1

/-- Read a run of physical bytes: value, and poison by byte. -/
def State.hReadRun (s : State) (key : Nat) : Nat → Nat → Nat → Nat × Nat
  | 0, _, _ => (0, 0)
  | fuel + 1, pa, len =>
    if len = 0 then (0, 0) else
    let o := pa % 64
    let n := min len (64 - o)
    let (d, bad) := s.heathLine pa key
    let v := d.toNat / 2 ^ (8 * o) % 2 ^ (8 * n)
    let rest := s.hReadRun key fuel (pa + n) (len - n)
    (v + rest.1 * 2 ^ (8 * n), (if bad then 2 ^ n - 1 else 0) + rest.2 * 2 ^ n)

/-- Write a run of physical bytes that a mask selects. -/
def State.hWriteRun (s : State) (key : Nat) : Nat → Nat → Nat → Nat → Nat → State
  | 0, _, _, _, _ => s
  | fuel + 1, pa, len, v, mask =>
    if len = 0 then s else
    let o := pa % 64
    let n := min len (64 - o)
    let mk : BitVec 64 := BitVec.ofNat 64 (mask % 2 ^ n * 2 ^ o)
    let s1 := if mk = 0 then s else s.heathWrite pa key (BitVec.ofNat 512 (v % 2 ^ (8 * n) * 2 ^ (8 * o))) mk
    s1.hWriteRun key fuel (pa + n) (len - n) (v / 2 ^ (8 * n)) (mask / 2 ^ n)

def State.hRead (s : State) (key pa len : Nat) : Nat × Nat := s.hReadRun key (len / 64 + 2) pa len
def State.hWrite (s : State) (key pa len v : Nat) : State := s.hWriteRun key (len / 64 + 2) pa len v (2 ^ len - 1)

/-- The listed page that holds a byte (R250). -/
def Hcp.pageOf (h : Hcp) (pa : Nat) : Option HPage := h.pages.find? fun p => p.pa ≤ pa && pa < p.pa + 2 ^ 21

/-- The page checks of an HCP access, PAGE_RANGE first (R252): the page's key, or the status 4 or 3. -/
def Hcp.check (h : Hcp) (pa len : Nat) : Except Nat Nat :=
  match h.pageOf pa, h.pageOf (pa + len - 1) with
  | some p, some q => if p.pa = q.pa then .ok p.key else .error 3
  | _, _ => .error 4

end Sys2Proof.Machine
end

