-- ==== Sys2Proof/Machine/Flags.lean ====
section
/-! DEFINITION. What this hardware has in place of a flags register: compare results, predicate bits, tile bits, poison bits,
queue occupancy and the hand-over order that queues and tile bits carry. -/
namespace Sys2Proof.Machine

/-! ## Compare results (R97, R101) -/

def ltS (a b : W32) : Bool := a.slt b
def ltU (a b : W32) : Bool := a.ult b
/-- A set-compare result. -/
def flag (b : Bool) : W32 := if b then 1 else 0

/-! ## Predicates (R36, R39) -/

/-- p0 reads all ones. -/
def Ctx.pred (k : Ctx) (p : Nat) : Pred := if p = 0 then BitVec.allOnes 512 else tgetD k.preds p 0
/-- Writes to p0 have no effect. -/
def Ctx.setPred (k : Ctx) (p : Nat) (v : Pred) : Ctx := if p = 0 then k else { k with preds := tputD k.preds p v 0 }
/-- p15 bit 0, the residency bit of memory scalar loads (R194). -/
def Ctx.setResBit (k : Ctx) (b : Bool) : Ctx :=
  k.setPred 15 ((k.pred 15 &&& ~~~1#512) ||| (if b then 1#512 else 0#512))
/-- pred_on (R36): bit j, or bit j / 2 when a row has 1,024 lanes. -/
def predBit (p : Pred) (sense : Bool) (lanes j : Nat) : Bool := xor (p.getLsbD (if lanes ≤ 512 then j else j / 2)) sense
def Ctx.predOn (k : Ctx) (p : Nat) (sense : Bool) (lanes j : Nat) : Bool := predBit (k.pred p) sense lanes j

/-! ## Tile bits (R19, R20) -/

/-- The bit a wait looks at: as it stood at the start of the cycle. -/
def Meadow.tileIsFull (m : Meadow) (k : Nat) : Bool := m.tileOld.contains k
def Meadow.setTile (m : Meadow) (k : Nat) (full : Bool) (rel : Reach) : Meadow :=
  { m with
    tileFull := if full then sortedInsert m.tileFull k else m.tileFull.filter (· != k)
    tileRel := tput m.tileRel k rel }

/-! ## Rows and their poison bits (R39, R185) -/

def Meadow.row (m : Meadow) (v : Nat) : Row := tgetD m.rows v 0
def Meadow.setRow (m : Meadow) (v : Nat) (r : Row) : Meadow := { m with rows := tputD m.rows v r 0 }
/-- Latent errors of the words of a row that a write covers whole are gone (R377). -/
def Meadow.freshWords (m : Meadow) (v : Nat) (mask : Pred) : Meadow :=
  if m.ecc = [] then m else
  { m with ecc := m.ecc.filter fun e => !(e.1 / 64 == v && mask.extractLsb' (8 * (e.1 % 64)) 8 == 255#8) }
/-- A row is written, at the bytes of a mask. -/
def Meadow.putRow (m : Meadow) (v : Nat) (r : Row) (mask : Pred) : Meadow := (m.setRow v r).freshWords v mask
def Meadow.poisoned (m : Meadow) (v : Nat) : Bool := m.rowPoison.contains v
def Meadow.setPoison (m : Meadow) (v : Nat) (b : Bool) : Meadow :=
  { m with rowPoison := if b then sortedInsert m.rowPoison v else m.rowPoison.filter (· != v) }

/-! ## Hand-over order (R218) -/

def Reach.join (a b : Reach) : Reach := ⟨max a.s b.s, max a.v b.v, max a.m b.m⟩
def Ctx.reach (k : Ctx) : StreamId → Reach | .s => k.reachS | .v => k.reachV | .m => k.reachM
def Ctx.joinReach (k : Ctx) (st : StreamId) (r : Reach) : Ctx :=
  match st with
  | .s => { k with reachS := k.reachS.join r }
  | .v => { k with reachV := k.reachV.join r }
  | .m => { k with reachM := k.reachM.join r }
/-- What is context-ordered before the next word of a stream: what reached it, and all of its own accesses so far. -/
def Ctx.reachOf (k : Ctx) (st : StreamId) (seq : Nat) : Reach :=
  match st with
  | .s => { k.reachS with s := seq }
  | .v => { k.reachV with v := seq }
  | .m => { k.reachM with m := seq }

/-! ## Queue registers (R21, R22) -/

/-- Free slots in a cycle: a slot freed in this cycle is not free (R22). -/
def QReg.room {w : Nat} (q : QReg w) (g depth : Nat) : Nat :=
  depth - q.items.length - (if q.popAt = g then q.popCnt else 0)
/-- Entries that may be popped in a cycle: those pushed in earlier cycles (R22). -/
def QReg.ready {w : Nat} (q : QReg w) (g : Nat) : List (QItem w) := q.items.filter fun i => i.at_ < g
def QReg.push {w : Nat} (q : QReg w) (v : BitVec w) (g : Nat) (r : Reach) : QReg w := { q with items := q.items ++ [⟨v, g, r⟩] }
/-- Remove the head entry (R21). -/
def QReg.pop {w : Nat} (q : QReg w) (g : Nat) : QReg w :=
  { q with items := q.items.drop 1, popAt := g, popCnt := (if q.popAt = g then q.popCnt else 0) + 1 }

def Ctx.queue64 (k : Ctx) (q : Nat) : QReg 64 := tgetD k.q64 q {}
def Ctx.queueRow (k : Ctx) (q : Nat) : QReg 4096 := tgetD k.qrow q {}
def Ctx.push64 (k : Ctx) (q : Nat) (v : W64) (g : Nat) (r : Reach) : Ctx := { k with q64 := tput k.q64 q ((k.queue64 q).push v g r) }
def Ctx.pop64 (k : Ctx) (q : Nat) (g : Nat) : Ctx := { k with q64 := tput k.q64 q ((k.queue64 q).pop g) }
def Ctx.pushRow (k : Ctx) (q : Nat) (v : Row) (g : Nat) (r : Reach) : Ctx := { k with qrow := tput k.qrow q ((k.queueRow q).push v g r) }
def Ctx.popRow (k : Ctx) (q : Nat) (g : Nat) : Ctx := { k with qrow := tput k.qrow q ((k.queueRow q).pop g) }

end Sys2Proof.Machine
end

