-- ==== Sys2Proof/Machine/Access.lean ====
section
/-! DEFINITION. Accesses of the array side: where a physical address lies in DRAM, the address classes and their least
latencies, the order of a stream's accesses by page kind, loads on their way to the landing buffer, stores on their way
to memory, and the scratchpad with its buffer states. -/
namespace Sys2Proof.Machine

/-! ## Places in DRAM (R187, R188) -/

/-- A place: arbiter (64 × stack + pseudo-channel), bank group, bank, row, column. -/
structure Place where
  pc : Nat
  group : Nat
  bank : Nat
  row : Nat
  col : Nat
  /-- the sub-channel of a 16-byte granule -/
  sub : Nat
  deriving DecidableEq, Repr

-- DESIGN CHOICE, unsafe: log entry 53.
/-- The DRAM place of a physical address; none for second-tier memory. -/
def placeOf (pa : Nat) : Option Place :=
  if 2 ^ 44 ≤ pa then none
  else if 2 ^ 39 ≤ pa then
    let q := bitsN pa 29 21
    let o := pa % 2 ^ 21
    let c := o / 2 ^ 11
    let k := c / 4
    some { pc := bitsN pa 38 36 * 64 + bitsN pa 35 30, group := (c + q) % 4, bank := k % 4,
           row := 65536 - 128 * (q + 1) + 2 * (k / 4) + bitsN o 10 10, col := o % 2 ^ 10, sub := bitsN pa 5 4 }
  else
    some { pc := bitsN pa 10 8 * 64 + 2 * bitsN pa 15 11 + bitsN pa 16 16,
           group := Nat.xor (bitsN pa 20 19) (bitsN pa 24 23), bank := Nat.xor (bitsN pa 22 21) (bitsN pa 26 25),
           row := bitsN pa 38 23, col := bitsN pa 18 17 * 256 + pa % 256, sub := bitsN pa 5 4 }

def Place.stack (p : Place) : Nat := p.pc / 64
/-- The heath coordinate of the place's bank group (R6). -/
def Place.coord (p : Place) : Nat := p.pc * 4 + p.group

/-- The lines of a part, as (virtual, physical) line addresses. -/
def Part.lines (p : Part) : List (Nat × Nat) :=
  if p.len = 0 then [] else
  (List.range ((p.pa % 64 + p.len + 63) / 64)).map fun i => (p.va / 64 * 64 + 64 * i, p.pa / 64 * 64 + 64 * i)

/-- The lines of a range. -/
def lineNos (pa len : Nat) : List Nat := if len = 0 then [] else (List.range ((pa % 64 + len + 63) / 64)).map (pa / 64 + ·)

-- DEDUCED, unsafe: log entry 28.
/-- The base die reads lines of a range: latent errors are corrected, or poison the line; both are logged (R257). -/
def State.dieScrub (s : State) (pa len : Nat) : State :=
  (s.dramErr.filter fun e => decide (pa < 64 * e.1 + 64) && decide (64 * e.1 < pa + len)).foldl (fun s e =>
    let a := 64 * e.1
    let coord := ((placeOf a).map (·.coord)).getD 0
    let s1 : State := { s with dramErr := tdel s.dramErr e.1 }
    if e.2 = 1 then s1.logStack Cause.heathCe a coord else (s1.poisonLine a).logStack Cause.heathUe a coord) s

/-- Lines are read by their physical address: one that an engine holds is read there, any other by its base die (R256, R257, R379). -/
def State.dramScrub (s : State) (pa len : Nat) : State :=
  (lineNos pa len).foldl (fun s l => if (s.heldPa (64 * l)).isSome then s.sramScrub (64 * l) 64 else s.dieScrub (64 * l) 64) s

/-- The lines of an access are read by the engine that holds them, or by their base die (R174, R257, R379). -/
def State.scrubParts (s : State) (ps : List Part) : State :=
  if s.memClean then s else
  ps.foldl (fun s p => if p.res then p.lines.foldl (fun s l =>
    if (s.heldAt l.1 l.2).isSome then s.sramScrub l.2 64 else s.dieScrub l.2 64) s else s) s

-- DESIGN CHOICE, unsafe: log entry 93.
/-- The listed port that a 4 KiB granule of second-tier memory goes to: (PA >> 12) mod W (R189); none while no port is listed. -/
def State.portOf (s : State) (pa : Nat) : Option Nat :=
  let ports := (List.range 8).filter fun i => getField s.bootcfg (24 + i) 1 = 1
  ports[pa / 2 ^ 12 % ports.length]?

/-- Latency of a line of second-tier memory over its port. -/
def State.portLatency (s : State) (pa : Nat) : Nat := 1600 + Config.portTime ((s.portOf pa).getD 8)

/-- Least latency of a line by its address class, from a meadow of a die (R192). -/
def State.lineLatency (s : State) (die va pa : Nat) : Nat :=
  if (s.heldAt va pa).isSome then 90
  else match placeOf pa with
    | none => s.portLatency pa
    | some p => if p.stack / 4 = die then 300 else 420

def State.partsLatency (s : State) (die : Nat) (ps : List Part) : Nat :=
  ps.foldl (fun a p => if p.res then p.lines.foldl (fun a l => max a (s.lineLatency die l.1 l.2)) a else a) 0

/-- The number of command slots of 0.5 ns that have begun before this GTC cycle (R253). -/
def State.slotNow (s : State) : Nat := 10 * s.gtc / 7

-- DESIGN CHOICE, unsafe: log entry 53.
/-- A request for bytes of one line of DRAM enters the queue of its pseudo-channel: a 64-byte burst, or a 16-byte granule of one
sub-channel (R187, R253). -/
def State.arbPut (s : State) (pa : Nat) (r : ArbReq) (gran : Bool := false) : State :=
  match placeOf pa with
  | none => s
  | some q => s.modArb q.pc fun a => { a with queue := a.queue ++
      [{ r with bank := q.group * 4 + q.bank, row := q.row, line := pa / 64, sub := if gran then some q.sub else none, enq := s.slotNow, ord := s.seq }] }

/-- Enter the requests of an access to the arbiters of its DRAM lines (R253, R254). -/
def State.arbEnter (s : State) (id : Nat) (kind : ArbKind) (deadline : Nat) (ps : List Part) (gran : Bool := false) : State :=
  ps.foldl (fun s p => if p.res then
    p.lines.foldl (fun s l =>
      if (s.heldAt l.1 l.2).isSome then s
      else if !gran then s.arbPut l.2 { id := id, kind := kind, deadline := deadline }
      else [0, 1, 2, 3].foldl (fun s i =>
        let a := l.2 + 16 * i
        if p.pa < a + 16 ∧ a < p.pa + p.len then s.arbPut a { id := id, kind := kind, deadline := deadline } true else s) s) s
    else s) s

/-- Requests of a heath command processor or its engines for the lines of a range; a held line is forwarded or recalled (R256). -/
def State.arbHeath (s : State) (id hcp : Nat) (lim : Nat × Nat) (pa len : Nat) : State :=
  (lineNos pa len).foldl (fun s l => if (s.heldPa (64 * l)).isSome then s else s.arbPut (64 * l) { id := id, kind := .heath, hcp := hcp, lim := lim }) s

/-- No request of this access is left in an arbiter. -/
def State.arbDone (s : State) (id : Nat) : Bool := s.arbiters.all fun a => a.2.queue.all fun r => r.id != id
/-- The same of one line. -/
def State.lineDone (s : State) (id line : Nat) : Bool := s.arbiters.all fun a => a.2.queue.all fun r => r.id != id || r.line != line

/-! ## Lines that leave their engine (R221, R229, R256) -/

/-- A line leaves its engine, and its write-back takes a slot of its pseudo-channel. -/
def State.evict (s : State) (d : Nat) (h : HeldLine) : State :=
  let (id, s1) := (s.writeBack d h).nextSeq
  if h.dirty = 0 then s1 else s1.arbPut h.pa { id := id, kind := .arrayWrite }

-- DESIGN CHOICE, unsafe: log entry 53.
/-- The held lines of a physical range that are not being recalled are (R256): each leaves when its request at position 2 is served. -/
def State.recallRange (s : State) (pa len : Nat) : State :=
  [0, 1].foldl (fun s d => ((s.eng d).lines.filter fun h => h.recalled.isNone && decide (pa < h.pa + 64) && decide (h.pa < pa + len)).foldl (fun s h =>
    let (id, s1) := s.nextSeq
    (s1.arbPut h.pa { id := id, kind := .recall }).modEng d fun e =>
      { e with lines := e.lines.map fun l => if l.isLine h.va h.pa then { l with recalled := some id } else l }) s) s

/-- A line of a physical range is held in an engine. -/
def State.heldIn (s : State) (pa len : Nat) : Bool :=
  [0, 1].any fun d => (s.eng d).lines.any fun h => decide (pa < h.pa + 64) && decide (h.pa < pa + len)

/-- Lines whose recall has been served leave. -/
def State.endRecalls (s : State) : State :=
  [0, 1].foldl (fun s d => ((s.eng d).lines.filter fun h => h.recalled.any s.arbDone).foldl (fun s h => s.writeBack d h) s) s

/-! ## Order of a stream's accesses (R215) -/

/-- A scope's place in the order of R212. -/
def scopeRank : Scope → Nat | .ctx => 0 | .mdw => 1 | .die => 2 | .stk => 3 | .pkg => 4 | .sys => 5

/-- An access that has issued and is not performed at every scope. -/
structure OpenAcc where
  id : Nat
  stream : StreamId
  /-- it reads -/
  load : Bool
  /-- address, length and page kind of each part that is not performed (R216) -/
  parts : List (Nat × Nat × Nat)
  hasp : Bool := false
  /-- what is context-ordered before it -/
  reach : Reach := {}
  /-- how many of the narrowest scopes it is performed at -/
  seen : Nat := 0
  deriving DecidableEq, Repr

def partKeys (ps : List Part) : List (Nat × Nat × Nat) := ps.map fun p => (p.va, p.len, p.kind)

/-- The pages' kinds order the first access before the second (R215); a hasp task's accesses keep program order (R323). -/
def ordered (a b : OpenAcc) : Bool :=
  (a.hasp && b.hasp) || a.parts.any fun p => b.parts.any fun q =>
    (p.2.2 == 0 && q.2.2 == 0) ||
    (decide (p.2.2 < 2) && decide (q.2.2 < 2) && decide (p.1 < q.1 + q.2.1) && decide (q.1 < p.1 + p.2.1))

/-- The parts of a load that are not read yet. -/
def LandEntry.openParts (l : LandEntry) : List Part := l.parts.filter fun p => l.todo.any fun t => t.1 == p.off
/-- A load, as far as some of its parts are concerned. -/
def LandEntry.accOf (l : LandEntry) (ps : List Part) : OpenAcc :=
  { id := l.id, stream := l.stream, load := true, parts := partKeys ps, hasp := l.hasp, reach := l.reach }
def LandEntry.acc (l : LandEntry) : OpenAcc := l.accOf l.openParts
def PendStore.acc (p : PendStore) : OpenAcc :=
  { id := p.id, stream := p.stream, load := false, parts := partKeys p.parts, hasp := p.hasp, reach := p.reach, seen := p.seen }
/-- Bytes of an operation's operand, and whether it is an atomic or a reduction, whose read counts as a load (R222, R231-R247). -/
def SyncOp.bytes : SyncOp → Nat
  | .atom _ _ wide _ _ | .cas wide _ _ _ => if wide then 8 else 4
  | .fred .. | .sems _ | .semw .. => 4
  | .hpost .. => 8
  | _ => 64
def SyncOp.reads : SyncOp → Bool | .atom .. | .cas .. | .fred .. => true | _ => false
/-- An atomic counts as a load and a store of its page kind (R222). -/
def SyncReq.acc (r : SyncReq) : OpenAcc :=
  { id := r.id, stream := .s, load := r.op.reads, parts := [(r.va, r.op.bytes, r.kind)], reach := r.reach }

/-- The operations that R222 counts as accesses: atomics, reductions and semaphore posts. -/
def SyncOp.isAccess : SyncOp → Bool
  | .atom .. | .cas .. | .fred .. | .sems .. | .bari .. | .barv .. | .barx .. | .bart .. => true
  | _ => false

/-- Every access of a context that is not performed. -/
def State.openAccs (s : State) (c x : Nat) : List OpenAcc :=
  let k := s.ctx c x
  (k.landing.filter fun l => !l.arrived && l.spad.isNone).map (·.acc) ++ k.stores.map (·.acc) ++
  ([0, 1].flatMap fun d => ((s.eng d).reqs.filter fun r => r.op.isAccess && !r.heath && r.coord == c && r.ctx == x).map (·.acc))

def OpenAcc.within (a : OpenAcc) (r : Reach) : Bool :=
  match a.stream with
  | .s => decide (a.id < r.s)
  | .v => decide (a.id < r.v)
  | .m => decide (a.id < r.m)

/-- An earlier access must be performed first: one of the same stream that the page kinds order before this one, at SYS (R215), or one
of another stream that a hand-over orders before it, at CTX (R218). -/
def State.blocked (s : State) (c x : Nat) (a : OpenAcc) : Bool :=
  (s.openAccs c x).any fun b => decide (b.id < a.id) &&
    if b.stream = a.stream then ordered b a else b.within a.reach && b.seen == 0

def partsMeet (a b : List (Nat × Nat × Nat)) : Bool :=
  a.any fun p => b.any fun q => decide (p.1 < q.1 + q.2.1) && decide (q.1 < p.1 + p.2.1)

-- DESIGN CHOICE, unsafe: log entry 27.
/-- A store that is performed for the reader's scope, and not yet at home, is one of these bytes: the read waits for it. -/
def State.nearby (s : State) (c x : Nat) (a : OpenAcc) : Bool :=
  [0, 1, 2, 3].any fun y => (s.ctx c y).stores.any fun p =>
    decide ((if y = x then 0 else 1) < p.seen) && !(y == x && p.stream == a.stream && decide (a.id < p.id)) && partsMeet a.parts (partKeys p.parts)

/-- A read must wait: for what is ordered before it, or for a store that its context may see already. -/
def State.readBlocked (s : State) (c x : Nat) (a : OpenAcc) : Bool := s.blocked c x a || (!a.hasp && s.nearby c x a)

/-- An access takes part in a release or fence over these page kinds (R219, R220). -/
def OpenAcc.takesPart (a : OpenAcc) (rc un : Bool) : Bool :=
  a.parts.any fun p => p.2.2 == 0 || (p.2.2 == 1 && rc) || (p.2.2 == 2 && un)

/-- Accesses that a release of everything in `r` at a scope still waits for. -/
def State.unreleased (s : State) (c x : Nat) (r : Reach) (rc un : Bool) (sc : Scope) : List OpenAcc :=
  (s.openAccs c x).filter fun a => a.within r && a.takesPart rc un && decide (a.seen ≤ scopeRank sc)
def State.released (s : State) (c x : Nat) (r : Reach) (sc : Scope := .sys) : Bool := (s.unreleased c x r true false sc).isEmpty

/-! ## Order of the accesses to one line (R253) -/

def Part.meets (p : Part) (line : Nat) : Bool := p.res && decide (p.pa < 64 * line + 64) && decide (64 * line < p.pa + p.len)

/-- A store of a heath command processor, its load where that counts, a command's writes or a landing's line: their requests for a line
entered before `ord`, and they are not performed. -/
def State.heathAhead (s : State) (ord line : Nat) (loads : Bool) : Bool :=
  s.hcps.any (fun h => h.2.stores.any (fun p => decide (p.id < ord) && p.parts.any (·.meets line)) ||
    (loads && (match h.2.load with | some l => decide (l.id < ord) && (lineNos l.pa l.bytes).contains line | none => false))) ||
  s.hcmds.any (fun c => decide (c.ord < ord) && c.wr.any fun r => decide (r.1 < 64 * line + 64) && decide (64 * line < r.1 + r.2)) ||
  s.landings.any fun l => l.ords.any fun o => o.1 == line && decide (o.2 < ord)

/-! ## Loads (R190, R191, R194) -/

/-- Free entries of the landing buffer. -/
def Ctx.landFree (k : Ctx) : Nat := 64 - k.landing.length

/-- The earliest arrivals of a load's parts in resident pages: each page's part is an access of its own (R192, R216). -/
def partTimes (t ix : Nat) (ps : List Part) : List (Nat × Nat) := ((ps.filter (·.res)).zipIdx).map fun p => (p.1.off, t + Config.excess (ix + p.2))

/-- Bytes of an access that lie in entries that are not resident. -/
def nonResMask (ps : List Part) : Nat := ps.foldl (fun a p => if p.res then a else a + (2 ^ p.len - 1) * 2 ^ p.off) 0

/-- A load issues: it takes a landing entry, and its bytes arrive no earlier than its class allows; bytes of non-resident
entries are there at once (R190, R192, R194). The clock of `lam` is MTC. -/
def State.startLoad (s : State) (c x : Nat) (st : StreamId) (pc : W32) (lam bytes : Nat) (dest : LandDest) (ps : List Part) (hasp : Bool)
    (f : LandEntry → LandEntry) : State :=
  let (id, s1) := s.nextSeq
  let s2 : State := { s1 with fresh := s1.fresh + ps.length }
  let lat := s.partsLatency (c / 256) ps
  let m := s.mdw c
  let none_ := ps.all fun p => !p.res
  let e : LandEntry :=
    { id := id, stream := st, pc := pc, lam := lam, arriveAt := s.gtc, dest := dest, bytes := bytes, parts := ps, hasp := hasp, at_ := s.gtc
      arrived := none_, nonres := BitVec.ofNat 512 (nonResMask ps), todo := partTimes (s.gtc + lat - 1) s1.fresh ps
      reach := (s.ctx c x).reachOf st id }
  let s3 := s2.arbEnter id .arrayRead (s.gtc + (lam - m.mtc)) ps
  let s4 := s3.modCtx c x fun k => { k with landing := k.landing ++ [f e] }
  if none_ && decide (lam ≤ m.mtc) then s4.now [.loadLanding c x id] else s4

/-- A GTC that no run reaches before the step that sets the real one. -/
def notYet : Nat := 2 ^ 80

/-- A scratchpad load issues: it takes a landing entry and waits for the read port of its bank (R176). -/
def State.startSpadLoad (s : State) (c x : Nat) (st : StreamId) (pc : W32) (lam bytes : Nat) (dest : LandDest) (a : Nat)
    (f : LandEntry → LandEntry) : State :=
  let (id, s1) := s.nextSeq
  s1.modCtx c x fun k => { k with landing := k.landing ++ [f
    { id := id, stream := st, pc := pc, lam := lam, arriveAt := notYet, dest := dest, bytes := bytes, parts := [],
      spad := some a, at_ := s.gtc, port := true }] }

/-- Some parts of a load are read (R195, R213); it has arrived when all are. -/
def State.arrive (s : State) (e : LandEntry) (ps : List Part) : LandEntry :=
  let r := (s.issuedAt e.id).readParts ps
  let todo := e.todo.filter fun t => !ps.any fun p => p.off == t.1
  { e with
    data := e.data ||| BitVec.ofNat 4096 r.1, bad := e.bad ||| BitVec.ofNat 512 r.2.1, todo := todo
    arrived := todo.isEmpty, arriveAt := s.gtc }

/-! ## Stores (R196, R198, R213-R215) -/

/-- The store of one page's part, or of all the parts of a hasp task's store, which its engine judges whole. -/
def State.startStore1 (s : State) (c x : Nat) (st : StreamId) (ps : List Part) (data : Row) (mask : Pred) (hasp : Bool) : State :=
  let (id, s1) := s.nextSeq
  let (ix, s2) := s1.freshIx
  let s3 := s2.arbEnter id .arrayWrite 0 ps
  s3.modCtx c x fun k => { k with stores := k.stores ++
    [{ id := id, stream := st, parts := ps, data := data, mask := mask, due := s.gtc + Config.storeDelay ix, hasp := hasp, after := k.pcOf st
       reach := k.reachOf st id, near := (s.gtc + Config.nearDelay ix, Config.nearScope ix % 3) }] }

/-- A store issues: its bytes wait until they are performed, those of each page by themselves (R216). -/
def State.startStore (s : State) (c x : Nat) (st : StreamId) (ps : List Part) (data : Row) (mask : Pred) (hasp : Bool) : State :=
  match ps, hasp with
  | p :: q :: rest, false => (p :: q :: rest).foldl (fun s p => s.startStore1 c x st [p] data mask false) s
  | ps, _ => s.startStore1 c x st ps data mask hasp

-- DESIGN CHOICE, unsafe: log entry 27.
/-- A store's bytes reach memory. -/
def State.doStore (s : State) (c x : Nat) (p : PendStore) : State :=
  (s.underKeys p.id fun s => s.writeParts p.parts p.data.toNat p.mask.toNat).modCtx c x fun k => { k with stores := k.stores.filter fun q => q.id != p.id }

/-! ## Atomic sets as plain accesses meet them (R321, R330) -/

/-- The declared set of a region that holds a virtual line, with its die. -/
def State.setOfLine (s : State) (region line : Nat) : Option (Nat × HaspSet) :=
  [0, 1].firstM fun d => ((s.eng d).sets.find? fun t =>
    t.region == region && decide (t.base ≤ line * 64) && decide (line * 64 < t.base + 64 * t.lines)).map fun t => (d, t)

/-- The line of a virtual address in a meadow's window: its physical address and key slot. -/
def Meadow.lineAt (m : Meadow) (va : Nat) : Option (Nat × Nat) :=
  (vaEntry va).map fun q => let e := tgetD m.window q.1 0; ((eFrame e * 2 ^ 21 + q.2.1) / 64 * 64, eKey e)

-- DEDUCED, unsafe: log entry 56.
/-- The held set with a line at a physical address: its lines are held in their engines (R321), and its holder's window maps them. -/
def State.heldSetAt (s : State) (pa : Nat) : Option HaspSet :=
  let ls := ((s.eng 0).lines ++ (s.eng 1).lines).filter fun h => h.pa == pa / 64 * 64
  if ls = [] then none
  else ((s.eng 0).sets ++ (s.eng 1).sets).find? fun t => t.owner.isSome && ls.any fun h =>
    decide (t.base ≤ h.va) && decide (h.va < t.base + 64 * t.lines) && ((s.mdw t.holder.1).lineAt h.va).map (·.1) == some h.pa
def State.committingAt (s : State) (pa : Nat) : Bool := (s.heldSetAt pa).any (·.committing)

/-- A write that no hasp task makes waits while its line's set is held (R330). -/
def State.setHeld (s : State) (region : Nat) (ps : List Part) : Bool :=
  ps.any fun p => p.lines.any fun l => match s.setOfLine region (l.1 / 64) with
    | some (_, t) => t.owner.isSome
    | none => false

-- DESIGN CHOICE, unsafe: log entry 27.
/-- A store may be performed now. -/
def State.storeReady (s : State) (c x : Nat) (p : PendStore) : Bool :=
  decide (p.due ≤ s.gtc) && !p.hasp && s.arbDone p.id && !s.blocked c x p.acc && !(p.parts.any fun q => q.res && q.lines.any fun l => s.heathAhead p.id (l.2 / 64) true) &&
  !s.setHeld ((s.mdw c).region.getD 0) p.parts

-- DESIGN CHOICE, unsafe: log entry 27.
/-- A store may now be performed at its narrow scopes, before the wider ones. -/
def State.nearReady (s : State) (c x : Nat) (p : PendStore) : Bool :=
  p.seen == 0 && p.near.2 != 0 && decide (p.near.1 ≤ s.gtc) && !p.hasp && !s.blocked c x p.acc && !s.setHeld ((s.mdw c).region.getD 0) p.parts

/-- An array access that no hasp task makes meets a line, its request entered before `ord`, and it is not performed; of loads where they
count (R253). -/
def State.arrayAhead (s : State) (ord line : Nat) (loads : Bool) : Bool :=
  s.meadows.any fun m => m.2.ctxs.any fun k =>
    (loads && k.2.landing.any fun e => !e.arrived && !e.hasp && e.spad.isNone && decide (e.id < ord) && e.openParts.any (·.meets line)) ||
    k.2.stores.any fun p => decide (p.id < ord) && !p.hasp && p.parts.any (·.meets line) && !s.setHeld (m.2.region.getD 0) p.parts

/-- Perform every plain store of a context that may be performed, oldest first. -/
def State.drainStores (s : State) (c x : Nat) : State :=
  (s.ctx c x).stores.foldl (fun s p =>
    if s.storeReady c x p then s.doStore c x p
    else if s.nearReady c x p then s.modCtx c x fun k => { k with stores := k.stores.map fun q => if q.id = p.id then { q with seen := q.near.2 } else q }
    else s) s

/-! ## Buffers and the scratchpad (R176, R182-R184) -/

/-- An agent that meets a buffer's state (R183). -/
inductive BufUse | fill | write | mwrite | read | mread | drain
  deriving DecidableEq, Repr

inductive BufFate | legal | fault | wait
  deriving DecidableEq, Repr

/-- The table of R183. -/
def bufFate (u : BufUse) (st : BufState) : BufFate :=
  match u, st with
  | .fill, .full => .fault
  | .fill, .draining => .wait
  | .fill, _ => .legal
  | .write, .full | .write, .draining | .mwrite, .full | .mwrite, .draining => .fault
  | .write, _ | .mwrite, _ => .legal
  | .read, .full | .read, .draining | .drain, .full | .drain, .draining => .legal
  | .read, _ | .drain, _ => .fault
  | .mread, .full => .legal
  | .mread, .draining => .fault
  | .mread, _ => .wait

/-- The declared buffer that covers a scratchpad address. -/
def Meadow.bufAt (m : Meadow) (a : Nat) : Option (Nat × Buf) :=
  m.bufs.find? fun b => b.2.first ≤ a / 4096 && a / 4096 < b.2.first + b.2.count

/-- The buffers of a byte range, wrapping at 1 MiB, with the first address of the range in each. -/
def Meadow.bufsOf (m : Meadow) (a len : Nat) : List (Nat × Nat × Buf) :=
  (List.range ((a % 4096 + len + 4095) / 4096)).filterMap fun i =>
    let b := if i = 0 then a % 2 ^ 20 else (a / 4096 + i) * 4096 % 2 ^ 20
    (m.bufAt b).map fun t => (b, t)

def BufState.code : BufState → Nat | .empty => 0 | .filling => 1 | .full => 2 | .draining => 3

/-- TVAL of BUF_STATE (R371). -/
def bufTval (a : Nat) (id : Nat) (b : Buf) : W64 := BitVec.ofNat 64 (b.state.code * 2 ^ 32 + id * 2 ^ 24 + a)

/-- The first byte refused in a range, as a TVAL. -/
def Meadow.bufFault (m : Meadow) (u : BufUse) (a len : Nat) : Option W64 :=
  ((m.bufsOf a len).find? fun t => bufFate u t.2.2.state = .fault).map fun t => bufTval t.1 t.2.1 t.2.2
def Meadow.bufWait (m : Meadow) (u : BufUse) (a len : Nat) : Bool :=
  (m.bufsOf a len).any fun t => bufFate u t.2.2.state = .wait

-- DEDUCED, unsafe: log entry 29.
/-- Bytes of the scratchpad, addresses modulo 2^20. -/
def spadRead (m : List Host.Cell) (a : Nat) : Nat → Nat
  | 0 => 0
  | n + 1 => (Memory.read m (a % 2 ^ 20)).toNat + 256 * spadRead m (a + 1) n

/-- The bytes of a range that lie in a bad word, as a mask (R378). -/
def Meadow.spadBadMask (m : Meadow) (a len : Nat) : Nat :=
  if m.badWords = [] then 0 else
  (List.range len).foldl (fun r i => if m.badWords.contains ((a + i) % 2 ^ 20 / 8) then r + 2 ^ i else r) 0

def spadWrite (m : List Host.Cell) (a : Nat) : Nat → Nat → Nat → List Host.Cell
  | 0, _, _ => m
  | n + 1, v, mask =>
    spadWrite (if mask % 2 = 1 then Memory.write m (a % 2 ^ 20) (BitVec.ofNat 8 v) else m) (a + 1) n (v / 256) (mask / 2)

/-- Bad words that a write covers whole are cleared (R378). -/
def clearBad (bad : List Nat) (a len mask : Nat) : List Nat :=
  bad.filter fun w => !((List.range 8).all fun i =>
    let d := (w * 8 + i + 2 ^ 20 - a % 2 ^ 20) % 2 ^ 20
    decide (d < len) && (mask / 2 ^ d % 2 == 1))

/-- Latent errors of scratchpad words that a write covers whole are gone (R378). -/
def clearLatent (ecc : Tab Nat) (a len mask : Nat) : Tab Nat :=
  if ecc = [] then [] else
  let gone := (ecc.map (·.1)).filter fun w => 65536 ≤ w && !(clearBad [w - 65536] a len mask).contains (w - 65536)
  ecc.filter fun e => !gone.contains e.1

/-- The change of one event of R183 and R184 to a buffer's state. -/
def Buf.event (b : Buf) (g : Nat) : BufEv → Buf
  | .write => if b.state = .empty then { b with state := .filling } else b
  | .last => if b.state = .filling then { b with state := .full, nread := 0 } else b
  | .full => if b.state = .filling ∨ b.state = .empty then { b with state := .full, nread := 0 } else b
  | .consumed => if b.state = .full then { b with state := .draining, enterDrain := g } else b
  | .drain => if b.state = .full ∧ b.readers = 0 then { b with state := .draining, enterDrain := g } else b
  | .emptied => if b.state = .draining then { b with state := .empty } else b

/-- The order of one cycle's events (R184): writes first, then the table from top to bottom. -/
def BufEv.rank : BufEv → Nat | .write => 10 | .last => 11 | .full => 12 | .consumed => 13 | .drain => 14 | .emptied => 15

def Meadow.bufEvent (m : Meadow) (b : Nat) (g : Nat) (ev : BufEv) : Meadow :=
  match tget m.bufs b with
  | none => m
  | some u => { m with bufs := tput m.bufs b (u.event g ev) }

/-- The declaration word of R202 takes effect. -/
def Meadow.declare (m : Meadow) (w : W32) : Meadow :=
  let id := getField w 24 5
  if w.getLsbD 31 then { m with bufs := tdel m.bufs id }
  else
    let b : Buf := { first := getField w 0 8, count := getField w 8 8 + 1, readers := getField w 16 8, once := getField w 16 8 != 0,
                     state := .empty }
    { m with bufs := tput m.bufs id b }

/-! ## Changes that take effect after their cycle -/

/-- Fields of a control register that CSRW sets: the writable bits of R41 (R4, R5). -/
def csrMask (n : Nat) : W64 :=
  match n with
  | 0x000 => 0x300000#64
  | 0x001 => 0xFFFFFFFF0000807F#64
  | 0x010 => 0xFFFFFFFC#64
  | 0x011 => 0xFFFFFFFF00000001#64
  | 0x003 => 0xFFFFFFFF#64
  | _ => BitVec.allOnes 64

/-- A written value merged into a register's old value. -/
def csrMerge (n : Nat) (old v : W64) : W64 := (old &&& ~~~csrMask n) ||| (v &&& csrMask n)

/-- CSRW reaches its register (R41, R108, R293, R299). (R312, R316) -/
def Meadow.csrWrite (m : Meadow) (x n : Nat) (v : W64) : Meadow :=
  match n with
  | 0x000 => m.modCtx x fun k => if 2 ≤ getField v 20 2 then k else { k with istat := csrMerge n k.istat v }
  | 0x001 => m.modCtx x fun k => { k with tcause := csrMerge n k.tcause v }
  | 0x002 => m.modCtx x fun k => { k with tval := v }
  | 0x003 => m.modCtx x fun k => { k with tpc := csrMerge n k.tpc v }
  | 0x010 => m.modCtx x fun k => { k with uivec := csrMerge n k.uivec v }
  | 0x011 => m.modCtx x fun k => { k with uistat := csrMerge n k.uistat v }
  | 0x020 => if getField v 0 8 = 0 then m else { m with ageLimit := v.extractLsb' 0 8 }
  | 0x040 => { m with mbpol := (v &&& 0x700#64) ||| (if getField v 0 2 = 3 then m.mbpol &&& 3#64 else v &&& 3#64) }
  | 0x041 => { m with missCount := v &&& 0xFFFFFFFF#64 }
  | 0x042 => { m with beatLimit := v.extractLsb' 0 8 }
  | _ => m

/-- One change. `g` is the cycle it was made in. -/
def Meadow.apply (m : Meadow) (g : Nat) : LateOp → Meadow
  | .spad a len d mask => { m with spad := spadWrite m.spad a len d.toNat mask.toNat, badWords := clearBad m.badWords a len mask.toNat, ecc := clearLatent m.ecc a len mask.toNat }
  | .spadBad a => { m with badWords := sortedInsert m.badWords (a % 2 ^ 20 / 8) }
  | .csr x n v => m.csrWrite x n v
  | .tag i v => { m with tags := tputD m.tags i v 0 }
  | .tagInv i => { m with tags := tputD m.tags i (tgetD m.tags i 0 &&& 0x3FFFFFFFFFFFFFFF#64) 0 }
  | .sbf n v => { m with sbf := tputD m.sbf n v 0 }
  | .bdecl w => m.declare w
  | .buf b ev => m.bufEvent b g ev
  | .window im es => { m with
      window := es.foldl (fun t e => tputD t e.1 e.2 0) m.window
      twld := match im with | some i => es.foldl (fun t e => tput t e.1 i) m.twld | none => m.twld }
  | .topo t => { m with topo := some t }
  | .look n => { m with
      mbpol := setField m.mbpol 8 3 (n - 1)
      beat := m.beat.map fun b => if getField m.mbpol 8 3 + 1 < n then { b with lookTo := some n } else b }
  | .uien x en => m.modCtx x fun k => { k with uistat := setField k.uistat 0 1 (if en then 1 else 0) }

/-- Insert a change behind those of the same cycle and rank. -/
def lateInsert : List Late → Late → List Late
  | [], l => [l]
  | h :: t, l => if l.at_ < h.at_ ∨ (l.at_ = h.at_ ∧ l.rank < h.rank) then l :: h :: t else h :: lateInsert t l

-- DEDUCED, unsafe: log entry 25.
-- DEDUCED, unsafe: log entry 29.
def Meadow.addLate (m : Meadow) (at_ rank : Nat) (op : LateOp) (own : Nat := 0) : Meadow :=
  { m with late := lateInsert m.late ⟨at_, rank, op, own⟩ }

/-- The bank of a scratchpad address (R176). -/
def bankOf (a : Nat) : Nat := a % 2 ^ 20 / 2 ^ 16

/-- The banks, and the bytes of each, that a change takes of their write ports. -/
def LateOp.ports : LateOp → List (Nat × Nat)
  | .spad a len _ _ =>
    let n := min len (2 ^ 16 - a % 2 ^ 16)
    (bankOf a, n) :: if n < len then [(bankOf (a + n), len - n)] else []
  | _ => []

/-- What the write ports of a cycle have given: bank, the access that holds the port, bytes. -/
abbrev PortUse := List (Nat × (Nat × Nat) × Nat)

-- DEDUCED, unsafe: log entry 87.
/-- A change passes the write port of each of its banks: the port is free, or this access holds it and 512 bytes are enough. The stream
engine is one agent, whose contexts share what it holds. -/
def PortUse.take (us : PortUse) (l : Late) : Option PortUse :=
  let who := (l.rank, if l.rank = 3 then 0 else l.own)
  l.op.ports.foldl (fun us p => us.bind fun us =>
    match us.find? fun u => u.1 == p.1 with
    | none => some ((p.1, who, p.2) :: us)
    | some u => if u.2.1 = who ∧ u.2.2 + p.2 ≤ 512 then some ((p.1, who, u.2.2 + p.2) :: us) else none) (some us)

-- DEDUCED, unsafe: log entry 87.
/-- The changes of a cycle that pass their ports, and those that wait one cycle. -/
def portSplit : PortUse → List Late → List Late × List Late
  | _, [] => ([], [])
  | us, l :: t => match us.take l with
    | some us' => let r := portSplit us' t; (l :: r.1, r.2)
    | none => let r := portSplit us t; (r.1, { l with at_ := l.at_ + 1 } :: r.2)

/-- Put a change before those of the same cycle and rank. -/
def lateBefore : List Late → Late → List Late
  | [], l => [l]
  | h :: t, l => if l.at_ < h.at_ ∨ (l.at_ = h.at_ ∧ l.rank ≤ h.rank) then l :: h :: t else h :: lateBefore t l

-- DEDUCED, unsafe: log entry 25.
/-- Make every change of the cycles before g; a scratchpad write whose bank's write port is taken waits (R176). -/
def Meadow.applyLate (m : Meadow) (g : Nat) : Meadow :=
  let r := portSplit [] (m.late.filter fun l => l.at_ < g)
  r.1.foldl (fun m l => m.apply l.at_ l.op) { m with late := r.2.foldr (fun l t => lateBefore t l) (m.late.filter fun l => g ≤ l.at_) }

/-- The rank of a stream's scratchpad write in a cycle; the stream engine is 3 (R176). -/
def StreamId.rank : StreamId → Nat | .s => 0 | .v => 1 | .m => 2

-- DEDUCED, unsafe: log entry 25.
/-- A write reaches the buffers of its bytes in this cycle (R183). -/
def Meadow.bufWritten (m : Meadow) (g a len : Nat) : Meadow :=
  (m.bufsOf a len).foldl (fun m t => m.addLate g BufEv.write.rank (.buf t.2.1 .write)) m

/-- A scratchpad write of a cycle, with the buffers it fills (R176, R183). -/
def Meadow.spadStore (m : Meadow) (at_ rank a len : Nat) (d : Row) (mask : Pred) (own : Nat := 0) : Meadow :=
  (m.addLate at_ rank (.spad a len d mask) own).bufWritten at_ a len

/-- The same for a store that is judged in cycle g and writes its bytes in the next (R199, R200). -/
def Meadow.spadStoreNext (m : Meadow) (g rank a len : Nat) (d : Row) (mask : Pred) (own : Nat := 0) : Meadow :=
  (m.addLate (g + 1) rank (.spad a len d mask) own).bufWritten g a len

end Sys2Proof.Machine
end

