-- ==== Sys2Proof/Machine/Num.lean ====
section
/-! DEFINITION. Numbers (04_numbers.md): formats, exact values, rounding, special values, conversions, block packing and the
stochastic generator. -/
namespace Sys2Proof.Machine

/-! ## Exact values -/

/-- ±(mag + θ) × 2^exp, where θ is 0, or lies strictly between 0 and 1 when `sticky`. -/
structure Ex where
  neg : Bool
  mag : Nat
  exp : Int
  sticky : Bool := false
  deriving DecidableEq, Repr

/-- What an encoding denotes, or an operation gives before rounding: a NaN with its origin code, an infinity, a real. -/
inductive Val
  | nan (code : Nat)
  | inf (neg : Bool)
  | fin (x : Ex)
  deriving DecidableEq, Repr

def Ex.zero (neg : Bool) : Ex := ⟨neg, 0, 0, false⟩
def Ex.isZero (x : Ex) : Bool := x.mag == 0 && !x.sticky
def Ex.ofInt (i : Int) : Ex := ⟨decide (i < 0), i.natAbs, 0, false⟩
/-- The signed significand. -/
def Ex.sig (x : Ex) : Int := if x.neg then -(x.mag : Int) else x.mag
/-- The significand scaled to a lower exponent. -/
def Ex.sigAt (x : Ex) (e : Int) : Int := x.sig * 2 ^ (x.exp - e).toNat
/-- Exact comparison of values without a sticky part. -/
def Ex.lt (x y : Ex) : Bool := let e := min x.exp y.exp; decide (x.sigAt e < y.sigAt e)
def Ex.eq (x y : Ex) : Bool := let e := min x.exp y.exp; x.sigAt e == y.sigAt e
def Ex.abs (x : Ex) : Ex := { x with neg := false }
-- DEDUCED, unsafe: log entry 63.
def Ex.negate (x : Ex) : Ex := { x with neg := !x.neg }
def Ex.scale (x : Ex) (k : Int) : Ex := { x with exp := x.exp + k }

/-- Exact product; its sign is the exclusive OR (R78). -/
def Ex.mul (x y : Ex) : Ex := ⟨xor x.neg y.neg, x.mag * y.mag, x.exp + y.exp, false⟩

/-- Exact sum, with the sign of a zero by R78. -/
def Ex.add (rm : Round) (x y : Ex) : Ex :=
  let e := min x.exp y.exp
  let m := x.sigAt e + y.sigAt e
  if m = 0 then Ex.zero (if x.neg = y.neg then x.neg else rm == .rd) else ⟨decide (m < 0), m.natAbs, e, false⟩

/-- Exact quotient to 128 bits and a sticky part; y is not 0. -/
def Ex.div (x y : Ex) : Ex :=
  let k := 128 + y.mag.log2
  let n := x.mag * 2 ^ k
  ⟨xor x.neg y.neg, n / y.mag, x.exp - y.exp - k, n % y.mag != 0⟩

/-! ## Rounding (R54, R77, R78) -/

/-- Round the magnitude n + (r + θ) / 2^d of a value of sign `neg` away from zero. -/
def roundAway (rm : Round) (neg : Bool) (n r d : Nat) (sticky : Bool) (coin : Nat) : Bool :=
  let inexact := r != 0 || sticky
  match rm with
  | .rne => decide (2 ^ d < 2 * r) || (2 * r == 2 ^ d && (sticky || n % 2 == 1))
  | .rz => false
  | .rd => neg && inexact
  | .ru => !neg && inexact
  | .sr =>
    if !inexact then false
    else if !neg then decide (coin < r * 2 ^ 24 / 2 ^ d)
    else !decide (coin < (2 ^ d - r - (if sticky then 1 else 0)) * 2 ^ 24 / 2 ^ d)

/-- A magnitude rounded to a multiple of 2^q, in units of 2^q. -/
def Ex.roundAt (rm : Round) (coin : Nat) (q : Int) (x : Ex) : Nat :=
  if q ≤ x.exp then x.mag * 2 ^ (x.exp - q).toNat
  else
    let d := (q - x.exp).toNat
    let n := x.mag / 2 ^ d
    if roundAway rm x.neg n (x.mag % 2 ^ d) d x.sticky coin then n + 1 else n

/-- round to an integer. -/
def Ex.toInt (rm : Round) (coin : Nat) (x : Ex) : Int :=
  let n := x.roundAt rm coin 0
  if x.neg then -(n : Int) else n

/-! ## Formats (R70-R72) -/

/-- How a format ends: infinities and coded NaNs, E5M2's uncoded ones, E4M3's two NaNs, none, or E3M5's one NaN. -/
inductive FmtEnd | ieee | e5m2 | e4m3 | none | e3m5
  deriving DecidableEq, Repr

structure Fmt where
  eb : Nat
  fw : Nat
  bias : Int
  ends : FmtEnd
  deriving DecidableEq, Repr

def fp32 : Fmt := ⟨8, 23, 127, .ieee⟩
def bf16 : Fmt := ⟨8, 7, 127, .ieee⟩
def fp16 : Fmt := ⟨5, 10, 15, .ieee⟩
def fmtE4M3 : Fmt := ⟨4, 3, 7, .e4m3⟩
def fmtE5M2 : Fmt := ⟨5, 2, 15, .e5m2⟩
def e2m1 : Fmt := ⟨2, 1, 1, .none⟩
def e3m5 : Fmt := ⟨3, 5, 3, .e3m5⟩

def Fmt.hasInf (f : Fmt) : Bool := f.ends == .ieee || f.ends == .e5m2
def Fmt.signBit (f : Fmt) (neg : Bool) : Nat := if neg && f.ends != .e3m5 then 2 ^ (f.eb + f.fw) else 0
/-- Greatest exponent field of a finite value, and the largest finite magnitude's encoding. -/
def Fmt.maxEnc (f : Fmt) : Nat :=
  match f.ends with
  | .ieee | .e5m2 => (2 ^ f.eb - 1) * 2 ^ f.fw - 1
  | .e4m3 | .e3m5 => 2 ^ (f.eb + f.fw) - 2
  | .none => 2 ^ (f.eb + f.fw) - 1
/-- nan(F, c), or the one NaN of a format without codes (R83, R85). -/
def Fmt.nan (f : Fmt) (c : Nat) : Nat :=
  match f.ends with
  | .ieee => (2 ^ f.eb - 1) * 2 ^ f.fw + 2 ^ (f.fw - 1) + c % 8 * 2 ^ (f.fw - 4)
  | .e5m2 => 0x7E
  | .e4m3 => 0x7F
  | .none => 0
  | .e3m5 => 0xFF
/-- The encoding of an infinity; a format without one saturates. -/
def Fmt.infEnc (f : Fmt) (neg : Bool) : Nat := f.signBit neg + if f.hasInf then (2 ^ f.eb - 1) * 2 ^ f.fw else f.maxEnc

/-- The finite magnitude of an exponent and a fraction field (R71). -/
def Fmt.magnitude (f : Fmt) (m : Nat) : Ex :=
  let e := m / 2 ^ f.fw
  let fr := m % 2 ^ f.fw
  if e = 0 then ⟨false, fr, 1 - f.bias - f.fw, false⟩ else ⟨false, 2 ^ f.fw + fr, e - f.bias - f.fw, false⟩

/-- value(x, F), with a NaN's code read by R84. -/
def Fmt.value (f : Fmt) (x : Nat) : Val :=
  let m := x % 2 ^ (f.eb + f.fw)
  let neg := f.ends != .e3m5 && x / 2 ^ (f.eb + f.fw) % 2 == 1
  let e := m / 2 ^ f.fw
  let fr := m % 2 ^ f.fw
  match f.ends with
  | .ieee =>
    if e = 2 ^ f.eb - 1 then
      if fr = 0 then .inf neg else let c := fr / 2 ^ (f.fw - 4) % 8; .nan (if c = 0 then 3 else c)
    else .fin { f.magnitude m with neg := neg }
  | .e5m2 => if e = 31 then (if fr = 0 then .inf neg else .nan 3) else .fin { f.magnitude m with neg := neg }
  | .e4m3 | .e3m5 => if m = 2 ^ (f.eb + f.fw) - 1 then .nan 3 else .fin { f.magnitude m with neg := neg }
  | .none => .fin { f.magnitude m with neg := neg }

/-- round(x, F, mode) of a real. -/
def Fmt.roundEx (f : Fmt) (rm : Round) (coin : Nat) (x : Ex) : Nat :=
  if x.mag = 0 then f.signBit x.neg
  else
    let top := f.magnitude f.maxEnc
    let k : Int := x.mag.log2 + x.exp
    let emin : Int := 1 - f.bias
    let emax : Int := top.mag.log2 + top.exp
    if f.hasInf && decide (emax < k) then
      match rm with
      | .rz => f.signBit x.neg + f.maxEnc
      | .rd => if x.neg then f.infEnc true else f.maxEnc
      | .ru => if x.neg then f.signBit true + f.maxEnc else f.infEnc false
      | .rne | .sr => f.infEnc x.neg
    else if !f.hasInf && top.lt x.abs then f.signBit x.neg + f.maxEnc
    else
      let q := max k emin - f.fw
      let n := x.roundAt rm coin q
      if n < 2 ^ f.fw then f.signBit x.neg + n
      else f.signBit x.neg + ((q + f.fw + f.bias).toNat * 2 ^ f.fw + (n - 2 ^ f.fw))

/-- round of an exact result, with the special values of R83-R87. -/
def Fmt.round (f : Fmt) (rm : Round) (coin : Nat) : Val → Nat
  | .nan c => f.nan c
  | .inf neg => f.infEnc neg
  | .fin x => f.roundEx rm coin x

/-- The format of a type of class F or E; FP32 for the others, which do not use it. -/
def tyFmt : ElemType → Fmt
  | .bf16 => bf16
  | .f16 => fp16
  | .e4m3 => fmtE4M3
  | .e5m2 => fmtE5M2
  | _ => fp32

/-! ## Operations with special values (R84, R119) -/

def Val.code? : Val → Option Nat | .nan c => some c | _ => none
/-- The code of a result that is NaN because an input is (R84). -/
def nanOf (vs : List Val) : Option Nat :=
  let cs := vs.filterMap Val.code?
  if cs.contains 5 then some 5 else cs.head?

def Val.add (rm : Round) (a b : Val) : Val :=
  match nanOf [a, b] with
  | some c => .nan c
  | none => match a, b with
    | .inf s, .inf t => if s = t then .inf s else .nan 1
    | .inf s, _ => .inf s
    | _, .inf t => .inf t
    | .fin x, .fin y => .fin (x.add rm y)
    | _, _ => .nan 3

def Val.negate : Val → Val
  | .nan c => .nan c
  | .inf s => .inf (!s)
  | .fin x => .fin x.negate
def Val.abs : Val → Val
  | .nan c => .nan c
  | .inf _ => .inf false
  | .fin x => .fin x.abs

def Val.mul (a b : Val) : Val :=
  match nanOf [a, b] with
  | some c => .nan c
  | none => match a, b with
    | .inf s, .inf t => .inf (xor s t)
    | .inf s, .fin y => if y.isZero then .nan 2 else .inf (xor s y.neg)
    | .fin x, .inf t => if x.isZero then .nan 2 else .inf (xor x.neg t)
    | .fin x, .fin y => .fin (x.mul y)
    | _, _ => .nan 3

def Val.fma (rm : Round) (a b c : Val) : Val :=
  match nanOf [a, b, c] with
  | some k => .nan k
  | none => match a.mul b with
    | .nan k => .nan k
    | p => p.add rm c

/-- Order of non-NaN values, with −0 below +0 when `zeros`. -/
def Val.lt (zeros : Bool) (a b : Val) : Bool :=
  match a, b with
  | .inf s, .inf t => s && !t
  | .inf s, _ => s
  | _, .inf t => !t
  | .fin x, .fin y => x.lt y || (zeros && x.mag == 0 && y.mag == 0 && x.neg && !y.neg)
  | _, _ => false
def Val.eqv (a b : Val) : Bool :=
  match a, b with
  | .inf s, .inf t => s == t
  | .fin x, .fin y => x.eq y
  | _, _ => false

/-- min and max of two encodings (R119): equal operands return the first. -/
def Fmt.minmax (f : Fmt) (mx : Bool) (a b : Nat) : Nat :=
  let x := f.value a
  let y := f.value b
  match nanOf [x, y] with
  | some c => f.nan c
  | none => if mx then (if Val.lt true x y then b else a) else (if Val.lt true y x then b else a)

/-! ## Functions (R120) -/

/-- The greatest r with r² ≤ n, for n below 4^bits. -/
def isqrt (n : Nat) : Nat → Nat → Nat
  | 0, r => r
  | b + 1, r => let r' := r + 2 ^ b; isqrt n b (if r' * r' ≤ n then r' else r)
def isqrtN (n : Nat) : Nat := isqrt n (n.log2 / 2 + 1) 0

/-- Fixed point with 256 fraction bits. -/
abbrev fixBits : Nat := 256

/-- z + z³/3 + z⁵/5 + … in fixed point, for z up to 1/3. -/
def atanhFix (z : Nat) : Nat :=
  let z2 := z * z / 2 ^ fixBits
  ((List.range 90).foldl (fun a k => (a.1 + a.2 / (2 * k + 1), a.2 * z2 / 2 ^ fixBits)) (0, z)).1
/-- ln 2 in fixed point: 2 artanh(1/3). -/
def ln2Fix : Nat := 2 * atanhFix (2 ^ fixBits / 3)
-- DEDUCED, unsafe: log entry 47.
/-- log2 of a significand m with 2^k ≤ m < 2^(k+1), less k, in fixed point. -/
def log2Fix (m k : Nat) : Nat :=
  let p := 2 ^ k
  2 * atanhFix ((m - p) * 2 ^ fixBits / (m + p)) * 2 ^ fixBits / ln2Fix
-- DEDUCED, unsafe: log entry 47.
/-- 2^f for a fraction f in fixed point, in fixed point: the exponential series of f ln 2. -/
def exp2Fix (f : Nat) : Nat :=
  let t := f * ln2Fix / 2 ^ fixBits
  ((List.range 80).foldl (fun a k => (a.1 + a.2, a.2 * t / 2 ^ fixBits / (k + 1))) (0, 2 ^ fixBits)).1

-- DEDUCED, unsafe: log entry 47.
/-- Drop 32 guard bits of a fixed-point approximation of an irrational value. -/
def guarded (neg : Bool) (v : Nat) (e : Int) : Ex := ⟨neg, v / 2 ^ 32, e + 32, true⟩

def Ex.exp2 (x : Ex) : Val :=
  if x.mag = 0 then .fin ⟨false, 1, 0, false⟩
  else if 12 ≤ (x.mag.log2 : Int) + x.exp then (if x.neg then .fin ⟨false, 1, -2 ^ 13, false⟩ else .fin ⟨false, 1, 2 ^ 13, false⟩)
  else
    let s := if 0 ≤ x.exp + fixBits then x.sig * 2 ^ (x.exp + fixBits).toNat else (if x.neg then -1 else 1)
    let i := s / (2 ^ fixBits : Nat)
    let f := (s % (2 ^ fixBits : Nat)).toNat
    if f = 0 then .fin ⟨false, 1, i, false⟩ else .fin (guarded false (exp2Fix f) (i - fixBits))

def Ex.log2 (x : Ex) : Val :=
  let k := x.mag.log2
  let e : Int := k + x.exp
  if x.mag = 2 ^ k then .fin (if e = 0 then Ex.zero false else Ex.ofInt e)
  else
    let v : Int := e * (2 ^ fixBits : Nat) + log2Fix x.mag k
    .fin (guarded (decide (v < 0)) v.natAbs (-(fixBits : Int)))

def Ex.one : Ex := ⟨false, 1, 0, false⟩
def Ex.sqrt (x : Ex) : Ex :=
  let odd := x.exp % 2 != 0
  let m := (if odd then 2 * x.mag else x.mag) * 2 ^ 256
  let e := (if odd then x.exp - 1 else x.exp) - 256
  let r := isqrtN m
  ⟨false, r, e / 2, r * r != m⟩
def Ex.rsqrt (x : Ex) : Ex :=
  let odd := x.exp % 2 != 0
  let m := if odd then 2 * x.mag else x.mag
  let e := if odd then x.exp - 1 else x.exp
  let k := 256 + 2 * m.log2
  let r := isqrtN (2 ^ k / m)
  ⟨false, r, -(e / 2) - k / 2, r * r * m != 2 ^ k⟩

/-- The five function forms. -/
inductive Fn | exp2 | log2 | rcp | rsq | sqrt
  deriving DecidableEq, Repr

/-- The table of R120. -/
def Fn.eval (fn : Fn) (a : Val) : Val :=
  match fn, a with
  | _, .nan c => .nan c
  | .exp2, .inf true => .fin (Ex.zero false)
  | .exp2, .inf false => .inf false
  | .exp2, .fin x => x.exp2
  | .log2, .inf true => .nan 4
  | .log2, .inf false => .inf false
  | .log2, .fin x => if x.mag = 0 then .inf true else if x.neg then .nan 4 else x.log2
  | .rcp, .inf s => .fin (Ex.zero s)
  | .rcp, .fin x => if x.mag = 0 then .inf x.neg else .fin (Ex.one.div x)
  | .rsq, .inf true => .nan 4
  | .rsq, .inf false => .fin (Ex.zero false)
  | .rsq, .fin x => if x.mag = 0 then .inf x.neg else if x.neg then .nan 4 else .fin x.rsqrt
  | .sqrt, .inf true => .nan 4
  | .sqrt, .inf false => .inf false
  | .sqrt, .fin x => if x.mag = 0 then .fin (Ex.zero x.neg) else if x.neg then .nan 4 else .fin x.sqrt

/-! ## Integers (R76) -/

/-- A pattern of a type as an integer. -/
def tyInt (t : ElemType) (x : Nat) : Int := if t.signed then sextN x t.width else (x % 2 ^ t.width : Nat)
/-- sat(x, T) as a pattern. -/
def tySat (t : ElemType) (x : Int) : Nat :=
  let lo : Int := if t.signed then -2 ^ (t.width - 1) else 0
  let hi : Int := if t.signed then 2 ^ (t.width - 1) - 1 else 2 ^ t.width - 1
  wrapN (min (max x lo) hi) t.width

/-! ## Conversions (R87-R89) -/

/-- An element's exact value, by its type of class F, E, I or W. -/
def tyVal (t : ElemType) (x : Nat) : Val :=
  match t.cls with
  | .F | .E => (tyFmt t).value x
  | _ => .fin (Ex.ofInt (tyInt t x))

/-- Write an exact value in a type of class F, E, I or W. -/
def tyPut (t : ElemType) (rm : Round) (coin : Nat) (v : Val) : Nat :=
  match t.cls with
  | .F | .E => (tyFmt t).round rm coin v
  | _ => match v with
    | .nan _ => 0
    | .inf neg => tySat t (if neg then -2 ^ 64 else 2 ^ 64)
    | .fin x => tySat t (x.toInt rm coin)

/-- Convert one lane from S to D. -/
def convert (s d : ElemType) (rm : Round) (coin : Nat) (x : Nat) : Nat :=
  if s = d then (match tyVal s x with | .nan c => (tyFmt d).nan c | _ => x) else tyPut d rm coin (tyVal s x)

/-! ## Block formats (R73, R74, R90-R92) -/

/-- E8M0: none for 0xFF. -/
def e8m0 (x : Nat) : Option Int := if x % 256 = 255 then none else some ((x % 256 : Nat) - 127)

/-- A CB4 element under its block scale and band scale (R73). -/
def cb4Val (x s : Nat) (g : Val) : Val :=
  match g with
  | .nan c => .nan c
  | _ =>
    if s % 256 = 255 then .nan 3
    else match e2m1.value x, e3m5.value s, g with
      | .fin a, .fin _, .inf t => if a.mag = 0 then .nan 2 else .inf (xor a.neg t)
      | .fin a, .fin b, .fin c => .fin ((a.mul b).mul c)
      | _, _, _ => .nan 3

def mx4Val (x s : Nat) : Val :=
  match e8m0 s, e2m1.value x with
  | some k, .fin a => .fin (a.scale k)
  | _, _ => .nan 3
def mx8Val (x s : Nat) : Val :=
  match e8m0 s, fmtE4M3.value x with
  | some k, .fin a => .fin (a.scale k)
  | _, _ => .nan 3

/-- The greatest magnitude of a block; none when it holds a NaN or an infinity. -/
def blockMax (vs : List Val) : Option Ex :=
  vs.foldl (fun m v => match m, v with
    | some m, .fin x => some (if m.lt x.abs then x.abs else m)
    | _, _ => none) (some (Ex.zero false))

/-- Elements and scale of an MX block of an element format with top exponent q (R90). -/
def mxPack (elem : Fmt) (q : Int) (rm : Round) (coins : List Nat) (vs : List Val) : List Nat × Nat :=
  match blockMax vs with
  | none => (vs.map fun _ => 0, 255)
  | some m =>
    let e : Int := if m.mag = 0 then -127 else (m.mag.log2 : Int) + m.exp - q
    let e := min (max e (-127)) 127
    ((vs.zip coins).map fun p => match p.1 with
      | .fin x => elem.roundEx rm p.2 (x.scale (-e))
      | _ => 0, (e + 127).toNat)

/-- Elements and scale of a CB4 block under a band scale (R91): the scale is the least E3M5 not below amax / (6 g). -/
def cb4Pack (g : Val) (rm : Round) (coins : List Nat) (vs : List Val) : List Nat × Nat :=
  match g, blockMax vs with
  | .fin gx, some m =>
    if gx.neg ∨ gx.mag = 0 then (vs.map fun _ => 0, 255)
    else
      let six : Ex := gx.mul (Ex.ofInt 6)
      let s := ((List.range 255).find? fun s => !((e3m5.magnitude s).mul six).lt m).getD 254
      let sv := e3m5.magnitude s
      ((vs.zip coins).map fun p => match p.1 with
        | .fin x => if sv.mag = 0 then (if x.neg then 8 else 0) else e2m1.roundEx rm p.2 (x.div (sv.mul gx))
        | _ => 0, s)
  | _, _ => (vs.map fun _ => 0, 255)

/-- The band scale that VSCALE proposes for the finite values of a band (R92). -/
def bandScale (vs : List Val) : Nat :=
  let m := vs.foldl (fun m v => match v with
    | .fin x => if m.lt x.abs then x.abs else m
    | _ => m) (Ex.zero false)
  if m.mag = 0 then 0x3F80 else bf16.roundEx .ru 0 (m.div (Ex.ofInt 186))

/-! ## The stochastic generator (R80) -/

def coinRound (k : W64) (x : W64) : W64 :=
  let y := (x ^^^ k) * 0x9E3779B97F4A7C15#64
  y ^^^ (y >>> 29)
/-- The 24-bit coin of a 32-bit site and a counter value under a seed. -/
def coinOf (k : W64) (site : Nat) (c : W32) : Nat :=
  let x : W64 := BitVec.ofNat 64 (site % 2 ^ 32 * 2 ^ 32) ||| c.setWidth 64
  (coinRound k (coinRound k (coinRound k (coinRound k x)))).toNat / 2 ^ 40
/-- The site of a coin drawn in a meadow. -/
def meadowSite (coord index : Nat) : Nat := coord % 512 * 2 ^ 16 + index % 2 ^ 16

/-! ## Lanes (R39) -/

/-- Lane j of w bits of a row or pair given as a number. -/
def lane (w : Nat) (r j : Nat) : Nat := r / 2 ^ (w * j) % 2 ^ w
/-- Lanes of w bits, lowest first, as a number. -/
def packLanes (w : Nat) : List Nat → Nat
  | [] => 0
  | x :: xs => x % 2 ^ w + 2 ^ w * packLanes w xs
def lanesOf (w n : Nat) (r : Nat) : List Nat :=
  match n with
  | 0 => []
  | n + 1 => r % 2 ^ w :: lanesOf w n (r / 2 ^ w)

end Sys2Proof.Machine
end

