-- ==== Sys2Proof/Machine/Operands.lean ====
section
/-! DEFINITION. Operand forms: the rows, queues, immediates and broadcasts of a V-word's sweep (R33-R36, R112-R114), and the
descriptor pairs of an M-word (R38, R40). -/
namespace Sys2Proof.Machine

/-! ## Rows of a sweep (R34) -/

/-- row_of(f, i). -/
def opRow (o : VOperand) (i : Nat) : Nat :=
  match o with
  | .rows b st _ _ => (sweepRow b st i).toNat
  | .bcast b st _ => (sweepRow b st i).toNat
  | _ => 0

/-- Kinds 00 and 11 name rows. -/
def opIsRow : VOperand → Bool | .rows .. => true | .bcast .. => true | _ => false
/-- The queue of kind 01. -/
def opQueue? : VOperand → Option Nat | .queue q => some q.toNat | _ => none
/-- The raw imm20. -/
def opImmN : VOperand → Nat | .imm v => v.toNat | _ => 0

/-- The rows that some units of an operand touch, in their order. -/
def opRowsOf (o : VOperand) (wide : Bool) (us : List Nat) : List Nat :=
  if opIsRow o then us.flatMap fun i => if wide then [opRow o i, opRow o i + 1] else [opRow o i] else []
/-- The rows that n units of an operand touch, in sweep order. -/
def opRows (o : VOperand) (wide : Bool) (n : Nat) : List Nat := opRowsOf o wide (List.range n)

/-! ## Lanes of an operand (R35, R112, R113) -/

/-- A row or pair as lanes of a type. -/
def rowLanes (t : ElemType) (lo hi : Row) : List Nat :=
  if t.wide then List.zipWith (fun a b => a + 2 ^ 32 * b) (lanesOf 32 128 lo.toNat) (lanesOf 32 128 hi.toNat)
  else lanesOf t.width t.lanes lo.toNat

/-- Lanes as a row or pair. -/
def lanesRow (t : ElemType) (vs : List Nat) : Row × Row :=
  if t.wide then (BitVec.ofNat 4096 (packLanes 32 (vs.map (· % 2 ^ 32))), BitVec.ofNat 4096 (packLanes 32 (vs.map (· / 2 ^ 32))))
  else (BitVec.ofNat 4096 (packLanes t.width vs), 0)

/-- The bytes of a row that active lanes occupy; in a pair each row holds four bytes of a lane. -/
def lanesMask (t : ElemType) (act : List Bool) : Pred :=
  if t.width = 4 then BitVec.ofNat 512 (packLanes 1 (((act.zipIdx.filter fun p => p.2 % 2 = 0)).map fun p => if p.1 then 1 else 0))
  else
    let b := if t.wide then 4 else t.width / 8
    BitVec.ofNat 512 (packLanes b (act.map fun a => if a then 2 ^ b - 1 else 0))

/-- imm20 as a lane (R35). -/
def immLane (t : ElemType) (v : BitVec 20) : Nat :=
  match t with
  | .f32 => v.toNat * 2 ^ 12
  | .bf16 | .f16 | .e4m3 | .e5m2 | .cb4 | .mx4 | .mx8 => v.toNat % 2 ^ t.width
  | _ => tySat t (sextN v.toNat 20)

/-- Negate and absolute value on the sign bit of a lane, negate first (R113). -/
def signMods (t : ElemType) (neg abs : Bool) (x : Nat) : Nat :=
  let sb := 2 ^ (t.width - 1)
  let y := if neg then Nat.xor x sb else x
  if abs then y % sb else y

/-- A lane of a poisoned row, in a type that carries poison (R86). -/
def poisonLane (t : ElemType) : Nat := (tyFmt t).nan 5

/-- What a row read gives: bits, and whether the row's poison bit is set. -/
abbrev RowView := Nat → Row × Bool

/-- The lanes of unit u of an operand. `entry` is the popped entry of a queue. -/
def opLanes (o : VOperand) (t : ElemType) (u : Nat) (view : RowView) (entry : Nat) : List Nat :=
  let ln := t.lanes
  match o with
  | .rows _ _ neg abs =>
    let v := opRow o u
    let ls := if (view v).2 && t.cls == .F then List.replicate ln (poisonLane t) else rowLanes t (view v).1 (if t.wide then (view (v + 1)).1 else 0)
    if neg || abs then ls.map (signMods t neg abs) else ls
  | .queue q => if q.toNat < 4 then List.replicate ln (entry % 2 ^ t.width) else rowLanes t (BitVec.ofNat 4096 entry) 0
  | .imm v => List.replicate ln (immLane t v)
  | .bcast _ _ g =>
    let v := opRow o u
    let ls := if (view v).2 && t.cls == .F then List.replicate ln (poisonLane t) else rowLanes t (view v).1 (if t.wide then (view (v + 1)).1 else 0)
    List.replicate ln ((ls[g.toNat * ln / 16]?).getD 0)

/-! ## Bytes of rows -/

/-- The bits of the bytes that a mask selects. -/
def maskBits (m : Pred) : Row := BitVec.ofNat 4096 (packLanes 8 ((lanesOf 1 512 m.toNat).map fun b => 255 * b))
-- DEDUCED, unsafe: log entry 19.
/-- Bytes of a row replaced where a mask selects. -/
def mergeRow (old new : Row) (m : Pred) : Row :=
  if m = BitVec.allOnes 512 then new else let k := maskBits m; (old &&& ~~~k) ||| (new &&& k)

/-! ## Descriptor pairs (R40) -/

structure SpadDesc where
  base : Nat
  rot : Nat
  tpitch : Nat
  rpitch : Nat
  bad : Bool
  deriving DecidableEq, Repr

def spadDesc (lo hi : W32) : SpadDesc :=
  { base := getField lo 0 20, rot := getField lo 20 4, tpitch := getField hi 16 16, rpitch := getField hi 0 16, bad := getField lo 24 8 != 0 }

/-- An m register as an M-word reads it. -/
def Ctx.mreg (k : Ctx) (j : Nat) : W32 := tgetD k.mregs j 0
def Ctx.setMreg (k : Ctx) (j : Nat) (v : W32) : Ctx := { k with mregs := tputD k.mregs j v 0 }

/-- A V-word has written the bits of a predicate that a mask selects; bit 0 of p15 is also the S-stream's (R27). -/
def Ctx.notePred (k : Ctx) (p : Nat) (mask : Pred) (g : Nat) : Ctx := if p = 15 ∧ mask.getLsbD 0 then { k with p15At := some g } else k

/-! ## Latent errors of rows (R377) -/

/-- The context that holds a tile's grant. -/
def Meadow.holder (m : Meadow) (tile : Nat) : Option Nat := [0, 1, 2, 3].find? fun x => (m.ctx x).tileGranted tile

/-- Reading rows checks their words: a single-bit error is corrected, a double-bit error sets the row's poison bit; both are
logged, and trap where RELMASK asks for it. -/
def State.rowScrub (s : State) (c : Nat) (rows : List Nat) : State :=
  if (s.mdw c).ecc = [] then s else
  rows.foldl (fun s v => (List.range 64).foldl (fun s i =>
    let m := s.mdw c
    match tget m.ecc (64 * v + i) with
    | none => s
    | some e =>
      let cause := if e = 1 then Cause.accCe else Cause.accUe
      let tval : W64 := BitVec.ofNat 64 (v + 1024 * i)
      let who := m.holder (v / 128)
      let s1 := s.modMdw c fun m =>
        let m1 := { m with ecc := tdel m.ecc (64 * v + i) }
        if e = 1 then m1 else m1.setPoison v true
      let s2 := s1.logDie cause v c (who.getD 0)
      match who with
      | some x => if m.relmask.getLsbD (if e = 1 then 2 else 1) then s2.raiseUnbound c x cause tval else s2
      | none => s2) s) s

/-! ## Issue turns (R292, R294) -/

/-- Places of the shared units in Meadow.units. -/
def unitIx : IssueUnit → Nat | .vector => 0 | .array => 1 | .load => 2 | .drain => 3
def Meadow.unit (m : Meadow) (u : IssueUnit) : UnitSt := tgetD m.units (unitIx u) {}
def Meadow.setUnit (m : Meadow) (u : IssueUnit) (v : UnitSt) : Meadow := { m with units := tput m.units (unitIx u) v }

/-- The next context in ascending cyclic order that runs a task. -/
def Meadow.nextTurn (m : Meadow) (x : Nat) : Option Nat :=
  ([1, 2, 3, 4].map fun i => (x + i) % 4).find? fun y => (m.ctx y).task.isSome

/-- A stamped word, or a later step of a word, of a timed region has issued on a unit whose turn another context holds, and the turn stays
there (R142, R294). -/
def Meadow.keepTurn (m : Meadow) (u : IssueUnit) (x : Nat) (busy : Nat) : Meadow :=
  let v := m.unit u
  (m.modCtx x fun k => { k with readyRun := tdel k.readyRun (unitIx u), promoted := tdel k.promoted (unitIx u) }).setUnit u
    { v with busyUntil := busy }

/-- A word of context x has issued on a unit: the unit is busy until an MTC cycle, and the turn stays or passes. -/
def Meadow.takeTurn (m : Meadow) (u : IssueUnit) (x : Nat) (ic : BitVec 2) (busy : Nat) : Meadow :=
  (m.modCtx x fun k => { k with readyRun := tdel k.readyRun (unitIx u), promoted := tdel k.promoted (unitIx u) }).setUnit u { turn := if ic ≠ 1 then some x else if m.timed then m.nextTurn x else none, busyUntil := busy, idle := 0 }

end Sys2Proof.Machine
end

