-- ==== Sys2Proof/Machine/Draw.lean ====
section
/-! DEFINITION. Draw pairs and their merges (R155-R157), weights and temperature (R158), the lane tree (R160), and the
tree over an installed topology table (R165). -/
namespace Sys2Proof.Machine

/-- A draw pair: index and FP32 weight. -/
abbrev DPair := Nat × Nat

/-- Kinds of R155. -/
inductive DKind | invalid | empty | certain | ordinary
  deriving DecidableEq, Repr

def dKind (p : DPair) : DKind :=
  match fp32.value p.2 with
  | .nan _ => .invalid
  | v =>
    if p.1 = 0xFFFFFFFE then .invalid
    else if p.1 = 0xFFFFFFFF then .empty
    else match v with
      | .inf neg => if neg then .empty else .certain
      | .fin x => if x.neg || x.mag == 0 then .empty else .ordinary
      | .nan _ => .invalid

def dInvalid (code : Nat) : DPair := (0xFFFFFFFE, fp32.nan code)
def dEmpty : DPair := (0xFFFFFFFF, 0)

/-- The code of a merge of INVALID operands: R84 over their weights; a weight that is no NaN counts as 011. -/
def dCode (ps : List DPair) : Nat :=
  (nanOf ((ps.filter fun p => dKind p == .invalid).map fun p => match fp32.value p.2 with | .nan c => .nan c | _ => .nan 3)).getD 3

/-- The canonical form of R155. -/
def dCanon (p : DPair) : DPair :=
  match dKind p with
  | .invalid => dInvalid (dCode [p])
  | .empty => dEmpty
  | _ => p

/-- draw_merge (R156); `coin` is the coin of the merge's site and counter value. -/
def drawMerge (coin : Nat → Nat) (site : Nat) (p q : DPair) : DPair :=
  match dKind p, dKind q with
  | .invalid, _ => dInvalid (dCode [p, q])
  | _, .invalid => dInvalid (dCode [p, q])
  | .empty, _ => dCanon q
  | _, .empty => dCanon p
  | .certain, .certain => (min p.1 q.1, fp32.infEnc false)
  | .certain, .ordinary => (p.1, fp32.infEnc false)
  | .ordinary, .certain => (q.1, fp32.infEnc false)
  | .ordinary, .ordinary =>
    match fp32.value p.2, fp32.value q.2 with
    | .fin a, .fin b =>
      let e := a.add .rne b
      let s := fp32.roundEx .rne 0 e
      let sx := match fp32.value s with | .fin x => x | _ => e
      if ((Ex.ofInt (coin site)).mul sx).lt (a.scale 24) then (p.1, s) else (q.1, s)
    | _, _ => dEmpty

/-- A pair as a 64-bit element. -/
def dBits (p : DPair) : Nat := p.1 % 2 ^ 32 + 2 ^ 32 * (p.2 % 2 ^ 32)
def dOf (x : Nat) : DPair := (x % 2 ^ 32, x / 2 ^ 32 % 2 ^ 32)

/-- One level of the lane tree: merge neighbours, the lower lane first, counting nodes from h. -/
def drawLevel (coin : Nat → Nat) : Nat → List DPair → List DPair
  | h, p :: q :: t => drawMerge coin h p q :: drawLevel coin (h + 1) t
  | _, t => t

/-- The pairwise tree of R160 over `lv` levels, nodes numbered from h. -/
def drawTree (coin : Nat → Nat) : Nat → Nat → List DPair → DPair
  | 0, _, ps => (ps.head?).getD dEmpty
  | lv + 1, h, ps => drawTree coin lv (h + ps.length / 2) (drawLevel coin h ps)

/-- DTREE (R165): entries N−1 down to 1 merge into their parents. -/
def drawTopo (coin : Nat → Nat) (parents : List Nat) (ps : List DPair) : DPair :=
  let n := parents.length
  let r := (List.range (n - 1)).foldl (fun (t : List DPair) i =>
    let e := n - 1 - i
    let pa := (parents[e]?).getD 0
    t.set pa (drawMerge coin e ((t[pa]?).getD dEmpty) ((t[e]?).getD dEmpty))) ps
  dCanon ((r.head?).getD dEmpty)

/-! ## Weights (R158) -/

/-- What a draw word classifies once: temperature, reference maximum, and whether some active element is +∞. -/
structure DrawCase where
  temp : Nat
  mhat : Option Ex
  anyInf : Bool
  deriving DecidableEq, Repr

/-- RN32(log2 e). -/
def drawL : Ex := fp32.magnitude 0x3FB8AA3B

/-- T is NaN, or below 0 and not subnormal. -/
def drawBadT (t : Nat) : Bool :=
  match fp32.value t with
  | .nan _ => true
  | .inf neg => neg
  | .fin x => x.neg && decide (2 ^ 23 ≤ t % 2 ^ 31)

/-- The weight of an element that is no NaN. -/
def drawWeight (d : DrawCase) (x : Val) : Nat :=
  let inf := fp32.infEnc false
  match fp32.value d.temp with
  | .inf _ => 0x3F800000
  | .nan _ => 0
  | .fin t =>
    if d.anyInf then (match x with | .inf neg => if neg then 0 else inf | _ => 0)
    else match d.mhat with
      | none => 0
      | some m =>
        let q := if d.temp % 2 ^ 31 < 2 ^ 23 then inf else fp32.roundEx .rne 0 (drawL.div t)
        match x with
        | .fin y =>
          let z := if m.lt y then m else y
          match fp32.value q with
          | .fin r => match fp32.value (fp32.roundEx .rne 0 ((z.add .rne m.negate).mul r)) with
            | .fin a => fp32.round .rne 0 a.exp2
            | .inf neg => if neg then 0 else inf
            | .nan _ => 0
          | _ => if m.eq z then inf else 0
        | _ => 0

/-- The pair of one row: `xs` its lanes with their activity, `bad` whether the row is poisoned, `base` the first index. -/
def drawRow (coin : Nat → Nat) (d : DrawCase) (bad : Bool) (base h : Nat) (xs : List (Val × Bool)) : DPair :=
  if bad && xs.any (·.2) then dInvalid 5
  else if drawBadT d.temp then dInvalid 6
  else if xs.any fun x => x.2 && x.1.code?.isSome then dInvalid 7
  else
    let leaves := xs.zipIdx.map fun p => if p.1.2 then ((base + p.2, drawWeight d p.1.1) : DPair) else dEmpty
    drawTree coin xs.length.log2 h leaves

/-- The greatest finite value among active elements. -/
def drawMax (xs : List (Val × Bool)) : Option Ex :=
  xs.foldl (fun m x => match x with
    | (.fin y, true) => (match m with
      | none => some y
      | some z => if z.lt y then some y else some z)
    | _ => m) none

def drawAnyInf (xs : List (Val × Bool)) : Bool := xs.any fun x => x.2 && x.1 == .inf false

end Sys2Proof.Machine
end

