-- ==== Sys2Proof/Machine/Control.lean ====
section
/-! DEFINITION. Control and status registers (R41, R42, R108). -/
namespace Sys2Proof.Machine

/-- How CSRR and CSRW meet a register number: its Write column of R41, none when it is unallocated. Every allocated
register is read at U. -/
inductive CsrWrite | user | supervisor | never
  deriving DecidableEq, Repr

def csrKind (n : Nat) : Option CsrWrite :=
  if n = 0x000 ∨ n = 0x001 ∨ n = 0x002 ∨ n = 0x003 ∨ n = 0x020 ∨ n = 0x042 then some .supervisor
  else if n = 0x010 ∨ n = 0x011 ∨ n = 0x040 ∨ n = 0x041 then some .user
  else if n = 0x021 ∨ n = 0x022 ∨ n = 0x030 ∨ n = 0x031 ∨ (0x048 ≤ n ∧ n ≤ 0x04F) then some .never
  else none

/-- UISTAT as it reads: NPEND counts the queue (R243). -/
def Ctx.uistatRead (k : Ctx) : W64 := setField k.uistat 4 5 k.notif.length

/-- The lookahead register of a beat port (R307). -/
def Meadow.lookReg (m : Meadow) (p : Nat) : W64 :=
  if 3 ≤ p then 0 else
  let e : Nat := if m.beatEnd then 2 ^ 62 else 0
  match m.beat with
  | none => BitVec.ofNat 64 e
  | some b => match b.ports[p]? with
    | some q => if q.used then BitVec.ofNat 64 (2 ^ 63 + e + q.queue.length % 16 * 2 ^ 40 + q.out % 16 * 2 ^ 36 + q.next % 2 ^ 32) else BitVec.ofNat 64 e
    | none => BitVec.ofNat 64 e

/-- PRIO as it reads: THRESH is the package's (R295). -/
def State.prioRead (s : State) (m : Meadow) : W64 := setField m.prio 8 3 s.thresh

/-- The value of a register in the issue cycle. -/
def State.csrRead (s : State) (c x n : Nat) : W64 :=
  let m := s.mdw c
  let k := m.ctx x
  if n = 0x000 then k.istat else if n = 0x001 then k.tcause else if n = 0x002 then k.tval else if n = 0x003 then k.tpc
  else if n = 0x010 then k.uivec else if n = 0x011 then k.uistatRead else if n = 0x020 then m.ageLimit.setWidth 64
  else if n = 0x021 then s.prioRead m else if n = 0x022 then m.emeter else if n = 0x030 then BitVec.ofNat 64 m.mtc
  else if n = 0x031 then ctxid c x else if n = 0x040 then m.mbpol else if n = 0x041 then m.missCount
  else if n = 0x042 then m.beatLimit.setWidth 64 else m.lookReg (n - 0x048)

/-- CSRR: result cycle issue + 2; an unallocated number raises RES_OPERAND with the bit position 11. -/
def execCsrr (ic : BitVec 2) (rd : BitVec 5) (imm : BitVec 12) (s : State) : Res :=
  match csrKind imm.toNat with
  | none => trapRes s Cause.resOperand (bitTval 11)
  | some _ => sIssue s ic (pairRegs rd) fun k => k.pushD rd.toNat (s.clock + 2) (s.csrRead s.curM s.curX imm.toNat)

/-- CSRW: effective at issue + 1; below the register's level, or with no Write level, it raises PRIV; inside a hasp task
HASP_ILLEGAL (R328). -/
def execCsrw (ic : BitVec 2) (ra : BitVec 5) (imm : BitVec 12) (s : State) : Res :=
  let k := s.ctx s.curM s.curX
  match csrKind imm.toNat with
  | none => trapRes s Cause.resOperand (bitTval 11)
  | some w =>
    if w = .never ∨ (w = .supervisor ∧ k.pl = 0) then trapRes s Cause.priv 0
    else if k.hasp.state = .active then trapRes s Cause.haspIllegal (k.sc.pc.setWidth 64)
    else if s.held (pairRegs ra) then .next s
    else .next ((s.setCore (k.sc.advance ic s.clock)).modMdw s.curM fun m => m.addLate s.gtc 5 (.csr s.curX imm.toNat (k.sc.getD ra.toNat)))

end Sys2Proof.Machine
end

