-- ==== Sys2Proof/Machine/MemWords.lean ====
section
/-! DEFINITION. Scalar loads and stores to memory and scratchpad, on an S-stream and on a heath command processor (R190-R199,
R252), tag-table words (R201) and buffer words (R202). -/
namespace Sys2Proof.Machine

/-! ## Scalar loads to registers -/

/-- Least HCP cycles of a load from a pseudo-channel (R397). -/
def hcpLoadLatency (h pc : Nat) : Nat := if pc = h then 60 else if pc / 64 = h / 64 then 80 else 300

/-- GTC ticks of a number of HCP cycles (R111), rounded up. -/
def hcpTicksOf (n : Nat) : Nat := (n * 7 + 4) / 5

-- DEDUCED, safe: log entry 35.
-- DESIGN CHOICE, unsafe: log entry 95.
/-- A load of an HCP (R252): bits [63:48] of the pair are not looked at; page checks, then the HCP holds until the data arrives. -/
def hLoad (h bytes rd : Nat) (pair : Bool) (ic : BitVec 2) (ra : BitVec 5) (imm : BitVec 12) (s : State) : Res :=
  let t := s.hcp h
  let pa := (t.sc.getD ra.toNat).toNat % 2 ^ 48
  if imm ≠ 0 then .next (s.modHcp h fun t => t.stopWith 1 Cause.resOperand)
  else if s.held (pairRegs ra ++ if pair then [rd, rd + 1] else [rd]) then .next s
  else match t.check pa bytes with
    | .error st => .next (s.modHcp h fun t => t.stopWith st 0)
    | .ok key =>
      let (id, s0) := s.nextSeq
      let (ix, s1) := s0.freshIx
      let lat := hcpTicksOf (hcpLoadLatency h ((placeOf pa).map (·.pc) |>.getD h))
      let l : HLoad := { id := id, rd := rd, pair := pair, bytes := bytes, pa := pa, key := key, at_ := s.gtc + lat + Config.excess ix }
      .next (((s1.setCore (t.sc.advance ic s.clock)).modHcp h fun t => { t with load := some l }).arbHeath id h (t.cols, 2 * t.ns) pa bytes)

/-- A scalar load of n bytes (R196): the window check, a landing entry, and the residency bit at λ. -/
def sLoad (bytes rd : Nat) (pair : Bool) (ic : BitVec 2) (ra : BitVec 5) (imm : BitVec 12) (s : State) : Res :=
  match s.cur with
  | .hcp h => hLoad h bytes rd pair ic ra imm s
  | .device => .next s
  | .stream c x _ =>
    let m := s.mdw c
    let k := m.ctx x
    if s.held (pairRegs ra ++ if pair then [rd, rd + 1] else [rd]) then .next s
    else match s.access m .load [((k.sc.getD ra.toNat).toNat, bytes)] with
      | .trap cause tval => trapRes s cause tval
      | .gone pa => .fault (.unbacked pa)
      | .ok ps =>
        if k.landFree < 1 then trapRes s Cause.landOverflow 0
        else .next ((s.setCore (k.sc.advance ic s.clock)).startLoad c x .s k.sc.pc (m.mtc + imm.toNat) bytes (.scalar rd pair true) ps
          (k.hasp.state == .active) fun e => { e with ord := (k.sc.advance ic m.mtc).nextAt })

def execLdb (ic : BitVec 2) (rd : BitVec 6) (ra : BitVec 5) (imm : BitVec 12) (s : State) : Res := sLoad 1 rd.toNat false ic ra imm s
def execLdh (ic : BitVec 2) (rd : BitVec 6) (ra : BitVec 5) (imm : BitVec 12) (s : State) : Res := sLoad 2 rd.toNat false ic ra imm s
def execLdw (ic : BitVec 2) (rd : BitVec 6) (ra : BitVec 5) (imm : BitVec 12) (s : State) : Res := sLoad 4 rd.toNat false ic ra imm s
def execLdd (ic : BitVec 2) (rd : BitVec 5) (ra : BitVec 5) (imm : BitVec 12) (s : State) : Res := sLoad 8 (2 * rd.toNat) true ic ra imm s

/-! ## Scalar stores -/

-- DEDUCED, safe: log entry 35.
/-- A store of an HCP (R252). -/
def hStore (h bytes : Nat) (v : Nat) (regs : List Nat) (ic : BitVec 2) (ra : BitVec 5) (s : State) : Res :=
  let t := s.hcp h
  let pa := (t.sc.getD ra.toNat).toNat % 2 ^ 48
  if s.held (pairRegs ra ++ regs) then .next s
  else match t.check pa bytes with
    | .error st => .next (s.modHcp h fun t => t.stopWith st 0)
    | .ok key =>
      let (id, s0) := s.nextSeq
      let (ix, s1) := s0.freshIx
      let part : Part := { off := 0, len := bytes, va := pa, pa := pa, key := key, kind := 0, res := true }
      .next (((s1.setCore (t.sc.advance ic s.clock)).modHcp h fun t => { t with stores := t.stores ++
        [{ id := id, stream := .s, parts := [part], data := BitVec.ofNat 4096 v, mask := byteMask bytes, due := s.gtc + Config.storeDelay ix }] }).arbHeath
          id h (t.cols, 2 * t.ns) pa bytes)

/-- A scalar store of n bytes (R196). -/
def sStore (bytes : Nat) (data : SCore → Nat) (regs : List Nat) (ic : BitVec 2) (ra : BitVec 5) (s : State) : Res :=
  match s.cur with
  | .hcp h => hStore h bytes (data (s.hcp h).sc) regs ic ra s
  | .device => .next s
  | .stream c x _ =>
    let m := s.mdw c
    let k := m.ctx x
    if s.held (pairRegs ra ++ regs) then .next s
    else match s.access m .store [((k.sc.getD ra.toNat).toNat, bytes)] with
      | .trap cause tval => trapRes s cause tval
      | .gone pa => .fault (.unbacked pa)
      | .ok ps => .next ((s.setCore (k.sc.advance ic s.clock)).startStore c x .s ps (BitVec.ofNat 4096 (data k.sc)) (byteMask bytes)
          (k.hasp.state == .active))

def execStb (ic : BitVec 2) (rd : BitVec 6) (ra : BitVec 5) (s : State) : Res := sStore 1 (fun k => (k.get rd.toNat).toNat) [rd.toNat] ic ra s
def execSth (ic : BitVec 2) (rd : BitVec 6) (ra : BitVec 5) (s : State) : Res := sStore 2 (fun k => (k.get rd.toNat).toNat) [rd.toNat] ic ra s
def execStw (ic : BitVec 2) (rd : BitVec 6) (ra : BitVec 5) (s : State) : Res := sStore 4 (fun k => (k.get rd.toNat).toNat) [rd.toNat] ic ra s
def execStd (ic : BitVec 2) (rd ra : BitVec 5) (s : State) : Res := sStore 8 (fun k => (k.getD rd.toNat).toNat) (pairRegs rd) ic ra s

/-! ## Scratchpad words (R199) -/

/-- The checks of a scratchpad word access, in the order of R193. -/
def Meadow.spadCheck (m : Meadow) (u : BufUse) (a align len : Nat) : Option (Nat × W64) :=
  if a % align ≠ 0 then some (Cause.memAlign, BitVec.ofNat 64 a) else (m.bufFault u a len).map fun v => (Cause.bufState, v)

/-- Reading scratchpad words checks them: a single-bit error is corrected, a double-bit error marks its word bad, and both are
logged; the reading context, if one reads, traps where RELMASK asks for it (R378). -/
def State.scrubWords (s : State) (c : Nat) (x : Option Nat) (words : List Nat) : State :=
  let badRead (s : State) (w : Nat) : State :=
    let s1 := s.logDie Cause.spadUe (8 * w) c (x.getD 0)
    match x with
    | some x => if (s.mdw c).relmask.getLsbD 5 then s1.raiseUnbound c x Cause.spadUe (BitVec.ofNat 64 (8 * w)) else s1
    | none => s1
  words.foldl (fun s w =>
    let m := s.mdw c
    match tget m.ecc (65536 + w) with
    | some 1 => (s.modMdw c fun m => { m with ecc := tdel m.ecc (65536 + w) }).logDie Cause.spadCe (8 * w) c (x.getD 0)
    | some _ => badRead (s.modMdw c fun m => { m with ecc := tdel m.ecc (65536 + w), badWords := sortedInsert m.badWords w }) w
    | none => if m.badWords.contains w then badRead s w else s) s

/-- A context reads bytes of the scratchpad. -/
def State.spadScrub (s : State) (c x a len : Nat) : State :=
  let m := s.mdw c
  if m.ecc = [] ∧ m.badWords = [] then s
  else s.scrubWords c (some x) ((List.range ((a % 8 + len + 7) / 8)).map fun i => (a / 8 + i) % 2 ^ 17)

def execLds (ic : BitVec 2) (rd ra : BitVec 6) (imm : BitVec 12) (s : State) : Res :=
  let c := s.curM
  let x := s.curX
  let k := s.ctx c x
  let a := (k.sc.get ra.toNat).toNat % 2 ^ 20
  if s.held [rd.toNat, ra.toNat] then .next s
  else match (s.mdw c).spadCheck .read a 4 4 with
    | some (cause, tval) => trapRes s cause tval
    | none =>
      if k.landFree < 1 then trapRes s Cause.landOverflow 0
      else
        let t := (s.mdw c).mtc
        .next ((s.setCore (k.sc.advance ic s.clock)).startSpadLoad c x .s k.sc.pc (t + imm.toNat) 4 (.scalar rd.toNat false false) a
          fun e => { e with ord := (k.sc.advance ic t).nextAt })

/-- STS writes in cycle issue + 1. -/
def execSts (ic : BitVec 2) (rd ra : BitVec 6) (s : State) : Res :=
  let c := s.curM
  let k := s.core
  let a := (k.get ra.toNat).toNat % 2 ^ 20
  if s.held [rd.toNat, ra.toNat] then .next s
  else match (s.mdw c).spadCheck .write a 4 4 with
    | some (cause, tval) => trapRes s cause tval
    | none => .next ((s.setCore (k.advance ic s.clock)).modMdw c fun m => m.spadStoreNext s.gtc 0 a 4 ((k.get rd.toNat).setWidth 4096) 15#512 s.curX)

/-! ## The tag table (R180, R201) -/

/-- The lowest valid slot whose VTAG is bits [41:12] of an address. -/
def tagLook (t : Tab W64) (va : W64) : W32 :=
  match (List.range 256).find? fun i => (tgetD t i 0).getLsbD 63 && (tgetD t i 0).extractLsb' 12 30 == va.extractLsb' 12 30 with
  | some i => BitVec.ofNat 32 i
  | none => BitVec.allOnes 32

/-- The fields of a tag-table entry that hold a value (R180). -/
def tagMask : W64 := 0xC0FF03FFFFFFF000#64

/-- TLOOK: result cycle issue + 2. -/
def execTlook (ic : BitVec 2) (rd : BitVec 6) (ra : BitVec 5) (s : State) : Res :=
  sIssue s ic (rd.toNat :: pairRegs ra) fun k => k.push rd.toNat (s.clock + 2) (tagLook (s.mdw s.curM).tags (s.core.getD ra.toNat))

def execTset (ic : BitVec 2) (ra : BitVec 5) (rb : BitVec 6) (s : State) : Res :=
  let k := s.core
  if s.held (rb.toNat :: pairRegs ra) then .next s
  else if 256 ≤ (k.get rb.toNat).toNat then trapRes s Cause.resOperand (bitTval 11)
  else .next ((s.setCore (k.advance ic s.clock)).modMdw s.curM fun m =>
    m.addLate s.gtc 5 (.tag (k.get rb.toNat).toNat (k.getD ra.toNat &&& tagMask)))

def execTinv (ic : BitVec 2) (ra : BitVec 6) (s : State) : Res :=
  let k := s.core
  if s.held [ra.toNat] then .next s
  else if 256 ≤ (k.get ra.toNat).toNat then trapRes s Cause.resOperand (bitTval 17)
  else .next ((s.setCore (k.advance ic s.clock)).modMdw s.curM fun m => m.addLate s.gtc 5 (.tagInv (k.get ra.toNat).toNat))

/-! ## Buffers (R202) -/

/-- A declaration word that BDECL refuses. -/
def Meadow.declBad (m : Meadow) (w : W32) : Bool :=
  let id := getField w 24 5
  let first := getField w 0 8
  let last := first + getField w 8 8
  let old := tget m.bufs id
  let busy := match old with | some b => b.state != .empty | none => false
  getField w 29 2 != 0 ||
  (if w.getLsbD 31 then old.isNone || busy
   else decide (255 < last) || busy || m.bufs.any fun b => b.1 != id && decide (b.2.first ≤ last) && decide (first < b.2.first + b.2.count))

def execBdecl (ic : BitVec 2) (ra : BitVec 6) (s : State) : Res :=
  let k := s.core
  let w := k.get ra.toNat
  if s.held [ra.toNat] then .next s
  else if (s.mdw s.curM).declBad w then trapRes s Cause.bufDecl (w.setWidth 64)
  else .next ((s.setCore (k.advance ic s.clock)).modMdw s.curM fun m => m.addLate s.gtc 16 (.bdecl w))

def execBstateFull (ic : BitVec 2) (ra : BitVec 6) (s : State) : Res :=
  let k := s.core
  let b := getField (k.get ra.toNat) 0 5
  if s.held [ra.toNat] then .next s
  else match tget (s.mdw s.curM).bufs b with
    | none => trapRes s Cause.bufDecl (BitVec.ofNat 64 b)
    | some _ => .next ((s.setCore (k.advance ic s.clock)).modMdw s.curM fun m => m.addLate s.gtc BufEv.full.rank (.buf b .full))

/-- A drain event on a consume-once buffer, or on one that is not FULL, raises BUF_STATE (R184). -/
def execBstateDrain (ic : BitVec 2) (ra : BitVec 6) (s : State) : Res :=
  let k := s.core
  let b := getField (k.get ra.toNat) 0 5
  if s.held [ra.toNat] then .next s
  else match tget (s.mdw s.curM).bufs b with
    | none => trapRes s Cause.bufDecl (BitVec.ofNat 64 b)
    | some u =>
      if u.once ∨ u.state ≠ .full then trapRes s Cause.bufState (bufTval (4096 * u.first) b u)
      else .next ((s.setCore (k.advance ic s.clock)).modMdw s.curM fun m => m.addLate s.gtc BufEv.drain.rank (.buf b .drain))

-- DESIGN CHOICE, unsafe: log entry 88.
/-- BQUERY: state, reader count, consume-once, declared; result cycle issue + 1. -/
def execBquery (ic : BitVec 2) (rd ra : BitVec 6) (s : State) : Res :=
  let k := s.core
  let b := getField (k.get ra.toNat) 0 5
  if s.held [rd.toNat, ra.toNat] then .next s
  else match tget (s.mdw s.curM).bufs b with
    | none => trapRes s Cause.bufDecl (BitVec.ofNat 64 b)
    | some u => .next (s.setCore ((k.advance ic s.clock).push rd.toNat (s.clock + 1)
        (BitVec.ofNat 32 (u.state.code + u.nread % 256 * 256 + (if u.once then 2 ^ 16 else 0) + 2 ^ 31))))

end Sys2Proof.Machine
end

