-- ==== Sys2Proof/Machine/MatOps.lean ====
section
/-! DEFINITION. Tile operands and tile steps (R134-R140): row addresses, formats and scales, the fetch of one row, and the
result of a step; conversions of MLDB and MSTA (R148, R149); TOPB fields of a walk (R152). -/
namespace Sys2Proof.Machine

/-! ## Addresses (R138, R146, R177) -/

/-- The address of a row: base and pitch modulo 2^20, with bank rotation. -/
def spadRowAddr (base pitch rot r : Nat) : Nat :=
  let x := (base + r * pitch) % 2 ^ 20
  x % 2 ^ 16 + 2 ^ 16 * ((x / 2 ^ 16 + r * rot) % 16)

/-- A descriptor that a word may not use (R40, R138). -/
def descBad (lo hi : W32) : Bool :=
  let d := spadDesc lo hi
  d.bad || d.base % 256 != 0 || d.tpitch % 256 != 0 || d.rpitch % 256 != 0

/-- Format, scale offset and band code of the bank of an address (R177). -/
def sbfOf (sbf : Tab W32) (a : Nat) : W32 := tgetD sbf (a / 2 ^ 16 % 16) 0
def sbfFmt (w : W32) : ElemType := ElemType.ofCode (w.extractLsb' 0 4)
def sbfSoff (w : W32) : Nat := getField w 16 8
def sbfBand (w : W32) : Nat := getField w 12 3

/-- Block-scale bytes of a row; elements of a block; bytes of a block. -/
def scaleBytes : ElemType → Nat | .cb4 => 64 | .mx4 => 16 | .mx8 => 8 | _ => 0
def blockBytes : ElemType → Nat | .cb4 => 4 | .mx4 => 16 | _ => 32
/-- Where the block scales of an element row lie, and its band scale. -/
def scaleAddr (w : W32) (t : ElemType) (a : Nat) : Nat :=
  a / 2 ^ 16 * 2 ^ 16 + (sbfSoff w * 256 + scaleBytes t * (a / 256 % 256)) % 2 ^ 16
def bandAddr (w : W32) (a : Nat) : Nat := a / 2 ^ 16 * 2 ^ 16 + (0xFE00 + 2 * (a / 256 % 256 / 2 ^ sbfBand w)) % 2 ^ 16

/-- A row at an address conflicts with a format (R138, R177). -/
def rowConflict (sbf : Tab W32) (t : ElemType) (a : Nat) : Bool :=
  let w := sbfOf sbf a
  let n := scaleBytes t
  sbfFmt w != t || (t.cls == .B &&
    (decide (sbfSoff w ≤ a / 256 % 256) || decide (0xFE00 < sbfSoff w * 256 + n * sbfSoff w) || (t == .cb4 && sbfBand w != 6)))

/-! ## One row of an operand (R137-R139, R178, R378) -/

/-- The bytes of an element row that a bad element byte, a bad scale byte or a bad band scale spoils. -/
def Meadow.rowBad (m : Meadow) (w : W32) (t : ElemType) (a : Nat) : BitVec 256 :=
  if m.badWords = [] then 0 else
  let own := m.spadBadMask a 256
  let n := scaleBytes t
  let sc := m.spadBadMask (scaleAddr w t a) n
  let fromScale := (List.range n).foldl (fun x j => if sc / 2 ^ j % 2 = 1 then Nat.lor x ((2 ^ blockBytes t - 1) * 2 ^ (blockBytes t * j)) else x) 0
  let band := t == .cb4 && m.spadBadMask (bandAddr w a) 2 != 0
  BitVec.ofNat 256 (if band then 2 ^ 256 - 1 else Nat.lor own fromScale)

-- DESIGN CHOICE, unsafe: log entry 9.
def Meadow.breg (m : Meadow) (n : Nat) : BReg := tgetD m.bregs n {}

/-- The address of the first word of some ranges that is bad or has a double-bit error. -/
def Meadow.badWordIn (m : Meadow) (rs : List (Nat × Nat)) : Option Nat :=
  if m.badWords = [] ∧ m.ecc = [] then none else
  (rs.flatMap fun r => (List.range ((r.1 % 8 + r.2 + 7) / 8)).map fun i => (r.1 / 8 + i) % 2 ^ 17).findSome? fun w =>
    if m.badWords.contains w || tgetD m.ecc (65536 + w) 0 == 2 then some (8 * w) else none

/-- The ranges of scratchpad that fetching a row reads. -/
def TileOperand.ranges (o : TileOperand) (sbf : Tab W32) (r : Nat) : List (Nat × Nat) :=
  match (o.addrs[r]?).getD none with
  | none => []
  | some a =>
    let w := sbfOf sbf a
    [(a, 256)] ++ (if o.fmt.cls == .B then [(scaleAddr w o.fmt a, scaleBytes o.fmt)] else []) ++ (if o.fmt = .cb4 then [(bandAddr w a, 2)] else [])

/-- Fetch row r of an operand: its next row. -/
def TileOperand.fetch (o : TileOperand) (m : Meadow) (sbf : Tab W32) (r : Nat) : TileOperand :=
  let add (row : BRow) (sc : BitVec 512) (band : BitVec 16) (bad : BitVec 256) : TileOperand :=
    { o with rows := o.rows ++ [row], scales := o.scales ++ [sc], bands := o.bands ++ [band], bad := o.bad ++ [bad], badAt := o.badAt.or (m.badWordIn (o.ranges sbf r)) }
  match o.reg with
  | some n =>
    let b := m.breg n
    add (tgetD b.rows r 0) (tgetD b.scales r 0) (tgetD b.bands r 0) 0
  | none =>
    match (o.addrs[r]?).getD none with
    | none => add 0 0 0x3F80 0
    | some a =>
      let w := sbfOf sbf a
      add (BitVec.ofNat 2048 (spadRead m.spad a 256)) (BitVec.ofNat 512 (spadRead m.spad (scaleAddr w o.fmt a) (scaleBytes o.fmt)))
        (if o.fmt = .cb4 then BitVec.ofNat 16 (spadRead m.spad (bandAddr w a) 2) else 0) (m.rowBad w o.fmt a)

/-- The exact values of a row's elements (R73, R74, R137). -/
def rowVals (t : ElemType) (row : BRow) (sc : BitVec 512) (band : BitVec 16) (bad : BitVec 256) : List Val :=
  let w := t.width
  let sb := lanesOf 8 64 sc.toNat
  let g := bf16.value band.toNat
  (lanesOf w (2048 / w) row.toNat).zipIdx.map fun p =>
    if bad.getLsbD (p.2 * w / 8) then .nan 5
    else match t with
      | .cb4 => cb4Val p.1 ((sb[p.2 / 8]?).getD 0) g
      | .mx4 => mx4Val p.1 ((sb[p.2 / 32]?).getD 0)
      | .mx8 => mx8Val p.1 ((sb[p.2 / 32]?).getD 0)
      | _ => tyVal t p.1

def TileOperand.vals (o : TileOperand) (r : Nat) : List Val :=
  rowVals o.fmt ((o.rows[r]?).getD 0) ((o.scales[r]?).getD 0) ((o.bands[r]?).getD 0) ((o.bad[r]?).getD 0)
/-- The elements of an integer row. -/
def TileOperand.ints (o : TileOperand) (r : Nat) : List Int :=
  (lanesOf o.fmt.width (2048 / o.fmt.width) ((o.rows[r]?).getD 0).toNat).map (tyInt o.fmt)
def TileOperand.rowIsBad (o : TileOperand) (r : Nat) : Bool := (o.bad[r]?).getD 0 != 0

/-! ## The result of a step (R135, R136) -/

/-- The exact sum of finite products, signed by R78 when it is zero. -/
def exSum (rm : Round) (xs : List Ex) : Ex :=
  let e : Int := xs.foldl (fun a x => min a x.exp) 0
  let m : Int := xs.foldl (fun a x => a + x.sigAt e) 0
  if m ≠ 0 then ⟨decide (m < 0), m.natAbs, e, false⟩
  else if xs.all (fun x => x.mag == 0) && (xs.all (·.neg) || xs.all (fun x => !x.neg)) then Ex.zero (xs.any (·.neg))
  else Ex.zero (rm == .rd)

/-- The group sum of R136 as a value. -/
def groupVal (rm : Round) (as_ bs : List Val) : Val :=
  let ps := as_.zip bs
  match nanOf (ps.flatMap fun p => [p.1, p.2]) with
  | some c => .nan c
  | none =>
    let vs := ps.map fun p => p.1.mul p.2
    if vs.any (fun v => v.code?.isSome) then .nan 2
    else if vs.contains (.inf false) && vs.contains (.inf true) then .nan 1
    else if vs.contains (.inf false) then .inf false
    else if vs.contains (.inf true) then .inf true
    else .fin (exSum rm (vs.filterMap fun v => match v with | .fin x => some x | _ => none))

/-- Element (a, b) of a float step: `acc` is none for an overwrite; coin e is the coin of event e. -/
def floatElem (rm : Round) (coin : Nat → Nat) (acc : Option Nat) (as_ bs : List Val) : Nat :=
  let g := as_.length / 4
  let r := (List.range 4).foldl (fun (acc : Option Nat) i =>
    let gs := fp32.round rm (if rm == .sr then coin (2 * i) else 0) (groupVal rm ((as_.drop (g * i)).take g) ((bs.drop (g * i)).take g))
    match acc with
    | none => some gs
    | some x => some (fp32.round rm (if rm == .sr then coin (2 * i + 1) else 0) (Val.add rm (fp32.value gs) (fp32.value x)))) acc
  r.getD 0

/-- Element (a, b) of an integer step. -/
def intElem (acc : Option Int) (as_ bs : List Int) : Int :=
  let g := as_.length / 4
  let r := (List.range 4).foldl (fun (acc : Option Int) i =>
    let s := (List.zipWith (· * ·) ((as_.drop (g * i)).take g) ((bs.drop (g * i)).take g)).foldl (· + ·) 0
    some (tyInt .i32 (tySat .i32 (acc.getD 0 + s)))) acc
  r.getD 0

def TileStep.float (t : TileStep) : Bool := t.a.fmt.stepClass != some .i8

/-- The coin of event e of element (a, b). -/
def TileStep.coin (t : TileStep) (coord a b e : Nat) : Nat := coinOf t.k (meadowSite coord (128 * a + b)) (t.c0 + BitVec.ofNat 32 e)

/-- One result row applied to a row of lanes, none for an overwrite. -/
def TileStep.row (t : TileStep) (coord a : Nat) (old : Option (List Nat)) : List Nat :=
  if t.float then
    let va := t.a.vals a
    (List.range 128).map fun b => floatElem t.rm (t.coin coord a b) (old.map fun o => (o[b]?).getD 0) va (t.b.vals b)
  else
    let va := t.a.ints a
    (List.range 128).map fun b => wrapN (intElem (old.map fun o => tyInt .i32 ((o[b]?).getD 0)) va (t.b.ints b)) 32

/-- The destination row of result row a; none when a scatter entry discards it. -/
def TileStep.dest (t : TileStep) (a : Nat) : Option Nat :=
  if t.scatter = [] then some a else
  let d := (t.scatter[a]?).getD 0xFFFF
  if d < 128 then some d else none

/-- The old lanes of a row that a step accumulates into. -/
def TileStep.oldLanes (t : TileStep) (m : Meadow) (d : Nat) : List Nat :=
  let v := 128 * t.tile + d
  if m.poisoned v && t.float then List.replicate 128 (fp32.nan 5) else lanesOf 32 128 (m.row v).toNat

/-- The step writes its whole result (R135, R136, R146, R378). -/
def Meadow.stepWrite (m0 : Meadow) (coord : Nat) (t : TileStep) : Meadow :=
  let badB := (List.range 128).any t.b.rowIsBad
  ((List.range 128).foldl (fun (r : Meadow × List Nat) a =>
    match t.dest a with
    | none => r
    | some d =>
      let v := 128 * t.tile + d
      let first := !r.2.contains d
      let ow := first && t.overwrite
      let pois := m0.poisoned v
      let old := if ow then none else some (if first then t.oldLanes m0 d else lanesOf 32 128 (r.1.row v).toNat)
      let spoil := !t.float && (badB || t.a.rowIsBad a)
      let zero := spoil || (!t.float && !ow && r.1.poisoned v)
      let lanes := if zero then List.replicate 128 0 else t.row coord a old
      let m1 := r.1.putRow v (BitVec.ofNat 4096 (packLanes 32 lanes)) (BitVec.allOnes 512)
      let m2 := if spoil then m1.setPoison v true else if ow && pois then m1.setPoison v false else m1
      (m2, d :: r.2)) (m0, [])).1

/-! ## Conversions of tiles (R148, R149) -/

/-- Lanes of a tile's rows. -/
def tileElem : TileType → Option ElemType | .f32 => some .f32 | .i32 => some .i32 | .f16 => some .f16 | .bf16 => some .bf16 | .i64 => none
def TileType.code : TileType → Nat | .f32 => 0 | .i32 => 1 | .f16 => 2 | .bf16 => 3 | .i64 => 4
def Meadow.tileTy (m : Meadow) (k : Nat) : TileType := tgetD m.tileType k .f32

/-- MLDB's accumulator form: which formats a tile type admits (R148). -/
def ldbOk (t : TileType) (f : ElemType) : Bool :=
  match t with
  | .f32 | .f16 | .bf16 => f.cls == .E || f == .bf16 || f == .f16
  | .i32 => f == .i8 || f == .n8
  | .i64 => false
/-- Rows read. -/
def ldbRows (t : ElemType) (f : ElemType) : Nat := 64 * t.width / f.width

/-- Lanes of an accumulator row; a poisoned one reads as NaN with code 101. -/
def accLanes (t : ElemType) (r : Row × Bool) : List Nat := if r.2 && t.cls == .F then List.replicate t.lanes (poisonLane t) else rowLanes t r.1 0

-- DEDUCED, unsafe: log entry 37.
/-- The 128 rows of bN from accumulator rows. -/
def ldbConvert (t f : ElemType) (rm : Round) (rows : List (Row × Bool)) : List BRow :=
  let xs := (rows.flatMap (accLanes t)).map (convert t f rm 0)
  (chunk' (2048 / f.width) 128 xs).map fun c => BitVec.ofNat 2048 (packLanes f.width c)
where
  chunk' (k : Nat) : Nat → List Nat → List (List Nat)
    | 0, _ => []
    | n + 1, xs => xs.take k :: chunk' k n (xs.drop k)

-- DEDUCED, unsafe: log entry 37.
/-- A row that MLDB copies into bN: a bad element of FP32, BF16 or FP16 becomes NaN with code 101; the other formats cannot carry it
(R86, R378, R380). -/
def ldbSpoil (t : ElemType) (row : BRow) (bad : BitVec 256) : BRow :=
  if bad = 0 ∨ t.cls ≠ .F then row else
  BitVec.ofNat 2048 (packLanes t.width ((lanesOf t.width (2048 / t.width) row.toNat).zipIdx.map fun p =>
    if bad.getLsbD (p.2 * t.width / 8) then (tyFmt t).nan 5 else p.1))

-- DEDUCED, unsafe: log entry 37.
/-- A drained row: element bytes, and block scales (R149). -/
def staConvert (t d : ElemType) (rm : Round) (g : Nat) (r : Row × Bool) : Nat × List Nat :=
  let xs := accLanes t r
  match d with
  | .cb4 | .mx4 | .mx8 =>
    let vs := xs.map (tyFmt t).value
    let n := if d = .cb4 then 8 else 32
    let bs := (List.range (vs.length / n)).map fun i =>
      let b := (vs.drop (n * i)).take n
      let cs := b.map fun _ => 0
      match d with
      | .cb4 => cb4Pack (bf16.value g) rm cs b
      | .mx4 => mxPack e2m1 2 rm cs b
      | _ => mxPack fmtE4M3 8 rm cs b
    (packLanes d.width (bs.flatMap (·.1)), bs.map (·.2))
  | _ => (packLanes d.width (if r.2 && d.cls == .F then List.replicate t.lanes (poisonLane d) else xs.map (convert t d rm 0)), [])

-- DEDUCED, unsafe: log entry 63.
/-- Some lane is a NaN with code 101 that a format cannot carry (R86). -/
def rowNaN5 (t d : ElemType) (r : Row × Bool) : Bool :=
  d.cls != .F && ((r.2) || (t.cls == .F && (rowLanes t r.1 0).any fun x => (tyFmt t).value x == .nan 5))

/-! ## Walks (R152) -/

def topbWord (b : List W32) (off : Nat) : W32 := (b[off / 4]?).getD 0
def topbLoops (b : List W32) : Nat := getField (topbWord b 0) 0 4
def topbCount (b : List W32) (l : Nat) : Nat := getField (topbWord b (0x20 + 16 * l)) 0 16
def topbK (b : List W32) (l : Nat) : Bool := (topbWord b (0x20 + 16 * l)).getLsbD 16
def topbTotal (b : List W32) : Nat := (List.range (topbLoops b)).foldl (fun a l => a * topbCount b l) 1
def topbFa (b : List W32) : ElemType := ElemType.ofCode ((topbWord b 0).extractLsb' 4 4)
def topbFb (b : List W32) : ElemType := ElemType.ofCode ((topbWord b 0).extractLsb' 8 4)

/-- The index vector of step t, loop 0 outermost. -/
def topbIndex (b : List W32) (t : Nat) : List Nat :=
  let n := topbLoops b
  (List.range n).map fun l =>
    t / ((List.range (n - 1 - l)).foldl (fun a j => a * topbCount b (l + 1 + j)) 1) % max 1 (topbCount b l)

/-- Σ i_l × a signed step at an offset of each loop's record. -/
def topbSum (b : List W32) (idx : List Nat) (off : Nat) : Int :=
  idx.zipIdx.foldl (fun a p => a + (p.1 : Int) * (topbWord b (0x20 + 16 * p.2 + off)).toInt) 0

-- DEDUCED, unsafe: log entry 38.
/-- The errors of R152: cause and bit position. -/
def topbErrors (b : List W32) : List (Nat × Nat) :=
  let w0 := topbWord b 0
  let bad (c : Bool) (cause bit : Nat) : List (Nat × Nat) := if c then [(cause, bit)] else []
  let n := topbLoops b
  bad (w0.extractLsb' 21 11 != 0) Cause.resOperand 31 ++ bad (5 ≤ getField w0 16 3) Cause.resRound 18 ++ bad (w0.getLsbD 15) Cause.resOperand 15 ++
  (match (topbFa b).stepClass, (topbFb b).stepClass with
   | none, _ => [(Cause.resEtype, 7)]
   | some _, none => [(Cause.resEtype, 11)]
   | some x, some y => bad (x != y) Cause.resEtype 11) ++
  bad (n == 0 || 6 < n) Cause.resOperand 3 ++
  [4, 8].flatMap (fun o => bad ((topbWord b o).extractLsb' 24 8 != 0) Cause.resOperand (8 * o + 31) ++
    bad ((topbWord b o).extractLsb' 0 8 != 0) Cause.resOperand (8 * o + 19)) ++
  bad ((topbWord b 12).extractLsb' 16 8 != 0) Cause.resOperand (8 * 12 + 31) ++ bad ((topbWord b 12).extractLsb' 0 8 != 0) Cause.resOperand (8 * 12 + 15) ++
  [16, 20, 24, 28].flatMap (fun o => bad (topbWord b o != 0) Cause.resOperand (8 * o + 31)) ++
  (List.range 6).flatMap fun l =>
    let o := 0x20 + 16 * l
    if l < n then
      bad ((topbWord b o).extractLsb' 17 15 != 0) Cause.resOperand (8 * o + 31) ++ bad (topbCount b l == 0) Cause.resOperand (8 * o + 15) ++
      bad ((topbWord b (o + 12)).extractLsb' 3 29 != 0) Cause.resOperand (8 * (o + 12) + 31)
    else [0, 4, 8, 12].flatMap fun j => bad (topbWord b (o + j) != 0) Cause.resOperand (8 * (o + j) + 31)

-- DEDUCED, unsafe: log entry 38.
/-- The error reported: the lowest cause, then the lowest offset. -/
def topbWorst (b : List W32) : Option (Nat × Nat) :=
  (topbErrors b).foldl (fun a e => match a with
    | none => some e
    | some f => if e.1 < f.1 then some e else some f) none

end Sys2Proof.Machine
end

