-- ==== Sys2Proof/Machine/VecOps.lean ====
section
/-! DEFINITION. The V-word frame (R112-R116): what a word reads, writes, pops and pushes, its timing, and the lane functions
of 06_vector_isa.md. -/
namespace Sys2Proof.Machine

/-! ## Forms -/

/-- The shapes of V-words, by opcode. -/
inductive VForm
  | arith | cmp | sel | cvt | pack | scale | logic | move | iota | reduce | plog | ld | st | lds | sts | draw | dmrg | dtree | nop | mark | exit
  deriving DecidableEq, Repr

def vForm (op : Nat) (t : ElemType) : VForm :=
  if op = 0x01 then .nop else if op = 0xF0 then .mark else if op = 0xFF then .exit
  else if op < 0x20 then .arith else if op < 0x28 then .cmp else if op = 0x28 then .sel
  else if op = 0x29 then (if t.cls == .B then .pack else .cvt) else if op = 0x2A then .scale
  else if op < 0x40 then .logic else if op = 0x42 then .iota else if op < 0x50 then .move
  else if op < 0x60 then .reduce else if op < 0x70 then .plog
  else if op = 0x70 then .ld else if op = 0x71 then .st else if op = 0x72 then .lds else if op = 0x73 then .sts
  else if op = 0x80 then .draw else if op = 0x81 then .dmrg else .dtree

def VForm.bare : VForm → Bool | .nop | .mark | .exit => true | _ => false

/-- Two operand sources of the destination's type. -/
def vBinary (op : Nat) : Bool :=
  (0x10 ≤ op && op ≤ 0x15) || (0x20 ≤ op && op ≤ 0x28) || (0x30 ≤ op && op ≤ 0x36 && op != 0x33) || op == 0x39 || op == 0x40 || op == 0x81

/-- The type of source 1 (R124, R125). -/
def vSrcType (op : Nat) (w : VWord) : ElemType :=
  if op = 0x29 then (if w.et.cls == .B then .f32 else ElemType.ofCode (BitVec.ofNat 4 (opImmN w.src2))) else w.et

/-- The type of the destination rows: pairs for draw words. -/
def vDstType (op : Nat) (w : VWord) : ElemType := if op = 0x80 then .n64 else w.et

def vSteps (w : VWord) : Nat := rowCount w.n

/-- Units of source 1 used by the steps 0 to i − 1 (R124). -/
def vUnits (op : Nat) (w : VWord) (i : Nat) : Nat :=
  if op = 0x29 then (i * w.et.lanes + (vSrcType op w).lanes - 1) / (vSrcType op w).lanes else i

/-- A destination that keeps the old value of inactive lanes (R114). -/
def vKeeps (op : Nat) (w : VWord) : Bool :=
  (match vForm op w.et with
   | .arith | .cvt | .logic | .iota | .dmrg | .lds => true
   | .move => op != 0x44
   | .reduce => 0x53 ≤ op
   | _ => false) && (w.pred != 0 || w.sense)

/-- Rows read over the sweep, in sweep order operand by operand (R34). -/
def vReads (op : Nat) (w : VWord) : List Nat :=
  let n := vSteps w
  match vForm op w.et with
  | .nop | .mark | .exit | .plog | .iota | .ld | .lds => if vKeeps op w then opRows w.dst w.et.wide n else []
  | .draw => opRows w.src1 false n ++ opRows w.src2 false 1
  | f =>
    opRows w.src1 (vSrcType op w).wide (vUnits op w n) ++
    (if vBinary op then opRows w.src2 w.et.wide n else []) ++
    (if op = 0x13 || (f != .cmp && vKeeps op w) then opRows w.dst w.et.wide n else [])

/-- Rows written over the sweep. -/
def vWrites (op : Nat) (w : VWord) : List Nat :=
  let n := vSteps w
  match vForm op w.et with
  | .nop | .mark | .exit | .plog | .cmp | .st | .sts => []
  | .scale => opRows w.dst false 1
  | .pack => opRows w.dst true n
  | _ => opRows w.dst (vDstType op w).wide n

/-- Predicates read: the guard, and the sources of a logic word. -/
def vPredReads (op : Nat) (w : VWord) : List Nat :=
  let n := vSteps w
  match vForm op w.et with
  | .nop | .mark | .exit | .ld => []
  | .plog => w.pred.toNat :: (opRows w.src1 false n ++ if op = 0x63 then [] else opRows w.src2 false n)
  | _ => [w.pred.toNat]

/-- Predicates written by sweep steps. -/
def vPredWrites (op : Nat) (w : VWord) : List Nat :=
  match vForm op w.et with
  | .cmp | .plog => opRows w.dst false (vSteps w)
  | _ => []

/-- Entries popped by source 1 and by source 2, and pushed (R115): queue and count. -/
def vPops (op : Nat) (w : VWord) : List (Nat × Nat) :=
  if (vForm op w.et).bare then [] else
  ((opQueue? w.src1).map fun q => (q, vUnits op w (vSteps w))).toList ++ ((opQueue? w.src2).map fun q => (q, vSteps w)).toList
def vPushes (op : Nat) (w : VWord) : List (Nat × Nat) :=
  if (vForm op w.et).bare then [] else
  ((opQueue? w.dst).map fun q => (q, if op = 0x2A then 1 else vSteps w)).toList

def countOf (l : List (Nat × Nat)) (q : Nat) : Nat := l.foldl (fun a e => if e.1 = q then a + e.2 else a) 0

/-! ## Timing (R116, R161, R162, R165) -/

/-- The 512-byte rows in `u` units of an operand: a pair counts as two, an entry of q4-q7 as one, an entry of q0-q3 and an
immediate as none. -/
def opRowCount (o : VOperand) (wide : Bool) (u : Nat) : Nat :=
  match o with
  | .rows .. | .bcast .. => if wide then 2 * u else u
  | .queue q => if q.toNat < 4 then 0 else u
  | .imm _ => 0

/-- c: the greatest of the rows one step reads from one operand, the rows it writes, and 1. -/
def vStepRows (op : Nat) (w : VWord) : Nat :=
  let wr := opRowCount w.dst w.et.wide 1
  let other := max (if vBinary op then opRowCount w.src2 w.et.wide 1 else 0) wr
  match vForm op w.et with
  | .pack => if w.et.lanes = 1024 then 8 else 4
  | .cvt => max 1 (max (opRowCount w.src1 (vSrcType op w).wide (max 1 (w.et.lanes / (vSrcType op w).lanes))) wr)
  | .draw | .dmrg | .dtree => 2
  | .nop | .mark | .exit | .plog => 1
  | .ld | .st | .lds | .sts => 1
  | .cmp => max 1 (max (opRowCount w.src1 w.et.wide 1) (opRowCount w.src2 w.et.wide 1))
  | _ => max 1 (max (opRowCount w.src1 w.et.wide 1) other)

/-- lat, such that step i's result cycle is t + c·i + c − 1 + lat. `p` is VDRAW's first pass and `topo` DTREE's entries. -/
def vLat (op : Nat) (w : VWord) (p topo : Nat) : Nat :=
  match vForm op w.et with
  | .sel | .move | .iota | .plog => 2
  | .cmp => 3
  | .cvt | .pack | .scale => 5
  | .arith => if op = 0x12 ∨ op = 0x13 then 5 else if 0x18 ≤ op then 12 else 3
  | .logic => if op ≤ 0x33 then 2 else if op = 0x39 then 5 else 3
  | .reduce => 14
  | .ld | .lds => opImmN w.src2 % 4096
  | .draw => p + 24
  | .dmrg => 16
  | .dtree => 8 + topo
  | .st | .sts | .nop | .mark | .exit => 0

/-- The word takes coins and advances the counter (R81, R157). -/
def vRounds (op : Nat) (w : VWord) : Bool :=
  match vForm op w.et with
  | .draw | .dmrg | .dtree => true
  | .arith => w.rm == .sr && op != 0x14 && op != 0x15 && (w.et.cls == .F || w.et.cls == .E)
  | .cvt | .pack =>
    let int (t : ElemType) : Bool := t.cls == .I || t.cls == .W
    w.rm == .sr && !(int w.et && int (vSrcType op w))
  | _ => false

/-! ## Lane functions -/

/-- VADD to VSQRT (R118-R121): source lanes a and b, addend c. -/
def vArith (op : Nat) (t : ElemType) (rm : Round) (coin a b c : Nat) : Nat :=
  match t.cls with
  | .F | .E =>
    let f := tyFmt t
    let x := f.value a
    let y := f.value b
    if op = 0x14 ∨ op = 0x15 then f.minmax (op == 0x15) a b
    else
      let v : Val := match op with
        | 0x10 => x.add rm y
        | 0x11 => x.add rm y.negate
        | 0x12 => x.mul y
        | 0x13 => x.fma rm y (f.value c)
        | 0x16 => x.abs
        | 0x17 => x.negate
        | 0x18 => Fn.exp2.eval x
        | 0x19 => Fn.log2.eval x
        | 0x1A => Fn.rcp.eval x
        | 0x1B => Fn.rsq.eval x
        | _ => Fn.sqrt.eval x
      f.round rm coin v
  | _ =>
    let x := tyInt t a
    let y := tyInt t b
    tySat t (match op with
      | 0x10 => x + y
      | 0x11 => x - y
      | 0x12 => x * y
      | 0x13 => x * y + tyInt t c
      | 0x14 => min x y
      | 0x15 => max x y
      | 0x16 => (x.natAbs : Int)
      | _ => -x)

/-- VCMP (R122): the condition of an opcode on two lanes. -/
def vCompare (op : Nat) (t : ElemType) (a b : Nat) : Bool :=
  let (nan, lt, eq) := match t.cls with
    | .F | .E =>
      let x := (tyFmt t).value a
      let y := (tyFmt t).value b
      ((nanOf [x, y]).isSome, Val.lt false x y, x.eqv y)
    | _ => (false, decide (tyInt t a < tyInt t b), tyInt t a == tyInt t b)
  match op with
  | 0x20 => !nan && eq
  | 0x21 => nan || !eq
  | 0x22 => !nan && lt
  | 0x23 => !nan && (lt || eq)
  | 0x24 => !nan && !lt && !eq
  | 0x25 => !nan && !lt
  | _ => nan

/-- 1 bits of a pattern. -/
def popCount : Nat → Nat → Nat
  | 0, _ => 0
  | k + 1, x => x % 2 + popCount k (x / 2)

/-- Integer and logic forms (R127). -/
def vLogic (op : Nat) (t : ElemType) (a b : Nat) : Nat :=
  let w := t.width
  match op with
  | 0x30 => a &&& b
  | 0x31 => a ||| b
  | 0x32 => a ^^^ b
  | 0x33 => 2 ^ w - 1 - a
  | 0x34 => tySat t (tyInt t a * 2 ^ min b w)
  | 0x35 => if w ≤ b then 0 else a / 2 ^ b
  | 0x36 => if t.signed then wrapN (tyInt t a / 2 ^ min b w) w else if w ≤ b then 0 else a / 2 ^ b
  | 0x37 => popCount w a
  | 0x38 => if a = 0 then w else w - 1 - a.log2
  | _ => wrapN (tyInt t a * tyInt t b / 2 ^ w) w

/-- Lane movement (R128): the lanes of a step. `b` are source 2's lanes, `k` its raw immediate. -/
def vMove (op : Nat) (t : ElemType) (act : List Bool) (a b : List Nat) (k : Nat) : List Nat :=
  let n := t.lanes
  let at_ (j : Nat) : Nat := (a[j]?).getD 0
  match op with
  | 0x40 => b.zipIdx.map fun p => at_ (if t.width = 8 then 256 * (p.2 / 256) + p.1 else p.1 % 2 ^ 32 % n)
  | 0x41 => List.replicate n (at_ k)
  | 0x43 => (List.range n).map fun j => at_ ((j + k) % n)
  | 0x44 =>
    let xs := ((a.zip act).filter (·.2)).map (·.1)
    xs ++ List.replicate (n - xs.length) 0
  | _ => a

/-- The operation of a reduction or a scan on two lanes (R129, R130). -/
def vNode (op : Nat) (t : ElemType) (rm : Round) (x y : Nat) : Nat :=
  vArith (if op = 0x50 ∨ op = 0x53 then 0x10 else if op = 0x52 then 0x14 else 0x15) t rm 0 x y 0

def vNodeOpt (op : Nat) (t : ElemType) (rm : Round) : Option Nat → Option Nat → Option Nat
  | none, y => y
  | some x, none => some x
  | some x, some y => some (vNode op t rm x y)

/-- One level of the pairwise tree. -/
def pairUp {α : Type} (f : α → α → α) : List α → List α
  | x :: y :: t => f x y :: pairUp f t
  | t => t
def pairTree {α : Type} (f : α → α → α) (d : α) : Nat → List α → α
  | 0, xs => (xs.head?).getD d
  | lv + 1, xs => pairTree f d lv (pairUp f xs)

/-- The identity of a reduction (R129). -/
def vIdentity (op : Nat) (t : ElemType) : Nat :=
  if op = 0x50 then 0
  else match t.cls with
    | .F | .E => (tyFmt t).infEnc (op == 0x51)
    | _ => tySat t (if op = 0x51 then -2 ^ 64 else 2 ^ 64)

def vReduce (op : Nat) (t : ElemType) (rm : Round) (act : List Bool) (a : List Nat) : List Nat :=
  let xs := List.zipWith (fun on x => if on then some x else none) act a
  let r := (pairTree (vNodeOpt op t rm) none t.lanes.log2 xs).getD (vIdentity op t)
  r :: List.replicate (t.lanes - 1) 0

/-- The running values of a scan; inactive lanes carry 0, which the frame replaces. -/
def vScan (op : Nat) (t : ElemType) (rm : Round) : Option Nat → List (Bool × Nat) → List Nat
  | _, [] => []
  | run, (on, x) :: rest =>
    if on then
      let y := match run with | none => x | some r => vNode op t rm r x
      y :: vScan op t rm (some y) rest
    else 0 :: vScan op t rm run rest

/-- Blocks of k elements. -/
def chunk {α : Type} (k : Nat) : Nat → List α → List (List α)
  | 0, _ => []
  | n + 1, xs => if xs.isEmpty then [] else xs.take k :: chunk k n (xs.drop k)

/-- VCVT into a block format (R125): element row and scale row of one step. -/
def vPack (t : ElemType) (g : Nat) (rm : Round) (coin : Nat → Nat) (xs : List Nat) : Row × Row :=
  let k := if t = .cb4 then 8 else 32
  let coins := (List.range xs.length).map fun j => if rm == .sr then coin j else 0
  let blocks := (chunk k 1024 xs).zip (chunk k 1024 coins)
  let done := blocks.map fun b =>
    let vs := b.1.map fp32.value
    match t with
    | .cb4 => cb4Pack (bf16.value g) rm b.2 vs
    | .mx4 => mxPack e2m1 2 rm b.2 vs
    | _ => mxPack fmtE4M3 8 rm b.2 vs
  (BitVec.ofNat 4096 (packLanes t.width (done.flatMap (·.1))), BitVec.ofNat 4096 (packLanes 8 (done.map (·.2))))

/-- Active lanes of a step (R36). -/
def vActive (p : Pred) (sense : Bool) (n : Nat) : List Bool := (List.range n).map fun j => predBit p sense n j

/-- Booleans as predicate bits. -/
def boolBits (bs : List Bool) : Pred := BitVec.ofNat 512 (packLanes 1 (bs.map fun b => if b then 1 else 0))

end Sys2Proof.Machine
end

