-- ==== Sys2Proof/Machine/Vector.lean ====
section
/-! DEFINITION. V-words (06_vector_isa.md, 08_draws.md, R197-R200): waits and checks at issue, sweep steps, and step results. -/
namespace Sys2Proof.Machine

/-! ## A sweep in flight (R116) -/

/-- Opcode and fields of a flight's word. -/
def VFlight.word (f : VFlight) : Nat × VWord :=
  match vParts f.ins with
  | some (op, w) => (op.toNat, w)
  | none => (0x01, { ic := 0, et := .f32, pred := 0, sense := false, rm := .rne, n := 0, dst := .imm 0, src1 := .imm 0, src2 := .imm 0 })

-- DEDUCED, unsafe: log entry 5.
/-- Step i's result cycle, and the cycle in which it reads (R15, R116, R161): GTC cycles, later by what the word's steps have waited. -/
def VFlight.resAt (f : VFlight) (i : Nat) : Nat := f.t0 + f.slip + f.c * i + f.c - 1 + f.lat
-- DEDUCED, unsafe: log entry 5.
def VFlight.readAt (f : VFlight) (i : Nat) : Nat := if f.word.1 = 0x80 then f.resAt i else f.t0 + f.slip + f.c * i
/-- The word's last result cycle. -/
def VFlight.lastAt (f : VFlight) : Nat := f.resAt (f.n - 1)
/-- A V-word whose last result cycle has passed and whose results have all been delivered is over. -/
def VFlight.over (f : VFlight) (g : Nat) : Bool := decide (f.lastAt < g) && decide (f.n ≤ f.step) && f.done == []
-- DEDUCED, unsafe: log entry 18.
/-- A step waits for an entry of its queue, or a result for a slot: the V-stream is blocked (R21). -/
def VFlight.stuck (f : VFlight) (g : Nat) : Bool :=
  (decide (f.step < f.n) && decide (f.readAt f.step < g)) || f.done.any fun r => decide (r.due < g)

/-- Rows a step writes. -/
def vDstRows (op : Nat) (w : VWord) (i : Nat) : List Nat :=
  if !opIsRow w.dst || (vPredWrites op w).length != 0 then [] else
  let r := opRow w.dst i
  if (vDstType op w).wide || vForm op w.et == .pack then [r, r + 1] else [r]

-- DEDUCED, unsafe: log entry 86.
/-- Rows and predicates with a result of this flight outstanding. -/
def VFlight.rowsDue (f : VFlight) : List Nat :=
  let (op, w) := f.word
  match vForm op w.et with
  | .ld | .lds | .st | .sts => []
  | .scale => if f.step < f.n ∨ f.done ≠ [] then vDstRows op w 0 else []
  | _ => (f.done.map (·.step) ++ (List.range (f.n - f.step)).map (f.step + ·)).flatMap (vDstRows op w)
def VFlight.predsDue (f : VFlight) : List Nat :=
  let (op, w) := f.word
  if (vPredWrites op w).isEmpty then [] else
  (f.done.map (·.step) ++ (List.range (f.n - f.step)).map (f.step + ·)).map (opRow w.dst)

-- DEDUCED, unsafe: log entry 86.
/-- Rows and predicates that an earlier V-word of the context has not written yet (R26, R116). -/
def Meadow.vLandRows (m : Meadow) (x : Nat) : List Nat :=
  (m.ctx x).landing.filterMap fun l => match l.dest with | .row v => some v | _ => none
-- DEDUCED, unsafe: log entry 18.
/-- A row has landed for a queue that has no slot for it (R21). -/
def LandEntry.stuckPush (l : LandEntry) (mtc : Nat) : Bool := match l.dest with | .queue _ => l.arrived && decide (l.lam < mtc) | _ => false
def Meadow.vRowsDue (m : Meadow) (x : Nat) : List Nat := (m.flights.filter (·.ctx == x)).flatMap (·.rowsDue) ++ m.vLandRows x
/-- The S-stream's memory scalar loads of earlier cycles that are to write p15 (R96). -/
def Ctx.resBitDue (k : Ctx) (g : Nat) : List Nat :=
  k.landing.filterMap fun l => match l.dest with | .scalar _ _ true => if l.at_ < g then some 15 else none | _ => none
def Meadow.vPredsDue (m : Meadow) (g x : Nat) : List Nat :=
  ((m.flights.filter (·.ctx == x)).flatMap (·.predsDue) ++ ((m.ctx x).landing.filterMap fun l => l.resPred) ++ (m.ctx x).resBitDue g).filter (· != 0)

/-- A row as step reads see it: earlier steps of the word have written (R113). -/
def VFlight.view (f : VFlight) (m : Meadow) : RowView := fun v =>
  let (op, w) := f.word
  match f.done.reverse.find? fun r => !r.pred && (vDstRows op w r.step).contains v with
  | some r => (if (vDstRows op w r.step).head? = some v then r.row else r.hi, m.poisoned v && r.mask != BitVec.allOnes 512)
  | none => (m.row v, m.poisoned v)

/-- A predicate as step reads see it. -/
def VFlight.predView (f : VFlight) (k : Ctx) (p : Nat) : Pred :=
  if p = 0 then k.pred 0 else
  let w := f.word.2
  f.done.foldl (fun v r => if r.pred && opRow w.dst r.step == p then (v &&& ~~~r.mask) ||| (r.row.setWidth 512 &&& r.mask) else v) (k.pred p)

/-! ## Waits (R19, R115, R116, R132, R133) -/

/-- Rows a V-word reads or writes, whose tiles must be granted and full. -/
def vTouched (op : Nat) (w : VWord) : List Nat := if op = 0xF0 then [opRow w.dst 0] else vReads op w ++ vWrites op w

/-- The lowest row in a tile that is not granted (R34, R371). -/
def vUngranted (k : Ctx) (op : Nat) (w : VWord) : Option Nat :=
  (vTouched op w).foldl (fun a v => if k.tileGranted (v / 128) then a else some (match a with | some u => min u v | none => v)) none

-- DEDUCED, unsafe: log entry 18.
def Ctx.qReady (k : Ctx) (g q : Nat) : Nat := if q < 4 then ((k.queue64 q).ready g).length else ((k.queueRow q).ready g).length
def Ctx.qRoom (k : Ctx) (g q : Nat) : Nat := if q < 4 then (k.queue64 q).room g 16 else (k.queueRow q).room g 4

-- DEDUCED, unsafe: log entry 86.
/-- The word is held at issue, the vector unit's own occupancy apart. -/
def State.vHeld (s : State) (c x op : Nat) (w : VWord) : Bool :=
  let m := s.mdw c
  let k := m.ctx x
  let pops := vPops op w
  let pushes := vPushes op w
  (vUngranted k op w).isNone &&
  ((pops.map (·.1) ++ pushes.map (·.1)).any (fun q =>
      decide (k.qReady s.gtc q < countOf pops q) || decide (k.qRoom s.gtc q + countOf pops q < countOf pushes q)) ||
   (vTouched op w).any (fun v => !m.tileIsFull (v / 128)) ||
   (!m.timed && ((vReads op w).any (m.vRowsDue x).contains || (vPredReads op w).any (m.vPredsDue s.gtc x).contains)) ||
   (op == 0xF0 && (m.flights.any (fun f => f.ctx == x && !f.over s.gtc &&
      (vTouched f.word.1 f.word.2).any fun v => v / 128 == opRow w.dst 0 / 128) || (m.vLandRows x).any fun v => v / 128 == opRow w.dst 0 / 128)) ||
   (op == 0xFF && (m.flights.any (fun f => f.ctx == x && !f.over s.gtc) || k.landing.any fun l => l.stream == .v)) ||
   m.flights.any (fun f => f.ctx == x && f.stuck s.gtc) || k.landing.any (fun l => l.stuckPush m.mtc))

/-! ## Checks at issue (R86, R126, R159, R193) -/

/-- The entries that the sweep will pop from a queue field, read in place (R193). -/
def Ctx.qEntries (k : Ctx) (g : Nat) (o : VOperand) : List Nat :=
  match opQueue? o with
  | some q => if q < 4 then ((k.queue64 q).ready g).map (·.val.toNat) else ((k.queueRow q).ready g).map (·.val.toNat)
  | none => []

/-- Entries of source 1 and source 2 when both name one queue: they alternate step by step. -/
def vEntries (k : Ctx) (g op : Nat) (w : VWord) (second : Bool) : List Nat :=
  let o := if second then w.src2 else w.src1
  let es := k.qEntries g o
  if opQueue? w.src1 = opQueue? w.src2 ∧ op ≠ 0x29 then (es.zipIdx.filter fun p => p.2 % 2 = (if second then 1 else 0)).map (·.1) else es

-- DEDUCED, unsafe: log entry 63.
/-- Among some units, the row of the first that holds an active lane with NaN code 101 whose element is converted (R86, R88, R124,
R126). `el` picks the elements. -/
def vNaN5 (op : Nat) (w : VWord) (unit : Nat → List Nat) (act : List Bool) (el : Nat → Bool) (us : List Nat) : Option (Option Nat) :=
  let t := vSrcType op w
  let f := vForm op w.et
  if t.cls == .F && (f == .scale || f == .pack || (f == .cvt && w.et.cls != .F)) then
    us.findSome? fun u =>
      if (unit u).zipIdx.any (fun p => el (u * t.lanes + p.2) && ((act[(u * t.lanes + p.2) % w.et.lanes]?).getD false) && (tyFmt t).value p.1 == .nan 5) then
        some (if opIsRow w.src1 then some (opRow w.src1 u) else none) else none
  else none

/-- The rows that units of source 1, and steps of the other operands, read in a type that cannot carry poison (R86, R112, R198). -/
def vBareRows (op : Nat) (w : VWord) (us is_ : List Nat) : List Nat :=
  if (vForm op w.et).bare || vForm op w.et == .plog then [] else
  (if (vSrcType op w).cls == .F then [] else opRowsOf w.src1 (vSrcType op w).wide us) ++
  (if vBinary op && w.et.cls != .F then opRowsOf w.src2 w.et.wide is_ else []) ++
  (if op = 0x13 && w.et.cls != .F then opRowsOf w.dst w.et.wide is_ else [])

/-- Units of source 1 that step i reads. -/
def vStepUnits (op : Nat) (w : VWord) (i : Nat) : List Nat :=
  if op = 0x29 then (List.range (vUnits op w (i + 1))).filter fun u => decide (i * w.et.lanes / (vSrcType op w).lanes ≤ u) else [i]

/-- The row, first in sweep order, whose poison stops a word at its issue: none without one, no number for a queue entry (R371). -/
def vPoisonAt (m : Meadow) (k : Ctx) (g op : Nat) (w : VWord) : Option (Option Nat) :=
  let us := List.range (vUnits op w (vSteps w))
  let es := vEntries k g op w false
  match ((List.range (vSteps w)).flatMap fun i => vBareRows op w (vStepUnits op w i) [i]).find? m.poisoned with
  | some v => some (some v)
  | none => vNaN5 op w (fun u => opLanes w.src1 (vSrcType op w) u (fun v => (m.row v, m.poisoned v)) ((es[u]?).getD 0))
      (vActive (k.pred w.pred.toNat) w.sense w.et.lanes) (fun e => decide (e < vSteps w * w.et.lanes)) us

/-- Scratchpad addresses of the steps of VLDS and VSTS (R200). -/
def vSpadAddrs (k : Ctx) (g op : Nat) (w : VWord) : List Nat :=
  let o := if op = 0x72 then w.src1 else w.src2
  let es := vEntries k g op w (op == 0x73)
  (List.range (vSteps w)).map fun i => if (opQueue? o).isSome then (es[i]?).getD 0 % 2 ^ 20 else (opImmN o + 512 * i) % 2 ^ 20

/-- Virtual addresses of the steps of VLD and VST (R197, R198). -/
def vMemAddrs (k : Ctx) (g op : Nat) (w : VWord) : List Nat :=
  (vEntries k g op w (op == 0x71)).take (vSteps w)

/-- What VDRAW's source 2 supplies: temperature, maximum, first index (R159). -/
def vDrawArgs (m : Meadow) (w : VWord) : Nat × Option Ex × Nat :=
  match w.src2 with
  | .bcast b _ g =>
    let v := b.toNat
    let ls := if m.poisoned v then List.replicate 128 (fp32.nan 5) else rowLanes .f32 (m.row v) 0
    let at_ (i : Nat) : Nat := (ls[8 * g.toNat + i]?).getD 0
    (at_ 0, (match fp32.value (at_ 1) with | .fin x => some x | _ => none), at_ 2)
  | o => (opImmN o * 2 ^ 12, none, 0)

/-- VDRAW's indexes leave their range (R159); false while source 2 names a row that the context may not read now. -/
def vIndexBad (m : Meadow) (k : Ctx) (w : VWord) : Bool :=
  (!opIsRow w.src2 || (k.tileGranted (opRow w.src2 0 / 128) && m.tileIsFull (opRow w.src2 0 / 128))) &&
  decide (0xFFFFFFFD < (vDrawArgs m w).2.2 + vSteps w * w.et.lanes - 1)

/-- Active lanes of a row of VDRAW as values. -/
def vDrawLanes (w : VWord) (i : Nat) (view : RowView) (p : Pred) : List (Val × Bool) :=
  ((opLanes w.src1 w.et i view 0).map (tyFmt w.et).value).zip (vActive p w.sense w.et.lanes)

inductive VCheck | go | trap (cause : Nat) (tval : W64) | gone (pa : Nat) | openTrap (cause : Nat)
  deriving DecidableEq, Repr

/-- The first cause that stops the word at issue. -/
def State.vCheck (s : State) (c x op : Nat) (w : VWord) : VCheck :=
  let m := s.mdw c
  let k := m.ctx x
  let n := vSteps w
  let rest : VCheck :=
    match vPoisonAt m k s.gtc op w with
    | some (some v) => .trap Cause.poisonUse (BitVec.ofNat 64 v)
    | some none => .openTrap Cause.poisonUse
    | none => .go
  let room : VCheck := if (op = 0x70 ∨ op = 0x72) ∧ k.landFree < n then .trap Cause.landOverflow 0 else rest
  match vForm op w.et with
  | .draw =>
    if vIndexBad m k w then .trap Cause.resOperand (bitTval 21) else rest
  | .ld | .st =>
    match s.access m (if op = 0x70 then .load else .store) ((vMemAddrs k s.gtc op w).map fun a => (a, 512)) with
    | .trap cause tval => .trap cause tval
    | .gone pa => .gone pa
    | .ok _ => room
  | .lds | .sts =>
    let as_ := vSpadAddrs k s.gtc op w
    match as_.find? fun a => a % 512 != 0 with
    | some a => .trap Cause.memAlign (BitVec.ofNat 64 a)
    | none => match as_.findSome? fun a => m.bufFault (if op = 0x72 then .read else .write) a 512 with
      | some v => .trap Cause.bufState v
      | none => room
  | _ => rest

/-! ## Loads at issue (R190, R197, R200) -/

/-- Byte k of the mask says whether lane bits of a type report it: the residency predicate of a step's bytes. -/
def laneReport (t : ElemType) (bytes : Nat) : Pred :=
  let b := max 1 (t.width / 8)
  BitVec.ofNat 512 (packLanes 1 ((List.range (512 / b)).map fun j => if bytes / 2 ^ (j * b) % 2 ^ b = 0 then 0 else 1))

def partsNonRes (ps : List Part) : Nat := ps.foldl (fun a p => if p.res then a else a + (2 ^ p.len - 1) * 2 ^ p.off) 0

/-- The parts of each step's 512 bytes. -/
def Meadow.stepParts (m : Meadow) (as_ : List Nat) : List (List Part) := as_.map fun a => (cutPages 4 0 a 512).map fun p => p.part m

-- DEDUCED, unsafe: log entry 49.
/-- VLD takes its landing entries and starts its loads. -/
def State.vStartLoads (s : State) (c x : Nat) (w : VWord) (as_ : List Nat) : State :=
  let m := s.mdw c
  let k := m.ctx x
  let n := as_.length
  let parts := m.stepParts as_
  let resid := parts.foldl (fun a ps => a ||| laneReport w.et (partsNonRes ps)) 0
  (parts.zipIdx).foldl (fun s q =>
    let i := q.2
    s.startLoad c x .v k.vpc (m.mtc + i + opImmN w.src2 % 4096) 512
      (match opQueue? w.dst with | some t => .queue t | none => .row (opRow w.dst i)) q.1 false fun e =>
        { e with todo := e.todo.map fun t => (t.1, t.2 + i), et := w.et, resPred := if i + 1 = n then some w.pred.toNat else none,
                 mask := if i + 1 = n then some resid else none }) s

/-- VLDS takes its landing entries; each step reads its row (R200). Answers the entries' identifiers too. -/
def State.vTakeEntries (s : State) (c x : Nat) (w : VWord) (as_ : List Nat) : State × List Nat :=
  let m := s.mdw c
  let k := m.ctx x
  (as_.zipIdx).foldl (fun r q =>
    let (id, s1) := r.1.nextSeq
    let e : LandEntry :=
      { id := id, stream := .v, pc := k.vpc, lam := m.mtc + q.2 + opImmN w.src2 % 4096, arriveAt := notYet,
        dest := match opQueue? w.dst with | some t => .queue t | none => .row (opRow w.dst q.2)
        bytes := 512, parts := [], spad := some q.1, et := w.et, at_ := s.gtc }
    (s1.modCtx c x fun k => { k with landing := k.landing ++ [e] }, r.2 ++ [id])) (s, [])

/-! ## Issue -/

/-- Take over the order that the entries a word counts carry (R115, R218). -/
def Ctx.vJoin (k : Ctx) (g : Nat) (pops : List (Nat × Nat)) : Ctx :=
  [0, 1, 2, 3, 4, 5, 6, 7].foldl (fun k q =>
    let a := countOf pops q
    let rels := if q < 4 then (((k.queue64 q).ready g).take a).map (·.rel) else (((k.queueRow q).ready g).take a).map (·.rel)
    rels.foldl (fun k r => k.joinReach .v r) k) k

/-- The tile bits a word waited on hand their order over (R218). -/
def Ctx.vTiles (k : Ctx) (m : Meadow) (rows : List Nat) : Ctx :=
  ((List.range 8).filter fun t => rows.any fun v => v / 128 == t).foldl (fun k t => k.joinReach .v (tgetD m.tileRel t {})) k

/-- The word has issued: counter, issue control, unit and turn (R25, R116, R292). -/
def Meadow.vIssued (m : Meadow) (x : Nat) (ic : BitVec 2) (busy : Nat) : Meadow :=
  (m.modCtx x fun k => { k with vpc := k.vpc + 12, vNextAt := m.mtc + icGap ic }).takeTurn .vector x ic (m.mtc + busy)

-- DEDUCED, unsafe: log entry 49.
/-- What VDRAW classifies at issue: p of R161 and the case of R158. -/
def vDrawPlan (m : Meadow) (k : Ctx) (w : VWord) : Nat × DrawCase × Nat :=
  let (t, mg, ib) := vDrawArgs m w
  let n := vSteps w
  let xs := (List.range n).flatMap fun i => vDrawLanes w i (fun v => (m.row v, m.poisoned v)) (k.pred w.pred.toNat)
  (if mg.isSome then 0 else n, { temp := t, mhat := mg.or (drawMax xs), anyInf := drawAnyInf xs }, ib)

/-- A DrawCase with the first index, as carried values. -/
def drawSave (d : DrawCase) (ib : Nat) : List Nat :=
  [d.temp, ib, if d.anyInf then 1 else 0, if d.mhat.isSome then 1 else 0, match d.mhat with | some x => fp32.roundEx .rne 0 x | none => 0]
def drawLoad (a : List Nat) : DrawCase × Nat :=
  let g (i : Nat) : Nat := (a[i]?).getD 0
  ({ temp := g 0, anyInf := g 2 == 1, mhat := if g 3 = 1 then (match fp32.value (g 4) with | .fin x => some x | _ => none) else none }, g 1)

-- DESIGN CHOICE, safe: log entry 30.
/-- The sweep of a word starts (R116); its accesses are behind what the entries that it counts and the tile bits that it waited on hand over
(R218). -/
def State.vStart (s0 : State) (c x op : Nat) (ins : Instr) (w : VWord) : State :=
  let s := s0.modMdw c fun m => m.modCtx x fun k => (k.vJoin s0.gtc (vPops op w)).vTiles m (vTouched op w)
  let m := s.mdw c
  let k := m.ctx x
  let n := vSteps w
  let draw := vForm op w.et == .draw
  let plan := if draw then vDrawPlan m k w else (0, { temp := 0, mhat := none, anyInf := false }, 0)
  let topo : List Nat := match m.topo with | some t => t.map (·.toNat) | none => [0xFFFF]
  let lat := vLat op w plan.1 topo.length
  let step := vStepRows op w
  let mem := if op = 0x71 then m.stepParts (vMemAddrs k s.gtc op w) else []
  let spadAs := if op = 0x72 ∨ op = 0x73 then vSpadAddrs k s.gtc op w else []
  let as_ := vMemAddrs k s.gtc op w
  let rel := k.reachOf .v s.seq
  let s1 := if op = 0x70 then s.vStartLoads c x w as_ else s
  let (s2, ids) := if op = 0x72 then s1.vTakeEntries c x w spadAs else (s1, [])
  let (id, s3) := s2.nextSeq
  let f : VFlight :=
    { id := id, ctx := x, ins := ins, pc := k.vpc, t0 := s.gtc, n := n, c := step, lat := lat, k := k.seed, c0 := k.ctr,
      acc := if draw then drawSave plan.2.1 plan.2.2 else if op = 0x82 then topo else if op = 0x73 then spadAs else [],
      ids := ids, parts := mem, rel := rel }
  let s4 := s3.modMdw c fun m =>
    let m1 := m.modCtx x fun k => if vRounds op w then { k with ctr := k.ctr + BitVec.ofNat 32 n } else k
    ({ m1 with flights := m1.flights ++ [f] }).vIssued x w.ic (if draw then plan.1 + 2 * n else n * step)
  if f.readAt 0 ≤ s.gtc then s4.now [.vectorSweepStep c id] else s4

/-- The meaning shared by every V-word: hold, trap, or issue. -/
def vGo (ins : Instr) (s : State) : Res :=
  match s.cur, vParts ins with
  | .stream c x .v, some (op, w) =>
    let op := op.toNat
    let k := s.ctx c x
    match vUngranted k op w with
    | some v =>
      if op = 0x80 ∧ vIndexBad (s.mdw c) k w then trapRes s Cause.resOperand (bitTval 21)
      else trapRes s Cause.tileNotGranted (BitVec.ofNat 64 v)
    | none =>
      if s.vHeld c x op w then .next s
      else
        match vForm op w.et with
        | .nop => .next (s.modMdw c fun m => m.vIssued x w.ic 1)
        -- DESIGN CHOICE, unsafe: log entry 88.
        | .exit => .next (s.modMdw c fun m => (m.modCtx x fun k => { k with vRun := false }).vIssued x w.ic 1)
        | .mark =>
          let tile := opRow w.dst 0 / 128
          .next (s.modMdw c fun m => ((m.modCtx x fun k => k.vTiles m [opRow w.dst 0]).setTile tile (opImmN w.src1 == 1)
            (k.reachOf .v s.seq)).vIssued x w.ic 1)
        | _ =>
          let s1 := s.rowScrub c (vReads op w)
          match s1.vCheck c x op w with
          | .trap cause tval => trapRes s1 cause tval
          | .openTrap cause => let (ix, s2) := s1.freshIx; trapRes s2 cause (Config.unstated ix)
          | .gone pa => .fault (.unbacked pa)
          | .go => .next (s1.vStart c x op ins w)
  | _, _ => .next s

/-! ## Sweep steps (R113, R116) -/

/-- What a step produces. -/
inductive VOut
  | lanes (t : ElemType) (vals : List Nat) (act : List Bool)
  | pair (lo hi : Row)
  | bits (v mask : Pred)
  | none
  deriving DecidableEq, Repr

/-- Pop entries from the head of an operand's queue, with the order they carry (R21, R218). -/
def Ctx.vPop (k : Ctx) (g : Nat) (o : VOperand) : Nat → Ctx × List Nat
  | 0 => (k, [])
  | n + 1 =>
    match opQueue? o with
    | none => (k, [])
    | some q =>
      let e := if q < 4 then ((k.queue64 q).items.head?.map (·.val.toNat)).getD 0 else ((k.queueRow q).items.head?.map (·.val.toNat)).getD 0
      let rel := if q < 4 then ((k.queue64 q).items.head?.map (·.rel)).getD {} else ((k.queueRow q).items.head?.map (·.rel)).getD {}
      let k1 := (if q < 4 then k.pop64 q g else k.popRow q g).joinReach .v rel
      let r := k1.vPop g o n
      (r.1, e :: r.2)

/-- What step i of a flight pops: new units of source 1, and source 2. -/
def VFlight.stepPops (f : VFlight) : List (Nat × Nat) :=
  let (op, w) := f.word
  if (vForm op w.et).bare then [] else
  ((opQueue? w.src1).map fun q => (q, vUnits op w (f.step + 1) - f.accN)).toList ++ ((opQueue? w.src2).map fun q => (q, 1)).toList

/-- The queues hold what the step pops. -/
def VFlight.fed (f : VFlight) (k : Ctx) (g : Nat) : Bool := f.stepPops.all fun p => decide (countOf f.stepPops p.1 ≤ k.qReady g p.1)

/-- A frame step's inputs: the lanes of unit u of source 1, and of source 2. -/
structure VIn where
  unit : Nat → List Nat
  src2 : List Nat
  old : List Nat
  act : List Bool
  coin : Nat → Nat

/-- The result of step i. -/
def vEval (f : VFlight) (m : Meadow) (k : Ctx) (i : Nat) (v : VIn) : VOut :=
  let (op, w) := f.word
  let t := w.et
  let n := t.lanes
  let srcN := (vSrcType op w).lanes
  let coinJ (j : Nat) : Nat := if w.rm == .sr then v.coin j else 0
  match vForm op t with
  | .arith =>
    let a := v.unit i
    .lanes t ((List.range n).map fun j => vArith op t w.rm (if vRounds op w then coinJ j else 0) ((a[j]?).getD 0) ((v.src2[j]?).getD 0) ((v.old[j]?).getD 0)) v.act
  | .cmp =>
    let r := List.zipWith (vCompare op t) (v.unit i) v.src2
    .bits (boolBits (List.zipWith (· && ·) r v.act)) (boolBits (v.act ++ List.replicate (512 - n) true))
  | .sel => .lanes t (List.zipWith (fun (p : Nat × Nat) on => if on then p.1 else p.2) ((v.unit i).zip v.src2) v.act) (v.act.map fun _ => true)
  | .cvt =>
    .lanes t ((List.range n).map fun j =>
      let e := i * n + j
      convert (vSrcType op w) t w.rm (coinJ j) (((v.unit (e / srcN))[e % srcN]?).getD 0)) v.act
  | .pack =>
    let k := n / srcN
    let r := vPack t (opImmN w.src2) w.rm v.coin ((List.range k).flatMap fun u => v.unit (i * k + u))
    .pair r.1 r.2
  | .scale =>
    if i + 1 < f.n then .none
    else
      let p := bandScale [(tyFmt t).value ((f.acc.head?).getD 0)]
      match opQueue? w.dst with
      | some _ => .lanes .bf16 (p :: List.replicate 255 0) (List.replicate 256 true)
      | none => .lanes .bf16 (List.replicate 256 p) (List.replicate 256 true)
  | .logic =>
    let a := v.unit i
    .lanes t ((List.range n).map fun j => vLogic op t ((a[j]?).getD 0) ((v.src2[j]?).getD 0)) v.act
  | .move => .lanes t (vMove op t v.act (v.unit i) v.src2 (opImmN w.src2)) (if op = 0x44 then v.act.map fun _ => true else v.act)
  | .iota =>
    let c := tyInt t (immLane t (BitVec.ofNat 20 (opImmN w.src1)))
    let d := tyInt t (immLane t (BitVec.ofNat 20 (opImmN w.src2)))
    .lanes t ((List.range n).map fun j => tySat t (c + ((i * n + j : Nat) : Int) * d)) v.act
  | .reduce =>
    if op ≤ 0x52 then .lanes t (vReduce op t w.rm v.act (v.unit i)) (v.act.map fun _ => true)
    else .lanes t (vScan op t w.rm none (v.act.zip (v.unit i))) v.act
  | .plog =>
    let a := f.predView k (opRow w.src1 i)
    let b := f.predView k (opRow w.src2 i)
    let r := match op with | 0x60 => a &&& b | 0x61 => a ||| b | 0x62 => a ^^^ b | _ => ~~~a
    .bits r (boolBits v.act)
  | .draw =>
    let (d, ib) := drawLoad f.acc
    let view := f.view m
    let xs := ((v.unit i).map (tyFmt t).value).zip v.act
    let p := drawRow v.coin d (view (opRow w.src1 i)).2 (ib + i * n) 0 xs
    .lanes .n64 (dBits p :: List.replicate 127 0) (List.replicate 128 true)
  | .dmrg =>
    let a := v.unit i
    .lanes t ((List.range n).map fun j => dBits (drawMerge v.coin j (dOf ((a[j]?).getD 0)) (dOf ((v.src2[j]?).getD 0)))) v.act
  | .dtree =>
    let ps := List.zipWith (fun on x => if on then dOf x else dEmpty) v.act (v.unit i)
    .lanes t (dBits (drawTopo v.coin f.acc ps) :: List.replicate 127 0) (List.replicate 128 true)
  | .ld | .st | .lds | .sts | .nop | .mark | .exit => .none

-- DEDUCED, unsafe: log entry 19.
/-- A step's output as a result to be delivered (R113, R114): kept lanes are those of the step's read cycle, queued ones +0. -/
def vDeliver (f : VFlight) (view : RowView) (i : Nat) : VOut → Option VResult
  | .none => none
  | .bits v mask => some { step := i, due := f.resAt i, row := v.setWidth 4096, mask := mask, pred := true }
  | .pair lo hi => some { step := i, due := f.resAt i, row := lo, hi := hi, mask := BitVec.allOnes 512, wide := true }
  | .lanes t vals act =>
    let w := f.word.2
    match opQueue? w.dst with
    | some q =>
      let vs := List.zipWith (fun x on => if on then x else 0) vals act
      let v := if t.wide then (vs.head?).getD 0 else (lanesRow t vs).1.toNat
      some { step := i, due := f.resAt i, row := BitVec.ofNat 4096 (if q < 4 then v % 2 ^ 64 else v), mask := BitVec.allOnes 512 }
    | none =>
      let r := opRow w.dst i
      let full := act.all id
      let vs := if full then vals else
        let old := rowLanes t (view r).1 (view (r + 1)).1
        List.zipWith (fun (p : Nat × Nat) on => if on then p.1 else p.2) (vals.zip old) act
      let d := lanesRow t vs
      some { step := i, due := f.resAt i, row := d.1, hi := d.2, mask := if full then BitVec.allOnes 512 else 0, wide := t.wide }

/-- The running maximum that VSCALE carries: the encoding of the greatest finite magnitude of active lanes (R126). -/
def vScaleAcc (t : ElemType) (acc : Nat) (xs : List Nat) (act : List Bool) : Nat :=
  (xs.zip act).foldl (fun a p => match (tyFmt t).value p.1 with
    | .fin _ => if p.2 then max a (p.1 % 2 ^ (t.width - 1)) else a
    | _ => a) acc

/-- Bytes of a step of VST or VSTS: a poisoned row stores NaNs in a type of class F (R198). -/
def vStoreData (w : VWord) (view : RowView) (i entry : Nat) : Row :=
  match w.src1 with
  | .rows .. => (lanesRow w.et (opLanes w.src1 w.et i view entry)).1
  | _ => BitVec.ofNat 4096 entry

-- DEDUCED, unsafe: log entry 63.
/-- The row whose poison stops step i at its read: what has reached the row since the word's issue. -/
def vStepPoison (op : Nat) (w : VWord) (i : Nat) (view : RowView) (unit : Nat → List Nat) (act : List Bool) : Option (Option Nat) :=
  let us := vStepUnits op w i
  match (vBareRows op w us [i]).find? fun v => (view v).2 with
  | some v => some (some v)
  | none => vNaN5 op w unit act (fun e => e / w.et.lanes == i) us

/-- The rows and predicates that a flight has written hold again what they held before, where no other word has written them since. -/
def Meadow.unwrite (m : Meadow) (f : VFlight) : Meadow :=
  let m1 := f.wrote.reverse.foldl (fun (m : Meadow) r =>
    if m.row r.1 = r.2.2.2 then (m.putRow r.1 r.2.1 (BitVec.allOnes 512)).setPoison r.1 r.2.2.1 else m) m
  m1.modCtx f.ctx fun k => f.wroteP.reverse.foldl (fun (k : Ctx) r => if k.pred r.1 = r.2.2 then k.setPred r.1 r.2.1 else k) k

-- DEDUCED, unsafe: log entry 63.
/-- A step meets poison that it cannot carry: the word writes nothing, and the cause is raised, as a load raises it at its landing (R86,
R195). -/
def State.stepPoison (s0 : State) (c : Nat) (f : VFlight) (row : Option Nat) : State :=
  let s := s0.modMdw c fun m => m.unwrite f
  let r := match row with | some v => (BitVec.ofNat 64 v, s) | none => let q := s.freshIx; (Config.unstated q.1, q.2)
  r.2.raiseAtLanding c f.ctx .v f.pc Cause.poisonUse r.1

-- DEDUCED, unsafe: log entry 49.
-- DEDUCED, unsafe: log entry 91.
/-- VECTOR_SWEEP_STEP: one step of a flight reads, pops, and computes its result. -/
def State.sweepStep (s : State) (c : Nat) (f : VFlight) : State :=
  let (op, w) := f.word
  let i := f.step
  let t := vSrcType op w
  let m := s.mdw c
  let new := vUnits op w (i + 1) - f.accN
  let f := { f with slip := f.slip + (s.gtc - f.readAt i) }
  let p1 := (m.ctx f.ctx).vPop s.gtc w.src1 new
  let p2 := p1.1.vPop s.gtc w.src2 1
  let k := p2.1
  let view := f.view m
  let unit (u : Nat) : List Nat :=
    opLanes w.src1 t u view (if u < f.accN then (f.acc.head?).getD 0 else (p1.2[u - f.accN]?).getD 0)
  let lanesN := if vForm op w.et == .plog then 512 else w.et.lanes
  let act := vActive (f.predView k w.pred.toNat) w.sense lanesN
  let vin : VIn :=
    { unit := unit, src2 := if vBinary op then opLanes w.src2 w.et i view ((p2.2.head?).getD 0) else []
      old := if op = 0x13 then opLanes w.dst w.et i view 0 else []
      act := act
      coin := fun j => coinOf f.k (meadowSite c j) (f.c0 + BitVec.ofNat 32 i) }
  let f1 : VFlight := if vForm op w.et == .scale then { f with acc := [vScaleAcc t ((f.acc.head?).getD 0) (unit i) act] }
    else if op = 0x29 then { f with acc := (p1.2.getLast?.or f.acc.head?).toList } else f
  let bad := vStepPoison op w i view unit act
  let res := if bad.isSome then none else vDeliver f1 view (if vForm op w.et == .scale then 0 else i) (vEval f1 m k i vin)
  let res := res.map fun r => if vForm op w.et == .scale then { r with due := f.resAt (f.n - 1) } else r
  let f2 : VFlight := { f1 with step := i + 1, n := if bad.isSome then i + 1 else f1.n, accN := vUnits op w (i + 1), done := if bad.isSome then [] else f1.done ++ res.toList }
  let m1 : Meadow := { m with flights := m.flights.map fun (g : VFlight) => if g.id = f.id then f2 else g }
  let s1 := s.setMdw c (m1.setCtx f.ctx k)
  let entry := (p1.2.head?).getD 0
  match bad with
  | some row => s1.stepPoison c f row
  | none =>
  match vForm op w.et with
  | .st => s1.startStore c f.ctx .v ((f.parts[i]?).getD []) (vStoreData w view i entry) (lanesMask w.et act) false
  | .sts => s1.modMdw c fun m => m.spadStoreNext s.gtc (StreamId.rank .v) ((f.acc[i]?).getD 0) 512 (vStoreData w view i entry) (lanesMask w.et act) f.ctx
  | .lds =>
    let id := (f.ids[i]?).getD 0
    let old : Row := if (opQueue? w.dst).isSome then 0 else (view (opRow w.dst i)).1
    s1.modCtx c f.ctx fun k => { k with landing := k.landing.map fun l =>
      if l.id = id then { l with port := true, data := old, mask := some (if act.all (fun b => b) then BitVec.allOnes 512 else lanesMask w.et act) } else l }
  | _ => if f.resAt i ≤ s.gtc then s1.now [.vectorStepResult c f.id i] else s1

-- DEDUCED, unsafe: log entry 19.
/-- VECTOR_STEP_RESULT: a row, predicate or queue entry is written (R116). -/
def State.stepResult (s : State) (c : Nat) (f : VFlight) (r : VResult) : State :=
  let (_, w) := f.word
  let settle (h : VFlight → VFlight) (m : Meadow) : Meadow :=
    { m with flights := m.flights.map fun (g : VFlight) => if g.id = f.id then h { g with done := g.done.filter fun q => q.step != r.step } else g }
  s.modMdw c fun m =>
    let m1 := settle id m
    if r.pred then
      let p := opRow w.dst r.step
      let old := (m.ctx f.ctx).pred p
      let new := (old &&& ~~~r.mask) ||| (r.row.setWidth 512 &&& r.mask)
      (settle (fun g => { g with wroteP := g.wroteP ++ [(p, old, new)] }) m).modCtx f.ctx fun k => (k.setPred p new).notePred p r.mask s.gtc
    else match opQueue? w.dst with
      | some q => m1.modCtx f.ctx fun k =>
          if q < 4 then k.push64 q (r.row.setWidth 64) s.gtc f.rel else k.pushRow q r.row s.gtc f.rel
      | none =>
        let v := opRow w.dst r.step
        let put (m : Meadow) (v : Nat) (d : Row) : Meadow :=
          let m1 : Meadow := { m with flights := m.flights.map fun (g : VFlight) =>
            if g.id = f.id then { g with wrote := g.wrote ++ [(v, m.row v, m.poisoned v, d)] } else g }
          if r.mask = BitVec.allOnes 512 then (m1.putRow v d r.mask).setPoison v false else m1.putRow v d r.mask
        if r.wide then put (put m1 v r.row) (v + 1) r.hi else put m1 v r.row

end Sys2Proof.Machine
end

