-- ==== Sys2Proof/Machine/HeathCmd.lean ====
section
/-! DEFINITION. Commands of the heath engines (R262-R272): the fields of a command block, its checks, and its results. -/
namespace Sys2Proof.Machine

/-! ## Physical ranges of a kernel (R250, R252, R264) -/

/-- The key slot under which a kernel accesses a byte. -/
def Hcp.keyAt (h : Hcp) (pa : Nat) : Nat := ((h.pageOf pa).map (·.key)).getD 0

/-- Read bytes that may cross a page: value, and poison by byte. -/
def State.hGet (s : State) (h : Hcp) (pa len : Nat) : Nat × Nat :=
  let n := min len (2 ^ 21 - pa % 2 ^ 21)
  let a := s.hRead (h.keyAt pa) pa n
  if n = len then a else
  let b := s.hRead (h.keyAt (pa + n)) (pa + n) (len - n)
  (a.1 + b.1 * 2 ^ (8 * n), a.2 + b.2 * 2 ^ n)

def State.hPut (s : State) (h : Hcp) (pa len v : Nat) : State :=
  let n := min len (2 ^ 21 - pa % 2 ^ 21)
  let s1 := s.hWrite (h.keyAt pa) pa n (v % 2 ^ (8 * n))
  if n = len then s1 else s1.hWrite (h.keyAt (pa + n)) (pa + n) (len - n) (v / 2 ^ (8 * n))

/-- The poisoned lines of a range. -/
def State.poisonIn (s : State) (h : Hcp) (pa len : Nat) : List Nat := (lineNos pa len).filter fun l => (s.heathLine (64 * l) (h.keyAt (64 * l))).2

/-- Where an operand must lie: anywhere in the listed pages, in the HCP's own pseudo-channel, its channel, or its stack. -/
inductive HPlace | listed | own | channel | stack
  deriving DecidableEq, Repr

def HPlace.holds (p : HPlace) (hcp pa : Nat) : Bool :=
  match p, placeOf pa with
  | .listed, _ => true
  | _, none => false
  | .own, some q => q.pc == hcp
  | .channel, some q => q.pc / 2 == hcp / 2
  | .stack, some q => q.pc / 64 == hcp / 64

/-- An operand range and what is asked of it. -/
structure HRange where
  pa : Nat
  len : Nat
  place : HPlace
  onePage : Bool
  deriving DecidableEq, Repr

/-- PAGE_RANGE first, then PAGE_CROSS. -/
def HRange.check (r : HRange) (hcp : Nat) (h : Hcp) : Option Nat :=
  if r.len = 0 then none else
  let first := r.pa / 2 ^ 21
  let n := (r.pa + r.len - 1) / 2 ^ 21 - first + 1
  if h.pages.length < n || (List.range n).any fun i => (h.pageOf ((first + i) * 2 ^ 21)).isNone || !r.place.holds hcp ((first + i) * 2 ^ 21) then some 4
  else if r.onePage && decide (1 < n) then some 3
  else none

def HRange.meets (a b : HRange) : Bool := decide (a.pa < b.pa + b.len) && decide (b.pa < a.pa + a.len)

/-! ## The block (R263) -/

structure HBlock where
  w : List W64
  deriving DecidableEq, Repr

def HBlock.word (b : HBlock) (i : Nat) : W64 := (b.w[i]?).getD 0
def HBlock.f (b : HBlock) (off lo len : Nat) : Nat := getField (b.word (off / 8)) lo len
def HBlock.op (b : HBlock) : Nat := b.f 0 60 4
def HBlock.tag (b : HBlock) : Nat := b.f 0 56 4
def HBlock.posten (b : HBlock) : Bool := b.f 0 55 1 == 1
def HBlock.postIdx (b : HBlock) : Nat := b.f 0 52 3
def HBlock.fmt (b : HBlock) : ElemType := ElemType.ofCode ((b.word 0).extractLsb' 48 4)
def HBlock.mode (b : HBlock) : Nat := b.f 0 44 2
def HBlock.pinc (b : HBlock) : W32 := (b.word 0).setWidth 32
/-- Bytes of an element. -/
def HBlock.eb (b : HBlock) : Nat := b.fmt.width / 8

/-! ### HGEMV's operands -/

def HBlock.nv (b : HBlock) : Nat := b.f 0x10 62 2 + 1
def HBlock.rows (b : HBlock) : Nat := b.f 0x10 32 16
def HBlock.cols (b : HBlock) : Nat := b.f 0x10 0 16
def HBlock.wRow (b : HBlock) (r : Nat) : Nat := b.f 8 0 64 + r * b.f 0x10 16 16
def HBlock.rowBytes (b : HBlock) : Nat := b.cols * b.fmt.width / 8
def HBlock.yBytes (b : HBlock) : Nat := if b.f 0 45 1 = 1 then 2 else 4
def HBlock.xAt (b : HBlock) (v : Nat) : Nat := b.f 0x18 0 64 + v * b.f 0x20 32 32
def HBlock.yAt (b : HBlock) (v : Nat) : Nat := b.f 0x28 0 64 + v * b.f 0x20 0 32
def HBlock.wRange (b : HBlock) : HRange := ⟨b.f 8 0 64, (b.rows - 1) * b.f 0x10 16 16 + b.rowBytes, .own, true⟩
def HBlock.xRange (b : HBlock) (v : Nat) : HRange := ⟨b.xAt v, 2 * b.cols, .stack, true⟩
def HBlock.yRange (b : HBlock) (v : Nat) : HRange := ⟨b.yAt v, b.yBytes * b.rows, .stack, true⟩
def HBlock.sRange (b : HBlock) : HRange := ⟨b.f 0x30 0 64, if b.fmt = .mx4 then b.rows * (b.cols / 32) else 0, .own, true⟩

-- DEDUCED, unsafe: log entry 85.
/-- Signed steps of HCOPY. -/
def HBlock.copyAt (b : HBlock) (dst : Bool) (r : Nat) : Nat :=
  let base : Int := (b.f (if dst then 0x10 else 8) 0 64 : Nat)
  wrapN (base + (r : Int) * sextN (b.f 0x20 (if dst then 32 else 0) 32) 32) 64

/-! ## Checks at push, in the order of R264 -/

/-- Step 1: the header and every field value. -/
def HBlock.fieldsBad (b : HBlock) (func : Nat) (h : Hcp) : Bool :=
  let z (off lo len : Nat) : Bool := b.f off lo len == 0
  let unused (from_ : Nat) : Bool := (List.range (8 - from_)).all fun i => b.word (from_ + i) == 0
  let elemF (f : ElemType) : Bool := f == .f32 || f == .bf16 || f == .f16
  let ok : Bool :=
    b.op == func && z 0 32 12 && (!b.posten || (tget h.posts b.postIdx).isSome) &&
    (match func with
     | 0 =>
       (b.fmt == .e4m3 || b.fmt == .e5m2 || b.fmt == .bf16 || b.fmt == .mx4) && z 0 46 2 && z 0x10 48 14 && decide (1 ≤ b.rows) && decide (1 ≤ b.cols) &&
       (b.fmt != .mx4 || b.cols % 32 == 0) && (b.fmt == .mx4 || z 0x30 0 64) && unused 7
     | 1 =>
       elemF b.fmt && b.mode != 3 && z 0 46 2 && z 0x10 48 16 && decide (1 ≤ b.f 0x10 32 16) && decide (b.f 0x10 32 16 ≤ 16) &&
       decide (1 ≤ b.f 0x10 0 32) && decide (b.f 0x10 0 32 * b.eb ≤ 2 ^ 21) && unused 4
     | 2 =>
       (if b.mode = 3 then b.fmt == .n64 else elemF b.fmt) && z 0 47 1 && z 0x10 45 11 && decide (1 ≤ b.f 0x10 32 13) && decide (b.f 0x10 32 13 ≤ 4096) &&
       b.f 0x10 0 32 * b.eb % 64 == 0 && decide (b.f 0x10 0 32 * b.eb ≤ 2 ^ 20) && z 0x20 13 51 && decide (b.f 0x20 0 13 < b.f 0x10 32 13) &&
       z 0x30 32 32 && unused 7 && (b.mode == 3 || (z 0x28 0 64 && z 0x30 0 64))
     | 3 =>
       (b.fmt == .f32 || b.fmt == .bf16 || b.fmt == .e4m3) && b.mode != 3 && z 0 46 2 && decide (1 ≤ b.f 0x10 48 16) && z 0x10 32 16 &&
       decide (1 ≤ b.f 0x10 0 16) && z 0x30 32 32 && unused 7
     | 4 =>
       (b.fmt == .f32 || b.fmt == .bf16 || b.fmt == .i32 || b.fmt == .n32) && decide (b.mode < 2) && z 0 46 2 && z 0x18 48 16 && z 0x18 35 5 &&
       (if b.mode = 0 then decide (b.f 0x18 32 3 < 6) && z 0x28 32 32 && decide (1 ≤ b.f 0x28 0 32) && decide (b.f 0x28 0 32 ≤ 2 ^ 18)
        else decide (1 ≤ b.f 0x18 40 8) && decide (b.f 0x18 40 8 ≤ 64) && z 0x28 0 64) && unused 7
     | _ =>
       z 0 44 8 && decide (1 ≤ b.f 0x18 32 32) && decide (1 ≤ b.f 0x18 0 32) && decide (b.f 0x18 0 32 ≤ 2 ^ 21) && unused 5)
  !ok

/-- The table pages of HWALK. -/
def HBlock.walkPages (b : HBlock) : Nat := (b.f 0x30 0 32 + b.f 0x10 48 16 - 1) / max 1 (b.f 0x10 48 16)

/-- Records that HSCAN writes at most. -/
def HBlock.scanOut (b : HBlock) : Nat := if b.mode = 0 then min (b.f 0x10 32 32) (b.f 0x28 0 32) else b.f 0x18 40 8

/-- Addresses of 8 bytes each in a list. -/
def State.hList (s : State) (h : Hcp) (pa n : Nat) : List Nat := (List.range n).map fun i => (s.hGet h (pa + 8 * i) 8).1

-- DEDUCED, unsafe: log entry 52.
/-- Steps 2 and 3 of the checks: a status with its detail, or the list read at push. -/
def State.hRanges (s : State) (hcp : Nat) (b : HBlock) : Except (Nat × Nat) (List Nat) :=
  let h := s.hcp hcp
  let first (rs : List HRange) : Option Nat := rs.findSome? fun r => r.check hcp h
  let len := b.f 0x10 0 32 * b.eb
  let done (rs : List HRange) (bad : Bool) (l : List Nat) : Except (Nat × Nat) (List Nat) :=
    match first rs with
    | some st => .error (st, 0)
    | none => if bad then .error (5, 0) else .ok l
  match b.op with
  | 0 =>
    let vs := List.range b.nv
    let ys := vs.map b.yRange
    done ([b.wRange] ++ vs.map b.xRange ++ ys ++ [b.sRange])
      ((List.range b.rows).any (fun r => decide (2048 < b.wRow r % 2048 + b.rowBytes)) || decide (65536 < b.nv * b.cols * 2) ||
        ys.any fun y => y.meets b.wRange || vs.any (fun v => y.meets (b.xRange v)) || (b.sRange.len != 0 && y.meets b.sRange)) []
  | 1 =>
    let n := b.f 0x10 32 16
    let lr : HRange := ⟨b.f 8 0 64, 8 * n, .stack, true⟩
    match lr.check hcp h with
    | some st => .error (st, 0)
    | none =>
      if s.poisonIn h lr.pa lr.len ≠ [] then .error (2, 1) else
      let srcs := s.hList h lr.pa n
      let rs := srcs.map fun a => (⟨a, len, .stack, true⟩ : HRange)
      let d : HRange := ⟨b.f 0x18 0 64, len, .stack, true⟩
      done (rs ++ [d]) (rs.any fun r => r.pa != d.pa && r.meets d) srcs
  | 2 =>
    let l : HRange := ⟨b.f 0x18 0 64, if b.f 0x18 0 64 = 0 then 0 else len, .own, false⟩
    done [⟨b.f 8 0 64, len, .own, true⟩, l] false []
  | 3 =>
    let n := b.walkPages
    let e := b.f 0x10 0 16
    let lr : HRange := ⟨b.f 8 0 64, 8 * n, .channel, false⟩
    match lr.check hcp h with
    | some st => .error (st, 0)
    | none =>
      if s.poisonIn h lr.pa lr.len ≠ [] then .error (2, 1) else
      let pages := s.hList h lr.pa n
      let pr := pages.map fun a => (⟨a, 2 ^ 21, .channel, true⟩ : HRange)
      let recs : HRange := ⟨b.f 0x18 0 64, 8 * b.f 0x20 32 32, .channel, false⟩
      let d : HRange := ⟨b.f 0x28 0 64, 4 * e * b.f 0x20 0 32, .channel, false⟩
      done (pr ++ [recs, d])
        (decide (b.f 0x10 16 16 < e * b.eb) || decide (2 ^ 21 < b.f 0x10 48 16 * b.f 0x10 16 16) || (d.len != 0 && ((recs.len != 0 && d.meets recs) || pr.any d.meets)))
        pages
  | 4 =>
    let src : HRange := ⟨b.f 8 0 64, b.f 0x10 32 32 * b.eb, .own, true⟩
    let d : HRange := ⟨b.f 0x20 0 64, 8 * b.scanOut, .listed, false⟩
    let c : HRange := ⟨b.f 0x30 0 64, 8, .listed, false⟩
    done [src, d, c] (src.len != 0 && ((d.len != 0 && src.meets d) || src.meets c)) []
  | _ =>
    let rs := List.range (b.f 0x18 32 32)
    let row (dst : Bool) (r : Nat) : HRange := ⟨b.copyAt dst r, b.f 0x18 0 32, .stack, true⟩
    done (rs.map (row false) ++ rs.map (row true)) false []

-- DEDUCED, unsafe: log entry 42.
-- DEDUCED, unsafe: log entry 52.
/-- All checks: the status of a rejection with its detail, or the list read at push. -/
def State.hCheck (s : State) (hcp func : Nat) (b : HBlock) : Except (Nat × Nat) (List Nat) :=
  if b.fieldsBad func (s.hcp hcp) then .error (5, 0) else s.hRanges hcp b

/-- The engines of a command (R262): bank groups 0-3 by the 2 KiB chunks of the operand (R188), 4 reduction, 5 walker. -/
def HBlock.engines (b : HBlock) : List Nat :=
  let chunks (pa len : Nat) : List Nat :=
    (((List.range ((pa % 2048 + len + 2047) / 2048)).filterMap fun i => (placeOf ((pa / 2048 + i) * 2048)).map (·.group))).eraseDups
  match b.op with
  | 0 => chunks b.wRange.pa b.wRange.len
  | 4 => chunks (b.f 8 0 64) (b.f 0x10 32 32 * b.eb)
  | 3 => [5]
  | _ => [4]

/-! ## Results (R257, R266-R272) -/

/-- What a command makes of memory as it has read it: the state, the poisoned lines it met, and the records it skipped. -/
structure HDone where
  s : State
  met : List Nat := []
  skipped : Nat := 0
  /-- the ranges that it has written, and the lines among them that it has poisoned -/
  outs : List (Nat × Nat) := []
  bad : List Nat := []

/-- A lane of a float format, as NaN with code 101 when its bytes are poisoned. -/
def hLane (t : ElemType) (v bad i : Nat) : Nat :=
  let b := t.width / 8
  if bad / 2 ^ (i * b) % 2 ^ b ≠ 0 then (tyFmt t).nan 5 else lane t.width v i

/-- An element of W: none when poison excludes it. -/
def hWeight (t : ElemType) (v bad sc scBad i : Nat) : Option Val :=
  match t with
  | .mx4 => some (if bad / 2 ^ (i / 2) % 2 = 1 ∨ scBad / 2 ^ (i / 32) % 2 = 1 then .nan 5 else mx4Val (lane 4 v i) (lane 8 sc (i / 32)))
  | .bf16 => some (bf16.value (hLane .bf16 v bad i))
  | _ => if bad / 2 ^ i % 2 = 1 then none else some ((tyFmt t).value (lane 8 v i))

/-- y_v[r] before its rounding to BF16. -/
def hGemvElem (ws : List (Option Val)) (xs : List Val) (acc0 : Option Nat) : Nat :=
  let pairs := ws.zip xs
  let r := (List.range ((ws.length + 63) / 64)).foldl (fun (acc : Option Nat) g =>
    let ps := ((pairs.drop (64 * g)).take 64).filterMap fun p => p.1.map fun w => (w, p.2)
    let gs := fp32.round .rne 0 (groupVal .rne (ps.map (·.1)) (ps.map (·.2)))
    match acc with
    | none => some gs
    | some a => some (fp32.round .rne 0 (Val.add .rne (fp32.value gs) (fp32.value a)))) acc0
  r.getD 0

/-- HGEMV. -/
def State.runGemv (s : State) (h : Hcp) (b : HBlock) : HDone :=
  let acc := b.f 0 44 1 == 1
  let yb := b.yBytes
  let rows := List.range b.rows
  let weights := rows.map fun r =>
    let v := s.hGet h (b.wRow r) b.rowBytes
    let n := b.cols / 32
    let sc := if b.fmt = .mx4 then s.hGet h (b.sRange.pa + r * n) n else (0, 0)
    (List.range b.cols).map (hWeight b.fmt v.1 v.2 sc.1 sc.2)
  let yt : ElemType := if yb = 2 then .bf16 else .f32
  let outs := (List.range b.nv).flatMap fun v =>
    let d := s.hGet h (b.xAt v) (2 * b.cols)
    let x := (List.range b.cols).map fun i => bf16.value (hLane .bf16 d.1 d.2 i)
    (rows.zip weights).map fun p =>
      let a := b.yAt v + yb * p.1
      let old := s.hGet h a yb
      let a0 := if acc then some (convert yt .f32 .rne 0 (hLane yt old.1 old.2 0)) else none
      let y := hGemvElem p.2 x a0
      (a, if yb = 2 then bf16.round .rne 0 (fp32.value y) else y)
  let met := ((List.range b.nv).flatMap fun v => s.poisonIn h (b.xAt v) (2 * b.cols)) ++
    rows.flatMap (fun r => s.poisonIn h (b.wRow r) b.rowBytes) ++ s.poisonIn h b.sRange.pa b.sRange.len ++
    (if acc then (List.range b.nv).flatMap fun v => s.poisonIn h (b.yAt v) (yb * b.rows) else [])
  { s := outs.foldl (fun s o => s.hPut h o.1 yb o.2) s, met := met, outs := (List.range b.nv).map fun v => (b.yAt v, yb * b.rows) }

/-- SUM, MAX and MIN of two lanes, rounded by RNE. -/
def hCombine (t : ElemType) (mode a b : Nat) : Nat := vArith (match mode with | 0 => 0x10 | 1 => 0x15 | _ => 0x14) t .rne 0 a b 0

/-- The identity that pads a tree: +0, −∞, +∞. -/
def hIdentity (t : ElemType) (mode : Nat) : Nat := match mode with | 0 => 0 | 1 => (tyFmt t).infEnc true | _ => (tyFmt t).infEnc false

/-- A pairwise tree over a power of two of leaves; `f` takes the level from the leaves, counted from 1, and the node's place. -/
def rankTree {α : Type} (f : Nat → Nat → α → α → α) : Nat → Nat → List α → List α
  | 0, _, xs => xs
  | n + 1, lv, xs => rankTree f n (lv + 1) (level f lv 0 xs)
where
  level (f : Nat → Nat → α → α → α) (lv : Nat) : Nat → List α → List α
    | k, a :: b :: t => f lv k a b :: level f lv (k + 1) t
    | _, t => t

/-- The tree of leaves padded to a power of two. -/
def padTree {α : Type} (f : Nat → Nat → α → α → α) (pad : α) (xs : List α) : α :=
  let m := pow2 xs.length
  (rankTree f m.log2 1 (xs ++ List.replicate (m - xs.length) pad)).head?.getD pad
where
  /-- The least power of two that is no less. -/
  pow2 (n : Nat) : Nat := 2 ^ (if n ≤ 1 then 0 else (n - 1).log2 + 1)

-- DEDUCED, unsafe: log entry 85.
/-- HRED over the sources read at push. -/
def State.runRed (s : State) (h : Hcp) (b : HBlock) (srcs : List W64) : HDone :=
  let n := b.f 0x10 0 32
  let len := n * b.eb
  let data := srcs.map fun a => s.hGet h a.toNat len
  let out := (List.range n).map fun e => padTree (fun _ _ => hCombine b.fmt b.mode) (hIdentity b.fmt b.mode) (data.map fun d => hLane b.fmt d.1 d.2 e)
  { s := s.hPut h (b.f 0x18 0 64) len (packLanes b.fmt.width out), met := srcs.flatMap fun a => s.poisonIn h a.toNat len
    outs := [(b.f 0x18 0 64, len)] }

/-- The table row that record i of HWALK names; none for a record that is poisoned, empty or out of range. -/
def State.walkRow (s : State) (h : Hcp) (b : HBlock) (pages : List W64) (i : Nat) : Option Nat :=
  let r := s.hGet h (b.f 0x18 0 64 + 8 * i) 8
  let ix := r.1 % 2 ^ 32
  let rpp := b.f 0x10 48 16
  if r.2 ≠ 0 ∨ b.f 0x30 0 32 ≤ ix ∨ b.f 0x20 0 32 ≤ r.1 / 2 ^ 32 % 2 ^ 16 then none
  else some (((pages[ix / rpp]?).getD 0).toNat + b.f 0x10 16 16 * (ix % rpp))

/-- HWALK over the table pages read at push. -/
def State.runWalk (s : State) (h : Hcp) (b : HBlock) (pages : List W64) : HDone :=
  let e := b.f 0x10 0 16
  let rpp := b.f 0x10 48 16
  let trows := b.f 0x30 0 32
  let nbag := b.f 0x20 0 32
  let t := b.fmt
  let step (a : Tab (List Nat) × List Nat × Nat) (i : Nat) : Tab (List Nat) × List Nat × Nat :=
    let at_ := b.f 0x18 0 64 + 8 * i
    let r := s.hGet h at_ 8
    let ix := r.1 % 2 ^ 32
    let bag := r.1 / 2 ^ 32 % 2 ^ 16
    let w := bf16.value (r.1 / 2 ^ 48)
    if r.2 ≠ 0 then (a.1, a.2.1 ++ s.poisonIn h at_ 8, a.2.2)
    else if ix = 0xFFFFFFFF then a
    else if trows ≤ ix ∨ nbag ≤ bag then (a.1, a.2.1, a.2.2 + 1)
    else
      let ra := ((pages[ix / rpp]?).getD 0).toNat + b.f 0x10 16 16 * (ix % rpp)
      let d := s.hGet h ra (e * b.eb)
      let met := a.2.1 ++ s.poisonIn h ra (e * b.eb)
      if d.2 ≠ 0 ∧ t = .e4m3 then (a.1, met, a.2.2)
      else
        let xs := (List.range e).map fun j => convert t .f32 .rne 0 (hLane t d.1 d.2 j)
        let next := match tget a.1 bag with
          | none => if b.mode = 2 then xs.map fun x => fp32.round .rne 0 (Val.mul w (fp32.value x)) else xs
          | some acc => List.zipWith (fun y x => match b.mode with
              | 0 => hCombine .f32 0 y x
              | 1 => hCombine .f32 1 y x
              | _ => fp32.round .rne 0 (Val.fma .rne w (fp32.value x) (fp32.value y))) acc xs
        (tput a.1 bag next, met, a.2.2)
  let r := (List.range (b.f 0x20 32 32)).foldl step ([], [], 0)
  let s1 := (List.range nbag).foldl (fun s k =>
    s.hPut h (b.f 0x28 0 64 + 4 * e * k) (4 * e) (packLanes 32 ((tget r.1 k).getD (List.replicate e 0)))) s
  { s := s1, met := r.2.1, skipped := r.2.2, outs := [(b.f 0x28 0 64, 4 * e * nbag)] }

/-- One element ranks above another in TOPK. -/
def hAbove (t : ElemType) (a b : Nat) : Bool :=
  match t.cls with
  | .F => Val.lt true ((tyFmt t).value b) ((tyFmt t).value a)
  | _ => decide (tyInt t b < tyInt t a)

/-- Insert an element behind those that rank no lower. -/
def hInsert (t : ElemType) (x : Nat × Nat) : List (Nat × Nat) → List (Nat × Nat)
  | [] => [x]
  | y :: r => if hAbove t x.2 y.2 then x :: y :: r else y :: hInsert t x r

/-- HSCAN. -/
def State.runScan (s : State) (h : Hcp) (b : HBlock) : HDone :=
  let t := b.fmt
  let n := b.f 0x10 32 32
  let src := b.f 8 0 64
  let els := (List.range n).filterMap fun i =>
    let v := s.hGet h (src + b.eb * i) b.eb
    if v.2 ≠ 0 ∨ (t.cls = .F ∧ (tyVal t v.1).code?.isSome) then none else some (i, v.1)
  let cmp := match b.f 0x18 32 3 with | 0 => 0x22 | 1 => 0x23 | 2 => 0x24 | 3 => 0x25 | 4 => 0x20 | _ => 0x21
  let hits := if b.mode = 0 then els.filter fun p => vCompare cmp t p.2 (b.f 0x18 0 32 % 2 ^ t.width) else els.foldl (fun l p => hInsert t p l) []
  let recs := ((hits.take b.scanOut).map fun p => (b.f 0x10 0 32 + p.1) % 2 ^ 32 + p.2 * 2 ^ 32) ++
    (if b.mode = 0 then [] else List.replicate (b.scanOut - hits.length) 0xFFFFFFFF)
  let s1 := recs.zipIdx.foldl (fun s p => s.hPut h (b.f 0x20 0 64 + 8 * p.2) 8 p.1) s
  { s := s1.hPut h (b.f 0x30 0 64) 8 hits.length, met := s.poisonIn h src (n * b.eb)
    outs := [(b.f 0x20 0 64, 8 * recs.length), (b.f 0x30 0 64, 8)] }

-- DEDUCED, unsafe: log entry 52.
-- DEDUCED, unsafe: log entry 85.
/-- HCOPY: pieces of at most 64 bytes in order, each read after the earlier ones are written; a piece with a poisoned byte
writes poisoned lines. -/
def State.runCopy (s : State) (h : Hcp) (b : HBlock) : HDone :=
  let len := b.f 0x18 0 32
  (List.range (b.f 0x18 32 32)).foldl (fun a r =>
    (List.range ((len + 63) / 64)).foldl (fun (a : HDone) i =>
      let n := min 64 (len - 64 * i)
      let src := b.copyAt false r + 64 * i
      let dst := b.copyAt true r + 64 * i
      let v := a.s.hGet h src n
      let s1 := a.s.hPut h dst n v.1
      let bad := (((List.range n).filter fun j => v.2 / 2 ^ j % 2 = 1).map fun j => (dst + j) / 64 * 64).eraseDups
      { a with s := bad.foldl State.poisonLine s1, met := a.met ++ a.s.poisonIn h src n, bad := a.bad ++ bad }) a)
    { s := s, outs := (List.range (b.f 0x18 32 32)).map fun r => (b.copyAt true r, len) }

end Sys2Proof.Machine
end

