-- ==== Sys2Proof/Machine/Sync.lean ====
section
/-! DEFINITION. Words of majors 0x2B to 0x33 that act through queues and sync engines: stream-engine words (R207, R208),
FENCE and AFENCE (R220, R221), atomics and reductions (R231-R234), semaphores, waits, barriers, user interrupts and LNCH
(R236-R247), and hasp words (R322, R331-R334). -/
namespace Sys2Proof.Machine

/-! ## Shared operations -/

/-- Hold a word while its registers are held; then its encoding causes, then HASP_ILLEGAL inside a hasp task (R51, R328). -/
def sGuard (s : State) (regs : List Nat) (enc : Option (Nat × W64)) (k : Res) : Res :=
  if s.held regs then .next s
  else match enc with
    | some (cause, tval) => trapRes s cause tval
    | none =>
      if (s.ctx s.curM s.curX).hasp.state = .active then trapRes s Cause.haspIllegal (s.core.pc.setWidth 64) else k

/-- RES_OPERAND at a bit position. -/
def resOp (bad : Bool) (bit : Nat) : Option (Nat × W64) := if bad then some (Cause.resOperand, bitTval bit) else none

/-- Least cycles between a meadow's die and an engine (R396). -/
def transit (die home : Nat) : Nat := if die = home then 45 else 105

/-- A request leaves for the home engine of an address. -/
def State.send (s : State) (c x id : Nat) (op : SyncOp) (p : Part) (sc : Scope) (rel : Option Reach) (ring : List Part) : State :=
  let (ix, s1) := s.freshIx
  let home := homeDie p.va
  s1.modEng home fun e => { e with reqs := e.reqs ++ [
    { id := id, op := op, va := p.va, pa := p.pa, key := p.key, scope := sc, coord := c, ctx := x, region := (s.mdw c).region.getD 0, kind := p.kind,
      reach := (s.ctx c x).reachOf .s id, rel := rel, ring := ring, at_ := s.gtc + transit (c / 256) home + Config.excess ix }] }

/-- A word that sends a request and goes on (R231-R236, R241): alignment, the window, then the request. `slot` reserves an
entry of the atomic-return queue, for which the word waits (R234). -/
def syncGo (align bytes : Nat) (want : Want) (slot rel : Bool) (op : Nat → SyncOp) (sc : Scope) (ic : BitVec 2) (ra : BitVec 5) (s : State) : Res :=
  let c := s.curM
  let x := s.curX
  let k := s.ctx c x
  let va := (k.sc.getD ra.toNat).toNat
  if slot && decide (32 ≤ k.arq.length) then .next s
  else if va % align ≠ 0 then trapRes s Cause.atomAlign (BitVec.ofNat 64 va)
  else match s.access (s.mdw c) want [(va, bytes)] with
    | .trap cause tval => trapRes s cause tval
    | .gone pa => .fault (.unbacked pa)
    | .ok ps => match ps with
      | [] => .next s
      | p :: _ =>
        let (id, s1) := s.nextSeq
        let s2 := s1.setCore (k.sc.advance ic s.clock)
        let s3 := s2.send c x id (op id) p sc (if rel then some (k.reachOf .s id) else none) []
        .next (if slot then s3.modCtx c x fun k => { k with arq := k.arq ++ [{ id := id }] } else s3)

/-- A word that holds its S-stream for an answer (R237, R247): `check` judges it before its request is sent, `done` is its
issue once the answer is there. -/
def syncWait (ic : BitVec 2) (check : Option (Nat × W64)) (bytes : Nat) (want : Want) (va : Nat) (sc : Scope) (rel : Bool)
    (op : Nat → SyncOp) (ring : Option (Nat × Nat)) (s : State) : Res :=
  let c := s.curM
  let x := s.curX
  let k := s.ctx c x
  match k.sWait with
  | some w =>
    match w.answer with
    | none => .next s
    | some (.ok _) => .next ((s.setCore (k.sc.advance ic s.clock)).modCtx c x fun k => { k with sWait := none })
    | some (.trap cause tval) => .next ((s.modCtx c x fun k => { k with sWait := none }).raise cause tval)
  | none =>
    match check with
    | some (cause, tval) => trapRes s cause tval
    | none =>
      match s.access (s.mdw c) want [(va, bytes)] with
      | .trap cause tval => trapRes s cause tval
      | .gone pa => .fault (.unbacked pa)
      | .ok ps =>
        let (id, s1) := s.nextSeq
        match ps with
        | [] => .next s
        | p :: _ =>
          let s2 := s1.send c x id (op id) p sc (if rel then some (k.reachOf .s id) else none)
            (match ring with | some (a, n) => (cutPages 4 0 a n).map fun q => q.part (s.mdw c) | none => [])
          .next (s2.modCtx c x fun k => { k with sWait := some { id := id, pc := k.sc.pc } })

/-! ## Atomics and reductions (R231-R233) -/

/-- The operand of an ATOM or RED. -/
def atomArg (k : SCore) (wide : Bool) (rb : BitVec 6) : W64 := if wide then k.getD (rb.toNat / 2) else (k.get rb.toNat).setWidth 64
def atomRegs (wide : Bool) (ra : BitVec 5) (rb : BitVec 6) : List Nat := pairRegs ra ++ if wide then [rb.toNat, rb.toNat + 1] else [rb.toNat]

def doAtom (op : Nat) (ret : Bool) (ic : BitVec 2) (sg wide : Bool) (sc : Scope) (ra : BitVec 5) (rb : BitVec 6) (s : State) : Res :=
  let n := if wide then 8 else 4
  let a := atomArg s.core wide rb
  sGuard s (atomRegs wide ra rb) none
    (syncGo n n .atomic ret false (fun id => .atom op sg wide a (if ret then some id else none)) sc ic ra s)

def execAtomAdd (ic : BitVec 2) (sg wide : Bool) (sc : Scope) (ra : BitVec 5) (rb : BitVec 6) (s : State) : Res := doAtom 0 true ic sg wide sc ra rb s
def execAtomAnd (ic : BitVec 2) (sg wide : Bool) (sc : Scope) (ra : BitVec 5) (rb : BitVec 6) (s : State) : Res := doAtom 1 true ic sg wide sc ra rb s
def execAtomOr (ic : BitVec 2) (sg wide : Bool) (sc : Scope) (ra : BitVec 5) (rb : BitVec 6) (s : State) : Res := doAtom 2 true ic sg wide sc ra rb s
def execAtomXor (ic : BitVec 2) (sg wide : Bool) (sc : Scope) (ra : BitVec 5) (rb : BitVec 6) (s : State) : Res := doAtom 3 true ic sg wide sc ra rb s
def execAtomMin (ic : BitVec 2) (sg wide : Bool) (sc : Scope) (ra : BitVec 5) (rb : BitVec 6) (s : State) : Res := doAtom 4 true ic sg wide sc ra rb s
def execAtomMax (ic : BitVec 2) (sg wide : Bool) (sc : Scope) (ra : BitVec 5) (rb : BitVec 6) (s : State) : Res := doAtom 5 true ic sg wide sc ra rb s
def execAtomSwap (ic : BitVec 2) (sg wide : Bool) (sc : Scope) (ra : BitVec 5) (rb : BitVec 6) (s : State) : Res := doAtom 6 true ic sg wide sc ra rb s
def execRedAdd (ic : BitVec 2) (sg wide : Bool) (sc : Scope) (ra : BitVec 5) (rb : BitVec 6) (s : State) : Res := doAtom 0 false ic sg wide sc ra rb s
def execRedAnd (ic : BitVec 2) (sg wide : Bool) (sc : Scope) (ra : BitVec 5) (rb : BitVec 6) (s : State) : Res := doAtom 1 false ic sg wide sc ra rb s
def execRedOr (ic : BitVec 2) (sg wide : Bool) (sc : Scope) (ra : BitVec 5) (rb : BitVec 6) (s : State) : Res := doAtom 2 false ic sg wide sc ra rb s
def execRedXor (ic : BitVec 2) (sg wide : Bool) (sc : Scope) (ra : BitVec 5) (rb : BitVec 6) (s : State) : Res := doAtom 3 false ic sg wide sc ra rb s
def execRedMin (ic : BitVec 2) (sg wide : Bool) (sc : Scope) (ra : BitVec 5) (rb : BitVec 6) (s : State) : Res := doAtom 4 false ic sg wide sc ra rb s
def execRedMax (ic : BitVec 2) (sg wide : Bool) (sc : Scope) (ra : BitVec 5) (rb : BitVec 6) (s : State) : Res := doAtom 5 false ic sg wide sc ra rb s

/-- ACAS: 32-bit compare s(2N) and new s(2N+1); 64-bit compare d(2N) and new d(2N+1) with rb = 4N (R231). -/
def execAcas (ic : BitVec 2) (_sg wide : Bool) (sc : Scope) (ra : BitVec 5) (rb : BitVec 6) (s : State) : Res :=
  let k := s.core
  let b := rb.toNat
  let cmp : W64 := if wide then k.getD (b / 2) else (k.get b).setWidth 64
  let new : W64 := if wide then k.getD (b / 2 + 1) else (k.get (b + 1)).setWidth 64
  let n := if wide then 8 else 4
  sGuard s (pairRegs ra ++ (if wide then [b, b + 1, b + 2, b + 3] else [b, b + 1])) none
    (syncGo n n .atomic true false (fun id => .cas wide cmp new id) sc ic ra s)

def doFred (op : Nat) (ic : BitVec 2) (ty : FredType) (sc : Scope) (ra : BitVec 5) (rb : BitVec 6) (s : State) : Res :=
  sGuard s (pairRegs ra ++ [rb.toNat]) none (syncGo 4 4 .atomic false false (fun _ => .fred op ty (s.core.get rb.toNat)) sc ic ra s)

def execFredAdd (ic : BitVec 2) (ty : FredType) (sc : Scope) (ra : BitVec 5) (rb : BitVec 6) (s : State) : Res := doFred 0 ic ty sc ra rb s
def execFredMin (ic : BitVec 2) (ty : FredType) (sc : Scope) (ra : BitVec 5) (rb : BitVec 6) (s : State) : Res := doFred 4 ic ty sc ra rb s
def execFredMax (ic : BitVec 2) (ty : FredType) (sc : Scope) (ra : BitVec 5) (rb : BitVec 6) (s : State) : Res := doFred 5 ic ty sc ra rb s

/-- APOP (R234): an empty queue raises ARQ_EMPTY; a marked head is removed and its cause raised. -/
def execApop (ic : BitVec 2) (rd : BitVec 5) (s : State) : Res :=
  let c := s.curM
  let x := s.curX
  let k := s.ctx c x
  sGuard s (pairRegs rd) none
    (match k.arq with
     | [] => trapRes s Cause.arqEmpty 0
     | e :: rest =>
       match e.mark, e.val with
       | some cause, _ => .next ((s.modCtx c x fun k => { k with arq := rest }).raise cause e.tval)
       | none, some v => .next (s.modCtx c x fun k =>
           { k with arq := rest, sc := (k.sc.advance ic s.clock).pushD rd.toNat (s.clock + 1) v })
       | none, none => .next s)

/-! ## Semaphores, rings and barriers (R236-R242) -/

/-- SEMS releases, then adds; it never holds (R236). -/
def execSems (ic : BitVec 2) (sc : Scope) (ra : BitVec 5) (rb : BitVec 6) (s : State) : Res :=
  sGuard s (pairRegs ra ++ [rb.toNat]) none (syncGo 4 4 .atomic false true (fun _ => .sems (s.core.get rb.toNat)) sc ic ra s)

/-- An address that is not aligned raises ATOM_ALIGN. -/
def alignCheck (va n : Nat) : Option (Nat × W64) := if va % n ≠ 0 then some (Cause.atomAlign, BitVec.ofNat 64 va) else none

def execSemw (ic : BitVec 2) (sc : Scope) (ra rb : BitVec 5) (s : State) : Res :=
  let k := s.core
  let va := (k.getD ra.toNat).toNat
  sGuard s (pairRegs ra ++ pairRegs rb) none
    (syncWait ic (alignCheck va 4) 4 { read := true, resident := true } va sc false
      (fun id => .semw (k.get (2 * rb.toNat)) (k.get (2 * rb.toNat + 1)).toNat id) none s)

-- DESIGN CHOICE, unsafe: log entry 95.
/-- WAITQ (R239): k is 1 to 2^23. A descriptor in an entry that is not resident traps with NOT_RESIDENT, as SEMW's line does (R236). -/
def doWaitq (space : Bool) (ic : BitVec 2) (sc : Scope) (ra rb : BitVec 5) (s : State) : Res :=
  let k := s.core
  let va := (k.getD ra.toNat).toNat
  let n := (k.get (2 * rb.toNat)).toNat
  sGuard s (pairRegs ra ++ pairRegs rb) ((resOp (va % 64 ≠ 0) 17).or (resOp (n = 0 ∨ 2 ^ 23 < n) 11))
    (syncWait ic none 64 { read := true, resident := true } va sc false (fun id => .waitq space n (k.get (2 * rb.toNat + 1)).toNat id) none s)

def execWaitqData (ic : BitVec 2) (sc : Scope) (ra rb : BitVec 5) (s : State) : Res := doWaitq false ic sc ra rb s
def execWaitqSpace (ic : BitVec 2) (sc : Scope) (ra rb : BitVec 5) (s : State) : Res := doWaitq true ic sc ra rb s

/-- BARI: EXPECT is 1 to 65,535 (R241). -/
def execBari (ic : BitVec 2) (sc : Scope) (ra : BitVec 5) (rb : BitVec 6) (s : State) : Res :=
  let e := s.core.get rb.toNat
  sGuard s (pairRegs ra ++ [rb.toNat]) (resOp (e = 0 ∨ 65535 < e.toNat) 11)
    (syncGo 64 64 .atomic false false (fun _ => .bari (e.setWidth 16)) sc ic ra s)

def execBarv (ic : BitVec 2) (sc : Scope) (ra : BitVec 5) (s : State) : Res :=
  sGuard s (pairRegs ra) none (syncGo 64 64 .atomic true true (fun id => .barv false id) sc ic ra s)
def execBard (ic : BitVec 2) (sc : Scope) (ra : BitVec 5) (s : State) : Res :=
  sGuard s (pairRegs ra) none (syncGo 64 64 .atomic true true (fun id => .barv true id) sc ic ra s)
def execBarx (ic : BitVec 2) (sc : Scope) (ra : BitVec 5) (rb : BitVec 6) (s : State) : Res :=
  sGuard s (pairRegs ra ++ [rb.toNat]) none (syncGo 64 64 .atomic false false (fun _ => .barx (s.core.get rb.toNat)) sc ic ra s)
def execBart (ic : BitVec 2) (sc : Scope) (ra : BitVec 5) (rb : BitVec 6) (s : State) : Res :=
  sGuard s (pairRegs ra ++ [rb.toNat]) none (syncGo 64 64 .atomic false true (fun _ => .bart (s.core.get rb.toNat)) sc ic ra s)

def execBarw (ic : BitVec 2) (sc : Scope) (ra rb : BitVec 5) (s : State) : Res :=
  let k := s.core
  let va := (k.getD ra.toNat).toNat
  sGuard s (pairRegs ra ++ pairRegs rb) none
    (syncWait ic (alignCheck va 64) 64 .atomic va sc false (fun id => .barw (k.get (2 * rb.toNat)) (k.get (2 * rb.toNat + 1)).toNat id) none s)

/-! ## User interrupts (R243-R245) -/

/-- UIEN: EN at issue + 1. -/
def execUien (ic : BitVec 2) (ra : BitVec 6) (s : State) : Res :=
  let v := s.core.get ra.toNat
  sGuard s [ra.toNat] (resOp (1 < v.toNat) 17)
    (.next ((s.setCore (s.core.advance ic s.clock)).modMdw s.curM fun m => m.addLate s.gtc 5 (.uien s.curX (v.getLsbD 0))))

/-- s56-s63 and their shadow copies change places (R244, R245). -/
def Ctx.swapShadow (k : Ctx) : Ctx :=
  let rs := List.range 8
  { k with
    sc := rs.foldl (fun c i => c.set (56 + i) (tgetD k.shadow i 0)) k.sc
    shadow := rs.foldl (fun t i => tputD t i (k.sc.get (56 + i)) 0) k.shadow }

/-- The return from a user-interrupt handler. -/
def execUiret (ic : BitVec 2) (s : State) : Res :=
  let c := s.curM
  let x := s.curX
  let k := s.ctx c x
  sGuard s [] none
    (let uepc : W32 := k.uistat.extractLsb' 32 32
     if k.uistat.getLsbD 2 = false then trapRes s Cause.uiState 0
     else if uepc.toNat % 4 ≠ 0 then trapRes s Cause.fetchAlign (uepc.setWidth 64)
     else .next (s.modCtx c x fun k =>
        let k1 := k.swapShadow
        { k1 with uistat := setField k.uistat 2 1 0, sc := k1.sc.jump ic s.clock uepc }))

/-! ## LNCH (R247) -/

/-- A read that an S-word makes at its issue must wait for an access ordered before it (R215, R218). -/
def State.ownReadWaits (s : State) (c x : Nat) (ps : List Part) : Bool :=
  s.readBlocked c x { id := s.seq, stream := .s, load := true, parts := partKeys ps, reach := (s.ctx c x).reachOf .s s.seq }

-- DEDUCED, unsafe: log entry 31.
/-- Send a request whose word has issued: the S-stream is held until the answer writes s[rd]. -/
def issueWait (ic : BitVec 2) (rd id : Nat) (s : State) : State :=
  s.modCtx s.curM s.curX fun k => { k with sWait := some { id := id, pc := k.sc.pc, issued := true, rd := rd, ic := ic } }

-- DEDUCED, unsafe: log entry 45.
-- DESIGN CHOICE, unsafe: log entry 95.
/-- LNCH: the record image's 64 bytes are read at issue, behind the accesses that are ordered before it (R215), and the append is one operation of
the ring's home engine. An image in an entry that is not resident traps with NOT_RESIDENT. -/
def execLnch (ic : BitVec 2) (rd : BitVec 6) (ra rb : BitVec 5) (s : State) : Res :=
  let c := s.curM
  let x := s.curX
  let m := s.mdw c
  let k := m.ctx x
  let img := (k.sc.getD ra.toNat).toNat
  let ring := (k.sc.getD rb.toNat).toNat
  if k.sWait.isSome then .next s else
  sGuard s (rd.toNat :: pairRegs ra ++ pairRegs rb) ((resOp (img % 64 ≠ 0) 17).or (resOp (ring % 64 ≠ 0) 11))
    (match s.access m { read := true, resident := true } [(img, 64)], s.access m .atomic [(ring, 64)] with
     | .trap cause tval, _ => trapRes s cause tval
     | .gone pa, _ => .fault (.unbacked pa)
     | .ok _, .trap cause tval => trapRes s cause tval
     | .ok _, .gone pa => .fault (.unbacked pa)
     | .ok ip, .ok rp =>
       if s.ownReadWaits c x ip then .next s else
       let s := s.scrubParts ip
       let rec_ := s.readParts ip
       if rec_.2.1 ≠ 0 then trapRes s Cause.poisonUse (BitVec.ofNat 64 img)
       else match rp with
         | [] => .next s
         | p :: _ =>
           let (id, s1) := s.nextSeq
           .next ((issueWait ic rd.toNat id s1).send c x id (.lnch (BitVec.ofNat 512 rec_.1) id) p .pkg (some (k.reachOf .s id)) []))

/-! ## The stream engine's words (R207, R208) -/

/-- SEW: a shadow register at issue + 1; only later words of this S-stream read it. -/
def execSew (ic : BitVec 2) (n : BitVec 3) (ra : BitVec 5) (s : State) : Res :=
  let k := s.core
  sGuard s (pairRegs ra) none
    (.next ((s.setCore (k.advance ic s.clock)).modCtx s.curM s.curX fun t => { t with se := { t.se with shadow := tputD t.se.shadow n.toNat (k.getD ra.toNat) 0 } }))

/-- Command slots in use. -/
def SEState.used (e : SEState) : Nat := e.queue.length + if e.run.isSome then 1 else 0

/-- SEGO push: waits for a free command slot, copies se0-se7 and releases the context's earlier accesses. -/
def execSego (ic : BitVec 2) (sc : Scope) (s : State) : Res :=
  let c := s.curM
  let x := s.curX
  let k := s.ctx c x
  let d := (List.range 8).map fun i => tgetD k.se.shadow i 0
  sGuard s [] none
    (if 16 ≤ k.se.used then .next s
     else .next ((s.setCore (k.sc.advance ic s.clock)).modCtx c x fun t =>
       { t with se := { t.se with queue := t.se.queue ++ [{ d := d, scope := sc, rel := k.reachOf .s s.seq }] } }))

/-- SEGO resume: the halted command restarts at its failing granule; with no halted head it has no effect. -/
def execSegoResume (ic : BitVec 2) (_sc : Scope) (s : State) : Res :=
  sGuard s [] none
    (.next ((s.setCore (s.core.advance ic s.clock)).modCtx s.curM s.curX fun t =>
      match t.se.run with
      | some r => if r.halted.isSome ∧ !r.done then { t with se := { t.se with run := some { r with halted := none, started := false } } } else t
      | none => t))

/-- A result entry (R207). -/
def seResult (tag : BitVec 16) (status value : Nat) : W64 := BitVec.ofNat 64 (tag.toNat * 2 ^ 48 + status * 2 ^ 40 + value % 2 ^ 32)

def SERun.tag (r : SERun) : BitVec 16 := ((r.d[0]?).getD 0).extractLsb' 32 16

/-- SEGO drop: the halted command is removed and its DROPPED entry pushed. -/
def execSegoDrop (ic : BitVec 2) (_sc : Scope) (s : State) : Res :=
  sGuard s [] none
    (.next ((s.setCore (s.core.advance ic s.clock)).modCtx s.curM s.curX fun t =>
      match t.se.run with
      | some r => if r.halted.isSome ∧ !r.done then
          { t with se := { t.se with run := some { r with done := true, owe := r.owe ++ [(seResult r.tag 5 r.moved, false)] } } } else t
      | none => t))

/-- SEPOP: waits for a result entry. -/
def execSepop (ic : BitVec 2) (rd : BitVec 5) (s : State) : Res :=
  let c := s.curM
  let x := s.curX
  sGuard s (pairRegs rd) none
    (match (s.ctx c x).se.results with
     | [] => .next s
     | e :: rest => .next (s.modCtx c x fun k =>
         { k with se := { k.se with results := rest }, sc := (k.sc.advance ic s.clock).pushD rd.toNat (s.clock + 1) e }))

/-- SECHAIN: a chain token. -/
def execSechain (ic : BitVec 2) (sc : Scope) (ra : BitVec 5) (s : State) : Res :=
  let c := s.curM
  let x := s.curX
  let k := s.ctx c x
  let a := k.sc.getD ra.toNat
  sGuard s (pairRegs ra) (resOp (a.toNat % 64 ≠ 0) 17)
    (if 16 ≤ k.se.used then .next s
     else .next ((s.setCore (k.sc.advance ic s.clock)).modCtx c x fun t =>
       { t with se := { t.se with queue := t.se.queue ++ [{ d := [], chain := some a, scope := sc, rel := k.reachOf .s s.seq }] } }))

/-! ## FENCE and AFENCE (R220, R221) -/

-- DEDUCED, safe: log entry 33.
/-- FENCE: ORDER 00 raises RES_OPERAND; else it holds until its conditions hold. On an HCP it orders the HCP's own accesses,
of which only stores can be outstanding when a word issues (R252). -/
def execFence (ic : BitVec 2) (un rc : Bool) (ord : BitVec 2) (sc : Scope) (s : State) : Res :=
  if ord = 0 then trapRes s Cause.resOperand (bitTval 4)
  else match s.cur with
    | .stream c x _ =>
      let a := s.unreleased c x ((s.ctx c x).reachOf .s s.seq) rc un sc
      if (ord.getLsbD 1 && !a.isEmpty) || (ord.getLsbD 0 && a.any (·.load)) then .next s else sIssue s ic [] id
    | .hcp h => if ord.getLsbD 1 && !(s.hcp h).stores.isEmpty then .next s else sIssue s ic [] id
    | .device => .next s

/-- Two window entries lie in one alias group (R221). -/
def sameGroup (m : Meadow) (e f : Nat) : Bool :=
  let g := eAlias (tgetD m.window e 0)
  e == f || (g != 0 && eAlias (tgetD m.window f 0) == g)

def inGroup (m : Meadow) (e va : Nat) : Bool := match vaEntry va with | some (f, _, _) => sameGroup m e f | none => false

/-- AFENCE: waits like a full fence for the accesses to the group's pages, then both engines write back and give up the group's
lines. -/
def execAfence (ic : BitVec 2) (ra : BitVec 5) (sc : Scope) (s : State) : Res :=
  let c := s.curM
  let x := s.curX
  let m := s.mdw c
  let k := m.ctx x
  let va := k.sc.getD ra.toNat
  sGuard s (pairRegs ra) none
    (match vaEntry va.toNat with
     | none => trapRes s Cause.winRange va
     | some (e, _, _) =>
       let a := (s.unreleased c x (k.reachOf .s s.seq) true true sc).filter fun a => a.parts.any fun p => inGroup m e p.1
       if !a.isEmpty then .next s
       else
         let s1 := [0, 1].foldl (fun s d => ((s.eng d).lines.filter fun h => inGroup m e h.va).foldl (fun s h => s.evict d h) s) s
         .next (s1.setCore (k.sc.advance ic s.clock)))

/-! ## Hasps (R322-R334) -/

/-- The age key of a context's task as sets hold it. -/
def AgeKey.older (a b : AgeKey) : Bool :=
  decide (a.g < b.g) || (a.g == b.g && (decide (a.coord < b.coord) || (a.coord == b.coord && decide (a.ctx < b.ctx))))

/-- Put the undo records of a task back, newest first, and drop them (R326). -/
def State.undoLog (s : State) (d : Nat) (age : AgeKey) : State :=
  let mine := (s.eng d).log.filter fun u => u.owner = age
  let s1 := mine.reverse.foldl (fun s u => s.arrayWrite u.va u.pa u.key u.data (BitVec.allOnes 64)) s
  s1.modEng d fun e => { e with log := e.log.filter fun u => u.owner ≠ age }

/-- A restart that waits for the release of one of these sets goes on, in a saved image too (R323, R331). -/
def Meadow.noticeRelease (m : Meadow) (ws : List (Nat × Nat × Nat)) : Meadow :=
  { m with ctxs := m.ctxs.map fun k => (k.1, { k.2 with hasp := { k.2.hasp with waitSet := k.2.hasp.waitSet.filter fun w => !ws.contains w } }) }
def State.noticeRelease (s : State) (ws : List (Nat × Nat × Nat)) : State :=
  if ws = [] then s
  else { s with meadows := s.meadows.map (fun m => (m.1, m.2.noticeRelease ws)), saved := s.saved.map fun v => { v with mdw := v.mdw.noticeRelease ws } }

/-- The sets of a task become free. -/
def State.freeSets (s : State) (d : Nat) (age : AgeKey) : State :=
  let mine := (s.eng d).sets.filter fun t => t.owner = some age
  (s.modEng d fun e => { e with sets := e.sets.map fun t => if t.owner = some age then { t with owner := none, committing := false } else t }).noticeRelease
    (mine.map fun t => (d, t.region, t.ident))

/-- The engines undo a task (R326): its writes are put back, its sets become free, its unperformed stores are dropped and its
loads go on as plain loads. -/
def State.haspUndo (s : State) (c x : Nat) : State :=
  let age := (s.ctx c x).hasp.age
  let s1 := [0, 1].foldl (fun s d => (s.undoLog d age).freeSets d age) s
  s1.modCtx c x fun k => { k with
    stores := k.stores.filter fun p => !p.hasp
    landing := k.landing.map fun l => { l with hasp := false } }

/-- A rollback begins: the engines undo the task, and its registers wait for its loads (R326, R327). -/
def State.haspRoll (s : State) (c x : Nat) (why : RollWhy) (waitSet : Option (Nat × Nat × Nat)) : State :=
  (s.haspUndo c x).modCtx c x fun k => { k with hasp := { k.hasp with roll := some why, waitSet := waitSet, committing := false } }

-- DEDUCED, unsafe: log entry 54.
/-- The registers, the state and the counter after a rollback (R327). -/
def Ctx.haspRestore (k : Ctx) (why : RollWhy) (mtc : Nat) : Ctx :=
  let sc := { k.sc with regs := k.hasp.snap, pend := [], pc := k.hasp.tbpc, nextAt := mtc + 3 }
  match why with
  | .restart => { k with sc := sc, hasp := { k.hasp with state := .restart, roll := none } }
  | .capacity => { k with sc := { sc with pc := k.hasp.tbpc + 4 }.set k.hasp.rd 0x80007FFF#32, hasp := { k.hasp with state := .none, roll := none } }
  | .abort code => { k with sc := { sc with pc := k.hasp.tbpc + 4 }.set k.hasp.rd (BitVec.ofNat 32 (0x80000000 + code)), hasp := { k.hasp with state := .none, roll := none } }

-- DEDUCED, unsafe: log entry 45.
/-- HSPDECL: checked at issue, then the S-stream is held until the set's engine answers (R322). -/
def execHspdecl (ic : BitVec 2) (ra : BitVec 5) (rb : BitVec 6) (s : State) : Res :=
  let c := s.curM
  let x := s.curX
  let m := s.mdw c
  let k := m.ctx x
  let va := (k.sc.getD ra.toNat).toNat
  let w := k.sc.get rb.toNat
  if k.sWait.isSome then .next s else
  sGuard s (rb.toNat :: pairRegs ra) ((resOp (va % 64 ≠ 0) 17).or (resOp (getField w 28 3 ≠ 0) 11))
    (match s.access m { read := true, write := true, resident := true } [(va, if w.getLsbD 31 then 64 else 64 * (getField w 0 16 + 1))] with
     | .trap cause tval => trapRes s cause tval
     | .gone pa => .fault (.unbacked pa)
     | .ok ps => match ps with
       | [] => .next s
       | p :: _ =>
         let (id, s1) := s.nextSeq
         .next ((issueWait ic 0 id s1).send c x id (.hspdecl w id) p .pkg none []))

-- DEDUCED, unsafe: log entry 54.
/-- TBEGIN (R331): a restart of a task that has yielded waits until its WAITSET has been released. -/
def execTbegin (ic : BitVec 2) (rd : BitVec 6) (s : State) : Res :=
  let c := s.curM
  let x := s.curX
  let k := s.ctx c x
  let h := k.hasp
  if s.held [rd.toNat] then .next s
  else if h.state = .active then trapRes s Cause.haspState 1
  else if h.state = .restart ∧ k.sc.pc = h.tbpc then
    if h.waitSet.isSome then .next s
    else
      let n := min (h.restarts + 1) 0x7FFF
      .next (s.modCtx c x fun k => { k with
        sc := (k.sc.advance ic s.clock).push rd.toNat (s.clock + 1) (BitVec.ofNat 32 n)
        hasp := { h with state := .active, rd := rd.toNat, restarts := n, waitSet := none } })
  else
    .next (s.modCtx c x fun k => { k with
      sc := (k.sc.advance ic s.clock).push rd.toNat (s.clock + 1) 0
      hasp := { state := .active, age := ⟨s.gtc, c, x⟩, tbpc := k.sc.pc, rd := rd.toNat, restarts := 0, snap := k.sc.regs } })

/-- Steps 3 and 4 of TEND: the log is discarded, every set released, and the S-stream goes on. -/
def State.commitHasp (s : State) (c x : Nat) : State :=
  let h := (s.ctx c x).hasp
  let s1 := [0, 1].foldl (fun s d => (s.freeSets d h.age).modEng d fun e => { e with log := e.log.filter fun u => u.owner ≠ h.age }) s
  s1.modCtx c x fun k => { k with sc := k.sc.advance h.ic (s.mdw c).mtc, hasp := { k.hasp with state := .none, committing := false } }

/-- Everything that TEND releases is performed. -/
def State.tendDone (s : State) (c x : Nat) : Bool := s.released c x ((s.ctx c x).reachOf .s s.seq) .pkg

/-- A marked task commits as soon as its accesses are performed, in a frozen cycle too (R332, R336). -/
def State.settleTend (s : State) (c x : Nat) : State :=
  let h := (s.ctx c x).hasp
  if h.state = .active ∧ h.committing ∧ h.roll = none ∧ s.tendDone c x then s.commitHasp c x else s

-- DEDUCED, unsafe: log entry 54.
/-- TEND (R332): once its engines have judged the task's accesses it marks the sets; the task commits when all is performed. -/
def execTend (ic : BitVec 2) (s : State) : Res :=
  let c := s.curM
  let x := s.curX
  let k := s.ctx c x
  let age := k.hasp.age
  if k.hasp.state ≠ .active then trapRes s Cause.haspState 2
  else if (s.openAccs c x).any (·.hasp) then .next s
  else
    let s1 := [0, 1].foldl (fun s d => s.modEng d fun e => { e with sets := e.sets.map (fun t =>
      if t.owner = some age then { t with committing := true } else t) }) s
    .next ((s1.modCtx c x fun k => { k with hasp := { k.hasp with committing := true, ic := ic } }).settleTend c x)

/-- TABORT (R333): the task is rolled back and ended with its code. -/
def execTabort (ic : BitVec 2) (ra : BitVec 6) (s : State) : Res :=
  let c := s.curM
  let x := s.curX
  let k := s.ctx c x
  let v := (k.sc.get ra.toNat).toNat
  if s.held [ra.toNat] then .next s
  else if v = 0x7FFF ∨ 2 ^ 15 ≤ v then trapRes s Cause.resOperand (bitTval 17)
  else if k.hasp.state ≠ .active then trapRes s Cause.haspState 2
  else .next ((s.setCore (k.sc.advance ic s.clock)).haspRoll c x (.abort v) none)

/-- TAGE (R334). -/
def execTage (ic : BitVec 2) (rd : BitVec 5) (s : State) : Res :=
  let h := (s.ctx s.curM s.curX).hasp
  sIssue s ic (pairRegs rd) fun k => k.pushD rd.toNat (s.clock + 1) (if h.state = .none then 0 else BitVec.ofNat 64 h.age.g)

end Sys2Proof.Machine
end

