-- ==== Sys2Proof/Machine/Heath.lean ====
section
/-! DEFINITION. Heath words (R261-R276), the life of an engine command (R262-R265), collective landing (R268, R269), an HCP's
loads and stores (R252) and the end of a kernel (R251). -/
namespace Sys2Proof.Machine

/-! ## Completion of a command (R265) -/

/-- A post leaves for its slot's home engine (R230, R276), behind the HCP's stores that it releases (R265). -/
def State.hPost (s : State) (hcp slot : Nat) (inc : W32) (err : Option W32) : State :=
  match tget (s.hcp hcp).posts slot with
  | none => s
  | some (va, pa, key) =>
    let (id, s1) := s.nextSeq
    let (ix, s2) := s1.freshIx
    s2.modEng (homeDie va) fun e => { e with reqs := e.reqs ++ [
      { id := id, op := .hpost inc err, va := va, pa := pa, key := key, scope := .pkg, coord := 4 * hcp, ctx := 0, heath := true,
        at_ := s.gtc + 1 + Config.excess ix, after := (s.hcp hcp).stores.map (·.id) }] }

/-- The error word of a kernel's post. -/
def Hcp.errWord (h : Hcp) (status : Nat) : W32 := BitVec.ofNat 32 (h.rank * 2 ^ 16 + status)

-- DEDUCED, unsafe: log entry 42.
/-- Tag status, count of failures, and the post. -/
def State.finishCmd (s : State) (hcp : Nat) (b : HBlock) (status detail : Nat) : State :=
  let s1 := s.modHcp hcp fun h => { h with
    status := tput h.status b.tag (BitVec.ofNat 32 (status * 2 ^ 16 + min detail 65535))
    failed := if status = 0 then h.failed else min 65535 (h.failed + 1) }
  if b.posten then s1.hPost hcp b.postIdx b.pinc (if status = 0 then none else some ((s.hcp hcp).errWord status)) else s1

/-! ## Engine command words (R262) -/

/-- Two commands share an engine. -/
def HCmd.shares (a b : HCmd) : Bool :=
  if a.engines == [5] then b.engines == [5] && a.hcp / 2 == b.hcp / 2 else a.hcp == b.hcp && a.engines.any b.engines.contains

/-- An engine of the command has no free entry: 8 handed-on commands wait there. -/
def State.queueFull (s : State) (c : HCmd) : Bool :=
  c.engines.any fun e => decide (8 ≤ (s.hcmds.filter fun q => !q.started && q.shares { c with engines := [e] }).length)

def hEnd (s : State) (h status cause : Nat) : Res := .next (s.modHcp h fun t => t.stopWith status cause)

/-! ## Errors of DRAM lines (R257) -/

-- DEDUCED, unsafe: log entry 28.
/-- The lists that HRED and HWALK read at their push are read by the base die. -/
def State.scrubLists (s : State) (hcp : Nat) (b : HBlock) : State :=
  let n := match b.op with | 1 => b.f 0x10 32 16 | 3 => b.walkPages | _ => 0
  let r : HRange := ⟨b.f 8 0 64, 8 * n, if b.op = 1 then .stack else .listed, b.op == 1⟩
  if s.memClean = true ∨ (r.check hcp (s.hcp hcp)).isSome then s else s.dramScrub r.pa r.len

-- DESIGN CHOICE, unsafe: log entry 95.
/-- An engine command word: bits [63:48] of the pair are not looked at, the block is read, the waits of R262, then a rejection or the hand-over. -/
def hPush (func : Nat) (ic : BitVec 2) (ra : BitVec 5) (s0 : State) : Res :=
  match s0.cur with
  | .hcp h =>
    let t := s0.hcp h
    let pa := (t.sc.getD ra.toNat).toNat % 2 ^ 48
    if s0.held (pairRegs ra) then .next s0
    else if pa % 64 ≠ 0 then hEnd s0 h 1 Cause.resOperand
    else match t.check pa 64 with
      | .error st => hEnd s0 h st 0
      | .ok key =>
        let s1 := s0.dramScrub pa 64
        let r := s1.hRead key pa 64
        if r.2 ≠ 0 then hEnd s1 h 2 0
        else
          let b : HBlock := ⟨(List.range 8).map fun i => BitVec.ofNat 64 (r.1 / 2 ^ (64 * i))⟩
          let s := s1.scrubLists h b
          let c : HCmd := { id := 0, hcp := h, func := func, block := b.w, engines := b.engines, readyAt := 0 }
          let go := s.setCore (t.sc.advance ic s.clock)
          if (tgetD t.status b.tag 0).getLsbD 31 || s.queueFull c then .next s
          else match s.hCheck h func b with
            | .error (st, d) => .next (go.finishCmd h b st d)
            | .ok l =>
              if t.effClass < s.thresh ∨ t.stores ≠ [] then .next s
              else
                let (id, s2) := go.nextSeq
                let (ix, s3) := s2.freshIx
                .next { s3.modHcp h (fun t => { t with status := tput t.status b.tag 0x80000000 }) with
                  hcmds := s.hcmds ++ [{ c with id := id, readyAt := s.hcpCycle + 4 + Config.excess ix, vbuf := l.map (BitVec.ofNat 64 ·),
                                                lim := (t.cols, 2 * t.ns) }] }
  | _ => .next s0

def execHgemv (ic : BitVec 2) (ra : BitVec 5) (s : State) : Res := hPush 0 ic ra s
def execHred (ic : BitVec 2) (ra : BitVec 5) (s : State) : Res := hPush 1 ic ra s
def execHland (ic : BitVec 2) (ra : BitVec 5) (s : State) : Res := hPush 2 ic ra s
def execHwalk (ic : BitVec 2) (ra : BitVec 5) (s : State) : Res := hPush 3 ic ra s
def execHscan (ic : BitVec 2) (ra : BitVec 5) (s : State) : Res := hPush 4 ic ra s
def execHcopy (ic : BitVec 2) (ra : BitVec 5) (s : State) : Res := hPush 5 ic ra s

/-! ## HROW, HFENCE, HWAIT, HSTAT, HPOST (R273-R276) -/

/-- The bank of an arbiter that a place lies in. -/
def Place.bankIx (p : Place) : Nat := p.group * 4 + p.bank

def ArbReq.isArray (r : ArbReq) : Bool := r.kind == .arrayRead || r.kind == .arrayWrite

/-- The 32 entries of the command queue; later requests wait outside (R253). -/
def Arbiter.entries (a : Arbiter) : List ArbReq := a.queue.take 32

/-- End the lease of a bank: the array requests that are queued there are owed (R255). -/
def Bank.endLease (b : Bank) (bank : Nat) (entries : List ArbReq) : Bank :=
  let owed := (entries.filter fun r => r.bank == bank && r.isArray).map (·.id)
  { b with lease := false, heath := b.heath && owed.isEmpty, owed := owed, after := !owed.isEmpty }

-- DESIGN CHOICE, unsafe: log entry 13.
def Arbiter.bankOf (a : Arbiter) (i : Nat) : Bank := tgetD a.banks i {}
def Arbiter.setBank (a : Arbiter) (i : Nat) (b : Bank) : Arbiter := { a with banks := tput a.banks i b }

/-- The HCP's explicit lease ends, or its request is withdrawn (R273). -/
def State.endHrow (s : State) (h : Nat) : State :=
  match (s.hcp h).lease with
  | none => s
  | some (b, r) => (s.modArb h fun a =>
      let q := { a with queue := a.queue.filter fun q => !(q.hrow && q.hcp == h) }
      if (a.bankOf b).lease && (a.bankOf b).openRow == some r then q.setBank b ((a.bankOf b).endLease b q.entries) else q).modHcp h fun t => { t with lease := none }

-- DESIGN CHOICE, unsafe: log entry 95.
/-- HROW: bits [63:48] of the pair are not looked at; the limits, the page, then a heath activate; an earlier explicit lease ends. -/
def execHrow (ic : BitVec 2) (ra : BitVec 5) (rb : BitVec 6) (s : State) : Res :=
  match s.cur with
  | .hcp h =>
    let t := s.hcp h
    let pa := (t.sc.getD ra.toNat).toNat % 2 ^ 48
    let w := t.sc.get rb.toNat
    let cols := getField w 0 7
    let ns := getField w 16 10
    if s.held (rb.toNat :: pairRegs ra) then .next s
    else if getField w 7 9 ≠ 0 ∨ getField w 26 6 ≠ 0 ∨ cols = 0 ∨ 64 < cols ∨ ns = 0 ∨ 512 < ns then hEnd s h 1 Cause.resOperand
    else match (⟨pa, 1, .own, true⟩ : HRange).check h t, placeOf pa with
      | none, some p =>
        let (id, s1) := s.nextSeq
        let s2 := s1.endHrow h
        let s3 := s2.arbPut pa { id := id, kind := .heath, hcp := h, lim := (cols, 2 * ns), hrow := true }
        .next ((s3.setCore (t.sc.advance ic s.clock)).modHcp h fun t => { t with cols := cols, ns := ns, lease := some (p.bankIx, p.row) })
      | some st, _ => hEnd s h st 0
      | none, none => hEnd s h 4 0
  | _ => .next s

/-- Every earlier command has completed, and every store of the HCP is performed. -/
def State.hQuiet (s : State) (h : Nat) : Bool := s.hcmds.all (fun c => c.hcp != h) && (s.hcp h).stores.isEmpty

def execHfence (ic : BitVec 2) (_sc : Scope) (s : State) : Res :=
  match s.cur with
  | .hcp h => if s.hQuiet h then .next (s.setCore (s.core.advance ic s.clock)) else .next s
  | _ => .next s

def execHwait (ic : BitVec 2) (ra : BitVec 6) (s : State) : Res :=
  match s.cur with
  | .hcp h =>
    let t := s.hcp h
    let v := t.sc.get ra.toNat
    if s.held [ra.toNat] then .next s
    else if 2 ^ 16 ≤ v.toNat then hEnd s h 1 Cause.resOperand
    else if (List.range 16).any fun i => v.getLsbD i && (tgetD t.status i 0).getLsbD 31 then .next s
    else .next (s.setCore (t.sc.advance ic s.clock))
  | _ => .next s

def execHstat (ic : BitVec 2) (rd ra : BitVec 6) (s : State) : Res :=
  match s.cur with
  | .hcp h =>
    let t := s.hcp h
    let v := t.sc.get ra.toNat
    if s.held [rd.toNat, ra.toNat] then .next s
    else if 16 ≤ v.toNat then hEnd s h 1 Cause.resOperand
    else .next (s.setCore ((t.sc.advance ic s.clock).push rd.toNat (s.clock + 1) (tgetD t.status v.toNat 0)))
  | _ => .next s

/-- HPOST: holds for its release only. -/
def doHpost (err : Bool) (ic : BitVec 2) (ra rb : BitVec 6) (s : State) : Res :=
  match s.cur with
  | .hcp h =>
    let t := s.hcp h
    let slot := (t.sc.get ra.toNat).toNat
    if s.held [ra.toNat, rb.toNat] then .next s
    else if 7 < slot ∨ (tget t.posts slot).isNone then hEnd s h 1 Cause.resOperand
    else if t.stores ≠ [] then .next s
    else .next ((s.setCore (t.sc.advance ic s.clock)).hPost h slot (t.sc.get rb.toNat) (if err then some (t.errWord 5) else none))
  | _ => .next s

def execHpost (ic : BitVec 2) (_sc : Scope) (ra rb : BitVec 6) (s : State) : Res := doHpost false ic ra rb s
def execHpostErr (ic : BitVec 2) (_sc : Scope) (ra rb : BitVec 6) (s : State) : Res := doHpost true ic ra rb s

/-! ## The log of empty keys (R362) -/

/-- Log the lines met through an EMPTY key slot. -/
def State.logKeys (s : State) (h : Hcp) (lines : List Nat) : State :=
  lines.foldl (fun s l => if (tget s.keys (h.keyAt (64 * l))).isNone then s.logStack Cause.heathKey (64 * l) (((placeOf (64 * l)).map (·.coord)).getD 0) else s) s

/-! ## Heath writes and hasps (R330) -/

/-- A heath write to a line of a held set wounds the holder; the write has waited for a holder that commits. -/
def State.woundPa (s : State) (pa : Nat) : State :=
  match s.heldSetAt pa with
  | some t => if t.committing then s else s.haspRoll t.holder.1 t.holder.2 .restart none
  | none => s

def State.woundRange (s : State) (pa len : Nat) : State :=
  if (s.eng 0).sets = [] ∧ (s.eng 1).sets = [] then s else (lineNos pa len).foldl (fun s l => s.woundPa (64 * l)) s

/-- An access to the line, not performed, entered before the place `ord`: a heath write waits for it (R253). -/
def State.behindLine (s : State) (ord line : Nat) : Bool := s.arrayAhead ord line true || s.heathAhead ord line true

/-! ## Start and completion of a command (R262, R265) -/

/-- What a command reads beside its lists, and what it writes. -/
def State.cmdReads (s : State) (h : Hcp) (b : HBlock) (list : List W64) : List (Nat × Nat) :=
  match b.op with
  | 0 => [(b.wRange.pa, b.wRange.len), (b.sRange.pa, b.sRange.len)] ++ (List.range b.nv).flatMap fun v => [(b.xAt v, 2 * b.cols), (b.yAt v, b.yBytes * b.rows)]
  | 1 => list.map fun a => (a.toNat, b.f 0x10 0 32 * b.eb)
  | 2 => [(b.f 0x18 0 64, if b.f 0x18 0 64 = 0 then 0 else b.f 0x10 0 32 * b.eb)]
  | 3 => (b.f 0x18 0 64, 8 * b.f 0x20 32 32) :: (List.range (b.f 0x20 32 32)).filterMap fun i => (s.walkRow h b list i).map fun a => (a, b.f 0x10 0 16 * b.eb)
  | 4 => [(b.f 8 0 64, b.f 0x10 32 32 * b.eb)]
  | _ => (List.range (b.f 0x18 32 32)).map fun r => (b.copyAt false r, b.f 0x18 0 32)
def HBlock.writes (b : HBlock) : List (Nat × Nat) :=
  match b.op with
  | 0 => (List.range b.nv).map fun v => (b.yAt v, b.yBytes * b.rows)
  | 1 => [(b.f 0x18 0 64, b.f 0x10 0 32 * b.eb)]
  | 3 => [(b.f 0x28 0 64, 4 * b.f 0x10 0 16 * b.f 0x20 0 32)]
  | 4 => [(b.f 0x20 0 64, 8 * b.scanOut), (b.f 0x30 0 64, 8)]
  | 5 => (List.range (b.f 0x18 32 32)).map fun r => (b.copyAt true r, b.f 0x18 0 32)
  | _ => []

/-- The walker serves the two HCPs of a channel in push order, alternately when both wait (R262). -/
def State.walkTurn (s : State) (c : HCmd) : Bool :=
  let wait := s.hcmds.filter fun q => q.engines == [5] && q.hcp / 2 == c.hcp / 2
  if wait.any (·.started) then false
  else
    let mine := wait.find? fun q => q.hcp == c.hcp
    let other := wait.find? fun q => q.hcp != c.hcp
    (mine.map (·.id)) == some c.id && (other.isNone || (if (s.hcp c.hcp).walked then false else (s.hcp (other.map (·.hcp)|>.getD 0)).walked ||
      (wait.head?.map (·.id)) == some c.id))

/-- The command is the next of every engine it uses. -/
def State.cmdNext (s : State) (c : HCmd) : Bool :=
  if c.engines == [5] then s.walkTurn c
  else (s.hcmds.takeWhile fun q => q.id != c.id).all fun q => !q.shares c || (q.func == 2 && q.started)

/-- A landing can be armed: its LID is free and fewer than four are armed on the engine (R268). -/
def State.landFree (s : State) (c : HCmd) : Bool :=
  let mine := s.landings.filter fun l => l.hcp == c.hcp && l.post.isNone
  decide (mine.length < 4) && mine.all fun l => (HBlock.mk l.block).f 0x10 56 8 != (HBlock.mk c.block).f 0x10 56 8

/-- A line takes the bytes and the poison with which a command has read it. -/
def State.seeLine (s : State) (h : Hcp) (g : Nat × Line × Bool) : State :=
  { s with
    mem := Memory.writeN s.mem (64 * g.1) 64 g.2.1.toNat
    lineKey := tput s.lineKey g.1 ((tget s.keys (h.keyAt (64 * g.1))).getD (Config.emptyKey g.1))
    poisoned := if g.2.2 then sortedInsert s.poisoned g.1 else s.poisoned.filter (· != g.1)
    dramErr := tdel s.dramErr g.1
    engines := s.engines.map fun e => (e.1, { e.2 with lines := e.2.lines.filter fun l => l.pa != 64 * g.1 }) }
/-- Memory as a command has read it. -/
def State.asRead (s : State) (c : HCmd) : State := c.got.foldl (fun s g => s.seeLine (s.hcp c.hcp) g) s

def State.modCmd (s : State) (id : Nat) (f : HCmd → HCmd) : State := { s with hcmds := s.hcmds.map fun c => if c.id = id then f c else c }

/-- A command's engine reads a line. -/
def State.readLine (s : State) (id pa : Nat) : State :=
  match s.hcmds.find? (·.id == id) with
  | none => s
  | some c =>
    let s1 := s.dramScrub pa 64
    let d := s1.heathLine pa ((s1.hcp c.hcp).keyAt pa)
    s1.modCmd id fun c => { c with got := c.got ++ [(pa / 64, d.1, d.2)] }

/-! ## Collective landing (R268, R269) -/

def Landing.b (l : Landing) : HBlock := ⟨l.block⟩
def Landing.ranks (l : Landing) : Nat := l.b.f 0x10 32 13
def Landing.lines (l : Landing) : Nat := l.b.f 0x10 0 32 * l.b.eb / 64

/-- The lanes of a contribution. -/
def Landing.lanes (l : Landing) (c : Contrib) : List Nat :=
  let n := 64 / l.b.eb
  if c.poison then List.replicate n (if l.b.mode = 3 then dBits (dInvalid 5) else (tyFmt l.b.fmt).nan 5) else lanesOf l.b.fmt.width n c.data.toNat

/-- The number of node k of level lv of the rank tree. -/
def Landing.node (l : Landing) (lv k : Nat) : Nat :=
  let m := (padTree.pow2 l.ranks).log2
  2 ^ m - 2 ^ (m - lv + 1) + k

-- DESIGN CHOICE, safe: log entry 81.
/-- The merge of two lanes of element e at node h. -/
def Landing.merge (l : Landing) (e h a b : Nat) : Nat :=
  if l.b.mode = 3 then
    let coin (_ : Nat) : Nat := coinOf (l.b.word 5) (2 ^ 31 + 2 ^ 16 * (4 * l.hcp) + e % 2 ^ 16) (BitVec.ofNat 32 (l.b.f 0x30 0 32 + h))
    dBits (drawMerge coin 0 (dOf a) (dOf b))
  else hCombine l.b.fmt l.b.mode a b

-- DESIGN CHOICE, safe: log entry 81.
/-- The value of a line of which all contributions have come: their tree, and in ARRIVAL mode one after the other as they came; there the spec
numbers no node, so a draw's coin is free. -/
def Landing.value (l : Landing) (line : Nat) : Line :=
  let cs := l.got.filter fun c => c.line = line
  let n := 64 / l.b.eb
  let pad := if l.b.mode = 3 then dBits dEmpty else hIdentity l.b.fmt l.b.mode
  let els := (List.range n).map fun i =>
    let e := line * n + i
    let at_ (c : Contrib) : Nat := ((l.lanes c)[i]?).getD 0
    if l.b.f 0 46 1 = 1 then
      match cs with
      | [] => pad
      | c :: t => (t.foldl (fun (a : Nat × Nat) d => (l.merge e (Config.unstated a.2).toNat a.1 (at_ d), a.2 + 1)) (at_ c, 0)).1
    else
      let leaf (r : Nat) : Nat := ((cs.find? fun c => c.rank = r).map at_).getD pad
      padTree (fun lv k => l.merge e (l.node lv k)) pad ((List.range l.ranks).map leaf)
  BitVec.ofNat 512 (packLanes l.b.fmt.width els)

def State.modLanding (s : State) (cmd : Nat) (f : Landing → Landing) : State := { s with landings := s.landings.map fun l => if l.cmd = cmd then f l else l }

def Landing.lineAt (l : Landing) (line : Nat) : Nat := l.b.f 8 0 64 + 64 * line

/-- A line of DST is to be written: its request enters, unless the line is held (R253, R256). -/
def State.landWrite (s : State) (l : Landing) (line : Nat) : State :=
  let lim := ((s.hcmds.find? fun c => c.id = l.cmd).map (·.lim)).getD (64, 1024)
  (s.arbHeath l.cmd l.hcp lim (l.lineAt line) 64).modLanding l.cmd fun q =>
    { q with todo := sortedInsert q.todo line, ords := tput q.ords (l.lineAt line / 64) s.seq }

-- DEDUCED, unsafe: log entry 52.
/-- A line of a landing is held between its first contribution write and the completion post: the conflict is logged, the line is to be
written again behind its recall, and a post on its way carries the status (R223, R256). -/
def State.landConflict (s : State) (l : Landing) (line : Nat) : State :=
  let s1 := if l.hit.contains line then s else s.logStack Cause.landConflict (l.lineAt line) (4 * l.hcp)
  let s2 := s1.modLanding l.cmd fun q => { q with conflict := true, hit := sortedInsert q.hit line, todo := sortedInsert q.todo line }
  match l.post with
  | none => s2
  | some id =>
    let tag (t : Hcp) : Hcp := if (tgetD t.status l.b.tag 0).extractLsb' 16 16 = 0 then
      { t with status := tput t.status l.b.tag 0x60000, failed := min 65535 (t.failed + 1) } else t
    let op (o : SyncOp) : SyncOp := match o with | .hpost inc none => .hpost inc (some ((s.hcp l.hcp).errWord 6)) | o => o
    [0, 1].foldl (fun s d => s.modEng d fun e => { e with reqs := e.reqs.map fun r => if r.id = id then { r with op := op r.op } else r })
      (s2.modHcp l.hcp tag)

/-- A line has become held: landings that have written it are in conflict. -/
def State.landTouch (s : State) (pa : Nat) : State :=
  s.landings.foldl (fun s l =>
    let line := (pa / 64 * 64 - l.b.f 8 0 64) / 64
    if l.b.f 8 0 64 ≤ pa / 64 * 64 ∧ l.written.contains line then s.landConflict l line else s) s

/-- One line that a landing has to write: a held line is recalled first (R256), a task that commits is waited for (R330), and the request's
turn comes (R253). -/
def State.landLine (s : State) (l : Landing) (line : Nat) : State :=
  let pa := l.lineAt line
  if s.committingAt pa then s
  else if s.heldIn pa 64 then ((s.landConflict l line).woundPa pa).recallRange pa 64
  else if !s.lineDone l.cmd (pa / 64) || s.behindLine (tgetD l.ords (pa / 64) s.seq) (pa / 64) then s
  else ((s.woundPa pa).hPut (s.hcp l.hcp) pa 64 (l.value line).toNat).modLanding l.cmd fun q =>
    { q with written := sortedInsert q.written line, todo := q.todo.filter (· != line), hit := q.hit.filter (· != line), ords := tdel q.ords (pa / 64) }

/-- A landing that is disarmed writes the lines whose trees are complete (R384). -/
def State.landFlush (s : State) (l : Landing) : State :=
  l.todo.foldl (fun s i => (s.woundPa (l.lineAt i)).hPut (s.hcp l.hcp) (l.lineAt i) 64 (l.value i).toNat) s

/-- A cycle of the landings: the lines that may be written are. -/
def State.landStep (s : State) : State :=
  s.landings.foldl (fun s l => l.todo.foldl (fun s i => match s.landings.find? fun q => q.cmd = l.cmd with | some q => s.landLine q i | none => s) s) s

-- DESIGN CHOICE, safe: log entry 81.
/-- A contribution reaches an armed landing. -/
def State.landTake (s : State) (l : Landing) (c : Contrib) : State :=
  if l.got.any fun g => g.rank = c.rank ∧ g.line = c.line then s.modLanding l.cmd fun q => { q with dups := q.dups + 1 }
  else
    let l1 : Landing := { l with got := l.got ++ [c], poisoned := l.poisoned + if c.poison then 1 else 0 }
    let s1 := s.modLanding l.cmd fun _ => l1
    let all := (l1.got.filter fun g => g.line = c.line).length = l.ranks
    if all then s1.landWrite l1 c.line else s1

/-- Every line has all of its contributions. -/
def Landing.full (l : Landing) : Bool := decide (l.got.length = l.ranks * l.lines)

/-- A landing that is full lets its command complete. -/
def State.landCheck (s : State) (cmd : Nat) : State :=
  match s.landings.find? fun l => l.cmd = cmd with
  | none => s
  | some l => if l.full then s.modCmd cmd fun c => if c.doneAt = 0 then { c with doneAt := s.hcpCycle + 1 } else c else s

/-- Poisoned DST lines, when the engine reads nothing of DST, are covered whole by the landing's writes. A packet is dropped and
logged where R269 and R391 say so. -/
def execLandingContribution (p : FavexPacket) (s : State) : Res :=
  let hcp := p.dheath.toNat
  let drop := s.logStack Cause.pktDrop 0 (4 * hcp)
  if p.type = 2 then .next s
  else if p.type ≠ 1 ∨ p.dpkg.toNat ≠ getField s.fvxaddr 0 12 then .next drop
  else match s.landings.find? fun l => l.hcp = hcp ∧ l.b.f 0x10 56 8 = p.lid.toNat ∧ l.post = none with
    | none => .next drop
    | some l =>
      if l.ranks ≤ p.rank.toNat then .next drop
      else
        let s1 := [0, 1, 2, 3].foldl (fun (s : State) i =>
          let line := p.line.toNat + i
          if l.lines ≤ line then s.logStack Cause.pktDrop (l.b.f 8 0 64 + 64 * line) (4 * hcp)
          else match s.landings.find? fun q => q.cmd = l.cmd with
            | none => s
            | some q => s.landTake q ⟨p.rank.toNat, line, p.payload.extractLsb' (512 * i) 512, p.poison.getLsbD i⟩) s
        .next (s1.landCheck l.cmd)

/-- A landing is armed, and this package's contribution joins it. -/
def State.arm (s : State) (c : HCmd) : State :=
  let l : Landing := { cmd := c.id, hcp := c.hcp, block := c.block }
  let s1 : State := { s with landings := s.landings ++ [l] }
  let src := l.b.f 0x18 0 64
  let s2 := if src = 0 then s1 else (List.range l.lines).foldl (fun s i =>
    match s.landings.find? fun q => q.cmd = c.id with
    | none => s
    | some q =>
      let d := s.hGet (s.hcp c.hcp) (src + 64 * i) 64
      s.landTake q ⟨l.b.f 0x20 0 13, i, BitVec.ofNat 512 d.1, d.2 != 0⟩) s1
  s2.landCheck c.id

/-! ## Events of a command -/

/-- HEATH_COMMAND_START: the command is the next of its engines. Its engines read what it needs; HLAND arms its landing. -/
def execHeathCommandStart (id : Nat) (s : State) : Res :=
  match s.hcmds.find? (·.id == id) with
  | none => .next s
  | some c =>
    if c.started || decide (s.hcpCycle < c.readyAt) || !s.cmdNext c || (c.func == 2 && !s.landFree c) then .next s
    else
      let b : HBlock := ⟨c.block⟩
      let h := s.hcp c.hcp
      let (ix, s0) := s.freshIx
      let reads := s.cmdReads h b c.vbuf
      let lists := match b.op with | 1 => [(b.f 8 0 64, 8 * b.f 0x10 32 16)] | 3 => [(b.f 8 0 64, 8 * b.walkPages)] | _ => []
      let lines := (lists ++ reads).flatMap fun r => (lineNos r.1 r.2).map (64 * ·)
      let s2 := s0.modCmd id fun c => { c with started := true, doneAt := if c.func = 2 then 0 else s.hcpCycle + 1 + Config.engineTime ix, todo := lines }
      let s3 := if c.engines = [5] then (s2.modHcp (c.hcp / 2 * 2) fun h => { h with walked := c.hcp % 2 == 0 }).modHcp (c.hcp / 2 * 2 + 1) fun h =>
          { h with walked := c.hcp % 2 == 1 } else s2
      .next (if c.func = 2 then s3.arm c else s3)

-- DEDUCED, unsafe: log entry 42.
/-- The result of a command that completes, of the lines that it has read: its writes in memory, and the statuses that apply with their
details. -/
def State.runCmd (s : State) (c : HCmd) : State × List (Nat × Nat) :=
  let b : HBlock := ⟨c.block⟩
  let h := s.hcp c.hcp
  let v := s.asRead c
  let r : HDone := match b.op with
    | 0 => v.runGemv h b
    | 1 => v.runRed h b c.vbuf
    | 3 => v.runWalk h b c.vbuf
    | 4 => v.runScan h b
    | _ => v.runCopy h b
  let met := r.met.eraseDups
  let w := r.outs.foldl (fun (t : State) o => (t.woundRange o.1 o.2).hPut h o.1 o.2 (r.s.hGet h o.1 o.2).1) s
  let p := (r.bad.filter r.s.linePoison).foldl State.poisonLine w
  (p.logKeys h (met ++ r.outs.flatMap fun o => lineNos o.1 o.2).eraseDups, (if met = [] then [] else [(2, met.length)]) ++ if r.skipped = 0 then [] else [(8, r.skipped)])

/-- A landing completes; it occupies its lines until its post is performed, and is over at once when it has none (R223). -/
def State.runLand (s : State) (l : Landing) : State × List (Nat × Nat) :=
  let posts := l.b.posten && (tget (s.hcp l.hcp).posts l.b.postIdx).isSome
  (if posts then s.modLanding l.cmd fun q => { q with post := some s.seq } else { s with landings := s.landings.filter fun q => q.cmd != l.cmd },
    (if l.poisoned = 0 then [] else [(2, l.poisoned)]) ++ (if l.conflict then [(6, 0)] else []) ++ if l.dups = 0 then [] else [(9, l.dups)])

/-- What a command still waits for before it writes: its requests, tasks that commit (R330), and held lines, which are recalled (R256). -/
def State.cmdHeld (s : State) (c : HCmd) : Bool :=
  (HBlock.mk c.block).writes.any fun r => s.heldIn r.1 r.2
def State.cmdCommitting (s : State) (c : HCmd) : Bool :=
  (HBlock.mk c.block).writes.any fun r => [0, 1].any fun d => (s.eng d).lines.any fun h =>
    decide (r.1 < h.pa + 64) && decide (h.pa < r.1 + r.2) && s.committingAt h.pa

/-- The next line that a started command reads: its request enters the queue, one at a time; a held line is forwarded (R256). -/
def State.feedCmd (s : State) (c : HCmd) : State :=
  match c.todo with
  | [] => s
  | pa :: rest =>
    if !c.started || !s.arbDone c.id then s
    else (if (s.heldPa pa).isSome then s.readLine c.id pa else s.arbHeath c.id c.hcp c.lim pa 64).modCmd c.id fun c => { c with todo := rest }

/-- A command that has read everything asks for the lines that it writes; those that are held need no request (R253, R256). -/
def State.enterWrites (s : State) (c : HCmd) : State :=
  let ws := (HBlock.mk c.block).writes
  (ws.foldl (fun s r => s.arbHeath c.id c.hcp c.lim r.1 r.2) s).modCmd c.id fun c => { c with wr := ws, ord := s.seq }
/-- An access to one of its lines entered before its own and is not performed. -/
def State.cmdBehind (s : State) (c : HCmd) : Bool := c.wr.any fun r => (lineNos r.1 r.2).any (s.behindLine c.ord)

/-- HEATH_COMMAND_COMPLETE. Where several statuses apply, the spec says of each that the command completes with it and does not
say which is reported: the one reported is free. -/
def execHeathCommandComplete (id : Nat) (s : State) : Res :=
  match s.hcmds.find? (·.id == id) with
  | none => .next s
  | some c =>
    let land := s.landings.find? fun l => l.cmd = id
    if !c.started || c.doneAt == 0 || decide (s.hcpCycle < c.doneAt) || !c.todo.isEmpty || !s.arbDone id ||
      land.any (fun l => l.todo != []) then .next s
    else if c.wr = [] ∧ (HBlock.mk c.block).writes ≠ [] then .next (s.enterWrites c)
    else if s.cmdCommitting c || s.cmdBehind c then .next s
    else if s.cmdHeld c then .next ((HBlock.mk c.block).writes.foldl (fun s r => (s.woundRange r.1 r.2).recallRange r.1 r.2) s)
    else
      let r := match land with
        | some l => s.runLand l
        | none => s.runCmd c
      let (ix, s1) := r.1.freshIx
      let st := match r.2 with
        | [] => (0, 0)
        | x :: t => ((x :: t)[(Config.unstated ix).toNat % (t.length + 1)]?).getD x
      .next ({ s1 with hcmds := s1.hcmds.filter fun q => q.id != id }.finishCmd c.hcp ⟨c.block⟩ st.1 st.2)

/-! ## Loads and stores of an HCP, and the end of a kernel (R251, R252) -/

/-- HCP_LOAD_ARRIVAL: the data arrives and the HCP goes on, or the kernel ends POISONED at the load. -/
def execHcpLoadArrival (h : Nat) (s : State) : Res :=
  match (s.hcp h).load with
  | none => .next s
  | some l =>
    let own := (s.hcp h).stores.any fun p => decide (p.id < l.id) && p.parts.any fun a => decide (a.pa < l.pa + l.bytes) && decide (l.pa < a.pa + a.len)
    if s.gtc < l.at_ ∨ s.hcpTick = false ∨ s.arbDone l.id = false ∨ own ∨ (lineNos l.pa l.bytes).any (fun i => s.arrayAhead l.id i false || s.heathAhead l.id i false) then .next s
    else
      let s1 := s.dramScrub l.pa l.bytes
      let d := (s1.issuedAt l.id).hRead l.key l.pa l.bytes
      .next ((s1.logKeys (s.hcp h) ((lineNos l.pa l.bytes).filter fun _ => d.2 != 0)).modHcp h fun t =>
        if d.2 ≠ 0 then { t with load := none, sc := { t.sc with pc := t.sc.pc - 4 } }.stopWith 2 0
        else
          let sc := if l.pair then (t.sc.set l.rd ((BitVec.ofNat 32 d.1))).set (l.rd + 1) (BitVec.ofNat 32 (d.1 / 2 ^ 32)) else t.sc.set l.rd (BitVec.ofNat 32 d.1)
          { t with load := none, sc := sc })

-- DEDUCED, safe: log entry 35.
/-- Stores of an HCP whose time has come, each behind the earlier ones that meet its bytes. -/
def State.hDrain (s : State) (h : Nat) : State :=
  (s.hcp h).stores.foldl (fun s p =>
    let now := (s.hcp h).stores
    let part := p.parts.head?
    let blocked := (now.takeWhile fun q => q.id != p.id).any fun q => q.parts.any fun a => p.parts.any fun b => decide (a.pa < b.pa + b.len) && decide (b.pa < a.pa + a.len)
    match part with
    | some a =>
      if decide (s.gtc < p.due) || blocked || !s.arbDone p.id || (lineNos a.pa a.len).any (fun l => s.committingAt (64 * l) || s.behindLine p.id l) then s
      else if s.heldIn a.pa a.len then (s.woundRange a.pa a.len).recallRange a.pa a.len
      else (((s.woundRange a.pa a.len).underKeys p.id fun s => s.hWrite a.key a.pa a.len p.data.toNat).logKeys (s.hcp h) (lineNos a.pa a.len)).modHcp h fun t => { t with stores := t.stores.filter fun q => q.id != p.id }
    | none => s) s

/-- Pins stay while an HCP of their launch runs, and in a stop until every kernel under the stopped node has written its entry (R250, R359). -/
def State.unpin (s : State) : State :=
  let hold := (tget s.stopped 0).isSome && s.hcps.any (·.2.running)
  { s with hcps := s.hcps.map fun h => (h.1, { h.2 with
      pins := h.2.pins && (hold || s.hcps.any fun g => g.2.running && g.2.launch == h.2.launch) }) }

/-- A kernel that has stopped writes its entry once its commands and stores are done, and the HCP is free (R251, R12). The entry is a heath
write: it waits for a task that commits, and a held line is recalled (R256, R330). -/
def State.hFinish (s : State) (h : Nat) : State :=
  let t := s.hcp h
  match t.ending with
  | none => s
  | some (status, cause) =>
    if !t.running || !s.hQuiet h || t.load.isSome || (t.entryOn && (lineNos t.entry 16).any fun l => s.committingAt (64 * l)) then s
    else if t.entryOn && s.heldIn t.entry 16 then (s.woundRange t.entry 16).recallRange t.entry 16
    else
      let v := status + cause * 2 ^ 8 + t.rank * 2 ^ 16 + t.sc.pc.toNat * 2 ^ 32 + t.failed * 2 ^ 64
      let s1 := if t.entryOn then (s.woundRange t.entry 16).hWrite t.entryKey t.entry 16 v else s
      let s3 := (s1.endHrow h).modHcp h fun t => { t with running := false, ending := none, effClass := 7 }
      { s3.unpin with launches := s3.launches.map fun l => if l.id = t.launch then { l with left := l.left - 1 } else l }

/-- What an HCP does in one of its cycles beside issuing: results, stores, and its end. -/
def State.hcpCycleOf (s : State) (h : Nat) : State :=
  let s1 := s.modHcp h fun t => { t with sc := t.sc.settle s.hcpCycle }
  (s1.hDrain h).hFinish h

end Sys2Proof.Machine
end

