-- ==== Sys2Proof/Machine/Matrix.lean ====
section
/-! DEFINITION. What M-words share (R140-R154): waits, traps between steps, the plan of a tile step, and the issue of a step. -/
namespace Sys2Proof.Machine

/-! ## Operations in flight (R141) -/

/-- Opcode and fields of an MLDB, MSTA or MDRAW in flight. -/
def MOp.word (o : MOp) : Nat × MWord :=
  match mParts o.ins with
  | some (op, w) => (op.toNat, w)
  | none => (0, { ic := 0, fa := .f32, fb := .f32, tile := 0, rm := .rne, stampMode := .none, stamp := 0, srcA := .breg 0, srcB := .breg 0,
                  gather := none, scatter := none, acc := false, full := false, once := false, steps := 0, mx := 0, my := 0, imm64 := 0 })
/-- The cycle in which it completes (R148, R149, R168). -/
def MOp.doneAt (o : MOp) : Nat := o.at_ + o.count + (if o.word.1 = 0x50 then 32 else 8)
def MOp.isDraw (o : MOp) : Bool := o.word.1 == 0x50
def MOp.isSta (o : MOp) : Bool := o.word.1 == 0x15
/-- The operand register an MLDB writes. -/
def MOp.target (o : MOp) : Option Nat :=
  match o.word with
  | (0x14, w) => (match w.srcB with | .breg n => some n.toNat | .desc _ => none)
  | _ => none
/-- First accumulator row read. -/
def MOp.row0 (o : MOp) : Nat := 128 * o.word.2.tile.toNat + getField o.word.2.imm64 0 7
/-- The tiles whose rows it reads. -/
def MOp.tiles (o : MOp) : List Nat := if o.operand.isSome then [] else (List.range 8).filter fun k => o.row0 < 128 * (k + 1) && 128 * k < o.row0 + o.count

/-- Tile k keeps a word of context x that is no tile step (R141). -/
def Meadow.tileBusy (m : Meadow) (x g k : Nat) : Bool :=
  m.tileIsFull k || m.tileSteps.any (fun t => t.ctx == x && t.tile == k && decide (g ≤ t.at_ + 272)) ||
  m.mops.any (fun o => o.ctx == x && o.tiles.contains k && decide (g < o.at_ + o.count))

/-- The tile-step word that the array runs, and its context. -/
def Meadow.arrayWord (m : Meadow) : Option (Nat × TileWord) :=
  [0, 1, 2, 3].findSome? fun x => match (m.ctx x).tileWord with | some t => if t.running then some (x, t) else none | none => none

/-- The operand registers that a tile-step word names. -/
def TileWord.bregs (t : TileWord) : List Nat :=
  match t.walk, mParts t.ins with
  | none, some (_, w) => [w.srcA, w.srcB].filterMap fun o => match o with | .breg n => some n.toNat | .desc _ => none
  | _, _ => []

/-- Some tile step of the meadow that reads bN has not passed its operand fetch, the steps still to come of a word that has
issued included (R137, R141). -/
def Meadow.bregRead (m : Meadow) (g n : Nat) : Bool :=
  m.tileSteps.any (fun t => (t.a.reg == some n || t.b.reg == some n) && decide (g < t.at_ + 128)) ||
  (match m.arrayWord with | some (_, t) => t.bregs.contains n | none => false)

/-- An MLDB into bN has not completed (R141). -/
def Meadow.bregLoading (m : Meadow) (g n : Nat) : Bool := m.mops.any fun o => o.target == some n && decide (g < o.doneAt)

-- DESIGN CHOICE, unsafe: log entry 90.
/-- An earlier word of the context has not completed; a mask restricts the words to those that touch its tiles (R151). -/
def Meadow.mPending (m : Meadow) (x g : Nat) (mask : BitVec 8) : Bool :=
  let hit (k : Nat) : Bool := mask == 0 || mask.getLsbD k
  m.tileSteps.any (fun t => t.ctx == x && hit t.tile && decide (g ≤ t.at_ + 272)) ||
  m.mops.any (fun o => o.ctx == x && (mask == 0 || o.tiles.any hit) && decide (g < o.doneAt)) ||
  (match m.beat with | some b => b.owner == x && hit b.w.tile.toNat | none => false)

/-- A draw of the context keeps its stream until the cycle after its completion (R168). -/
def Meadow.drawHolds (m : Meadow) (x g : Nat) : Bool := m.mops.any fun o => o.ctx == x && o.isDraw && decide (g ≤ o.doneAt)

/-! ## What a beat run holds (R305) -/

/-- The tile that a standing run writes. -/
def Meadow.beatTile (m : Meadow) (k : Nat) : Bool := match m.beat with | some b => b.w.tile.toNat == k | none => false
/-- The operand registers that an MBEAT fixes as its A and B sources (R304). -/
def beatFixed (w : MWord) : List Nat :=
  (if w.imm64.getLsbD 52 then [] else match w.srcA with | .breg n => [n.toNat] | .desc _ => []) ++
  (if w.imm64.getLsbD 53 then [] else match w.srcB with | .breg n => [n.toNat] | .desc _ => [])
def Meadow.beatReg (m : Meadow) (n : Nat) : Bool := match m.beat with | some b => (beatFixed b.w).contains n | none => false

/-! ## Throttling (R295, R297, R298) -/

/-- The effective class a context runs its task at. -/
def State.effClass (s : State) (c x : Nat) : Nat :=
  let m := s.mdw c
  let e := getField m.prio 4 3
  match (m.ctx x).task, m.region.bind fun r => s.regions.find? (·.id == r) with
  | some t, some r => (match r.stages[t.stage]? with | some g => min e g.prio | none => e)
  | _, _ => e

/-- THRESH holds the context's tile steps; in a region with GANG, those of every context of the region. -/
def State.throttled (s : State) (c x : Nat) : Bool :=
  let m := s.mdw c
  match m.region.bind fun r => s.regions.find? (·.id == r) with
  | some r =>
    if r.gang then s.meadows.any fun n => n.2.region == some r.id &&
      [0, 1, 2, 3].any fun y => (n.2.ctx y).task.isSome && decide (s.effClass n.1 y < s.thresh)
    else decide (s.effClass c x < s.thresh)
  | none => decide (s.effClass c x < s.thresh)

/-! ## The plan of a step (R135, R138, R145, R146, R152) -/

structure StepPlan where
  tile : Nat
  a : TileOperand
  b : TileOperand
  scatter : List Nat := []
  overwrite : Bool
  full : Bool
  rm : Round
  once : Bool
  deriving DecidableEq, Repr

/-- The 16-bit entry of a list in scratchpad. -/
def Meadow.listEntry (m : Meadow) (a : Nat) : Nat := spadRead m.spad a 2

/-- The rows of a scratchpad operand in step t; `g` is the gather list when it selects the operand. -/
def Meadow.stepAddrs (m : Meadow) (d : SpadDesc) (g : Option W32) (t : Nat) : List (Option Nat) :=
  let rows := List.range 128
  match g with
  | none => rows.map fun r => some (spadRowAddr (d.base + t * d.tpitch) d.rpitch d.rot r)
  | some l =>
    let lb := getField l 0 20
    if l.getLsbD 22 then rows.map fun r =>
      let e := m.listEntry (lb + 256 * t + 2 * r)
      if e = 0xFFFF then none else some (spadRowAddr (d.base + t * d.tpitch) d.rpitch d.rot e)
    else
      let e := m.listEntry (lb + 2 * t)
      rows.map fun r => if e = 0xFFFF then none else some (spadRowAddr (d.base + e * d.tpitch) d.rpitch d.rot r)

def Meadow.srcOperand (m : Meadow) (f : ElemType) (o : MSource) (lo hi : W32) (g : Option W32) (t : Nat) : TileOperand :=
  match o with
  | .breg n => { fmt := f, reg := some n.toNat }
  | .desc _ => { fmt := f, addrs := m.stepAddrs (spadDesc lo hi) g t }

/-- Step t of an MMA or MMAG. -/
def Meadow.mmaPlan (m : Meadow) (w : MWord) (regs : List W32) (t total : Nat) : StepPlan :=
  let r (i : Nat) : W32 := (regs[i]?).getD 0
  let pick (onB : Bool) : Option W32 := if w.gather.isSome && (r 4).getLsbD 23 == onB then some (r 4) else none
  { tile := w.tile.toNat, a := m.srcOperand w.fa w.srcA (r 0) (r 1) (pick false) t, b := m.srcOperand w.fb w.srcB (r 2) (r 3) (pick true) t
    scatter := if w.scatter.isSome then (List.range 128).map fun a => m.listEntry (getField (r 6) 0 20 + 256 * t + 2 * a) else []
    overwrite := !w.acc, full := w.full && t + 1 == total, rm := w.rm, once := w.once }

-- DEDUCED, unsafe: log entry 38.
/-- A base moved by signed steps, modulo 2^20; a step need not be a multiple of 256, and a row's 256 bytes then follow from its
address. -/
def walkBase (b : List W32) (idx : List Nat) (off stepOff : Nat) : Nat :=
  wrapN (((getField (topbWord b off) 0 20 : Nat) : Int) + topbSum b idx stepOff) 20

/-- Step t of a walk. -/
def walkPlan (b : List W32) (t : Nat) : StepPlan :=
  let idx := topbIndex b t
  let w0 := topbWord b 0
  let kl := idx.zipIdx.filter fun p => topbK b p.2
  let opnd (f : ElemType) (off stepOff rp : Nat) : TileOperand :=
    { fmt := f, addrs := (List.range 128).map fun r => some (spadRowAddr (walkBase b idx off stepOff) rp (getField (topbWord b off) 20 4) r) }
  { tile := ((topbSum b idx 12).toNat + getField w0 12 3) % 8
    a := opnd (topbFa b) 4 4 (getField (topbWord b 12) 0 16), b := opnd (topbFb b) 8 8 (getField (topbWord b 12) 16 16)
    overwrite := kl.all fun p => p.1 == 0, full := w0.getLsbD 19 && kl.all fun p => p.1 + 1 == topbCount b p.2
    rm := Round.ofCode (w0.extractLsb' 16 3), once := w0.getLsbD 20 }

/-- Step t of a tile-step word. -/
def TileWord.plan (tw : TileWord) (m : Meadow) (t : Nat) : StepPlan :=
  match tw.walk, mParts tw.ins with
  | some k, _ => walkPlan k.topb t
  | none, some (_, w) => m.mmaPlan w tw.regs t tw.total
  | none, none => { tile := 0, a := { fmt := .f32 }, b := { fmt := .f32 }, overwrite := true, full := false, rm := .rne, once := false }

/-- The float classes round, and take coins under rm=sr. -/
def StepPlan.float (p : StepPlan) : Bool := p.a.fmt.stepClass != some .i8

/-- Scratchpad bytes of the lists that step t reads. -/
def TileWord.listBytes (tw : TileWord) (t : Nat) : List (Nat × Nat) :=
  match mParts tw.ins with
  | some (_, w) =>
    let r (i : Nat) : W32 := (tw.regs[i]?).getD 0
    (if w.gather.isSome then [if (r 4).getLsbD 22 then (getField (r 4) 0 20 + 256 * t, 256) else (getField (r 4) 0 20 + 2 * t, 2)] else []) ++
    (if w.scatter.isSome then [(getField (r 6) 0 20 + 256 * t, 256)] else [])
  | none => []

/-- Scratchpad bytes that the issue of a word's next step reads for the word itself: its lists, and the block of an MWALK at step 0. -/
def TileWord.wordBytes (tw : TileWord) (k : Ctx) : List (Nat × Nat) :=
  match tw.walk, tw.ins with
  | none, _ => tw.listBytes tw.next
  | some _, .mwalk w => if tw.counted then [] else [((k.mreg w.mx.toNat).toNat, 128)]
  | some _, _ => []

/-! ## Checks of a step (R134, R138, R152, R183) -/

/-- Fate of a step: it may issue, a buffer makes it wait, or a cause with its own value. -/
inductive StepFate | go | wait | trap (cause v : Nat)
  deriving DecidableEq, Repr

/-- The first format conflict of an operand (R371). -/
def TileOperand.conflict (o : TileOperand) (m : Meadow) : Option Nat :=
  match o.reg with
  | some n => if (m.breg n).tag = o.fmt then none else some (0x100000 + n)
  | none => o.addrs.findSome? fun a => a.bind fun a => if rowConflict m.sbf o.fmt a then some a else none

/-- All ranges of scratchpad that the operand's rows read. -/
def TileOperand.allRanges (o : TileOperand) (sbf : Tab W32) : List (Nat × Nat) := (List.range o.addrs.length).flatMap (o.ranges sbf)

-- DESIGN CHOICE, unsafe: log entry 89.
-- DEDUCED, unsafe: log entry 63.
def Meadow.stepFate (m : Meadow) (k : Ctx) (tw : TileWord) (p : StepPlan) : StepFate :=
  let need := if p.float then TileType.f32 else TileType.i32
  if !k.tileGranted p.tile then .trap Cause.tileNotGranted (128 * p.tile)
  else if m.tileTy p.tile ≠ need then .trap Cause.tileType (16 * p.tile + (m.tileTy p.tile).code)
  else match if tw.walk.isNone then m.badWordIn (tw.listBytes tw.next) else none with
  | some a => .trap Cause.poisonUse a
  | none =>
    match (p.a.conflict m).or (p.b.conflict m) with
    | some v => .trap Cause.formatConflict v
    | none =>
      let rs := p.a.allRanges m.sbf ++ p.b.allRanges m.sbf
      match rs.findSome? fun r => m.bufFault .mread r.1 r.2 with
      | some v => .trap Cause.bufState v.toNat
      | none => if rs.any fun r => m.bufWait .mread r.1 r.2 then .wait else .go

/-- Byte ranges modulo 2^20 meet. -/
def spadMeet (a n b k : Nat) : Bool := decide ((b + 2 ^ 20 - a % 2 ^ 20) % 2 ^ 20 < n) || decide ((a + 2 ^ 20 - b % 2 ^ 20) % 2 ^ 20 < k)

/-- Rows that an MSTA writes: address of each, element bytes of a row, and bytes of its block scales. -/
def MOp.staAddr (o : MOp) (i : Nat) : Nat :=
  let d := spadDesc ((o.regs[0]?).getD 0) ((o.regs[1]?).getD 0)
  spadRowAddr d.base d.rpitch d.rot i

/-- Bytes of a drained row, and of its block scales (R149). -/
def staBytes (e d : ElemType) : Nat := e.lanes * d.width / 8
def staScales (e d : ElemType) : Nat := match d with | .cb4 => e.lanes / 8 | .mx4 | .mx8 => e.lanes / 32 | _ => 0

/-- The ranges that a drained row writes: elements, then block scales, then the band scale (R149, R177). -/
def staRanges (sbf : Tab W32) (e d : ElemType) (a : Nat) : List (Nat × Nat) :=
  (a, staBytes e d) :: (if d.cls == .B then [(scaleAddr (sbfOf sbf a) d a, staScales e d)] else []) ++
  if d = .cb4 then [(bandAddr (sbfOf sbf a) a, 2)] else []

/-- The ranges that row i of an MSTA writes. -/
def MOp.staWrites (o : MOp) (i : Nat) : List (Nat × Nat) := staRanges o.sbf ((tileElem o.ty).getD .f32) o.word.2.fa (o.staAddr i)

-- DEDUCED, unsafe: log entry 87.
/-- A write of the M-stream of context x to a range is on its way (R146, R176). -/
def Meadow.ownWriteDue (m : Meadow) (x g : Nat) (l : Nat × Nat) : Bool :=
  m.mops.any (fun o => o.ctx == x && o.isSta && decide (g < o.doneAt) &&
    (List.range o.count).any fun i => (o.staWrites i).any fun r => spadMeet r.1 r.2 l.1 l.2) ||
  m.late.any fun q => q.rank == StreamId.rank .m && q.own == x && (match q.op with | .spad a n _ _ => spadMeet a n l.1 l.2 | _ => false)

/-- Waits of a step that its stream can meet: the tile's bit, its operand registers, and its own stream's earlier writes
to the lists it reads (R19, R141, R146). -/
def Meadow.stepWaits (m : Meadow) (x g : Nat) (tw : TileWord) (p : StepPlan) (t : Nat) : Bool :=
  m.tileIsFull p.tile || [p.a.reg, p.b.reg].any (fun r => match r with | some n => m.bregLoading g n | none => false) ||
  (tw.walk.isNone && (tw.listBytes t).any (m.ownWriteDue x g))

/-! ## Causes of M-words (R143, R153) -/

/-- TVAL of a cause at step t. -/
def stepTval (cause v t low : Nat) : W64 :=
  if cause = Cause.schedMiss then BitVec.ofNat 64 (t % 2 ^ 32 * 2 ^ 32 + low % 2 ^ 32) else BitVec.ofNat 64 (t % 2 ^ 24 * 2 ^ 40 + v % 2 ^ 40)

/-- Raise a cause on a context's M-stream with the address that TPC receives. -/
def Ctx.raiseM (k : Ctx) (g mtc cause : Nat) (tval : W64) (tpc : W32) : Ctx :=
  k.addCause { cause := cause, tval := tval, tpc := tpc, stream := some .m, sepc := .nextUnissued, at_ := g, mtc := mtc } true

-- DEDUCED, unsafe: log entry 32.
/-- The walk becomes the context's suspended walk at step t; an MWALK's stream goes on behind it (R153). -/
def Ctx.suspendWalk (k : Ctx) (tw : TileWord) (t : Nat) (own : Bool) : Ctx :=
  { k with
    suspended := some { tw with next := t, running := false, stamped := false, byTrap := own, bare := match tw.ins with | .mwres _ => true | _ => false }
    tileWord := none
    armed := none
    mpc := match tw.ins with | .mwalk _ => k.mpc + 24 | _ => k.mpc }

-- DEDUCED, unsafe: log entry 32.
-- DEDUCED, unsafe: log entry 39.
/-- A tile-step word meets a cause at step t: the word stays at the head for its re-issue, a walk is suspended. -/
def State.tileTrap (s0 : State) (c x : Nat) (tw : TileWord) (cause v low : Nat) : State :=
  let t := tw.next
  let s := if cause = Cause.poisonUse then (tw.wordBytes (s0.ctx c x)).foldl (fun s r => s.spadScrub c x r.1 r.2) s0 else s0
  s.modCtx c x fun k =>
    match tw.walk with
    | some w => (k.suspendWalk tw t true).raiseM s.gtc (s.mdw c).mtc cause (stepTval cause v t low) w.after
    | none => { k with tileWord := some { tw with running := false, stamped := false }, armed := none }.raiseM s.gtc (s.mdw c).mtc cause (stepTval cause v t low) tw.pc

/-- A word-level cause of an M-word that is no walk step. -/
def mTrapAt (s : State) (t cause v : Nat) : Res := trapRes s cause (stepTval cause v t 0)

/-! ## Issue of a step (R135, R139, R140) -/

def TileStep.fetchRow (t : TileStep) (m : Meadow) (r : Nat) : TileStep := { t with a := t.a.fetch m t.sbf r, b := t.b.fetch m t.sbf r }

/-- Errors in the scratchpad words of one row of a step. -/
def State.stepScrub (s : State) (c : Nat) (t : TileStep) (r : Nat) : State :=
  if (s.mdw c).ecc = [] ∧ (s.mdw c).badWords = [] then s
  else (t.a.ranges t.sbf r ++ t.b.ranges t.sbf r).foldl (fun s q => s.spadScrub c t.ctx q.1 q.2) s

/-- A step starts: it takes the array for 128 cycles and fetches its first rows. -/
def State.pushStep (s : State) (c : Nat) (t : TileStep) : State :=
  let (id, s1) := s.nextSeq
  let t1 := { t with id := id }
  (s1.stepScrub c t1 0).modMdw c fun m => { m with tileSteps := m.tileSteps ++ [t1.fetchRow m 0] }

/-- Step `tw.next` of a tile-step word of context x issues. -/
def State.issueStep (s0 : State) (c x : Nat) (tw0 : TileWord) (p : StepPlan) : State :=
  let s := (tw0.wordBytes (s0.ctx c x)).foldl (fun s r => s.spadScrub c x r.1 r.2) s0
  let m := s.mdw c
  let k := m.ctx x
  let fresh := !tw0.counted
  let tw := if fresh then { tw0 with k := k.seed, c0 := k.ctr, counted := true } else tw0
  let t := tw.next
  let last := tw.total ≤ t + 1
  let s1 := s.pushStep c
    { id := 0, ctx := x, at_ := s.gtc, pc := tw.pc, step := t, walk := if tw.walk.isSome then some tw else none, last := last, once := p.once, tile := p.tile, rm := p.rm
      overwrite := p.overwrite, markFull := p.full, a := p.a, b := p.b, scatter := p.scatter, sbf := m.sbf, k := tw.k
      c0 := tw.c0 + BitVec.ofNat 32 (8 * t) }
  let ic := match mParts tw.ins with | some (_, w) => w.ic | none => 0
  s1.modMdw c fun m =>
    let m1 := m.modCtx x fun k =>
      let k1 := k.joinReach .m (tgetD m.tileRel p.tile {})
      let k2 := if fresh && p.rm == .sr && p.float then { k1 with ctr := k1.ctr + BitVec.ofNat 32 (8 * tw.total) } else k1
      let k3 := if tw.walk.isSome then { k2 with suspended := none } else k2
      let k4 := { k3 with mPrev := s.gtc, armed := none }
      if last then { k4 with tileWord := none, mpc := k4.mpc + 24, mNextAt := m.mtc + icGap ic }
      else { k4 with tileWord := some { tw with next := t + 1, lastAt := s.gtc, running := true } }
    if m.timed && (m.unit .array).turn.any (· != x) then m1.keepTurn .array x (s.gtc + 128) else m1.takeTurn .array x (if last then ic else 0) (s.gtc + 128)

/-! ## Issue of a tile-step word (R140-R143, R292, R297, R305) -/

/-- An unstamped step may not take the array now. -/
def State.arrayHeld (s : State) (c x : Nat) : Bool :=
  let m := s.mdw c
  m.beat.isSome || decide (s.gtc < (m.unit .array).busyUntil) || s.throttled c x ||
  (match m.arrayWord with | some (y, _) => y != x | none => false)

/-- The array is taken for a stamped step at its target (R142). -/
def State.arrayTaken (s : State) (c x : Nat) : Bool :=
  let m := s.mdw c
  m.beat.isSome || decide (s.gtc < (m.unit .array).busyUntil) || s.throttled c x

/-- The target of a word's first step, modulo 2^32; none without a stamp. -/
def stampTarget (k : Ctx) (w : MWord) : Option Nat :=
  match w.stampMode with
  | .none => none
  | .absolute => some w.stamp.toNat
  | .relative => some ((k.mPrev + w.stamp.toNat) % 2 ^ 32)

/-- The cycles from this one to a target, modulo 2^32. -/
def State.stampDist (s : State) (t : Nat) : Nat := (t + 2 ^ 32 - s.gtc % 2 ^ 32) % 2 ^ 32

-- DEDUCED, unsafe: log entry 40.
/-- A stamped word at the head of its stream (R142): the comparison is first made in the cycle in which its waits are met, and at its
target cycle the word issues or misses. -/
def State.stampedHead (s : State) (c x : Nat) (tw : TileWord) (p : StepPlan) (t : Nat) : Res :=
  let m := s.mdw c
  let k := m.ctx x
  let granted := k.tileGranted p.tile
  let wait := granted && m.stepWaits x s.gtc tw p tw.next
  let armed := k.armed.map (·.1) = some k.mpc
  let d := s.stampDist t
  let tw1 := { tw with stamped := true }
  let miss : Res := .next (s.tileTrap c x tw1 Cause.schedMiss 0 t)
  if wait ∧ !armed then .next s
  else if 2 ^ 31 ≤ d then miss
  else if d ≠ 0 then .next (s.modCtx c x fun k => { k with armed := some (k.mpc, t) })
  else if wait || (granted && s.arrayTaken c x) then miss
  else match m.stepFate k tw p with
    | .trap cause v => .next (s.tileTrap c x tw1 cause v t)
    | .wait => miss
    | .go => .next (s.issueStep c x tw1 p)

/-- A tile-step word at the head of its stream: it holds, misses, traps or issues its next step. -/
def State.tileHead (s : State) (c x : Nat) (tw : TileWord) (target : Option Nat) : Res :=
  let m := s.mdw c
  let k := m.ctx x
  let p := tw.plan m tw.next
  match target with
  | some t => s.stampedHead c x tw p t
  | none =>
    if s.arrayHeld c x || (k.tileGranted p.tile && m.stepWaits x s.gtc tw p tw.next) then .next s
    else match m.stepFate k tw p with
      | .trap cause v => .next (s.tileTrap c x tw cause v 0)
      | .wait => .next s
      | .go => .next (s.issueStep c x tw p)

/-- The registers of a word's descriptor fields: A, B, gather, scatter. -/
def mWordRegs (k : Ctx) (w : MWord) : List W32 :=
  let src (o : MSource) : List W32 := match o with | .desc p => [k.mreg (2 * p.toNat), k.mreg (2 * p.toNat + 1)] | .breg _ => [0, 0]
  let lst (o : Option (BitVec 4)) : List W32 := match o with | some p => [k.mreg (2 * p.toNat), k.mreg (2 * p.toNat + 1)] | none => [0, 0]
  src w.srcA ++ src w.srcB ++ lst w.gather ++ lst w.scatter

/-- A list register pair that R146 refuses. -/
def listBad (lo hi : W32) : Bool := getField lo 24 8 != 0 || getField lo 20 2 != 0 || lo.getLsbD 0 || hi != 0

/-- Errors of an MMA's or MMAG's descriptors, as bit positions. -/
def mmaDescBad (w : MWord) (regs : List W32) : Option Nat :=
  let r (i : Nat) : W32 := (regs[i]?).getD 0
  let isDesc (o : MSource) : Bool := match o with | .desc _ => true | .breg _ => false
  if isDesc w.srcA && descBad (r 0) (r 1) then some 133
  else if isDesc w.srcB && descBad (r 2) (r 3) then some 127
  else if w.gather.isSome && (listBad (r 4) (r 5) || !(if (r 4).getLsbD 23 then isDesc w.srcB else isDesc w.srcA)) then some 121
  else if w.scatter.isSome && (listBad (r 6) (r 7) || (r 6).getLsbD 23 || !(r 6).getLsbD 22) then some 115
  else none

/-- The lowest tile or operand register of a word that is not granted, as a TVAL. -/
def mUngranted (k : Ctx) (tile : Option Nat) (bregs : List Nat) : Option Nat :=
  match tile with
  | some t => if k.tileGranted t then (bregs.find? fun n => !k.bregGranted n).map (0x400 + ·) else some (128 * t)
  | none => (bregs.find? fun n => !k.bregGranted n).map (0x400 + ·)

/-- MMA and MMAG (R145, R146): an issue, or the re-issue of a word that stopped between steps, without its stamp (R143). -/
def mmaGo (ins : Instr) (w : MWord) (s : State) : Res :=
  match s.cur with
  | .stream c x .m =>
    let m := s.mdw c
    let k := m.ctx x
    let regs := mWordRegs k w
    let fresh : TileWord := { ins := ins, pc := k.mpc, total := rowSteps w.steps, regs := regs, running := false }
    let tw := match k.tileWord with
      | some t => if t.pc = k.mpc then { t with regs := regs } else fresh
      | none => fresh
    if tw.running || m.drawHolds x s.gtc then .next s
    else match mmaDescBad w regs with
      | some b => .next (s.tileTrap c x tw Cause.resOperand b 0)
      | none => match mUngranted k (some w.tile.toNat) fresh.bregs with
        | some v => .next (s.tileTrap c x tw Cause.tileNotGranted v 0)
        | none => s.tileHead c x tw (match k.tileWord with | some t => if t.pc = k.mpc then none else stampTarget k w | none => stampTarget k w)
  | _ => .next s
where
  /-- A step count of 0 means 65,536 (R37). -/
  rowSteps (n : BitVec 16) : Nat := if n = 0 then 65536 else n.toNat

/-- The 32 words of a block in scratchpad. -/
def Meadow.topbAt (m : Meadow) (a : Nat) : List W32 := (List.range 32).map fun i => BitVec.ofNat 32 (spadRead m.spad (a + 4 * i) 4)

-- DEDUCED, unsafe: log entry 63.
/-- Why a walk may not start: an error of its block, or a bad word in it (R86, R152, R378). -/
def Meadow.topbFault (m : Meadow) (a : Nat) (topb : List W32) : Option (Nat × Nat) :=
  ((topbWorst topb).map fun e => (e.1, 192 + e.2)).or ((m.badWordIn [(a, 128)]).map fun w => (Cause.poisonUse, w))

-- DEDUCED, unsafe: log entry 38.
/-- MWALK (R152): the block is copied and checked at issue. -/
def walkGo (ins : Instr) (w : MWord) (s : State) : Res :=
  match s.cur with
  | .stream c x .m =>
    let m := s.mdw c
    let k := m.ctx x
    let a := (k.mreg w.mx.toNat).toNat
    let held := k.tileWord.bind fun t => if t.pc = k.mpc then some t else none
    let target := if held.isSome then none else stampTarget k w
    let notBegun : TileWord := { ins := ins, pc := k.mpc, total := 0, running := false }
    match held.filter fun t => t.walk.isSome with
    | some t => if t.running then .next s else s.tileHead c x t none
    | none =>
      if m.drawHolds x s.gtc then .next s
      else if a % 128 ≠ 0 ∨ 2 ^ 20 ≤ a then .next (s.tileTrap c x notBegun Cause.resOperand 90 0)
      else if target.isNone && s.arrayHeld c x then .next s
      else
        let topb := m.topbAt a
        let s1 := s.spadScrub c x a 128
        match m.topbFault a topb with
        | some (cause, v) =>
          let t0 := getField (topbWord topb 0) 12 3
          let wait := k.tileGranted t0 && m.tileIsFull t0
          match target with
          | none => if wait then .next s else .next (s1.tileTrap c x notBegun cause v 0)
          | some t =>
            let d := s.stampDist t
            if wait ∧ k.armed.map (·.1) ≠ some k.mpc then .next s
            else if d = 0 ∨ 2 ^ 31 ≤ d then .next (s1.tileTrap c x notBegun cause v 0)
            else .next (s.modCtx c x fun k => { k with armed := some (k.mpc, t) })
        | none => s.tileHead c x { ins := ins, pc := k.mpc, total := topbTotal topb, running := false, walk := some ⟨topb, k.mpc + 24⟩ } target
  | _ => .next s

/-- An M-word that only occupies its stream. -/
def Meadow.mAdvance (m : Meadow) (x : Nat) (ic : BitVec 2) : Meadow :=
  m.modCtx x fun k => { k with mpc := k.mpc + 24, mNextAt := m.mtc + icGap ic }

-- DEDUCED, unsafe: log entry 39.
/-- MWRES (R153). -/
def resumeGo (ins : Instr) (w : MWord) (s : State) : Res :=
  match s.cur with
  | .stream c x .m =>
    let m := s.mdw c
    let k := m.ctx x
    let held := k.tileWord.bind fun t => if t.pc = k.mpc then some t else none
    match held with
    | some t => if t.running then .next s else s.tileHead c x t none
    | none =>
      if m.drawHolds x s.gtc then .next s
      else match k.suspended with
        | none => .next (s.modMdw c fun m => m.mAdvance x w.ic)
        | some t => s.tileHead c x { t with ins := ins, pc := k.mpc, byTrap := false } (if t.bare ∧ t.pc = k.mpc then none else stampTarget k w)
  | _ => .next s

/-! ## Words of one cycle (R147, R150, R151, R154) -/

/-- The frame of an M-word that names tile k or none and takes effect at issue: grant, waits, then `f` on the meadow. -/
def mTileWord (w : MWord) (tile : Bool) (busy : Meadow → Nat → Bool) (f : Meadow → Nat → State → Meadow) (s : State) : Res :=
  match s.cur with
  | .stream c x .m =>
    let m := s.mdw c
    let k := m.ctx x
    let t := w.tile.toNat
    if tile && !k.tileGranted t then trapRes s Cause.tileNotGranted (BitVec.ofNat 64 (128 * t))
    else if m.drawHolds x s.gtc || (tile && m.beatTile t) || busy m x then .next s
    else
      let m1 := if tile then m.modCtx x fun k => k.joinReach .m (tgetD m.tileRel t {}) else m
      .next (s.setMdw c ((f m1 x s).mAdvance x w.ic))
  | _ => .next s

end Sys2Proof.Machine
end

