-- ==== Sys2Proof/Machine/MWords.lean ====
section
/-! DEFINITION. The meaning of the M-words of the matrix chapter and of MDRAW (R140-R154, R167, R168). -/
namespace Sys2Proof.Machine

/-! ## Tile-step words -/

def execMma (w : MWord) (s : State) : Res := mmaGo (.mma w) w s
def execMmag (w : MWord) (s : State) : Res := mmaGo (.mmag w) w s
def execMwalk (w : MWord) (s : State) : Res := walkGo (.mwalk w) w s
-- DEDUCED, unsafe: log entry 39.
def execMwres (w : MWord) (s : State) : Res := resumeGo (.mwres w) w s

/-! ## Words of one cycle -/

/-- NOP: occupies its stream for one cycle. -/
def execMNop (w : MWord) (s : State) : Res := mTileWord w false (fun _ _ => false) (fun m _ _ => m) s

/-- MZERO: +0 in the 128 rows of tile k, poison bits cleared, in cycle issue + 1; nothing reads the tile before then. -/
def execMzero (w : MWord) (s : State) : Res :=
  mTileWord w true (fun m x => m.tileBusy x s.gtc w.tile.toNat)
    (fun m _ _ => (List.range 128).foldl (fun m a => (m.putRow (128 * w.tile.toNat + a) 0 (BitVec.allOnes 512)).setPoison (128 * w.tile.toNat + a) false) m) s

def tileTypeOf (c : Nat) : TileType := match c with | 1 => .i32 | 2 => .f16 | 3 => .bf16 | 4 => .i64 | _ => .f32

/-- MTYPE: the type register of tile k; codes 5-7 are refused by the decoder. -/
def execMtype (w : MWord) (s : State) : Res :=
  mTileWord w true (fun m x => m.tileBusy x s.gtc w.tile.toNat)
    (fun m _ _ => { m with tileType := tput m.tileType w.tile.toNat (tileTypeOf (getField w.imm64 0 3)) }) s

/-- MFULL: the tile's bit at issue. -/
def execMfull (w : MWord) (s : State) : Res :=
  mTileWord w true (fun m x => m.tileBusy x s.gtc w.tile.toNat)
    (fun m x s => m.setTile w.tile.toNat true ((m.ctx x).reachOf .m s.seq)) s

/-- MEMPTY: waits only for the tile's bit. -/
def execMempty (w : MWord) (s : State) : Res := mTileWord w true (fun m _ => m.tileIsFull w.tile.toNat) (fun m _ _ => m) s

/-- MWAIT: waits for the context's earlier words, or for those that touch a tile of the mask. -/
def execMwait (w : MWord) (s : State) : Res :=
  mTileWord w false (fun m x => m.mPending x s.gtc (w.imm64.extractLsb' 0 8)) (fun m _ _ => m) s

/-- MEXIT: ends the task body of the M-stream. -/
def execMexit (w : MWord) (s : State) : Res :=
  mTileWord w false (fun m x => m.mPending x s.gtc 0) (fun m x _ => m.modCtx x fun k => { k with mRun := false }) s

/-- MSET: an m register in cycle issue + 1; no later word of the stream issues before then. -/
def execMset (w : MWord) (s : State) : Res :=
  mTileWord w false (fun _ _ => false) (fun m x _ => m.modCtx x fun k => k.setMreg w.mx.toNat (w.imm64.setWidth 32)) s

/-- MQPOP: the head entry of a queue q0-q3 into a pair of m registers. -/
def execMqpop (w : MWord) (s : State) : Res :=
  let q := getField w.my 0 2
  mTileWord w false (fun m x => (((m.ctx x).queue64 q).ready s.gtc).isEmpty)
    (fun m x s => m.modCtx x fun k =>
      match ((k.queue64 q).ready s.gtc).head? with
      | none => k
      | some e => (((k.joinReach .m e.rel).pop64 q s.gtc).setMreg w.mx.toNat (e.val.setWidth 32)).setMreg (w.mx.toNat + 1) (e.val.extractLsb' 32 32)) s

/-! ## MLDB (R148) -/

/-- An MLDB starts: the load path is busy for its rows, and its first rows are read. -/
def State.startMop (s : State) (c x : Nat) (ic : BitVec 2) (u : Option IssueUnit) (o : MOp) : State :=
  let (id, s1) := s.nextSeq
  s1.modMdw c fun m =>
    let o1 := { o with id := id, at_ := s.gtc }
    let o2 := match o1.operand with
      | some p => { o1 with operand := some (p.fetch m o1.sbf 0) }
      | none => { o1 with rows := [(m.row o1.row0, m.poisoned o1.row0)] }
    let m1 := ({ m with mops := m.mops ++ [o2] }).mAdvance x ic
    match u with
    | some u => m1.takeTurn u x ic (s.gtc + o.count)
    | none => m1

def MWord.breg (w : MWord) : Nat := match w.srcB with | .breg n => n.toNat | .desc _ => 0

/-- MLDB may not write bN yet, or the load path is busy (R141, R148, R305). -/
def Meadow.ldbHeld (m : Meadow) (x g n : Nat) : Bool :=
  m.drawHolds x g || m.bregRead g n || m.beatReg n || decide (g < (m.unit .load).busyUntil)

-- DEDUCED, unsafe: log entry 63.
/-- The first bad word of some ranges, read into lanes of a format that cannot carry poison (R86, R378, R380). -/
def ldbBadWord (m : Meadow) (f : ElemType) (rs : List (Nat × Nat)) : Option Nat := if f.cls == .F then none else m.badWordIn rs

/-- The scratchpad form: rows of step 0 and their scales, unconverted. -/
def execMldbSpad (w : MWord) (s : State) : Res :=
  match s.cur with
  | .stream c x .m =>
    let m := s.mdw c
    let k := m.ctx x
    let n := Sys2Proof.Machine.MWord.breg w
    let regs := mWordRegs k w
    let p := m.srcOperand w.fa w.srcA ((regs[0]?).getD 0) ((regs[1]?).getD 0) none 0
    if m.drawHolds x s.gtc then .next s
    else if descBad ((regs[0]?).getD 0) ((regs[1]?).getD 0) then trapRes s Cause.resOperand (bitTval 133)
    else if !k.bregGranted n then trapRes s Cause.tileNotGranted (BitVec.ofNat 64 (0x400 + n))
    else if m.ldbHeld x s.gtc n then .next s
    else match p.conflict m with
      | some a => trapRes s Cause.formatConflict (BitVec.ofNat 64 a)
      | none =>
        let rs := p.allRanges m.sbf
        match rs.findSome? fun r => m.bufFault .mread r.1 r.2 with
        | some v => trapRes s Cause.bufState v
        | none =>
          if rs.any fun r => m.bufWait .mread r.1 r.2 then .next s
          else match ldbBadWord m w.fa rs with
          | some a => trapRes (rs.foldl (fun s r => s.spadScrub c x r.1 r.2) s) Cause.poisonUse (BitVec.ofNat 64 a)
          | none =>
            let s1 := (p.ranges m.sbf 0).foldl (fun s r => s.spadScrub c x r.1 r.2) s
            .next (s1.startMop c x w.ic (some .load)
              { id := 0, ctx := x, at_ := 0, ins := .mldbSpad w, pc := k.mpc, regs := regs, sbf := m.sbf, operand := some p })
  | _ => .next s

-- DEDUCED, unsafe: log entry 20.
/-- The accumulator form reads rows past v1023 (R34, R148). Tile field and row0 are at fault together; the word reports
the top bit of the tile field, which is nearer the top of the word. -/
def ldbPast (m : Meadow) (w : MWord) : Bool :=
  let t := w.tile.toNat
  match ldbOk (m.tileTy t) w.fa, tileElem (m.tileTy t) with
  | true, some e => decide (1024 < 128 * t + getField w.imm64 0 7 + ldbRows e w.fa)
  | _, _ => false

-- DESIGN CHOICE, unsafe: log entry 89.
/-- The accumulator form: lanes of consecutive rows, converted. -/
def execMldbAcc (w : MWord) (s : State) : Res :=
  match s.cur with
  | .stream c x .m =>
    let m := s.mdw c
    let k := m.ctx x
    let n := Sys2Proof.Machine.MWord.breg w
    let t := w.tile.toNat
    match mUngranted k (some t) [n] with
    | some v => if ldbPast m w then trapRes s Cause.resOperand (bitTval 173) else trapRes s Cause.tileNotGranted (BitVec.ofNat 64 v)
    | none =>
      if m.tileBusy x s.gtc t || m.beatTile t then .next s
      else match ldbOk (m.tileTy t) w.fa, tileElem (m.tileTy t) with
        | true, some e =>
          let r := ldbRows e w.fa
          let v0 := 128 * t + getField w.imm64 0 7
          let tiles := (List.range 8).filter fun j => v0 < 128 * (j + 1) && 128 * j < v0 + r
          if ldbPast m w then trapRes s Cause.resOperand (bitTval 173)
          else match tiles.find? fun j => !k.tileGranted j with
            | some j => trapRes s Cause.tileNotGranted (BitVec.ofNat 64 (max v0 (128 * j)))
            | none =>
              if tiles.any (fun j => m.tileBusy x s.gtc j || m.beatTile j) || m.ldbHeld x s.gtc n then .next s
              else
                let rows := (List.range r).map (v0 + ·)
                let s1 := s.rowScrub c rows
                let m1 := s1.mdw c
                match rows.find? fun v => rowNaN5 e w.fa (m1.row v, m1.poisoned v) with
                | some v => trapRes s1 Cause.poisonUse (BitVec.ofNat 64 v)
                | none =>
                  .next ((s1.modMdw c fun m => m.modCtx x fun k => tiles.foldl (fun k j => k.joinReach .m (tgetD m.tileRel j {})) k).startMop c x w.ic
                    (some .load) { id := 0, ctx := x, at_ := 0, ins := .mldbAcc w, pc := k.mpc, count := r, ty := m.tileTy t })
        | _, _ => trapRes s Cause.tileType (BitVec.ofNat 64 (16 * t + (m.tileTy t).code))
  | _ => .next s

/-! ## MSTA (R149) -/

/-- The addresses of the rows that an MSTA writes. -/
def staAddrs (w : MWord) (lo hi : W32) : List Nat :=
  let ds := spadDesc lo hi
  (List.range (getField w.imm64 8 8)).map fun i => spadRowAddr ds.base ds.rpitch ds.rot i

/-- The descriptor of an MSTA is refused: a reserved bit, a base or pitch, or a row that leaves its bank. -/
def Meadow.staDescBad (m : Meadow) (w : MWord) (lo hi : W32) : Bool :=
  let ds := spadDesc lo hi
  ds.bad || ds.base % 256 != 0 || ds.rpitch % 256 != 0 ||
  (match tileElem (m.tileTy w.tile.toNat) with
   | some e => (staAddrs w lo hi).any fun a => decide (2 ^ 16 < a % 2 ^ 16 + staBytes e w.fa)
   | none => false)

-- DESIGN CHOICE, unsafe: log entry 89.
/-- The checks of a drain by MSTA: a cause with its value. -/
def Meadow.staCheck (m : Meadow) (w : MWord) (lo hi : W32) : Option (Nat × W64) :=
  let t := w.tile.toNat
  let d := w.fa
  let ty := m.tileTy t
  let as_ := staAddrs w lo hi
  if m.staDescBad w lo hi then some (Cause.resOperand, bitTval 133)
  else match tileElem ty with
  | none => some (Cause.tileType, BitVec.ofNat 64 (16 * t + ty.code))
  | some e =>
    if d.cls == .B && ty == .i32 then some (Cause.tileType, BitVec.ofNat 64 (16 * t + ty.code))
    else match as_.find? fun a => rowConflict m.sbf d a with
      | some a => some (Cause.formatConflict, BitVec.ofNat 64 a)
      | none =>
        match (as_.flatMap (staRanges m.sbf e d)).findSome? fun r => m.bufFault .mwrite r.1 r.2 with
        | some v => some (Cause.bufState, v)
        | none =>
          (((List.range (getField w.imm64 8 8)).map (128 * t + getField w.imm64 0 7 + ·)).find? fun v => rowNaN5 e d (m.row v, m.poisoned v)).map fun v =>
            (Cause.poisonUse, BitVec.ofNat 64 v)

/-- MSTA: row row0 + i is read at issue + i and written at issue + i + 8. -/
def execMsta (w : MWord) (s : State) : Res :=
  match s.cur with
  | .stream c x .m =>
    let m := s.mdw c
    let k := m.ctx x
    let t := w.tile.toNat
    let cnt := getField w.imm64 8 8
    let regs := mWordRegs k w
    if m.drawHolds x s.gtc then .next s
    else if !k.tileGranted t then
      if m.staDescBad w ((regs[0]?).getD 0) ((regs[1]?).getD 0) then trapRes s Cause.resOperand (bitTval 133)
      else trapRes s Cause.tileNotGranted (BitVec.ofNat 64 (128 * t))
    else if m.tileBusy x s.gtc t || m.beat.isSome || decide (s.gtc < (m.unit .drain).busyUntil) then .next s
    else
      let s1 := s.rowScrub c ((List.range cnt).map (128 * t + getField w.imm64 0 7 + ·))
      match (s1.mdw c).staCheck w ((regs[0]?).getD 0) ((regs[1]?).getD 0) with
      | some (cause, tval) => trapRes s1 cause tval
      | none =>
        .next ((s1.modMdw c fun m => m.modCtx x fun k => k.joinReach .m (tgetD m.tileRel t {})).startMop c x w.ic (some .drain)
          { id := 0, ctx := x, at_ := 0, ins := .msta w, pc := k.mpc, regs := regs, sbf := m.sbf, count := cnt, ty := m.tileTy t })
  | _ => .next s

/-- Write a drained row: elements, block scales, and for .cb4 the band scale g (R149, R177). -/
def Meadow.staWrite (m : Meadow) (own g : Nat) (sbf : Tab W32) (e d : ElemType) (rm : Round) (band a : Nat) (r : Row × Bool) : Meadow :=
  let (bytes, scales) := staConvert e d rm band r
  let put (m : Meadow) (a len v : Nat) : Meadow := m.spadStore g (StreamId.rank .m) a len (BitVec.ofNat 4096 v) (byteMask len) own
  let wide (m : Meadow) (a len v : Nat) : Meadow := if len ≤ 512 then put m a len v else put (put m a 512 (v % 2 ^ 4096)) (a + 512) (len - 512) (v / 2 ^ 4096)
  let m1 := wide m a (staBytes e d) bytes
  if d.cls == .B then
    let m2 := put m1 (scaleAddr (sbfOf sbf a) d a) (staScales e d) (packLanes 8 scales)
    if d = .cb4 then put m2 (bandAddr (sbfOf sbf a) a) 2 band else m2
  else m1

/-! ## MDRAW (R167, R168) -/

-- DESIGN CHOICE, unsafe: log entry 89.
/-- MDRAW: rows are read one a cycle; index and list entry are written at issue + count + 32. -/
def execMdraw (w : MWord) (s : State) : Res :=
  match s.cur with
  | .stream c x .m =>
    let m := s.mdw c
    let k := m.ctx x
    let t := w.tile.toNat
    let cnt := getField w.imm64 8 8
    let lo := k.mreg w.mx.toNat
    let entry := (getField lo 0 20 + 2 * getField w.imm64 16 16) % 2 ^ 20
    if m.drawHolds x s.gtc then .next s
    else if listBad lo (k.mreg (w.mx.toNat + 1)) then trapRes s Cause.resOperand (bitTval 90)
    else if !k.tileGranted t then trapRes s Cause.tileNotGranted (BitVec.ofNat 64 (128 * t))
    else if m.beatTile t || m.tileBusy x s.gtc t then .next s
    else if m.tileTy t ≠ .f32 then trapRes s Cause.tileType (BitVec.ofNat 64 (16 * t + (m.tileTy t).code))
    else match m.bufFault .mwrite entry 2 with
      | some v => trapRes s Cause.bufState v
      | none =>
        .next (((s.rowScrub c ((List.range cnt).map (128 * t + getField w.imm64 0 7 + ·))).modMdw c fun m => m.modCtx x fun k =>
            { (k.joinReach .m (tgetD m.tileRel t {})) with ctr := k.ctr + 1 }).startMop c x w.ic none
          { id := 0, ctx := x, at_ := 0, ins := .mdraw w, pc := k.mpc, regs := [lo, k.mreg w.my.toNat], count := cnt, k := k.seed, c0 := k.ctr })
  | _ => .next s

/-- The least power of two at or above n. -/
def pow2Above (n : Nat) : Nat := 2 ^ (if n ≤ 1 then 0 else (n - 1).log2 + 1)

/-- The drawn pair of the rows read. -/
def MOp.draw (o : MOp) (coord : Nat) : DPair :=
  let coin (site : Nat) : Nat := coinOf o.k (meadowSite coord site) o.c0
  let lanes := o.rows.map fun r => (accLanes .f32 r).map fun l => (fp32.value l, true)
  let d : DrawCase := { temp := ((o.regs[1]?).getD 0).toNat, mhat := drawMax lanes.flatten, anyInf := drawAnyInf lanes.flatten }
  let ps := (o.rows.zip lanes).zipIdx.map fun p => drawRow coin d p.1.1.2 (128 * p.2) (128 * p.2) p.1.2
  let n := pow2Above ps.length
  dCanon (drawTree coin n.log2 16384 (ps ++ List.replicate (n - ps.length) dEmpty))

end Sys2Proof.Machine
end

