-- ==== Sys2Proof/Machine/Beat.lean ====
section
/-! DEFINITION. Beat mode (17_beat_mode.md): MBEAT, MBEND, MLOOK, MDEQ, BDWAIT, the slots of a run, its steps and drains, and its end. -/
namespace Sys2Proof.Machine

/-! ## The fields of a run (R304) -/

/-- Tile steps of a beat, and GTC cycles of a slot. -/
def BeatRun.steps (b : BeatRun) : Nat := b.w.steps.toNat
def BeatRun.len (b : BeatRun) : Nat := 128 * b.steps
/-- COUNT and DRAIN. -/
def BeatRun.count (b : BeatRun) : Nat := getField b.w.imm64 0 32
def BeatRun.drain (b : BeatRun) : Nat := getField b.w.imm64 32 16
def BeatRun.drainFmt (b : BeatRun) : ElemType := ElemType.ofCode (b.w.imm64.extractLsb' 48 4)
/-- Beat n drains (R306). -/
def BeatRun.drainsAt (b : BeatRun) (n : Nat) : Bool := b.drain != 0 && n % b.drain == b.drain - 1
/-- An operand comes from its port. -/
def beatPorted (w : MWord) (isB : Bool) : Bool := w.imm64.getLsbD (if isB then 53 else 52)
/-- LOOK as MBPOL holds it, and as a slot that begins in this cycle uses it (R312). -/
def Meadow.look (m : Meadow) : Nat := getField m.mbpol 8 3 + 1
def Meadow.lookOld (m : Meadow) : Nat := getField m.mbpolOld 8 3 + 1

/-! ## Ports and demands (R306, R307) -/

def endToken : W64 := BitVec.allOnes 64

def BeatRun.port (b : BeatRun) (p : Nat) : BeatPort := (b.ports[p]?).getD {}
def BeatRun.modPort (b : BeatRun) (p : Nat) (f : BeatPort → BeatPort) : BeatRun := { b with ports := b.ports.set p (f (b.port p)) }

/-- How far NEXT moves from one demand of a port to the next. -/
def BeatRun.stride (b : BeatRun) (p : Nat) : Nat := if p = 2 then b.drain else 1

/-- The demands of one beat. -/
def BeatRun.demand (b : BeatRun) (n : Nat) : BeatRun :=
  if b.count ≠ 0 ∧ b.count ≤ n then b else
  [0, 1, 2].foldl (fun b p => if (b.port p).used && (p != 2 || b.drainsAt n) then b.modPort p fun q => { q with out := q.out + 1 } else b) b

/-- Raise the demands of every beat below a bound. -/
def BeatRun.raiseTo (b : BeatRun) (t : Nat) : BeatRun :=
  { (List.range (t - b.raised)).foldl (fun b' i => b'.demand (b.raised + i)) b with raised := max b.raised t }

/-- Retire the oldest demand of a port. -/
def BeatRun.retire (b : BeatRun) (p : Nat) : BeatRun := b.modPort p fun q => { q with out := q.out - 1, next := q.next + b.stride p }

/-! ## MBEAT, MBEND, MLOOK (R304, R314, R315) -/

/-- Beside the standing reservations of the package BRLIM allows 5 W for each of `n` more meadows (R315). -/
def State.beatPower (s : State) (n : Nat) : Bool := decide (5 * ((s.meadows.filter fun m => m.2.beat.isSome).length + n) ≤ s.brlim.toNat)

def State.gangOf (s : State) (c : Nat) : Bool :=
  match (s.mdw c).region.bind fun r => s.regions.find? (·.id == r) with | some r => r.gang | none => false

/-- The tile type that a format class needs (R134). -/
def needType (f : ElemType) : TileType := if f.stepClass = some .i8 then .i32 else .f32

-- DEDUCED, unsafe: log entry 46.
/-- The field that names a bad fixed descriptor of MBEAT (R51). -/
def beatDescBad (w : MWord) (regs : List W32) : Option Nat :=
  let r (i : Nat) : W32 := (regs[i]?).getD 0
  let isDesc (o : MSource) : Bool := match o with | .desc _ => true | .breg _ => false
  if isDesc w.srcA && descBad (r 0) (r 1) then some 133
  else if isDesc w.srcB && descBad (r 2) (r 3) then some 127
  else none

-- DEDUCED, unsafe: log entry 46.
/-- The first check of MBEAT that fails once its waits are met: the tile's type, tags, then reasons 2 and 1. -/
def State.beatCheck (s : State) (c : Nat) (w : MWord) : Option (Nat × W64) :=
  let m := s.mdw c
  let t := w.tile.toNat
  let tagBad (o : MSource) (isB : Bool) (f : ElemType) : Option Nat :=
    match o with
    | .breg n => if !beatPorted w isB && (m.breg n.toNat).tag != f then some n.toNat else none
    | .desc _ => none
  if m.tileTy t ≠ needType w.fa then some (Cause.tileType, BitVec.ofNat 64 (16 * t + (m.tileTy t).code))
  else match (tagBad w.srcA false w.fa).or (tagBad w.srcB true w.fb) with
    | some n => some (Cause.formatConflict, BitVec.ofNat 64 (0x100000 + n))
    | none =>
      if s.gangOf c then some (Cause.beatRefused, 2)
      else if !s.beatPower 1 then some (Cause.beatRefused, 1)
      else none

-- DEDUCED, unsafe: log entry 46.
/-- The run that a word starts. -/
def beatStart (w : MWord) (x g look : Nat) (pc : W32) (regs : List W32) : BeatRun :=
  let drain := getField w.imm64 32 16
  let b : BeatRun :=
    { owner := x, w := w, pc := pc, grid := g + look * (128 * w.steps.toNat), regs := regs
      ports := [{ used := beatPorted w false }, { used := beatPorted w true }, { used := drain != 0, next := drain - 1 }] }
  b.raiseTo look

-- DEDUCED, unsafe: log entry 46.
def execMbeat (w : MWord) (s : State) : Res :=
  match s.cur with
  | .stream c x .m =>
    let m := s.mdw c
    let k := m.ctx x
    let t := w.tile.toNat
    let regs := mWordRegs k w
    if m.beat.isSome then
      match beatDescBad w regs with
      | some b => trapRes s Cause.resOperand (bitTval b)
      | none => trapRes s Cause.beatRefused 3
    else if m.drawHolds x s.gtc then .next s
    else match beatDescBad w regs, mUngranted k (some t) (beatFixed w) with
      | some b, _ => trapRes s Cause.resOperand (bitTval b)
      | none, some v => trapRes s Cause.tileNotGranted (BitVec.ofNat 64 v)
      | none, none =>
        if m.tileBusy x s.gtc t || m.arrayWord.isSome || (beatFixed w).any (m.bregLoading s.gtc) then .next s
        else match s.beatCheck c w with
          | some (cause, tval) => trapRes s cause tval
          | none =>
            let m1 := m.modCtx x fun k => k.joinReach .m (tgetD m.tileRel t {})
            .next (s.setMdw c ({ m1 with beat := some (beatStart w x s.gtc m.look k.mpc regs), beatEnd := false }.mAdvance x w.ic))
  | _ => .next s

/-- MBEND: no beat starts in a slot that begins now or later. -/
def execMbend (w : MWord) (s : State) : Res :=
  mTileWord w false (fun _ _ => false) (fun m _ _ => { m with beat := m.beat.map fun b => { b with ended := true } }) s

-- DEDUCED, safe: log entry 33.
/-- MLOOK: LOOKM1 at issue + 1, after a CSRW of the same cycle (R314). -/
def execMlook (w : MWord) (s : State) : Res :=
  let n := getField w.imm64 0 4
  if n = 0 ∨ 8 < n then trapRes s Cause.resOperand (bitTval 3)
  else mTileWord w false (fun _ _ => false) (fun m _ _ => m.addLate s.gtc 6 (.look n)) s

/-- In the cycle in which MLOOK takes effect the demands that a larger LOOK calls for are raised, behind a slot that starts then (R314). -/
def BeatRun.raiseLook (b : BeatRun) : BeatRun :=
  match b.lookTo with
  | none => b
  | some n => { (if b.ended then b else b.raiseTo (b.beat + n)) with lookTo := none }

/-! ## MDEQ (R308) -/

/-- Two coordinates of one die whose rows and columns together differ by 1. -/
def meadowAdjacent (a b : Nat) : Bool :=
  let d (x y : Nat) : Nat := (x - y) + (y - x)
  a / 256 == b / 256 && d (a / 16 % 16) (b / 16 % 16) + d (a % 16) (b % 16) == 1

/-- The target of a selector word. -/
def selTarget (sel : W32) : Nat := getField sel 0 9
def selPort (sel : W32) : Nat := getField sel 16 3
def selBad (sel : W32) : Bool := sel &&& ~~~0x000701FF#32 != 0

/-- Neither the issuing meadow nor an adjacent one. -/
def selFar (c : Nat) (sel : W32) : Bool := selTarget sel != c && !meadowAdjacent c (selTarget sel)
/-- The selector reaches a meadow that is disabled, spare or removed (R6, R50). -/
def State.selDisabled (s : State) (c : Nat) (sel : W32) : Bool :=
  meadowAdjacent c (selTarget sel) && (!s.enabled.getLsbD (selTarget sel) || s.removed.contains (selTarget sel))
/-- Cycles to a port (R308). -/
def selLat (c : Nat) (sel : W32) : Nat := if selTarget sel = c then 2 else 12

/-- The target serves another region. -/
def State.otherRegion (s : State) (c t : Nat) : Bool := match (s.mdw t).region with | some r => some r != (s.mdw c).region | none => false

/-- The due cycle of a register result whose value is not known yet. -/
def pendLater (id : Nat) : Nat := 2 ^ 80 + id

def execMdeq (ic : BitVec 2) (rd : BitVec 6) (ra rb : BitVec 5) (s : State) : Res :=
  let c := s.curM
  let x := s.curX
  let k := s.ctx c x
  let sel := k.sc.get (2 * rb.toNat + 1)
  sGuard s (rd.toNat :: pairRegs ra ++ pairRegs rb) ((resOp (selBad sel) 11).or (if s.selDisabled c sel then some (Cause.unitDisabled, 0) else none))
    (if !s.released c x (k.reachOf .s s.seq) then .next s
     else if selFar c sel then .next (s.setCore ((k.sc.advance ic s.clock).push rd.toNat (s.clock + 2) 4))
     else
       let (id, s1) := s.nextSeq
       let r : BeatReq := { id := id, coord := c, ctx := x, wait := false, rd := rd.toNat, entry := k.sc.getD ra.toNat, n := k.sc.get (2 * rb.toNat),
                            port := selPort sel, at_ := s.gtc, due := s.clock + selLat c sel, sel := sel }
       .next ((s1.setCore ((k.sc.advance ic s.clock).push rd.toNat (pendLater id) 0)).modMdw (selTarget sel) fun m => { m with beatReqs := m.beatReqs ++ [r] }))

/-- The status of an MDEQ at its port, tested in the order 4, 1, 5, 2, 3. -/
def State.mdeqStatus (s : State) (t : Nat) (r : BeatReq) : Nat :=
  if s.otherRegion r.coord t then 4 else
  match (s.mdw t).beat with
  | none => 1
  | some b =>
    let p := b.port r.port
    if !p.used then 1
    else if r.entry != endToken && descBad (r.entry.setWidth 32) (r.entry.extractLsb' 32 32) then 5
    else if r.n.toNat ≠ p.next % 2 ^ 32 then 2
    else if p.out = 0 then 3
    else 0

/-- An MDEQ takes effect in its result cycle, which its own meadow's MTC counts (R94). -/
def State.mdeqDue (s : State) (r : BeatReq) : Bool := !r.wait && decide (r.due ≤ (s.mdw r.coord).mtc) && !(s.mdw r.coord).frozen

/-- Status and entry of an MDEQ take effect together. -/
def State.mdeqApply (s : State) (t : Nat) (r : BeatReq) : State :=
  let st := s.mdeqStatus t r
  let join (b : BeatRun) : BeatRun := (b.retire r.port).modPort r.port fun q => { q with queue := q.queue ++ [r.entry] }
  let s1 := if st ≠ 0 then s else s.modMdw t fun m => { m with beat := m.beat.map join }
  let fill (p : PendReg) : PendReg := if p.due = pendLater r.id then { p with due := r.due, val := BitVec.ofNat 32 st } else p
  s1.modCtx r.coord r.ctx fun k => { k with sc := { k.sc with pend := k.sc.pend.map fill } }

/-! ## BDWAIT (R309) -/

/-- One judgement: the value of d[rd], none while no condition holds. -/
def State.bdJudge (s : State) (t : Nat) (r : BeatReq) : Option W64 :=
  if s.otherRegion r.coord t then some (BitVec.ofNat 64 (2 ^ 33)) else
  let m := s.mdw t
  match m.beat with
  | some b => if (b.port r.port).used && (b.port r.port).out != 0 then some (BitVec.ofNat 64 ((b.port r.port).next % 2 ^ 32))
    else if m.beatEnd then some (BitVec.ofNat 64 (2 ^ 32)) else none
  | none => if m.beatEnd then some (BitVec.ofNat 64 (2 ^ 32)) else none

/-- The port sends its answer. -/
def State.bdAnswer (s : State) (t : Nat) (r : BeatReq) (a : Answer) : State :=
  let s1 := s.modMdw t fun m => { m with beatReqs := m.beatReqs.filter fun q => q.id != r.id }
  { s1 with
    answers := s.answers ++ [{ id := r.id, coord := r.coord, ctx := r.ctx, ans := .wait r.id a, at_ := s.gtc + r.lat }] }

/-- The port judges a waiting BDWAIT in this cycle; in the last one a failure expires it. -/
def State.bdVisit (s : State) (t : Nat) (r : BeatReq) : State :=
  match s.bdJudge t r with
  | some v => s.bdAnswer t r (.ok v)
  | none => if r.until_ ≤ s.gtc then s.now [.bdwaitLimitExpiry t r.id] else s

/-- The limit has passed: the word traps when the answer arrives. -/
def execBdwaitLimitExpiry (mdw id : Nat) (s : State) : Res :=
  match (s.mdw mdw).beatReqs.find? (·.id == id) with
  | none => .next s
  | some r =>
    if !r.wait || decide (s.gtc < r.until_) then .next s
    else
      let next := match (s.mdw mdw).beat with | some b => (b.port r.port).next % 2 ^ 32 | none => 0
      .next (s.bdAnswer mdw r (.trap Cause.bdwaitExpired (r.sel ++ BitVec.ofNat 32 next : BitVec 64)))

-- DEDUCED, unsafe: log entry 45.
def execBdwait (ic : BitVec 2) (rd : BitVec 5) (ra rb : BitVec 6) (s : State) : Res :=
  let c := s.curM
  let x := s.curX
  let k := s.ctx c x
  let sel := k.sc.get ra.toNat
  sGuard s (pairRegs rd ++ [ra.toNat, rb.toNat]) ((resOp (selBad sel) 17).or (if s.selDisabled c sel then some (Cause.unitDisabled, 0) else none))
    (match k.sWait with
     | some w => (match w.answer with
       | none => .next s
       | some (.ok v) => .next ((s.modCtx c x fun k => { k with sWait := none }).setCore ((k.sc.advance ic s.clock).pushD rd.toNat (s.clock + 1) v))
       | some (.trap cause tval) => .next ((s.modCtx c x fun k => { k with sWait := none }).raise cause tval))
     | none =>
       if selFar c sel || s.otherRegion c (selTarget sel) then
         .next (s.setCore ((k.sc.advance ic s.clock).pushD rd.toNat (s.clock + 1) (BitVec.ofNat 64 (2 ^ 33))))
       else
         let (id, s1) := s.nextSeq
         let r : BeatReq := { id := id, coord := c, ctx := x, wait := true, port := selPort sel, at_ := s.gtc,
                              until_ := s.gtc + (k.sc.get rb.toNat).toNat, sel := sel, lat := selLat c sel }
         let s2 := (s1.modCtx c x fun k => { k with sWait := some { id := id, pc := k.sc.pc } }).modMdw (selTarget sel) fun m =>
           { m with beatReqs := m.beatReqs ++ [r] }
         .next (s2.bdVisit (selTarget sel) r))

/-- One cycle of a meadow's ports: demands that an MLOOK raises, then MDEQs that arrive, in the order of R230. -/
def State.beatPorts (s0 : State) (t : Nat) : State :=
  let s := if ((s0.mdw t).beat.bind (·.lookTo)).isSome then s0.modMdw t fun m => { m with beat := m.beat.map BeatRun.raiseLook } else s0
  let rs := (s.mdw t).beatReqs
  let due := rs.filter s.mdeqDue
  let sorted := (List.range 512).flatMap fun c => [0, 1, 2, 3].flatMap fun x => due.filter fun r => r.coord == c && r.ctx == x
  if due = [] then s
  else (sorted.foldl (fun s r => s.mdeqApply t r) s).modMdw t fun m => { m with beatReqs := m.beatReqs.filter fun r => !s.mdeqDue r }

/-- Every waiting BDWAIT is judged on the state that the cycle's events leave (R237, R309). -/
def State.beatWaits (s : State) (t : Nat) : State := ((s.mdw t).beatReqs.filter (·.wait)).foldl (fun s r => s.bdVisit t r) s

/-! ## Slots (R310-R313) -/

/-- An entry's descriptor registers. -/
def entryRegs (e : W64) : W32 × W32 := (e.setWidth 32, e.extractLsb' 32 32)

/-- An operand of step t of the beat that holds these entries. -/
def BeatRun.operand (b : BeatRun) (m : Meadow) (isB : Bool) (entries : List W64) (zero : Bool) (t : Nat) : TileOperand :=
  let f := if isB then b.w.fb else b.w.fa
  let i := if isB then 1 else 0
  if zero then { fmt := f, addrs := List.replicate 128 none }
  else if beatPorted b.w isB then
    let (lo, hi) := entryRegs ((entries[i]?).getD 0)
    { fmt := f, addrs := m.stepAddrs (spadDesc lo hi) none t }
  else m.srcOperand f (if isB then b.w.srcB else b.w.srcA) ((b.regs[2 * i]?).getD 0) ((b.regs[2 * i + 1]?).getD 0) none t

/-- The scratchpad bytes that an operand of a whole beat reads. -/
def BeatRun.operandRanges (b : BeatRun) (m : Meadow) (isB : Bool) (entries : List W64) : List (Nat × Nat) :=
  (List.range b.steps).flatMap fun t => (b.operand m isB entries false t).allRanges m.sbf

-- DESIGN CHOICE, safe: log entry 30.
/-- End the run by a cause, raised on its owner and bound to no word (R313). -/
def State.beatFail (s : State) (c : Nat) (b : BeatRun) (cause : Nat) (tval : W64) : State :=
  (s.modMdw c fun m => { m with beat := some { b with ended := true } }).raiseUnbound c b.owner cause tval

def beatTval (n : Nat) (v : Nat) : W64 := BitVec.ofNat 64 (n % 2 ^ 24 * 2 ^ 40 + v % 2 ^ 40)

/-- The ports that beat n takes an entry from. -/
def BeatRun.takes (b : BeatRun) (n : Nat) : List Nat := ([0, 1] ++ if b.drainsAt n then [2] else []).filter fun p => (b.port p).used

/-- A beat with an end token pops the token and its other entries, which are discarded (R313). -/
def BeatRun.popHeads (b : BeatRun) : BeatRun := (b.takes b.beat).foldl (fun b p => b.modPort p fun q => { q with queue := q.queue.drop 1 }) b

/-- The beat starts: entries are popped, demands raised, and its first step issues in this cycle. -/
def BeatRun.start (b : BeatRun) (g look : Nat) (zeroA zeroB : Bool) : BeatRun :=
  let n := b.beat
  let es := [0, 1].map fun p => ((b.port p).queue.head?).getD 0
  let d := if b.drainsAt n then (b.port 2).queue.head?.toList else []
  let b1 := (b.takes n).foldl (fun b p => if (b.port p).queue = [] then b.retire p else b.modPort p fun q => { q with queue := q.queue.drop 1 }) b
  { b1 with cur := some n, entries := es ++ d, zeroA := zeroA, zeroB := zeroB, step := 0, stepAt := g, beat := n + 1, prevRan := true,
            ended := b.count != 0 && n + 1 == b.count }.raiseTo (n + 1 + look)

/-- A missed slot is counted (R312). -/
def Meadow.countMiss (m : Meadow) : Meadow := { m with missCount := if m.missCount = 0xFFFFFFFF#64 then m.missCount else m.missCount + 1 }

/-- What a slot finds (R310). -/
structure SlotView where
  absent : Bool
  token : Bool
  waitA : Bool
  waitB : Bool
  bad : Option W64
  deriving DecidableEq, Repr

def BeatRun.view (b : BeatRun) (m : Meadow) : SlotView :=
  let ps := b.takes b.beat
  let heads := ps.filterMap fun p => (b.port p).queue.head?
  let es := [0, 1].map fun p => ((b.port p).queue.head?).getD endToken
  let ranges (isB : Bool) : List (Nat × Nat) :=
    if beatPorted b.w isB && (es[if isB then 1 else 0]?).getD endToken == endToken then [] else b.operandRanges m isB es
  { absent := ps.any fun p => (b.port p).queue.isEmpty
    token := heads.contains endToken
    waitA := (ranges false).any fun r => m.bufWait .mread r.1 r.2
    waitB := (ranges true).any fun r => m.bufWait .mread r.1 r.2
    bad := (ranges false ++ ranges true).findSome? fun r => m.bufFault .mread r.1 r.2 }

/-- The slot that begins in this cycle, if one does. -/
def BeatRun.slotNow (b : BeatRun) (g : Nat) : Bool := !b.ended && g == b.grid + b.slot * b.len && b.preemptLeft != some 0

-- DEDUCED, unsafe: log entry 79.
/-- The slot will freeze the meadow (R312). -/
def Meadow.slotFreezes (m : Meadow) (g : Nat) : Bool :=
  match m.beat with
  | some b =>
    let v := b.view m
    b.slotNow g && v.bad.isNone && (v.absent || v.waitA || v.waitB) && getField m.mbpolOld 0 2 == 0 && b.prevRan
  | none => false

def execBeatSlotStart (mdw : Nat) (s : State) : Res :=
  let m := s.mdw mdw
  match m.beat with
  | none => .next s
  | some b0 =>
    if !b0.slotNow s.gtc then .next s
    else
      let v := b0.view m
      let n := b0.beat
      let b := { b0 with slot := b0.slot + 1, preemptLeft := b0.preemptLeft.map (· - 1), stopAt := s.gtc + b0.len }
      let put (f : Meadow → Meadow) (b : BeatRun) : State := s.modMdw mdw fun m => { f m with beat := some b }
      match v.bad with
      | some t => .next (s.beatFail mdw b Cause.bufState (beatTval n t.toNat))
      | none =>
        if !(v.absent || v.waitA || v.waitB) then
          if v.token then .next (put id { b.popHeads with ended := true })
          else .next ((put id (b.start s.gtc m.lookOld false false)).now [.tileStepIssue mdw])
        else match getField m.mbpolOld 0 2 with
          | 0 => .next (put Meadow.countMiss { b with prevRan := false, stallUntil := if b.prevRan then s.gtc + b.len else b.stallUntil })
          | 1 =>
            if v.token then .next (put Meadow.countMiss { b.popHeads with ended := true })
            else
              let gone (p : Nat) : Bool := (b.port p).used && (b.port p).queue.isEmpty
              .next ((put Meadow.countMiss (b.start s.gtc m.lookOld (gone 0 || v.waitA) (gone 1 || v.waitB))).now [.tileStepIssue mdw])
          | _ => .next ((put Meadow.countMiss b).beatFail mdw b Cause.schedMiss (BitVec.ofNat 64 (n % 2 ^ 32 * 2 ^ 32 + s.gtc % 2 ^ 32)))

/-! ## Steps and drains of a beat (R311) -/

/-- The plan of the running beat's next step. -/
def BeatRun.stepPlan (b : BeatRun) (m : Meadow) : StepPlan :=
  let n := b.cur.getD 0
  { tile := b.w.tile.toNat, a := b.operand m false b.entries b.zeroA b.step, b := b.operand m true b.entries b.zeroB b.step
    overwrite := b.step == 0 && (if b.drain ≠ 0 then n % b.drain == 0 else n == 0 && !b.w.acc), full := false, rm := b.w.rm, once := false }

/-- The cause that a step's check finds, with its value. -/
def BeatRun.stepBad (b : BeatRun) (m : Meadow) (p : StepPlan) : Option (Nat × Nat) :=
  let conf (o : TileOperand) : Option Nat := if o.reg.isSome then none else o.conflict m
  let descOf (isB : Bool) : Bool :=
    if beatPorted b.w isB && !(if isB then b.zeroB else b.zeroA) then
      let (lo, hi) := entryRegs ((b.entries[if isB then 1 else 0]?).getD 0)
      descBad lo hi
    else false
  if descOf false then some (Cause.resOperand, 133)
  else if descOf true then some (Cause.resOperand, 127)
  else match (conf p.a).or (conf p.b) with
    | some a => some (Cause.formatConflict, a)
    | none =>
      let rs := p.a.allRanges m.sbf ++ p.b.allRanges m.sbf
      match rs.findSome? fun r => m.bufFault .mread r.1 r.2 with
      | some v => some (Cause.bufState, v.toNat)
      | none => none

/-- The running beat's next step issues when its cycle has come. -/
def State.beatStep (s : State) (c : Nat) : State :=
  let m := s.mdw c
  match m.beat with
  | none => s
  | some b =>
    match b.cur with
    | none => s
    | some n =>
      if s.gtc ≠ b.stepAt + 128 * b.step then s
      else
        let p := b.stepPlan m
        match b.stepBad m p with
        | some (cause, v) => s.beatFail c { b with cur := none } cause (beatTval n v)
        | none =>
          let last := b.steps ≤ b.step + 1
          let drains := if last then (match b.entries[2]? with | some e => b.drains ++ [{ beat := n, entry := e, at_ := s.gtc + 272 }] | none => b.drains) else b.drains
          let s1 := s.pushStep c
            { id := 0, ctx := b.owner, at_ := s.gtc, pc := b.pc, step := b.step, walk := none, last := last, once := false, tile := p.tile, rm := p.rm
              overwrite := p.overwrite, markFull := false, a := p.a, b := p.b, sbf := m.sbf, k := 0, c0 := 0, beat := some n }
          s1.modMdw c fun m =>
            { m.setUnit .array { m.unit .array with busyUntil := s.gtc + 128 } with
              beat := some { b with step := b.step + 1, cur := if last then none else some n, drains := drains } }

/-- BEAT_DRAIN: row `row` of a draining beat is read. -/
def execBeatDrain (mdw row : Nat) (s : State) : Res :=
  match (s.mdw mdw).beat with
  | none => .next s
  | some b =>
    match b.drains.find? fun d => d.at_ + row == s.gtc && d.rows.length == row with
    | none => .next s
    | some d =>
      let v := 128 * b.w.tile.toNat + row
      .next ((s.rowScrub mdw [v]).modMdw mdw fun m =>
        { m with beat := some { b with drains := b.drains.map fun q => if q = d then { d with rows := d.rows ++ [(m.row v, m.poisoned v)] } else q } })

/-- A row of a drain is written 8 cycles after its read, or the write fails and ends the run (R149, R311). -/
def State.drainWrite (s : State) (c : Nat) (b : BeatRun) (q : BeatDrain) (i : Nat) (r : Row × Bool) : State :=
  let m := s.mdw c
  let d := spadDesc (entryRegs q.entry).1 (entryRegs q.entry).2
  let a := spadRowAddr d.base d.rpitch d.rot i
  let src := (tileElem (m.tileTy b.w.tile.toNat)).getD .f32
  let fmt := b.drainFmt
  let fail (s : State) (cause v : Nat) : State :=
    s.beatFail c { b with drains := b.drains.filter fun p => p.at_ != q.at_ } cause (beatTval q.beat v)
  if rowConflict m.sbf fmt a then fail s Cause.formatConflict a
  else if 2 ^ 16 < a % 2 ^ 16 + staBytes src fmt then
    let (ix, s2) := s.freshIx
    fail s2 Cause.resOperand (Config.unstated ix).toNat
  else match (staRanges m.sbf src fmt a).findSome? fun q => m.bufFault .mwrite q.1 q.2 with
    | some u => fail s Cause.bufState u.toNat
    | none =>
      if rowNaN5 src fmt r then fail s Cause.poisonUse (128 * b.w.tile.toNat + i)
      else s.modMdw c fun m => m.staWrite 4 s.gtc m.sbf src fmt b.w.rm 0 a r

/-- The row that a drain writes in this cycle. -/
def State.drainRow (s : State) (c : Nat) (q : BeatDrain) : State :=
  match (s.mdw c).beat with
  | none => s
  | some b =>
    let i := s.gtc - q.at_ - 8
    match if q.at_ + 8 ≤ s.gtc ∧ b.drains.contains q then q.rows[i]? else none with
    | some r => s.drainWrite c b q i r
    | none => s

/-- Every started step and drain of an ended run has completed (R313). -/
def Meadow.beatOver (m : Meadow) (g : Nat) : Bool :=
  match m.beat with
  | none => false
  | some b => b.ended && b.cur.isNone && m.tileSteps.all (fun t => t.beat.isNone || decide (t.at_ + 272 ≤ g)) && b.drains.all fun d => decide (d.at_ + 135 ≤ g)

/-- The run has ended: the tile's bit, the ports, END, and the power reservation with the run itself. -/
def execBeatRunEnd (mdw : Nat) (s : State) : Res :=
  let m := s.mdw mdw
  match m.beat with
  | none => .next s
  | some b =>
    if !m.beatOver s.gtc then .next s
    else
      let m1 := { m with beat := none, beatEnd := true }
      .next (s.setMdw mdw (if b.w.full then m1.setTile b.w.tile.toNat true ((m.ctx b.owner).reachOf .m s.seq) else m1))

end Sys2Proof.Machine
end

