-- ==== Sys2Proof/Machine/Fetch.lean ====
section
/-! DEFINITION. Fetching a word (R23, R111, R193, R252, R350): the bytes at an agent's program counter, the checks of the fetch,
and the decoded word. -/
namespace Sys2Proof.Machine

/-- What a fetch gives: a word, a cause of the array stream, the status and cause that end a kernel, or an address without
memory. -/
inductive Fetched
  | word (i : Instr)
  | trap (cause : Nat) (tval : W64)
  | stop (status cause : Nat)
  | gone (pa : Nat)
  deriving DecidableEq, Repr

/-- Bytes of a stream's word (R23). -/
def streamBytes : StreamId → Nat | .s => 4 | .v => 12 | .m => 24

-- DESIGN CHOICE, safe: log entry 11.
/-- The virtual address of the next word of a stream. -/
def Ctx.fetchAddr (k : Ctx) : StreamId → W64
  | .s => k.sBase + k.sc.pc.setWidth 64
  | .v => k.vBase + k.vpc.setWidth 64
  | .m => k.mBase + k.mpc.setWidth 64

/-- The decoded word of a stream; a heath major is reserved on an array stream (R43). -/
def decodeStream (st : StreamId) (bs : List Byte) : Fetched :=
  if st = .s ∧ bytesToNat bs / 2 ^ 24 % 64 = 0x3E then .trap Cause.resOpcode (bitTval 29)
  else match decodeBytes st bs with
    | .ok i => .word i
    | .error r => .trap r.cause.code (bitTval r.bit)

/-- A major and func that an HCP executes (R43). -/
def hcpMajor (w : Nat) : Option Nat :=
  let m := w / 2 ^ 24 % 64
  let f := w % 64
  if (1 ≤ m ∧ m ≤ 0x16) ∨ m = 0x18 ∨ (0x20 ≤ m ∧ m ≤ 0x27) ∨ m = 0x2C ∨ m = 0x3E then none
  else if m = 0x17 then (if f = 0x08 ∨ f = 0x3F then none else some 2)
  else if m = 0x36 then (if f = 0 then none else some 2)
  else some 1

-- DEDUCED, unsafe: log entry 48.
/-- Fetch of an HCP, at the physical address that its counter and fixed upper bits name (R111, R251). -/
def State.fetchHcp (s : State) (h : Nat) : Fetched :=
  let t := s.hcp h
  let pa := t.hi.toNat * 2 ^ 32 + t.sc.pc.toNat
  match t.check pa 4 with
  | .error st => .stop st 0
  | .ok key =>
    let r := s.hRead key pa 4
    if r.2 ≠ 0 then .stop 2 0
    else match hcpMajor r.1 with
      | some c => .stop 1 c
      | none => match decodeBytes .s (natToBytes 4 r.1) with
        | .ok i => .word i
        | .error e => .stop 1 e.cause.code

-- DEDUCED, unsafe: log entry 12.
/-- Fetch of an array stream: EXEC in place of READ, and residency. -/
def State.fetchStream (s : State) (c x : Nat) (st : StreamId) : Fetched :=
  let m := s.mdw c
  let a := (m.ctx x).fetchAddr st
  match s.access m .fetch [(a.toNat, streamBytes st)] with
  | .trap cause v => .trap cause (if cause = Cause.notResident ∨ cause = Cause.winPerm then a else v)
  | .gone pa => .gone pa
  | .ok ps =>
    let r := s.readParts ps
    if r.2.1 ≠ 0 then .trap Cause.poisonUse a else decodeStream st (natToBytes (streamBytes st) r.1)

-- DEDUCED, unsafe: log entry 48.
/-- The word that an agent would issue next. -/
def State.fetch (s : State) (a : Agent) : Fetched :=
  match a with
  | .stream c x st => s.fetchStream c x st
  | .hcp h => s.fetchHcp h
  | .device => .stop 0 0

/-- The M-word at the head of a context's stream. -/
def State.headM (s : State) (c x : Nat) : Option Instr :=
  match s.fetchStream c x .m with | .word i => some i | _ => none

end Sys2Proof.Machine
end

