-- ==== Sys2Proof/Machine/MatEvents.lean ====
section
/-! DEFINITION. What the array and its paths do after a word has issued: later steps of a tile-step word, step results, the
rows that steps, MLDB, MSTA and MDRAW read and write, completions, and consume-once buffers (R135-R153, R168, R184). -/
namespace Sys2Proof.Machine

/-! ## Steps of a running word (R140, R142, R143, R292) -/

/-- A running word's next step has its cycle. -/
def TileWord.due (t : TileWord) (g : Nat) (stamped : Bool) : Bool := t.running && t.stamped == stamped && decide (t.lastAt + 128 ≤ g)

/-- The lowest context whose running word has a step due. -/
def Meadow.dueWord (m : Meadow) (g : Nat) (stamped : Bool) : Option (Nat × TileWord) :=
  [0, 1, 2, 3].findSome? fun x => (m.ctx x).tileWord.bind fun t => if t.due g stamped then some (x, t) else none

-- DEDUCED, unsafe: log entry 40.
/-- A later step of a stamped word: it issues in its cycle or misses. -/
def State.stampedStep (s : State) (c x : Nat) (t : TileWord) : State :=
  let m := s.mdw c
  let target := t.lastAt + 128
  let p := t.plan m t.next
  let miss := s.tileTrap c x t Cause.schedMiss 0 target
  if decide (target < s.gtc) || ((m.ctx x).tileGranted p.tile && (m.stepWaits x s.gtc t p t.next || s.arrayTaken c x)) then miss
  else match m.stepFate (m.ctx x) t p with
    | .trap cause v => s.tileTrap c x t cause v target
    | .wait => miss
    | .go => s.issueStep c x t p

-- DEDUCED, unsafe: log entry 31.
/-- A later step of a word without a stamp. -/
def State.plainStep (s : State) (c x : Nat) (t : TileWord) : State :=
  let m := s.mdw c
  let p := t.plan m t.next
  if s.arrayHeld c x || ((m.ctx x).tileGranted p.tile && m.stepWaits x s.gtc t p t.next) then s
  else match m.stepFate (m.ctx x) t p with
    | .trap cause v => s.tileTrap c x t cause v 0
    | .wait => s
    | .go => s.issueStep c x t p

/-- TILE_STEP_ISSUE: the running beat's step, else a stamped word's, else a plain word's. A walk issues no step while its context
has a cause waiting. -/
def execTileStepIssue (mdw : Nat) (s : State) : Res :=
  let m := s.mdw mdw
  if (m.beat.bind (·.cur)).isSome then .next (s.beatStep mdw)
  else if m.frozen then .next s
  else match m.dueWord s.gtc true with
    | some (x, t) => .next (s.stampedStep mdw x t)
    | none => match m.dueWord s.gtc false with
      | some (x, t) => .next (s.plainStep mdw x t)
      | none => .next s

/-- TILE_STEP_RESULT: the whole result lands in one cycle. -/
def execTileStepResult (mdw id : Nat) (s : State) : Res :=
  match (s.mdw mdw).tileSteps.find? (·.id == id) with
  | none => .next s
  | some t =>
    if s.gtc ≠ t.at_ + 272 then .next s
    else
      let rows := if t.overwrite then [] else ((List.range 128).filterMap t.dest).map (128 * t.tile + ·)
      let s1 := s.rowScrub mdw rows
      .next (s1.modMdw mdw fun m =>
        let m1 := m.stepWrite mdw t
        if t.markFull then m1.setTile t.tile true ((m1.ctx t.ctx).reachOf .m s.seq) else m1)

/-! ## Completions (R148, R149, R168) -/

def tabOf {α : Type} [DecidableEq α] (d : α) (xs : List α) : Tab α := xs.zipIdx.filterMap fun p => if p.1 = d then none else some (p.2, p.1)

/-- What an MLDB leaves in its operand register. -/
def MOp.loaded (o : MOp) : BReg :=
  let w := o.word.2
  match o.operand with
  | some p =>
    { rows := tabOf 0 ((List.range 128).map fun r => ldbSpoil w.fa ((p.rows[r]?).getD 0) ((p.bad[r]?).getD 0)), scales := tabOf 0 p.scales
      bands := tabOf 0 p.bands, tag := w.fa }
  | none => { rows := tabOf 0 (ldbConvert ((tileElem o.ty).getD .f32) w.fa w.rm o.rows), tag := w.fa }

/-- The operation with an identifier that completes in this cycle. -/
def Meadow.mopDone (m : Meadow) (g id op : Nat) : Option MOp := m.mops.find? fun o => o.id == id && o.word.1 == op && o.doneAt == g

-- DEDUCED, unsafe: log entry 63.
/-- The address of the bad word that an MLDB of a format that cannot carry poison has read (R86, R380). -/
def MOp.uncarried (o : MOp) : Option Nat := o.operand.bind fun p => if p.fmt.cls == .F then none else p.badAt

/-- MLDB_COMPLETE: rows, scales and tag are in place. -/
def execMldbComplete (mdw id : Nat) (s : State) : Res :=
  match (s.mdw mdw).mopDone s.gtc id 0x14 with
  | none => .next s
  | some o =>
    let s1 := s.modMdw mdw fun m => { m with mops := m.mops.filter fun q => q.id != id }
    match o.uncarried with
    | some a => .next (s1.raiseAtLanding mdw o.ctx .m o.pc Cause.poisonUse (BitVec.ofNat 64 a))
    | none => .next (s1.modMdw mdw fun m => { m with bregs := tput m.bregs (o.target.getD 0) o.loaded })

/-- MSTA_COMPLETE: every row has been written. -/
def execMstaComplete (mdw id : Nat) (s : State) : Res :=
  match (s.mdw mdw).mopDone s.gtc id 0x15 with
  | none => .next s
  | some _ => .next (s.modMdw mdw fun m => { m with mops := m.mops.filter fun q => q.id != id })

/-- MDRAW_COMPLETE: the index and the list entry. The context's next M-word waits one cycle more, so the operation stays until then. -/
def execMdrawComplete (mdw id : Nat) (s : State) : Res :=
  match (s.mdw mdw).mopDone s.gtc id 0x50 with
  | none => .next s
  | some o =>
    let w := o.word.2
    let p := o.draw mdw
    let entry := (getField ((o.regs[0]?).getD 0) 0 20 + 2 * getField w.imm64 16 16) % 2 ^ 20
    let short := if 0xFFFFFFFE ≤ p.1 then 0xFFFF else p.1 % 2 ^ 16
    .next (s.modMdw mdw fun m =>
      (m.modCtx o.ctx fun k => k.setMreg (w.my.toNat + 1) (BitVec.ofNat 32 p.1)).spadStore s.gtc (StreamId.rank .m) entry 2 (BitVec.ofNat 4096 short)
        (byteMask 2) o.ctx)

/-! ## Rows read and written in a cycle (R139, R148, R149) -/

/-- Row r of a step. -/
def State.stepRow (s : State) (c : Nat) (t : TileStep) : State :=
  let r := s.gtc - t.at_
  if r = 0 ∨ 128 ≤ r then s
  else
    let s1 := s.stepScrub c t r
    s1.modMdw c fun m => { m with tileSteps := m.tileSteps.map fun (q : TileStep) => if q.id = t.id then q.fetchRow m r else q }

/-- What an operation reads in this cycle. -/
def MOp.readRow (o : MOp) (m : Meadow) (r : Nat) : MOp :=
  match o.operand with
  | some p => { o with operand := some (p.fetch m o.sbf r) }
  | none => { o with rows := o.rows ++ [(m.row (o.row0 + r), m.poisoned (o.row0 + r))] }

/-- Row i of an MSTA is written. -/
def Meadow.staRow (m : Meadow) (g : Nat) (o : MOp) (i : Nat) : Meadow :=
  let w := o.word.2
  m.staWrite o.ctx g o.sbf ((tileElem o.ty).getD .f32) w.fa w.rm (getField w.imm64 16 16) (o.staAddr i) ((o.rows[i]?).getD (0, false))

def State.mopRow (s : State) (c : Nat) (o : MOp) : State :=
  let r := s.gtc - o.at_
  let s1 := if 0 < r ∧ r < o.count then
      let s0 := match o.operand with
        | some p => (p.ranges o.sbf r).foldl (fun (s : State) (q : Nat × Nat) => s.spadScrub c o.ctx q.1 q.2) s
        | none => s
      s0.modMdw c fun m => { m with mops := m.mops.map fun (q : MOp) => if q.id = o.id then q.readRow m r else q }
    else s
  if o.isSta && decide (8 ≤ r) && decide (r < o.count + 8) then
    s1.modMdw c fun m => match m.mops.find? (·.id == o.id) with
      | some q => m.staRow s.gtc q (r - 8)
      | none => m
  else s1

/-! ## Consume-once buffers (R139, R184) -/

-- DEDUCED, unsafe: log entry 43.
/-- Ranges of scratchpad meet a buffer. -/
def Meadow.readsBuf (m : Meadow) (rs : List (Nat × Nat)) (id : Nat) : Bool := rs.any fun r => (m.bufsOf r.1 r.2).any fun b => b.2.1 == id

def TileStep.reads (t : TileStep) : List (Nat × Nat) := t.a.allRanges t.sbf ++ t.b.allRanges t.sbf
def MOp.reads (o : MOp) : List (Nat × Nat) := match o.operand with | some p => p.allRanges o.sbf | none => []

/-- A step at or after `first` of a tile-step word reads a buffer. -/
def TileWord.names (t : TileWord) (m : Meadow) (first id : Nat) : Bool :=
  (List.range (t.total - first)).any fun i =>
    let p := t.plan m (first + i)
    m.readsBuf (p.a.allRanges m.sbf ++ p.b.allRanges m.sbf) id

/-- The word of a step in flight: a walk may have been suspended since. -/
def TileStep.word (t : TileStep) (k : Ctx) : Option TileWord :=
  if t.walk.isSome then (k.tileWord.filter fun w => w.walk.isSome).or k.suspended else k.tileWord

/-- Later steps of a step's word read the buffer. -/
def Meadow.laterReads (m : Meadow) (t : TileStep) (id : Nat) : Bool :=
  !t.last && (t.word (m.ctx t.ctx)).any fun w => w.names m (max w.next (t.step + 1)) id

-- DEDUCED, unsafe: log entry 43.
/-- The once-buffers in which this cycle counts a read. -/
def Meadow.onceReads (m : Meadow) (g : Nat) : List Nat :=
  let once := (m.bufs.filter fun b => b.2.once).map (·.1)
  if once = [] then [] else
  (m.tileSteps.filter fun t => t.once && t.beat.isNone && t.at_ + 128 == g).flatMap (fun t => once.filter fun id => m.readsBuf t.reads id && !m.laterReads t id) ++
  (m.mops.filter fun o => o.word.2.once && o.at_ + 128 == g).flatMap fun o => once.filter fun id => m.readsBuf o.reads id

/-- Count a read, no higher than the declared number of readers. -/
def Buf.oneRead (b : Buf) : Buf := if b.state = .full then { b with nread := min b.readers (b.nread + 1) } else b

/-- The M-word at the head of a stream names a buffer. -/
def Meadow.headNames (m : Meadow) (k : Ctx) (ins : Instr) (id : Nat) : Bool :=
  match ins with
  | .mma w | .mmag w =>
    TileWord.names { ins := ins, pc := k.mpc, total := if w.steps = 0 then 65536 else w.steps.toNat, regs := mWordRegs k w } m 0 id
  | .mwalk w =>
    let a := (k.mreg w.mx.toNat).toNat
    let topb := m.topbAt a
    (topbWorst topb).isNone && TileWord.names { ins := ins, pc := k.mpc, total := topbTotal topb, walk := some ⟨topb, k.mpc + 24⟩ } m 0 id
  | .mldbSpad w =>
    let r := mWordRegs k w
    m.readsBuf ((m.srcOperand w.fa w.srcA ((r[0]?).getD 0) ((r[1]?).getD 0) none 0).allRanges m.sbf) id
  | _ => false

/-- Some M-word that names a buffer has not passed its operand fetch. -/
def State.named (s : State) (c id : Nat) : Bool :=
  let m := s.mdw c
  m.tileSteps.any (fun t => decide (s.gtc < t.at_ + 128) && m.readsBuf t.reads id) ||
  m.mops.any (fun o => decide (s.gtc < o.at_ + 128) && m.readsBuf o.reads id) ||
  [0, 1, 2, 3].any (fun x =>
    let k := m.ctx x
    (k.tileWord.toList ++ k.suspended.toList).any (fun w => w.names m w.next id) ||
    (k.mRun && k.tileWord.all (fun w => w.pc != k.mpc || w.total == 0) && match s.headM c x with | some i => m.headNames k i id | none => false)) ||
  (match m.beat with
   | some b => [false, true].any fun isB => !beatPorted b.w isB && m.readsBuf (b.operandRanges m isB b.entries) id
   | none => false)

-- DEDUCED, unsafe: log entry 43.
/-- Reads are counted, and a buffer whose words have all passed is consumed. -/
def State.consume (s : State) (c : Nat) : State :=
  let m := s.mdw c
  let hits := m.onceReads s.gtc
  let s1 := if hits = [] then s else s.modMdw c fun m =>
    { m with bufs := hits.foldl (fun (t : Tab Buf) id => match tget t id with | some b => tput t id b.oneRead | none => t) m.bufs }
  (s1.mdw c).bufs.foldl (fun s b =>
    if b.2.once && b.2.state == .full && decide (b.2.readers ≤ b.2.nread) && !s.named c b.1 then s.modMdw c fun m => m.addLate s.gtc BufEv.consumed.rank (.buf b.1 .consumed)
    else s) s1

/-! ## Walks under a cause raised elsewhere (R153) -/

/-- The walker stops: steps that have not passed their operand fetch are dropped, and the walk is suspended at the first of them,
or at its next step. -/
def Meadow.stopWalk (m : Meadow) (x : Nat) : Meadow :=
  let k := m.ctx x
  match k.trap with
  | none => m
  | some p =>
    let gone := m.tileSteps.filter fun (t : TileStep) => t.ctx == x && t.walk.isSome && decide (p.at_ < t.at_ + 128)
    let m1 : Meadow := { m with tileSteps := m.tileSteps.filter fun q => !gone.contains q }
    let stop (m : Meadow) (w : TileWord) : Meadow := m.modCtx x fun k => { k with trap := k.trap.map fun t => { t with walk := w.walk.map (·.after) } }
    match k.tileWord with
    | some t => if t.walk.isSome then stop (m1.modCtx x fun k => k.suspendWalk t ((gone.head?.map (·.step)).getD t.next) false) t else m
    | none => match gone.head?.bind fun q => q.walk.map fun w => (w, q.step) with
      | some (w, n) => stop (m1.modCtx x fun k => { k with suspended := some { w with next := n, running := false, stamped := false } }) w
      | none => m

/-- One GTC cycle of a meadow's matrix side, before anything issues. -/
def State.matrixCycle (s : State) (c : Nat) : State :=
  let m0 := s.mdw c
  let m : Meadow := { m0 with
    tileSteps := m0.tileSteps.filter fun t => decide (s.gtc ≤ t.at_ + 272)
    mops := m0.mops.filter fun o => decide (s.gtc ≤ o.doneAt + 1) }
  let s1 := s.setMdw c ([0, 1, 2, 3].foldl Meadow.stopWalk m)
  let s2 := (s1.mdw c).tileSteps.foldl (fun s t => s.stepRow c t) s1
  let s3 := (s2.mdw c).mops.foldl (fun s o => s.mopRow c o) s2
  let s4 : State := match (s3.mdw c).beat with | some b => b.drains.foldl (fun s q => s.drainRow c q) s3 | none => s3
  if (s4.mdw c).bufs = [] then s4 else s4.consume c

end Sys2Proof.Machine
end

