-- ==== Sys2Proof/Machine/Pages.lean ====
section
/-! DEFINITION. The translation window's rules (R351-R353), the page-request path (R354-R358, R390), and the words RQPAGE, TWLD
and KEYLD. -/
namespace Sys2Proof.Machine

/-! ## Window entries (R351) -/

/-- Physical bytes of an entry by its index: frame and page size. -/
def entryRange (i : Nat) (e : W64) : Nat × Nat := (eFrame e * 2 ^ 21, if i < 2048 then 2 ^ 30 else 2 ^ 21)

/-- A range lies wholly in ordinary HBM, in one compute-capable page, or in second-tier memory (R186). -/
def State.inOrdinary (s : State) (pa len : Nat) : Bool := decide (pa + len ≤ (65536 - 128 * s.pcc) * 2 ^ 23)
def State.inCompute (s : State) (pa len : Nat) : Bool :=
  decide (2 ^ 39 ≤ pa) && decide (pa + len ≤ 2 ^ 40) && decide (pa / 2 ^ 21 % 512 < s.pcc) && pa / 2 ^ 21 == (pa + len - 1) / 2 ^ 21
def inTier2 (pa len : Nat) : Bool := decide (2 ^ 44 ≤ pa) && decide (pa + len ≤ 2 ^ 48)

/-- The reasons 1 to 3 of R351 for one entry of a window whose region has an effective key. -/
def State.entryReason (s : State) (key i : Nat) (e : W64) : Option Nat :=
  let (pa, len) := entryRange i e
  if getField e 0 9 ≠ 0 ∨ eKind e = 3 then some 1
  else if (eCc e && decide (i < 2048)) || (eFar e && decide (2048 ≤ i)) then some 2
  else if eRes e && ((decide (i < 2048) && decide (pa % 2 ^ 30 ≠ 0)) ||
      (if eFar e then !inTier2 pa len else if eCc e then !s.inCompute pa len else !s.inOrdinary pa len)) then some 2
  else if eKey e ≠ 0 ∧ eKey e ≠ key then some 3
  else none

/-- Two resident entries overlap without sharing a non-zero alias group and a key (reason 4). -/
def entriesClash (i : Nat) (e : W64) (j : Nat) (f : W64) : Bool :=
  let a := entryRange i e
  let b := entryRange j f
  i != j && eRes e && eRes f && decide (a.1 < b.1 + b.2) && decide (b.1 < a.1 + a.2) &&
    !(eAlias e != 0 && eAlias e == eAlias f && eKey e == eKey f)

/-- The first failing entry of those at the given indices, in a window as it will stand. -/
def State.windowFault (s : State) (key : Nat) (w : Tab W64) (idx : List Nat) : Option (Nat × Nat) :=
  idx.findSome? fun i =>
    let e := tgetD w i 0
    match s.entryReason key i e with
    | some r => some (i, r)
    | none => if w.any fun f => entriesClash i e f.1 f.2 then some (i, 4) else none

/-- Entries of an image in memory, read under the key slot of memory that no tenant owns (R352, R362). -/
def State.imageEntries (s : State) (pa first count : Nat) : List (Nat × W64) :=
  (List.range count).map fun i => (first + i, BitVec.ofNat 64 (s.hRead 0 (pa + 8 * (first + i)) 8).1)

/-- The effective key of the region a meadow serves. -/
def State.regionKey (s : State) (m : Meadow) : Nat :=
  match m.region with
  | some r => ((s.regions.find? fun g => g.id = r).map (·.key)).getD 0
  | none => 0

-- DESIGN CHOICE, unsafe: log entry 41.
/-- TWLD (R353): level S; the entries are checked as the copy would stand and written in one cycle, in which the S-stream's
result also is; until then the S-stream holds. -/
def execTwld (ic : BitVec 2) (rd : BitVec 6) (ra : BitVec 5) (rb : BitVec 6) (s : State) : Res :=
  let c := s.curM
  let x := s.curX
  let m := s.mdw c
  let k := m.ctx x
  let pa := (k.sc.getD ra.toNat).toNat
  let w := k.sc.get rb.toNat
  let first := getField w 0 16
  let count := getField w 16 16
  sGuard s (rd.toNat :: rb.toNat :: pairRegs ra)
    (((resOp (pa % 64 ≠ 0) 17).or (resOp (count = 0 ∨ 6144 < first + count) 11)).or (if k.pl = 0 then some (Cause.priv, 0) else none))
    (if !s.backed (pa + 8 * first) then .fault (.unbacked pa) else
     let s := s.dramScrub (pa + 8 * first) (8 * count)
     match (lineNos (pa + 8 * first) (8 * count)).find? fun l => (s.heathLine (64 * l) 0).2 with
     | some l => trapRes s Cause.poisonUse (BitVec.ofNat 64 (64 * l))
     | none =>
       let (ix, s0) := s.freshIx
       let es := s.imageEntries pa first count
       let after := es.foldl (fun t e => tputD t e.1 e.2 0) m.window
       let due := s.clock + (count + 7) / 8 + Config.excess ix
       let s1 := s0.modCtx c x fun k => { k with sc := { k.sc.advance ic s.clock with nextAt := max (due + 1) (s.clock + icGap ic) } }
       match s.windowFault (s.regionKey m) after (es.map (·.1)) with
       | some (i, r) => .next (s1.modCtx c x fun k => { k with sc := k.sc.push rd.toNat due (BitVec.ofNat 32 (0x80000000 + r * 2 ^ 16 + i)) })
       | none => .next ((s1.modCtx c x fun k => { k with sc := k.sc.push rd.toNat due 0 }).modMdw c fun m =>
           m.addLate (s.gtc + (due - s.clock)) 6 (.window (some pa) es)))

/-! ## Key slots (R362, R363) -/

/-- Both engines write back the lines held under a key slot. -/
def State.flushKey (s : State) (slot : Nat) : State :=
  [0, 1].foldl (fun s d => ((s.eng d).lines.filter fun h => h.key = slot).foldl (fun s h => s.evict d h) s) s

/-- A slot changes in every copy in one cycle, behind the write-back of the lines held under it; an access issued before keeps the
old key (R363). -/
def State.setKey (s : State) (slot : Nat) (k : Option (BitVec 512)) : State :=
  { s.flushKey slot with
    keys := match k with | some v => tput s.keys slot v | none => tdel s.keys slot
    oldKeys := ⟨slot, tget s.keys slot, s.seq⟩ :: s.oldKeys }

-- DEDUCED, unsafe: log entry 94.
/-- A blob under the wrap key of the current epoch: none once that key is erased, and none of a blob wrapped for an earlier epoch (R366). -/
def State.unwrap (s : State) (blob : BitVec 576) : Option (BitVec 512) :=
  if s.wrapErased || (List.range s.wepoch.toNat).any (fun e => (keyUnwrap (Config.wrapKey e) blob).isSome) then none
  else keyUnwrap (Config.wrapKey s.wepoch.toNat) blob

-- DESIGN CHOICE, unsafe: log entry 41.
/-- KEYLD: level S; the statuses of R363 in their order. -/
def execKeyld (ic : BitVec 2) (rd : BitVec 6) (ra : BitVec 5) (rb : BitVec 6) (s : State) : Res :=
  let c := s.curM
  let x := s.curX
  let m := s.mdw c
  let k := m.ctx x
  let va := (k.sc.getD ra.toNat).toNat
  let w := k.sc.get rb.toNat
  let slot := getField w 0 10
  sGuard s (rd.toNat :: rb.toNat :: pairRegs ra)
    (((resOp (va % 8 ≠ 0) 17).or (resOp (getField w 10 21 ≠ 0) 11)).or (if k.pl = 0 then some (Cause.priv, 0) else none))
    (match s.access m .load [(va, 72)] with
     | .trap cause tval => trapRes s cause tval
     | .gone pa => .fault (.unbacked pa)
     | .ok ps =>
       if s.ownReadWaits c x ps then .next s else
       let s := s.scrubParts ps
       let blob := s.readParts ps
       let (ix, s0) := s.freshIx
       let due := s.clock + s.partsLatency (c / 256) ps + Config.excess ix + 1
       let finish (s' : State) (v : W32) : Res := .next (s'.modCtx c x fun k =>
         { k with sc := ({ k.sc.advance ic s.clock with nextAt := max (due + 1) (s.clock + icGap ic) }).push rd.toNat due v })
       let key := s.unwrap (BitVec.ofNat 576 blob.1)
       let bad := ((List.range 72).find? fun i => blob.2.1 / 2 ^ i % 2 = 1).getD 0
       if slot = 0 then finish s0 3
       else if 2 ≤ s.level then finish s0 4
       else if w.getLsbD 31 then finish (s0.setKey slot none) 0
       else if blob.2.1 ≠ 0 then trapRes s Cause.poisonUse (BitVec.ofNat 64 ((va + bad) % 2 ^ 64 / 64 * 64))
       else match key with
         | none => finish s0 1
         | some kk =>
           if kk.extractLsb' 0 256 = kk.extractLsb' 256 256 then finish s0 2
           else finish (s0.setKey slot (some kk)) 0)

/-! ## Notifications and result entries (R207, R244) -/

/-- A completion with NOTIFY: its tag joins the notification queue, or waits and holds the engine for the context. -/
def Ctx.notify (k : Ctx) (tag : BitVec 16) : Ctx :=
  if k.notif.length < 16 ∧ k.se.owedNotify = [] then { k with notif := k.notif ++ [tag] }
  else { k with se := { k.se with owedNotify := k.se.owedNotify ++ [tag] } }

/-- Waiting notifications take the slots that are free. -/
def Ctx.settleNotify (k : Ctx) : Ctx :=
  match k.se.owedNotify with
  | [] => k
  | t :: rest => if k.notif.length < 16 then { k with notif := k.notif ++ [t], se := { k.se with owedNotify := rest } } else k

/-- The answer to a page request reaches its context: the claimed result slot is filled (R211, R357). -/
def Ctx.pageAnswer (k : Ctx) (tag : BitVec 16) (notify : Bool) (status value : Nat) : Ctx :=
  let k1 := { k with se := { k.se with claims := k.se.claims - 1, results := k.se.results ++ [seResult tag status value] } }
  if notify then k1.notify tag else k1

/-! ## Rings in host memory (R390) -/

/-- A ring descriptor of R238 as read: head, tail, depth, slot bytes, base. -/
structure RingView where
  head : Nat
  tail : Nat
  depth : Nat
  slot : Nat
  base : Nat
  deriving DecidableEq, Repr

def ringView (rd : Nat → Nat → Nat) (d : Nat) : RingView :=
  { head := rd d 4 % 2 ^ 24, tail := rd (d + 4) 4 % 2 ^ 24, depth := rd (d + 8) 4 % 2 ^ 24, slot := 8 * (rd (d + 14) 2), base := rd (d + 16) 8 }

def RingView.occ (r : RingView) : Nat := (r.tail + 2 ^ 24 - r.head) % 2 ^ 24
def RingView.addr (r : RingView) (i : Nat) : Nat := r.base + r.slot * (i % (if r.depth = 0 then 1 else r.depth))

/-- Append one entry to PRQ, or hold it while PRQ is full; MSI-X vector 0. -/
def State.prqWrite (s : State) (e : BitVec 256) : Option State :=
  let r := ringView (Memory.readN s.host) s.prq.toNat
  if r.depth ≤ r.occ then none
  else some { s with
    host := Memory.writeN (Memory.writeN s.host (r.addr r.tail) 32 e.toNat) (s.prq.toNat + 4) 4 ((r.tail + 1) % 2 ^ 24)
    msix := s.msix ++ [0] }

def State.prqPush (s : State) (e : BitVec 256) : State :=
  if s.prqHeld ≠ [] then { s with prqHeld := s.prqHeld ++ [e] }
  else (s.prqWrite e).getD { s with prqHeld := s.prqHeld ++ [e] }

/-- Held entries go out when PRQ has room. -/
def State.prqFlush (s : State) : State :=
  match s.prqHeld with
  | [] => s
  | e :: rest => match s.prqWrite e with
    | some s1 => { s1 with prqHeld := rest }
    | none => s

def prqEntry (op seq va image entry : Nat) : BitVec 256 :=
  BitVec.ofNat 256 (op + seq % 2 ^ 32 * 2 ^ 32 + va % 2 ^ 64 * 2 ^ 64 + image % 2 ^ 64 * 2 ^ 128 + entry % 2 ^ 13 * 2 ^ 192)

/-! ## Page requests (R211, R355, R358) -/

/-- Ask the host to release a page, once for all who ask for it. -/
def State.pageRequest (s : State) (image entry va : Nat) (who : Option Asker) : State :=
  match s.pageReqs.find? fun r => r.image = image ∧ r.entry = entry with
  | some q => { s with pageReqs := s.pageReqs.map fun r => if r = q then { r with askers := r.askers ++ who.toList } else r }
  | none =>
    if s.reclaims.any fun r => r.image = image ∧ r.entry = entry then
      { s with pageReqs := s.pageReqs ++ [{ seq := 0, image := image, entry := entry, va := va, askers := who.toList, since := s.gtc, out := false }] }
    else
      let n := s.seqNo + 1
      let q : PageReq := { seq := n, image := image, entry := entry, va := va, askers := who.toList, since := s.gtc }
      let s1 : State := { s with seqNo := n, pageReqs := s.pageReqs ++ [q] }
      s1.prqPush (prqEntry 1 n va image entry)

/-- RQPAGE: waits for a result slot free of other claims; an entry already resident completes at once. -/
def execRqpage (ic : BitVec 2) (ra : BitVec 5) (rb : BitVec 6) (s : State) : Res :=
  let c := s.curM
  let x := s.curX
  let m := s.mdw c
  let k := m.ctx x
  let va := k.sc.getD ra.toNat
  let w := k.sc.get rb.toNat
  let tag : BitVec 16 := w.extractLsb' 16 16
  sGuard s (rb.toNat :: pairRegs ra) (resOp (getField w 1 15 ≠ 0) 11)
    (match vaEntry va.toNat with
     | none => trapRes s Cause.winRange va
     | some (e, _, _) =>
       if 16 ≤ k.se.results.length + k.se.claims then .next s
       else
         let s1 := (s.setCore (k.sc.advance ic s.clock)).modCtx c x fun k => { k with se := { k.se with claims := k.se.claims + 1 } }
         if eRes (tgetD m.window e 0) then .next (s1.modCtx c x fun k => k.pageAnswer tag (w.getLsbD 0) 0 0)
         else .next (s1.pageRequest (m.imageOf e) e va.toNat
           (some { coord := c, ctx := x, gen := k.gen, tagc := tag, notify := w.getLsbD 0 })))

end Sys2Proof.Machine
end

