-- ==== Sys2Proof/Machine/Context.lean ====
section
/-! DEFINITION. The context area (R381-R383): stopping a meadow (R300), its image in memory, and loading one. -/
namespace Sys2Proof.Machine

/-! ## Stopping a meadow (R300, R316, R327) -/

/-- Slots that a beat run still has when a stop is asked for; none for a fault-domain stop. -/
def BeatRun.askStop (b : BeatRun) (why : StopWhy) (limit : Nat) : BeatRun :=
  if why = .stop then { b with ended := true, cur := none, drains := [] } else { b with preemptLeft := some limit, stopAt := if limit = 0 then 0 else b.stopAt }

/-- The hasp task of a context rolls back before the meadow's state is saved. -/
def State.stopHasp (s : State) (c x : Nat) : State :=
  let h := (s.ctx c x).hasp
  if h.state = .active ∧ h.roll = none then
    (s.haspRoll c x .restart none).modCtx c x fun k => { k.rollTrap with sc := { k.sc with pc := h.tbpc } }
  else s

/-- The beat run, if any, starts no further beat, and its steps and drains are done. -/
def Meadow.beatQuiet (m : Meadow) (g : Nat) : Bool :=
  match m.beat with
  | none => true
  | some b => (b.ended || (b.preemptLeft == some 0 && decide (b.stopAt ≤ g))) && b.cur.isNone &&
      m.tileSteps.all (fun t => t.beat.isNone || decide (t.at_ + 272 ≤ g)) && b.drains.all fun d => decide (d.at_ + 135 ≤ g)

/-- No word issues: a stop has been asked for, and no beat run is still to be waited for. -/
def Meadow.halted (m : Meadow) (g : Nat) : Bool := m.stopping.isSome && m.beatQuiet g

/-- The context whose CTXSV or CTXLD a stop serves. -/
def StopWhy.saver : StopWhy → Option Nat
  | .save x _ _ => some x
  | .load x _ _ => some x
  | _ => none

/-- Step 1 of R300 for a meadow that no longer issues: its hasp tasks roll back. -/
def State.haltHasps (s : State) (c : Nat) : State :=
  let m := s.mdw c
  if !m.halted s.gtc then s
  else [0, 1, 2, 3].foldl (fun s x => if (m.stopping.bind (·.why.saver)) = some x then s else s.stopHasp c x) s

/-- Ask a meadow to stop. A second request leaves the first, but a fault-domain stop or HALT takes the place of a save, and a pre-emption
follows a CTXSV or CTXLD. -/
def State.stopMeadow (s : State) (c : Nat) (why : StopWhy) : State :=
  match (s.mdw c).stopping, why with
  | some st, .preempt => s.modMdw c fun m => { m with stopping := some { st with again := st.why.saver.isSome } }
  | _, _ =>
    let free (m : Meadow) : Meadow := match m.stopping.bind (·.why.saver) with | some x => m.modCtx x fun k => { k with sWait := none } | none => m
    let s1 := s.modMdw c fun m => { free m with
      stopping := some { why := why, since := s.gtc, asked := s.gtc }
      beat := m.beat.map fun b => b.askStop why m.beatLimit.toNat }
    s1.haltHasps c

/-- Words that are held give up their request; a tile-step word stops between steps. -/
def Ctx.unissue (k : Ctx) : Ctx :=
  { k with
    sWait := k.sWait.bind fun w => if w.issued then some w else none
    armed := none
    tileWord := k.tileWord.map fun t => { t with running := false, stamped := t.stamped && t.next == 0 } }

/-- A context's issued words have completed, its loads have arrived and its stores are performed. -/
def Ctx.quiet (k : Ctx) : Bool :=
  k.sc.pend.isEmpty && k.dtopo.isNone && k.hasp.roll.isNone && (match k.sWait with | some w => !w.issued | none => true) && k.landing.all (·.arrived) && k.stores.isEmpty

-- DEDUCED, unsafe: log entry 51.
/-- Steps 2 to 5 of R300 are done. `saver` is the context whose CTXSV or CTXLD waits for it. -/
def State.drained (s : State) (c : Nat) (saver : Option Nat) : Bool :=
  let m := s.mdw c
  m.halted s.gtc && m.flights.isEmpty && m.late.isEmpty &&
  m.tileSteps.all (fun t => decide (t.at_ + 272 < s.gtc)) && m.mops.all (fun o => decide (o.doneAt < s.gtc)) &&
  [0, 1, 2, 3].all (fun x => (if saver = some x then { m.ctx x with sWait := none } else m.ctx x).quiet) &&
  [0, 1].all (fun d => (s.eng d).reqs.all fun r => r.heath || r.coord != c || !r.op.isAccess) &&
  s.answers.all fun a => a.coord != c

/-! ## The image (R381) -/

/-- Fields of a line as (offset, bytes, value). -/
def lineOf (fs : List (Nat × Nat × Nat)) : Line := BitVec.ofNat 512 (fs.foldl (fun a f => a + f.2.2 % 2 ^ (8 * f.2.1) * 2 ^ (8 * f.1)) 0)

-- DESIGN CHOICE, unsafe: log entry 50.
/-- What a save writes into an image beside the meadow's state. -/
structure ImageHead where
  coord : Nat
  rcb : Nat
  chkpt : Bool
  beat : Bool
  gtc : Nat
  /-- bytes 0x10-0x1F as they stand: TVEC and RELMASK -/
  keep : Nat
  ix : Nat
  deriving DecidableEq, Repr

def ImageHead.line (h : ImageHead) (m : Meadow) : Line :=
  lineOf [(0, 8, h.coord + 2 ^ 16 + 0x43415841 * 2 ^ 32), (8, 8, h.rcb), (0x10, 16, h.keep),
    (0x20, 8, 1 + (if h.chkpt then 2 else 0) + if h.beat then 4 else 0), (0x28, 8, m.mtc), (0x30, 8, h.gtc), (0x38, 8, m.emeter.toNat)]

/-- A line of an entry of q4-q7, the oldest entry first. -/
def Ctx.queueLine (k : Ctx) (q e j : Nat) : Line :=
  BitVec.ofNat 512 ((((k.queueRow (4 + q)).items[e]?).map fun i => i.val.toNat / 2 ^ (512 * j)).getD 0)

-- DESIGN CHOICE, unsafe: log entry 50.
/-- A line of a context's block. -/
def Ctx.imageLine (k : Ctx) (opaque_ : Line) (j : Nat) : Line :=
  if j < 4 then lineOf ((List.range 16).map fun i => (4 * i, 4, (k.sc.get (16 * j + i)).toNat))
  else if j < 20 then k.pred (j - 4)
  else if j < 22 then lineOf ((List.range 16).map fun i => (4 * i, 4, (k.mreg (16 * (j - 20) + i)).toNat))
  else if j = 22 then lineOf ([k.istat, k.tcause, k.tval, k.tpc, k.uivec, k.uistatRead, k.seed, k.ctr.setWidth 64].zipIdx.map fun p => (8 * p.2, 8, p.1.toNat))
  else if j = 23 then
    let step := (k.tileWord.map (·.next)).getD 0
    lineOf ([k.sc.pc.toNat, k.vpc.toNat, k.mpc.toNat, step].zipIdx.map fun p => (8 * p.2, 8, p.1)) ||| (opaque_ &&& (BitVec.allOnes 512 <<< 256))
  else if 128 ≤ j then k.queueLine ((j - 128) / 32) ((j - 128) / 8 % 4) (j % 8)
  else opaque_

/-- A line of the scale store of bN: the block scales of a row, 32 band scales, or the format tag. -/
def BReg.scaleLine (b : BReg) (j : Nat) : Option Line :=
  if j < 128 then some (tgetD b.scales j 0)
  else if j < 132 then some (lineOf ((List.range 32).map fun i => (2 * i, 2, (tgetD b.bands (32 * (j - 128) + i) 0).toNat)))
  else if j = 132 then some (BitVec.ofNat 512 b.tag.code.toNat)
  else none

-- DESIGN CHOICE, unsafe: log entry 50.
/-- Line l of an image; none in the parts that hold no block. -/
def Meadow.imageLine (m : Meadow) (h : ImageHead) (l : Nat) : Option Line :=
  let op := Config.imageBlock h.ix l
  if l = 0 then some (h.line m)
  else if l < 64 then some op
  else if l < 1088 then some ((m.ctx ((l - 64) / 256)).imageLine op ((l - 64) % 256))
  else if l < 1120 then some (lineOf ((List.range 8).map fun i => (8 * i, 8, (tgetD m.tags (8 * (l - 1088) + i) 0).toNat)))
  else if l < 1152 then some op
  else if l < 2048 then none
  else if l < 5120 then
    let n := (l - 2048) / 768
    let j := (l - 2048) % 768
    if j < 512 then some (BitVec.ofNat 512 ((tgetD (m.breg n).rows (j / 4) 0).toNat / 2 ^ (512 * (j % 4)))) else some (((m.breg n).scaleLine (j - 512)).getD op)
  else if l < 8192 then none
  else if l < 16384 then some (BitVec.ofNat 512 ((m.row ((l - 8192) / 8)).toNat / 2 ^ (512 * (l % 8))))
  else if l < 32768 then some (BitVec.ofNat 512 (spadRead m.spad (64 * (l - 16384)) 64))
  else none

/-- A line at a virtual address of a meadow's window, as memory holds it. -/
def State.vLine (s : State) (m : Meadow) (va : Nat) : Line :=
  match cutPages 4 0 va 64 with
  | [] => 0
  | ps => BitVec.ofNat 512 (s.readParts (ps.map fun p => p.part m)).1

def State.vWrite (s : State) (m : Meadow) (va : Nat) (d : Line) : State :=
  s.writeParts ((cutPages 4 0 va 64).map fun p => p.part m) d.toNat (2 ^ 64 - 1)

-- DEDUCED, unsafe: log entry 28.
/-- A save reads every row and the whole scratchpad, whose words are checked as every read checks them (R377, R378). -/
def State.saveScrub (s : State) (c : Nat) : State :=
  let m := s.mdw c
  if m.ecc = [] ∧ m.badWords = [] then s
  else (s.rowScrub c (List.range 1024)).scrubWords c none (((m.ecc.map (·.1)).filter (65536 ≤ ·)).map (· - 65536) ++ m.badWords)

/-- A save writes every block and keeps what the opaque blocks stand for (R381). -/
def State.saveImage (s : State) (c : Nat) (m : Meadow) (area rcb : Nat) (chkpt : Bool) : State :=
  let win := s.mdw c
  let (ix, s1) := s.freshIx
  let h : ImageHead :=
    { coord := c, rcb := rcb, chkpt := chkpt, beat := m.beat.isSome, gtc := s.gtc, keep := (s.vLine win area).toNat / 2 ^ 128 % 2 ^ 128, ix := ix }
  let s2 := (List.range 32768).foldl (fun s l => match m.imageLine h l with
    | some d => s.vWrite win (area + 64 * l) d
    | none => s) s1
  { s2 with saved := ⟨Config.imageBlock ix 1, m⟩ :: s2.saved }

/-- The bytes of lines that are not zero, as cells. -/
def lineCells (base : Nat) (d : Line) : List Host.Cell :=
  if d = 0 then [] else (List.range 64).filterMap fun j =>
    let b := BitVec.ofNat 8 (d.toNat / 2 ^ (8 * j))
    if b = 0 then none else some (base + j, b)

/-- Scratchpad and rows of an image (R67, R381). -/
def State.imageSpad (s : State) (m : Meadow) (area : Nat) : List Host.Cell :=
  (List.range 16384).flatMap fun i => lineCells (64 * i) (s.vLine m (area + 0x100000 + 64 * i))
def State.imageRows (s : State) (m : Meadow) (area : Nat) : Tab Row :=
  (List.range 1024).filterMap fun v =>
    let r := (s.readParts ((cutPages 4 0 (area + 0x80000 + 512 * v) 512).map fun p => p.part m)).1
    if r = 0 then none else some (v, BitVec.ofNat 4096 r)

/-- Bits of ISTAT, TCAUSE and UISTAT that are not Reserved, the computed NPEND of UISTAT apart (R5, R243, R299, R372). -/
def istatMask : W64 := 0xFFFFFFFFFF3FFF00#64
def tcauseMask : W64 := 0xFFFFFFFF00FFF37F#64
def uistatMask : W64 := 0xFFFFFFFFFFFF0005#64

-- DESIGN CHOICE, unsafe: log entry 92.
/-- A context with the fields that its block states; Reserved fields read as 0 (R5), and a program counter names a whole word (R23). -/
def Ctx.ofImage (k : Ctx) (rd : Nat → Line) : Ctx :=
  let q (l i : Nat) : W64 := BitVec.ofNat 64 ((rd l).toNat / 2 ^ (64 * i))
  let w (l i : Nat) : W32 := BitVec.ofNat 32 ((rd l).toNat / 2 ^ (32 * i))
  let regs := (List.range 63).foldl (fun (t : Tab W32) i => tputD t (i + 1) (w ((i + 1) / 16) ((i + 1) % 16)) 0) []
  let preds := (List.range 15).foldl (fun (t : Tab Pred) i => tputD t (i + 1) (rd (5 + i)) 0) []
  let mregs := (List.range 32).foldl (fun (t : Tab W32) i => tputD t i (w (20 + i / 16) (i % 16)) 0) []
  let rows (n : Nat) (r : QReg 4096) : QReg 4096 :=
    { r with items := r.items.zipIdx.map fun p => { p.1 with val := BitVec.ofNat 4096 ((List.range 8).foldl (fun a j => a + (rd (128 + 32 * (n - 4) + 8 * p.2 + j)).toNat * 2 ^ (512 * j)) 0) } }
  { k with
    qrow := k.qrow.map fun r => (r.1, rows r.1 r.2)
    sc := { k.sc with regs := regs, pc := w 23 0 - w 23 0 % 4 }
    preds := preds, mregs := mregs
    istat := q 22 0 &&& istatMask, tcause := q 22 1 &&& tcauseMask, tval := q 22 2, tpc := q 22 3 &&& 0xFFFFFFFF#64
    uivec := q 22 4 &&& csrMask 0x010, uistat := q 22 5 &&& uistatMask
    seed := q 22 6, ctr := (q 22 7).setWidth 32
    vpc := w 23 2 - w 23 2 % 12, mpc := w 23 4 - w 23 4 % 24
    tileWord := k.tileWord.map fun t => { t with next := (w 23 6).toNat } }

-- DESIGN CHOICE, unsafe: log entry 92.
/-- TVEC, a multiple of 4, and RELMASK of an image. -/
def State.imageVec (s : State) (m : Meadow) (area : Nat) : W32 × BitVec 16 :=
  let h := (s.vLine m area).toNat
  (BitVec.ofNat 32 (h / 2 ^ 130 * 4), BitVec.ofNat 16 (h / 2 ^ 192))

-- DEDUCED, unsafe: log entry 36.
/-- A window copy of an image in memory (R352). The entries of a poisoned line are 0. -/
def State.windowOf (s : State) (pa : Nat) : Tab W64 :=
  (List.range 768).flatMap fun l =>
    let (d, bad) := s.heathLine (pa + 64 * l) 0
    if d = 0 || bad then [] else ((List.range 8).map fun i => (8 * l + i, d.extractLsb' (64 * i) 64)).filter fun e => e.2 != 0

/-- Reading a window image and a context area leaves no latent error in their lines (R257). -/
def State.scrubImage (s : State) (m : Meadow) (area : Nat) : State :=
  if s.memClean = true then s else
  (cutPages 4 0 area (2 ^ 21)).foldl (fun s p => s.scrubParts [p.part m]) (s.dramScrub m.windowImage 49152)

/-- The image holds a beat run (R316, R381). -/
def State.imageBeat (s : State) (m : Meadow) (area : Nat) : Bool := ((s.saved.find? fun v => v.tag = s.vLine m (area + 64)).bind fun v => v.mdw.beat).isSome

/-- The meadow that an image holds, in the place of one that serves the region now: the window copy and the place come from
the region (R382). -/
def State.loadImage (s : State) (c : Nat) (area : Nat) : Meadow :=
  let m := s.mdw c
  let tag := s.vLine m (area + 64)
  let old : Meadow := ((s.saved.find? fun v => v.tag = tag).map (·.mdw)).getD {}
  let h := (s.vLine m area).toNat
  let rd (x : Nat) (l : Nat) : Line := s.vLine m (area + 0x1000 + 0x4000 * x + 64 * l)
  let vec := s.imageVec m area
  let bregs := [0, 1, 2, 3].foldl (fun (t : Tab BReg) n =>
    let base := area + 0x20000 + 0xC000 * n
    let line (j : Nat) : Line := s.vLine m (base + 0x8000 + 64 * j)
    let rows := (List.range 128).filterMap fun r =>
      let v := (s.readParts ((cutPages 4 0 (base + 256 * r) 256).map fun p => p.part m)).1
      if v = 0 then none else some (r, BitVec.ofNat 2048 v)
    tput t n
      { rows := rows, tag := ElemType.ofCode ((line 132).setWidth 4)
        scales := (List.range 128).foldl (fun (t : Tab (BitVec 512)) r => tputD t r (line r) 0) []
        bands := (List.range 128).foldl (fun (t : Tab (BitVec 16)) r => tputD t r ((line (128 + r / 32)).extractLsb' (16 * (r % 32)) 16) 0) [] }) []
  { old with
    region := m.region, rank := m.rank, timed := m.timed, prio := m.prio
    charged := if s.saved.any (fun v => v.tag = tag) then old.charged else BitVec.ofNat 64 (h / 2 ^ 448)
    mtc := h / 2 ^ 320 % 2 ^ 64, emeter := BitVec.ofNat 64 (h / 2 ^ 448)
    ctxs := [0, 1, 2, 3].map fun x => (x, (old.ctx x).ofImage (rd x))
    tags := (List.range 256).foldl (fun (t : Tab W64) i =>
      tputD t i (BitVec.ofNat 64 ((s.vLine m (area + 0x11000 + 64 * (i / 8))).toNat / 2 ^ (64 * (i % 8))) &&& tagMask) 0) []
    badWords := [], ecc := []
    rows := s.imageRows m area, spad := s.imageSpad m area, bregs := bregs
    window := s.windowOf m.windowImage, windowImage := m.windowImage, twld := []
    tvec := vec.1, relmask := vec.2
    stopping := none, frozen := false, tileSteps := [], mops := [], flights := [], late := [], beatReqs := m.beatReqs }

/-- A meadow serves no region any more; what it holds stays until the next placement clears it (R9). -/
def Meadow.release (m : Meadow) : Meadow := { m with region := none, stopping := none, frozen := false, beat := none }

/-- A meadow goes on after a save or a load (R301, R316): its beat grid restarts one slot ahead. -/
def Meadow.goOn (m : Meadow) (g : Nat) : Meadow :=
  { m with
    stopping := none
    beat := m.beat.map fun b => { b with grid := g + b.len, slot := 0, prevRan := true, preemptLeft := none } }

end Sys2Proof.Machine
end

