-- ==== Sys2Proof/Machine/System.lean ====
section
/-! DEFINITION. System words (R374, R375, R383): HALT, TRAP, ERET, CTXSV and CTXLD. -/
namespace Sys2Proof.Machine

/-- PRIV at level U. -/
def privU (s : State) : Option (Nat × W64) := if (s.ctx s.curM s.curX).pl = 0 then some (Cause.priv, 0) else none

/-- The region that a meadow serves. -/
def State.regionOf (s : State) (c : Nat) : Option Region := (s.mdw c).region.bind fun r => s.regions.find? (·.id == r)
def State.modRegion (s : State) (id : Nat) (f : Region → Region) : State := { s with regions := s.regions.map fun r => if r.id = id then f r else r }

/-- End a region: every meadow of it stops for a reason, and the launch completes with `fin` unless an end stands already. -/
def State.endRegion (s : State) (id : Nat) (why : StopWhy) (fin : EndInfo) : State :=
  match s.regions.find? (·.id == id) with
  | none => s
  | some r =>
    let s1 := s.modRegion id fun r => { r with fin := r.fin.or (some fin) }
    r.plist.foldl (fun s c => if (s.mdw c).region = some id then s.stopMeadow c why else s) s1

/-- TRAP: SOFT_TRAP with s[ra]; SEPC is the word after it. -/
def execTrap (ic : BitVec 2) (ra : BitVec 6) (s : State) : Res :=
  let _ := ic
  let c := s.curM
  let x := s.curX
  if s.held [ra.toNat] then .next s
  else .next (s.modCtx c x fun k => k.addCause
    { cause := Cause.softTrap, tval := (k.sc.get ra.toNat).setWidth 64, tpc := k.sc.pc, stream := some .s, sepc := .afterWord, at_ := s.gtc, mtc := (s.mdw c).mtc } true)

/-- ERET: level S, a trap being handled, and an aligned SEPC (R50, R95). A pending unbound cause becomes the context's cause at once. -/
def execEret (ic : BitVec 2) (s : State) : Res :=
  let c := s.curM
  let x := s.curX
  sGuard s [] (privU s)
    (let sepc : W32 := (s.ctx c x).tcause.extractLsb' 32 32
     if !(s.ctx c x).active then trapRes s Cause.eretState 0
     else if sepc.toNat % 4 ≠ 0 then trapRes s Cause.fetchAlign (sepc.setWidth 64)
     else .next (s.modCtx c x fun k =>
       let k1 := k.leaveTrap ic (s.mdw c).mtc
       match k1.unbound with
       | [] => k1
       | p :: rest => { k1 with unbound := rest, trap := some { p with tpc := k1.sc.pc, at_ := s.gtc, mtc := (s.mdw c).mtc } }))

/-- HALT: level S; the region ends with HALTED. -/
def execHalt (ic : BitVec 2) (ra : BitVec 5) (s : State) : Res :=
  let c := s.curM
  let x := s.curX
  let k := s.ctx c x
  sGuard s (pairRegs ra) (privU s)
    (match (s.mdw c).region with
     | none => .next s
     | some r => .next ((s.setCore (k.sc.advance ic s.clock)).endRegion r .halt
         { status := 0x22, fctx := ctxid c x, fval := k.sc.getD ra.toNat }))

/-- Bytes of an image. -/
def imageBytes : Nat := 2 ^ 21

-- DEDUCED, unsafe: log entry 51.
/-- A word of a context is under way and holds the S-stream until its stop has been served. -/
def State.startSave (s : State) (ic : BitVec 2) (rd : Nat) (why : StopWhy) : State :=
  let (id, s1) := s.nextSeq
  (issueWait ic rd id s1).stopMeadow s.curM why

/-- CTXSV: level S; status 2 in a beat run. -/
def execCtxsv (ic : BitVec 2) (rd : BitVec 6) (ra : BitVec 5) (s : State) : Res :=
  let c := s.curM
  let x := s.curX
  let m := s.mdw c
  let k := m.ctx x
  let img := k.sc.getD ra.toNat
  if k.sWait.isSome then .next s else
  sGuard s (rd.toNat :: pairRegs ra) ((resOp (img.toNat % 4096 ≠ 0) 17).or (privU s))
    (match s.access m .store [(img.toNat, imageBytes)] with
     | .trap cause tval => trapRes s cause tval
     | .gone pa => .fault (.unbacked pa)
     | .ok _ =>
       if m.beat.isSome then .next (s.setCore ((k.sc.advance ic s.clock).push rd.toNat (s.clock + 1) 2))
       else .next (s.startSave ic rd.toNat (.save x rd.toNat img)))

/-- The check of an image by CTXLD: the code of the first that fails. -/
def State.imageCheck (s : State) (c : Nat) (img : Nat) (move : Bool) : Option Nat :=
  let m := s.mdw c
  let h := (s.vLine m img).toNat
  let rcb := ((s.regionOf c).map (·.rcb)).getD 0
  if h / 2 ^ 32 % 2 ^ 32 ≠ 0x43415841 ∨ h / 2 ^ 16 % 2 ^ 16 ≠ 1 then some 1
  else if h / 2 ^ 256 % 2 = 0 then some 2
  else if h % 2 ^ 9 ≠ c ∧ move = false then some 3
  else if h / 2 ^ 64 % 2 ^ 64 ≠ rcb then some 4
  else if m.beat.isSome then some 5
  else none

/-- CTXLD: level S; a failed check gives its code and changes nothing. -/
def execCtxld (ic : BitVec 2) (rd : BitVec 6) (ra : BitVec 5) (rb : BitVec 6) (s : State) : Res :=
  let c := s.curM
  let x := s.curX
  let m := s.mdw c
  let k := m.ctx x
  let img := k.sc.getD ra.toNat
  let w := k.sc.get rb.toNat
  if k.sWait.isSome then .next s else
  sGuard s (rd.toNat :: rb.toNat :: pairRegs ra) (((resOp (img.toNat % 4096 ≠ 0) 17).or (resOp (1 < w.toNat) 11)).or (privU s))
    (match s.access m { read := true, resident := true } [(img.toNat, imageBytes)] with
     | .trap cause tval => trapRes s cause tval
     | .gone pa => .fault (.unbacked pa)
     | .ok _ => match s.imageCheck c img.toNat (w.getLsbD 0) with
       | some v => .next (s.setCore ((k.sc.advance ic s.clock).push rd.toNat (s.clock + 1) (BitVec.ofNat 32 v)))
       | none => .next (s.startSave ic rd.toNat (.load x img (w.getLsbD 0))))

-- DEDUCED, unsafe: log entry 51.
/-- The meadow is quiet and CTXSV writes its image: in the image the word has been passed with status 1, and the meadow itself
goes on with status 0. -/
def State.finishSave (s : State) (c x rd : Nat) (img : W64) : State :=
  let s := s.saveScrub c
  let m := s.mdw c
  let rcb := ((s.regionOf c).map (·.rcb)).getD 0
  let ic := ((m.ctx x).sWait.map (·.ic)).getD 0
  let pass (k : Ctx) : Ctx := { k with sWait := none, sc := k.sc.advance ic m.mtc }
  let saved := (m.modCtx x fun k => { pass k with sc := (pass k).sc.set rd 1 }).goOn s.gtc
  let s1 := s.saveImage c saved img.toNat rcb true
  s1.modMdw c fun m => (m.modCtx x fun k => { pass k with sc := (pass k).sc.push rd (m.mtc + 1) 0 }).goOn s.gtc

/-- The meadow is quiet and CTXLD replaces its state; its contexts keep their generations (R357) and the region's code. -/
def State.finishLoad (s : State) (c : Nat) (img : W64) : State :=
  let s1 := s.scrubImage (s.mdw c) img.toNat
  let keep (m : Meadow) (x : Nat) : Meadow :=
    let b := s1.ctx c x
    m.modCtx x fun k => { k with gen := b.gen, sBase := b.sBase, vBase := b.vBase, mBase := b.mBase }
  s1.setMdw c ([0, 1, 2, 3].foldl keep ((s1.loadImage c img.toNat).goOn s.gtc))

end Sys2Proof.Machine
end

