-- ==== Sys2Proof/Machine/SyncEvents.lean ====
section
/-! DEFINITION. What a sync engine does in a cycle (R228-R247), the answers it sends, the end of bounded waits, and entry into a
user-interrupt handler (R244). -/
namespace Sys2Proof.Machine

/-! ## Held lines (R229, R379) -/

/-- An operation on this line is at or on its way to an engine, or its set is held. -/
def SyncEngine.busyLine (e : SyncEngine) (h : HeldLine) : Bool :=
  h.pinned || (e.reqs ++ e.waiters).any (fun r => h.isLine r.va r.pa) ||
  e.sets.any fun t => t.owner.isSome && decide (t.base ≤ h.va) && decide (h.va < t.base + 64 * t.lines)

/-- An operation's line is held or can be: the SRAM has room, or a line without an operation can leave. -/
def State.canHold (s : State) (d va pa : Nat) : Bool :=
  let e := s.eng d
  decide (e.lines.length < 131072) || e.lines.any fun h => h.isLine va pa || !e.busyLine h

/-- The least recently used line without an operation leaves when the SRAM is full. -/
def State.makeRoom (s : State) (d : Nat) : State :=
  let e := s.eng d
  if e.lines.length < 131072 then s
  else match e.lines.find? fun h => !e.busyLine h with
    | some h => s.evict d h
    | none => s

-- DESIGN CHOICE, unsafe: log entry 95.
/-- A line is held from an operation's reaching it on, as far as the SRAM has room, and is then the most recently used. Landings that have
written it are in conflict (R256). Loads and stores that the engine serves (R174) do not make a line more recently used. -/
def State.reachLine (s : State) (d va pa key : Nat) : State :=
  match (s.eng d).lines.find? fun h => h.isLine va pa with
  | some h =>
    let bad := s.sramBad d h
    (if bad then s.sramScrub pa 64 else s).modEng d fun e => { e with
      lines := (e.lines.filter fun g => !g.isLine va pa) ++ [{ h with poison := h.poison || bad }] }
  | none =>
    if !s.canHold d va pa then s else
    let s1 := (s.makeRoom d).dieScrub (pa / 64 * 64) 64
    let h : HeldLine := { va := va / 64 * 64, pa := pa / 64 * 64, key := key, data := s1.dramLine pa key, poison := s1.linePoison pa }
    (s1.modEng d fun e => { e with lines := e.lines ++ [h] }).landTouch pa

/-- The line is held. -/
def State.lineHeld (s : State) (d va pa : Nat) : Bool := (s.eng d).lines.any fun h => h.isLine va pa
/-- A held line's bytes. -/
def State.lineData (s : State) (d va pa : Nat) : Line × Bool :=
  match (s.eng d).lines.find? fun h => h.isLine va pa with
  | some h => (h.data, h.poison)
  | none => (0, false)
/-- Bytes o to o + n - 1 of a line. -/
def lineMask (o n : Nat) : BitVec 64 := BitVec.ofNat 64 ((2 ^ n - 1) * 2 ^ o)
/-- An operation leaves a held line with these bytes, of which it has written n from offset o on. -/
def State.setLine (s : State) (d va pa o n : Nat) (v : Line) : State :=
  s.modEng d fun e => { e with lines := e.lines.map fun h => if h.isLine va pa then { h with data := v, dirty := h.dirty ||| lineMask o n } else h }

/-! ## Fields of a line -/

def lineGet (v : Line) (off n : Nat) : Nat := v.toNat / 2 ^ (8 * off) % 2 ^ (8 * n)
def linePut (v : Line) (off n x : Nat) : Line := setField v (8 * off) (8 * n) x

/-! ## The operations on values (R232, R233) -/

/-- The new value of an ATOM or RED of w bits. -/
def atomNew (op : Nat) (signed : Bool) (w old x : Nat) : Nat :=
  let less := if signed then decide (sextN old w < sextN x w) else decide (old < x)
  match op with
  | 0 => (old + x) % 2 ^ w
  | 1 => Nat.land old x
  | 2 => Nat.lor old x
  | 3 => Nat.xor old x
  | 4 => if less then old else x
  | 5 => if less then x else old
  | _ => x

/-- The new value of a FRED: lanes by type, old as the first source. -/
def fredNew (op : Nat) (ty : FredType) (old x : Nat) : Nat :=
  let mode := match op with | 0 => 0 | 4 => 2 | _ => 1
  let two (t : ElemType) : Nat := hCombine t mode (old % 2 ^ 16) (x % 2 ^ 16) + 2 ^ 16 * hCombine t mode (old / 2 ^ 16) (x / 2 ^ 16)
  match ty with
  | .f32 => hCombine .f32 mode old x
  | .bf16 => two .bf16
  | .f16 => two .f16

/-! ## Rings and barriers as lines (R238, R240) -/

-- DESIGN CHOICE, unsafe: log entry 95.
/-- The descriptor breaks R239: a reserved bit, a DEPTH of 0, or an occupancy above DEPTH. A DEPTH above 2^23 and an ESIZE outside 1 to 512
are taken as they stand. -/
def ringBad (v : Line) : Bool :=
  let head := lineGet v 0 4
  let tail := lineGet v 4 4
  let depth := lineGet v 8 4
  decide (2 ^ 24 ≤ head) || decide (2 ^ 24 ≤ tail) || decide (2 ^ 24 ≤ depth) || lineGet v 0x18 40 != 0 || depth == 0 ||
  decide (depth < (tail + 2 ^ 24 - head) % 2 ^ 24)

def ringOcc (v : Line) : Nat := (lineGet v 4 3 + 2 ^ 24 - lineGet v 0 3) % 2 ^ 24

def barInit (v : Line) : Bool := v.getLsbD 112
def barSet (v : Line) (expect arrived phase pending drops : Nat) (init : Bool) : Line :=
  linePut (linePut (linePut (linePut v 0 4 (expect % 2 ^ 16 + arrived % 2 ^ 16 * 2 ^ 16)) 4 4 phase) 8 4 pending) 12 4
    (drops % 2 ^ 16 + if init then 2 ^ 16 else 0)

/-- The check after a cycle's operations: the barrier after a completion (R242). -/
def barCheck (v : Line) : Option Line :=
  let expect := lineGet v 0 2
  let arrived := lineGet v 2 2
  let drops := lineGet v 12 2
  if barInit v && decide (expect ≤ arrived) && lineGet v 8 4 == 0 then
    some (barSet v (expect - drops) (arrived - expect) ((lineGet v 4 4 + 1) % 2 ^ 32) 0 0 (decide (drops < expect)))
  else none

/-! ## Requests of a cycle (R230) -/

-- DEDUCED, unsafe: log entry 57.
/-- The order in which a cycle's requests are applied. -/
def SyncReq.before (a b : SyncReq) : Bool :=
  if a.heath != b.heath then b.heath
  else if a.coord ≠ b.coord then decide (a.coord < b.coord)
  else if a.ctx ≠ b.ctx then decide (a.ctx < b.ctx)
  else decide (a.id < b.id)

def reqInsert (r : SyncReq) : List SyncReq → List SyncReq
  | [] => [r]
  | q :: t => if r.before q then r :: q :: t else q :: reqInsert r t

def SyncReq.part (r : SyncReq) : Part := { off := 0, len := 4, va := r.va, pa := r.pa, key := r.key, kind := r.kind, res := true }
def SyncReq.line (r : SyncReq) : Nat × Nat := (r.va / 64, r.pa / 64)

/-- The request has arrived at its engine, and its line's bytes are to be read from DRAM first (R229, R253). -/
def State.wantsFetch (s : State) (d : Nat) (r : SyncReq) : Bool :=
  (match r.op with | .hspdecl .. => false | _ => true) && decide (r.at_ ≤ s.gtc) && !r.fetch && s.canHold d r.va r.pa && !s.lineHeld d r.va r.pa

/-- The reads of such lines enter their arbiters. -/
def State.fetchLines (s : State) (d : Nat) : State :=
  (s.eng d).reqs.foldl (fun s r => if s.wantsFetch d r then
    (s.arbPut r.pa { id := r.id, kind := .arrayRead, deadline := notYet }).modEng d fun e =>
      { e with reqs := e.reqs.map fun q => if q.id = r.id then { q with fetch := true } else q } else s) s

/-- A heath's post finds its release done (R265), and the landing that it completes has written every line (R256). -/
def State.postReady (s : State) (r : SyncReq) : Bool :=
  (s.hcp (r.coord / 4)).stores.all (fun p => !r.after.contains p.id) && s.landings.all fun l => l.post != some r.id || l.todo.isEmpty

/-- The request may be applied now: its line is held or read (R253), its engine has room (R229), its release is done, what is ordered before it is done (R215, R218, R230),
and no task holds its line's set (R330); a heath's post waits for a task that commits. -/
def State.reqReady (s : State) (d : Nat) (r : SyncReq) : Bool :=
  decide (r.at_ ≤ s.gtc) && s.canHold d r.va r.pa && !s.wantsFetch d r && s.arbDone r.id &&
  (r.heath && !s.committingAt r.pa && s.postReady r || !r.heath && (
    (match r.rel with | some q => s.released r.coord r.ctx q r.scope | none => true) &&
    !s.readBlocked r.coord r.ctx r.acc && !(r.op.isAccess && s.setHeld r.region [r.part]) &&
    !(s.eng d).reqs.any fun q => !q.heath && q.coord == r.coord && q.ctx == r.ctx && decide (q.id < r.id) && q.line == r.line))

/-! ## Answers (R396) -/

def State.reply (s : State) (d : Nat) (r : SyncReq) (a : SyncAns) : State :=
  let (ix, s1) := s.freshIx
  { s1 with answers := s1.answers ++ [{ id := r.id, coord := r.coord, ctx := r.ctx, ans := a, at_ := s.gtc + transit (r.coord / 256) d + Config.excess ix }] }

def SyncReq.lineVa (r : SyncReq) : W64 := BitVec.ofNat 64 (r.va / 64 * 64)

-- DEDUCED, unsafe: log entry 58.
/-- The operation meets poison (R235). -/
def State.meetsPoison (s : State) (d : Nat) (r : SyncReq) : State :=
  match r.op with
  | .atom _ _ _ _ (some i) | .cas _ _ _ i | .barv _ i => s.reply d r (.mark i Cause.poisonUse r.lineVa)
  | .lnch .. => s.reply d r (.wait r.id (.trap Cause.poisonUse r.lineVa))
  | _ => s.logEngine d Cause.poisonUse r.pa r.coord r.ctx

/-! ## LNCH and HSPDECL (R247, R322) -/

-- DEDUCED, unsafe: log entry 58.
/-- The append of LNCH, with its slot translated by the issuer's window. -/
def State.ringAppend (s : State) (d : Nat) (r : SyncReq) (rec_ : Line) : State :=
  let v := (s.lineData d r.va r.pa).1
  let tail := lineGet v 4 3
  let depth := lineGet v 8 3
  let fail (cause : Nat) (tval : W64) := s.reply d r (.wait r.id (.trap cause tval))
  if ringBad v ∨ lineGet v 14 2 ≠ 8 then fail Cause.ringState r.lineVa
  else if ringOcc v = depth then s.reply d r (.wait r.id (.ok 0xFFFFFFFF#64))
  else
    let slot := (lineGet v 16 8 + 64 * (tail % depth)) % 2 ^ 64
    match s.access (s.mdw r.coord) .store [(slot, 64)] with
    | .trap cause tval => fail cause tval
    | .gone _ => fail Cause.ringState (BitVec.ofNat 64 slot)
    | .ok ps =>
      let s1 := (s.writeParts ps rec_.toNat (2 ^ 64 - 1)).setLine d r.va r.pa 4 4 (linePut v 4 4 ((tail + 1) % 2 ^ 24))
      s1.reply d r (.wait r.id (.ok (BitVec.ofNat 64 tail)))

/-- Two ranges of lines meet. -/
def HaspSet.meets (t : HaspSet) (base lines : Nat) : Bool := decide (t.base < base + 64 * lines) && decide (base < t.base + 64 * t.lines)

-- DESIGN CHOICE, safe: log entry 55.
/-- An engine has room for one more ownership entry or undo record: its SRAM has lines left, two for each, or the overflow area has
(R229, R321, R325). -/
def State.haspRoom (s : State) (d : Nat) : Bool :=
  let e := s.eng d
  decide (e.lines.length + 2 * (e.sets.length + e.log.length) + 2 ≤ 131072) || Config.haspRoom (getField s.bootcfg 0 10) e.sets.length e.log.length

-- DESIGN CHOICE, safe: log entry 55.
/-- The reason for which HSPDECL fails in the engine (R335). -/
def State.declReason (s : State) (d : Nat) (r : SyncReq) (w : W32) : Option Nat :=
  let e := s.eng d
  let mine := e.sets.find? fun t => t.region == r.region && t.ident == getField w 16 12
  if w.getLsbD 31 then
    (match mine with
     | some t => if t.owner.isSome then some 6 else none
     | none => some 6)
  else if mine.isSome then some 4
  else if ((s.eng 0).sets ++ (s.eng 1).sets).any fun t => t.region == r.region && t.meets r.va (getField w 0 16 + 1) then some 5
  else if !s.haspRoom d then some 7
  else none

def State.declare (s : State) (d : Nat) (r : SyncReq) (w : W32) : State :=
  match s.declReason d r w with
  | some v => s.reply d r (.wait r.id (.trap Cause.haspState (BitVec.ofNat 64 v)))
  | none =>
    let id := getField w 16 12
    let s1 := s.modEng d fun e =>
      let rest := e.sets.filter fun t => !(t.region == r.region && t.ident == id)
      { e with sets := if w.getLsbD 31 then rest else e.sets ++ [{ region := r.region, ident := id, base := r.va, lines := getField w 0 16 + 1 }] }
    s1.reply d r (.wait r.id (.ok 0))

/-! ## Applying one request -/

def SyncOp.isWait : SyncOp → Bool | .semw .. | .waitq .. | .barw .. => true | _ => false
def SyncOp.isBarrier : SyncOp → Bool | .bari _ | .barv .. | .barx _ | .bart _ => true | _ => false

/-- An operation that is no wait acts on its line. -/
def State.applyOp (s : State) (d : Nat) (r : SyncReq) : State :=
  let v := (s.lineData d r.va r.pa).1
  let o := r.pa % 64
  let put (x : Line) : State := if r.op.isBarrier then s.setLine d r.va r.pa 0 16 x else s.setLine d r.va r.pa o r.op.bytes x
  match r.op with
  | .atom op sg wide x slot =>
    let n := if wide then 8 else 4
    let old := lineGet v o n
    let s1 := put (linePut v o n (atomNew op sg (8 * n) old (x.toNat % 2 ^ (8 * n))))
    match slot with
    | some i => s1.reply d r (.slot i (BitVec.ofNat 64 old))
    | none => s1
  | .cas wide cmp new i =>
    let n := if wide then 8 else 4
    let old := lineGet v o n
    (if old = cmp.toNat % 2 ^ (8 * n) then put (linePut v o n new.toNat) else s).reply d r (.slot i (BitVec.ofNat 64 old))
  | .fred op ty x => put (linePut v o 4 (fredNew op ty (lineGet v o 4) x.toNat))
  | .sems inc => put (linePut v o 4 (lineGet v o 4 + inc.toNat))
  | .hpost inc err =>
    let v1 := linePut v o 4 (lineGet v o 4 + inc.toNat)
    put (match err with
      | some w => if lineGet v (o + 4) 1 = 0 then linePut v1 (o + 4) 4 w.toNat else v1
      | none => v1)
  | .bari e => put (barSet v e.toNat 0 0 0 0 true)
  | .barv drop i =>
    if barInit v then
      (put (barSet v (lineGet v 0 2) (lineGet v 2 2 + 1) (lineGet v 4 4) (lineGet v 8 4) (lineGet v 12 2 + if drop then 1 else 0) true)).reply d r
        (.slot i (BitVec.ofNat 64 (lineGet v 4 4)))
    else s.reply d r (.mark i Cause.barState r.lineVa)
  | .barx n => if barInit v then put (linePut v 8 4 (lineGet v 8 4 + n.toNat)) else s.logEngine d Cause.barState r.pa r.coord r.ctx
  | .bart n => if barInit v then put (linePut v 8 4 (lineGet v 8 4 + 2 ^ 32 - n.toNat)) else s.logEngine d Cause.barState r.pa r.coord r.ctx
  | .lnch rec_ _ => s.ringAppend d r rec_
  | .hspdecl w _ => s.declare d r w
  | .semw .. | .waitq .. | .barw .. => s

-- DEDUCED, unsafe: log entry 57.
/-- A request reaches its engine: a wait joins those that are judged, another operation acts. -/
def State.applyReq (s : State) (d : Nat) (r : SyncReq) : State :=
  if !s.reqReady d r then s else
  let s0 := { s with landings := s.landings.filter fun l => l.post != some r.id }.modEng d fun e => { e with reqs := e.reqs.filter fun q => q.id ≠ r.id }
  match r.op with
  | .hspdecl w _ => s0.declare d r w
  | op =>
    let s1 := s0.underKeys r.id fun s => s.reachLine d r.va r.pa r.key
    let s2 := if r.heath then s1.woundPa r.pa else s1
    if op.isWait then
      let s3 := if (s2.lineData d r.va r.pa).2 then s2.meetsPoison d r else s2
      s3.modEng d fun e => { e with waiters := e.waiters ++ [{ r with a0 := some s.gtc }] }
    else if (s2.lineData d r.va r.pa).2 then s2.meetsPoison d r
    else
      let s3 := s2.applyOp d r
      if op.isBarrier then s3.modEng d fun e => { e with again := if e.again.contains (r.va, r.pa, r.key) then e.again else e.again ++ [(r.va, r.pa, r.key)] } else s3

-- DEDUCED, unsafe: log entry 57.
/-- The check of one barrier line; a completed one is checked again in the next cycle. -/
def State.barrierCheck (s : State) (d : Nat) (q : Nat × Nat × Nat) : State :=
  let s1 := s.reachLine d q.1 q.2.1 q.2.2
  let v := s1.lineData d q.1 q.2.1
  if !s1.lineHeld d q.1 q.2.1 then s1.modEng d fun e => { e with again := e.again ++ [q] }
  else if v.2 then s1 else
  match barCheck v.1 with
  | some w => (s1.setLine d q.1 q.2.1 0 16 w).modEng d fun e => { e with again := e.again ++ [q] }
  | none => s1

/-! ## Bounded waits (R237) -/

inductive WaitFate | yes | no | trap (cause : Nat)
  deriving DecidableEq, Repr

/-- The condition of a wait on its line. -/
def SyncReq.judge (r : SyncReq) (v : Line) : WaitFate :=
  match r.op with
  | .semw target _ _ => if (lineGet v (r.pa % 64) 4 + 2 ^ 32 - target.toNat) % 2 ^ 32 < 2 ^ 31 then .yes else .no
  | .waitq space k _ _ =>
    if ringBad v then .trap Cause.ringState
    else if k ≤ (if space then lineGet v 8 3 - ringOcc v else ringOcc v) then .yes else .no
  | .barw phase _ _ => if !barInit v then .trap Cause.barState else if lineGet v 4 4 ≠ phase.toNat then .yes else .no
  | _ => .no

def SyncReq.limit (r : SyncReq) : Nat :=
  match r.op with | .semw _ l _ | .waitq _ _ l _ | .barw _ l _ => l | _ => 0

/-- The cause and TVAL of a wait that has lapsed. -/
def SyncReq.expiry (r : SyncReq) (v : Line) : Nat × W64 :=
  match r.op with
  | .semw target _ _ => (Cause.semwExpired, BitVec.ofNat 64 (lineGet v (r.pa % 64) 4 * 2 ^ 32 + target.toNat))
  | .waitq .. => (Cause.waitqExpired, BitVec.ofNat 64 (lineGet v 12 2 * 2 ^ 48 + lineGet v 0 3 * 2 ^ 24 + lineGet v 4 3))
  | _ => (Cause.barwExpired, BitVec.ofNat 64 (lineGet v 8 4 * 2 ^ 32 + lineGet v 2 2 * 2 ^ 16 + lineGet v 0 2))

/-- A wait is over. -/
def State.endWait (s : State) (d : Nat) (r : SyncReq) (a : Answer) : State :=
  (s.modEng d fun e => { e with waiters := e.waiters.filter fun q => q.id ≠ r.id }).reply d r (.wait r.id a)

-- DEDUCED, unsafe: log entry 58.
/-- Judge a wait on the state that the cycle leaves. On a poisoned line it is not performed, and lapses at its limit (R235, R237). -/
def State.judgeWait (s : State) (d : Nat) (r : SyncReq) : State :=
  let s1 := s.reachLine d r.va r.pa r.key
  let v := s1.lineData d r.va r.pa
  match if v.2 || !s1.lineHeld d r.va r.pa then .no else r.judge v.1 with
  | .yes => s1.endWait d r (.ok 0)
  | .trap cause => s1.endWait d r (.trap cause r.lineVa)
  | .no => if (r.a0.getD 0) + r.limit ≤ s.gtc then s1.now [.boundedWaitExpiry d r.id] else s1

/-! ## The events -/

/-- An engine has something to do in this cycle. -/
def State.engineDue (s : State) (d : Nat) : Bool :=
  let e := s.eng d
  e.waiters != [] || e.again != [] || e.reqs.any fun r => s.wantsFetch d r || s.reqReady d r

/-- SYNC_REQUEST_APPLY: one cycle of an engine: its requests in the order of R230, the barriers' check, then the waits. -/
def execSyncRequestApply (die : Nat) (s : State) : Res :=
  let old := (s.eng die).again
  let due := ((s.eng die).reqs.filter fun r => decide (r.at_ ≤ s.gtc)).foldl (fun l r => reqInsert r l) []
  let s1 := due.foldl (fun s r => s.applyReq die r) (s.fetchLines die)
  let lines := (s1.eng die).again
  let s2 := s1.modEng die fun e => { e with again := [] }
  let s3 := (old ++ lines.filter fun q => !old.contains q).foldl (fun s q => s.barrierCheck die q) s2
  .next ((s3.eng die).waiters.foldl (fun s r => s.judgeWait die r) s3)

/-- BOUNDED_WAIT_EXPIRY: the last cycle of a wait has passed and its condition has never held. -/
def execBoundedWaitExpiry (die id : Nat) (s : State) : Res :=
  match (s.eng die).waiters.find? fun r => r.id == id with
  | none => .next s
  | some r =>
    let t := r.expiry (s.lineData die r.va r.pa).1
    .next (s.endWait die r (.trap t.1 t.2))

/-- An answer reaches a word that has issued: its result, or its cause at its own address. -/
def Ctx.finishWait (k : Ctx) (w : SWait) (mtc g : Nat) : Answer → Ctx
  | .ok v => { k with sWait := none, sc := (k.sc.advance w.ic mtc).push w.rd (mtc + 1) (v.setWidth 32) }
  | .trap cause tval => { k with sWait := none }.addCause
      { cause := cause, tval := tval, tpc := w.pc, stream := some .s, sepc := .atWord, at_ := g, mtc := mtc } true

/-- SYNC_ANSWER_ARRIVAL: a slot of the return queue is filled or marked, or a held word has its answer. -/
def execSyncAnswerArrival (mdw ctx id : Nat) (s : State) : Res :=
  match s.answers.find? fun a => a.id == id && a.coord == mdw && a.ctx == ctx && decide (a.at_ ≤ s.gtc) with
  | none => .next s
  | some a =>
    let s1 : State := { s with answers := s.answers.filter fun b => b ≠ a }
    let m := s.mdw mdw
    let wait := (m.ctx ctx).sWait
    match a.ans with
    | .slot i v => .next (s1.modCtx mdw ctx fun k => { k with arq := k.arq.map fun e => if e.id = i then { e with val := some v } else e })
    | .mark i cause tval => .next (s1.modCtx mdw ctx fun k => { k with arq := k.arq.map fun e => if e.id = i then { e with mark := some cause, tval := tval } else e })
    | .wait i x =>
      match wait with
      | none => .next s1
      | some w =>
        if w.id ≠ i then .next s1
        else if w.issued then
          if m.frozen then .next s else .next (s1.modCtx mdw ctx fun k => k.finishWait w m.mtc s.gtc x)
        else .next (s1.modCtx mdw ctx fun k => { k with sWait := some { w with answer := some x } })

/-! ## User interrupts (R244) -/

/-- Entry into the handler is due at this boundary. -/
def Ctx.uiDue (k : Ctx) : Bool :=
  k.uistat.getLsbD 0 && !k.uistat.getLsbD 2 && k.notif != [] && k.sRun && k.task.isSome && k.trap.isNone && !k.active &&
  k.hasp.state != .active && k.dtopo.isNone && (match k.sWait with | some w => !w.issued | none => true)

def Ctx.enterUi (k : Ctx) (mtc : Nat) : Ctx :=
  match k.notif with
  | [] => k
  | tag :: rest =>
    let k1 := k.swapShadow
    { k1 with
      notif := rest
      uistat := setField (setField (setField k.uistat 32 32 k.sc.pc.toNat) 16 16 tag.toNat) 2 1 1
      sWait := none
      sc := { k1.sc with pc := (k.uivec.extractLsb' 0 32 &&& 0xFFFFFFFC#32), nextAt := max k.sc.nextAt (mtc + 3) } }

/-- USER_INTERRUPT_ENTRY: before the next S-word issues. -/
def execUserInterruptEntry (mdw ctx : Nat) (s : State) : Res :=
  let m := s.mdw mdw
  let k := m.ctx ctx
  let done (s : State) : State := s.modCtx mdw ctx fun k => { k with uiNow := false }
  if !k.uiDue || decide (m.mtc < k.sc.nextAt) then .next (done s)
  else .next (done (s.modCtx mdw ctx fun k => k.enterUi m.mtc))

end Sys2Proof.Machine
end

