-- ==== Sys2Proof/Machine/Tumbler.lean ====
section
/-! DEFINITION. The draw generator's words (R164, R166), DTOPO's completion, and the bank format word (R178, R203). -/
namespace Sys2Proof.Machine

/-- DSEED: K and C at issue; a V- or M-word of the same cycle comes after the S-stream and sees them. -/
def execDseed (ic : BitVec 2) (ra : BitVec 5) (rb : BitVec 6) (s : State) : Res :=
  let k := s.core
  sGuard s (rb.toNat :: pairRegs ra) none
    (.next ((s.setCore (k.advance ic s.clock)).modCtx s.curM s.curX fun t => { t with seed := k.getD ra.toNat, ctr := k.get rb.toNat }))

/-- DTOPO's S-stream starts to read bytes of its table. -/
def State.dtopoRead (s : State) (c x : Nat) (d : Dtopo) (count : Option Nat) (ps : List Part) : State :=
  let (id, s1) := s.nextSeq
  let (ix, s2) := s1.freshIx
  let lat := if ps.all (fun p => !p.res) then 1 else s.partsLatency (c / 256) ps + Config.excess ix
  (s2.arbEnter id .arrayRead (s.gtc + lat) ps).modCtx c x fun k => { k with dtopo := some { d with id := id, count := count, doneAt := s.gtc + lat } }

-- DEDUCED, unsafe: log entry 44.
/-- DTOPO: checked at issue, then the S-stream stays at the word until its table has been read. -/
def execDtopo (ic : BitVec 2) (ra : BitVec 5) (s : State) : Res :=
  let c := s.curM
  let x := s.curX
  let m := s.mdw c
  let k := m.ctx x
  let va := k.sc.getD ra.toNat
  if k.dtopo.isSome then .next s else
  sGuard s (pairRegs ra) (resOp (va.toNat % 64 ≠ 0) 17)
    (match s.access m .load [(va.toNat, 4)] with
     | .trap cause tval => trapRes s cause tval
     | .gone pa => .fault (.unbacked pa)
     | .ok ps => .next (s.dtopoRead c x { pc := k.sc.pc, ic := ic, addr := va, doneAt := 0 } none ps))

/-- A header that R164 refuses: COUNT 0 or above 128, or a reserved half-word that is not 0. -/
def topoHeadBad (v : Nat) : Bool := decide (v % 2 ^ 16 = 0) || decide (128 < v % 2 ^ 16) || v / 2 ^ 16 % 2 ^ 16 != 0

/-- The check of R164: the parents, or TVAL. -/
def topoCheck (v : Nat) : Except Nat Topo :=
  let n := v % 2 ^ 16
  let parent (e : Nat) : Nat := v / 2 ^ (32 + 16 * e) % 2 ^ 16
  if topoHeadBad v then .error 0xFFFFFFFF
  else if parent 0 ≠ 0xFFFF then .error 0
  else match (List.range n).find? fun e => e ≠ 0 && decide (e ≤ parent e) with
    | some e => .error e
    | none => .ok ((List.range n).map fun e => BitVec.ofNat 32 (parent e))

/-- A cause of the S-word that stands at the head of its stream. -/
def State.raiseS (s : State) (c x cause : Nat) (tval : W64) : State :=
  s.modCtx c x fun k => k.addCause
    { cause := cause, tval := tval, tpc := k.sc.pc, stream := some .s, sepc := .atWord, at_ := s.gtc, mtc := (s.mdw c).mtc } true

/-- A scratchpad bank that some tile step in flight reads and has not passed its operand fetch (R178). -/
def Meadow.bankRead (m : Meadow) (g b : Nat) : Bool :=
  m.tileSteps.any fun t => decide (g < t.at_ + 128) && [t.a, t.b].any fun o => o.addrs.any fun a => match a with
    | some a => a / 2 ^ 16 % 16 == b
    | none => false

-- DEDUCED, unsafe: log entry 44.
/-- SBFW: a bank format register at issue + 1; s[rd] takes the previous value. -/
def execSbfw (ic : BitVec 2) (rd ra rb : BitVec 6) (s : State) : Res :=
  let c := s.curM
  let m := s.mdw c
  let k := s.core
  let n := (k.get ra.toNat).toNat
  let v := k.get rb.toNat
  if s.held [rd.toNat, ra.toNat, rb.toNat] then .next s
  else if 16 ≤ n then trapRes s Cause.resOperand (bitTval 17)
  else if getField v 12 3 = 7 then trapRes s Cause.resOperand (bitTval 11)
  else if m.bankRead s.gtc n then .next s
  else .next ((s.setCore ((k.advance ic s.clock).push rd.toNat (s.clock + 1) (tgetD m.sbf n 0))).modMdw c fun m =>
    m.addLate s.gtc 5 (.sbf n (v &&& 0x00FF700F#32)))

end Sys2Proof.Machine
end

