-- ==== Sys2Proof/Machine/VWords.lean ====
section
/-! DEFINITION. The meaning of each V-word (06_vector_isa.md, 08_draws.md, R197-R200). -/
namespace Sys2Proof.Machine

/-- V_NOP (R133): V-stream no operation occupying the vector unit one cycle. -/
def execVNop (w : VWord) (s : State) : Res := vGo (.vNop w) s
/-- VADD (R118): Lane-wise addition over a row sweep. -/
def execVadd (w : VWord) (s : State) : Res := vGo (.vadd w) s
/-- VSUB (R118): Lane-wise subtraction. -/
def execVsub (w : VWord) (s : State) : Res := vGo (.vsub w) s
/-- VMUL (R118): Lane-wise multiplication. -/
def execVmul (w : VWord) (s : State) : Res := vGo (.vmul w) s
/-- VFMA (R118): Lane-wise fused multiply-add into the destination. -/
def execVfma (w : VWord) (s : State) : Res := vGo (.vfma w) s
/-- VMIN (R118): Lane-wise minimum. -/
def execVmin (w : VWord) (s : State) : Res := vGo (.vmin w) s
/-- VMAX (R118): Lane-wise maximum. -/
def execVmax (w : VWord) (s : State) : Res := vGo (.vmax w) s
/-- VABS (R118): Lane-wise absolute value. -/
def execVabs (w : VWord) (s : State) : Res := vGo (.vabs w) s
/-- VNEG (R118): Lane-wise negation. -/
def execVneg (w : VWord) (s : State) : Res := vGo (.vneg w) s
/-- VEXP2 (R120): Correctly rounded base-2 exponential. -/
def execVexp2 (w : VWord) (s : State) : Res := vGo (.vexp2 w) s
/-- VLOG2 (R120): Correctly rounded base-2 logarithm. -/
def execVlog2 (w : VWord) (s : State) : Res := vGo (.vlog2 w) s
/-- VRCP (R120): Correctly rounded reciprocal. -/
def execVrcp (w : VWord) (s : State) : Res := vGo (.vrcp w) s
/-- VRSQ (R120): Correctly rounded reciprocal square root. -/
def execVrsq (w : VWord) (s : State) : Res := vGo (.vrsq w) s
/-- VSQRT (R120): Correctly rounded square root. -/
def execVsqrt (w : VWord) (s : State) : Res := vGo (.vsqrt w) s
/-- VCMP_EQ (R122): Compare equal into predicates. -/
def execVcmpEq (w : VWord) (s : State) : Res := vGo (.vcmpEq w) s
/-- VCMP_NE (R122): Compare not equal into predicates. -/
def execVcmpNe (w : VWord) (s : State) : Res := vGo (.vcmpNe w) s
/-- VCMP_LT (R122): Compare less than into predicates. -/
def execVcmpLt (w : VWord) (s : State) : Res := vGo (.vcmpLt w) s
/-- VCMP_LE (R122): Compare less or equal into predicates. -/
def execVcmpLe (w : VWord) (s : State) : Res := vGo (.vcmpLe w) s
/-- VCMP_GT (R122): Compare greater than into predicates. -/
def execVcmpGt (w : VWord) (s : State) : Res := vGo (.vcmpGt w) s
/-- VCMP_GE (R122): Compare greater or equal into predicates. -/
def execVcmpGe (w : VWord) (s : State) : Res := vGo (.vcmpGe w) s
/-- VCMP_UN (R122): Compare unordered into predicates. -/
def execVcmpUn (w : VWord) (s : State) : Res := vGo (.vcmpUn w) s
/-- VSEL (R123): Select lanes from two sources by predicate. -/
def execVsel (w : VWord) (s : State) : Res := vGo (.vsel w) s
/-- VCVT (R124): Convert lanes between formats, or pack block-scaled formats. -/
def execVcvt (w : VWord) (s : State) : Res := vGo (.vcvt w) s
/-- VSCALE (R126): Propose a CB4 band scale from a band's largest magnitude. -/
def execVscale (w : VWord) (s : State) : Res := vGo (.vscale w) s
/-- VAND (R127): Lane-wise bitwise AND. -/
def execVand (w : VWord) (s : State) : Res := vGo (.vand w) s
/-- VOR (R127): Lane-wise bitwise OR. -/
def execVor (w : VWord) (s : State) : Res := vGo (.vor w) s
/-- VXOR (R127): Lane-wise bitwise XOR. -/
def execVxor (w : VWord) (s : State) : Res := vGo (.vxor w) s
/-- VNOT (R127): Lane-wise bitwise NOT. -/
def execVnot (w : VWord) (s : State) : Res := vGo (.vnot w) s
/-- VSHL (R127): Lane-wise saturating left shift. -/
def execVshl (w : VWord) (s : State) : Res := vGo (.vshl w) s
/-- VSHR (R127): Lane-wise logical right shift. -/
def execVshr (w : VWord) (s : State) : Res := vGo (.vshr w) s
/-- VSRA (R127): Lane-wise arithmetic right shift. -/
def execVsra (w : VWord) (s : State) : Res := vGo (.vsra w) s
/-- VPOPC (R127): Lane-wise population count. -/
def execVpopc (w : VWord) (s : State) : Res := vGo (.vpopc w) s
/-- VCLZ (R127): Lane-wise count of leading zeros. -/
def execVclz (w : VWord) (s : State) : Res := vGo (.vclz w) s
/-- VMULH (R127): Lane-wise high half of the product. -/
def execVmulh (w : VWord) (s : State) : Res := vGo (.vmulh w) s
/-- VPERM (R128): Permute lanes by an index row. -/
def execVperm (w : VWord) (s : State) : Res := vGo (.vperm w) s
/-- VBCAST (R128): Broadcast one lane to all lanes. -/
def execVbcast (w : VWord) (s : State) : Res := vGo (.vbcast w) s
/-- VIOTA (R128): Write an arithmetic sequence of lane values. -/
def execViota (w : VWord) (s : State) : Res := vGo (.viota w) s
/-- VROT (R128): Rotate lanes by an immediate. -/
def execVrot (w : VWord) (s : State) : Res := vGo (.vrot w) s
/-- VCOMP (R128): Compact active lanes to the low lanes. -/
def execVcomp (w : VWord) (s : State) : Res := vGo (.vcomp w) s
/-- VMOV (R128): Copy lanes, with optional negate or absolute value. -/
def execVmov (w : VWord) (s : State) : Res := vGo (.vmov w) s
/-- VRSUM (R129): Pairwise-tree sum of a row's active lanes. -/
def execVrsum (w : VWord) (s : State) : Res := vGo (.vrsum w) s
/-- VRMAX (R129): Tree maximum of a row's active lanes. -/
def execVrmax (w : VWord) (s : State) : Res := vGo (.vrmax w) s
/-- VRMIN (R129): Tree minimum of a row's active lanes. -/
def execVrmin (w : VWord) (s : State) : Res := vGo (.vrmin w) s
/-- VSCAN (R130): Serial running sum across lanes. -/
def execVscan (w : VWord) (s : State) : Res := vGo (.vscan w) s
/-- VSCANMAX (R130): Serial running maximum across lanes. -/
def execVscanmax (w : VWord) (s : State) : Res := vGo (.vscanmax w) s
/-- PAND (R131): Predicate AND. -/
def execPand (w : VWord) (s : State) : Res := vGo (.pand w) s
/-- POR (R131): Predicate OR. -/
def execPor (w : VWord) (s : State) : Res := vGo (.por w) s
/-- PXOR (R131): Predicate XOR. -/
def execPxor (w : VWord) (s : State) : Res := vGo (.pxor w) s
/-- PNOT (R131): Predicate NOT. -/
def execPnot (w : VWord) (s : State) : Res := vGo (.pnot w) s
/-- VLD (R197): Load 512-byte rows from popped memory addresses at a landing offset, reporting residency. -/
def execVld (w : VWord) (s : State) : Res := vGo (.vld w) s
/-- VST (R198): Store the active lanes of rows to popped memory addresses. -/
def execVst (w : VWord) (s : State) : Res := vGo (.vst w) s
/-- VLDS (R200): Load scratchpad rows into vector rows or queues. -/
def execVlds (w : VWord) (s : State) : Res := vGo (.vlds w) s
/-- VSTS (R200): Store the active lanes of rows to scratchpad. -/
def execVsts (w : VWord) (s : State) : Res := vGo (.vsts w) s
/-- VDRAW (R160): Tempered draw over logit rows, one draw pair per step. -/
def execVdraw (w : VWord) (s : State) : Res := vGo (.vdraw w) s
/-- VDMRG (R162): Lane-wise merge of two draw pairs. -/
def execVdmrg (w : VWord) (s : State) : Res := vGo (.vdmrg w) s
/-- DTREE (R165): Merge draw pairs through the installed topology table. -/
def execDtree (w : VWord) (s : State) : Res := vGo (.dtree w) s
/-- VMARK_FULL (R132): Set a tile's bit to full, keeping it on the vector side. -/
def execVmarkFull (w : VWord) (s : State) : Res := vGo (.vmarkFull w) s
/-- VMARK_EMPTY (R132): Set a tile's bit to empty, handing it to the M-stream. -/
def execVmarkEmpty (w : VWord) (s : State) : Res := vGo (.vmarkEmpty w) s
/-- VEXIT (R133): End the V-stream task body after earlier words deliver. -/
def execVexit (w : VWord) (s : State) : Res := vGo (.vexit w) s

end Sys2Proof.Machine
end

