-- ==== Sys2Proof/Machine/CoreEvents.lean ====
section
/-! DEFINITION. What follows the issue of words on a context: results, sweep steps, loads on their way to their landing (R190-R200),
hasp tasks meeting their sets (R323-R330), and trap entry (R373). -/
namespace Sys2Proof.Machine

/-! ## Results -/

/-- S_WORD_RESULT: every result of the S-stream or HCP that is due is written, in program order (R26, R27, R96). The MTC cycle of a
frozen meadow is not over, and a load that lands in it may come first (R190). -/
def execSWordResult (a : Agent) (s : State) : Res :=
  match a with
  | .stream c x _ => .next (if (s.mdw c).frozen then s else s.modCtx c x fun k => { k with sc := k.sc.settle (s.mdw c).mtc })
  | .hcp h => .next (s.modHcp h fun t => { t with sc := t.sc.settle s.hcpCycle })
  | .device => .next s

/-- VECTOR_SWEEP_STEP: the next step of a flight whose cycle has come, once its queues hold what it pops (R21). -/
def execVectorSweepStep (mdw fl : Nat) (s : State) : Res :=
  let m := s.mdw mdw
  match m.flights.find? fun f => f.id == fl with
  | none => .next s
  | some f => if f.step < f.n ∧ f.readAt f.step ≤ s.gtc ∧ f.fed (m.ctx f.ctx) s.gtc then .next (s.sweepStep mdw f) else .next s

/-- A result's queue has a slot for it; rows and predicates need none (R21). -/
def VFlight.roomFor (f : VFlight) (k : Ctx) (g : Nat) : Bool :=
  match opQueue? f.word.2.dst with | some q => decide (0 < k.qRoom g q) | none => true

/-- VECTOR_STEP_RESULT: the result of a step is written in its result cycle, or when its queue has a slot. -/
def execVectorStepResult (mdw fl st : Nat) (s : State) : Res :=
  let m := s.mdw mdw
  match m.flights.find? fun f => f.id == fl with
  | none => .next s
  | some f => match f.done.find? fun r => r.step == st && decide (r.due ≤ s.gtc) with
    | none => .next s
    | some r => if f.roomFor (m.ctx f.ctx) s.gtc then .next (s.stepResult mdw f r) else .next s

/-! ## Loads (R190-R195) -/

-- DEDUCED, unsafe: log entry 24.
/-- The parts of a load that may be read: their time has come, and what is ordered before them is performed, on their
lines too (R215, R216, R253). -/
def State.readyParts (s : State) (c x : Nat) (e : LandEntry) : List Part :=
  e.openParts.filter fun p => e.todo.any (fun t => t.1 == p.off && decide (t.2 ≤ s.gtc)) && !s.readBlocked c x (e.accOf [p]) &&
    (e.hasp || !(p.res && p.lines.any fun l => s.heathAhead e.id (l.2 / 64) false))

-- DEDUCED, unsafe: log entry 24.
/-- Some part of a load may be read now; a hasp task's load is judged whole (R323). -/
def State.loadReady (s : State) (c x : Nat) (e : LandEntry) : Bool :=
  !e.arrived && s.arbDone e.id &&
  if e.spad.isSome then decide (e.arriveAt ≤ s.gtc)
  else if e.hasp then decide ((s.readyParts c x e).length = e.openParts.length)
  else !(s.readyParts c x e).isEmpty

def Ctx.modLanding (k : Ctx) (id : Nat) (f : LandEntry → LandEntry) : Ctx :=
  { k with landing := k.landing.map fun e => if e.id = id then f e else e }

-- DEDUCED, unsafe: log entry 59.
/-- The data of a load is taken from memory into the landing buffer. -/
def State.takeData (s : State) (c x : Nat) (e : LandEntry) : State :=
  let ps := s.readyParts c x e
  let s1 := s.scrubParts ps
  let e1 := s1.arrive e ps
  s1.modCtx c x fun k => k.modLanding e.id fun _ => e1

/-- LOAD_DATA_ARRIVAL: a load of no hasp task. -/
def execLoadDataArrival (mdw ctx id : Nat) (s : State) : Res :=
  match (s.ctx mdw ctx).landing.find? fun e => e.id == id with
  | none => .next s
  | some e => if s.loadReady mdw ctx e && !e.hasp then .next (s.takeData mdw ctx e) else .next s

/-! ## DTOPO's reads (R164) -/

/-- Position of the lowest set bit among the first ones. -/
def firstBit (v : Nat) : Nat → Nat
  | 0 => 0
  | n + 1 => if v % 2 = 1 then 0 else 1 + firstBit (v / 2) n

/-- A read of DTOPO may be performed: its time has come, the arbiters have served it, and the S-stream's earlier accesses that the
page kinds put before it are performed (R215, R253). -/
def State.dtopoReady (s : State) (c x : Nat) (d : Dtopo) (ps : List Part) : Bool :=
  decide (d.doneAt ≤ s.gtc) && s.arbDone d.id && !s.readBlocked c x { id := d.id, stream := .s, load := true, parts := partKeys ps, reach := (s.ctx c x).reachOf .s d.id }

-- DEDUCED, unsafe: log entry 44.
/-- The bytes of a DTOPO have been read: poison first; a header without a fault leads to the read of the table that its COUNT
gives; a table that passes the check is installed at the end of this cycle. -/
def State.dtopoData (s : State) (c x : Nat) (d : Dtopo) (ps : List Part) : Res :=
  let m := s.mdw c
  let done := s.modCtx c x fun k => { k with dtopo := none }
  let r := s.readParts ps
  if r.2.1 ≠ 0 then .next (done.raiseS c x Cause.poisonUse (d.addr + BitVec.ofNat 64 (firstBit r.2.1 320 / 64 * 64)))
  else match d.count with
    | none =>
      if topoHeadBad r.1 then .next (done.raiseS c x Cause.topoReject 0xFFFFFFFF)
      else match s.access m .load [(d.addr.toNat, 4 + 2 * (r.1 % 2 ^ 16))] with
        | .trap cause tval => .next (done.raiseS c x cause tval)
        | .gone pa => .fault (.unbacked pa)
        | .ok qs => .next (s.dtopoRead c x d (some (r.1 % 2 ^ 16)) qs)
    | some n => match topoCheck (r.1 / 2 ^ 32 * 2 ^ 32 + n) with
      | .error v => .next (done.raiseS c x Cause.topoReject (BitVec.ofNat 64 v))
      | .ok t => .next (done.modMdw c fun m => (m.modCtx x fun k => { k with sc := k.sc.advance d.ic m.mtc }).addLate s.gtc 5 (.topo t))

-- DEDUCED, unsafe: log entry 44.
/-- DTOPO_COMPLETE: DTOPO's next read is performed as a load of the S-stream is. -/
def execDtopoComplete (mdw ctx : Nat) (s : State) : Res :=
  match (s.ctx mdw ctx).dtopo with
  | none => .next s
  | some d => match s.access (s.mdw mdw) .load [(d.addr.toNat, match d.count with | none => 4 | some n => 4 + 2 * n)] with
    | .trap cause tval => .next ((s.modCtx mdw ctx fun k => { k with dtopo := none }).raiseS mdw ctx cause tval)
    | .gone pa => .fault (.unbacked pa)
    | .ok ps => if s.dtopoReady mdw ctx d ps then (s.scrubParts ps).dtopoData mdw ctx d ps else .next s

/-! ## Landings -/

/-- The virtual address of the line of the first poisoned byte; of the word itself in scratchpad. -/
def LandEntry.badAddr (e : LandEntry) : W64 :=
  let b := ((List.range e.bytes).find? fun i => e.bad.getLsbD i).getD 0
  match e.spad with
  | some a => BitVec.ofNat 64 ((a + b) % 2 ^ 20 / 8 * 8)
  | none =>
    let va := ((e.parts.find? fun p => p.off ≤ b && b < p.off + p.len).map fun p => p.va + (b - p.off)).getD 0
    BitVec.ofNat 64 (va / 64 * 64)

/-- A row with a poison NaN in each lane that has a byte in a poisoned line (R195). -/
def poisonLanes (t : ElemType) (d : Row) (bad : Pred) : Row :=
  if bad = 0 then d else
  let w := t.width
  let hit (j : Nat) : Bool := (List.range (max 1 (w / 8))).any fun i => bad.getLsbD (j * w / 8 + i)
  BitVec.ofNat 4096 (packLanes w (((lanesOf w t.lanes d.toNat).zipIdx).map fun p => if hit p.2 then poisonLane t else p.1))

/-- The entry of a load that has landed is free. -/
def Ctx.dropLanding (k : Ctx) (id : Nat) : Ctx := { k with landing := k.landing.filter fun e => e.id != id }

-- DEDUCED, unsafe: log entry 59.
/-- A scalar load lands; in a cycle in which a V-word has written bit 0 of p15 that write stands (R27). -/
def Ctx.landScalar (k : Ctx) (e : LandEntry) (rd : Nat) (pair p15 : Bool) (mtc g : Nat) : Ctx :=
  let k1 := k.dropLanding e.id
  let sc := k1.sc.settleTo mtc e.ord
  let sc1 := if e.bad ≠ 0 then sc
    else if pair then (sc.set rd (e.data.extractLsb' 0 32)).set (rd + 1) (e.data.extractLsb' 32 32) else sc.set rd (e.data.setWidth 32)
  let k2 := { k1 with sc := sc1 }
  if p15 ∧ k.p15At ≠ some g then k2.setResBit (e.nonres != 0) else k2

/-- Rows that words before one with an identifier push on a queue in this cycle. -/
def Meadow.pushesBefore (m : Meadow) (x q id g : Nat) : Nat :=
  ((m.ctx x).landing.filter fun e => e.dest == .queue q && e.arrived && decide (e.lam ≤ m.mtc) && decide (e.id < id)).length +
  ((m.flights.filter fun f => f.ctx == x && opQueue? f.word.2.dst == some q && decide (f.id < id)).map fun f => (f.done.filter fun r => r.due ≤ g).length).sum

/-- LOAD_LANDING: in MTC cycle λ the landed value is written, or poison acts. -/
def execLoadLanding (mdw ctx id : Nat) (s : State) : Res :=
  let m := s.mdw mdw
  match (m.ctx ctx).landing.find? fun e => e.id == id with
  | none => .next s
  | some e =>
    if !e.arrived || m.frozen || decide (m.mtc < e.lam) then .next s
    else
      let poison (s : State) : State := s.raiseAtLanding mdw ctx e.stream e.pc Cause.poisonUse e.badAddr
      let rep (k : Ctx) : Ctx := match e.resPred with | some p => (k.setPred p (e.mask.getD 0)).notePred p 1 s.gtc | none => k
      match e.dest with
      | .scalar rd pair p15 =>
        let s1 := s.modCtx mdw ctx fun k => k.landScalar e rd pair p15 m.mtc s.gtc
        .next (if e.bad ≠ 0 then poison s1 else s1)
      | .row v =>
        if e.spad.isSome then
          .next (s.modMdw mdw fun m =>
            let m1 := (m.modCtx ctx fun k => k.dropLanding id).putRow v e.data (e.mask.getD (BitVec.allOnes 512))
            if e.bad ≠ 0 then m1.setPoison v true else if e.mask = some (BitVec.allOnes 512) then m1.setPoison v false else m1)
        else if e.bad ≠ 0 ∧ e.et.cls ≠ .F then .next (poison (s.modCtx mdw ctx fun k => rep (k.dropLanding id)))
        else .next (s.modMdw mdw fun m => ((m.modCtx ctx fun k => rep (k.dropLanding id)).putRow v (poisonLanes e.et e.data e.bad) (BitVec.allOnes 512)).setPoison v false)
      | .queue q =>
        if s.phase = 4 then
          .next (if (s.mdw mdw).pushesBefore ctx q id s.gtc < (m.ctx ctx).qRoom s.gtc q then
            s.modMdw mdw fun m => m.modCtx ctx fun k => { rep k with landing := k.landing.map fun l => if l.id = id then { l with resPred := none } else l }
          else s)
        else
        if e.bad ≠ 0 ∧ e.et.cls ≠ .F then .next (poison (s.modCtx mdw ctx fun k => rep (k.dropLanding id)))
        else if (m.ctx ctx).qRoom s.gtc q < 1 then .next s
        else
          .next (s.modCtx mdw ctx fun k => (rep (k.dropLanding id)).pushRow q (poisonLanes e.et e.data e.bad) s.gtc (k.reachOf .v id))

-- DEDUCED, unsafe: log entry 87.
/-- The read ports of a cycle (R176): each bank gives one waiting read of an S- or V-stream, the S-streams' first, oldest first,
its bytes as the writes of earlier cycles left them. -/
def State.portReads (s : State) (c : Nat) : State :=
  let m := s.mdw c
  let of (st : StreamId) : List (Nat × LandEntry) := [0, 1, 2, 3].flatMap fun x => ((m.ctx x).landing.filter fun e => e.port && e.stream == st).map fun e => (x, e)
  let all := (of .s ++ of .v).foldl (fun (r : List (Nat × LandEntry)) q =>
    if r.any fun p => bankOf (p.2.spad.getD 0) = bankOf (q.2.spad.getD 0) ∧ (p.2.stream ≠ q.2.stream ∨ p.2.id ≤ q.2.id) then r
    else q :: r.filter fun p => bankOf (p.2.spad.getD 0) ≠ bankOf (q.2.spad.getD 0)) []
  let s0 := s.modMdw c fun m => { m with ports := all.map fun q => (bankOf (q.2.spad.getD 0), 512), seBytes := 0 }
  all.foldl (fun s q =>
    let e := q.2
    let a := e.spad.getD 0
    let s1 := s.spadScrub c q.1 a e.bytes
    let m1 := s1.mdw c
    let row : Row := BitVec.ofNat 4096 (spadRead m1.spad a e.bytes)
    let mask := e.mask.getD (BitVec.allOnes 512)
    s1.modCtx c q.1 fun k => k.modLanding e.id fun e =>
      { e with port := false, arriveAt := s.gtc + 3, data := mergeRow e.data row mask, bad := BitVec.ofNat 512 (m1.spadBadMask a e.bytes) }) s0

/-- A load due at this MTC had not arrived before this cycle. -/
def Meadow.late? (m : Meadow) (g : Nat) : Bool :=
  [0, 1, 2, 3].any fun x => (m.ctx x).landing.any fun e => (!e.arrived || decide (g ≤ e.arriveAt)) && decide (e.lam ≤ m.mtc)

-- DEDUCED, unsafe: log entry 24.
/-- A STALL beat freezes the meadow in this cycle (R312). -/
def Meadow.stalled (m : Meadow) (g : Nat) : Bool := match m.beat with | some b => decide (g < b.stallUntil) | none => false

-- DEDUCED, unsafe: log entry 24.
/-- LATE_LANDING_FREEZE: the meadow is frozen while a load due now has not arrived (R15, R190). -/
def execLateLandingFreeze (mdw : Nat) (s : State) : Res :=
  .next (s.modMdw mdw fun m => { m with frozen := m.late? s.gtc || m.stalled s.gtc })

/-! ## Hasp tasks and sets (R323-R330) -/

/-- The sets of a region that an access names, each once. -/
def State.setsOf (s : State) (region : Nat) (ps : List Part) : List (Nat × HaspSet) :=
  (ps.flatMap (·.lines)).foldl (fun (l : List (Nat × HaspSet)) v => match s.setOfLine region (v.1 / 64) with
    | some t => if l.contains t then l else l ++ [t]
    | none => l) []

/-- Every line of an access lies in one set of the region (R329). -/
def State.inOneSet (s : State) (region : Nat) (ps : List Part) : Bool :=
  ps.all (fun p => p.lines.all fun v => (s.setOfLine region (v.1 / 64)).isSome) && decide ((s.setsOf region ps).length = 1)

inductive TouchFate | go | wait | yield (w : Nat × Nat × Nat)
  deriving DecidableEq, Repr

-- DEDUCED, unsafe: log entry 56.
/-- Each line of a set is held in its home engine (R321). -/
def State.holdLines (s : State) (c : Nat) (t : HaspSet) : State :=
  (List.range t.lines).foldl (fun s i =>
    let va := t.base + 64 * i
    match (s.mdw c).lineAt va with | some p => s.reachLine (homeDie va) va p.1 p.2 | none => s) s

-- DEDUCED, unsafe: log entry 56.
/-- How one set meets a touch of context x of meadow c with a task (R323): the state after, and whether the access is performed. -/
def State.touchSet (s : State) (c x : Nat) (age : AgeKey) (d : Nat) (region ident : Nat) : State × TouchFate :=
  let take (s : State) : State := (s.modEng d fun e => { e with sets := e.sets.map fun t =>
    if t.region = region ∧ t.ident = ident then { t with owner := some age, holder := (c, x) } else t })
  match (s.eng d).sets.find? fun t => t.region == region && t.ident == ident with
  | none => (s, .go)
  | some t => match t.owner with
    | none => ((take s).holdLines c t, .go)
    | some a =>
      if a = age then (s, .go)
      else if t.committing then (s, .wait)
      else if a.older age then (s, .yield (d, region, ident))
      else ((take (s.haspRoll t.holder.1 t.holder.2 .restart none)).holdLines c t, .go)

-- DEDUCED, unsafe: log entry 56.
/-- Judge the sets of an access in turn; the first that does not let it through decides. -/
def State.touchAll (s : State) (c x : Nat) (age : AgeKey) : List (Nat × HaspSet) → State × TouchFate
  | [] => (s, .go)
  | (d, t) :: rest =>
    match s.touchSet c x age d t.region t.ident with
    | (s1, .go) => s1.touchAll c x age rest
    | r => r

/-- The undo records of a write: one for each line that the task has not written before (R325); none when there is no room. -/
def State.recordLines (s : State) (age : AgeKey) (region : Nat) : List (Nat × Nat × Nat) → Option State
  | [] => some s
  | (va, pa, key) :: rest =>
    let d := homeDie va
    if (s.eng d).log.any fun u => u.owner = age ∧ u.va = va ∧ u.pa = pa then s.recordLines age region rest
    else if !s.haspRoom d then none
    else
      let s1 := s.reachLine d va pa key
      let ident := ((s.setOfLine region (va / 64)).map fun t => t.2.ident).getD 0
      (s1.modEng d fun e => { e with log := e.log ++ [{ owner := age, set := (region, ident), va := va, pa := pa, key := key, data := (s1.lineData d va pa).1 }] }).recordLines age region rest

def partLines (ps : List Part) : List (Nat × Nat × Nat) := ps.flatMap fun p => p.lines.map fun l => (l.1, l.2, p.key)

/-- A hasp store that its engine is to judge now. -/
def State.haspStoreReady (s : State) (c x : Nat) (p : PendStore) : Bool :=
  p.hasp && decide (p.due ≤ s.gtc) && s.arbDone p.id && !s.blocked c x p.acc

/-- A hasp load meets its sets. -/
def State.touchLoad (s : State) (c x : Nat) (e : LandEntry) : State :=
  let region := (s.mdw c).region.getD 0
  match s.touchAll c x (s.ctx c x).hasp.age (s.setsOf region e.parts) with
  | (s1, .go) => s1.takeData c x e
  | (s1, .wait) => s1
  | (s1, .yield w) => s1.haspRoll c x .restart (some w)

/-- A hasp store meets its sets: outside them it escapes; its undo records come first. -/
def State.touchStore (s : State) (c x : Nat) (p : PendStore) : State :=
  let region := (s.mdw c).region.getD 0
  let age := (s.ctx c x).hasp.age
  if !s.inOneSet region p.parts then
    let va := ((p.parts.head?).map (·.va)).getD 0
    (s.haspRoll c x .restart none).modCtx c x fun k => k.addCause
      { cause := Cause.haspEscape, tval := BitVec.ofNat 64 va, tpc := p.after - 4, stream := some .s, sepc := .nextUnissued, at_ := s.gtc, mtc := (s.mdw c).mtc } false
  else match s.touchAll c x age (s.setsOf region p.parts) with
    | (s1, .wait) => s1
    | (s1, .yield w) => s1.haspRoll c x .restart (some w)
    | (s1, .go) => match s1.recordLines age region (partLines p.parts) with
      | none => s1.haspRoll c x .capacity none
      | some s2 => s2.doStore c x p

/-- Every context with its meadow and number. -/
def State.allCtxs (s : State) : List (Nat × Nat × Ctx) := s.meadows.flatMap fun m => m.2.ctxs.map fun k => (m.1, k.1, k.2)
/-- The hasp load with an identifier, and the store with one. -/
def State.haspLoad? (s : State) (id : Nat) : Option (Nat × Nat × LandEntry) :=
  s.allCtxs.findSome? fun q => (q.2.2.landing.find? fun e => e.id == id && e.hasp).map fun e => (q.1, q.2.1, e)
def State.store? (s : State) (id : Nat) : Option (Nat × Nat × PendStore) :=
  s.allCtxs.findSome? fun q => (q.2.2.stores.find? fun p => p.id == id).map fun p => (q.1, q.2.1, p)

/-- HASP_TOUCH: an access of a hasp task is judged in its engine. -/
def execHaspTouch (die id : Nat) (s : State) : Res :=
  match s.haspLoad? id with
  | some (c, x, e) =>
    if homeDie (((e.parts.head?).map (·.va)).getD 0) = die ∧ s.loadReady c x e then .next (s.touchLoad c x e) else .next s
  | none => match s.store? id with
    | some (c, x, p) =>
      if homeDie (((p.parts.head?).map (·.va)).getD 0) = die ∧ s.haspStoreReady c x p then .next (s.touchStore c x p) else .next s
    | none => .next s

/-- HASP_ROLLBACK: the S-stream's loads have landed, and the registers of a rolled-back task are restored (R326, R327). -/
def execHaspRollback (mdw ctx : Nat) (s : State) : Res :=
  let m := s.mdw mdw
  let k := m.ctx ctx
  match k.hasp.roll with
  | none => .next s
  | some why =>
    if (k.trap.isSome ∧ !m.halted s.gtc) ∨ k.landing.any (fun e => e.stream == .s) then .next s
    else .next (s.modCtx mdw ctx fun k => (if k.trap.isSome then k.rollTrap else k).haspRestore why m.mtc)

/-! ## Trap entry (R373) -/

-- DEDUCED, unsafe: log entry 23.
/-- The words that a context has issued have completed (step 2 of R373). -/
def State.trapQuiet (s : State) (c x : Nat) : Bool :=
  let m := s.mdw c
  let k := m.ctx x
  k.sc.pend.isEmpty && k.landing.isEmpty && k.dtopo.isNone && m.flights.all (fun f => f.ctx != x) &&
  m.tileSteps.all (fun t => t.ctx != x || t.beat.isSome || decide (t.at_ + 272 ≤ s.gtc)) &&
  m.mops.all (fun o => o.ctx != x || decide (o.doneAt ≤ s.gtc)) &&
  (match k.tileWord with | some t => !t.running | none => true) &&
  (match k.sWait with | some w => !w.issued | none => true)

-- DEDUCED, unsafe: log entry 23.
-- DEDUCED, unsafe: log entry 32.
/-- Trap entry of a context, with the rollback of its hasp task. -/
def Ctx.takeTrap (k : Ctx) (p : TrapPend) (tvec : W32) (mtc : Nat) : Ctx :=
  let k0 := { k with sWait := none }
  match k.hasp.state, k.hasp.roll with
  | .active, some .restart | .active, none =>
    let k1 := k0.enterTrap p tvec mtc
    { k1 with sc := { k1.sc with regs := k.hasp.snap }, hasp := { k.hasp with state := .restart, roll := none, committing := false } }
  | .active, some why => (k0.haspRestore why mtc).enterTrap { p with sepc := .nextUnissued } tvec mtc
  | _, _ => k0.enterTrap p tvec mtc

/-- The fault domain of the launch that a meadow's region belongs to (R359). -/
def State.domainOf (s : State) (c : Nat) : Nat :=
  match s.regionOf c with
  | none => 0
  | some r => ((s.launches.find? fun l => l.id == r.launch).map (·.domain)).getD 0

/-- An OWNER trap asks the host for its page (R193, R355). -/
def State.ownerRequest (s : State) (c : Nat) (tval : W64) : State :=
  match vaEntry tval.toNat with
  | some (e, _, _) => s.pageRequest ((s.mdw c).imageOf e) e tval.toNat none
  | none => s

-- DEDUCED, unsafe: log entry 23.
/-- TRAP_ENTRY: the saved registers are written and the handler starts, or the fault domain stops: no handler, or a trap is being
handled already. -/
def execTrapEntry (mdw ctx : Nat) (s : State) : Res :=
  let m := s.mdw mdw
  let k := m.ctx ctx
  match k.trap with
  | none => .next s
  | some p =>
    if m.halted s.gtc || decide (s.gtc < p.at_) || !s.trapQuiet mdw ctx then .next s
    else
      let s1 := if p.cause = Cause.owner then s.ownerRequest mdw p.tval else s
      if k.active || m.tvec == 0 then
        .next ((s1.modCtx mdw ctx fun k => { k with trap := none }).now [.faultDomainStop (s.domainOf mdw) p.cause (ctxid mdw ctx) p.tval false])
      else
        let s2 := if k.hasp.state = .active ∧ k.hasp.roll = none then s1.haspUndo mdw ctx else s1
        .next (s2.modCtx mdw ctx fun k => k.takeTrap p m.tvec m.mtc)

end Sys2Proof.Machine
end

