-- ==== Sys2Proof/Machine/StreamEngine.lean ====
section
/-! DEFINITION. The stream engine (R204-R210): starting commands, moving granules, format conversion between scratchpad banks (R179),
halting, completing, and chains; and a buffer's return to EMPTY behind the engine's reads (R184). -/
namespace Sys2Proof.Machine

/-! ## Descriptors (R205) -/

def SERun.w (r : SERun) (i : Nat) : W64 := (r.d[i]?).getD 0
def SERun.op (r : SERun) : Nat := getField (r.w 0) 60 4
def SERun.srcSp (r : SERun) : Bool := (r.w 0).getLsbD 56
def SERun.dstSp (r : SERun) : Bool := (r.w 0).getLsbD 55
def SERun.rm (r : SERun) : Round := Round.ofCode ((r.w 0).extractLsb' 52 3)
def SERun.rows (r : SERun) : Nat := getField (r.w 3) 32 32
def SERun.len (r : SERun) : Nat := getField (r.w 3) 0 32
def SERun.sstride (r : SERun) : Int := sextN (getField (r.w 4) 0 32) 32
def SERun.dstride (r : SERun) : Int := sextN (getField (r.w 4) 32 32) 32
def SERun.list (r : SERun) : Nat := getField (r.w 5) 0 20
def SERun.gran (r : SERun) : Bool := (r.w 0).getLsbD 48
/-- The command reads index entries. -/
def SERun.listed (r : SERun) : Bool := r.op == 1 || r.op == 2
def SERun.next (r : SERun) : W64 := r.w 7

-- DESIGN CHOICE, unsafe: log entry 62.
/-- A descriptor that ends with BAD_CMD (R205, R208). -/
def SERun.bad (r : SERun) : Bool :=
  let f0 (lo n : Nat) : Nat := getField (r.w 0) lo n
  let op := r.op
  let both := r.srcSp && r.dstSp
  let reserved := (op != 0 && op != 1 && op != 2 && op != 15) || f0 0 32 != 0 || decide (6 ≤ f0 49 3) || decide (2 ^ 20 ≤ (r.w 5).toNat) ||
    getField (r.w 6) 54 9 != 0 || getField (r.w 6) 22 9 != 0 || (if r.chain then r.next.toNat % 64 != 0 else r.next != 0)
  if op = 15 then
    reserved || f0 48 1 != 0 || f0 52 3 != 0 || r.srcSp || r.dstSp || f0 58 1 != 0 ||
      [1, 2, 3, 4, 5].any fun i => r.w i != 0
  else
    reserved || (both && f0 48 1 != 0) || (if both then decide (4 ≤ f0 52 3) else f0 52 3 != 0) || (!r.dstSp && f0 58 1 != 0) ||
      (op == 0 && r.w 5 != 0) || r.list % 4 != 0 || r.rows == 0 || r.len == 0 || decide (2 ^ 20 < r.len)

/-! ## Element copies between banks (R179) -/

/-- Elements of a packed block; 1 where the format packs none. -/
def blockLanes : ElemType → Nat | .cb4 => 8 | .mx4 | .mx8 => 32 | _ => 1

/-- An element in the scratchpad: its half-byte address, and the format of its bank. -/
structure Elem where
  nib : Nat
  ty : ElemType
  deriving DecidableEq, Repr

def Elem.addr (e : Elem) : Nat := e.nib / 2
def Elem.bytes (e : Elem) : Nat := max 1 (e.ty.width / 8)

/-- The bytes that say what an element is: its own, and the scale bytes of its block (R177). -/
def Elem.ranges (sbf : Tab W32) (e : Elem) : List (Nat × Nat) :=
  let w := sbfOf sbf e.addr
  (e.addr, e.bytes) :: if e.ty.cls = .B then
    ((scaleAddr w e.ty e.addr + e.addr % 256 / blockBytes e.ty) % 2 ^ 20, 1) :: (if e.ty = .cb4 then [(bandAddr w e.addr, 2)] else []) else []

-- DEDUCED, unsafe: log entry 26.
/-- The next n elements from a half-byte address on, each in the format of its bank. -/
def elemsFrom (sbf : Tab W32) (a : Nat) : Nat → List Elem
  | 0 => []
  | n + 1 =>
    let p := a % 2 ^ 21
    let ty := sbfFmt (sbfOf sbf (p / 2))
    ⟨p, ty⟩ :: elemsFrom sbf (p + ty.width / 4) n

/-- The exact value of an element and its bits, and whether a bad word spoils it (R378). -/
def Meadow.elemVal (m : Meadow) (e : Elem) : Val × Nat × Bool :=
  let raw := spadRead m.spad e.addr e.bytes / 2 ^ (4 * (e.nib % 2)) % 2 ^ e.ty.width
  let w := sbfOf m.sbf e.addr
  let sc := spadRead m.spad (scaleAddr w e.ty e.addr + e.addr % 256 / blockBytes e.ty) 1
  (match e.ty with
    | .cb4 => cb4Val raw sc (bf16.value (spadRead m.spad (bandAddr w e.addr) 2))
    | .mx4 => mx4Val raw sc
    | .mx8 => mx8Val raw sc
    | t => tyVal t raw,
   raw, (e.ranges m.sbf).any fun r => m.spadBadMask r.1 r.2 != 0)

/-- Cut a list where a key changes. -/
def groupRuns {α : Type} (key : α → Nat) : List α → List (List α)
  | [] => []
  | x :: t => match groupRuns key t with
    | [] => [[x]]
    | (y :: g) :: rest => if key x = key y then (x :: y :: g) :: rest else [x] :: (y :: g) :: rest
    | [] :: rest => [x] :: rest

/-- An element on its way between banks: its places, exact value and bits, and whether a bad word spoils it. -/
structure Moved where
  src : Elem
  dst : Elem
  val : Val
  raw : Nat
  bad : Bool

/-- The block of an element's destination; one block for all where the format packs none. -/
def Moved.block (p : Moved) : Nat := if p.dst.ty.cls = .B then p.dst.addr / blockBytes p.dst.ty else 0

/-- The bits of an element in a format that packs no block. -/
def Moved.bits (p : Moved) (rm : Round) : Nat := if p.src.ty.cls = .B then tyPut p.dst.ty rm 0 p.val else convert p.src.ty p.dst.ty rm 0 p.raw

/-- The bits of a granule's elements in their places, and the block scales as (address, byte). -/
def Meadow.convertRun (m : Meadow) (rm : Round) (xs : List Moved) : List (Elem × Nat) × List (Nat × Nat) :=
  let done := (groupRuns Moved.block xs).map fun (run : List Moved) => match run with
    | [] => (([] : List (Elem × Nat)), ([] : List (Nat × Nat)))
    | p :: _ =>
      let d := p.dst
      let w := sbfOf m.sbf d.addr
      let vs := run.map Moved.val
      let cs := vs.map fun (_ : Val) => 0
      let block (r : List Nat × Nat) : List (Elem × Nat) × List (Nat × Nat) :=
        ((run.zip r.1).map fun (q : Moved × Nat) => (q.1.dst, q.2), [((scaleAddr w d.ty d.addr + d.addr % 256 / blockBytes d.ty) % 2 ^ 20, r.2)])
      match d.ty with
      | .cb4 => block (cb4Pack (bf16.value (spadRead m.spad (bandAddr w d.addr) 2)) rm cs vs)
      | .mx4 => block (mxPack e2m1 2 rm cs vs)
      | .mx8 => block (mxPack fmtE4M3 8 rm cs vs)
      | _ => (run.map fun (q : Moved) => (q.dst, q.bits rm), [])
  (done.flatMap (·.1), done.flatMap (·.2))

/-- Write one element of a cycle over the scratchpad as it stands; a half byte keeps its other half. -/
def Meadow.putElem (m : Meadow) (g x : Nat) (e : Elem × Nat) : Meadow :=
  let a := e.1.addr
  if e.1.ty.width = 4 then
    let old := spadRead m.spad a 1
    -- the other half may have been written in this cycle
    let now := m.late.foldl (fun v l => match l.op with | .spad b 1 d _ => if b = a ∧ l.at_ = g then d.toNat % 256 else v | _ => v) old
    let v := if e.1.nib % 2 = 0 then now / 16 * 16 + e.2 else now % 16 + 16 * e.2
    m.spadStore g 3 a 1 (BitVec.ofNat 4096 v) 1#512 x
  else m.spadStore g 3 a e.1.bytes (BitVec.ofNat 4096 e.2) (byteMask e.1.bytes) x

/-! ## Halts and results (R207-R209) -/

def SEState.room (e : SEState) : Bool := decide (e.results.length + e.claims < 16)

/-- Push the first result entry that is owed, with its notification, once the queue has room. -/
def Ctx.seSettle (k : Ctx) : Ctx :=
  match k.se.run with
  | none => k
  | some r => match r.owe with
    | [] => k
    | v :: rest =>
      if !k.se.room then k
      else
        let k1 := { k with se := { k.se with results := k.se.results ++ [v.1], run := if r.done && rest.isEmpty then none else some { r with owe := rest } } }
        if v.2 then k1.notify r.tag else k1

-- DESIGN CHOICE, unsafe: log entry 62.
/-- The command halts with a status (R208). -/
def State.seHalt (s : State) (c x : Nat) (r : SERun) (status : Nat) : State :=
  s.modCtx c x fun k => ({ k with se := { k.se with run := some { r with
    halted := some status, req := none, owe := r.owe ++ [(seResult r.tag status r.moved, (r.w 0).getLsbD 59)] } } }).seSettle

-- DESIGN CHOICE, unsafe: log entry 62.
/-- A WINDOW halt raises its cause on the context, bound to no word (R209). -/
def State.seWindow (s : State) (c x : Nat) (r : SERun) (cause : Nat) (tval : W64) : State :=
  (s.seHalt c x r 3).raiseUnbound c x cause tval

/-! ## Starting (R206, R210) -/

/-- The counter wait of a command is met. -/
def Meadow.seWaitMet (m : Meadow) (r : SERun) : Bool :=
  let w := r.w 6
  !w.getLsbD 63 || decide (((tgetD m.ring (getField w 48 6) 0).toNat + 2 ^ 16 - getField w 32 16) % 2 ^ 16 < 2 ^ 15)

/-- Cycles until the first bytes of a source in memory can be there (R192). -/
def State.seLatency (s : State) (c : Nat) (r : SERun) : Nat :=
  if r.srcSp || r.op == 15 then 0 else
  match s.access (s.mdw c) .seRead [((r.w 1).toNat, 1)] with
  | .ok ps => s.partsLatency (c / 256) ps
  | _ => 0

/-- The command at the head of a queue, when it is not yet taken up: a halted one that resumes, or the oldest of the queue; with what its
push released, and at which scope (R207). -/
def SEState.head (e : SEState) : Option (SERun × Reach × Scope) :=
  match e.run with
  | some r => if r.started || r.halted.isSome || r.done || r.entryAt.isSome || r.owe != [] then none else some (r, {}, .ctx)
  | none => match e.queue with
    | c :: _ => if c.chain.isSome then none else some ({ d := c.d }, c.rel, c.scope)
    | [] => none

/-- The requests that the engine waits for are served (R253). -/
def State.seServed (s : State) (r : SERun) : Bool := r.req.all s.arbDone

/-- The head command can start: the pushes' release is done and its counter wait is met; one with bad fields starts at once. -/
def State.seStartable (s : State) (c x : Nat) : Option SERun :=
  let k := s.ctx c x
  if k.se.owedNotify ≠ [] then none else
  match k.se.head with
  | none => none
  | some (r, rel, sc) =>
    if (r.bad || (s.mdw c).seWaitMet r) && s.released c x rel sc && decide (r.readyAt ≤ s.gtc) && s.seServed r then some r else none

/-- Start the head command, whose operation is one of `ops`: a bad one halts at once. -/
def seStart (c x : Nat) (ops : Nat → Bool) (s : State) : Res :=
  match s.seStartable c x with
  | none => .next s
  | some r =>
    if !ops r.op then .next s
    else
      let (ix, s0) := s.freshIx
      let s1 := s0.modCtx c x fun k => { k with se := { k.se with queue := if k.se.run.isSome then k.se.queue else k.se.queue.drop 1 } }
      if r.bad then .next (s1.seHalt c x { r with started := true } 1)
      else
        let go : SERun := { r with started := true, req := none, readyAt := s.gtc + 1 + s.seLatency c r + Config.granuleTime ix }
        .next (s1.modCtx c x fun k => { k with se := { k.se with run := some go } })

/-- SE_PATTERN; a reserved operation is refused here too. -/
def execSePattern (mdw ctx : Nat) (s : State) : Res := seStart mdw ctx (fun o => o != 1 && o != 2 && o != 15) s
def execSeGather (mdw ctx : Nat) (s : State) : Res := seStart mdw ctx (· == 1) s
def execSeScatter (mdw ctx : Nat) (s : State) : Res := seStart mdw ctx (· == 2) s
def execSeSync (mdw ctx : Nat) (s : State) : Res := seStart mdw ctx (· == 15) s

/-- The chain entry to fetch: of a token at the head of the queue, or of a halted fetch that resumes. -/
def SEState.fetchNext (e : SEState) : Option (W64 × Reach × Scope × List SECmd) :=
  match e.run with
  | some r => if r.halted.isSome || r.done || r.owe != [] then none else r.entryAt.map fun a => (a, {}, .ctx, e.queue)
  | none => match e.queue with
    | t :: rest => t.chain.map fun a => (a, t.rel, t.scope, rest)
    | [] => none

-- DEDUCED, unsafe: log entry 27.
/-- SE_CHAIN_FETCH: the entry of a chain becomes the head command (R210), read behind the stores to it that its context performs nearby
(R212). -/
def execSeChainFetch (mdw ctx : Nat) (s : State) : Res :=
  let m := s.mdw mdw
  let e := (m.ctx ctx).se
  match e.fetchNext with
  | none => .next s
  | some (a, rel, sc, rest) =>
    if e.owedNotify ≠ [] || !s.released mdw ctx rel sc then .next s
    else
      let put (s : State) (r : SERun) : State := s.modCtx mdw ctx fun k => { k with se := { k.se with queue := rest, run := some r } }
      let r0 : SERun := { d := [], chain := true, entryAt := some a }
      match s.access m .seRead [(a.toNat, 64)] with
      | .trap cause tval => .next ((put s r0).seWindow mdw ctx r0 cause tval)
      | .gone pa => .fault (.unbacked pa)
      | .ok ps =>
        if s.nearby mdw ctx { id := s.seq, stream := .s, load := true, parts := partKeys ps } then .next s
        else
        let s1 := s.scrubParts ps
        let d := s1.readParts ps
        if d.2.1 ≠ 0 then .next ((put s1 r0).seHalt mdw ctx r0 4)
        else
          let words := (List.range 8).map fun i => BitVec.ofNat 64 (d.1 / 2 ^ (64 * i))
          let (id, s2) := s1.nextSeq
          .next (put (s2.arbEnter id .arrayRead notYet ps) { d := words, chain := true, req := some id, readyAt := s.gtc + s.partsLatency (mdw / 256) ps })

/-! ## Granules (R206, R179, R183) -/

/-- Address of a row's first unit. -/
def rowAddr (base : W64) (stride : Int) (i : Nat) : Nat := wrapN (base.toNat + stride * i) 64

/-- A scratchpad write of the command is not made yet: its bank's port was taken, or it was given in this cycle (R176). -/
def Meadow.seWriting (m : Meadow) (x : Nat) : Bool :=
  m.late.any fun l => l.rank == 3 && l.own == x && (match l.op with | .spad .. => true | _ => false)

/-- The banks' read ports give the ranges to the stream engine in this cycle: each port is still free, or its 512 bytes are enough. -/
def Meadow.readPorts (m : Meadow) (rs : List (Nat × Nat)) : Option Meadow :=
  let need := rs.foldl (fun (t : Tab Nat) r => (List.range r.2).foldl (fun t i => tput t (bankOf (r.1 + i)) (tgetD t (bankOf (r.1 + i)) 0 + 1)) t) []
  if need.all fun n => tgetD m.ports n.1 0 == 0 || decide (tgetD m.ports n.1 0 + n.2 ≤ 512) then
    some { m with ports := need.foldl (fun t n => tput t n.1 (tgetD t n.1 0 + n.2)) m.ports }
  else none

/-- What one granule does. -/
inductive Gran
  | wait
  | halt (status : Nat)
  /-- a source line is poisoned; what reading it has logged -/
  | poison (s : State)
  | window (cause : Nat) (tval : W64)
  | gone (pa : Nat)
  | ok (s : State) (units : Nat) (nibs : Nat × Nat) (bufs : List Nat)

-- DEDUCED, unsafe: log entry 26.
/-- The command goes on by some units; by none, over a row that SCATTER skips. -/
def SERun.moveBy (r : SERun) (n : Nat) (nibs : Nat × Nat) (bufs : List Nat) : SERun :=
  let r1 := { r with moved := r.moved + n, bufs := bufs.foldl sortedInsert r.bufs, req := none }
  if r.len ≤ r.unit + n || n == 0 then { r1 with row := r.row + 1, unit := 0, nibs := (0, 0), index := none }
  else { r1 with unit := r.unit + n, nibs := (r.nibs.1 + nibs.1, r.nibs.2 + nibs.2) }

/-- The engine reads scratchpad ranges: the buffers' states, the ports, then the words, whose latent errors show. -/
def State.seSpadRead (s : State) (c x : Nat) (rs : List (Nat × Nat)) : Except Gran State :=
  let m := s.mdw c
  if rs.any fun r => (m.bufFault .drain r.1 r.2).isSome then .error (.halt 2)
  else match m.readPorts rs with
    | none => .error .wait
    | some m1 => .ok (rs.foldl (fun s r => s.spadScrub c x r.1 r.2) (s.setMdw c m1))

/-- A fill write meets the buffers of its ranges. -/
def Meadow.fillFate (m : Meadow) (rs : List (Nat × Nat)) : Option Gran :=
  if rs.any fun r => (m.bufFault .fill r.1 r.2).isSome then some (.halt 2)
  else if rs.any fun r => m.bufWait .fill r.1 r.2 then some .wait
  else none

/-- The buffers of ranges. -/
def Meadow.bufIds (m : Meadow) (rs : List (Nat × Nat)) : List Nat := rs.flatMap fun r => (m.bufsOf r.1 r.2).map (·.2.1)

-- DESIGN CHOICE, unsafe: log entry 61.
/-- Read bytes for a granule. -/
def State.granRead (s : State) (c x : Nat) (sp : Bool) (a n : Nat) : Except Gran (State × Nat × Nat) :=
  let m := s.mdw c
  if sp then
    let b := a % 2 ^ 20
    match s.seSpadRead c x [(b, n)] with
    | .error e => .error e
    | .ok s1 => .ok (s1, spadRead (s1.mdw c).spad b n, (s1.mdw c).spadBadMask b n)
  else match s.access m .seRead [(a, n)] with
    | .trap cause tval => .error (.window cause tval)
    | .gone pa => .error (.gone pa)
    | .ok ps =>
      if s.nearby c x { id := s.seq, stream := .s, load := true, parts := partKeys ps } then .error .wait
      else
        let s1 := s.scrubParts ps
        let r := s1.readParts ps
        .ok (s1, r.1, r.2.1)

/-- Write bytes for a granule: scratchpad after this cycle, memory at once. -/
def State.granWrite (s : State) (c x : Nat) (sp : Bool) (a n v : Nat) : Gran :=
  let m := s.mdw c
  if sp then
    let b := a % 2 ^ 20
    (m.fillFate [(b, n)]).getD
      (.ok (s.modMdw c fun m => m.spadStore s.gtc 3 b n (BitVec.ofNat 4096 v) (byteMask n) x) n (0, 0) (m.bufIds [(b, n)]))
  else match s.access m .seWrite [(a, n)] with
    | .trap cause tval => .window cause tval
    | .gone pa => .gone pa
    | .ok ps => if s.setHeld (m.region.getD 0) ps then .wait else .ok (s.writeParts ps v (2 ^ n - 1)) n (0, 0) []

/-- Elements of a granule between banks: up to the destination's next multiple of 64 bytes, which no block crosses. -/
def granElems (sbf : Tab W32) (db len : Nat) : Nat :=
  let w := (sbfFmt (sbfOf sbf (db % 2 ^ 21 / 2))).width / 4
  min (max 1 ((128 - db % 128 + w - 1) / w)) len

/-- The bytes that a copy reads of its source elements, and the bands that it reads at its destination elements (R177, R179). -/
def convReads (sbf : Tab W32) (ss ds : List Elem) : List (Nat × Nat) :=
  let bands : List (Nat × Nat) := (ds.filter fun (e : Elem) => e.ty == .cb4).map fun e => (bandAddr (sbfOf sbf e.addr) e.addr, 2)
  (ss.flatMap (Elem.ranges sbf) ++ bands).eraseDups
/-- The bytes that it writes: elements and block scales. -/
def convWrites (sbf : Tab W32) (ds : List Elem) : List (Nat × Nat) := (ds.flatMap fun e => (e.ranges sbf).take 2).eraseDups

-- DEDUCED, unsafe: log entry 26.
/-- A granule of elements between two banks (R179); `zero` writes zeros. -/
def State.granConvert (s : State) (c x : Nat) (r : SERun) (src dst : Nat) (zero : Bool) : Gran :=
  let m := s.mdw c
  let db := (2 * dst + r.nibs.2) % 2 ^ 21
  let n := granElems m.sbf db (r.len - r.unit)
  let ds := elemsFrom m.sbf db n
  let ss := if zero then ds else elemsFrom m.sbf (2 * src + r.nibs.1) n
  let writes := convWrites m.sbf ds
  match s.seSpadRead c x (convReads m.sbf (if zero then [] else ss) ds) with
  | .error e => e
  | .ok s1 => (m.fillFate writes).getD (
    let m1 := s1.mdw c
    let xs := (ss.zip ds).map fun p =>
      let v := if zero then ((.fin (Ex.zero false), 0, false) : Val × Nat × Bool) else m1.elemVal p.1
      ({ src := p.1, dst := p.2, val := v.1, raw := v.2.1, bad := v.2.2 } : Moved)
    if xs.any fun p => !p.bad && p.val == .nan 5 && p.dst.ty.cls != .F then .poison s1
    else
      let out := m1.convertRun r.rm xs
      let m2 := out.1.foldl (fun m e => m.putElem s.gtc x e) m1
      let m3 := out.2.foldl (fun m e => m.spadStore s.gtc 3 e.1 1 (BitVec.ofNat 4096 e.2) 1#512 x) m2
      let m4 := xs.foldl (fun m p => if p.bad then m.addLate s.gtc 3 (.spadBad p.dst.addr) x else m) m3
      let nibs (es : List Elem) : Nat := es.foldl (fun a e => a + e.ty.width / 4) 0
      .ok (s1.setMdw c m4) n (nibs ss, nibs ds) (m.bufIds writes))

/-- The row's entry in the list, when the command reads one. -/
def SERun.entry (r : SERun) : Nat := if r.listed then r.index.getD 0 else r.row
def SERun.skip (r : SERun) : Bool := r.listed && r.entry == 0xFFFFFFFF
/-- Addresses of the row's first unit at the source and at the destination. -/
def SERun.srcRow (r : SERun) : Nat := rowAddr (r.w 1) r.sstride (if r.op = 1 then r.entry else r.row)
def SERun.dstRow (r : SERun) : Nat := rowAddr (r.w 2) r.dstride (if r.op = 2 then r.entry else r.row)

/-- list(r) is read once in a row, behind the writes of the row before it (R206). -/
def State.seIndex (s : State) (c x : Nat) (r : SERun) : Except Gran (State × SERun) :=
  if !r.listed || r.index.isSome then .ok (s, r)
  else if (s.mdw c).seWriting x then .error .wait
  else
    let a := (r.list + 4 * r.row) % 2 ^ 20
    match s.seSpadRead c x [(a, 4)] with
    | .error e => .error e
    | .ok s1 => .ok (s1, { r with index := some (spadRead (s1.mdw c).spad a 4) })

/-- The memory that the next granule reads and writes, as far as the window maps it, enters its arbiters; the request shape is GRAN's
(R205, R253). -/
def State.seEnter (s : State) (c : Nat) (r : SERun) : State × SERun :=
  if r.req.isSome then (s, r) else
  let n := min 64 (r.len - r.unit)
  let of (w : Want) (a : Nat) : List Part := match s.access (s.mdw c) w [((a + r.unit) % 2 ^ 64, n)] with | .ok ps => ps | _ => []
  let reads := if r.srcSp || r.skip then [] else of .seRead r.srcRow
  let writes := if r.dstSp || (r.skip && r.op == 2) then [] else of .seWrite r.dstRow
  let (id, s1) := s.nextSeq
  ((s1.arbEnter id .arrayRead notYet reads r.gran).arbEnter id .arrayWrite notYet writes r.gran, { r with req := some id })

-- DEDUCED, unsafe: log entry 26.
-- DESIGN CHOICE, unsafe: log entry 61.
/-- The next granule of a command, whose index entry is read. Where several conditions of R208 fail at once the source is judged wholly before
the destination, the model's choice. -/
def State.granule (s : State) (c x : Nat) (r : SERun) : Gran :=
  if r.skip && r.op == 2 then .ok s 0 (0, 0) []
  else if (r.srcSp || r.listed) && (s.mdw c).seWriting x then .wait
  else if r.srcSp && r.dstSp then s.granConvert c x r (r.srcRow % 2 ^ 20) (r.dstRow % 2 ^ 20) r.skip
  else
    let n := min 64 (r.len - r.unit)
    let da := (r.dstRow + r.unit) % 2 ^ 64
    if r.skip then s.granWrite c x r.dstSp da n 0
    else match s.granRead c x r.srcSp ((r.srcRow + r.unit) % 2 ^ 64) n with
      | .error e => e
      | .ok (s1, v, bad) => if bad ≠ 0 then .poison s1 else s1.granWrite c x r.dstSp da n v

/-- A started command has a granule to move. -/
def SERun.moving (r : SERun) (g : Nat) : Bool :=
  r.started && r.halted.isNone && !r.done && r.op != 15 && decide (r.row < r.rows) && decide (r.readyAt ≤ g)

def State.setRun (s : State) (c x : Nat) (r : SERun) : State := s.modCtx c x fun k => { k with se := { k.se with run := some r } }

/-- SE_GRANULE_MOVE: one granule of the context's command, or its halt. -/
def execSeGranuleMove (mdw ctx : Nat) (s : State) : Res :=
  match (s.ctx mdw ctx).se.run with
  | none => .next s
  | some r0 =>
    if !r0.moving s.gtc || (s.ctx mdw ctx).se.owedNotify != [] || decide (512 ≤ (s.mdw mdw).seBytes) then .next s
    else
      let stop (s : State) (r : SERun) (g : Gran) : Res := match g with
        | .wait => .next (s.setRun mdw ctx r)
        | .halt st => .next (s.seHalt mdw ctx r st)
        | .poison s1 => .next (s1.seHalt mdw ctx r 4)
        | .window cause tval => .next (s.seWindow mdw ctx r cause tval)
        | .gone pa => .fault (.unbacked pa)
        | .ok s1 n nibs bufs =>
          let (ix, s2) := s1.freshIx
          .next ((s2.modMdw mdw fun m => { m with seTurn := (ctx + 1) % 4, seBytes := m.seBytes + 64 }).setRun mdw ctx
            { r.moveBy n nibs bufs with readyAt := s.gtc + Config.granuleTime ix })
      match s.seIndex mdw ctx r0 with
      | .error g => stop s r0 g
      | .ok (s1, r1) =>
        let q := s1.seEnter mdw r1
        if !q.1.seServed q.2 then stop q.1 q.2 .wait else stop q.1 q.2 (q.1.granule mdw ctx q.2)

/-! ## Buffers that the engine still reads (R184) -/

-- DEDUCED, unsafe: log entry 26.
/-- A running command still has bytes of the buffer to read, in this row or in later ones, and does not itself wait to write the
buffer. -/
def Meadow.seReads (m : Meadow) (x b : Nat) : Bool :=
  match (m.ctx x).se.run with
  | none => false
  | some r =>
    let meets (a n : Nat) : Bool := (m.bufsOf (a % 2 ^ 20) n).any fun t => t.2.1 == b
    let both := r.srcSp && r.dstSp
    let rows := (List.range (min (r.rows - r.row) (2 ^ 20))).map fun i =>
      { r with row := r.row + i, unit := if i = 0 then r.unit else 0, nibs := if i = 0 then r.nibs else (0, 0)
               index := if i = 0 && r.index.isSome then r.index else some (spadRead m.spad (r.list + 4 * (r.row + i)) 4) }
    let elems (a nib n : Nat) : List Elem := elemsFrom m.sbf (2 * (a % 2 ^ 20) + nib) n
    let hits (l : List (Nat × Nat)) : Bool := l.any fun p => meets p.1 p.2
    let waits := r.dstSp && if both then
        hits (convWrites m.sbf (elems r.dstRow r.nibs.2 (granElems m.sbf (2 * (r.dstRow % 2 ^ 20) + r.nibs.2) (r.len - r.unit))))
      else meets (r.dstRow + r.unit) (min 64 (r.len - r.unit))
    r.started && r.halted.isNone && !r.done && r.op != 15 && !waits && rows.any fun q =>
      (q.listed && !(q.row == r.row && r.index.isSome) && meets (q.list + 4 * q.row) 4) ||
      if both then
        !(q.skip && q.op == 2) && hits (convReads m.sbf (if q.skip then [] else elems q.srcRow q.nibs.1 (q.len - q.unit)) (elems q.dstRow q.nibs.2 (q.len - q.unit)))
      else q.srcSp && !q.skip && meets (q.srcRow + q.unit) (q.len - q.unit)

/-- BUFFER_DRAIN_EMPTY: at least one cycle after the buffer entered DRAINING, once no command of the engine reads it (R184). -/
def execBufferDrainEmpty (mdw buf : Nat) (s : State) : Res :=
  let m := s.mdw mdw
  match tget m.bufs buf with
  | none => .next s
  | some b =>
    if b.state = .draining ∧ b.enterDrain < s.gtc ∧ !([0, 1, 2, 3].any fun x => m.seReads x buf) then
      .next (s.modMdw mdw fun m => m.addLate s.gtc BufEv.emptied.rank (.buf buf .emptied))
    else .next s

/-! ## Completion (R206, R208, R210) -/

/-- All units of a started command have moved. -/
def SERun.complete (r : SERun) : Bool := r.started && r.halted.isNone && !r.done && (r.op == 15 || decide (r.rows ≤ r.row))

/-- There is a completion to do: an owed entry with room, or a command that has moved everything, whose writes are made, and which has its
result slot. -/
def Meadow.seFinish (m : Meadow) (x g : Nat) : Bool :=
  let e := (m.ctx x).se
  e.owedNotify == [] && match e.run with
  | none => false
  | some r => if r.owe != [] then e.room else r.complete && decide (r.readyAt ≤ g) && !m.seWriting x && (!(r.w 0).getLsbD 57 || e.room)

/-- SE_COMMAND_COMPLETE: the post, the LAST event, the result entry, the notification, then the chain's next entry; or the entry
that a halted command owes. -/
def execSeCommandComplete (mdw ctx : Nat) (s : State) : Res :=
  let m := s.mdw mdw
  let k := m.ctx ctx
  match k.se.run with
  | none => .next s
  | some r =>
    if !m.seFinish ctx s.gtc then .next s
    else if r.owe != [] then .next (s.modCtx mdw ctx fun k => k.seSettle)
    else
      let w6 := r.w 6
      let p := getField w6 16 6
      let post := if w6.getLsbD 31 then tgetD m.ring p 0 + w6.extractLsb' 0 16 else tgetD m.ring p 0
      let m1 := if w6.getLsbD 31 then { m with ring := tputD m.ring p post 0 } else m
      let m2 := if (r.w 0).getLsbD 58 then r.bufs.foldl (fun (m : Meadow) b => m.addLate s.gtc BufEv.last.rank (.buf b .last)) m1 else m1
      let entry := seResult r.tag 0 (if r.op = 15 then post.toNat else r.moved)
      .next (s.setMdw mdw (m2.modCtx ctx fun k =>
        let e : SEState := { k.se with
          run := none
          results := if (r.w 0).getLsbD 57 then k.se.results ++ [entry] else k.se.results
          queue := if r.chain && r.next != 0 then { d := [], chain := some r.next, scope := .pkg, rel := {} } :: k.se.queue else k.se.queue }
        let k1 : Ctx := { k with se := e }
        if (r.w 0).getLsbD 59 then k1.notify r.tag else k1))

end Sys2Proof.Machine
end

