-- ==== Sys2Proof/Machine/Rcb.lean ====
section
/-! DEFINITION. What a launch unit reads and checks: launch queues and records (R246, R285, R389), the RCB tree (R282, R283),
initial images (R381) and near-memory kernel blocks (R250), with the refusals of R286. -/
namespace Sys2Proof.Machine

/-! ## Memory through a launch queue's window (R389) -/

def State.lqOf (s : State) (q : Nat) : LqReg := tgetD s.lq q {}
def LqReg.en (l : LqReg) : Bool := l.lo.getLsbD 0
def LqReg.die (l : LqReg) : Nat := getField l.lo 1 1
def LqReg.desc (l : LqReg) : Nat := l.lo.toNat / 64 * 64
def LqReg.window (l : LqReg) : Nat := l.hi.toNat / 4096 * 4096

/-- A meadow's view of memory with only a window in it. -/
def State.viewOf (s : State) (image : Nat) : Meadow := { window := s.windowOf image, windowImage := image }
def State.queueView (s : State) (q : Nat) : Meadow := s.viewOf (s.lqOf q).window

/-- Bytes at a virtual address, when they translate and none is poisoned. -/
def State.qRead (s : State) (m : Meadow) (va n : Nat) : Option Nat :=
  match s.access m { read := true, resident := true } [(va, n)] with
  | .ok ps => let r := s.readParts ps; if r.2.1 = 0 then some r.1 else none
  | _ => none

/-- The entries of a window image in memory that a range meets are read. -/
def State.entryScrub (s : State) (m : Meadow) (va n : Nat) : State :=
  (cutPages 4 0 va n).foldl (fun (s : State) p => match p.entry with | some (e, _) => s.dramScrub (m.windowImage + 8 * e) 8 | none => s) s

/-- What reading them through a window image leaves of latent errors, in the image and in the range (R257). -/
def State.qScrub (s : State) (m : Meadow) (va n : Nat) : State :=
  if s.memClean = true then s else
  match s.access m { read := true, resident := true } [(va, n)] with | .ok ps => (s.entryScrub m va n).scrubParts ps | _ => s.entryScrub m va n

/-- The parts of a range that may be written. -/
def State.qParts (s : State) (m : Meadow) (va n : Nat) : Option (List Part) :=
  match s.access m .store [(va, n)] with | .ok ps => some ps | _ => none

/-- The physical address and key slot of a byte. -/
def State.qPlace (s : State) (m : Meadow) (va : Nat) : Option (Nat × Nat) :=
  match s.access m { read := true, resident := true } [(va, 1)] with
  | .ok (p :: _) => some (p.pa, p.key)
  | _ => none

/-! ## Records (R246) -/

/-- Bits of a record at a byte offset. -/
def recF (d : Line) (off lo len : Nat) : Nat := d.toNat / 2 ^ (8 * off + lo) % 2 ^ len
def recKind (d : Line) : Nat := recF d 0 0 8
def recRcb (d : Line) : Nat := recF d 8 0 64
def recHcps (d : Line) : Nat := recF d 0 16 16
def recAfterEn (d : Line) : Bool := recF d 0 8 1 == 1

-- DEDUCED, unsafe: log entry 64.
/-- BAD_RECORD: a reserved bit, an unknown KIND, an HCPS that the kind does not take, or a misplaced AFTER. -/
def recBad (d : Line) : Bool :=
  recF d 0 11 5 != 0 || recF d 0x38 0 64 != 0 || recKind d == 0 || decide (3 < recKind d) ||
  (if recKind d = 2 then recHcps d == 0 || decide (512 < recHcps d) else recHcps d != 0) ||
  (recAfterEn d && recF d 0x10 0 64 % 4 != 0)

/-- A launch queue's ring as its descriptor holds it; none when the descriptor cannot be used. -/
def State.lqRing (s : State) (m : Meadow) (q : Nat) : Option Line :=
  match s.qRead m (s.lqOf q).desc 64 with
  | none => none
  | some v => let d : Line := BitVec.ofNat 512 v; if ringBad d || lineGet d 14 2 != 8 then none else some d

/-- Indices of the window of 16 records from HEAD. -/
def lqWindow (d : Line) : List Nat := (List.range (min 16 (ringOcc d))).map fun i => (lineGet d 0 3 + i) % 2 ^ 24

/-- The record in a slot of a queue. -/
def State.lqRecord (s : State) (m : Meadow) (d : Line) (slot : Nat) : Option Line :=
  (s.qRead m ((lineGet d 16 8 + 64 * (slot % lineGet d 8 3)) % 2 ^ 64) 64).map (BitVec.ofNat 512)

/-- The batch that a slot number of a list names, and the place. -/
def slotBatch (slot : Nat) : Option (Nat × Nat) := if slot < 2 ^ 24 then none else some (slot / 2 ^ 24 - 1, slot % 2 ^ 24)
-- DEDUCED, unsafe: log entry 65.
def batchSlot (launch place : Nat) : Nat := 2 ^ 24 * (1 + launch) + place

/-- The records of a queue or of a batch's list that have not started, in order, with their slot numbers (R285). -/
def State.openRecords (s : State) (m : Meadow) (q : Nat) (batch : Option Nat) : List (Nat × Line) :=
  match batch with
  | some b => match s.launches.find? fun l => l.id = b with
    | some l => l.todo.map fun p => (batchSlot b p.1, p.2)
    | none => []
  | none => match s.lqRing m q with
    | none => []
    | some d => ((lqWindow d).filter fun i => !(s.lqOf q).startedSlots.contains i).filterMap fun i => (s.lqRecord m d i).map fun r => (i, r)

/-- Conditions 1 and 2 of R285: AFTER is reached, and no earlier unstarted record names the same RCB. -/
def State.afterMet (s : State) (m : Meadow) (d : Line) : Bool :=
  if !recAfterEn d then true else
  match s.qRead m (recF d 0x10 0 64) 4 with
  | none => true
  | some v => decide ((v + 2 ^ 32 - recF d 0x18 0 32) % 2 ^ 32 < 2 ^ 31)

/-- AFTER cannot be read. -/
def State.afterBad (s : State) (m : Meadow) (d : Line) : Bool := recAfterEn d && (s.qRead m (recF d 0x10 0 64) 4).isNone

def firstOfRcb (rs : List (Nat × Line)) (slot : Nat) (d : Line) : Bool :=
  (rs.takeWhile fun p => p.1 != slot).all fun p => recRcb p.2 != recRcb d

/-! ## RCBs (R282) -/

structure Rcb where
  va : Nat
  pa : Nat
  d : Nat
  deriving DecidableEq, Repr

def Rcb.f (r : Rcb) (off lo len : Nat) : Nat := r.d / 2 ^ (8 * off + lo) % 2 ^ len
def Rcb.level (r : Rcb) : Nat := r.f 8 61 3
def Rcb.kind (r : Rcb) : Nat := r.f 8 59 2
/-- The INH bit of field k: 0 ENERGY, 1 PRIO, 2 FAULT, 3 KEYID, 4 WINDOW, 5 MSET. -/
def Rcb.inh (r : Rcb) (k : Nat) : Bool := r.f 8 (40 + k) 1 == 1
def Rcb.node (r : Rcb) : Nat := if r.level = 0 then 0 else r.pa / 64 + 1
def Rcb.energy (r : Rcb) : Nat := r.f 0x10 0 40

/-- What breaks R282, or R283 at levels 4 to 7, in one RCB. -/
def Rcb.bad (r : Rcb) : Bool :=
  r.f 8 46 13 != 0 || r.f 8 36 4 != 0 || r.f 8 13 20 != 0 || r.f 0x10 40 24 != 0 || r.f 0x38 20 44 != 0 ||
  (match r.kind with | 0 => decide (2 < r.level) | 1 => r.level != 3 | _ => decide (r.level < 4)) ||
  (r.kind != 1 && (r.f 8 34 2 != 0 || r.f 0x20 0 64 != 0 || r.f 0x28 0 64 != 0 || r.f 0x30 0 64 != 0 || r.f 0x38 0 20 != 0)) ||
  (r.level == 0 && (r.f 8 40 6 != 0 || r.f 0 0 64 != 0)) ||
  ((r.kind == 1 || r.kind == 2) && r.f 0x40 0 512 != 0) || (decide (3 < r.level) && (!r.inh 4 || !r.inh 5))

def State.rcbAt (s : State) (m : Meadow) (va : Nat) : Option Rcb :=
  if va % 64 ≠ 0 then none else
  match s.qRead m va 128, s.qPlace m va with
  | some d, some p => some ⟨va, p.1, d⟩
  | _, _ => none

/-- An RCB and its ancestors, up to level 0; levels fall strictly. -/
def State.rcbChain (s : State) (m : Meadow) : Nat → Nat → Nat → Option (List Rcb)
  | 0, _, _ => none
  | fuel + 1, va, below =>
    match s.rcbAt m va with
    | none => none
    | some r =>
      if r.bad || decide (below ≤ r.level) then none
      else if r.level = 0 then some [r]
      else (s.rcbChain m fuel (r.f 0 0 64) r.level).map (r :: ·)

/-- Reading the RCBs of a chain leaves no latent error in them. -/
def State.scrubChain (s : State) (m : Meadow) : Nat → Nat → State
  | 0, _ => s
  | fuel + 1, va =>
    let s1 := s.qScrub m va 128
    match s1.rcbAt m va with
    | some r => if r.level = 0 then s1 else s1.scrubChain m fuel (r.f 0 0 64)
    | none => s1

/-- The RCB whose field k holds, from the first of a chain up (R16). -/
def resolve (ch : List Rcb) (k : Nat) : Option Rcb := ch.find? fun r => !r.inh k

/-- FAULT of the first RCB of a chain. -/
def faultOf (ch : List Rcb) : Bool := match resolve ch 2 with | some r => r.f 8 33 1 == 1 | none => false
def prioOf (ch : List Rcb) : Nat := match resolve ch 1 with | some r => r.f 8 10 3 | none => 0
/-- The nearest node at or above the first whose FAULT is 1, or level 0 (R359). -/
def domainNode : List Rcb → Nat
  | [] => 0
  | r :: t => if faultOf (r :: t) then r.node else domainNode t
/-- The nearest meadow set, of the nodes of a chain. -/
def msetOf (ch : List Rcb) : Nat := match ch.find? fun r => r.kind == 0 && !r.inh 5 with | some r => r.f 0x40 0 512 | none => 0

/-! ## Stages (R283, R284) -/

def Rcb.stage (r : Rcb) (prio : Nat) : Stage :=
  { rcb := r.va, qin := r.f 0x40 0 64, qout := r.f 0x48 0 64, role := r.f 0x50 30 2, insp := r.f 0x50 29 1 == 1, outsp := r.f 0x50 28 1 == 1
    maxctx := r.f 0x50 26 2, ctx := r.f 0x50 24 2, tiles := BitVec.ofNat 8 (r.f 0x50 8 8), bregs := BitVec.ofNat 4 (r.f 0x50 4 4)
    vtiles := BitVec.ofNat 8 (r.f 0x54 0 8), items := r.f 0x58 0 32, use := BitVec.ofNat 3 (r.f 0x5C 0 3)
    sentry := BitVec.ofNat 32 (r.f 0x60 0 32), ventry := BitVec.ofNat 32 (r.f 0x64 0 32), mentry := BitVec.ofNat 32 (r.f 0x68 0 32), prio := prio }

-- DESIGN CHOICE, unsafe: log entry 92.
/-- The entry points of the streams that USE names are word addresses (R23). -/
def Stage.entriesOk (g : Stage) : Bool :=
  (!g.use.getLsbD 0 || g.sentry.toNat % 4 == 0) && (!g.use.getLsbD 1 || g.ventry.toNat % 12 == 0) && (!g.use.getLsbD 2 || g.mentry.toNat % 24 == 0)

/-- What breaks R283 or R289 in one stage. -/
def Rcb.stageBad (r : Rcb) (timed : Bool) : Bool :=
  let g := r.stage 0
  r.kind != 3 || r.f 0x50 16 8 != 0 || r.f 0x50 0 4 != 0 || r.f 0x54 8 24 != 0 || r.f 0x5C 3 29 != 0 ||
  r.f 0x6C 0 160 != 0 || g.role == 3 || g.use == 0 || g.vtiles &&& ~~~g.tiles != 0 ||
  (if g.qin = 0 then g.items == 0 else g.items != 0) || (timed && g.maxctx != 0) || !g.entriesOk

/-- One stage with its class; its ancestors lead through stage groups to the region. -/
def State.stageAt (s : State) (m : Meadow) (region : Rcb) (timed : Bool) (va : Nat) : Option Stage :=
  match s.rcbChain m 8 va 8 with
  | some (r :: up) =>
    if r.stageBad timed || !((up.dropWhile fun p => p.kind == 2).head?.any fun p => p.pa == region.pa) then none
    else some (r.stage (prioOf (r :: up)))
  | _ => none

def Stage.inKey (g : Stage) : Option (Bool × Nat) := if g.qin = 0 then none else some (g.insp, if g.insp then g.qin % 2 ^ 20 else g.qin)
def Stage.outKey (g : Stage) : Option (Bool × Nat) := if g.qout = 0 then none else some (g.outsp, if g.outsp then g.qout % 2 ^ 20 else g.qout)

/-- Each queue has one producing and one consuming stage. -/
def queuesOk (gs : List Stage) : Bool :=
  let ins := gs.filterMap Stage.inKey
  let outs := gs.filterMap Stage.outKey
  ins.all (fun k => ins.count k == 1 && outs.count k == 1) && outs.all fun k => outs.count k == 1 && ins.count k == 1

/-! ## Initial images (R381) -/

/-- The address of a meadow's block of a context area. -/
def areaOf (area rank : Nat) : Nat := (area + imageBytes * rank) % 2 ^ 64

/-- Bytes of an image's header. -/
def State.headAt (s : State) (m : Meadow) (area off n : Nat) : Nat := ((s.qRead m ((area + off) % 2 ^ 64) n).getD 0)

def State.areaValid (s : State) (m : Meadow) (area : Nat) : Bool := s.headAt m area 0x20 1 % 2 == 1
def State.areaInit (s : State) (m : Meadow) (area : Nat) : Bool := s.headAt m area 0x20 1 / 8 % 2 == 1

/-- The declaration words of an initial block that declare a buffer. -/
def State.initDecls (s : State) (m : Meadow) (area : Nat) : List (Nat × W32) :=
  (List.range 32).filterMap fun b => let w := BitVec.ofNat 32 (s.headAt m area (0x90 + 4 * b) 4); if w = 0 then none else some (b, w)

/-- The buffers of an initial block; none when a declaration breaks R202. -/
def initBufs (ds : List (Nat × W32)) : Option (Tab Buf) :=
  ds.foldl (fun (t : Option (Tab Buf)) d => t.bind fun t =>
    let w := d.2 &&& 0x7FFFFFFF#32
    let m : Meadow := { bufs := t }
    if getField w 24 5 ≠ d.1 || m.declBad w then none
    else some (((m.declare w).bufs).map fun b => if b.1 = d.1 ∧ d.2.getLsbD 31 then (b.1, { b.2 with state := .full }) else b)) (some [])

/-- An initial block that refuses its launch. -/
def State.initBad (s : State) (m : Meadow) (area : Nat) : Bool :=
  (List.range 16).any (fun n => s.headAt m area (0x40 + 4 * n) 4 / 2 ^ 12 % 8 == 7) || (List.range 8).any (fun k => decide (4 < s.headAt m area (0x80 + k) 1)) ||
  s.headAt m area 0x88 8 != 0 || (initBufs (s.initDecls m area)).isNone

/-- A meadow's area cannot be read, or its initial block is bad. -/
def State.areaBad (s : State) (m : Meadow) (area : Nat) : Bool :=
  (match s.access m { read := true, resident := true } [(area, imageBytes)] with | .ok _ => false | _ => true) ||
  (!s.areaValid m area && s.areaInit m area && s.initBad m area)

/-! ## A region's checks (R286, R352) -/

/-- What a region record would place. -/
structure Plan where
  chain : List Rcb
  stages : List Stage
  plist : List Nat
  window : Nat
  key : Nat
  view : Meadow

def Plan.region (p : Plan) : Rcb := (p.chain.head?).getD ⟨0, 0, 0⟩
def Plan.timed (p : Plan) : Bool := p.region.f 8 35 1 == 1
def Plan.prio (p : Plan) : Nat := prioOf p.chain

/-- BAD_RCB and MSET, in that order. -/
def State.planRegion (s : State) (m : Meadow) (rcb : Nat) : Except Nat Plan :=
  match s.rcbChain m 8 rcb 8 with
  | none => .error 0x11
  | some ch =>
    match ch with
    | [] => .error 0x11
    | r :: up =>
      let win := ((resolve ch 4).map fun q => q.f 0x18 0 64).getD 0
      let key := ((resolve ch 3).map fun q => q.f 8 0 10).getD 0
      let timed := r.f 8 35 1 == 1
      let n := r.f 0x38 16 4 + 1
      let stages := (List.range n).filterMap fun i => s.stageAt m r timed ((r.f 0x28 0 64 + 128 * i) % 2 ^ 64)
      let count := r.f 0x38 0 16
      if r.kind ≠ 1 ∨ count = 0 ∨ 480 < count ∨ stages.length ≠ n ∨ !queuesOk stages ∨ r.f 0x20 0 64 % 4096 ≠ 0 ∨ win % 4096 ≠ 0 ∨ !s.inOrdinary win 49152 ∨ (s.hRead 0 win 49152).2 ≠ 0
      then .error 0x11
      else
        let view := s.viewOf win
        match s.qRead m (r.f 0x30 0 64) (2 * count) with
        | none => .error 0x11
        | some raw =>
          let pl := (List.range count).map fun i => raw / 2 ^ (16 * i) % 2 ^ 16
          if (s.windowFault key view.window (view.window.map (·.1))).isSome then .error 0x11
          else if (List.range count).any fun k => s.areaBad view (areaOf (r.f 0x20 0 64) k) then .error 0x11
          else if pl.any (fun c => !s.enabled.getLsbD c || s.removed.contains c || pl.count c != 1 || (msetOf up) / 2 ^ c % 2 == 0) then .error 0x12
          else .ok { chain := ch, stages := stages, plist := pl, window := win, key := key, view := view }

/-- What the checks of a region record read leaves no latent error: the chain, the stages, the window image, the placement list and the
heads of the areas (R257). -/
def State.scrubPlan (s : State) (m : Meadow) (rcb : Nat) : State :=
  let s1 := s.scrubChain m 8 rcb
  match s1.rcbChain m 8 rcb 8 with
  | some (r :: up) =>
    let win := ((resolve (r :: up) 4).map fun q => q.f 0x18 0 64).getD 0
    let s2 := (List.range (r.f 0x38 16 4 + 1)).foldl (fun (s : State) i => s.scrubChain m 8 ((r.f 0x28 0 64 + 128 * i) % 2 ^ 64)) (s1.dramScrub win 49152)
    let n := r.f 0x38 0 16 % 512
    (List.range n).foldl (fun (s : State) k => s.qScrub (s.viewOf win) (areaOf (r.f 0x20 0 64) k) 0x140) (s2.qScrub m (r.f 0x30 0 64) (2 * n))
  | _ => s1

/-- The same of a kernel record: its block and its list of pages. -/
def State.scrubKernel (s : State) (m : Meadow) (nkb : Nat) : State :=
  let s1 := s.qScrub m nkb 128
  match s1.qRead m nkb 128 with
  | none => s1
  | some d =>
    let n := min (d / 2 ^ 128 % 2 ^ 64) 65536
    (List.range n).foldl (fun (s : State) i =>
      let va := (d / 2 ^ 64 % 2 ^ 64 + 8 * i) % 2 ^ 64
      let s1 := s.qScrub m va 8
      match s1.qRead m va 8 with | some v => s1.entryScrub m v 1 | none => s1) s1

/-! ## Near-memory kernels (R250) -/

/-- What a kernel record would start: the pages with their key slots, the HCPs in rank order, the code and the post slots. -/
structure KPlan where
  pages : List HPage
  hcps : List Nat
  code : Nat
  posts : Tab (Nat × Nat × Nat)
  deriving DecidableEq, Repr

/-- A page of the list: resident, DEVICE-owned, compute-capable and whole. -/
def State.kPage (s : State) (m : Meadow) (va : Nat) : Option HPage :=
  match vaEntry va with
  | some (i, o, _) =>
    let e := tgetD m.window i 0
    if i < 2048 ∨ o ≠ 0 ∨ !eRes e ∨ !eOwn e ∨ !eCc e ∨ !s.inCompute (eFrame e * 2 ^ 21) (2 ^ 21) then none
    else some ⟨eFrame e * 2 ^ 21, eKey e⟩
  | none => none

/-- PAGES for anything that fails R250. -/
def State.planKernel (s : State) (m : Meadow) (nkb hcps : Nat) : Except Nat KPlan :=
  if nkb % 64 ≠ 0 then .error 0x13 else
  match s.qRead m nkb 128 with
  | none => .error 0x13
  | some d =>
    let f (off len : Nat) : Nat := d / 2 ^ (8 * off) % 2 ^ len
    let n := f 0x10 64
    if n = 0 ∨ 65536 < n ∨ f 0x18 320 ≠ 0 then .error 0x13
    else
      let vas := (List.range n).map fun i => s.qRead m ((f 8 64 + 8 * i) % 2 ^ 64) 8
      let pages := vas.filterMap fun v => v.bind fun v => s.kPage m v
      let chans := (pages.filterMap fun p => (placeOf p.pa).map (·.pc)).eraseDups
      let posts := (List.range 8).filterMap fun i => let v := f (0x40 + 8 * i) 64; if v = 0 then none else some (i, v)
      let slots := posts.filterMap fun p => if p.2 % 8 ≠ 0 then none else (s.qPlace m (p.2 / 64 * 64)).map fun q => (p.1, (p.2, q.1 + p.2 % 64, q.2))
      match s.qPlace m (f 0 64) with
      | none => .error 0x13
      | some (code, _) =>
        if pages.length ≠ n ∨ slots.length ≠ posts.length ∨ chans.length ≠ hcps ∨ f 0 64 % 4 ≠ 0 ∨
            !(pages.any fun p => decide (p.pa ≤ code) && decide (code < p.pa + 2 ^ 21)) then .error 0x13
        else .ok { pages := pages, hcps := chans, code := code, posts := slots }

end Sys2Proof.Machine
end

