-- ==== Sys2Proof/Machine/Launch.lean ====
section
/-! DEFINITION. Launch consumption (R285-R288): starting a record, placing a region (R9, R67, R287, R352), starting near-memory
kernels (R250, R251), and completing a launch. -/
namespace Sys2Proof.Machine

/-! ## What a record is found to be (R286) -/

inductive Verdict
  | refuse (e : EndInfo)
  | batch (n : Nat)
  | kernel (p : KPlan)
  | region (p : Plan)

-- DEDUCED, unsafe: log entry 71.
/-- What a stop of one of these nodes makes of a record under it (R359). -/
def State.stopOf (s : State) (path : List Nat) : Option EndInfo :=
  match path.findSome? fun n => tget s.stopped n with
  | some e => some { e with status := 0x20 }
  | none => if 2 ≤ s.level then some { status := 0x20 } else none

-- DEDUCED, unsafe: log entry 65.
/-- The launch's listed records of a batch, with their places. -/
def State.batchList (s : State) (m : Meadow) (va n : Nat) : List (Nat × Line) :=
  (List.range n).filterMap fun i => (s.qRead m ((va + 64 + 64 * i) % 2 ^ 64) 64).map fun v => (i, BitVec.ofNat 512 v)

-- DEDUCED, unsafe: log entry 64.
/-- The checks of a record whose first two conditions hold. -/
def State.judgeRecord (s : State) (m : Meadow) (inBatch : Bool) (d : Line) : Verdict :=
  match s.stopOf [0] with
  | some e => .refuse e
  | none =>
    if recBad d || s.afterBad m d then .refuse { status := 0x10 }
    else if recKind d = 3 then
      if inBatch then .refuse { status := 0x14 }
      else
        let n := (s.qRead m (recRcb d) 8).getD 0
        if recRcb d % 64 ≠ 0 ∨ n = 0 ∨ 256 < n ∨ (s.batchList m (recRcb d) n).length ≠ n then .refuse { status := 0x10 } else .batch n
    else if recKind d = 2 then
      match s.planKernel m (recRcb d) (recHcps d) with
      | .error st => .refuse { status := st }
      | .ok p => .kernel p
    else match s.planRegion m (recRcb d) with
      | .error st => .refuse { status := st }
      | .ok p => match s.stopOf (p.chain.map Rcb.node) with
        | some e => .refuse e
        | none => .region p

/-! ## Taking a record from its queue (R285) -/

/-- HEAD moves past every started record at the front. -/
def pastStarted : Nat → Nat → List Nat → Nat × List Nat
  | 0, h, l => (h, l)
  | n + 1, h, l => if l.contains h then pastStarted n ((h + 1) % 2 ^ 24) (l.erase h) else (h, l)

def State.takeSlot (s : State) (m : Meadow) (q slot : Nat) : State :=
  let s0 : State := { s with claims := s.claims.filter fun c => !(c.queue == q && c.slot == slot) }
  match slotBatch slot with
  | some (b, i) => { s0 with launches := s.launches.map fun l => if l.id = b then { l with todo := l.todo.filter fun p => p.1 != i } else l }
  | none =>
    let reg := s.lqOf q
    let put (l : List Nat) : State := { s0 with lq := tput s.lq q { reg with startedSlots := l } }
    let started := reg.startedSlots ++ [slot]
    match s.lqRing m q, s.qParts m reg.desc 64 with
    | some d, some ps =>
      let (h, l) := pastStarted 16 (lineGet d 0 3) started
      (put l).writeParts ps h 15
    | _, _ => put started

/-- The launch that a record becomes. -/
def launchOf (q slot id g : Nat) (d : Line) : Launch :=
  { id := id, queue := q, slot := slot, batch := (slotBatch slot).map (·.1), place := ((slotBatch slot).map (·.2)).getD 0, kind := recKind d, word0 := d.setWidth 32, seq := BitVec.ofNat 32 (recF d 4 0 32)
    rcb := recRcb d, post := recF d 0x20 0 64, pinc := BitVec.ofNat 32 (recF d 0x1C 0 32), arg := BitVec.ofNat 64 (recF d 0x28 0 64)
    crec := recF d 0x30 0 64, gstart := g }

/-! ## Placing a region -/

-- DESIGN CHOICE, safe: log entry 11.
/-- The base of a region's code section of a stream, aligned to 64 bytes (R23). -/
def sectionBase (st rcb : Nat) : W64 := Config.sectionBase st rcb &&& ~~~63#64

/-- Four contexts of a region at their code's base addresses, with the region's attributes in ISTAT (R299). -/
def freshCtxs (r : Region) : Tab Ctx :=
  [0, 1, 2, 3].map fun x => (x, { sBase := sectionBase 0 r.rcb, vBase := sectionBase 1 r.rcb, mBase := sectionBase 2 r.rcb,
                                  istat := BitVec.ofNat 64 ((if r.timed then 2 ^ 25 else 0) + if r.gang then 2 ^ 24 else 0) })

-- DEDUCED, unsafe: log entry 64.
/-- The initial block, rows and scratchpad of an area with INIT (R381); a poisoned line of the header reads as zeros, and poisoned lines of
rows and scratchpad are loaded as they stand. -/
def State.withInit (s : State) (m view : Meadow) (area : Nat) : Meadow :=
  { m with
    sbf := (List.range 16).foldl (fun (t : Tab W32) n => tputD t n (BitVec.ofNat 32 (s.headAt view area (0x40 + 4 * n) 4) &&& 0x00FF700F#32) 0) []
    tileType := (List.range 8).filterMap fun k => match s.headAt view area (0x80 + k) 1 with
      | 1 => some (k, .i32) | 2 => some (k, .f16) | 3 => some (k, .bf16) | 4 => some (k, .i64) | _ => none
    bufs := (initBufs (s.initDecls view area)).getD []
    rows := s.imageRows view area
    spad := s.imageSpad view area }

/-- PRIO of a meadow that serves a region (R295). -/
def Region.prioWord (r : Region) : W64 := BitVec.ofNat 64 (r.prio % 8 + 16 * (r.eff % 8) + 2 ^ 16 * min r.drops 255)

-- DEDUCED, unsafe: log entry 6.
/-- A cleared meadow (R9) in the service of a region. -/
def State.newMeadow (s : State) (r : Region) (rank c : Nat) : Meadow :=
  let view := s.viewOf r.window
  let vec := s.imageVec view (areaOf r.area rank)
  { region := some r.id, rank := rank, timed := r.timed, window := view.window, windowImage := r.window, prio := r.prioWord
    tvec := vec.1, relmask := vec.2, ctxs := freshCtxs r, beatReqs := (s.mdw c).beatReqs }

-- DEDUCED, unsafe: log entry 71.
/-- The generations of a meadow's contexts go up by one (R357). -/
def State.nextGens (s : State) (c : Nat) : State :=
  [0, 1, 2, 3].foldl (fun s x =>
    let n := tgetD s.gens (4 * c + x) 0 + 1
    { s with gens := tput s.gens (4 * c + x) n }.modCtx c x fun k => { k with gen := n }) s

/-- A saved image takes the place of a meadow's state (R301, R382). -/
def State.resumeMeadow (s : State) (r : Region) (rank c : Nat) : State :=
  let s0 := s.scrubImage (s.newMeadow r rank c) (areaOf r.area rank)
  let s1 := s0.setMdw c (s0.newMeadow r rank c)
  let m := (s1.loadImage c (areaOf r.area rank)).goOn s.gtc
  let base (k b : Ctx) : Ctx := { k with sBase := b.sBase, vBase := b.vBase, mBase := b.mBase }
  s1.setMdw c ([0, 1, 2, 3].foldl (fun m x => m.modCtx x fun k => base k (tgetD (freshCtxs r) x {})) m)

/-- A meadow serves the region from its area: a saved image is resumed, an initial image is loaded. -/
def State.placeMeadow (s : State) (r : Region) (rank c : Nat) : State :=
  let area := areaOf r.area rank
  let s := s.scrubImage (s.newMeadow r rank c) area
  let m := s.newMeadow r rank c
  let s1 := if s.areaValid m area then s.resumeMeadow r rank c
    else s.setMdw c (if s.areaInit m area then s.withInit m m area else m)
  s1.nextGens c

-- DEDUCED, unsafe: log entry 68.
/-- The energy nodes of a path: own, not inherited budgets at level 1 or deeper (R296). -/
def energyNodes (ch : List Rcb) : List (Nat × Nat) :=
  (ch.filter fun r => r.level != 0 && !r.inh 0 && r.energy != 0).map fun r => (r.node, r.energy)

def State.placeRegion (s : State) (l : Launch) (p : Plan) : State :=
  let (id, s0) := s.nextSeq
  let c := p.region
  let r : Region :=
    { id := id, launch := l.id, rcb := c.va, path := p.chain.map Rcb.node, window := p.window, key := p.key, timed := p.timed
      gang := c.f 8 34 1 == 1, prio := p.prio, eff := p.prio, area := c.f 0x20 0 64, stages := p.stages, plist := p.plist }
  let l1 : Launch := { l with path := r.path, domain := domainNode p.chain }
  let s1 : State := { s0 with
    launches := s0.launches ++ [l1], regions := s0.regions ++ [r]
    nodes := (energyNodes p.chain).foldl (fun t n => tput t n.1 { energy := n.2, balance := (n.2 * 1024 : Nat), used := 0 })
      (p.chain.foldl (fun t q => tdel t q.node) s0.nodes) }
  p.plist.zipIdx.foldl (fun s c => s.placeMeadow r c.2 c.1) s1

/-! ## Which meadows a region may have (R287) -/

def State.meadowFree (s : State) (c : Nat) : Bool := (s.mdw c).region.isNone

/-- The power of the beat runs that the region's areas hold can be reserved (R316). -/
def State.beatRoom (s : State) (p : Plan) : Bool :=
  let view := s.viewOf p.window
  let n := (p.plist.zipIdx.filter fun c => let a := areaOf (p.region.f 0x20 0 64) c.2; s.areaValid view a && s.imageBeat view a).length
  n == 0 || s.beatPower n

/-- A waiting record of a higher class has had one of these meadows pre-empted. -/
def State.claimedAbove (s : State) (cls : Nat) (ms : List Nat) : Bool :=
  s.claims.any fun c => decide (cls < c.cls) && c.mdws.any ms.contains

/-- The regions of a lower class that serve these meadows. -/
def State.lowerRegions (s : State) (cls : Nat) (ms : List Nat) : List Region :=
  s.regions.filter fun r => decide (r.eff < cls) && ms.any fun c => (s.mdw c).region == some r.id

-- DEDUCED, unsafe: log entry 70.
/-- Ask every meadow of a region to stop and save. -/
def State.askPreempt (s : State) (r : Region) : State :=
  r.plist.foldl (fun s c => if (s.mdw c).region = some r.id then s.stopMeadow c .preempt else s) s

/-- The record waits for its meadows, and those of lower regions are pre-empted for it. -/
def State.claim (s : State) (q slot : Nat) (p : Plan) : State :=
  let low := s.lowerRegions p.prio p.plist
  let rest := s.claims.filter fun c => !(c.queue == q && c.slot == slot)
  if low = [] then s
  else
    let s1 : State := { s with claims := rest ++ [{ queue := q, slot := slot, cls := p.prio, mdws := p.plist }] }
    low.foldl State.askPreempt s1

/-! ## Near-memory kernels (R250, R251) -/

/-- The HCP serves a launch. -/
def State.hcpBusy (s : State) (h : Nat) : Bool := (s.hcp h).running || s.launches.any fun l => l.hcps.contains h

/-- Lines of post slots that kernels pin are pinned in their engines, and no others. -/
def State.repin (s : State) : State :=
  let posts := s.hcps.flatMap fun h => if h.2.pins then h.2.posts.map fun p => (p.2.1, p.2.2.1) else []
  [0, 1].foldl (fun s d => s.modEng d fun e => { e with lines := e.lines.map fun l => { l with pinned := posts.any fun p => l.isLine p.1 p.2 } }) s

-- DEDUCED, unsafe: log entry 67.
/-- The HCP of rank k starts. -/
def State.startHcp (s : State) (m : Meadow) (l : Launch) (p : KPlan) (k h : Nat) : State :=
  let e : Part := match s.qParts m ((l.crec + 64 + 16 * k) % 2 ^ 64) 16 with
    | some (q :: _) => q
    | _ => { off := 0, len := 0, va := 0, pa := 0, key := 0, kind := 0, res := false }
  let sc : SCore := { pc := BitVec.ofNat 32 p.code, nextAt := s.hcpCycle + 1 }
  let t : Hcp :=
    { sc := (((sc.setD 1 l.arg).set 4 (BitVec.ofNat 32 k)).set 5 (BitVec.ofNat 32 p.hcps.length)).setD 3 (BitVec.ofNat 64 e.pa)
      hi := BitVec.ofNat 16 (p.code / 2 ^ 32), running := true, pins := true, launch := l.id, rank := k, entry := e.pa, entryKey := e.key
      pages := p.pages, posts := p.posts, walked := (s.hcp h).walked
      entryOn := e.len != 0 && (l.word0.getLsbD 10 || l.crec != 0) }
  s.modHcp h fun _ => t

-- DEDUCED, unsafe: log entry 67.
def State.startKernel (s : State) (m : Meadow) (l : Launch) (p : KPlan) : State :=
  let entries := (List.range p.hcps.length).all fun k => (s.qParts m ((l.crec + 64 + 16 * k) % 2 ^ 64) 16).isSome
  let l1 : Launch := { l with hcps := p.hcps, left := p.hcps.length, path := [0], domain := 0,
                              word0 := if entries then l.word0 else l.word0 &&& ~~~0x400#32 }
  let s1 : State := { s with launches := s.launches ++ [l1] }
  let s2 := p.hcps.zipIdx.foldl (fun s h => s.startHcp m l1 p h.2 h.1) s1
  (p.posts.foldl (fun s q => s.reachLine (homeDie q.2.1) q.2.1 q.2.2.1 q.2.2.2) s2).repin

/-! ## LAUNCH_RECORD_START -/

/-- The base dies read what the launch unit looks at: the queue's descriptor, its window of records, and a record's control blocks (R257). -/
def State.scrubQueue (s : State) (q : Nat) (batch : Option Nat) (slot : Nat) : State :=
  if s.memClean = true then s else
  let m := s.queueView q
  let s1 := s.qScrub m (s.lqOf q).desc 64
  let s2 : State := match s1.lqRing m q with
    | some d => (lqWindow d).foldl (fun (s : State) i => s.qScrub m ((lineGet d 16 8 + 64 * (i % lineGet d 8 3)) % 2 ^ 64) 64) s1
    | none => s1
  match (s2.openRecords m q batch).find? fun p => p.1 = slot with
  | none => s2
  | some (_, d) => match recKind d with
    | 1 => s2.scrubPlan m (recRcb d)
    | 2 => s2.scrubKernel m (recRcb d)
    | _ => (List.range 257).foldl (fun (s : State) i => s.qScrub m ((recRcb d + 64 * i) % 2 ^ 64) 64) s2

-- DEDUCED, unsafe: log entry 64.
/-- The record of a queue or batch starts, is refused, or waits. -/
def execLaunchRecordStart (q slot : Nat) (s0 : State) : Res :=
  let s := s0.scrubQueue q ((slotBatch slot).map (·.1)) slot
  let reg := s.lqOf q
  let batch := (slotBatch slot).map (·.1)
  if !reg.en || (batch.isNone && reg.pending.isSome) then .next s
  else
    let m := s.queueView q
    let rs := s.openRecords m q batch
    match rs.find? fun p => p.1 = slot with
    | none => .next s
    | some (_, d) =>
      if !firstOfRcb rs slot d || !s.afterMet m d then .next s
      else
        let (id, s0) := s.nextSeq
        let l := launchOf q slot id s.gtc d
        let taken (_ : Unit) : State := s0.takeSlot m q slot
        match s.judgeRecord m batch.isSome d with
        | .refuse e =>
          let s1 := taken ()
          .next ({ s1 with launches := s1.launches ++ [{ l with fin := some e }] }.now [.launchCompletion id])
        | .batch n =>
          let s1 := taken ()
          .next { s1 with launches := s1.launches ++ [{ l with todo := s.batchList m (recRcb d) n }] }
        | .kernel p => if p.hcps.any s.hcpBusy then .next s else .next ((taken ()).startKernel m l p)
        | .region p =>
          if s.claimedAbove p.prio p.plist then .next s
          else if p.plist.all s.meadowFree then (if s.beatRoom p then .next ((taken ()).placeRegion l p) else .next s)
          else .next (s.claim q slot p)

/-- The class with which a record claims meadows; records of a higher class are looked at first (R302). -/
def State.recordClass (s : State) (q slot : Nat) : Nat :=
  let m := s.queueView q
  match (s.openRecords m q ((slotBatch slot).map (·.1))).find? fun p => p.1 = slot with
  | some (_, d) => if recKind d ≠ 1 then 7 else match s.planRegion m (recRcb d) with | .ok p => p.prio | .error _ => 7
  | none => 0

/-! ## Completion (R288, R291) -/

/-- A stage queue's ring on a meadow: its descriptor's bytes; none when it cannot be read or is bad (R284). -/
def State.ringAt (s : State) (m : Meadow) (sp : Bool) (addr : Nat) : Option Line :=
  let raw : Option Nat := if sp then some (spadRead m.spad (addr % 2 ^ 20) 64) else s.qRead m ((addr + 64 * m.rank) % 2 ^ 64) 64
  match raw with
  | none => none
  | some v => let d : Line := BitVec.ofNat 512 v; if ringBad d then none else some d

/-- The base dies read the descriptors of a meadow's stage rings (R257). -/
def State.scrubRings (s : State) (c : Nat) : State :=
  if s.memClean = true then s else
  let m := s.mdw c
  let rings := ((s.regionOf c).map fun r => r.stages.flatMap fun g =>
    (if g.qin = 0 || g.insp then [] else [g.qin]) ++ if g.qout = 0 || g.outsp then [] else [g.qout]).getD []
  rings.foldl (fun (s : State) a => match s.access m { read := true, resident := true } [((a + 64 * m.rank) % 2 ^ 64, 64)] with
    | .ok ps => s.scrubParts ps
    | _ => s) s

def State.inRing (s : State) (m : Meadow) (g : Stage) : Option Line := s.ringAt m g.insp g.qin
def State.outRing (s : State) (m : Meadow) (g : Stage) : Option Line := s.ringAt m g.outsp g.qout

/-- Nothing that a meadow has issued is still on its way. -/
def State.atRest (s : State) (c : Nat) : Bool :=
  let m := s.mdw c
  m.flights.isEmpty && m.tileSteps.isEmpty && m.mops.isEmpty && m.late.isEmpty && m.beat.isNone &&
  m.ctxs.all (fun k => k.2.stores.isEmpty && k.2.landing.isEmpty && k.2.trap.isNone) &&
  [0, 1].all fun d => (s.eng d).reqs.all fun r => r.heath || r.coord != c

/-- The region has completed on a meadow. -/
def State.meadowDone (s : State) (r : Region) (c : Nat) : Bool :=
  let m := s.mdw c
  m.region == some r.id && m.stopping.isNone && m.ctxs.all (fun k => k.2.task.isNone) &&
  r.stages.zipIdx.all (fun g =>
    let rt := tgetD m.stages g.2 {}
    rt.running == 0 && (if g.1.qin = 0 then rt.started == g.1.items else match s.inRing m g.1 with | some d => ringOcc d == 0 | none => false)) &&
  s.atRest c

def State.launchDone (s : State) (l : Launch) : Bool :=
  match l.kind with
  | 1 => (match s.regions.find? fun r => r.launch == l.id with
    | none => l.fin.isSome
    | some r => if r.fin.isSome then r.plist.all fun c => (s.mdw c).region != some r.id else !r.preempted && r.plist.all (s.meadowDone r))
  | 2 => l.left == 0
  | _ => l.todo.isEmpty && s.launches.all fun k => k.batch != some l.id

/-- How the launch ends. -/
def State.endOf (s : State) (l : Launch) : EndInfo :=
  ((s.regions.find? fun r => r.launch == l.id).bind (·.fin)).getD (l.fin.getD { status := 0 })

-- DEDUCED, unsafe: log entry 65.
/-- The 64 bytes of R288. -/
def complRecord (l : Launch) (e : EndInfo) (g preempts drops : Nat) : Nat :=
  e.status % 2 ^ 8 + e.cause % 2 ^ 7 * 2 ^ 8 + l.kind % 2 ^ 8 * 2 ^ 16 + l.seq.toNat * 2 ^ 32 + l.gstart % 2 ^ 64 * 2 ^ 64 + g % 2 ^ 64 * 2 ^ 128 +
  l.used / 1024 % 2 ^ 64 * 2 ^ 192 + min drops 255 * 2 ^ 256 + min preempts 65535 * 2 ^ 272 + e.fctx.toNat * 2 ^ 320 + e.fval.toNat * 2 ^ 384

-- DEDUCED, unsafe: log entry 66.
/-- The post of a launch (R246). -/
def State.launchPost (s : State) (m : Meadow) (l : Launch) : State :=
  if l.word0.getLsbD 9 = false ∨ l.post % 4 ≠ 0 then s else
  match s.access m .atomic [(l.post, 4)] with
  | .ok (p :: _) =>
    let (id, s1) := s.nextSeq
    let (ix, s2) := s1.freshIx
    s2.modEng (homeDie l.post) fun e => { e with reqs := e.reqs ++ [
      { id := id, op := .hpost l.pinc none, va := p.va, pa := p.pa, key := p.key, scope := .pkg, coord := 2048 + (s.lqOf l.queue).die, ctx := 0, heath := true,
        at_ := s.gtc + 1 + Config.excess ix }] }
  | _ => s

/-- A held LQREG write takes effect once the queue's records have completed (R389). -/
def State.settleLq (s : State) (q : Nat) : State :=
  let l := s.lqOf q
  match l.pending with
  | some (lo, hi) =>
    if s.launches.any (fun k => k.queue == q) || (lo.getLsbD 0 && decide (s.bootStep < 6)) then s
    else { s with lq := tput s.lq q { lo := lo, hi := hi, heldHi := l.heldHi }, claims := s.claims.filter fun c => c.queue != q }
  | none => s

/-- A region's sets are undeclared (R321). -/
def State.undeclareAll (s : State) (region : Nat) : State :=
  [0, 1].foldl (fun s d =>
    (s.modEng d fun e => { e with sets := e.sets.filter fun t => t.region != region }).noticeRelease
      (((s.eng d).sets.filter fun t => t.region == region).map fun t => (d, t.region, t.ident))) s

/-- What a region leaves behind: its meadows are free with their state as it stands until the next placement clears it (R9), its sets
are gone. -/
def State.dropRegion (s : State) (r : Region) : State :=
  let s1 := r.plist.foldl (fun s c => if (s.mdw c).region = some r.id then s.modMdw c Meadow.release else s) s
  let s2 := s1.undeclareAll r.id
  { s2 with regions := s2.regions.filter fun q => q.id != r.id }

-- DEDUCED, unsafe: log entry 78.
/-- The launch is the batch of the generation loop's iteration: the loop knows its completion record by its address and sequence number. -/
def State.genBatch (s : State) (l : Launch) : Bool :=
  s.gen.inFlight && l.kind == 3 && l.queue == s.gen.queue && l.crec == s.gen.crecAddr && l.seq == BitVec.ofNat 32 s.gen.iter

-- DEDUCED, unsafe: log entry 66.
/-- LAUNCH_COMPLETION: the record, MCIRQ, then the post. -/
def execLaunchCompletion (id : Nat) (s : State) : Res :=
  match s.launches.find? fun l => l.id = id with
  | none => .next s
  | some l =>
    if !s.launchDone l then .next s
    else
      let e := s.endOf l
      let m := s.queueView l.queue
      let reg : Option Region := s.regions.find? fun r => r.launch = id
      let s1 := if l.word0.getLsbD 10 then
          let t := match s.qParts m l.crec 64 with
            | some ps => s.writeParts ps (complRecord l e s.gtc ((reg.map Region.preempts).getD 0) ((reg.map Region.drops).getD 0)) (2 ^ 64 - 1)
            | none => s
          { t with msix := t.msix ++ [1], gen := { t.gen with done := t.gen.done || s.genBatch l } }.setIrq (l.queue % 16)
        else s
      let s2 := s1.launchPost m l
      let s3 := match reg with | some r => s2.dropRegion r | none => s2
      let note (k : Launch) : Launch := if l.batch = some k.id ∧ e.status ≠ 0 ∧ (k.fin.isNone ∨ l.place < k.worst) then { k with fin := some e, worst := l.place } else k
      let s4 : State := { s3 with launches := (s3.launches.filter fun k => k.id != id).map note }
      .next ((if l.kind = 2 then s4.repin else s4).settleLq l.queue)

end Sys2Proof.Machine
end

