-- ==== Sys2Proof/Machine/Tasks.lean ====
section
/-! DEFINITION. The scheduler of a meadow (R289-R291, R299): which stage a free context gets, the start and the end of a task, and
the turns of the shared units (R293, R294). -/
namespace Sys2Proof.Machine

/-! ## Queues of a meadow (R284) -/

def Meadow.stageRt (m : Meadow) (i : Nat) : StageRt := tgetD m.stages i {}

/-- Items of a stage's input ring that no task has claimed. -/
def StageRt.unclaimed (t : StageRt) (d : Line) : Nat := ringOcc d - (t.running + t.freed.length)
/-- Slots of a stage's output ring that are neither filled nor reserved. -/
def StageRt.room (t : StageRt) (d : Line) : Nat := lineGet d 8 3 - ringOcc d - (t.running + t.finished.length)
/-- How far HEAD has come, and TAIL, in items. -/
def StageRt.passed (t : StageRt) : Nat := t.claimed - t.running - t.freed.length
def StageRt.committed (t : StageRt) : Nat := t.reserved - t.running - t.finished.length

-- DEDUCED, unsafe: log entry 84.
/-- The address of a slot. -/
def slotAddr (sp : Bool) (d : Line) (i : Nat) : Nat :=
  let a := lineGet d 16 8 + 8 * lineGet d 14 2 * (i % lineGet d 8 3)
  if sp then a % 2 ^ 20 else a % 2 ^ 64

/-- HEAD or TAIL of a stage queue moves (R284, R291). -/
def State.ringPut (s : State) (c : Nat) (sp : Bool) (addr off v : Nat) : State :=
  let m := s.mdw c
  if sp then s.setMdw c { m with spad := spadWrite m.spad (addr % 2 ^ 20 + off) 4 v 15 }
  else match s.qParts m ((addr + 64 * m.rank + off) % 2 ^ 64) 4 with
    | some ps => s.writeParts ps v 15
    | none => s

/-! ## Choice (R289, R290) -/

-- DEDUCED, unsafe: log entry 69.
/-- The stage is eligible on a free context: its input fill when it is. -/
def State.eligible (s : State) (c x : Nat) (r : Region) (i : Nat) (g : Stage) : Option (Nat × Nat) :=
  let m := s.mdw c
  let t := m.stageRt i
  let free := [0, 1, 2, 3].all fun y => (m.ctx y).task.isNone ||
    (getField (m.ctx y).istat 12 8 &&& g.tiles.toNat == 0 && getField (m.ctx y).istat 8 4 &&& g.bregs.toNat == 0)
  let out := if g.qout = 0 then true else match s.outRing m g with | some d => decide (0 < t.room d) | none => false
  if !free || !out || decide (g.maxctx < t.running) || (r.timed && g.ctx != x) then none
  else if g.qin = 0 then (if t.started < g.items then some (0, 1) else none)
  else match s.inRing m g with
    | some d => if 0 < t.unclaimed d then some (t.unclaimed d, lineGet d 8 3) else none
    | none => none

-- DEDUCED, unsafe: log entry 69.
/-- The stage that a free context gets: the highest fill, and of equal fills the later; in a timed region the first after the one
that ran last. -/
def State.choose (s : State) (c x : Nat) (r : Region) : Option Nat :=
  let can := r.stages.zipIdx.filterMap fun g => (s.eligible c x r g.2 g.1).map fun f => (g.2, f)
  if r.timed then
    let n := r.stages.length
    let first := match tget (s.mdw c).lastStage x with | some l => l + 1 | none => 0
    ((List.range n).map fun i => (first + i) % n).find? fun i => can.any fun g => g.1 == i
  else
    (can.foldl (fun (best : Option (Nat × Nat × Nat)) g =>
      match best with
      | none => some g
      | some b => if b.2.1 * g.2.2 ≤ g.2.1 * b.2.2 then some g else some b) none).map (·.1)

/-- A context to which a stage may be given: no task runs there, and the region goes on. A task may still start in the cycle of a
pre-emption request (R302). -/
def State.ctxFree (s : State) (c x : Nat) : Option Region :=
  let m := s.mdw c
  if (m.ctx x).task.isSome || (match m.stopping with | some t => decide (t.asked < s.gtc) | none => false) then none
  else match s.regionOf c with
    | some r => if r.fin.isSome then none else some r
    | none => none

/-! ## TASK_START (R291, R299) -/

/-- ISTAT at task start. -/
def istatWord (r : Region) (i : Nat) (g : Stage) (item : Nat) : W64 :=
  BitVec.ofNat 64 (item % 2 ^ 32 * 2 ^ 32 + i % 16 * 2 ^ 28 + g.role % 4 * 2 ^ 26 + (if r.timed then 2 ^ 25 else 0) + (if r.gang then 2 ^ 24 else 0) +
    g.tiles.toNat * 2 ^ 12 + g.bregs.toNat * 2 ^ 8)

/-- What a task is given: the addresses of its item and its slot, and the item's index. -/
structure TaskGift where
  src : Nat
  dst : Nat
  item : Nat
  deriving DecidableEq, Repr

def State.gift (s : State) (c i : Nat) (g : Stage) : TaskGift :=
  let m := s.mdw c
  let t := m.stageRt i
  let idx : Nat × Nat := match s.inRing m g with
    | some d => let k := (lineGet d 0 3 + (t.claimed - t.passed)) % 2 ^ 24; (k, slotAddr g.insp d k)
    | none => (0, 0)
  { src := if g.qin = 0 then 0 else idx.2
    dst := if g.qout = 0 then 0 else match s.outRing m g with
      | some d => slotAddr g.outsp d ((lineGet d 4 3 + (t.reserved - t.committed)) % 2 ^ 24)
      | none => 0
    item := if g.qin = 0 then t.started else idx.1 }

/-- The registers, counters and grants of a context whose task begins. -/
def Ctx.begin_ (k : Ctx) (r : Region) (i : Nat) (g : Stage) (rank : Nat) (v : TaskGift) (t : Task) (mtc gtc : Nat) : Ctx :=
  let sc := ((((k.sc.setD 1 (BitVec.ofNat 64 v.src)).setD 2 (BitVec.ofNat 64 v.dst)).set 6 (BitVec.ofNat 32 v.item)).set 7 (BitVec.ofNat 32 rank))
  let use (b : Nat) : Bool := g.use.getLsbD b
  { (k.setMreg 0 (sc.get 2)).setMreg 1 (sc.get 4) with
    sc := { sc with pc := if use 0 then g.sentry else sc.pc, nextAt := mtc }
    vpc := if use 1 then g.ventry else k.vpc
    mpc := if use 2 then g.mentry else k.mpc
    vNextAt := mtc, mNextAt := mtc, mPrev := gtc
    sRun := use 0, vRun := use 1, mRun := use 2
    istat := istatWord r i g v.item
    task := some t, readyRun := [], promoted := [] }

/-- TASK_START: the context claims its item, reserves its slot, and takes its grants; its tiles' bits are seen from this cycle on
(R20). -/
def execTaskStart (mdw ctx stage : Nat) (s : State) : Res :=
  match s.ctxFree mdw ctx with
  | none => .next s
  | some r => match r.stages[stage]? with
    | none => .next s
    | some g =>
      if (s.eligible mdw ctx r stage g).isNone then .next s
      else
        let m := s.mdw mdw
        let t := m.stageRt stage
        let v := s.gift mdw stage g
        let task : Task := { stage := stage, claim := if g.qin = 0 then none else some t.claimed, resv := if g.qout = 0 then none else some t.reserved, item := v.item }
        let m1 : Meadow := { m with
          stages := tput m.stages stage { t with
            started := t.started + 1, running := t.running + 1
            claimed := if g.qin = 0 then t.claimed else t.claimed + 1
            reserved := if g.qout = 0 then t.reserved else t.reserved + 1 }
          lastStage := tput m.lastStage ctx stage }
        let m2 := ((List.range 8).filter fun k => g.tiles.getLsbD k).foldl (fun m k => m.setTile k (g.vtiles.getLsbD k) {}) m1
        let m3 := { m2 with tileOld := m2.tileFull }
        .next (s.setMdw mdw (m3.modCtx ctx fun k => k.begin_ r stage g m.rank v task m.mtc s.gtc))

/-- The starts of this cycle, contexts ascending, each seeing those before it. -/
def State.taskStarts (s : State) (c : Nat) : List Ev :=
  if (s.mdw c).region.isNone then [] else
  ([0, 1, 2, 3].foldl (fun (a : State × List Ev) x =>
    match a.1.ctxFree c x with
    | none => a
    | some r => match a.1.choose c x r with
      | none => a
      | some i => match execTaskStart c x i a.1 with
        | .next t => (t, a.2 ++ [.taskStart c x i])
        | _ => a) (s, [])).2

/-! ## TASK_END (R17, R291) -/

-- DEDUCED, unsafe: log entry 69.
/-- Every used stream has ended, every command has completed, and what the end releases is performed. -/
def State.taskOver (s : State) (c x : Nat) : Bool :=
  let k := s.ctx c x
  k.task.isSome && k.sc.pend.isEmpty && !k.sRun && !k.vRun && !k.mRun && k.se.queue.isEmpty && k.se.run.isNone && k.trap.isNone && !k.active && k.sWait.isNone &&
  k.tileWord.isNone && k.dtopo.isNone && k.hasp.roll.isNone && s.released c x ⟨s.seq, s.seq, s.seq⟩

/-- Items that are done at the front are passed over. -/
def passDone : Nat → Nat → List Nat → Nat × List Nat
  | 0, n, l => (n, l)
  | f + 1, n, l => if l.contains n then (passDone f (n + 1) (l.erase n)) else (n, l)

/-- The input slot of a task is freed. -/
def State.freeItem (s : State) (c i : Nat) (g : Stage) (item : Nat) : State :=
  let m := s.mdw c
  let t := m.stageRt i
  let p0 := t.passed - 1
  let (p, l) := passDone (t.freed.length + 1) p0 (t.freed ++ [item])
  let s1 := s.setMdw c { m with stages := tput m.stages i { t with freed := l } }
  match s.inRing m g with
  | some d => s1.ringPut c g.insp g.qin 0 ((lineGet d 0 3 + (p - p0)) % 2 ^ 24)
  | none => s1

/-- The output slot of a task is committed: TAIL passes the committed slots in the order of their reservation. -/
def State.commitSlot (s : State) (c i : Nat) (g : Stage) (slot : Nat) : State :=
  let m := s.mdw c
  let t := m.stageRt i
  let p0 := t.committed - 1
  let (p, l) := passDone (t.finished.length + 1) p0 (t.finished ++ [slot])
  let s1 := s.setMdw c { m with stages := tput m.stages i { t with finished := l } }
  match s.outRing m g with
  | some d => s1.ringPut c g.outsp g.qout 4 ((lineGet d 4 3 + (p - p0)) % 2 ^ 24)
  | none => s1

/-- TASK_END. -/
def execTaskEnd (mdw ctx : Nat) (s : State) : Res :=
  if !s.taskOver mdw ctx then .next s else
  match (s.ctx mdw ctx).task, s.regionOf mdw with
  | some t, some r => match r.stages[t.stage]? with
    | none => .next s
    | some g =>
      let s1 := s.modMdw mdw fun m =>
        let rt := m.stageRt t.stage
        ({ m with stages := tput m.stages t.stage { rt with running := rt.running - 1 } } : Meadow).modCtx ctx fun k =>
          { k with task := none, istat := setField k.istat 8 12 0, readyRun := [], promoted := [] }
      let s2 := match t.claim with | some i => s1.freeItem mdw t.stage g i | none => s1
      .next (match t.resv with | some i => s2.commitSlot mdw t.stage g i | none => s2)
  | _, _ => .next s

/-! ## Ageing and turns (R293, R294) -/

def Meadow.limit (m : Meadow) : Nat := m.ageLimit.toNat * 256

/-- CONTEXT_PROMOTION: the head word has been ready for LIMIT × 256 cycles in a row. -/
def execContextPromotion (mdw ctx : Nat) (u : IssueUnit) (s : State) : Res :=
  let m := s.mdw mdw
  let k := m.ctx ctx
  if m.timed || decide (tgetD k.readyRun (unitIx u) 0 < m.limit) || (tget k.promoted (unitIx u)).isSome then .next s
  else .next (s.modCtx mdw ctx fun k => { k with promoted := tput k.promoted (unitIx u) (m.mtc + 2 ^ 20 - tgetD k.readyRun (unitIx u) 0) })

/-- The holder's stream for a unit has ended its task body. -/
def Ctx.unitOver (k : Ctx) (u : IssueUnit) : Bool := match u with | .vector => !k.vRun | _ => !k.mRun

/-- TURN_TIMEOUT: the holder of a timed region's turn loses it. -/
def execTurnTimeout (mdw : Nat) (u : IssueUnit) (s : State) : Res :=
  let m := s.mdw mdw
  match (m.unit u).turn with
  | none => .next s
  | some x =>
    if m.timed && ((m.ctx x).unitOver u || decide (m.limit ≤ (m.unit u).idle)) then
      .next (s.setMdw mdw (m.setUnit u { m.unit u with turn := m.nextTurn x, idle := 0 }))
    else .next s

end Sys2Proof.Machine
end

