-- ==== Sys2Proof/Machine/Progress.lean ====
section
/-! DEFINITION. Energy and power (R295-R297), pre-emption and resumption (R300-R302), and fault-domain stops (R359, R360, R384). -/
namespace Sys2Proof.Machine

/-! ## Energy (R296) -/

/-- What a meter has gained since it was last charged. -/
def gained (meter charged : W64) : Nat := (meter - charged).toNat

def Launch.use (l : Launch) (n : Nat) : Launch := { l with used := l.used + n }

-- DEDUCED, unsafe: log entry 68.
/-- Charge an amount to a launch and to every energy node on a path. -/
def State.charge (s : State) (launch : Nat) (path : List Nat) (n : Nat) : State :=
  { s with
    launches := s.launches.map fun l => if l.id = launch then l.use n else l
    nodes := s.nodes.map fun q => if path.contains q.1 then (q.1, { q.2 with balance := q.2.balance - (n : Int), used := q.2.used + n }) else q }

-- DEDUCED, unsafe: log entry 68.
/-- The increase of each meadow's and HCP's meter is charged. -/
def State.chargeAll (s : State) : State :=
  let s1 := s.meadows.foldl (fun (s : State) m =>
    match s.regionOf m.1 with
    | none => s
    | some r => (s.charge r.launch r.path (gained m.2.emeter m.2.charged)).modMdw m.1 fun m => { m with charged := m.emeter }) s
  s1.hcps.foldl (fun (s : State) h =>
    if !h.2.running then s else
    (s.charge h.2.launch (((s.launches.find? fun l => l.id = h.2.launch).map (·.path)).getD []) (gained h.2.meter h.2.charged)).modHcp h.1 fun t =>
      { t with charged := t.meter }) s1

/-- A region's class falls by one. -/
def Region.drop (r : Region) : Region := { r with eff := r.eff - 1, drops := min 255 (r.drops + 1) }

-- DEDUCED, unsafe: log entry 67.
/-- What follows when a node's balance has reached 0 or less. -/
def State.dropUnder (s : State) (node : Nat) : State :=
  let s0 : State := { s with
    nodes := s.nodes.map fun q => if q.1 = node then (q.1, { q.2 with balance := q.2.balance + (q.2.energy * 1024 : Nat) }) else q
    regions := s.regions.map fun r => if r.path.contains node then r.drop else r
    msix := s.msix ++ [1] }
  let s1 := s0.setIrq 16
  let s2 := (s1.regions.filter fun r => r.path.contains node).foldl (fun (s : State) r =>
    r.plist.foldl (fun (s : State) c => if (s.mdw c).region = some r.id then s.modMdw c fun m => { m with prio := r.prioWord } else s) s) s1
  let under := (s.launches.filter fun l => l.path.contains node).flatMap (·.hcps)
  under.foldl (fun (s : State) h => s.modHcp h fun t => { t with effClass := t.effClass - 1 }) s2

/-- ENERGY_CHARGE. -/
def execEnergyCharge (s : State) : Res :=
  if s.gtc % 4096 ≠ 0 then .next s else
  let s1 := s.chargeAll
  .next ((s1.nodes.filter fun q => decide (q.2.balance ≤ 0)).foldl (fun s q => s.dropUnder q.1) s1)

/-! ## Power (R297) -/

/-- POWER_COMPARE. -/
def execPowerCompare (s : State) : Res :=
  if s.gtc % 14000 ≠ 0 then .next s else
  let (ix, s0) := s.freshIx
  let p := Config.power ix
  let s1 : State := { s0 with power := p }
  let lim := s.pwrlim.toNat
  if lim < p then .next { s1 with thresh := min 7 (s.thresh + 1), below := 0 }
  else if 100 * p < 95 * lim then
    if 9 ≤ s.below then .next { s1 with thresh := s.thresh - 1, below := 0 } else .next { s1 with below := s.below + 1 }
  else .next { s1 with below := 0 }

/-! ## Pre-emption (R300) -/

-- DEDUCED, unsafe: log entry 70.
/-- The meadow is quiet: its image goes to its area, and it is free. A save that fails R193 stops the fault domain. -/
def State.savePreempted (s : State) (c : Nat) (r : Region) : Res :=
  let m := s.mdw c
  let area := areaOf r.area m.rank
  match s.access m .store [(area, imageBytes)] with
  | .trap cause tval => .next ((s.modMdw c fun m => { m with stopping := none }).now [.faultDomainStop (s.domainOf c) cause 0 tval false])
  | .gone pa => .fault (.unbacked pa)
  | .ok _ =>
    let s0 := s.saveScrub c
    let s1 := (s0.saveImage c (s0.mdw c) area r.rcb false).modMdw c Meadow.release
    .next (s1.modRegion r.id fun r =>
      { r with preempted := true, preempts := if r.preempted then r.preempts else r.preempts + 1, beats := r.beats + if m.beat.isSome then 1 else 0 })

-- DEDUCED, unsafe: log entry 70.
/-- PREEMPTION: a request for a meadow that is not being stopped, or the end of a stop: the image is saved, or the meadow is
free, or a CTXSV or CTXLD finishes, and a pre-emption asked for meanwhile begins. A save that fails R193 stops the fault domain (R381), and
an image with a beat run is loaded once its power can be reserved (R316). -/
def execPreemption (mdw : Nat) (s : State) : Res :=
  let m := s.mdw mdw
  match m.stopping, s.regionOf mdw with
  | none, some r => .next (s.askPreempt r)
  | none, none => .next s
  | some st, reg =>
    let again (s : State) : State := if st.again then s.stopMeadow mdw .preempt else s
    if !s.drained mdw st.why.saver then .next s
    else match st.why with
      | .preempt => (match reg with | some r => s.savePreempted mdw r | none => .next (s.modMdw mdw Meadow.release))
      | .stop | .halt => .next (s.modMdw mdw Meadow.release)
      | .save x rd img => (match s.access m .store [(img.toNat, imageBytes)] with
        | .trap cause tval => .next ((s.modMdw mdw fun m => { m.modCtx x (fun k => { k with sWait := none }) with stopping := none }).now
            [.faultDomainStop (s.domainOf mdw) cause (ctxid mdw x) tval false])
        | .gone pa => .fault (.unbacked pa)
        | .ok _ => .next (again (s.finishSave mdw x rd img)))
      | .load _ img _ => if s.imageBeat m img.toNat && !s.beatPower 1 then .next s else .next (again (s.finishLoad mdw img))

/-- A load has not arrived within the bound of step 3. -/
def Meadow.stuck (m : Meadow) (g : Nat) : Bool :=
  (match m.stopping with | some st => decide (st.since + 2 ^ 20 ≤ g) | none => false) && [0, 1, 2, 3].any fun x => (m.ctx x).landing.any fun e => !e.arrived

/-- PREEMPT_STUCK: the fault domain stops, and the loads that never came are given up. -/
def execPreemptStuck (mdw : Nat) (s : State) : Res :=
  let m := s.mdw mdw
  if !m.stuck s.gtc then .next s else
  let m1 := [0, 1, 2, 3].foldl (fun m x => m.modCtx x fun k => { k with landing := k.landing.filter fun e => e.arrived }) m
  .next ((s.setMdw mdw m1).now [.faultDomainStop (s.domainOf mdw) Cause.preemptStuck 0 0 false])

/-- A pre-empted region may go on: all of its meadows are free, no record of a higher class waits for one of them, and the power of its
beat runs can be reserved again (R316). -/
def State.resumable (s : State) (r : Region) : Bool :=
  r.preempted && r.fin.isNone && r.plist.all s.meadowFree && !s.claimedAbove r.eff r.plist && (r.beats == 0 || s.beatPower r.beats)

/-- RESUMPTION (R287, R301, R382). -/
def execResumption (region : Nat) (s : State) : Res :=
  match s.regions.find? fun r => r.id = region with
  | none => .next s
  | some r =>
    if !s.resumable r then .next s
    else
      let s1 := s.modRegion region fun r => { r with preempted := false, beats := 0 }
      .next (r.plist.zipIdx.foldl (fun s c => s.resumeMeadow r c.2 c.1) s1)

/-! ## Fault-domain stops (R359, R360) -/

/-- A landing that its stopped domain armed, or had not yet armed, completes KILLED (R384). -/
def State.disarm (s0 : State) (h : Nat) : State :=
  let s := (s0.landings.filter fun l => l.hcp = h).foldl State.landFlush s0
  (s.hcmds.filter fun c => c.hcp = h && c.func = 2).foldl (fun s c =>
    ({ s with hcmds := s.hcmds.filter fun q => q.id != c.id, landings := s.landings.filter fun l => l.cmd != c.id }).finishCmd h ⟨c.block⟩ 7 0) s

-- DEDUCED, unsafe: log entry 71.
/-- The node lies under a node that is stopped already. -/
def State.coveredStop (s : State) (node : Nat) : Bool :=
  let paths := s.regions.map (·.path) ++ s.launches.map (·.path)
  paths.any fun p => p.contains node && ((p.dropWhile fun n => n != node).drop 1).any fun n => (tget s.stopped n).isSome

/-- A region under the stopped node stops: its hasp tasks are undone and its sets undeclared (R321), and the generations of its contexts go
on (R357). -/
def State.stopUnder (s : State) (info : EndInfo) (r : Region) : State :=
  let s0 := r.plist.foldl (fun s c => if (s.mdw c).region = some r.id then [0, 1, 2, 3].foldl (fun s x => s.stopHasp c x) s else s) s
  let s1 := (s0.endRegion r.id .stop info).undeclareAll r.id
  r.plist.foldl (fun s c => if (s.mdw c).region = some r.id then (s.nextGens c).modMdw c fun m => [0, 1, 2, 3].foldl (fun m x => m.modCtx x fun k => { k with trap := none, unbound := [] }) m
    else s) s1

/-- A kernel launch under the stopped node ends KILLED on every HCP. -/
def State.killKernel (s : State) (info : EndInfo) (l : Launch) : State :=
  let s1 : State := { s with launches := s.launches.map fun k => if k.id = l.id then { k with fin := some (k.fin.getD info) } else k }
  l.hcps.foldl (fun (s : State) h =>
    if (s.hcp h).running && (s.hcp h).launch == l.id then (s.modHcp h fun t => t.stopWith 7 0).disarm h else s) s1

/-- FAULT_DOMAIN_STOP. -/
def execFaultDomainStop (node cause : Nat) (fctx fval : W64) (killed : Bool) (s : State) : Res :=
  if s.coveredStop node then .next s else
  let info : EndInfo := if killed then { status := 0x21 } else { status := 0x20, cause := cause, fctx := fctx, fval := fval }
  let s1 := (s.regions.filter fun r => r.path.contains node && r.fin.isNone).foldl (fun s r => s.stopUnder info r) s
  let s2 := (s1.launches.filter fun l => l.kind == 2 && l.path.contains node && l.fin.isNone).foldl (fun s l => s.killKernel info l) s1
  .next ({ s2 with
    stopped := if (tget s2.stopped node).isSome then s2.stopped else tput s2.stopped node info
    msix := s2.msix ++ [1] }.setIrq 17)

/-- FAULT_DOMAIN_STOP_CLEAR. -/
def execFaultDomainStopClear (node : Nat) (s : State) : Res := .next { s with stopped := tdel s.stopped node }

end Sys2Proof.Machine
end

