-- ==== Sys2Proof/Machine/Arbiter.lean ====
section
/-! DEFINITION. The base-die arbiter of a pseudo-channel (R253-R255) and the neighbour refresh (R258). -/
namespace Sys2Proof.Machine

/-! ## Requests -/

/-- The landing lies within 128 slots. -/
def ArbReq.urgent (r : ArbReq) (g : Nat) : Bool := r.kind == .arrayRead && decide (10 * r.deadline ≤ 10 * g + 7 * 128)

/-- The position of a command in R254; `holder` says that it is a column of the bank's lease holder. -/
def ArbReq.position (r : ArbReq) (g : Nat) (holder : Bool) : Nat :=
  match r.kind with
  | .refresh => 1
  | .recall => 2
  | .arrayRead => if r.urgent g then 2 else 4
  | .arrayWrite => 5
  | .heath => if holder || r.promoted then 3 else 6

/-- An earlier request to the same line stands before this one. -/
def Arbiter.behind (a : Arbiter) (r : ArbReq) : Bool :=
  r.kind != .refresh && !r.hrow && (a.queue.takeWhile fun q => q != r).any fun q => q.kind != .refresh && !q.hrow && q.line == r.line

-- DEDUCED, unsafe: log entry 72.
/-- R255 lets a heath engine begin a lease on the bank: the array requests that were queued when the last one ended are served, and behind
them, while any are queued, only a promoted activate is eligible. -/
def Arbiter.leaseOk (a : Arbiter) (r : ArbReq) : Bool :=
  let b := a.bankOf r.bank
  !b.lease && b.owed.all (fun i => a.queue.all fun q => q.id != i) && (r.promoted || !b.after)

/-- The request's row is open for it: it needs a column command only. An HROW needs none. -/
def Arbiter.hit (a : Arbiter) (r : ArbReq) : Bool :=
  let b := a.bankOf r.bank
  r.kind != .refresh && !r.hrow && b.openRow == some r.row && (r.kind != .heath || b.heath)

/-- A column command is not held back by R255. -/
def Arbiter.colOk (a : Arbiter) (r : ArbReq) : Bool := a.hit r && (r.kind != .heath || (a.bankOf r.bank).lease || a.leaseOk r) && !a.behind r

/-- A row command is not held back by R255; the rows beside an activated one are refreshed behind the first column command of its row. -/
def Arbiter.rowOk (a : Arbiter) (r : ArbReq) : Bool :=
  (r.kind == .refresh && !(r.nbr && (a.bankOf r.bank).posted.isSome)) || r.kind != .refresh && (!a.hit r && !a.behind r && (if r.kind = .heath then a.leaseOk r else !(a.bankOf r.bank).lease))

/-- The best position, and among equals the oldest. -/
def bestOf (pos : ArbReq → Nat) (rs : List ArbReq) : Option ArbReq :=
  rs.foldl (fun (b : Option ArbReq) r => match b with | none => some r | some q => if pos r < pos q then some r else some q) none

/-! ## Neighbour refresh (R258) -/

def State.nrOf (s : State) (stack : Nat) : W64 := tgetD s.nrctl stack 8

-- DEDUCED, unsafe: log entry 72.
/-- The decision for activate number a of a pseudo-channel. -/
def State.neighbour (s : State) (pc : Nat) (a : W32) : Bool × State :=
  let c := s.nrOf (pc / 64)
  let k := getField c 0 4
  if c.getLsbD 8 then (decide (coinOf (tgetD s.nrseed (pc / 64) 0) (2 ^ 31 + 2 ^ 16 * pc) a < 2 ^ (24 - k)), s)
  else let (ix, s1) := s.freshIx; (Config.neighbour ix k, s1)

/-! ## Leases (R255) -/

/-- A lease begins, under the limits that the request carries (R255, R273). -/
def State.beginLease (s : State) (pc : Nat) (r : ArbReq) (slot : Nat) : State :=
  s.modArb pc fun a => a.setBank r.bank
    { a.bankOf r.bank with heath := true, lease := true, cols := 0, since := slot, maxCols := r.lim.1, maxSlots := r.lim.2, after := false }

/-- The bank's lease has reached a limit. -/
def Bank.expired (b : Bank) (slot : Nat) : Bool := b.lease && (decide (b.maxCols ≤ b.cols) || decide (b.since + b.maxSlots ≤ slot))

/-- A lease ends, and an HROW's with it once that has begun. -/
def State.stopLease (s : State) (pc bank : Nat) : State :=
  if !((s.arb pc).bankOf bank).lease then s else
  (s.modArb pc fun a => a.setBank bank ((a.bankOf bank).endLease bank a.entries)).modHcp pc fun t =>
    { t with lease := match t.lease with
        | some (b, r) => if b = bank ∧ !((s.arb pc).queue.any (·.hrow)) then none else some (b, r)
        | none => none }

/-! ## One slot -/

def State.arbDrop (s : State) (pc : Nat) (r : ArbReq) : State := s.modArb pc fun a => { a with queue := a.queue.erase r }

-- DEDUCED, unsafe: log entry 72.
/-- The column bus: a column command counts against the lease that is open on its bank. -/
def State.column (s : State) (pc slot : Nat) (r : ArbReq) : State :=
  let b := (s.arb pc).bankOf r.bank
  let s1 := if r.kind = .heath ∧ !b.lease then s.beginLease pc r slot else s
  (s1.modArb pc fun a =>
    let b := a.bankOf r.bank
    a.setBank r.bank { b with cols := if b.lease then b.cols + 1 else b.cols, posted := none, refreshed := false }).arbDrop pc r

-- DEDUCED, unsafe: log entry 72.
/-- The row bus: a refresh closes the bank's row; an activate opens one, with its neighbours' refresh when it is drawn; an HROW whose row is
open for heaths begins its lease without an activate. -/
def State.rowCmd (s : State) (pc slot : Nat) (r : ArbReq) : State :=
  if r.kind = .refresh then
    ((s.stopLease pc r.bank).modArb pc fun a =>
      a.setBank r.bank { a.bankOf r.bank with openRow := none, heath := false, posted := none, refreshed := true }).arbDrop pc r
  else if r.hrow && ((s.arb pc).bankOf r.bank).openRow == some r.row && ((s.arb pc).bankOf r.bank).heath then (s.beginLease pc r slot).arbDrop pc r
  else
    let n := (s.arb pc).acts
    let s1 := s.modArb pc fun a => { a.setBank r.bank { a.bankOf r.bank with openRow := some r.row, heath := false, posted := if r.hrow then none else some slot }
                                     with acts := a.acts + 1 }
    let s2 := if r.kind = .heath then s1.beginLease pc r slot else s1
    let s3 := if r.hrow then s2.arbDrop pc r else s2
    match s3.neighbour pc n with
    | (false, s4) => s4
    | (true, s4) =>
      let (id, s5) := s4.nextSeq
      s5.modArb pc fun a => { a with queue := { id := id, kind := .refresh, bank := r.bank, row := r.row, enq := slot, nbr := true } :: a.queue }

/-- A command that has not entered its writes asks for a line: it reads it. -/
def State.isRead (s : State) (r : ArbReq) : Bool := r.kind == .heath && s.hcmds.any fun c => c.id == r.id && c.func != 2 && c.wr.isEmpty

/-- A line that a command reads has been served: its bytes are those of now (R253). -/
def State.served (s : State) (r : ArbReq) : State := if s.isRead r then s.readLine r.id (64 * r.line) else s

/-- A command's request to read waits for the accesses before it on the line. -/
def State.readWaits (s : State) (r : ArbReq) : Bool := s.isRead r && (s.arrayAhead r.ord r.line false || s.heathAhead r.ord r.line false)

/-- An array request is queued for the bank. -/
def Arbiter.arrayWaits (a : Arbiter) (bank : Nat) : Bool := a.entries.any fun r => r.isArray && r.bank == bank

/-- A heath activate has waited for 256 slots. -/
def Arbiter.promotable (a : Arbiter) (slot : Nat) (r : ArbReq) : Bool :=
  r.kind == .heath && !r.promoted && !a.hit r && decide (r.enq + 256 ≤ slot) && a.entries.contains r

-- DEDUCED, unsafe: log entry 72.
/-- A slot begins: leases that have reached a limit end, banks whose array requests are all served are free again, activates are promoted, and
requests outside the queue have not entered it yet. -/
def State.beginSlot (s : State) (pc slot : Nat) : State :=
  let s1 := ((s.arb pc).banks.filter fun b => b.2.expired slot).foldl (fun s b => s.stopLease pc b.1) s
  s1.modArb pc fun a => { a with
    slot := slot
    banks := a.banks.map fun b => (b.1, { b.2 with after := b.2.after && a.arrayWaits b.1 })
    queue := (a.entries.map fun r => if a.promotable slot r then { r with promoted := true } else r) ++ (a.queue.drop 32).map fun r => { r with enq := slot } }

/-- DRAM timing holds a command back in this slot, for no longer than a bound (R227, R254). -/
def dramHolds (slot ix : Nat) (r : ArbReq) : Bool := !Config.dramReady ix && decide (slot < r.enq + Config.dramBound)

/-- The first column command behind a posted activate may be put off no further (R253). -/
def Arbiter.overdue (a : Arbiter) (slot : Nat) (r : ArbReq) : Bool :=
  match (a.bankOf r.bank).posted with | some t => decide (t + 8 ≤ slot) | none => false

/-- The number of the first slot of this GTC cycle. -/
def State.slotFrom (s : State) : Nat := 10 * (s.gtc - 1) / 7 + 1

-- DEDUCED, unsafe: log entry 72.
/-- ARBITER_SLOT: each bus goes to the eligible command with the best position; the row bus sees the lease that a column has begun. -/
def execArbiterSlot (pc : Nat) (s : State) : Res :=
  let slot := max ((s.arb pc).slot + 1) s.slotFrom
  let s0 := s.beginSlot pc slot
  let a := s0.arb pc
  let n := a.entries.length
  let s1 : State := { s0 with fresh := s.fresh + 2 * n }
  let ready (k : Nat) : List ArbReq := (a.entries.zipIdx.filter fun r => a.overdue slot r.1 || !dramHolds slot (s.fresh + k * n + r.2) r.1).map (·.1)
  let col := bestOf (fun r => if a.overdue slot r then 0 else r.position s.gtc (a.bankOf r.bank).lease) ((ready 0).filter fun r => a.colOk r && !s1.readWaits r)
  let s2 := match col with | some r => (s1.column pc slot r).served r | none => s1
  let row := bestOf (fun r => r.position s.gtc false) ((ready 1).filter fun r => (s2.arb pc).queue.contains r && (s2.arb pc).rowOk r)
  .next (match row with | some r => s2.rowCmd pc slot r | none => s2)

/-- ACTIVATE_PROMOTION. -/
def execActivatePromotion (pc id : Nat) (s : State) : Res :=
  .next (s.modArb pc fun a => { a with queue := a.queue.map fun r => if r.id = id ∧ a.promotable s.slotFrom r then { r with promoted := true } else r })

/-- LEASE_EXPIRY: the lease ends at whichever limit comes first. -/
def execLeaseExpiry (pc bank : Nat) (s : State) : Res :=
  if ((s.arb pc).bankOf bank).expired s.slotFrom then .next (s.stopLease pc bank) else .next s

/-- REFRESH_DUE: the lease ends at once, and the refresh is first. -/
def execRefreshDue (pc bank : Nat) (s : State) : Res :=
  let (id, s1) := s.nextSeq
  .next ((s1.stopLease pc bank).modArb pc fun a => { a with queue := { id := id, kind := .refresh, bank := bank, enq := s.slotFrom } :: a.queue })

end Sys2Proof.Machine
end

