-- ==== Sys2Proof/Machine/Isolation.lean ====
section
/-! DEFINITION. Flips of pages between host and device (R354-R358, R390), the security alarm (R366-R368), firmware, debug and
attestation (R364, R365, R393). -/
namespace Sys2Proof.Machine

/-! ## Entries of images and copies (R354) -/

/-- An entry of a window image in memory. -/
def State.imageEntry (s : State) (image i : Nat) : W64 := BitVec.ofNat 64 (s.hRead 0 (image + 8 * i) 8).1

-- DEDUCED, unsafe: log entry 73.
/-- The entries that a TWLD under way has read from an image change with it. -/
def LateOp.flip (image i : Nat) (f : W64 → W64) : LateOp → LateOp
  | .window (some im) es => .window (some im) (if im = image then es.map fun e => if e.1 = i then (i, f e.2) else e else es)
  | op => op

/-- A flip writes the image and, in the same cycle, every live copy loaded from it. Accesses issued in that cycle meet the entry that a flip to
the device has written (`now`), and the one that a flip to the host replaces (R358). -/
def State.flip (s : State) (image i : Nat) (f : W64 → W64) (now : Bool := false) : State :=
  let s0 := s.dramScrub (image + 8 * i) 8
  let s1 := s0.hWrite 0 (image + 8 * i) 8 (f (s0.imageEntry image i)).toNat
  { s1 with meadows := s1.meadows.map fun m =>
      let m1 : Meadow := { m.2 with late := m.2.late.map fun l => { l with op := l.op.flip image i f } }
      let e := [(i, f (tgetD m.2.window i 0))]
      (m.1, if m.2.region.isSome && m.2.imageOf i == image then (if now then m1.apply s.gtc (.window none e) else m1.addLate s.gtc 6 (.window none e)) else m1) }

def eTaken (pa : Nat) (e : W64) : W64 := setField (setField e 21 27 (pa / 2 ^ 21)) 62 2 3
def eGiven (e : W64) : W64 := setField e 62 1 0

-- DEDUCED, unsafe: log entry 73.
/-- A kernel lists and pins a page that lies in the entry's range (R250). -/
def State.pinnedEntry (s : State) (image i : Nat) : Bool :=
  let e := s.imageEntry image i
  let (pa, len) := entryRange i e
  eRes e && s.hcps.any fun h => h.2.pins && h.2.pages.any fun p => decide (p.pa < pa + len) && decide (pa < p.pa + 2 ^ 21)

/-! ## Answers to page requests (R357) -/

/-- The requester receives its entry if its generation is current; a pre-empted requester finds it in its saved queue. -/
def State.deliver (s : State) (a : Asker) (status value : Nat) : State :=
  let put (k : Ctx) : Ctx := k.pageAnswer a.tagc a.notify status value
  if (s.ctx a.coord a.ctx).gen = a.gen ∧ (s.mdw a.coord).region.isSome then s.modCtx a.coord a.ctx put
  else
    let mine (v : Saved) : Bool := (v.mdw.ctx a.ctx).gen == a.gen && s.regions.any fun r => r.preempted && v.mdw.region == some r.id && r.plist[v.mdw.rank]? == some a.coord
    match s.saved.find? mine with
    | none => s
    | some v => { s with saved := s.saved.map fun w => if w = v then { w with mdw := w.mdw.modCtx a.ctx put } else w }

/-- Requests and host requests that waited for a page's flip go on (R358). -/
def State.settlePage (s : State) (image i : Nat) : State :=
  if s.pageReqs.any fun q => q.image = image ∧ q.entry = i ∧ q.out then s
  else if s.reclaims.any fun r => r.image = image ∧ r.entry = i ∧ r.started then s
  else if s.reclaims.any fun r => r.image = image ∧ r.entry = i then
    let s1 := s.flip image i eGiven
    { s1 with reclaims := s1.reclaims.map fun r => if r.image = image ∧ r.entry = i then { r with started := true, since := s.gtc, ord := s.seq } else r }
  else match s.pageReqs.find? fun q => q.image = image ∧ q.entry = i with
    | none => s
    | some q =>
      let n := s.seqNo + 1
      let s1 : State := { s with seqNo := n, pageReqs := s.pageReqs.map fun r => if r = q then { r with seq := n, since := s.gtc, out := true } else r }
      s1.prqPush (prqEntry 1 n q.va image i)

/-- Every requester of a page is answered, and the request is over. -/
def State.answerAll (s : State) (q : PageReq) (status value : Nat) : State :=
  let s1 : State := { s with pageReqs := s.pageReqs.filter fun r => r != q }
  (q.askers.foldl (fun s a => s.deliver a status value) s1).settlePage q.image q.entry

/-- A frame passes R351 in the image as it would stand. -/
def State.frameOk (s : State) (q : PageReq) (frame : Nat) : Bool :=
  let e := eTaken frame (s.imageEntry q.image q.entry)
  decide (frame < 2 ^ 48) && (s.windowFault (eKey e) (tputD (s.windowOf q.image) q.entry e 0) [q.entry]).isNone

-- DEDUCED, unsafe: log entry 73.
/-- The host's answer to request `seq` (R355). -/
def State.hostAnswer (s : State) (seq status frame : Nat) : State :=
  match s.pageReqs.find? fun q => q.out && q.seq == seq with
  | none => s
  | some q =>
    if status ≠ 0 then s.answerAll q 6 status
    else if s.pinnedEntry q.image q.entry then s.answerAll q 6 0xFFFF0001
    else if !s.frameOk q frame then s.answerAll q 6 0xFFFF0003
    else (s.flip q.image q.entry (eTaken frame) true).answerAll q 0 0

/-- HRQ_ANSWER. The frame is a physical address. -/
def execHrqAnswer (seq : Nat) (status frame : W64) (s : State) : Res := .next (s.hostAnswer seq status.toNat frame.toNat)

-- DEDUCED, unsafe: log entry 73.
/-- The host asks for a page (R356). A flip to the device is waited for; a pinned page is refused. -/
def State.hostReclaim (s : State) (image entry : Nat) : State :=
  if s.pinnedEntry image entry ∨ 6144 ≤ entry then s else
  let (id, s1) := s.nextSeq
  let wait := s.pageReqs.any fun q => q.image = image ∧ q.entry = entry ∧ q.out
  let s2 := if wait then s1 else s1.flip image entry eGiven
  { s2 with reclaims := s2.reclaims ++ [{ id := id, image := image, entry := entry, since := s.gtc, started := !wait, ord := s1.seq }] }

/-- HRQ_RECLAIM. -/
def execHrqReclaim (image : W64) (entry : Nat) (s : State) : Res := .next (s.hostReclaim image.toNat entry)

/-- The first virtual address of a window entry (R349). -/
def entryVa (i : Nat) : Nat := if i < 2048 then i * 2 ^ 30 else 2 ^ 41 + (i - 2048) * 2 ^ 21

-- DEDUCED, unsafe: log entry 73.
/-- Every access to the entry's page that was issued before the place `ord` is performed: loads, stores, the steps to come of V-words, and
operations on their way to the engines. -/
def State.pageQuiet (s : State) (image i ord : Nat) : Bool :=
  let (pa, len) := entryRange i (s.imageEntry image i)
  let hit (ps : List Part) : Bool := ps.any fun p => p.res && decide (p.pa < pa + len) && decide (pa < p.pa + p.len)
  s.meadows.all (fun m =>
    m.2.ctxs.all (fun k =>
      k.2.landing.all (fun e => e.arrived || e.spad.isSome || decide (ord ≤ e.id) || !hit e.openParts) && k.2.stores.all fun p => decide (ord ≤ p.id) || !hit p.parts) &&
    m.2.flights.all fun f => decide (ord ≤ f.id) || !((f.parts.drop f.step).any hit)) &&
  s.engines.all fun e => e.2.reqs.all fun r => !r.op.isAccess || r.heath || decide (ord ≤ r.id) || decide (r.pa < pa) || decide (pa + len ≤ r.pa)

/-- RECLAIM_COMPLETE: the accesses are performed, and the page's held lines go home; then the host is answered. -/
def execReclaimComplete (id : Nat) (s : State) : Res :=
  match s.reclaims.find? fun r => r.id = id with
  | none => .next s
  | some r =>
    if !r.started || decide (s.gtc ≤ r.since) || !s.pageQuiet r.image r.entry r.ord then .next s
    else
      let (pa, len) := entryRange r.entry (s.imageEntry r.image r.entry)
      let s1 := [0, 1].foldl (fun s d => ((s.eng d).lines.filter fun h => decide (pa ≤ h.pa) && decide (h.pa < pa + len)).foldl
        (fun s h => s.evict d h) s) s
      let s2 : State := { s1 with reclaims := s1.reclaims.filter fun q => q.id != id }
      .next ((s2.prqPush (prqEntry 2 0 (entryVa r.entry) r.image r.entry)).settlePage r.image r.entry)

/-- PAGE_REQUEST_TIMEOUT: no answer within 2^31 cycles (R357). -/
def execPageRequestTimeout (seq : Nat) (s : State) : Res :=
  match s.pageReqs.find? fun q => q.out && q.seq == seq with
  | none => .next s
  | some q => if s.gtc < q.since + 2 ^ 31 then .next s else .next (s.answerAll q 6 0xFFFF0002)

/-! ## The host's ring (R390) -/

/-- One entry of HRQ; an unknown OP or SEQ is skipped. -/
def State.hrqEntry (s : State) (a : Nat) : State :=
  let rd (off n : Nat) : Nat := Memory.readN s.host (a + off) n
  match rd 0 1 with
  | 1 => s.hostAnswer (rd 4 4) (rd 8 8) (rd 16 8)
  | 2 => s.hostReclaim (rd 16 8) (rd 24 8 % 2 ^ 13)
  | _ => s

/-- HRQDB: the new entries are read in ring order, up to the descriptor's own TAIL. -/
def execHrqdb (v : W64) (s : State) : Res :=
  if s.bootStep < 4 then .next s else
  let r := ringView (Memory.readN s.host) s.hrq.toNat
  let s1 : State := { s with hrqdb := v &&& 0xFFFFFF#64 }
  if r.depth = 0 ∨ r.depth < r.occ then .next s1 else
  let s2 := (List.range r.occ).foldl (fun s i => s.hrqEntry (r.addr (r.head + i))) s1
  .next { s2 with host := Memory.writeN s2.host s.hrq.toNat 4 r.tail }

/-! ## The alarm (R366-R368) -/

-- DEDUCED, unsafe: log entry 74.
/-- A level is raised: the greatest stands. Every rise is logged; level 2 stops level 0, and level 3 erases within 20,000 cycles. -/
def State.raiseLevel (s : State) (src lvl : Nat) : State :=
  let s1 : State := { s with
    alarmSrc := s.alarmSrc ||| BitVec.ofNat 4 (2 ^ src)
    alarmAt := if lvl = 1 then some s.ticks else s.alarmAt }
  let s2 := if s.level < lvl ∨ lvl = 1 then s1.logErr 0 Cause.alarm (BitVec.ofNat 64 (2 ^ src * 2 ^ 16)) else s1
  if lvl ≤ s.level then s2
  else
    let s3 : State := { s2 with level := lvl, msix := s2.msix ++ [2] }
    let (ix, s4) := s3.freshIx
    let s5 : State := if lvl = 3 then { s4 with eraseAt := some (s.ticks + Config.excess ix % 20000) } else s4
    if 2 ≤ lvl then s5.now [.faultDomainStop 0 0 0 0 true] else s5

/-- The level that a source raises by SECCFG; the admission of a certificate raises level 1. -/
def State.sourceLevel (s : State) : AlarmSource → Nat × Nat
  | .tamper => (0, getField s.seccfg 0 2)
  | .debug => (1, getField s.seccfg 2 2)
  | .attest => (2, getField s.seccfg 4 2)
  | .firmware => (3, getField s.seccfg 6 2)
  | .debugAdmitted => (1, 1)

def State.alarm (s : State) (a : AlarmSource) : State := s.raiseLevel (s.sourceLevel a).1 (s.sourceLevel a).2

/-- ALARM_RAISE. -/
def execAlarmRaise (src : AlarmSource) (s : State) : Res := .next (s.alarm src)

-- DEDUCED, unsafe: log entry 74.
/-- The erasure of level 3. -/
def State.erase (s : State) : State :=
  { s with
    eraseAt := none, keys := [], oldKeys := [], wrapErased := true, wepoch := s.wepoch + 1, pageReqs := []
    meadows := s.meadows.map fun m => (m.1, { m.2 with
      spad := [], badWords := [], ecc := [], rows := [], rowPoison := [], bregs := []
      ctxs := m.2.ctxs.map fun k => (k.1, { k.2 with landing := k.2.landing.map fun e => { e with data := 0, bad := 0 } }) })
    engines := s.engines.map fun e => (e.1, { e.2 with lines := e.2.lines.map (fun l => { l with data := 0, poison := false }), ecc := [] }) }

/-- SECSTAT: SRC bits are cleared by ones; CLR1 lowers level 1, unless a level-1 event falls in the same cycle. -/
def execSecstat (v : W64) (s : State) : Res :=
  let s1 : State := { s with alarmSrc := s.alarmSrc &&& ~~~(v.extractLsb' 8 4) }
  if v.getLsbD 2 && s.level == 1 && s.alarmAt != some s.ticks then .next { s1 with level := 0, msix := s1.msix ++ [2] } else .next s1

/-- SECCFG: a level of 0 leaves its field; LOCK makes the register read-only. -/
def execSeccfg (v : W64) (s : State) : Res :=
  if s.seccfg.getLsbD 8 then .next s
  else
    let put (c : W64) (lo : Nat) : W64 := if getField v lo 2 = 0 then c else setField c lo 2 (getField v lo 2)
    .next { s with seccfg := setField ([0, 2, 4, 6].foldl put s.seccfg) 8 1 (getField v 8 1) }

/-! ## Debug, firmware, attestation (R364, R365, R393) -/

/-- DEBUG_ACCESS: a certificate that verifies is admitted; without one an access is misuse. -/
def execDebugAccess (cert : Nat) (s : State) : Res :=
  if certOk s.customerPart cert then .next ({ s with debugOpen := true }.alarm .debugAdmitted)
  else if s.debugOpen then .next s
  else .next (s.alarm .debug)

/-- FIRMWARE_UPDATE: an image runs only if it verifies. -/
def execFirmwareUpdate (image : Nat) (s : State) : Res :=
  if firmwareOk s.customerPart image then .next { s with firmware := [image] } else .next (s.alarm .firmware)

-- DEDUCED, unsafe: log entry 94.
/-- What a report covers: the SHA-256 of each running image, the part, the alarm, the wrap epoch, the nonce and the GTC; signed with the next
leaf of the per-boot key. -/
def State.reportOf (s : State) (q : Nat) (nonce : BitVec 256) : Report :=
  let images := s.firmware.map fun n => sha256 (Config.image n).body
  let msg := images.flatten ++ [if s.customerPart then 1 else 0, s.level, s.alarmSrc.toNat] ++ bytesBe 2 s.wepoch.toNat ++ bytesBe 32 nonce.toNat ++ bytesBe 8 s.gtc
  { q := q, leaf := s.leaf, images := images.map fun h => BitVec.ofNat 256 (ofBe h), customerPart := s.customerPart, level := s.level, alarmSrc := s.alarmSrc
    wepoch := s.wepoch, nonce := nonce, gtc := s.gtc, sig := Config.reportSig q s.leaf msg }

/-- ATTESTATION_REPORT: none once the per-boot key has used its leaves, or where this boot has none. -/
def execAttestationReport (nonce : BitVec 256) (s : State) : Res :=
  match s.bootLeaf with
  | none => .next s
  | some q =>
    if 2 ^ 20 ≤ s.leaf then .next (s.alarm .attest)
    else .next { s with leaf := s.leaf + 1, report := some (s.reportOf q nonce) }

/-! ## Instruction-buffer parity (R376) -/

/-- The earliest cycle of a stream's next issue. -/
def Ctx.nextOf (k : Ctx) : StreamId → Nat | .s => k.sc.nextAt | .v => k.vNextAt | .m => k.mNextAt
def Ctx.setNext (k : Ctx) (n : Nat) : StreamId → Ctx
  | .s => { k with sc := { k.sc with nextAt := n } }
  | .v => { k with vNextAt := n }
  | .m => { k with mNextAt := n }

-- DEDUCED, unsafe: log entry 75.
/-- IBUF_PARITY: the word does not issue in this cycle and its line is fetched again; the fourth failure in a row removes the meadow.
The stream's next issue cycle tells whether a word has issued since the last failure. -/
def execIbufParity (mdw ctx : Nat) (st : StreamId) (s : State) : Res :=
  let m := s.mdw mdw
  let k := m.ctx ctx
  let code := streamCode (some st)
  let a := (k.fetchAddr st).toNat
  let later := max (k.nextOf st) (m.mtc + 1)
  let word (at_ : Nat) : Nat := (k.pcOf st).toNat + 2 ^ 32 * at_
  let n := match tget k.parity code with | some (w, n) => if w = word (k.nextOf st) then n + 1 else 1 | none => 1
  let s1 := (s.logDie Cause.ibufParity a mdw ctx).modCtx mdw ctx fun k =>
    ({ k with parity := tput k.parity code (word later, n) } : Ctx).setNext later st
  if 4 ≤ n then
    let s2 : State := (s1.logDie Cause.ibufFail a mdw ctx)
    .next ({ s2 with removed := sortedInsert s2.removed mdw }.now [.faultDomainStop (s.domainOf mdw) Cause.ibufFail 0 0 false])
  else if m.relmask.getLsbD 3 then
    .next (s1.modCtx mdw ctx fun k => k.addCause
      { cause := Cause.ibufParity, tval := (k.pcOf st).setWidth 64, tpc := k.pcOf st, stream := some st, sepc := if st = .s then .atWord else .nextUnissued, at_ := s.gtc, mtc := m.mtc } true)
  else .next s1

end Sys2Proof.Machine
end

