-- ==== Sys2Proof/Machine/HostWin.lean ====
section
/-! DEFINITION. The host port and the management window (R386-R389, R343, R258, R297, R315), Favex events (R384, R392), and reset
(R394). -/
namespace Sys2Proof.Machine

/-- A write that finds nobody to answer it: the host's, before its link has trained and BAR0 answers in boot step 4 (R394). -/
def State.windowOff (s : State) (byM : Bool) : Bool := !byM && decide (s.bootStep < 4)

/-! ## Launch queues (R343, R389) -/

/-- The examination of a queue's window: records of a higher class first (R302). -/
def insertClass (a : Nat × Ev) : List (Nat × Ev) → List (Nat × Ev)
  | [] => [a]
  | b :: t => if b.1 < a.1 then a :: b :: t else b :: insertClass a t

def State.queueLooks (s : State) (q : Nat) : List (Nat × Ev) :=
  if !(s.lqOf q).en then [] else
  let m := s.queueView q
  let bs := (s.launches.filter fun l => l.queue == q && l.kind == 3 && !l.todo.isEmpty).map fun l => some l.id
  (none :: bs).flatMap fun b => (s.openRecords m q b).map fun r => (s.recordClass q r.1, .launchRecordStart q r.1)

def State.looks (s : State) (qs : List Nat) : List Ev := ((qs.flatMap s.queueLooks).foldl (fun l a => insertClass a l) []).map (·.2)

/-- Every queue is examined (R285). -/
def State.lookAll (s : State) : List Ev := s.looks (s.lq.filterMap fun q => if q.2.lo.getLsbD 0 then some q.1 else none)

/-- The unit examines the queue of a doorbell, beside the others, a higher class first (R302); TAIL is the descriptor's (R343). -/
def State.ringLq (s : State) : State := s.now s.lookAll

/-- The high half of a registration is held until the low half is written (R389). -/
def State.holdLq (s : State) (q : Nat) (v : W64) : State :=
  { s with lq := tput s.lq q { s.lqOf q with heldHi := some (v &&& 0xFFFFFFFFFFFFF000#64) } }

/-- The low half commits both, at once or when the queue's records have completed. The high half is the one held, or the one of the last pair
written. -/
def State.commitLq (s : State) (q : Nat) (v : W64) : State :=
  let l := s.lqOf q
  let hi := l.heldHi.getD ((l.pending.map (·.2)).getD l.hi)
  let s1 : State := { s with lq := tput s.lq q { l with pending := some (v &&& 0xFFFFFFFFFFFFFFC3#64, hi), heldHi := none } }
  s1.settleLq q

/-- LQDB, LQREGH, LQREGL: the host's writes. -/
def execLqdb (v : W64) (s : State) : Res := let _ := v; if s.windowOff false then .next s else .next s.ringLq
def execLqregh (q : Nat) (v : W64) (s : State) : Res := if 16 ≤ q ∨ s.windowOff false then .next s else .next (s.holdLq q v)
def execLqregl (q : Nat) (v : W64) (s : State) : Res := if 16 ≤ q ∨ s.windowOff false then .next s else .next (s.commitLq q v)

/-- MCIRQ: ones clear. -/
def execMcirq (v : W64) (s : State) : Res := .next (s.clearIrq v)

/-! ## Boot configuration and other registers (R388) -/

def portCount (p : Nat) : Nat := ((List.range 8).filter fun i => p / 2 ^ i % 2 = 1).length

/-- A PORTS value that R387 allows: 1, 2, 4 or 8 ports, and port 0 only while the host link is CXL. -/
def portsOk (p : Nat) : Bool := [1, 2, 4, 8].contains (portCount p) && (p % 2 == 0 || Config.hostCxl)

-- DEDUCED, unsafe: log entry 75.
/-- A write of BOOTCFG, honoured before boot step 5. -/
def State.setBootcfg (s : State) (v : W64) : State :=
  if 5 ≤ s.bootStep then s
  else
    let b0 := setField (setField s.bootcfg 32 1 (getField v 32 1)) 0 10 (getField v 0 10)
    let b1 := if getField v 10 10 ≤ 512 then setField b0 10 10 (getField v 10 10) else b0
    let p := getField v 24 8
    { s with bootcfg := if portsOk p then setField (setField b1 24 8 p) 20 4 (portCount p) else b1 }

/-- BOOTCFG: the host's write. -/
def execBootcfg (v : W64) (s : State) : Res := if s.windowOff false then .next s else .next (s.setBootcfg v)

/-- NRCTL: K outside 6 to 12 is unchanged; setting SEEDED starts the count of activates. -/
def execNrctl (stack : Nat) (v : W64) (s : State) : Res :=
  if 8 ≤ stack then .next s else
  let old := s.nrOf stack
  let k := getField v 0 4
  let c := setField (if 6 ≤ k ∧ k ≤ 12 then setField old 0 4 k else old) 8 1 (getField v 8 1)
  let s1 : State := { s with nrctl := tput s.nrctl stack c }
  .next (if v.getLsbD 8 then { s1 with arbiters := s1.arbiters.map fun a => if a.1 / 64 = stack then (a.1, { a.2 with acts := 0 }) else a } else s1)

-- DESIGN CHOICE, safe: log entry 76.
/-- REGISTER_WRITE: a register that holds what is written; a host write to a register of M is ignored. The management core's writes of
BOOTCFG, LQREGL, LQREGH and LQDB are this event too, and act as the host's do. -/
def execRegisterWrite (byM : Bool) (off : Nat) (v : W64) (s : State) : Res :=
  if s.windowOff byM then .next s
  else if off = 0x08 then .next (s.setBootcfg v)
  else if 0x100 ≤ off ∧ off < 0x200 ∧ off % 16 = 0 then .next (s.commitLq ((off - 0x100) / 16) v)
  else if 0x100 ≤ off ∧ off < 0x200 ∧ off % 16 = 8 then .next (s.holdLq ((off - 0x100) / 16) v)
  else if off = 0x200 then .next s.ringLq
  else if off = 0x10 then .next (if byM then s else { s with apbase := v &&& 0xFFF000000000#64 })
  else if off = 0x18 then .next (if byM then s else { s with apkey := v &&& 0x3FF#64 })
  else if off = 0x210 then .next (if byM then s else { s with prq := v })
  else if off = 0x218 then .next (if byM then s else { s with hrq := v })
  else if off = 0x300 then .next { s with pwrlim := v.setWidth 16 }
  else if off = 0x308 then .next { s with brlim := v.setWidth 16 }
  else if 0x400 ≤ off ∧ off < 0x480 ∧ off % 16 = 8 then .next (if byM then { s with nrseed := tput s.nrseed ((off - 0x400) / 16) v } else s)
  else if off = 0x600 then .next { s with elogsel := v &&& 0xFFFF#64 }
  else if off = 0x700 then .next { s with fvxaddr := v &&& 0xFFF#64 }
  else if off = 0x708 then .next { s with fvxsync := v &&& 0x1F#64 }
  else if 0x100000 ≤ off ∧ off < 0x140000 ∧ off % 8 = 0 then .next (if byM then { s with tcm := Memory.writeN s.tcm (off - 0x100000) 8 v.toNat } else s)
  else .next s

-- DESIGN CHOICE, safe: log entry 76.
/-- What a read of the window gives (R388, R260, R380). Registers of 64 bits at multiples of 8. -/
def State.windowRead (s : State) (off : Nat) : W64 :=
  let log := getField s.elogsel 8 8
  let l := tgetD s.logs log {}
  let e := (l.entries[getField s.elogsel 0 8]?).getD ⟨0, 0, 0⟩
  if off = 0 then 0x43580040#64
  else if off = 0x08 then s.bootcfg
  else if off = 0x10 then s.apbase
  else if off = 0x18 then s.apkey
  else if 0x100 ≤ off ∧ off < 0x200 then (if off % 16 < 8 then (s.lqOf ((off - 0x100) / 16)).lo else (s.lqOf ((off - 0x100) / 16)).hi)
  else if off = 0x208 then s.mcirq
  else if off = 0x210 then s.prq
  else if off = 0x218 then s.hrq
  else if off = 0x220 then s.hrqdb
  else if off = 0x300 then s.pwrlim.setWidth 64
  else if off = 0x308 then s.brlim.setWidth 64
  else if 0x400 ≤ off ∧ off < 0x480 then (if off % 16 < 8 then s.nrOf ((off - 0x400) / 16) else tgetD s.nrseed ((off - 0x400) / 16) 0)
  else if off = 0x500 then BitVec.ofNat 64 (s.wepoch.toNat * 2 ^ 16 + s.alarmSrc.toNat * 2 ^ 8 + s.level)
  else if off = 0x508 then s.seccfg
  else if off = 0x600 then s.elogsel
  else if off = 0x608 then BitVec.ofNat 64 (l.lost.toNat * 2 ^ 32 + e.cause % 128)
  else if off = 0x610 then e.d0
  else if off = 0x618 then e.d1
  else if off = 0x700 then s.fvxaddr
  else if off = 0x708 then s.fvxsync
  else if 0x100000 ≤ off ∧ off < 0x140000 then BitVec.ofNat 64 (Memory.readN s.tcm (off - 0x100000) 8)
  else 0

/-- What the I3C target reads (R393): DEVID, SECSTAT, entry `i` of an error log with its cause, a log's loss counter, and the package power of
the last comparison in watts. -/
inductive I3cItem | devid | secstat | entry (log i : Nat) | lost (log : Nat) | power
  deriving DecidableEq, Repr

-- DESIGN CHOICE, safe: log entry 76.
/-- A read of the I3C target, which writes nothing. -/
def State.i3cRead (s : State) : I3cItem → Option LogEntry
  | .devid => some ⟨0, s.windowRead 0, 0⟩
  | .secstat => some ⟨0, s.windowRead 0x500, 0⟩
  | .entry log i => (tgetD s.logs log {}).entries[i]?
  | .lost log => some ⟨0, (tgetD s.logs log {}).lost.setWidth 64, 0⟩
  | .power => some ⟨0, BitVec.ofNat 64 s.power, 0⟩

/-! ## The memory aperture (R386) -/

/-- Every byte is backed. -/
def State.backedRange (s : State) (pa len : Nat) : Bool := (List.range len).all fun i => s.backed (pa + i)

-- DESIGN CHOICE, safe: log entry 76.
/-- APERTURE_ACCESS, at SYS and in host order, under key slot APKEY. An unbacked address completes with Unsupported Request, a read
of a poisoned line with Completer Abort: both return no data and write nothing. -/
def execApertureAccess (write : Bool) (off : W64) (size : Nat) (data : BitVec 512) (s : State) : Res :=
  let pa := (s.apbase.toNat + off.toNat % 2 ^ 36) % 2 ^ 48
  let n := min size 64
  let key := getField s.apkey 0 10
  if s.windowOff false then .next s
  else if n = 0 ∨ !s.backedRange pa n then .next { s with hostCpl := .unsupportedRequest }
  else if write then .next { (s.woundRange pa n).hWrite key pa n (data.toNat % 2 ^ (8 * n)) with hostCpl := .success none }
  else
    let s1 := s.dramScrub pa n
    let r := s1.hRead key pa n
    .next { s1 with hostCpl := if r.2 = 0 then .success (some (BitVec.ofNat 512 r.1)) else .completerAbort }

/-! ## Favex (R384, R392) -/

/-- FAVEX_PORT_FAILURE: logged, and the port carries no more. -/
def execFavexPortFailure (port : Nat) (s : State) : Res :=
  .next { s.logErr 0 Cause.linkFail (BitVec.ofNat 64 (port * 2 ^ 16)) with portFailed := sortedInsert s.portFailed port }

/-- GTC starts: the edge of the reference clock in its 14 ticks is fixed from here on (R111). -/
def State.startGtc (s : State) (g : Nat) : State :=
  let (ix, s1) := s.freshIx
  { s1 with gtc := g, gtcRunning := true, edge := Config.edge ix % 14 }

/-- GTC_SYNC_FLIT: in boot step 5, on the port that FVXSYNC names while VALID is 1, GTC is loaded once. -/
def execGtcSyncFlit (port : Nat) (v d : W64) (s : State) : Res :=
  if s.bootStep = 5 ∧ s.gtcRunning = false ∧ s.fvxsync.getLsbD 4 ∧ getField s.fvxsync 0 4 = port ∧ !s.portFailed.contains port then .next (s.startGtc (v + d).toNat)
  else .next s

-- DESIGN CHOICE, safe: log entry 97.
/-- The value of a GTC-sync flit that the package sends when the fabric manager directs it to: as the fabric's time source, its own GTC (R392). -/
def State.syncFlit (s : State) : Option W64 := if s.gtcRunning && !s.fvxsync.getLsbD 4 then some s.gtcW else none

/-! ## Reset (R394, R365) -/

-- DEDUCED, unsafe: log entry 77.
/-- POWER_ON_RESET: the sequence restarts; memory, fuses and the identity counter stay, and everything else is as at power-on. -/
def execPowerOnReset (s : State) : Res :=
  .next { State.reset with
    enabled := s.enabled, customerPart := s.customerPart, mem := s.mem, poisoned := s.poisoned, dramErr := s.dramErr, lineKey := s.lineKey, host := s.host, saved := s.saved
    wepoch := s.wepoch, identity := s.identity, fresh := s.fresh, seq := s.seq, ticks := s.ticks, bootAt := s.ticks, inputs := s.inputs, agenda := s.agenda, msix := s.msix }

-- DEDUCED, unsafe: log entry 77.
/-- The compute-capable pages that PCC sets aside are zeroed. -/
def State.zeroCompute (s : State) : State :=
  let cc (pa : Nat) : Bool := decide (2 ^ 39 ≤ pa) && decide (pa < 2 ^ 40) && decide (pa / 2 ^ 21 % 512 < s.pcc)
  { s with
    mem := s.mem.filter fun c => !cc c.1
    lineKey := s.lineKey.filter fun c => !cc (64 * c.1)
    poisoned := s.poisoned.filter fun l => !cc (64 * l) }

-- DEDUCED, unsafe: log entry 94.
/-- A boot step's work when it is done. The identity counter advances and is persistent before leaf q signs this boot's attestation key (R365).
A security block whose identity counter has run out does not boot into service. -/
def State.bootWork (s : State) : State :=
  match s.bootStep with
  | 1 => { s with bootStep := 2 }
  | 2 =>
    if 2 ^ 20 ≤ s.identity then (if s.alarmSrc.getLsbD 2 then s else s.alarm .attest)
    else
      let (ix, s1) := s.freshIx
      let s2 : State := { s1 with keys := [(0, Config.slot0Key ix)], leaf := 0, firmware := [0], bootStep := 3 }
      if !firmwareOk s.customerPart 0 then (if s.alarmSrc.getLsbD 3 then s else s.alarm .firmware)
      else match Config.attest ix with
        | .ok => { s2 with identity := s.identity + 1, bootLeaf := some s.identity }
        | .noAdvance | .noPersist => s2.alarm .attest
        | .badPair => { s2 with identity := s.identity + 1 }.alarm .attest
  | 3 => { s with bootStep := 4 }
  | 4 => { s with bootStep := 5 }.zeroCompute
  | 5 =>
    if s.gtcRunning then (List.range 16).foldl (fun s q => s.settleLq q) { s with bootStep := 6 }
    else if s.fvxsync.getLsbD 4 then s
    else s.startGtc 0
  | _ => s

/-- The bound of a boot step (R394), in cycles of 1.4 GHz. -/
def bootBound : Nat → Option Nat
  | 2 => some 2800000000
  | 3 => some 7000000000
  | 5 => some 14000000000
  | _ => none

-- DEDUCED, unsafe: log entry 77.
/-- Boot goes on by at most one step in a cycle, when the step's own work is done. -/
def State.bootCycle (s : State) : State :=
  if 6 ≤ s.bootStep then s else
  let (ix, s1) := s.freshIx
  let late := match bootBound s.bootStep with | some b => decide (s.bootAt + b ≤ s.ticks) | none => false
  if Config.bootDone ix s.bootStep || late then
    let s2 := s1.bootWork
    if s2.bootStep = s.bootStep then s2 else { s2 with bootAt := s.ticks }
  else s1

end Sys2Proof.Machine
end

