-- ==== Sys2Proof/Machine/Generation.lean ====
section
/-! DEFINITION. The token generation loop of the management core (R339-R346): the sequence table in the TCM, the iteration record,
issue, acceptance and commit, and requests. -/
namespace Sys2Proof.Machine

/-! ## The sequence table (R340) -/

/-- A field of table entry i. -/
def State.seqGet (s : State) (i off n : Nat) : Nat := Memory.readN s.tcm (128 * i + off) n
def State.seqPut (s : State) (i off n v : Nat) : State := { s with tcm := Memory.writeN s.tcm (128 * i + off) n v }
def State.seqState (s : State) (i : Nat) : Nat := s.seqGet i 4 4 / 2 ^ 30
def State.seqDraft (s : State) (i : Nat) : Nat := s.seqGet i 4 4 / 2 ^ 27 % 8
def State.setSeqState (s : State) (i st : Nat) : State := s.seqPut i 4 4 (s.seqGet i 4 4 % 2 ^ 30 + st * 2 ^ 30)

-- DESIGN CHOICE, unsafe: log entry 16.
/-- Firmware's view of device memory: the window of its launch queue. -/
def State.genView (s : State) : Meadow := s.queueView s.gen.queue

def State.genWrite (s : State) (va n v : Nat) : State :=
  match s.qParts s.genView va n with
  | some ps => s.writeParts ps v (2 ^ n - 1)
  | none => s

/-- Where slot TAIL of a ring with entries of n bytes and TAIL itself lie, when both translate. -/
def State.genSlot (s : State) (d : Line) (desc n : Nat) : Option (List Part × List Part) :=
  match s.qParts s.genView ((lineGet d 16 8 + n * (lineGet d 4 3 % lineGet d 8 3)) % 2 ^ 64) n, s.qParts s.genView ((desc + 4) % 2 ^ 64) 4 with
  | some e, some t => some (e, t)
  | _, _ => none

/-- Fill slot TAIL of a ring with entries of n bytes: the entry, then TAIL; nothing where one of them does not translate (R345). -/
def State.genPut (s : State) (d : Line) (desc n v : Nat) : State :=
  match s.genSlot d desc n with
  | some (e, t) => (s.writeParts e v (2 ^ n - 1)).writeParts t ((lineGet d 4 3 + 1) % 2 ^ 24) 15
  | none => s

/-! ## Output rings (R345) -/

/-- Free entries of an output ring. -/
def State.outRoom (s : State) (ring : Nat) : Nat :=
  match s.qRead s.genView ring 64 with
  | none => 0
  | some v => let d : Line := BitVec.ofNat 512 v; if ringBad d then 0 else lineGet d 8 3 - ringOcc d

/-- Append (token, position): the entry, then TAIL, or neither where one of them does not translate. -/
def State.append (s : State) (ring tok pos : Nat) : State :=
  match s.qRead s.genView ring 64 with
  | none => s
  | some v =>
    let d : Line := BitVec.ofNat 512 v
    if ringBad d ∨ ringOcc d = lineGet d 8 3 then s
    else
      s.genPut d ring 8 (tok % 2 ^ 32 + pos % 2 ^ 32 * 2 ^ 32)

/-! ## Requests (R346) -/

def imgF (d : BitVec 1024) (off lo len : Nat) : Nat := d.toNat / 2 ^ (8 * off + lo) % 2 ^ len

/-- One request of the host. -/
def State.takeReq (s : State) : GenReq → State
  | .add d =>
    let free := (List.range 1024).find? fun i => s.seqState i == 0
    match free with
    | some i =>
      if imgF d 4 0 27 ≠ 0 ∨ imgF d 0x50 0 384 ≠ 0 then s.append (imgF d 0x28 0 64) 0xFFFFFFFE 0
      else (s.seqPut i 0 128 d.toNat).setSeqState i 1
    | none => s.append (imgF d 0x28 0 64) 0xFFFFFFFE 0
  | .cancel id =>
    match (List.range 1024).find? fun i => s.seqState i != 0 && s.seqGet i 0 4 == id.toNat with
    | some i => s.setSeqState i 0
    | none => s

/-- The host's request ring, when its descriptor can be used: ESIZE is 32. -/
def State.reqRing (s : State) : Option Line :=
  match s.qRead s.genView s.gen.ringAddr 64 with
  | none => none
  | some v => let d : Line := BitVec.ofNat 512 v; if ringBad d || lineGet d 14 2 != 32 then none else some d

/-- The 256 bytes of a request: OP, and an image or SEQID from byte 0x80 on. -/
def GenReq.bytes : GenReq → Nat
  | .add d => 1 + d.toNat * 2 ^ 1024
  | .cancel id => 2 + id.toNat * 2 ^ 1024

/-- The request that an entry holds; none of an unknown OP. -/
def GenReq.ofBytes (v : Nat) : Option GenReq :=
  match v % 256 with
  | 1 => some (.add (BitVec.ofNat 1024 (v / 2 ^ 1024)))
  | 2 => some (.cancel (BitVec.ofNat 32 (v / 2 ^ 1024)))
  | _ => none

/-- The entries of the request ring, oldest first, and HEAD behind them. -/
def State.ringReqs (s : State) : List GenReq × State :=
  match s.reqRing with
  | none => ([], s)
  | some d =>
    let head := lineGet d 0 3
    let rs := (List.range (ringOcc d)).filterMap fun i =>
      (s.qRead s.genView ((lineGet d 16 8 + 256 * ((head + i) % 2 ^ 24 % lineGet d 8 3)) % 2 ^ 64) 256).bind GenReq.ofBytes
    (rs, if ringOcc d = 0 then s else s.genWrite s.gen.ringAddr 4 (lineGet d 4 3))

-- DEDUCED, unsafe: log entry 78.
/-- All requests in order, those of the ring first, with the table entries that they have given up or taken. -/
def State.takeReqs (s : State) : State × List Nat :=
  let q := s.ringReqs
  (q.1 ++ s.gen.reqs).foldl (fun (a : State × List Nat) r =>
    let t := a.1.takeReq r
    (t, a.2 ++ (List.range 1024).filter fun i => a.1.seqState i != t.seqState i)) ({ q.2 with gen := { s.gen with reqs := [] } }, [])

-- DEDUCED, unsafe: log entry 78.
/-- The host queues a request: in its ring, or, where the ring has no room for it or does not translate, behind those that wait. -/
def State.hostAsk (s : State) (r : GenReq) : State :=
  let wait : State := { s with gen := { s.gen with reqs := s.gen.reqs ++ [r] } }
  match s.reqRing with
  | some d => if s.gen.reqs ≠ [] ∨ ringOcc d = lineGet d 8 3 ∨ (s.genSlot d s.gen.ringAddr 256).isNone then wait else s.genPut d s.gen.ringAddr 256 r.bytes
  | none => wait

/-- SEQUENCE_ADD and SEQUENCE_CANCEL queue a request that the firmware takes at its next step that takes them. -/
def execSequenceAdd (image : BitVec 1024) (s : State) : Res := .next (s.hostAsk (.add image))
def execSequenceCancel (seqid : BitVec 32) (s : State) : Res := .next (s.hostAsk (.cancel seqid))

/-! ## Issue (R341, R342) -/

/-- Sequences that join the next iteration: LIVE, with room in their output rings. -/
def State.genRows (s : State) : List Nat :=
  (List.range 1024).filter fun i => s.seqState i == 1 && decide (s.seqDraft i + 2 ≤ s.outRoom (s.seqGet i 0x28 8))

/-- Row of the iteration record for table entry i. -/
def State.genRow (s : State) (i : Nat) : Nat :=
  let n := s.seqDraft i
  let tok (p : Nat) : Nat := if p = 0 then s.seqGet i 0x30 4 else if p ≤ n then s.seqGet i (0x30 + 4 * p) 4 else 0xFFFFFFFF
  s.seqGet i 0 4 + s.seqGet i 8 4 * 2 ^ 32 + s.seqGet i 0x10 8 * 2 ^ 64 + s.seqGet i 0x18 8 * 2 ^ 128 + s.seqGet i 0x20 4 * 2 ^ 192 + n * 2 ^ 224 +
    (List.range 8).foldl (fun a p => a + tok p * 2 ^ (256 + 32 * p)) 0

/-- The batch record of R246: KIND 3, COMPL. -/
def GenLoop.batch (g : GenLoop) : Nat := 3 + 2 ^ 10 + g.iter % 2 ^ 32 * 2 ^ 32 + g.listAddr % 2 ^ 64 * 2 ^ 64 + g.recAddr % 2 ^ 64 * 2 ^ 320 + g.crecAddr % 2 ^ 64 * 2 ^ 384

/-- Step 2: the record goes to slot TAIL, TAIL advances, and the doorbell rings. -/
def State.ringBatch (s : State) : State :=
  let m := s.genView
  let desc := (s.lqOf s.gen.queue).desc
  match s.lqRing m s.gen.queue with
  | none => s
  | some d =>
    if ringOcc d = lineGet d 8 3 then s else s.genPut d desc 64 s.gen.batch

/-- The launch queue can take one more record. -/
def State.genRoom (s : State) : Bool :=
  (s.lqOf s.gen.queue).en && match s.lqRing s.genView s.gen.queue with
  | some d => decide (ringOcc d < lineGet d 8 3) &&
      (s.qParts s.genView ((lineGet d 16 8 + 64 * (lineGet d 4 3 % lineGet d 8 3)) % 2 ^ 64) 64).isSome && (s.qParts s.genView (((s.lqOf s.gen.queue).desc + 4) % 2 ^ 64) 4).isSome
  | none => false

-- DEDUCED, unsafe: log entry 78.
/-- ARG of every listed record is the iteration record's address. -/
def State.putArgs (s : State) : State :=
  let n := min 256 ((s.qRead s.genView s.gen.listAddr 8).getD 0)
  (List.range n).foldl (fun s i => s.genWrite (s.gen.listAddr + 64 + 64 * i + 0x28) 8 s.gen.recAddr) s

/-- The base dies read what the loop looks at: its rings, records and results, whose latent errors are corrected or poison their lines (R257). -/
def State.genScrub (s : State) : State :=
  if s.memClean = true then s else
  let m := s.genView
  let g := s.gen
  let ring : List (Nat × Nat) := match s.reqRing with | some d => [(lineGet d 16 8 % 2 ^ 64, 256 * lineGet d 8 3)] | none => []
  let outs := ((List.range 1024).filter fun i => s.seqState i != 0).map fun i => (s.seqGet i 0x28 8, 64)
  ([(g.ringAddr, 64), ((s.lqOf g.queue).desc, 64), (g.listAddr, 8), (g.recAddr, 64 + 64 * g.rows.length), (g.resAddr, 128 * g.rows.length), (g.crecAddr, 64)] ++
    ring ++ outs).foldl (fun s r => s.qScrub m r.1 r.2) s

-- DESIGN CHOICE, unsafe: log entry 16.
/-- GEN_ITERATION_ISSUE: requests, the iteration record, the batch record, the doorbell. -/
def execGenIterationIssue (s : State) : Res :=
  if s.gen.inFlight || !s.genRoom then .next s
  else
    let s1 := s.genScrub.takeReqs.1
    let rows := s1.genRows
    if rows = [] then .next s1
    else
      let g := s1.gen
      let s2 := s1.genWrite g.recAddr 64 (g.iter % 2 ^ 64 + rows.length * 2 ^ 64 + g.resAddr % 2 ^ 64 * 2 ^ 128)
      let s3 := rows.zipIdx.foldl (fun s r => s.genWrite (g.recAddr + 64 + 64 * r.2) 64 (s1.genRow r.1)) s2
      let s4 := s3.putArgs.ringBatch
      .next (({ s4 with gen := { s4.gen with inFlight := true, rows := rows, dead := [], done := false, retry := false } } : State).now s4.lookAll)

/-! ## Commit (R344) -/

/-- Pair p of result row i. -/
def State.resPair (s : State) (i p : Nat) : DPair := dOf ((s.qRead s.genView (s.gen.resAddr + 128 * i + 8 * p) 8).getD 0)

/-- Drafts accepted: the length of the longest prefix whose draws are the row's tokens. -/
def accepted (t tok : Nat → Nat) (n : Nat) : Nat := ((List.range n).takeWhile fun m => t m == tok (m + 1)).length

/-- The commit loop for tokens j to m. -/
def State.commitToks (s : State) (e : Nat) (t : Nat → Nat) : List Nat → State
  | [] => s
  | j :: rest =>
    let pos := s.seqGet e 8 4
    if pos = s.seqGet e 0x0C 4 then s.setSeqState e 2
    else
      let s1 := ((s.append (s.seqGet e 0x28 8) (t j) pos).seqPut e 8 4 (pos + 1)).seqPut e 0x30 4 (t j)
      if t j = s.seqGet e 0x24 4 then s1.setSeqState e 2 else s1.commitToks e t rest

/-- One row of the iteration: table entry e, result row i. -/
def State.commitRow (s : State) (i e : Nat) : State :=
  if s.seqState e ≠ 1 then s else
  let n := s.seqDraft e
  let ring := s.seqGet e 0x28 8
  let bad := (List.range (n + 1)).any fun p => dKind (s.resPair i p) == .invalid || dKind (s.resPair i p) == .empty
  if bad then (s.setSeqState e 3).append ring 0xFFFFFFFE (s.seqGet e 8 4)
  else
    let t (p : Nat) : Nat := (s.resPair i p).1
    let tok (p : Nat) : Nat := (s.qRead s.genView (s.gen.recAddr + 64 + 64 * i + 0x20 + 4 * p) 4).getD 0
    let m := accepted t tok n
    let s1 := s.commitToks e t (List.range (m + 1))
    let s2 := (List.range n).foldl (fun (q : State) p => q.seqPut e (0x34 + 4 * p) 4 (s.resPair i (8 + p)).1) s1
    if s2.seqState e = 2 then (s2.append ring 0xFFFFFFFF (s2.seqGet e 8 4)).setSeqState e 0 else s2

/-- Step 4 of the iteration is done: the batch's completion record is performed (R342). -/
def State.genDue (s : State) : Bool := s.gen.done

/-- The same iteration record is launched again, once the launch ring has room (R346). -/
def State.relaunch (s : State) : State :=
  if s.genRoom then
    let s1 := s.ringBatch
    { s1 with gen := { s1.gen with done := false, retry := false } }.now s1.lookAll
  else { s with gen := { s.gen with done := false, retry := true } }

-- DEDUCED, unsafe: log entry 78.
/-- GEN_COMMIT: the batch's completion record has been performed. A failed iteration is launched again unchanged; a row whose table entry has
changed hands since the iteration was issued is not committed. -/
def execGenCommit (s : State) : Res :=
  if !s.gen.inFlight then .next s
  else if s.gen.retry then .next (if s.genRoom then s.relaunch else s)
  else if !s.genDue then .next s
  else
    let s0 := s.genScrub.clearIrq (BitVec.ofNat 64 (2 ^ (s.gen.queue % 16)))
    let (s1, gone) := s0.takeReqs
    let dead := s.gen.dead ++ gone
    let status := (s1.qRead s1.genView s1.gen.crecAddr 1).getD 0
    if status ≠ 0 then .next { s1 with gen := { s1.gen with dead := dead } }.relaunch
    else
      let s2 := s1.gen.rows.zipIdx.foldl (fun (s : State) r => if dead.contains r.1 then s else s.commitRow r.2 r.1) s1
      .next { s2 with gen := { s2.gen with inFlight := false, rows := [], dead := [], done := false, iter := s2.gen.iter + 1 } }

end Sys2Proof.Machine
end

