-- ==== Sys2Proof/Machine/Scalar.lean ====
section
/-! DEFINITION. The S-words of majors 0x01 to 0x18 (05_scalar_isa.md): integer and pair forms, transfers of control,
queue-register moves, time and EXIT. -/
namespace Sys2Proof.Machine

/-! ## Shared operations -/

/-- Issue a word that writes s[rd] := f a b with the given latency (R94, R97). -/
def sAlu (lat : Nat) (f : W32 → W32 → W32) (ic : BitVec 2) (rd ra rb : BitVec 6) (s : State) : Res :=
  sIssue s ic [rd.toNat, ra.toNat, rb.toNat] fun k => k.push rd.toNat (s.clock + lat) (f (s.core.get ra.toNat) (s.core.get rb.toNat))

/-- Issue an immediate form: s[rd] := f a (R98). -/
def sAluImm (f : W32 → W32) (ic : BitVec 2) (rd ra : BitVec 6) (s : State) : Res :=
  sIssue s ic [rd.toNat, ra.toNat] fun k => k.push rd.toNat (s.clock + 1) (f (s.core.get ra.toNat))

/-- Issue a pair form with a pair and another operand (R100). -/
def sPair (f : W64 → W64) (regs : List Nat) (ic : BitVec 2) (rd ra : BitVec 5) (s : State) : Res :=
  sIssue s ic (pairRegs rd ++ pairRegs ra ++ regs) fun k => k.pushD rd.toNat (s.clock + 1) (f (s.core.getD ra.toNat))

/-- A shift of a w-bit pattern by an unmasked amount (R97, R100). -/
def shlW {w : Nat} (a : BitVec w) (b : W32) : BitVec w := if b.toNat < w then a <<< b.toNat else 0
def shrW {w : Nat} (a : BitVec w) (b : W32) : BitVec w := if b.toNat < w then a >>> b.toNat else 0
def sraW {w : Nat} (a : BitVec w) (b : W32) : BitVec w := a.sshiftRight (min b.toNat w)

/-- Signed quotient and remainder of R76 at width 32. -/
def divS (a b : W32) : W32 :=
  if b = 0 then (if a = 0 then 0 else if a.toInt < 0 then BitVec.intMin 32 else BitVec.intMax 32)
  else if a = BitVec.intMin 32 ∧ b = BitVec.allOnes 32 then BitVec.intMax 32
  else a.sdiv b
def remS (a b : W32) : W32 := if b = 0 then a else if a = BitVec.intMin 32 ∧ b = BitVec.allOnes 32 then 0 else a.srem b
def divU (a b : W32) : W32 := if b = 0 then (if a = 0 then 0 else BitVec.allOnes 32) else a / b
def remU (a b : W32) : W32 := if b = 0 then a else a % b

def mulHigh (a b : W32) : W32 := BitVec.ofInt 32 (a.toInt * b.toInt / 2 ^ 32)
def mulHighU (a b : W32) : W32 := BitVec.ofNat 32 (a.toNat * b.toNat / 2 ^ 32)

/-! ## Register forms -/

def execAdd (ic : BitVec 2) (rd ra rb : BitVec 6) (s : State) : Res := sAlu 1 (· + ·) ic rd ra rb s
def execSub (ic : BitVec 2) (rd ra rb : BitVec 6) (s : State) : Res := sAlu 1 (· - ·) ic rd ra rb s
def execAnd (ic : BitVec 2) (rd ra rb : BitVec 6) (s : State) : Res := sAlu 1 (· &&& ·) ic rd ra rb s
def execOr (ic : BitVec 2) (rd ra rb : BitVec 6) (s : State) : Res := sAlu 1 (· ||| ·) ic rd ra rb s
def execXor (ic : BitVec 2) (rd ra rb : BitVec 6) (s : State) : Res := sAlu 1 (· ^^^ ·) ic rd ra rb s
def execShl (ic : BitVec 2) (rd ra rb : BitVec 6) (s : State) : Res := sAlu 1 shlW ic rd ra rb s
def execShr (ic : BitVec 2) (rd ra rb : BitVec 6) (s : State) : Res := sAlu 1 shrW ic rd ra rb s
def execSra (ic : BitVec 2) (rd ra rb : BitVec 6) (s : State) : Res := sAlu 1 sraW ic rd ra rb s
def execMul (ic : BitVec 2) (rd ra rb : BitVec 6) (s : State) : Res := sAlu 3 (· * ·) ic rd ra rb s
def execMulh (ic : BitVec 2) (rd ra rb : BitVec 6) (s : State) : Res := sAlu 3 mulHigh ic rd ra rb s
def execMulhu (ic : BitVec 2) (rd ra rb : BitVec 6) (s : State) : Res := sAlu 3 mulHighU ic rd ra rb s
def execDiv (ic : BitVec 2) (rd ra rb : BitVec 6) (s : State) : Res := sAlu 18 divS ic rd ra rb s
def execDivu (ic : BitVec 2) (rd ra rb : BitVec 6) (s : State) : Res := sAlu 18 divU ic rd ra rb s
def execRem (ic : BitVec 2) (rd ra rb : BitVec 6) (s : State) : Res := sAlu 18 remS ic rd ra rb s
def execRemu (ic : BitVec 2) (rd ra rb : BitVec 6) (s : State) : Res := sAlu 18 remU ic rd ra rb s
def execMin (ic : BitVec 2) (rd ra rb : BitVec 6) (s : State) : Res := sAlu 1 (fun a b => if ltS a b then a else b) ic rd ra rb s
def execMax (ic : BitVec 2) (rd ra rb : BitVec 6) (s : State) : Res := sAlu 1 (fun a b => if ltS a b then b else a) ic rd ra rb s
def execMinu (ic : BitVec 2) (rd ra rb : BitVec 6) (s : State) : Res := sAlu 1 (fun a b => if ltU a b then a else b) ic rd ra rb s
def execMaxu (ic : BitVec 2) (rd ra rb : BitVec 6) (s : State) : Res := sAlu 1 (fun a b => if ltU a b then b else a) ic rd ra rb s
def execSeq (ic : BitVec 2) (rd ra rb : BitVec 6) (s : State) : Res := sAlu 1 (fun a b => flag (a == b)) ic rd ra rb s
def execSne (ic : BitVec 2) (rd ra rb : BitVec 6) (s : State) : Res := sAlu 1 (fun a b => flag (a != b)) ic rd ra rb s
def execSlt (ic : BitVec 2) (rd ra rb : BitVec 6) (s : State) : Res := sAlu 1 (fun a b => flag (ltS a b)) ic rd ra rb s
def execSltu (ic : BitVec 2) (rd ra rb : BitVec 6) (s : State) : Res := sAlu 1 (fun a b => flag (ltU a b)) ic rd ra rb s
def execSge (ic : BitVec 2) (rd ra rb : BitVec 6) (s : State) : Res := sAlu 1 (fun a b => flag (!ltS a b)) ic rd ra rb s
def execSgeu (ic : BitVec 2) (rd ra rb : BitVec 6) (s : State) : Res := sAlu 1 (fun a b => flag (!ltU a b)) ic rd ra rb s

/-! ## Pair forms (R100) -/

def execAddd (ic : BitVec 2) (rd ra rb : BitVec 5) (s : State) : Res :=
  sPair (fun a => a + s.core.getD rb.toNat) (pairRegs rb) ic rd ra s
def execSubd (ic : BitVec 2) (rd ra rb : BitVec 5) (s : State) : Res :=
  sPair (fun a => a - s.core.getD rb.toNat) (pairRegs rb) ic rd ra s
def execShld (ic : BitVec 2) (rd ra : BitVec 5) (rb : BitVec 6) (s : State) : Res :=
  sPair (fun a => shlW a (s.core.get rb.toNat)) [rb.toNat] ic rd ra s
def execShrd (ic : BitVec 2) (rd ra : BitVec 5) (rb : BitVec 6) (s : State) : Res :=
  sPair (fun a => shrW a (s.core.get rb.toNat)) [rb.toNat] ic rd ra s
def execSrad (ic : BitVec 2) (rd ra : BitVec 5) (rb : BitVec 6) (s : State) : Res :=
  sPair (fun a => sraW a (s.core.get rb.toNat)) [rb.toNat] ic rd ra s
def execAdddi (ic : BitVec 2) (rd ra : BitVec 5) (imm : BitVec 12) (s : State) : Res :=
  sPair (fun a => a + imm.signExtend 64) [] ic rd ra s

/-! ## Immediate forms (R98, R99) -/

def execAddi (ic : BitVec 2) (rd ra : BitVec 6) (imm : BitVec 12) (s : State) : Res := sAluImm (· + imm.signExtend 32) ic rd ra s
def execAndi (ic : BitVec 2) (rd ra : BitVec 6) (imm : BitVec 12) (s : State) : Res := sAluImm (· &&& imm.setWidth 32) ic rd ra s
def execOri (ic : BitVec 2) (rd ra : BitVec 6) (imm : BitVec 12) (s : State) : Res := sAluImm (· ||| imm.setWidth 32) ic rd ra s
def execXori (ic : BitVec 2) (rd ra : BitVec 6) (imm : BitVec 12) (s : State) : Res := sAluImm (· ^^^ imm.setWidth 32) ic rd ra s
def execShli (ic : BitVec 2) (rd ra : BitVec 6) (sh : BitVec 5) (s : State) : Res := sAluImm (shlW · (sh.setWidth 32)) ic rd ra s
def execShri (ic : BitVec 2) (rd ra : BitVec 6) (sh : BitVec 5) (s : State) : Res := sAluImm (shrW · (sh.setWidth 32)) ic rd ra s
def execSrai (ic : BitVec 2) (rd ra : BitVec 6) (sh : BitVec 5) (s : State) : Res := sAluImm (sraW · (sh.setWidth 32)) ic rd ra s
def execSlti (ic : BitVec 2) (rd ra : BitVec 6) (imm : BitVec 12) (s : State) : Res :=
  sAluImm (fun a => flag (ltS a (imm.signExtend 32))) ic rd ra s
def execSltiu (ic : BitVec 2) (rd ra : BitVec 6) (imm : BitVec 12) (s : State) : Res :=
  sAluImm (fun a => flag (ltU a (imm.signExtend 32))) ic rd ra s

/-- LIH shifts 18 bits into its destination, which it also reads (R99). -/
def execLih (ic : BitVec 2) (rd : BitVec 6) (imm : BitVec 18) (s : State) : Res :=
  sAluImm (fun a => (a <<< 18) ||| imm.setWidth 32) ic rd rd s

/-! ## Transfers of control (R95, R101-R103) -/

/-- A word's own address plus 4 times a signed word offset. -/
def offTarget {n : Nat} (pc : W32) (off : BitVec n) : W32 := pc + (off.signExtend 32 <<< 2)

/-- A word that has issued at s.clock goes on at a target when `taken`, else at the next word. -/
def SCore.branch (k : SCore) (ic : BitVec 2) (t : Nat) (taken : Bool) (target : W32) : SCore :=
  if taken then k.jump ic t target else k.advance ic t

/-- A compare-and-branch form (R101). -/
def sBranch (c : W32 → W32 → Bool) (ic : BitVec 2) (ra rb : BitVec 6) (off : BitVec 12) (s : State) : Res :=
  let k := s.core
  if s.held [ra.toNat, rb.toNat] then .next s
  else .next (s.setCore (k.branch ic s.clock (c (k.get ra.toNat) (k.get rb.toNat)) (offTarget k.pc off)))

def execBeq (ic : BitVec 2) (ra rb : BitVec 6) (imm : BitVec 12) (s : State) : Res := sBranch (· == ·) ic ra rb imm s
def execBne (ic : BitVec 2) (ra rb : BitVec 6) (imm : BitVec 12) (s : State) : Res := sBranch (· != ·) ic ra rb imm s
def execBlt (ic : BitVec 2) (ra rb : BitVec 6) (imm : BitVec 12) (s : State) : Res := sBranch ltS ic ra rb imm s
def execBge (ic : BitVec 2) (ra rb : BitVec 6) (imm : BitVec 12) (s : State) : Res := sBranch (fun a b => !ltS a b) ic ra rb imm s
def execBltu (ic : BitVec 2) (ra rb : BitVec 6) (imm : BitVec 12) (s : State) : Res := sBranch ltU ic ra rb imm s
def execBgeu (ic : BitVec 2) (ra rb : BitVec 6) (imm : BitVec 12) (s : State) : Res := sBranch (fun a b => !ltU a b) ic ra rb imm s

/-- JAL (R102): the target is always a multiple of 4. -/
def execJal (ic : BitVec 2) (rd : BitVec 6) (imm : BitVec 18) (s : State) : Res :=
  let k := s.core
  if s.held [rd.toNat] then .next s
  else .next (s.setCore ((k.jump ic s.clock (offTarget k.pc imm)).push rd.toNat (s.clock + 1) (k.pc + 4)))

/-- JALR (R102): a target that is not a multiple of 4 raises FETCH_ALIGN and writes no link. -/
def execJalr (ic : BitVec 2) (rd ra : BitVec 6) (imm : BitVec 12) (s : State) : Res :=
  let k := s.core
  let target := k.get ra.toNat + imm.signExtend 32
  if s.held [rd.toNat, ra.toNat] then .next s
  else if target.toNat % 4 ≠ 0 then trapRes s Cause.fetchAlign (target.setWidth 64)
  else .next (s.setCore ((k.jump ic s.clock target).push rd.toNat (s.clock + 1) (k.pc + 4)))

-- DEDUCED, safe: log entry 33.
/-- LOOP (R103): the decremented value is compared and written; ra = 0 raises RES_OPERAND. -/
def execLoop (ic : BitVec 2) (ra rb : BitVec 6) (imm : BitVec 12) (s : State) : Res :=
  let k := s.core
  let c := k.get ra.toNat - 1
  if ra = 0 then trapRes s Cause.resOperand (bitTval 23)
  else if s.held [ra.toNat, rb.toNat] then .next s
  else .next (s.setCore ((k.branch ic s.clock (c != k.get rb.toNat) (offTarget k.pc imm)).push ra.toNat (s.clock + 1) c))

/-! ## Queue-register moves (R104) -/

/-- QPUSH holds until the queue has room. -/
def execQpush (ic : BitVec 2) (q : BitVec 2) (ra : BitVec 5) (s : State) : Res :=
  let c := s.curM
  let x := s.curX
  let k := s.ctx c x
  if k.hasp.state = .active then trapRes s Cause.haspIllegal (k.sc.pc.setWidth 64)
  else if s.held (pairRegs ra) || (k.queue64 q.toNat).room s.gtc 16 < 1 then .next s
  else .next ((s.setCore (k.sc.advance ic s.clock)).modCtx c x fun k' =>
    k'.push64 q.toNat (k.sc.getD ra.toNat) s.gtc (k.reachOf .s s.seq))

/-- The head of a queue goes to a pair; QPOP removes it. -/
def qTake (remove : Bool) (ic : BitVec 2) (rd : BitVec 5) (q : BitVec 2) (s : State) : Res :=
  let c := s.curM
  let x := s.curX
  let k := s.ctx c x
  if k.hasp.state = .active then trapRes s Cause.haspIllegal (k.sc.pc.setWidth 64)
  else if s.held (pairRegs rd) then .next s
  else match (k.queue64 q.toNat).ready s.gtc with
    | [] => .next s
    | it :: _ =>
      .next (s.modCtx c x fun k' =>
        let k1 := { k' with sc := (k'.sc.advance ic s.clock).pushD rd.toNat (s.clock + 1) it.val }
        let k2 := k1.joinReach .s it.rel
        if remove then k2.pop64 q.toNat s.gtc else k2)

def execQpop (ic : BitVec 2) (rd : BitVec 5) (q : BitVec 2) (s : State) : Res := qTake true ic rd q s
def execQpeek (ic : BitVec 2) (rd : BitVec 5) (q : BitVec 2) (s : State) : Res := qTake false ic rd q s

/-! ## Time (R105-R107) -/

/-- GTC of the issue cycle; on an HCP that of the latest tick at or before its cycle, which is this tick (R111). -/
def execGtcr (ic : BitVec 2) (rd : BitVec 5) (s : State) : Res :=
  sIssue s ic (pairRegs rd) fun k => k.pushD rd.toNat (s.clock + 1) s.gtcW

/-- WAITG holds until GTC is at least its operand. -/
def execWaitg (ic : BitVec 2) (ra : BitVec 5) (s : State) : Res :=
  if s.gtcW.toNat < (s.core.getD ra.toNat).toNat then .next s
  else sIssue s ic (pairRegs ra) id

/-- GAP: the next word issues no earlier than t + 1 + imm12. -/
def execGap (ic : BitVec 2) (imm : BitVec 12) (s : State) : Res :=
  sIssue s ic [] fun k => { k with nextAt := max k.nextAt (s.clock + 1 + imm.toNat) }

/-! ## EXIT and NOP -/

/-- EXIT (R109, R111): holds until the S-stream's loads have landed, then ends the stream; on an HCP it ends the kernel;
inside a hasp task it traps (R332). -/
def execExit (ic : BitVec 2) (s : State) : Res :=
  match s.cur with
  | .stream c x _ =>
    let k := s.ctx c x
    if k.hasp.state = .active then trapRes s Cause.haspState 3
    else if k.landing.any (fun l => l.stream == .s) then .next s
    else .next ((s.setCore (k.sc.advance ic s.clock)).modCtx c x fun k' => { k' with sRun := false })
  | .hcp h => .next (s.modHcp h fun t => t.stopWith 0 0)
  | .device => .next s

/-- NOP issues and has no effect (R374). -/
def execNop (ic : BitVec 2) (s : State) : Res := sIssue s ic [] id

end Sys2Proof.Machine
end

