-- ==== Sys2Proof/Machine/Dispatch.lean ====
section
/-! DEFINITION. One arm per instruction: a direct call of its meaning. -/
namespace Sys2Proof.Machine

/-- What each instruction does. -/
def exec (i : Instr) (s : State) : Host.Outcome State Fault Refusal :=
  match i with
  | .add ic rd ra rb => Sys2Proof.Machine.execAdd ic rd ra rb s
  | .sub ic rd ra rb => Sys2Proof.Machine.execSub ic rd ra rb s
  | .and ic rd ra rb => Sys2Proof.Machine.execAnd ic rd ra rb s
  | .or ic rd ra rb => Sys2Proof.Machine.execOr ic rd ra rb s
  | .xor ic rd ra rb => Sys2Proof.Machine.execXor ic rd ra rb s
  | .shl ic rd ra rb => Sys2Proof.Machine.execShl ic rd ra rb s
  | .shr ic rd ra rb => Sys2Proof.Machine.execShr ic rd ra rb s
  | .sra ic rd ra rb => Sys2Proof.Machine.execSra ic rd ra rb s
  | .mul ic rd ra rb => Sys2Proof.Machine.execMul ic rd ra rb s
  | .mulh ic rd ra rb => Sys2Proof.Machine.execMulh ic rd ra rb s
  | .mulhu ic rd ra rb => Sys2Proof.Machine.execMulhu ic rd ra rb s
  | .div ic rd ra rb => Sys2Proof.Machine.execDiv ic rd ra rb s
  | .divu ic rd ra rb => Sys2Proof.Machine.execDivu ic rd ra rb s
  | .rem ic rd ra rb => Sys2Proof.Machine.execRem ic rd ra rb s
  | .remu ic rd ra rb => Sys2Proof.Machine.execRemu ic rd ra rb s
  | .min ic rd ra rb => Sys2Proof.Machine.execMin ic rd ra rb s
  | .max ic rd ra rb => Sys2Proof.Machine.execMax ic rd ra rb s
  | .minu ic rd ra rb => Sys2Proof.Machine.execMinu ic rd ra rb s
  | .maxu ic rd ra rb => Sys2Proof.Machine.execMaxu ic rd ra rb s
  | .seq ic rd ra rb => Sys2Proof.Machine.execSeq ic rd ra rb s
  | .sne ic rd ra rb => Sys2Proof.Machine.execSne ic rd ra rb s
  | .slt ic rd ra rb => Sys2Proof.Machine.execSlt ic rd ra rb s
  | .sltu ic rd ra rb => Sys2Proof.Machine.execSltu ic rd ra rb s
  | .sge ic rd ra rb => Sys2Proof.Machine.execSge ic rd ra rb s
  | .sgeu ic rd ra rb => Sys2Proof.Machine.execSgeu ic rd ra rb s
  | .addd ic rd ra rb => Sys2Proof.Machine.execAddd ic rd ra rb s
  | .subd ic rd ra rb => Sys2Proof.Machine.execSubd ic rd ra rb s
  | .shld ic rd ra rb => Sys2Proof.Machine.execShld ic rd ra rb s
  | .shrd ic rd ra rb => Sys2Proof.Machine.execShrd ic rd ra rb s
  | .srad ic rd ra rb => Sys2Proof.Machine.execSrad ic rd ra rb s
  | .addi ic rd ra imm => Sys2Proof.Machine.execAddi ic rd ra imm s
  | .andi ic rd ra imm => Sys2Proof.Machine.execAndi ic rd ra imm s
  | .ori ic rd ra imm => Sys2Proof.Machine.execOri ic rd ra imm s
  | .xori ic rd ra imm => Sys2Proof.Machine.execXori ic rd ra imm s
  | .shli ic rd ra sh => Sys2Proof.Machine.execShli ic rd ra sh s
  | .shri ic rd ra sh => Sys2Proof.Machine.execShri ic rd ra sh s
  | .srai ic rd ra sh => Sys2Proof.Machine.execSrai ic rd ra sh s
  | .slti ic rd ra imm => Sys2Proof.Machine.execSlti ic rd ra imm s
  | .sltiu ic rd ra imm => Sys2Proof.Machine.execSltiu ic rd ra imm s
  | .adddi ic rd ra imm => Sys2Proof.Machine.execAdddi ic rd ra imm s
  | .lih ic rd imm => Sys2Proof.Machine.execLih ic rd imm s
  | .jal ic rd imm => Sys2Proof.Machine.execJal ic rd imm s
  | .jalr ic rd ra imm => Sys2Proof.Machine.execJalr ic rd ra imm s
  | .beq ic ra rb imm => Sys2Proof.Machine.execBeq ic ra rb imm s
  | .bne ic ra rb imm => Sys2Proof.Machine.execBne ic ra rb imm s
  | .blt ic ra rb imm => Sys2Proof.Machine.execBlt ic ra rb imm s
  | .bge ic ra rb imm => Sys2Proof.Machine.execBge ic ra rb imm s
  | .bltu ic ra rb imm => Sys2Proof.Machine.execBltu ic ra rb imm s
  | .bgeu ic ra rb imm => Sys2Proof.Machine.execBgeu ic ra rb imm s
  | .loop ic ra rb imm => Sys2Proof.Machine.execLoop ic ra rb imm s
  | .qpush ic q ra => Sys2Proof.Machine.execQpush ic q ra s
  | .qpop ic rd q => Sys2Proof.Machine.execQpop ic rd q s
  | .qpeek ic rd q => Sys2Proof.Machine.execQpeek ic rd q s
  | .gtcr ic rd => Sys2Proof.Machine.execGtcr ic rd s
  | .waitg ic ra => Sys2Proof.Machine.execWaitg ic ra s
  | .exit ic => Sys2Proof.Machine.execExit ic s
  | .gap ic imm => Sys2Proof.Machine.execGap ic imm s
  | .csrr ic rd imm => Sys2Proof.Machine.execCsrr ic rd imm s
  | .csrw ic ra imm => Sys2Proof.Machine.execCsrw ic ra imm s
  | .ldb ic rd ra imm => Sys2Proof.Machine.execLdb ic rd ra imm s
  | .ldh ic rd ra imm => Sys2Proof.Machine.execLdh ic rd ra imm s
  | .ldw ic rd ra imm => Sys2Proof.Machine.execLdw ic rd ra imm s
  | .ldd ic rd ra imm => Sys2Proof.Machine.execLdd ic rd ra imm s
  | .stb ic rd ra => Sys2Proof.Machine.execStb ic rd ra s
  | .sth ic rd ra => Sys2Proof.Machine.execSth ic rd ra s
  | .stw ic rd ra => Sys2Proof.Machine.execStw ic rd ra s
  | .std ic rd ra => Sys2Proof.Machine.execStd ic rd ra s
  | .lds ic rd ra imm => Sys2Proof.Machine.execLds ic rd ra imm s
  | .sts ic rd ra => Sys2Proof.Machine.execSts ic rd ra s
  | .tlook ic rd ra => Sys2Proof.Machine.execTlook ic rd ra s
  | .tset ic ra rb => Sys2Proof.Machine.execTset ic ra rb s
  | .tinv ic ra => Sys2Proof.Machine.execTinv ic ra s
  | .bdecl ic ra => Sys2Proof.Machine.execBdecl ic ra s
  | .bstateFull ic ra => Sys2Proof.Machine.execBstateFull ic ra s
  | .bstateDrain ic ra => Sys2Proof.Machine.execBstateDrain ic ra s
  | .bquery ic rd ra => Sys2Proof.Machine.execBquery ic rd ra s
  | .sbfw ic rd ra rb => Sys2Proof.Machine.execSbfw ic rd ra rb s
  | .sew ic n ra => Sys2Proof.Machine.execSew ic n ra s
  | .sego ic sc => Sys2Proof.Machine.execSego ic sc s
  | .segoResume ic sc => Sys2Proof.Machine.execSegoResume ic sc s
  | .segoDrop ic sc => Sys2Proof.Machine.execSegoDrop ic sc s
  | .sepop ic rd => Sys2Proof.Machine.execSepop ic rd s
  | .sechain ic sc ra => Sys2Proof.Machine.execSechain ic sc ra s
  | .rqpage ic ra rb => Sys2Proof.Machine.execRqpage ic ra rb s
  | .fence ic un rc ord sc => Sys2Proof.Machine.execFence ic un rc ord sc s
  | .afence ic ra sc => Sys2Proof.Machine.execAfence ic ra sc s
  | .atomAdd ic sg wide sc ra rb => Sys2Proof.Machine.execAtomAdd ic sg wide sc ra rb s
  | .atomAnd ic sg wide sc ra rb => Sys2Proof.Machine.execAtomAnd ic sg wide sc ra rb s
  | .atomOr ic sg wide sc ra rb => Sys2Proof.Machine.execAtomOr ic sg wide sc ra rb s
  | .atomXor ic sg wide sc ra rb => Sys2Proof.Machine.execAtomXor ic sg wide sc ra rb s
  | .atomMin ic sg wide sc ra rb => Sys2Proof.Machine.execAtomMin ic sg wide sc ra rb s
  | .atomMax ic sg wide sc ra rb => Sys2Proof.Machine.execAtomMax ic sg wide sc ra rb s
  | .atomSwap ic sg wide sc ra rb => Sys2Proof.Machine.execAtomSwap ic sg wide sc ra rb s
  | .acas ic sg wide sc ra rb => Sys2Proof.Machine.execAcas ic sg wide sc ra rb s
  | .redAdd ic sg wide sc ra rb => Sys2Proof.Machine.execRedAdd ic sg wide sc ra rb s
  | .redAnd ic sg wide sc ra rb => Sys2Proof.Machine.execRedAnd ic sg wide sc ra rb s
  | .redOr ic sg wide sc ra rb => Sys2Proof.Machine.execRedOr ic sg wide sc ra rb s
  | .redXor ic sg wide sc ra rb => Sys2Proof.Machine.execRedXor ic sg wide sc ra rb s
  | .redMin ic sg wide sc ra rb => Sys2Proof.Machine.execRedMin ic sg wide sc ra rb s
  | .redMax ic sg wide sc ra rb => Sys2Proof.Machine.execRedMax ic sg wide sc ra rb s
  | .fredAdd ic ty sc ra rb => Sys2Proof.Machine.execFredAdd ic ty sc ra rb s
  | .fredMin ic ty sc ra rb => Sys2Proof.Machine.execFredMin ic ty sc ra rb s
  | .fredMax ic ty sc ra rb => Sys2Proof.Machine.execFredMax ic ty sc ra rb s
  | .apop ic rd => Sys2Proof.Machine.execApop ic rd s
  | .bari ic sc ra rb => Sys2Proof.Machine.execBari ic sc ra rb s
  | .barv ic sc ra => Sys2Proof.Machine.execBarv ic sc ra s
  | .bard ic sc ra => Sys2Proof.Machine.execBard ic sc ra s
  | .barx ic sc ra rb => Sys2Proof.Machine.execBarx ic sc ra rb s
  | .barw ic sc ra rb => Sys2Proof.Machine.execBarw ic sc ra rb s
  | .bart ic sc ra rb => Sys2Proof.Machine.execBart ic sc ra rb s
  | .waitqData ic sc ra rb => Sys2Proof.Machine.execWaitqData ic sc ra rb s
  | .waitqSpace ic sc ra rb => Sys2Proof.Machine.execWaitqSpace ic sc ra rb s
  | .sems ic sc ra rb => Sys2Proof.Machine.execSems ic sc ra rb s
  | .semw ic sc ra rb => Sys2Proof.Machine.execSemw ic sc ra rb s
  | .uien ic ra => Sys2Proof.Machine.execUien ic ra s
  | .uiret ic => Sys2Proof.Machine.execUiret ic s
  | .lnch ic rd ra rb => Sys2Proof.Machine.execLnch ic rd ra rb s
  | .hspdecl ic ra rb => Sys2Proof.Machine.execHspdecl ic ra rb s
  | .tbegin ic rd => Sys2Proof.Machine.execTbegin ic rd s
  | .tend ic => Sys2Proof.Machine.execTend ic s
  | .tabort ic ra => Sys2Proof.Machine.execTabort ic ra s
  | .tage ic rd => Sys2Proof.Machine.execTage ic rd s
  | .dseed ic ra rb => Sys2Proof.Machine.execDseed ic ra rb s
  | .dtopo ic ra => Sys2Proof.Machine.execDtopo ic ra s
  | .mdeq ic rd ra rb => Sys2Proof.Machine.execMdeq ic rd ra rb s
  | .bdwait ic rd ra rb => Sys2Proof.Machine.execBdwait ic rd ra rb s
  | .nop ic => Sys2Proof.Machine.execNop ic s
  | .halt ic ra => Sys2Proof.Machine.execHalt ic ra s
  | .trap ic ra => Sys2Proof.Machine.execTrap ic ra s
  | .eret ic => Sys2Proof.Machine.execEret ic s
  | .ctxsv ic rd ra => Sys2Proof.Machine.execCtxsv ic rd ra s
  | .ctxld ic rd ra rb => Sys2Proof.Machine.execCtxld ic rd ra rb s
  | .twld ic rd ra rb => Sys2Proof.Machine.execTwld ic rd ra rb s
  | .keyld ic rd ra rb => Sys2Proof.Machine.execKeyld ic rd ra rb s
  | .hgemv ic ra => Sys2Proof.Machine.execHgemv ic ra s
  | .hred ic ra => Sys2Proof.Machine.execHred ic ra s
  | .hland ic ra => Sys2Proof.Machine.execHland ic ra s
  | .hwalk ic ra => Sys2Proof.Machine.execHwalk ic ra s
  | .hscan ic ra => Sys2Proof.Machine.execHscan ic ra s
  | .hcopy ic ra => Sys2Proof.Machine.execHcopy ic ra s
  | .hrow ic ra rb => Sys2Proof.Machine.execHrow ic ra rb s
  | .hfence ic sc => Sys2Proof.Machine.execHfence ic sc s
  | .hwait ic ra => Sys2Proof.Machine.execHwait ic ra s
  | .hpost ic sc ra rb => Sys2Proof.Machine.execHpost ic sc ra rb s
  | .hpostErr ic sc ra rb => Sys2Proof.Machine.execHpostErr ic sc ra rb s
  | .hstat ic rd ra => Sys2Proof.Machine.execHstat ic rd ra s
  | .vNop w => Sys2Proof.Machine.execVNop w s
  | .vadd w => Sys2Proof.Machine.execVadd w s
  | .vsub w => Sys2Proof.Machine.execVsub w s
  | .vmul w => Sys2Proof.Machine.execVmul w s
  | .vfma w => Sys2Proof.Machine.execVfma w s
  | .vmin w => Sys2Proof.Machine.execVmin w s
  | .vmax w => Sys2Proof.Machine.execVmax w s
  | .vabs w => Sys2Proof.Machine.execVabs w s
  | .vneg w => Sys2Proof.Machine.execVneg w s
  | .vexp2 w => Sys2Proof.Machine.execVexp2 w s
  | .vlog2 w => Sys2Proof.Machine.execVlog2 w s
  | .vrcp w => Sys2Proof.Machine.execVrcp w s
  | .vrsq w => Sys2Proof.Machine.execVrsq w s
  | .vsqrt w => Sys2Proof.Machine.execVsqrt w s
  | .vcmpEq w => Sys2Proof.Machine.execVcmpEq w s
  | .vcmpNe w => Sys2Proof.Machine.execVcmpNe w s
  | .vcmpLt w => Sys2Proof.Machine.execVcmpLt w s
  | .vcmpLe w => Sys2Proof.Machine.execVcmpLe w s
  | .vcmpGt w => Sys2Proof.Machine.execVcmpGt w s
  | .vcmpGe w => Sys2Proof.Machine.execVcmpGe w s
  | .vcmpUn w => Sys2Proof.Machine.execVcmpUn w s
  | .vsel w => Sys2Proof.Machine.execVsel w s
  | .vcvt w => Sys2Proof.Machine.execVcvt w s
  | .vscale w => Sys2Proof.Machine.execVscale w s
  | .vand w => Sys2Proof.Machine.execVand w s
  | .vor w => Sys2Proof.Machine.execVor w s
  | .vxor w => Sys2Proof.Machine.execVxor w s
  | .vnot w => Sys2Proof.Machine.execVnot w s
  | .vshl w => Sys2Proof.Machine.execVshl w s
  | .vshr w => Sys2Proof.Machine.execVshr w s
  | .vsra w => Sys2Proof.Machine.execVsra w s
  | .vpopc w => Sys2Proof.Machine.execVpopc w s
  | .vclz w => Sys2Proof.Machine.execVclz w s
  | .vmulh w => Sys2Proof.Machine.execVmulh w s
  | .vperm w => Sys2Proof.Machine.execVperm w s
  | .vbcast w => Sys2Proof.Machine.execVbcast w s
  | .viota w => Sys2Proof.Machine.execViota w s
  | .vrot w => Sys2Proof.Machine.execVrot w s
  | .vcomp w => Sys2Proof.Machine.execVcomp w s
  | .vmov w => Sys2Proof.Machine.execVmov w s
  | .vrsum w => Sys2Proof.Machine.execVrsum w s
  | .vrmax w => Sys2Proof.Machine.execVrmax w s
  | .vrmin w => Sys2Proof.Machine.execVrmin w s
  | .vscan w => Sys2Proof.Machine.execVscan w s
  | .vscanmax w => Sys2Proof.Machine.execVscanmax w s
  | .pand w => Sys2Proof.Machine.execPand w s
  | .por w => Sys2Proof.Machine.execPor w s
  | .pxor w => Sys2Proof.Machine.execPxor w s
  | .pnot w => Sys2Proof.Machine.execPnot w s
  | .vld w => Sys2Proof.Machine.execVld w s
  | .vst w => Sys2Proof.Machine.execVst w s
  | .vlds w => Sys2Proof.Machine.execVlds w s
  | .vsts w => Sys2Proof.Machine.execVsts w s
  | .vdraw w => Sys2Proof.Machine.execVdraw w s
  | .vdmrg w => Sys2Proof.Machine.execVdmrg w s
  | .dtree w => Sys2Proof.Machine.execDtree w s
  | .vmarkFull w => Sys2Proof.Machine.execVmarkFull w s
  | .vmarkEmpty w => Sys2Proof.Machine.execVmarkEmpty w s
  | .vexit w => Sys2Proof.Machine.execVexit w s
  | .mNop w => Sys2Proof.Machine.execMNop w s
  | .mma w => Sys2Proof.Machine.execMma w s
  | .mmag w => Sys2Proof.Machine.execMmag w s
  | .mzero w => Sys2Proof.Machine.execMzero w s
  | .mtype w => Sys2Proof.Machine.execMtype w s
  | .mldbSpad w => Sys2Proof.Machine.execMldbSpad w s
  | .mldbAcc w => Sys2Proof.Machine.execMldbAcc w s
  | .msta w => Sys2Proof.Machine.execMsta w s
  | .mset w => Sys2Proof.Machine.execMset w s
  | .mqpop w => Sys2Proof.Machine.execMqpop w s
  | .mwalk w => Sys2Proof.Machine.execMwalk w s
  | .mwres w => Sys2Proof.Machine.execMwres w s
  | .mfull w => Sys2Proof.Machine.execMfull w s
  | .mempty w => Sys2Proof.Machine.execMempty w s
  | .mwait w => Sys2Proof.Machine.execMwait w s
  | .mdraw w => Sys2Proof.Machine.execMdraw w s
  | .mbeat w => Sys2Proof.Machine.execMbeat w s
  | .mbend w => Sys2Proof.Machine.execMbend w s
  | .mlook w => Sys2Proof.Machine.execMlook w s
  | .mexit w => Sys2Proof.Machine.execMexit w s
  | .sWordResult a => Sys2Proof.Machine.execSWordResult a s
  | .vectorSweepStep mdw fl => Sys2Proof.Machine.execVectorSweepStep mdw fl s
  | .vectorStepResult mdw fl st => Sys2Proof.Machine.execVectorStepResult mdw fl st s
  | .loadDataArrival mdw ctx id => Sys2Proof.Machine.execLoadDataArrival mdw ctx id s
  | .loadLanding mdw ctx id => Sys2Proof.Machine.execLoadLanding mdw ctx id s
  | .lateLandingFreeze mdw => Sys2Proof.Machine.execLateLandingFreeze mdw s
  | .tileStepIssue mdw => Sys2Proof.Machine.execTileStepIssue mdw s
  | .tileStepResult mdw id => Sys2Proof.Machine.execTileStepResult mdw id s
  | .mldbComplete mdw id => Sys2Proof.Machine.execMldbComplete mdw id s
  | .mstaComplete mdw id => Sys2Proof.Machine.execMstaComplete mdw id s
  | .mdrawComplete mdw id => Sys2Proof.Machine.execMdrawComplete mdw id s
  | .dtopoComplete mdw ctx => Sys2Proof.Machine.execDtopoComplete mdw ctx s
  | .bufferDrainEmpty mdw buf => Sys2Proof.Machine.execBufferDrainEmpty mdw buf s
  | .sePattern mdw ctx => Sys2Proof.Machine.execSePattern mdw ctx s
  | .seGather mdw ctx => Sys2Proof.Machine.execSeGather mdw ctx s
  | .seScatter mdw ctx => Sys2Proof.Machine.execSeScatter mdw ctx s
  | .seSync mdw ctx => Sys2Proof.Machine.execSeSync mdw ctx s
  | .seGranuleMove mdw ctx => Sys2Proof.Machine.execSeGranuleMove mdw ctx s
  | .seCommandComplete mdw ctx => Sys2Proof.Machine.execSeCommandComplete mdw ctx s
  | .seChainFetch mdw ctx => Sys2Proof.Machine.execSeChainFetch mdw ctx s
  | .userInterruptEntry mdw ctx => Sys2Proof.Machine.execUserInterruptEntry mdw ctx s
  | .syncRequestApply die => Sys2Proof.Machine.execSyncRequestApply die s
  | .syncAnswerArrival mdw ctx id => Sys2Proof.Machine.execSyncAnswerArrival mdw ctx id s
  | .boundedWaitExpiry die id => Sys2Proof.Machine.execBoundedWaitExpiry die id s
  | .bdwaitLimitExpiry mdw id => Sys2Proof.Machine.execBdwaitLimitExpiry mdw id s
  | .heathCommandStart id => Sys2Proof.Machine.execHeathCommandStart id s
  | .heathCommandComplete id => Sys2Proof.Machine.execHeathCommandComplete id s
  | .arbiterSlot pc => Sys2Proof.Machine.execArbiterSlot pc s
  | .activatePromotion pc id => Sys2Proof.Machine.execActivatePromotion pc id s
  | .leaseExpiry pc bank => Sys2Proof.Machine.execLeaseExpiry pc bank s
  | .refreshDue pc bank => Sys2Proof.Machine.execRefreshDue pc bank s
  | .landingContribution p => Sys2Proof.Machine.execLandingContribution p s
  | .gtcSyncFlit port v d => Sys2Proof.Machine.execGtcSyncFlit port v d s
  | .favexPortFailure port => Sys2Proof.Machine.execFavexPortFailure port s
  | .lqdb v => Sys2Proof.Machine.execLqdb v s
  | .launchRecordStart q slot => Sys2Proof.Machine.execLaunchRecordStart q slot s
  | .launchCompletion id => Sys2Proof.Machine.execLaunchCompletion id s
  | .taskStart mdw ctx stage => Sys2Proof.Machine.execTaskStart mdw ctx stage s
  | .taskEnd mdw ctx => Sys2Proof.Machine.execTaskEnd mdw ctx s
  | .contextPromotion mdw ctx u => Sys2Proof.Machine.execContextPromotion mdw ctx u s
  | .turnTimeout mdw u => Sys2Proof.Machine.execTurnTimeout mdw u s
  | .energyCharge => Sys2Proof.Machine.execEnergyCharge s
  | .powerCompare => Sys2Proof.Machine.execPowerCompare s
  | .preemption mdw => Sys2Proof.Machine.execPreemption mdw s
  | .preemptStuck mdw => Sys2Proof.Machine.execPreemptStuck mdw s
  | .resumption region => Sys2Proof.Machine.execResumption region s
  | .beatSlotStart mdw => Sys2Proof.Machine.execBeatSlotStart mdw s
  | .beatDrain mdw row => Sys2Proof.Machine.execBeatDrain mdw row s
  | .beatRunEnd mdw => Sys2Proof.Machine.execBeatRunEnd mdw s
  | .haspTouch die id => Sys2Proof.Machine.execHaspTouch die id s
  | .haspRollback mdw ctx => Sys2Proof.Machine.execHaspRollback mdw ctx s
  | .trapEntry mdw ctx => Sys2Proof.Machine.execTrapEntry mdw ctx s
  | .faultDomainStop node cause fctx fval killed => Sys2Proof.Machine.execFaultDomainStop node cause fctx fval killed s
  | .ibufParity mdw ctx st => Sys2Proof.Machine.execIbufParity mdw ctx st s
  | .hrqdb v => Sys2Proof.Machine.execHrqdb v s
  | .hrqAnswer seq status frame => Sys2Proof.Machine.execHrqAnswer seq status frame s
  | .hrqReclaim image entry => Sys2Proof.Machine.execHrqReclaim image entry s
  | .reclaimComplete id => Sys2Proof.Machine.execReclaimComplete id s
  | .pageRequestTimeout seq => Sys2Proof.Machine.execPageRequestTimeout seq s
  | .apertureAccess write off size data => Sys2Proof.Machine.execApertureAccess write off size data s
  | .bootcfg v => Sys2Proof.Machine.execBootcfg v s
  | .lqregh q v => Sys2Proof.Machine.execLqregh q v s
  | .lqregl q v => Sys2Proof.Machine.execLqregl q v s
  | .mcirq v => Sys2Proof.Machine.execMcirq v s
  | .secstat v => Sys2Proof.Machine.execSecstat v s
  | .seccfg v => Sys2Proof.Machine.execSeccfg v s
  | .nrctl stack v => Sys2Proof.Machine.execNrctl stack v s
  | .registerWrite byM off v => Sys2Proof.Machine.execRegisterWrite byM off v s
  | .alarmRaise src => Sys2Proof.Machine.execAlarmRaise src s
  | .debugAccess cert => Sys2Proof.Machine.execDebugAccess cert s
  | .firmwareUpdate image => Sys2Proof.Machine.execFirmwareUpdate image s
  | .attestationReport nonce => Sys2Proof.Machine.execAttestationReport nonce s
  | .powerOnReset => Sys2Proof.Machine.execPowerOnReset s
  | .genIterationIssue => Sys2Proof.Machine.execGenIterationIssue s
  | .genCommit => Sys2Proof.Machine.execGenCommit s
  | .sequenceAdd image => Sys2Proof.Machine.execSequenceAdd image s
  | .sequenceCancel seqid => Sys2Proof.Machine.execSequenceCancel seqid s
  | .hcpLoadArrival h => Sys2Proof.Machine.execHcpLoadArrival h s
  | .faultDomainStopClear node => Sys2Proof.Machine.execFaultDomainStopClear node s

end Sys2Proof.Machine
end

