-- ==== Sys2Proof/Machine/Agenda.lean ====
section
/-! DEFINITION. The agenda of a GTC cycle: when a stream or an HCP may issue a word (R15, R25, R95, R107, R111, R244, R292-R294, R373),
and what each entry of the agenda does. -/
namespace Sys2Proof.Machine

/-! ## When a word may issue -/

/-- No freeze, no stop and no earlier cause keeps a context from issuing (R15, R300, R373). -/
def State.ctxOpen (s : State) (c x : Nat) : Bool :=
  let m := s.mdw c
  m.region.isSome && !m.frozen && !m.halted s.gtc && (match (m.ctx x).trap with | none => true | some p => p.at_ == s.gtc)

/-- A stream may issue in this cycle, the waits of its word and the shared units apart. While a trap is handled only the S-stream
issues. -/
def State.mayIssue (s : State) (c x : Nat) (st : StreamId) : Bool :=
  let m := s.mdw c
  let k := m.ctx x
  s.ctxOpen c x && (match st with
    | .s => k.sRun && decide (k.sc.nextAt ≤ m.mtc) && k.dtopo.isNone && k.hasp.roll.isNone && !k.hasp.committing && (match k.sWait with | some w => !w.issued | none => true)
    | .v => k.vRun && !k.active && decide (k.vNextAt ≤ m.mtc)
    | .m => k.mRun && !k.active && decide (k.mNextAt ≤ m.mtc))

/-- An HCP issues its next word in this cycle (R111, R251, R252). -/
def State.hcpIssues (s : State) (h : Nat) : Bool :=
  let t := s.hcp h
  t.running && t.load.isNone && t.ending.isNone && s.hcpTick && decide (t.sc.nextAt ≤ s.hcpCycle)

/-- The shared unit that a word issues on. -/
def Ctx.unitFor (k : Ctx) (i : Instr) : Option IssueUnit :=
  match i with
  | .mma _ | .mmag _ | .mwalk _ => some .array
  | .mwres _ => if k.suspended.isSome || k.tileWord.isSome then some .array else none
  | .mldbSpad _ | .mldbAcc _ => some .load
  | .msta _ => some .drain
  | i => if (vParts i).isSome then some .vector else none

/-- A tile-step word that still has its stamp (R142, R143). -/
def Ctx.stampedHead (k : Ctx) (i : Instr) : Bool :=
  k.unitFor i == some .array && (match mParts i with | some (_, w) => w.stampMode != .none | none => false) &&
  (match k.tileWord with | some t => t.pc != k.mpc | none => true) &&
  (match i, k.suspended with | .mwres _, some t => !(t.bare && t.pc == k.mpc) | _, _ => true)

/-- In a timed region only the holder of a unit's turn issues on it, stamped words apart (R294). -/
def State.turnOk (s : State) (c x : Nat) (u : IssueUnit) : Bool :=
  let m := s.mdw c
  !m.timed || (match (m.unit u).turn with | none => true | some y => y == x)

/-- The units let this word issue now. -/
def State.unitOk (s : State) (a : Agent) (i : Instr) : Bool :=
  match a with
  | .stream c x _ =>
    let m := s.mdw c
    let k := m.ctx x
    (match k.unitFor i with
     | none => true
     | some .vector => s.turnOk c x .vector && decide ((m.unit .vector).busyUntil ≤ m.mtc)
     | some u => k.stampedHead i || s.turnOk c x u)
  | _ => true

def State.slotOpen (s : State) (a : Agent) : Bool :=
  match a with
  | .stream c x st => s.mayIssue c x st
  | .hcp h => s.hcpIssues h
  | .device => false

/-! ## The entries -/

-- DEDUCED, unsafe: log entry 12.
-- DEDUCED, unsafe: log entry 28.
/-- A fetch that reaches DRAM is a read of its lines, which corrects or poisons those with an error (R257). -/
def State.scrubFetch (s : State) (a : Agent) : State :=
  if s.memClean = true then s
  else match a with
    | .stream c x st => (match s.access (s.mdw c) .fetch [((((s.ctx c x).fetchAddr st)).toNat, streamBytes st)] with
      | .ok ps => s.scrubParts ps
      | _ => s)
    | .hcp h =>
      let t := s.hcp h
      let pa := t.hi.toNat * 2 ^ 32 + t.sc.pc.toNat
      (match t.check pa 4 with | .ok _ => s.dramScrub pa 4 | .error _ => s)
    | .device => s

/-- An issue slot: the agent's next word is fetched, decoded and executed, or the fetch raises its cause. -/
def runSlot (a : Agent) (s0 : State) : Res :=
  let s := s0.scrubFetch a
  if !s0.slotOpen a then .next s0
  else match s.fetch a with
    | .word i => if s.unitOk a i then exec i s else .next s
    | .trap cause tval => .next (s.raise cause tval)
    | .stop status cause => (match a with | .hcp h => .next (s.modHcp h fun t => t.stopWith status cause) | _ => .next s)
    | .gone pa => .fault (.unbacked pa)

-- DEDUCED, safe: log entry 83.
/-- An event that the machine brings about. -/
def runEv (e : Ev) (s : State) : Res :=
  match e with
  | .sWordResult a => execSWordResult a s
  | .vectorSweepStep c f => execVectorSweepStep c f s
  | .vectorStepResult c f i => execVectorStepResult c f i s
  | .loadDataArrival c x i => execLoadDataArrival c x i s
  | .loadLanding c x i => execLoadLanding c x i s
  | .lateLandingFreeze c => execLateLandingFreeze c s
  | .tileStepIssue c => execTileStepIssue c s
  | .tileStepResult c i => execTileStepResult c i s
  | .mldbComplete c i => execMldbComplete c i s
  | .mstaComplete c i => execMstaComplete c i s
  | .mdrawComplete c i => execMdrawComplete c i s
  | .dtopoComplete c x => execDtopoComplete c x s
  | .bufferDrainEmpty c b => execBufferDrainEmpty c b s
  | .sePattern c x => execSePattern c x s
  | .seGather c x => execSeGather c x s
  | .seScatter c x => execSeScatter c x s
  | .seSync c x => execSeSync c x s
  | .seGranuleMove c x => execSeGranuleMove c x s
  | .seCommandComplete c x => execSeCommandComplete c x s
  | .seChainFetch c x => execSeChainFetch c x s
  | .userInterruptEntry c x => execUserInterruptEntry c x s
  | .syncRequestApply d => execSyncRequestApply d s
  | .syncAnswerArrival c x i => execSyncAnswerArrival c x i s
  | .boundedWaitExpiry d i => execBoundedWaitExpiry d i s
  | .bdwaitLimitExpiry c i => execBdwaitLimitExpiry c i s
  | .heathCommandStart i => execHeathCommandStart i s
  | .heathCommandComplete i => execHeathCommandComplete i s
  | .arbiterSlot p => execArbiterSlot p s
  | .activatePromotion p i => execActivatePromotion p i s
  | .leaseExpiry p b => execLeaseExpiry p b s
  | .refreshDue p b => execRefreshDue p b s
  | .launchRecordStart q i => execLaunchRecordStart q i s
  | .launchCompletion i => execLaunchCompletion i s
  | .taskStart c x g => execTaskStart c x g s
  | .taskEnd c x => execTaskEnd c x s
  | .contextPromotion c x u => execContextPromotion c x u s
  | .turnTimeout c u => execTurnTimeout c u s
  | .energyCharge => execEnergyCharge s
  | .powerCompare => execPowerCompare s
  | .preemption c => execPreemption c s
  | .preemptStuck c => execPreemptStuck c s
  | .resumption r => execResumption r s
  | .beatSlotStart c => execBeatSlotStart c s
  | .beatDrain c r => execBeatDrain c r s
  | .beatRunEnd c => execBeatRunEnd c s
  | .haspTouch d i => execHaspTouch d i s
  | .haspRollback c x => execHaspRollback c x s
  | .trapEntry c x => execTrapEntry c x s
  | .faultDomainStop n cause ctx v k => execFaultDomainStop n cause ctx v k s
  | .reclaimComplete i => execReclaimComplete i s
  | .pageRequestTimeout q => execPageRequestTimeout q s
  | .genIterationIssue => execGenIterationIssue s
  | .genCommit => execGenCommit s
  | .hcpLoadArrival h => execHcpLoadArrival h s

-- DEDUCED, safe: log entry 83.
/-- One entry of the agenda. -/
def runAct (a : Act) (s : State) : Res :=
  match a with
  | .ev e => runEv e { s with cur := .device }
  | .input i => exec i { s with cur := .device }
  | .slot g => runSlot g { s with cur := g }

end Sys2Proof.Machine
end

