-- ==== Sys2Proof/Machine/Cycle.lean ====
section
/-! DEFINITION. One GTC cycle in nine parts (R13-R15, R22, R184, R292-R294, R394): the clock, arrivals, the freeze, landings and results, S-words,
V-words, M-words, engines, and the ends of things. Each part looks at the state as the parts before it have left it and puts its
events and issue slots on the agenda; an event that finds its condition gone changes nothing. Log entry 3. -/
namespace Sys2Proof.Machine

/-- The meadows that serve a region. -/
def State.busyMdws (s : State) : List Nat := (s.meadows.filter fun m => m.2.region.isSome).map (·.1)
def State.busyHcps (s : State) : List Nat := (s.hcps.filter fun h => h.2.running).map (·.1)
def ctxNos : List Nat := [0, 1, 2, 3]
/-- The (meadow, context) pairs that serve a region. -/
def State.busyCtxs (s : State) : List (Nat × Nat) := s.busyMdws.flatMap fun c => ctxNos.map fun x => (c, x)

/-! ## Part 0: the clock -/

/-- A load is due in this MTC cycle and has not arrived: MTC holds (R190). -/
def Meadow.landWaits (m : Meadow) : Bool := [0, 1, 2, 3].any fun x => (m.ctx x).landing.any fun e => !e.arrived && decide (e.lam ≤ m.mtc)

-- DEDUCED, unsafe: log entry 6.
/-- What the start of a GTC cycle does to a meadow: changes of the last cycle take effect, MTC goes on unless the last cycle was
frozen or a load is due in its MTC cycle (R14, R15, R190), and the bits that waits look at are those of the cycle's start (R19). -/
def Meadow.clock (m : Meadow) (g : Nat) (e : W64) : Meadow :=
  let m1 := m.applyLate g
  let m2 : Meadow := { m1 with
    tileOld := m1.tileFull
    mbpolOld := m.mbpol
    mtc := if m1.frozen || m1.landWaits then m1.mtc else m1.mtc + 1
    emeter := m1.emeter + e
    flights := m1.flights.filter fun f => !f.over g }
  if m2.halted g then { m2 with ctxs := m2.ctxs.map fun k => (k.1, k.2.unissue) }
  else { m2 with stopping := m2.stopping.map fun t => { t with since := g } }

-- DEDUCED, unsafe: log entry 6.
/-- Meters of a cycle: every placed meadow and every running HCP gains what its units used (R295). -/
def State.clockMeadow (s : State) (c : Nat) : State :=
  let (ix, s1) := s.freshIx
  (s1.modMdw c fun m => m.clock s.gtc (BitVec.ofNat 64 (Config.energy ix))).haltHasps c
def State.meterHcp (s : State) (h : Nat) : State :=
  let (ix, s1) := s.freshIx
  s1.modHcp h fun t => { t with meter := t.meter + BitVec.ofNat 64 (Config.energy ix) }

-- DEDUCED, unsafe: log entry 60.
/-- Stores that may be performed, hasp tasks that commit, notifications that waited, and the matrix side. -/
def State.settleMeadow (s : State) (c : Nat) : State :=
  let s1 := ctxNos.foldl (fun s x => ((s.drainStores c x).settleTend c x).modCtx c x fun k => k.settleNotify) s
  s1.matrixCycle c

/-- The arbiters that have something to do. -/
def State.busyArbs (s : State) : List Nat := (s.arbiters.filter fun a => !a.2.queue.isEmpty || a.2.banks.any fun b => b.2.lease).map (·.1)

-- DESIGN CHOICE, unsafe: log entry 53.
/-- The refreshes that fall due in an arbiter's banks; while requests wait a bank is refreshed again only behind a column command of its own,
so that the row bus is free for their activates and every request is served in time (R227). -/
def State.refreshes (s : State) (p : Nat) : State × List Ev :=
  let a := s.arb p
  ({ s with fresh := s.fresh + 16 }, (List.range 16).filterMap fun b =>
    if Config.refreshDue (s.fresh + b) && !((a.bankOf b).refreshed && a.queue.any fun r => r.kind != .refresh) then some (.refreshDue p b) else none)

-- DESIGN CHOICE, unsafe: log entry 53.
/-- An arbiter's events of a GTC cycle: ten slots in every seven cycles (R253). -/
def State.arbEvents (s : State) (p : Nat) : List Ev :=
  let a := s.arb p
  (a.banks.filter fun b => b.2.expired s.slotFrom).map (fun b => .leaseExpiry p b.1) ++
  (a.queue.filter fun r => a.promotable s.slotFrom r).map (fun r => .activatePromotion p r.id) ++
  List.replicate (s.slotNow - 10 * (s.gtc - 1) / 7) (.arbiterSlot p)

-- DESIGN CHOICE, safe: log entry 4.
/-- The inputs of this cycle. -/
def State.dueInputs (s : State) : List Act := (s.inputs.filter fun i => i.1 ≤ s.ticks).map fun i => .input i.2
-- DESIGN CHOICE, safe: log entry 4.
def State.takeInputs (s : State) : State := { s with agenda := s.agenda ++ s.dueInputs, inputs := s.inputs.filter fun i => s.ticks < i.1 }

/-- The launch unit's events: pre-empted regions that may go on, then records (R285, R287). -/
def State.launchEvents (s : State) : List Ev :=
  ((s.regions.filter s.resumable).map fun r => .resumption r.id) ++ s.lookAll

/-- What waits for the arbiters in a cycle beside the array's accesses: recalls, the requests of heath commands, and landings (R253, R256). -/
def State.dramCycle (s : State) : State :=
  let s1 := s.endRecalls
  (s1.hcmds.foldl State.feedCmd s1).landStep

/-- The erasure of alarm level 3 is done when its cycle has come (R366). -/
def State.eraseDue (s : State) : State := match s.eraseAt with | some g => if g ≤ s.ticks then s.erase else s | none => s

-- DEDUCED, unsafe: log entry 3.
def State.phaseClock (s : State) : State :=
  let s1 : State := { s with ticks := s.ticks + 1, hart := Hart.atTick (s.ticks + 1), gtc := if s.gtcRunning then s.gtc + 1 else s.gtc, mcirqSet := 0 }
  if !s.gtcRunning then s1.eraseDue.bootCycle.takeInputs
  else
    let s2 := s1.bootCycle
    let s3 := s2.busyMdws.foldl State.clockMeadow s2
    let s4 := s3.busyMdws.foldl State.settleMeadow s3
    let s5 := (s4.busyHcps.foldl State.meterHcp s4).prqFlush
    let s6 := (if s5.hcpTick then s5.busyHcps.foldl State.hcpCycleOf s5 else s5).dramCycle
    let s7 := s6.eraseDue
    let r := s7.busyArbs.foldl (fun (a : State × List Ev) p => let q := a.1.refreshes p; (q.1, a.2 ++ q.2 ++ q.1.arbEvents p)) (s7, [])
    { (r.1.takeInputs.later r.2).later r.1.launchEvents with phase := 1 }

/-! ## Part 1: arrivals -/

/-- Accesses of hasp tasks that their engines judge now, oldest task first (R323). -/
def insertAge (a : AgeKey × Ev) : List (AgeKey × Ev) → List (AgeKey × Ev)
  | [] => [a]
  | b :: t => if a.1.older b.1 then a :: b :: t else b :: insertAge a t
def partsDie (ps : List Part) : Nat := homeDie (((ps.head?).map (·.va)).getD 0)
def State.haspEvents (s : State) : List Ev :=
  let all := s.busyCtxs.flatMap fun q =>
    let k := s.ctx q.1 q.2
    ((k.landing.filter fun e => e.hasp && s.loadReady q.1 q.2 e).map fun e => (k.hasp.age, Ev.haspTouch (partsDie e.parts) e.id)) ++
    ((k.stores.filter fun p => s.haspStoreReady q.1 q.2 p).map fun p => (k.hasp.age, Ev.haspTouch (partsDie p.parts) p.id))
  (all.foldl (fun l a => insertAge a l) []).map (·.2)

def State.loadEvents (s : State) : List Ev :=
  s.busyCtxs.flatMap fun q => ((s.ctx q.1 q.2).landing.filter fun e => !e.hasp && s.loadReady q.1 q.2 e).map fun e => .loadDataArrival q.1 q.2 e.id

-- DEDUCED, unsafe: log entry 3.
def State.phaseArrive (s0 : State) : State :=
  let s := s0.busyMdws.foldl State.scrubRings s0
  { s.later (s.busyMdws.flatMap s.taskStarts ++ ([0, 1].filter s.engineDue).map Ev.syncRequestApply ++ s.haspEvents ++ s.loadEvents ++
      (s.busyHcps.filter fun h => (s.hcp h).load.isSome).map Ev.hcpLoadArrival) with phase := 2 }

/-! ## Part 2: the freeze -/

-- DEDUCED, unsafe: log entry 79.
/-- An MBEND is about to issue, and no slot that begins now starts a beat then (R317). -/
def State.mbendNow (s : State) (c : Nat) : Bool :=
  let s1 := s.modMdw c fun m => { m with frozen := m.late? s.gtc || m.stalled s.gtc }
  ctxNos.any fun x => s1.mayIssue c x .m && !(s.mdw c).drawHolds x s.gtc && (match s.headM c x with | some (.mbend _) => true | _ => false)

-- DEDUCED, unsafe: log entry 79.
def State.slotFirst (s : State) (c : Nat) : Bool :=
  let m := s.mdw c
  (match m.beat with | some b => b.slotNow s.gtc | none => false) && (m.slotFreezes s.gtc || !s.mbendNow c)

/-- A V-result for a queue enters after the S-stream's pushes of its cycle (R22). -/
def VFlight.toQueue (f : VFlight) : Bool := (opQueue? f.word.2.dst).isSome
def LandEntry.toQueue (e : LandEntry) : Bool := match e.dest with | .queue _ => true | _ => false

/-- Insert by the place of a word in its stream. -/
def insertId (a : Nat × Ev) : List (Nat × Ev) → List (Nat × Ev)
  | [] => [a]
  | b :: t => if a.1 < b.1 then a :: b :: t else b :: insertId a t
/-- Landings and V-results that are due: those of S-streams, then those of V-streams, each in the order in which their words were
issued (R27, R190); before them what a queue has kept waiting. -/
def State.landEvents (s : State) (c : Nat) (queues : Bool) : List Ev :=
  let m := s.mdw c
  let due (e : LandEntry) : Bool := e.toQueue == queues && decide (e.lam ≤ m.mtc)
  let report (e : LandEntry) : Bool := !queues && e.toQueue && e.resPred.isSome && decide (e.lam ≤ m.mtc)
  let lands (st : StreamId) (old : Bool) : List (Nat × Ev) := ctxNos.flatMap fun x =>
    ((m.ctx x).landing.filter fun e => e.stream == st && (due e || report e) && decide (e.lam < m.mtc) == old).map fun e => (e.id, Ev.loadLanding c x e.id)
  let vs (old : Bool) : List (Nat × Ev) := (m.flights.filter fun f => f.toQueue == queues).flatMap fun f =>
    (f.done.filter fun r => decide (r.due ≤ s.gtc) && decide (r.due < s.gtc) == old).map fun r => (f.id, Ev.vectorStepResult c f.id r.step)
  let sort (l : List (Nat × Ev)) : List Ev := (l.foldl (fun l a => insertId a l) []).map (·.2)
  sort (lands .s true ++ lands .s false) ++ sort (lands .v true ++ vs true) ++ sort (lands .v false ++ vs false)

/-- Results of the array and its paths. -/
def State.matrixEvents (s : State) (c : Nat) : List Ev :=
  let m := s.mdw c
  let g := s.gtc
  ((m.tileSteps.filter fun t => t.at_ + 272 == g).map fun t => .tileStepResult c t.id) ++
  ((m.mops.filter fun o => o.doneAt == g).map fun o => if o.isSta then .mstaComplete c o.id else if o.isDraw then .mdrawComplete c o.id else .mldbComplete c o.id) ++
  (match m.beat with
   | some b => (b.drains.filter fun d => d.at_ + d.rows.length == g && decide (d.rows.length < 128)).map (fun d => .beatDrain c d.rows.length) ++
       (if m.beatOver g then [.beatRunEnd c] else [])
   | none => [])

/-- Slots that begin now, and whether the meadow is frozen in this cycle. -/
def State.freezeEvents (s : State) (c : Nat) : List Ev := (if s.slotFirst c then [.beatSlotStart c] else []) ++ [.lateLandingFreeze c]

def State.resultEvents (s : State) (c : Nat) : List Ev :=
  let m := s.mdw c
  s.landEvents c false ++
  (ctxNos.filter fun x => (m.ctx x).sc.pend.any fun p => decide (p.due ≤ m.mtc)).map (fun x => .sWordResult (.stream c x .s)) ++
  s.matrixEvents c ++
  (ctxNos.filter fun x => (m.ctx x).dtopo.isSome).map (fun x => .dtopoComplete c x) ++
  (ctxNos.filter fun x => (m.ctx x).hasp.roll.isSome).map (fun x => .haspRollback c x)

def State.answerEvents (s : State) : List Ev :=
  (s.answers.filter fun a => decide (a.at_ ≤ s.gtc)).map fun a => .syncAnswerArrival a.coord a.ctx a.id

def State.phaseFreeze (s : State) : State := { s.later (s.busyMdws.flatMap s.freezeEvents) with phase := 3 }

/-! ## Part 3: landings and results -/

/-- MDEQs meet their ports behind the slots that start in this cycle (R310, R317); then landings, results and answers. -/
def State.phaseResult (s : State) : State :=
  let s1 := (s.meadows.map (·.1)).foldl State.beatPorts s
  { s1.later (s1.busyMdws.flatMap s1.resultEvents ++ s1.answerEvents) with phase := 4 }

/-! ## Part 4: S-words -/

def State.slots (s : State) (as_ : List Agent) : State := { s with agenda := s.agenda ++ as_.map .slot }

/-- BDWAITs are judged; then a slot for every S-stream that may issue and is at no boundary for a user-interrupt entry. -/
def State.phaseScalar (s0 : State) : State :=
  let s := (s0.meadows.map (·.1)).foldl State.beatWaits s0
  let due := s.busyCtxs.filter fun q => (s.ctx q.1 q.2).uiDue && s.ctxOpen q.1 q.2 && decide ((s.ctx q.1 q.2).sc.nextAt ≤ (s.mdw q.1).mtc)
  let s1 := due.foldl (fun s q => s.modCtx q.1 q.2 fun k => { k with uiNow := true }) s
  { s1.slots ((s.busyCtxs.filter fun q => s.mayIssue q.1 q.2 .s && !due.contains q).map fun q => .stream q.1 q.2 .s) with phase := 5 }

/-- The entries that boundaries of this cycle are for; a cause of the cycle goes before (R373). -/
def State.uiEvents (s : State) : List Ev := (s.busyCtxs.filter fun q => (s.ctx q.1 q.2).uiNow).map fun q => .userInterruptEntry q.1 q.2

/-! ## Readiness and the shared units (R292-R294) -/

/-- The state with a unit free, and with no other context's word on the array. -/
def State.freeUnit (s : State) (c x : Nat) (u : IssueUnit) : State :=
  s.modMdw c fun m =>
    let m1 := m.setUnit u { m.unit u with busyUntil := 0 }
    if u = .array then ctxNos.foldl (fun m y => if y = x then m else m.modCtx y fun k => { k with tileWord := none }) m1 else m1

-- DEDUCED, unsafe: log entry 31.
-- DEDUCED, unsafe: log entry 80.
/-- The head word would issue, or raise a cause, if its unit were free. -/
def State.ready (s : State) (c x : Nat) (st : StreamId) (u : IssueUnit) : Bool :=
  let s1 : State := { s.freeUnit c x u with cur := .stream c x st }
  match s1.fetch (.stream c x st) with
  | .word i => (match exec i s1 with | .next t => t.ctx c x != s1.ctx c x | _ => true)
  | _ => true

def unitStream : IssueUnit → StreamId | .vector => .v | _ => .m

/-- The context's head word is one for the unit and has no stamp. -/
def State.headFor (s : State) (c x : Nat) (u : IssueUnit) : Bool :=
  s.mayIssue c x (unitStream u) &&
  (u == .vector || (match s.headM c x with
    | some i => (s.ctx c x).unitFor i == some u && !(s.ctx c x).stampedHead i
    | none => false))

-- DEDUCED, unsafe: log entry 80.
def State.readyOn (s : State) (c : Nat) (u : IssueUnit) : List Nat := ctxNos.filter fun x => s.headFor c x u && s.ready c x (unitStream u) u

/-- Rank of a context in the order of R292: promoted, role, holder of the turn, number. -/
def Meadow.rankOn (m : Meadow) (u : IssueUnit) (x : Nat) : Nat :=
  let k := m.ctx x
  (((match tget k.promoted (unitIx u) with | some g => g | none => 2 ^ 80) * 4 + getField k.istat 26 2) * 2 + if (m.unit u).turn = some x then 0 else 1) * 4 + x

def Meadow.unitFree (m : Meadow) (g : Nat) (u : IssueUnit) : Bool :=
  decide ((m.unit u).busyUntil ≤ (if u = .vector then m.mtc else g)) && (u != .array || m.arrayWord.isNone)

-- DEDUCED, unsafe: log entry 80.
/-- The context that a free unit goes to. -/
def Meadow.winner (m : Meadow) (g : Nat) (u : IssueUnit) (rs : List Nat) : Option Nat :=
  if !m.unitFree g u then none
  else if m.timed then
    match (m.unit u).turn with
    | some y => if rs.contains y then some y else none
    | none => rs.head?
  else rs.foldl (fun (b : Option Nat) x => match b with | none => some x | some y => if m.rankOn u x < m.rankOn u y then some x else some y) none

/-- Ready cycles in a row, and cycles in which a timed holder is not ready. An issue of the cycle sets them back. -/
def Meadow.countReady (m : Meadow) (u : IssueUnit) (rs : List Nat) : Meadow :=
  let m1 := ctxNos.foldl (fun m x => m.modCtx x fun k =>
    { k with readyRun := if rs.contains x then tput k.readyRun (unitIx u) (tgetD k.readyRun (unitIx u) 0 + 1) else tdel k.readyRun (unitIx u) }) m
  match (m1.unit u).turn with
  | some y => if m1.timed then m1.setUnit u { m1.unit u with idle := if rs.contains y then 0 else (m1.unit u).idle + 1 } else m1
  | none => m1

/-- A unit's part of a cycle: the contexts that are ready for it, and the slot of the one it goes to. -/
def State.planUnit (s : State) (c : Nat) (u : IssueUnit) : State :=
  let m := s.mdw c
  if m.frozen || m.halted s.gtc then s else
  let rs := s.readyOn c u
  let s1 := s.setMdw c (m.countReady u rs)
  match m.winner s.gtc u rs with
  | some x => s1.slots [.stream c x (unitStream u)]
  | none => s1

/-! ## Part 5: V-words -/

-- DEDUCED, unsafe: log entry 5.
def State.sweepEvents (s : State) (c : Nat) : List Ev :=
  let m := s.mdw c
  (m.flights.filter fun f => decide (f.step < f.n) && decide (f.readAt f.step ≤ s.gtc)).map fun f => .vectorSweepStep c f.id

def State.phaseVector (s : State) : State :=
  let s1 := s.later (s.busyMdws.flatMap fun c => s.landEvents c true ++ s.sweepEvents c)
  { s1.busyMdws.foldl (fun s c => s.planUnit c .vector) s1 with phase := 6 }

/-! ## Part 6: M-words -/

-- DEDUCED, unsafe: log entry 40.
/-- Stamped words, lower contexts first (R140): a running word's step, or a word at the head. -/
def State.stampedActs (s : State) (c : Nat) : List Act :=
  let m := s.mdw c
  ctxNos.filterMap fun x =>
    if ((m.ctx x).tileWord.map fun t => t.due s.gtc true) = some true then some (.ev (.tileStepIssue c))
    else if s.mayIssue c x .m && (match s.headM c x with | some i => (m.ctx x).stampedHead i | none => false) then some (.slot (.stream c x .m))
    else none

/-- M-words that need no unit, and words whose fetch raises a cause. -/
def State.freeHeads (s : State) (c : Nat) : List Agent :=
  (ctxNos.filter fun x => s.mayIssue c x .m && (match s.headM c x with | some i => ((s.ctx c x).unitFor i).isNone | none => true)).map fun x => .stream c x .m

def State.mdwMatrix (s : State) (c : Nat) : State :=
  let s1 : State := { s with agenda := s.agenda ++ s.stampedActs c }
  let s2 := s1.later [.tileStepIssue c]
  let s3 := [IssueUnit.array, .load, .drain].foldl (fun s u => s.planUnit c u) s2
  (s3.slots (s.freeHeads c)).later (match (s.mdw c).beat with | some b => if b.slotNow s.gtc then [.beatSlotStart c] else [] | none => [])

def State.phaseMatrix (s : State) : State := { s.busyMdws.foldl State.mdwMatrix s with phase := 7 }

/-! ## Part 7: engines -/

/-- The event that starts a command. -/
def seStartEv (c x op : Nat) : Ev := match op with | 1 => .seGather c x | 2 => .seScatter c x | 15 => .seSync c x | _ => .sePattern c x

-- DESIGN CHOICE, unsafe: log entry 61.
/-- A meadow's stream engine: contexts in turn, eight granules of 64 bytes at most (R204). -/
def State.seEvents (s : State) (c : Nat) : List Ev :=
  let m := s.mdw c
  if m.halted s.gtc then [] else
  let turns := ctxNos.map fun i => (m.seTurn + i) % 4
  (turns.flatMap fun x =>
    let k := m.ctx x
    (if m.seFinish x s.gtc then [.seCommandComplete c x] else []) ++
    (if (k.se.fetchNext).isSome then [.seChainFetch c x] else []) ++
    (match s.seStartable c x with | some r => [seStartEv c x r.op] | none => [])) ++
  (List.range 8).flatMap fun _ => (turns.filter fun x => match (m.ctx x).se.run with | some r => r.moving s.gtc | none => false).map fun x => .seGranuleMove c x

def State.drainEvents (s : State) (c : Nat) : List Ev :=
  ((s.mdw c).bufs.filter fun b => b.2.state == .draining).map fun b => .bufferDrainEmpty c b.1

def State.heathEvents (s : State) : List Ev :=
  if !s.hcpTick then [] else
  ((s.hcmds.filter fun c => c.started && c.doneAt != 0 && decide (c.doneAt ≤ s.hcpCycle)).map fun c => .heathCommandComplete c.id) ++
  ((s.hcmds.filter fun c => !c.started && decide (c.readyAt ≤ s.hcpCycle)).map fun c => .heathCommandStart c.id)

def State.phaseEngine (s0 : State) : State :=
  let s := s0.busyMdws.foldl State.portReads s0
  { (s.later (s.busyMdws.flatMap (fun c => s.seEvents c ++ s.drainEvents c) ++ s.heathEvents)).slots ((s.busyHcps.filter s.hcpIssues).map .hcp) with phase := 8 }

/-! ## Part 8: ends -/

def State.turnEvents (s : State) (c : Nat) : List Ev :=
  let m := s.mdw c
  [IssueUnit.vector, .array, .load, .drain].flatMap fun u =>
    (ctxNos.filter fun x => !m.timed && decide (m.limit ≤ tgetD (m.ctx x).readyRun (unitIx u) 0) && (tget (m.ctx x).promoted (unitIx u)).isNone).map (fun x => .contextPromotion c x u) ++
    (match (m.unit u).turn with | some x => if m.timed && ((m.ctx x).unitOver u || decide (m.limit ≤ (m.unit u).idle)) then [.turnTimeout c u] else [] | none => [])

/-- What may stop a fault domain, lower meadows and then lower contexts first (R360). -/
def State.causeEvents (s : State) (c : Nat) : List Ev :=
  (ctxNos.filter fun x => (s.ctx c x).trap.isSome && s.trapQuiet c x).map (fun x => .trapEntry c x) ++ if (s.mdw c).stuck s.gtc then [.preemptStuck c] else []

/-- A meadow whose stop is served; behind every stop of the cycle, so that nothing is saved of a meadow that one of them meets (R360). -/
def State.stopEvents (s : State) (c : Nat) : List Ev :=
  match (s.mdw c).stopping with
  | none => []
  | some st => if s.drained c st.why.saver then [.preemption c] else []

def State.taskEnds (s : State) (q : Nat × Nat) : List Ev := if s.taskOver q.1 q.2 then [.taskEnd q.1 q.2] else []

def State.hostEvents (s : State) : List Ev :=
  ((s.reclaims.filter fun r => r.started && decide (r.since < s.gtc)).map fun r => .reclaimComplete r.id) ++
  ((s.pageReqs.filter fun q => q.out && decide (q.since + 2 ^ 31 ≤ s.gtc)).map fun q => .pageRequestTimeout q.seq)

/-- The management core's loop runs once the device is in service (R339). -/
def State.genEvents (s : State) : List Ev :=
  if s.bootStep < 6 then []
  else if s.gen.inFlight then (if s.genDue || (s.gen.retry && s.genRoom) then [.genCommit] else [])
  else if s.genRoom then [.genIterationIssue] else []

def State.periodEvents (s : State) : List Ev :=
  (if s.gtc % 4096 = 0 then [.energyCharge] else []) ++ if s.gtc % 14000 = 0 then [.powerCompare] else []

def State.phaseEnd (s : State) : State :=
  { s.later (s.uiEvents ++ s.busyMdws.flatMap s.causeEvents ++ s.busyCtxs.flatMap s.taskEnds ++ s.busyMdws.flatMap (fun c => s.turnEvents c ++ s.stopEvents c) ++
      ((s.launches.filter s.launchDone).map fun l => .launchCompletion l.id) ++ s.hostEvents ++ s.genEvents ++ s.periodEvents) with phase := 0 }

-- DEDUCED, unsafe: log entry 3.
/-- The agenda is empty: the next part of the cycle, or the next cycle. -/
def State.tick (s : State) : State :=
  match s.phase with
  | 0 => s.phaseClock
  | 1 => s.phaseArrive
  | 2 => s.phaseFreeze
  | 3 => s.phaseResult
  | 4 => s.phaseScalar
  | 5 => s.phaseVector
  | 6 => s.phaseMatrix
  | 7 => s.phaseEngine
  | _ => s.phaseEnd

end Sys2Proof.Machine
end

