-- ==== Sys2Proof/Machine/Step.lean ====
section
/-! DEFINITION. One step of the machine: the next entry of the agenda of the current GTC cycle, or, when the agenda is empty, the next
part of the cycle (log entry 3). -/
namespace Sys2Proof.Machine

def step (s : State) : Host.Outcome State Fault Refusal :=
  match s.agenda with
  | [] => .next s.tick
  | a :: rest => runAct a { s with agenda := rest }

/-! ## Placing one word (log entry 22) -/

/-- A resident, device-owned entry for frame 0 under key slot 0, with READ, WRITE and EXEC. -/
def openEntry : W64 := BitVec.ofNat 64 (2 ^ 63 + 2 ^ 62 + 2 ^ 11 + 2 ^ 10 + 2 ^ 9)

-- DESIGN CHOICE, safe: log entry 22.
/-- A context whose three streams run and would fetch at virtual address 0. -/
def Ctx.atZero (k : Ctx) : Ctx :=
  { k with
    sc := { k.sc with pc := 0, nextAt := 0 }, vpc := 0, mpc := 0, sBase := 0, vBase := 0, mBase := 0, vNextAt := 0, mNextAt := 0
    sRun := true, vRun := true, mRun := true, trap := none, tcause := k.tcause &&& ~~~0x4000#64, sWait := none, dtopo := none
    hasp := { k.hasp with roll := none } }

/-- A meadow that serves a region and lets context 0 issue, with page 0 of its window open. -/
def Meadow.atZero (m : Meadow) : Meadow :=
  { m with
    region := some (m.region.getD 0), frozen := false, stopping := none, units := [], window := tput m.window 0 openEntry
    ctxs := tput m.ctxs 0 (m.ctx 0).atZero }

/-- An HCP that runs a kernel and would fetch at physical address 0. -/
def Hcp.atZero (h : Hcp) : Hcp :=
  { h with
    running := true, load := none, ending := none, hi := 0, pages := [⟨0, 0⟩], sc := { h.sc with pc := 0, nextAt := 0 } }

-- DESIGN CHOICE, safe: log entry 22.
/-- Bytes at the bottom of memory as plain text, held by no engine and not poisoned. -/
def State.putWord (s : State) (n w : Nat) : State :=
  { s with
    mem := Memory.writeN s.mem 0 n w, poisoned := s.poisoned.filter (· != 0), lineKey := s.lineKey.filter (·.1 != 0)
    keys := if (tget s.keys 0).isSome then s.keys else tput s.keys 0 0
    engines := s.engines.map fun e => (e.1, { e.2 with lines := e.2.lines.filter fun l => l.pa != 0 }) }

-- DESIGN CHOICE, safe: log entry 22.
/-- The state whose next step runs one word: it lies at address 0 of memory, its stream of context 0 of meadow 0, or HCP 0 for a heath
word, is about to fetch it, and its issue slot is the agenda. -/
def State.withFetchWord (s : State) (nbits w : Nat) : State :=
  let v := w % 2 ^ nbits
  if nbits ≤ 32 ∧ v / 2 ^ 24 % 64 = 0x3E then
    { (s.putWord 4 v).modHcp 0 Hcp.atZero with edge := s.gtc % 14, agenda := [.slot (.hcp 0)] }
  else
    let q : Nat × StreamId := if nbits ≤ 32 then (4, .s) else if nbits ≤ 96 then (12, .v) else (24, .m)
    { (s.putWord q.1 v).modMdw 0 Meadow.atZero with agenda := [.slot (.stream 0 0 q.2)] }

end Sys2Proof.Machine
end

