-- ==== Sys2Proof/Safety.lean ====
section
/-! DEFINITION. What counts as a safe state, and the terms that statements are written in: what a register is seen to hold, what a
word that issues leaves alone, and the results of integer operations as the spec writes them, over integers. -/
namespace Sys2Proof

open Sys2Proof.Machine

/-! ## Safe states -/

/-- DRAM and second-tier memory, as the model lists them, are in canonical form: addresses strictly rising, no byte 0 listed. -/
def memorySafe (s : State) : Prop := Memory.wf s.mem

/-! ## Completion -/

/-- An instruction that answers a next state in every state: nothing that the machine can hold makes it stop. Said of the events beside
what each does. -/
def Completes (i : Instr) : Prop := ∀ s, ∃ t, exec i s = .next t

/-- A write of a register of the management window that finds somebody to answer it (R388, R394): the host's, by the event that the opcode
table has for the register, or anybody's by REGISTER_WRITE at its offset. -/
def WritesWindow (s : State) (own : Instr) (off : Nat) (v : W64) (i : Instr) : Prop :=
  (s.windowOff false = false ∧ i = own) ∨ ∃ byM, s.windowOff byM = false ∧ i = .registerWrite byM off v

/-! ## Memory as the model reads it -/

/-- Every byte of memory reads as before. -/
def memSame (s t : State) : Prop := ∀ a, Memory.read t.mem a = Memory.read s.mem a

/-- Every line of a range holds plain text under a key slot: nothing has written it under another key (R361). -/
def plainUnder (s : State) (key pa len : Nat) : Prop :=
  ∃ k, tget s.keys key = some k ∧ ∀ l ∈ lineNos pa len, tget s.lineKey l = none ∨ tget s.lineKey l = some k

/-- From s to t, the bytes of a range that a mask selects become those of v, and every other byte of memory reads as before. -/
def WritesBytes (s t : State) (pa len v mask : Nat) : Prop :=
  (∀ i, i < len → mask.testBit i = true → (Memory.read t.mem (pa + i)).toNat = v / 2 ^ (8 * i) % 256) ∧
  ∀ a, (a < pa ∨ pa + len ≤ a ∨ mask.testBit (a - pa) = false) → Memory.read t.mem a = Memory.read s.mem a

/-! ## Scalar results -/

/-- What register r of the executing core holds in cycle d: of the results for r that are due by then the one of the latest cycle, and
among equals the later word's; else what it holds now (R26, R27, R96). -/
def seen (s : State) (d r : Nat) : W32 :=
  if r = 0 then 0
  else (s.core.pend.foldl (fun b p => if p.reg = r ∧ p.due ≤ d ∧ b.1 ≤ p.due then (p.due, p.val) else b) (0, s.core.get r)).2

/-- In cycle d, no earlier word's result for register r is due later than cycle `due` (R96: such a result overtakes). -/
def noLater (s : State) (due d r : Nat) : Prop := ∀ p ∈ s.core.pend, p.reg = r → p.due ≤ d → p.due ≤ due

/-- An S-word has issued in state s, giving t: only the executing core differs, no byte of memory changes, the counter is at `pc`, and
the next word issues no earlier than `next`. -/
structure Issued (s t : State) (pc : W32) (next : Nat) : Prop where
  frame : t = s.setCore t.core
  mem : memSame s t
  pc : t.core.pc = pc
  next : t.core.nextAt = next

/-- Every register is seen in t as in s, whatever the cycle. -/
def regsSame (s t : State) : Prop := ∀ d r, seen t d r = seen s d r

/-- Register rd holds v from cycle `due` on, until a result of an earlier word that is due later overtakes it; s0 is always 0. Before
cycle `due`, and in every other register, nothing changes. -/
structure RegGets (s t : State) (due rd : Nat) (v : W32) : Prop where
  after : ∀ d, due ≤ d → noLater s due d rd → seen t d rd = if rd = 0 then 0 else v
  other : ∀ d r, r ≠ rd ∨ d < due → seen t d r = seen s d r

/-- The same for the two registers of pair n, where of d0 only s1 is written. -/
structure PairGets (s t : State) (due n : Nat) (v : W64) : Prop where
  low : ∀ d, due ≤ d → noLater s due d (2 * n) → seen t d (2 * n) = if n = 0 then 0 else v.extractLsb' 0 32
  high : ∀ d, due ≤ d → noLater s due d (2 * n + 1) → seen t d (2 * n + 1) = v.extractLsb' 32 32
  other : ∀ d r, (r ≠ 2 * n ∧ r ≠ 2 * n + 1) ∨ d < due → seen t d r = seen s d r

/-- The word completes: it goes on at the next word under its issue control, and register rd gets v `lat` cycles after issue. -/
def givesReg (s : State) (i : Instr) (ic : BitVec 2) (lat rd : Nat) (v : W32) : Prop :=
  ∃ t, exec i s = .next t ∧ Issued s t (s.core.pc + 4) (s.clock + icGap ic) ∧ RegGets s t (s.clock + lat) rd v

/-- The same for a pair. -/
def givesPair (s : State) (i : Instr) (ic : BitVec 2) (lat n : Nat) (v : W64) : Prop :=
  ∃ t, exec i s = .next t ∧ Issued s t (s.core.pc + 4) (s.clock + icGap ic) ∧ PairGets s t (s.clock + lat) n v

/-- The word completes as a transfer of control: the target issues no earlier than three cycles after it (R95). -/
def transfers (s : State) (i : Instr) (ic : BitVec 2) (taken : Prop) [Decidable taken] (target : Int) : Prop :=
  ∃ t, exec i s = .next t ∧ regsSame s t ∧
    (if taken then Issued s t (BitVec.ofInt 32 target) (max (s.clock + 3) (s.clock + icGap ic))
     else Issued s t (s.core.pc + 4) (s.clock + icGap ic))

/-! ## Words that touch more than their core -/

/-- Everything outside context x of meadow c stays, the engines, the arbiters and the model's own counters apart: other meadows, other
contexts, what the meadow's contexts share, the keys, and every byte of memory. -/
structure OnlyCtx (s t : State) (c x : Nat) : Prop where
  meadows : ∀ d, d ≠ c → t.mdw d = s.mdw d
  ctxs : ∀ y, y ≠ x → t.ctx c y = s.ctx c y
  shared : { t.mdw c with ctxs := [] } = { s.mdw c with ctxs := [] }
  keys : t.keys = s.keys
  mem : memSame s t

/-- Every other meadow, the keys and every byte of memory stay. -/
structure OnlyMdw (s t : State) (c : Nat) : Prop where
  meadows : ∀ d, d ≠ c → t.mdw d = s.mdw d
  keys : t.keys = s.keys
  mem : memSame s t

/-- The word has issued: the counter moves on by one word, and the next issue obeys issue control. -/
structure Advanced (s t : State) (ic : BitVec 2) : Prop where
  pc : t.core.pc = s.core.pc + 4
  next : t.core.nextAt = s.clock + icGap ic

/-- The S-stream of context x of meadow c executes, outside a hasp task, and no register of the word is awaited. -/
structure Ready (s : State) (c x : Nat) (regs : List Nat) : Prop where
  cur : s.cur = .stream c x .s
  free : s.held regs = false
  plain : (s.ctx c x).hasp.state ≠ .active

/-- One request has been sent to the home engine of a line, and nothing else has happened in the engines. -/
structure Sends (s t : State) (p : Part) (c x : Nat) (r : SyncReq) : Prop where
  reqs : (t.eng (homeDie p.va)).reqs = (s.eng (homeDie p.va)).reqs ++ [r]
  lines : ∀ d, (t.eng d).lines = (s.eng d).lines
  other : ∀ d, d ≠ homeDie p.va → t.eng d = s.eng d
  place : r.va = p.va ∧ r.pa = p.pa ∧ r.key = p.key
  sender : r.coord = c ∧ r.ctx = x ∧ r.heath = false
  later : s.gtc < r.at_

/-- The registers that an ATOM or RED reads, and its operand (R231). -/
def atomUses (wide : Bool) (ra : BitVec 5) (rb : BitVec 6) : List Nat :=
  [2 * ra.toNat, 2 * ra.toNat + 1] ++ if wide then [rb.toNat, rb.toNat + 1] else [rb.toNat]

/-! ## Integer results as the spec writes them -/

/-- The quotient of R76, truncated toward zero and saturating, for a type with the range lo to hi. -/
def quotient (lo hi a b : Int) : Int :=
  if b = 0 then (if a = 0 then 0 else if 0 < a then hi else lo) else max lo (min hi (a.tdiv b))

/-- The remainder a − b × quotient, with R76's remainder of a division by 0 and of −2^31 ÷ −1. -/
def remainder (a b : Int) : Int := if b = 0 then a else a - b * a.tdiv b

/-- 1 when a condition holds, else 0. -/
def oneIf (p : Prop) [Decidable p] : W32 := if p then 1 else 0

/-! ## Vector and matrix words -/

/-- The V-stream of context x of meadow c stands at word i, its tiles are granted, and nothing holds it. -/
structure VReady (s : State) (c x : Nat) (i : Instr) (op : BitVec 8) (w : VWord) : Prop where
  cur : s.cur = .stream c x .v
  word : vParts i = some (op, w)
  granted : vUngranted (s.ctx c x) op.toNat w = none
  free : s.vHeld c x op.toNat w = false

/-- A V-word has issued: its counter moves on by 12 bytes and its issue control holds; no row and no byte of memory has changed yet. -/
structure VIssued (s t : State) (c x : Nat) (ic : BitVec 2) : Prop where
  only : OnlyMdw s t c
  ctxs : ∀ y, y ≠ x → t.ctx c y = s.ctx c y
  pc : (t.ctx c x).vpc = (s.ctx c x).vpc + 12
  next : (t.ctx c x).vNextAt = (s.mdw c).mtc + icGap ic
  scalar : (t.ctx c x).sc = (s.ctx c x).sc
  rows : ∀ v, (t.mdw c).row v = (s.mdw c).row v
  poison : ∀ v, (t.mdw c).poisoned v = (s.mdw c).poisoned v
  preds : ∀ p, (t.ctx c x).pred p = (s.ctx c x).pred p

/-- The V-words that sweep rows (R112, R116). -/
def sweepWords (w : VWord) : List Instr :=
  [.vadd w, .vsub w, .vmul w, .vfma w, .vmin w, .vmax w, .vabs w, .vneg w, .vexp2 w, .vlog2 w, .vrcp w, .vrsq w, .vsqrt w, .vcmpEq w, .vcmpNe w,
   .vcmpLt w, .vcmpLe w, .vcmpGt w, .vcmpGe w, .vcmpUn w, .vsel w, .vcvt w, .vscale w] ++
  [.vand w, .vor w, .vxor w, .vnot w, .vshl w, .vshr w, .vsra w, .vpopc w, .vclz w, .vmulh w, .vperm w, .vbcast w, .viota w, .vrot w, .vcomp w,
   .vmov w, .vrsum w, .vrmax w, .vrmin w, .vscan w, .vscanmax w, .pand w, .por w, .pxor w, .pnot w, .vld w, .vst w, .vlds w, .vsts w, .vdraw w,
   .vdmrg w, .dtree w]

/-- Lane j of a row, in a type of `width` bits. -/
def laneOf (width : Nat) (r : Row) (j : Nat) : Nat := r.toNat / 2 ^ (width * j) % 2 ^ width

/-- Node m of level lv of a pairwise tree over the lanes of a row, where a lane may be absent (R129). -/
def treeNode (op : Nat → Nat → Nat) (leaf : Nat → Option Nat) : Nat → Nat → Option Nat
  | 0, m => leaf m
  | lv + 1, m =>
    match treeNode op leaf lv (2 * m), treeNode op leaf lv (2 * m + 1) with
    | none, y => y
    | some x, none => some x
    | some x, some y => some (op x y)

/-- The running value of a scan behind its first j lanes, absent before the first active one (R130). -/
def runValue (op : Nat → Nat → Nat) (on : Nat → Bool) (lane : Nat → Nat) : Nat → Option Nat
  | 0 => none
  | j + 1 =>
    if on j then some (match runValue op on lane j with | none => lane j | some r => op r (lane j)) else runValue op on lane j

/-- Node m of level lv of the lane tree of a draw over `lanes` leaves, whose merges are numbered level by level (R160). -/
def drawNode (coin : Nat → Nat) (lanes : Nat) (leaf : Nat → DPair) : Nat → Nat → DPair
  | 0, m => leaf m
  | lv + 1, m => drawMerge coin (lanes - lanes / 2 ^ lv + m) (drawNode coin lanes leaf lv (2 * m)) (drawNode coin lanes leaf lv (2 * m + 1))

/-- Flight f of meadow c, of word i, has its next step to make now: its read cycle has come and the queues it
pops hold their entries, none of its earlier results is outstanding, and no row is poisoned. -/
structure Sweeping (s : State) (c : Nat) (f : VFlight) (i : Instr) : Prop where
  found : (s.mdw c).flights.find? (·.id == f.id) = some f
  word : f.ins = i
  step : f.step < f.n
  reads : f.readAt f.step ≤ s.gtc
  fed : f.fed ((s.mdw c).ctx f.ctx) s.gtc = true
  fresh : f.done = []
  clean : ∀ v, (s.mdw c).poisoned v = false

/-- The step has been made: its result r waits for its result cycle, which is as late as the read was. -/
def StepGives (s : State) (c : Nat) (f : VFlight) (r : VResult) : Prop :=
  ∃ t g, exec (.vectorSweepStep c f.id) s = .next t ∧ (t.mdw c).flights.find? (·.id == f.id) = some g ∧ g.step = f.step + 1 ∧ g.done = [r] ∧
    r.step = f.step ∧ r.due = f.resAt f.step + (s.gtc - f.readAt f.step) ∧ OnlyMdw s t c ∧ (∀ v, (t.mdw c).row v = (s.mdw c).row v)

/-- The M-stream of context x of meadow c executes, and no draw keeps it. -/
structure MReady (s : State) (c x : Nat) : Prop where
  cur : s.cur = .stream c x .m
  free : (s.mdw c).drawHolds x s.gtc = false

/-- An M-word has issued: its counter moves on by 24 bytes, its issue control holds, and memory stays. -/
structure MIssued (s t : State) (c x : Nat) (ic : BitVec 2) : Prop where
  only : OnlyMdw s t c
  ctxs : ∀ y, y ≠ x → t.ctx c y = s.ctx c y
  pc : (t.ctx c x).mpc = (s.ctx c x).mpc + 24
  next : (t.ctx c x).mNextAt = (s.mdw c).mtc + icGap ic
  scalar : (t.ctx c x).sc = (s.ctx c x).sc

/-- A tile-step word may issue its next step: grants, descriptors, formats, the tile's bit, buffers and the array (R134-R146). -/
structure StepReady (s : State) (c x : Nat) (tw : TileWord) : Prop where
  waits : (s.mdw c).stepWaits x s.gtc tw (tw.plan (s.mdw c) tw.next) tw.next = false
  fate : (s.mdw c).stepFate (s.ctx c x) tw (tw.plan (s.mdw c) tw.next) = .go
  array : s.arrayHeld c x = false
  clean : (s.mdw c).ecc = [] ∧ (s.mdw c).badWords = []

/-- A step of a tile-step word has issued: it holds the array for 128 cycles, and after its last step the word has issued. -/
def StepIssues (s : State) (i : Instr) (c x : Nat) (ic : BitVec 2) (tw : TileWord) : Prop :=
  let p := tw.plan (s.mdw c) tw.next
  ∃ t e, exec i s = .next t ∧ OnlyMdw s t c ∧ (∀ y, y ≠ x → t.ctx c y = s.ctx c y) ∧ (t.mdw c).tileSteps = (s.mdw c).tileSteps ++ [e] ∧
    e.ctx = x ∧ e.at_ = s.gtc ∧ e.step = tw.next ∧ e.tile = p.tile ∧ e.overwrite = p.overwrite ∧ e.markFull = p.full ∧ e.rm = p.rm ∧
    ((t.mdw c).unit .array).busyUntil = s.gtc + 128 ∧ (∀ v, (t.mdw c).row v = (s.mdw c).row v) ∧
    (if tw.total ≤ tw.next + 1 then MIssued s t c x ic ∧ (t.ctx c x).tileWord = none
     else (t.ctx c x).mpc = (s.ctx c x).mpc ∧
       ∃ u, (t.ctx c x).tileWord = some u ∧ u.running = true ∧ u.next = tw.next + 1 ∧ u.lastAt = s.gtc ∧ u.total = tw.total)

end Sys2Proof
end

