-- ==== Sys2Proof/WellFormed.lean ====
section
/-! DEFINITION. Well-formed instructions: those whose word breaks no rule a word alone can break (R51). -/
namespace Sys2Proof

/-- The variant a V-word or M-word constructor names agrees with the field that tells the variants apart (R132, R148). -/
def Instr.variantOk : Instr → Bool
  | .vmarkFull w => w.src1 == .imm 1
  | .vmarkEmpty w => w.src1 != .imm 1
  | .mldbSpad w => match w.srcA with | .desc _ => true | .breg _ => false
  | .mldbAcc w => match w.srcA with | .desc _ => false | .breg _ => true
  | _ => true

/-- An instruction word is well-formed when its encoding violates nothing; an event is no word and is always so. -/
def Instr.wellFormed (i : Instr) : Bool :=
  match encodeS i with
  | some w => (worst (sViol w)).isNone
  | none => match encodeV i with
    | some w => (worst (vViol w)).isNone && i.variantOk
    | none => match encodeM i with
      | some w => (worst (mViol w)).isNone && i.variantOk
      | none => true

end Sys2Proof
end

