-- ==== Sys2Proof/Certificates/Slice0/Obligations.lean ====
section
/-! DEFINITION. The statements for the provers. A statement about a state holds for every state that meets its hypotheses, whether or not a
run reaches it. Its docstring cites the rules it rests on, and names the log entry where it rests on a choice of the model. -/
open Sys2Proof Sys2Proof.Machine

/-! ## Scalar words -/

/-- R97: what each register form writes, over integers, for every register and every value of the operands, with the whole of s[rb] as the
shift amount; a func value that is not listed is refused with RES_FUNC. The cycle is the latency of R94; s0 stays 0, and nothing but the
core changes. -/
def Obligations.RegisterForms : Prop :=
  (∀ (s : State) (ic : BitVec 2) (rd ra rb : BitVec 6),
    s.cur ≠ .device → s.held [rd.toNat, ra.toNat, rb.toNat] = false →
    let a := s.core.get ra.toNat
    let b := s.core.get rb.toNat
    let gives (i : Instr) (lat : Nat) (v : Int) := givesReg s i ic lat rd.toNat (BitVec.ofInt 32 v)
    gives (.add ic rd ra rb) 1 (a.toNat + b.toNat) ∧ gives (.sub ic rd ra rb) 1 (a.toNat - b.toNat) ∧
    gives (.and ic rd ra rb) 1 (a.toNat &&& b.toNat : Nat) ∧ gives (.or ic rd ra rb) 1 (a.toNat ||| b.toNat : Nat) ∧
    gives (.xor ic rd ra rb) 1 (a.toNat ^^^ b.toNat : Nat) ∧
    gives (.shl ic rd ra rb) 1 (if b.toNat < 32 then a.toNat * 2 ^ b.toNat else 0) ∧
    gives (.shr ic rd ra rb) 1 (if b.toNat < 32 then (a.toNat : Int) / 2 ^ b.toNat else 0) ∧
    gives (.sra ic rd ra rb) 1 (if b.toNat < 32 then a.toInt / 2 ^ b.toNat else if 0 ≤ a.toInt then 0 else 0xFFFFFFFF) ∧
    gives (.mul ic rd ra rb) 3 (a.toNat * b.toNat) ∧
    gives (.mulh ic rd ra rb) 3 (a.toInt * b.toInt / 2 ^ 32) ∧ gives (.mulhu ic rd ra rb) 3 (a.toNat * b.toNat / 2 ^ 32) ∧
    gives (.div ic rd ra rb) 18 (quotient (-2 ^ 31) (2 ^ 31 - 1) a.toInt b.toInt) ∧
    gives (.rem ic rd ra rb) 18 (remainder a.toInt b.toInt) ∧
    gives (.divu ic rd ra rb) 18 (quotient 0 (2 ^ 32 - 1) a.toNat b.toNat) ∧
    gives (.remu ic rd ra rb) 18 (remainder a.toNat b.toNat) ∧
    gives (.min ic rd ra rb) 1 (min a.toInt b.toInt) ∧ gives (.max ic rd ra rb) 1 (max a.toInt b.toInt) ∧
    gives (.minu ic rd ra rb) 1 (min a.toNat b.toNat : Nat) ∧ gives (.maxu ic rd ra rb) 1 (max a.toNat b.toNat : Nat) ∧
    gives (.seq ic rd ra rb) 1 (if a.toNat = b.toNat then 1 else 0) ∧ gives (.sne ic rd ra rb) 1 (if a.toNat = b.toNat then 0 else 1) ∧
    gives (.slt ic rd ra rb) 1 (if a.toInt < b.toInt then 1 else 0) ∧ gives (.sge ic rd ra rb) 1 (if b.toInt ≤ a.toInt then 1 else 0) ∧
    gives (.sltu ic rd ra rb) 1 (if a.toNat < b.toNat then 1 else 0) ∧ gives (.sgeu ic rd ra rb) 1 (if b.toNat ≤ a.toNat then 1 else 0)) ∧
  (∀ w : W32, (sMajor w).toNat = 0x01 → 0x1D < (sFunc w).toNat ∨ (0x12 < (sFunc w).toNat ∧ (sFunc w).toNat < 0x18) →
    ∃ r, decodeS w = .error r ∧ r.cause = .resFunc)

/-- R98: what each immediate form writes, for every immediate that its word can hold; a shift form whose imm12 is 32 or more is refused with
RES_OPERAND. -/
def Obligations.ImmediateForms : Prop :=
  (∀ (s : State) (ic : BitVec 2) (rd ra : BitVec 6) (imm : BitVec 12) (sh : BitVec 5),
    s.cur ≠ .device → s.held [rd.toNat, ra.toNat] = false →
    let a := s.core.get ra.toNat
    let gives (i : Instr) (v : Int) := givesReg s i ic 1 rd.toNat (BitVec.ofInt 32 v)
    gives (.addi ic rd ra imm) (a.toNat + imm.toInt) ∧ gives (.andi ic rd ra imm) (a.toNat &&& imm.toNat : Nat) ∧
    gives (.ori ic rd ra imm) (a.toNat ||| imm.toNat : Nat) ∧ gives (.xori ic rd ra imm) (a.toNat ^^^ imm.toNat : Nat) ∧
    gives (.shli ic rd ra sh) (a.toNat * 2 ^ sh.toNat) ∧ gives (.shri ic rd ra sh) ((a.toNat : Int) / 2 ^ sh.toNat) ∧
    gives (.srai ic rd ra sh) (a.toInt / 2 ^ sh.toNat) ∧
    gives (.slti ic rd ra imm) (if a.toInt < imm.toInt then 1 else 0) ∧
    gives (.sltiu ic rd ra imm) (if (a.toNat : Int) < imm.toInt % 2 ^ 32 then 1 else 0)) ∧
  (∀ w : W32, 0x07 ≤ (sMajor w).toNat → (sMajor w).toNat ≤ 0x09 → 32 ≤ (sImm12 w).toNat →
    ∃ r, decodeS w = .error r ∧ r.cause = .resOperand)

/-- R99: LIH shifts its immediate into the register, and two LIH words set it to any constant, whatever it held before. -/
def Obligations.UpperImmediateForm : Prop :=
  (∀ (s : State) (ic : BitVec 2) (rd : BitVec 6) (up : BitVec 18), s.cur ≠ .device → s.held [rd.toNat] = false →
    givesReg s (.lih ic rd up) ic 1 rd.toNat (BitVec.ofNat 32 ((s.core.get rd.toNat).toNat * 2 ^ 18 + up.toNat))) ∧
  (∀ (s t u : State) (ic jc : BitVec 2) (rd : BitVec 6) (x : W32), rd ≠ 0 → s.cur ≠ .device → s.core.pend = [] → s.held [rd.toNat] = false →
    exec (.lih ic rd ((x.extractLsb' 18 14).setWidth 18)) s = .next t →
    exec (.lih jc rd (x.extractLsb' 0 18)) (t.setCore (t.core.settle (s.clock + 1))) = .next u →
    ∀ d, u.clock + 1 ≤ d → seen u d rd.toNat = x)

/-- R100: the pair forms, for every pair and every amount; of d0 only s1 is written; every other func value of major 0x02 is refused with
RES_FUNC, and an odd pair field with RES_OPERAND. -/
def Obligations.PairForms : Prop :=
  (∀ (s : State) (ic : BitVec 2) (rd ra rp : BitVec 5) (rb : BitVec 6) (imm : BitVec 12),
    s.cur ≠ .device → s.held (pairRegs rd ++ pairRegs ra ++ pairRegs rp) = false → s.held (pairRegs rd ++ pairRegs ra ++ [rb.toNat]) = false →
    let a := s.core.getD ra.toNat
    let b := s.core.get rb.toNat
    let gives (i : Instr) (v : Int) := givesPair s i ic 1 rd.toNat (BitVec.ofInt 64 v)
    gives (.addd ic rd ra rp) (a.toNat + (s.core.getD rp.toNat).toNat) ∧ gives (.subd ic rd ra rp) (a.toNat - (s.core.getD rp.toNat).toNat) ∧
    gives (.shld ic rd ra rb) (if b.toNat < 64 then a.toNat * 2 ^ b.toNat else 0) ∧
    gives (.shrd ic rd ra rb) (if b.toNat < 64 then (a.toNat : Int) / 2 ^ b.toNat else 0) ∧
    gives (.srad ic rd ra rb) (if b.toNat < 64 then a.toInt / 2 ^ b.toNat else if 0 ≤ a.toInt then 0 else -1) ∧
    gives (.adddi ic rd ra imm) (a.toNat + imm.toInt)) ∧
  (∀ w : W32, (sMajor w).toNat = 0x02 → 0x04 < (sFunc w).toNat → ∃ r, decodeS w = .error r ∧ r.cause = .resFunc) ∧
  (∀ w : W32, (sMajor w).toNat = 0x02 → (sFunc w).toNat ≤ 0x04 →
    (sRd w).toNat % 2 = 1 ∨ (sRa w).toNat % 2 = 1 ∨ ((sFunc w).toNat < 2 ∧ (sRb w).toNat % 2 = 1) → ∃ r, decodeS w = .error r ∧ r.cause = .resOperand) ∧
  (∀ w : W32, (sMajor w).toNat = 0x0C → (sRd w).toNat % 2 = 1 ∨ (sRa w).toNat % 2 = 1 → ∃ r, decodeS w = .error r ∧ r.cause = .resOperand)

/-- R101, R102, R103: the six compare-and-branch forms write no register; JAL and JALR link and go, and a misaligned JALR target raises
FETCH_ALIGN without a link; LOOP compares the decremented counter, and with s0 raises RES_OPERAND. The target issues no earlier than three
cycles later (R95). -/
def Obligations.ControlTransfers : Prop :=
  (∀ (s : State) (ic : BitVec 2) (ra rb : BitVec 6) (off : BitVec 12),
    s.cur ≠ .device → s.held [ra.toNat, rb.toNat] = false →
    let a := s.core.get ra.toNat
    let b := s.core.get rb.toNat
    let target : Int := s.core.pc.toNat + 4 * off.toInt
    transfers s (.beq ic ra rb off) ic (a.toNat = b.toNat) target ∧ transfers s (.bne ic ra rb off) ic (a.toNat ≠ b.toNat) target ∧
    transfers s (.blt ic ra rb off) ic (a.toInt < b.toInt) target ∧ transfers s (.bge ic ra rb off) ic (b.toInt ≤ a.toInt) target ∧
    transfers s (.bltu ic ra rb off) ic (a.toNat < b.toNat) target ∧ transfers s (.bgeu ic ra rb off) ic (b.toNat ≤ a.toNat) target) ∧
  (∀ (s : State) (ic : BitVec 2) (rd ra : BitVec 6) (imm : BitVec 12) (up : BitVec 18),
    s.cur ≠ .device → s.held [rd.toNat, ra.toNat] = false → s.held [rd.toNat] = false →
    let far := max (s.clock + 3) (s.clock + icGap ic)
    let label : W32 := BitVec.ofInt 32 (s.core.pc.toNat + 4 * up.toInt)
    let reg : W32 := BitVec.ofInt 32 ((s.core.get ra.toNat).toNat + imm.toInt)
    (∃ t, exec (.jal ic rd up) s = .next t ∧ Issued s t label far ∧ RegGets s t (s.clock + 1) rd.toNat (s.core.pc + 4)) ∧
    (s.core.pc.toNat % 4 = 0 → label.toNat % 4 = 0) ∧
    (reg.toNat % 4 = 0 →
      ∃ t, exec (.jalr ic rd ra imm) s = .next t ∧ Issued s t reg far ∧ RegGets s t (s.clock + 1) rd.toNat (s.core.pc + 4)) ∧
    (∀ c x, s.cur = .stream c x .s → (s.ctx c x).trap = none → reg.toNat % 4 ≠ 0 → ∃ t p, exec (.jalr ic rd ra imm) s = .next t ∧
      OnlyCtx s t c x ∧ (t.ctx c x).sc = (s.ctx c x).sc ∧ (t.ctx c x).trap = some p ∧ p.cause = 0x0A)) ∧
  (∀ (s : State) (ic : BitVec 2) (ra rb : BitVec 6) (off : BitVec 12), s.cur ≠ .device → s.held [ra.toNat, rb.toNat] = false →
    let far := max (s.clock + 3) (s.clock + icGap ic)
    let c := s.core.get ra.toNat - 1
    (ra ≠ 0 → ∃ t, exec (.loop ic ra rb off) s = .next t ∧ RegGets s t (s.clock + 1) ra.toNat c ∧
      (if c ≠ s.core.get rb.toNat then Issued s t (BitVec.ofInt 32 (s.core.pc.toNat + 4 * off.toInt)) far
       else Issued s t (s.core.pc + 4) (s.clock + icGap ic))) ∧
    (∀ g x, ra = 0 → s.cur = .stream g x .s → (s.ctx g x).trap = none → ∃ t p, exec (.loop ic ra rb off) s = .next t ∧
      OnlyCtx s t g x ∧ (t.ctx g x).sc = (s.ctx g x).sc ∧ (t.ctx g x).trap = some p ∧ p.cause = 0x07))

/-- R105, R106, R107: GTCR writes GTC of its issue cycle; WAITG holds while GTC is below d[ra], and then has no other effect; GAP delays the
next word; and NOP (R374) only goes on. -/
def Obligations.TimeWords : Prop :=
  ∀ (s : State) (ic : BitVec 2) (rd ra : BitVec 5) (imm : BitVec 12),
    s.cur ≠ .device → s.held (pairRegs rd) = false → s.held (pairRegs ra) = false →
    givesPair s (.gtcr ic rd) ic 1 rd.toNat (BitVec.ofNat 64 s.gtc) ∧
    ((s.core.getD ra.toNat).toNat ≤ s.gtc % 2 ^ 64 →
      ∃ t, exec (.waitg ic ra) s = .next t ∧ Issued s t (s.core.pc + 4) (s.clock + icGap ic) ∧ regsSame s t) ∧
    (s.gtc % 2 ^ 64 < (s.core.getD ra.toNat).toNat → exec (.waitg ic ra) s = .next s) ∧
    (∃ t, exec (.gap ic imm) s = .next t ∧ regsSame s t ∧
      Issued s t (s.core.pc + 4) (max (s.clock + icGap ic) (s.clock + 1 + imm.toNat))) ∧
    (∃ t, exec (.nop ic) s = .next t ∧ Issued s t (s.core.pc + 4) (s.clock + icGap ic) ∧ regsSame s t)

/-- R104, R22: QPUSH with room, and QPOP and QPEEK of a queue whose head was pushed in an earlier cycle and is not counted by a V-word; the
other queues stay. R109, R111: EXIT with no load outstanding ends the S-stream, and on an HCP the kernel with status 0; stores and commands
go on. -/
def Obligations.QueueMovesAndExit : Prop :=
  (∀ (s : State) (c x : Nat) (ic : BitVec 2) (q : BitVec 2) (p : BitVec 5), Ready s c x (pairRegs p) →
    let k := s.ctx c x
    let old := k.queue64 q.toNat
    (1 ≤ old.room s.gtc 16 → ∃ t, exec (.qpush ic q p) s = .next t ∧ Advanced s t ic ∧ regsSame s t ∧ OnlyCtx s t c x ∧
      ((t.ctx c x).queue64 q.toNat).items.map (·.val) = old.items.map (·.val) ++ [k.sc.getD p.toNat] ∧
      (∀ r, r ≠ q.toNat → (t.ctx c x).queue64 r = k.queue64 r)) ∧
    (∀ it rest, old.items = it :: rest → it.at_ < s.gtc →
      (∃ t, exec (.qpop ic p q) s = .next t ∧ Advanced s t ic ∧ PairGets s t (s.clock + 1) p.toNat it.val ∧ OnlyCtx s t c x ∧
        ((t.ctx c x).queue64 q.toNat).items = rest ∧
        (∀ r, r ≠ q.toNat → (t.ctx c x).queue64 r = k.queue64 r)) ∧
      (∃ t, exec (.qpeek ic p q) s = .next t ∧ Advanced s t ic ∧ PairGets s t (s.clock + 1) p.toNat it.val ∧ OnlyCtx s t c x ∧
        (t.ctx c x).q64 = k.q64))) ∧
  (∀ (s : State) (ic : BitVec 2),
    (∀ c x, Ready s c x [] → (∀ l ∈ (s.ctx c x).landing, l.stream ≠ .s) →
      ∃ t, exec (.exit ic) s = .next t ∧ (t.ctx c x).sRun = false ∧ Advanced s t ic ∧ regsSame s t ∧ OnlyCtx s t c x ∧
        (t.ctx c x).stores = (s.ctx c x).stores ∧ (t.ctx c x).se = (s.ctx c x).se) ∧
    (∀ h, s.cur = .hcp h → (s.hcp h).ending = none → ∃ t, exec (.exit ic) s = .next t ∧ (t.hcp h).ending = some (0, 0) ∧ memSame s t))

/-- R41, R108: CSRR writes its pair with the register's value of the issue cycle, two cycles later, for every allocated number; CSRW at a
sufficient level leaves every register as it is in this cycle, and after it the writable fields of the field map hold the written bits and
every other bit stays: PL of ISTAT (R299); SEPC, SKIP and CAUSE of TCAUSE (R372); TVAL; TPC; UIVEC and UISTAT (R243); AGE_LIMIT, which 0
leaves as it is (R293); MBPOL (R312), MISS_COUNT (R312) and BEAT_PREEMPT_LIMIT (R316). -/
def Obligations.ControlRegisters : Prop :=
  (∀ (s : State) (c x : Nat) (ic : BitVec 2) (p : BitVec 5), s.cur = .stream c x .s → s.held (pairRegs p) = false →
    let m := s.mdw c
    let k := m.ctx x
    let reads (n : Nat) (v : W64) := givesPair s (.csrr ic p (BitVec.ofNat 12 n)) ic 2 p.toNat v
    reads 0x000 k.istat ∧ reads 0x001 k.tcause ∧ reads 0x002 k.tval ∧ reads 0x003 k.tpc ∧ reads 0x010 k.uivec ∧
    reads 0x011 (setField k.uistat 4 5 k.notif.length) ∧ reads 0x020 (BitVec.setWidth 64 m.ageLimit) ∧
    reads 0x021 (setField m.prio 8 3 s.thresh) ∧ reads 0x022 m.emeter ∧ reads 0x030 (BitVec.ofNat 64 m.mtc) ∧
    reads 0x031 (BitVec.ofNat 64 (x % 4 * 512 + c % 512)) ∧ reads 0x040 m.mbpol ∧ reads 0x041 m.missCount ∧
    reads 0x042 (BitVec.setWidth 64 m.beatLimit) ∧ (∀ i, i < 8 → reads (0x048 + i) (m.lookReg i))) ∧
  (∀ (s : State) (c x : Nat) (ic : BitVec 2) (p : BitVec 5) (n : BitVec 12), Ready s c x (pairRegs p) →
    (csrKind n.toNat = some .user ∨ (csrKind n.toNat = some .supervisor ∧ (s.ctx c x).pl ≠ 0)) →
    let v := (s.ctx c x).sc.getD p.toNat
    ∃ t, exec (.csrw ic p n) s = .next t ∧ Advanced s t ic ∧ regsSame s t ∧ OnlyMdw s t c ∧
      (∀ r, t.csrRead c x r = s.csrRead c x r) ∧
      ((s.mdw c).late = [] →
        let m := s.mdw c
        let k := m.ctx x
        let n1 := (t.mdw c).applyLate (s.gtc + 1)
        let k1 := n1.ctx x
        let bits (r : Nat) (old new : W64) (on : Nat → Prop) : Prop :=
          n.toNat = r → ∀ i, i < 64 → (on i → new.getLsbD i = v.getLsbD i) ∧ (¬on i → new.getLsbD i = old.getLsbD i)
        (v.getLsbD 21 = false → bits 0x000 k.istat k1.istat fun i => i = 20 ∨ i = 21) ∧
        bits 0x001 k.tcause k1.tcause (fun i => 32 ≤ i ∨ i = 15 ∨ i < 7) ∧ bits 0x002 k.tval k1.tval (fun _ => True) ∧
        bits 0x003 k.tpc k1.tpc (· < 32) ∧ bits 0x010 k.uivec k1.uivec (fun i => 2 ≤ i ∧ i < 32) ∧
        bits 0x011 k.uistat k1.uistat (fun i => 32 ≤ i ∨ i = 0) ∧
        (n = 0x020 → n1.ageLimit = if v.extractLsb' 0 8 = 0 then m.ageLimit else v.extractLsb' 0 8) ∧
        (n = 0x040 → n1.mbpol.extractLsb' 8 3 = v.extractLsb' 8 3 ∧ (v.extractLsb' 0 2 ≠ 3 → n1.mbpol.extractLsb' 0 2 = v.extractLsb' 0 2)) ∧
        (n = 0x041 → n1.missCount.extractLsb' 0 32 = v.extractLsb' 0 32) ∧ (n = 0x042 → n1.beatLimit = v.extractLsb' 0 8)))

/-! ## Memory and scratchpad words -/

/-- R196, R190: a scalar load that the window allows takes a landing entry that lands imm12 MTC cycles after issue, and no register changes
before. R252: on an HCP, with a physical address in a listed page, the load holds the HCP until its data comes. A store that the window or
the page list allows issues with its low bytes waiting to be performed at the translated address; no register and no byte of memory changes
at issue (R213). When a waiting store is performed, on bytes of no held line that lie in plain text under its key, exactly the bytes that its
mask selects change, at the physical address of its part (R174). -/
def Obligations.ScalarMemoryWords : Prop :=
  (∀ (s : State) (c x : Nat) (ic : BitVec 2) (rd : BitVec 6) (pd ra : BitVec 5) (imm : BitVec 12) (ps : List Part), s.cur = .stream c x .s →
    let k := s.ctx c x
    let m := s.mdw c
    let a := (k.sc.getD ra.toNat).toNat
    let lands (i : Instr) (bytes rd : Nat) (pair : Bool) :=
      s.held (pairRegs ra ++ if pair then [rd, rd + 1] else [rd]) = false → s.access m .load [(a, bytes)] = .ok ps → k.landing.length < 64 →
      ∃ t, exec i s = .next t ∧ Advanced s t ic ∧ regsSame s t ∧ OnlyCtx s t c x ∧
        ∃ e, (t.ctx c x).landing = k.landing ++ [e] ∧ e.stream = .s ∧ e.pc = k.sc.pc ∧ e.lam = m.mtc + imm.toNat ∧ e.bytes = bytes ∧
          e.dest = .scalar rd pair true ∧ e.parts = ps
    lands (.ldb ic rd ra imm) 1 rd.toNat false ∧ lands (.ldh ic rd ra imm) 2 rd.toNat false ∧ lands (.ldw ic rd ra imm) 4 rd.toNat false ∧
    lands (.ldd ic pd ra imm) 8 (2 * pd.toNat) true) ∧
  (∀ (s : State) (h : Nat) (ic : BitVec 2) (rd : BitVec 6) (pd ra : BitVec 5) (key : Nat), s.cur = .hcp h →
    let t0 := s.hcp h
    let pa := (t0.sc.getD ra.toNat).toNat % 2 ^ 48
    let loads (i : Instr) (bytes rd : Nat) (pair : Bool) :=
      s.held (pairRegs ra ++ if pair then [rd, rd + 1] else [rd]) = false → t0.check pa bytes = .ok key →
      ∃ t, exec i s = .next t ∧ Advanced s t ic ∧ regsSame s t ∧ memSame s t ∧
        ∃ l, (t.hcp h).load = some l ∧ l.rd = rd ∧ l.pair = pair ∧ l.bytes = bytes ∧ l.pa = pa ∧ l.key = key ∧ s.gtc < l.at_
    loads (.ldb ic rd ra 0) 1 rd.toNat false ∧ loads (.ldh ic rd ra 0) 2 rd.toNat false ∧ loads (.ldw ic rd ra 0) 4 rd.toNat false ∧
    loads (.ldd ic pd ra 0) 8 (2 * pd.toNat) true) ∧
  (∀ (s : State) (ic : BitVec 2) (rd : BitVec 6) (pd ra : BitVec 5),
    let stores (i : Instr) (bytes : Nat) (regs : List Nat) (v : SCore → Nat) :=
      (∀ c x ps, s.cur = .stream c x .s → s.held (pairRegs ra ++ regs) = false →
        s.access (s.mdw c) .store [(((s.ctx c x).sc.getD ra.toNat).toNat, bytes)] = .ok ps →
        ∃ t, exec i s = .next t ∧ Advanced s t ic ∧ regsSame s t ∧ OnlyCtx s t c x ∧
          ∃ qs, (t.ctx c x).stores = (s.ctx c x).stores ++ qs ∧ qs.flatMap (·.parts) = ps ∧
            ∀ p ∈ qs, p.stream = .s ∧ p.data = BitVec.ofNat 4096 (v (s.ctx c x).sc) ∧ p.mask = BitVec.ofNat 512 (2 ^ bytes - 1)) ∧
      (∀ h key, s.cur = .hcp h → s.held (pairRegs ra ++ regs) = false →
        (s.hcp h).check (((s.hcp h).sc.getD ra.toNat).toNat % 2 ^ 48) bytes = .ok key →
        ∃ t, exec i s = .next t ∧ Advanced s t ic ∧ regsSame s t ∧ memSame s t ∧
          ∃ p, (t.hcp h).stores = (s.hcp h).stores ++ [p] ∧ p.data = BitVec.ofNat 4096 (v (s.hcp h).sc) ∧
            p.mask = BitVec.ofNat 512 (2 ^ bytes - 1) ∧
            p.parts.map (fun q => (q.pa, q.len, q.key)) = [(((s.hcp h).sc.getD ra.toNat).toNat % 2 ^ 48, bytes, key)])
    stores (.stb ic rd ra) 1 [rd.toNat] (fun k => (k.get rd.toNat).toNat) ∧ stores (.sth ic rd ra) 2 [rd.toNat] (fun k => (k.get rd.toNat).toNat) ∧
    stores (.stw ic rd ra) 4 [rd.toNat] (fun k => (k.get rd.toNat).toNat) ∧ stores (.std ic pd ra) 8 (pairRegs pd) (fun k => (k.getD pd.toNat).toNat)) ∧
  (∀ (s : State) (c x : Nat) (p : PendStore) (q : Part), p.parts = [q] → q.res = true → s.oldKeys = [] → Memory.wf s.mem →
    plainUnder s q.key q.pa q.len → (s.eng 0).lines = [] → (s.eng 1).lines = [] →
    WritesBytes s (s.doStore c x p) q.pa q.len (p.data.toNat / 2 ^ (8 * q.off)) (p.mask.toNat / 2 ^ q.off) ∧
    ((s.doStore c x p).ctx c x).stores = (s.ctx c x).stores.filter fun r => r.id != p.id)

/-- R199, R176: LDS takes the scratchpad bytes of its issue cycle, and STS's four bytes stand in the scratchpad from the second cycle after
its own on, every other byte as before. Said of a meadow with no latent error, no bad word and no change pending. That LDS reads in its
issue cycle is log entry 29. -/
def Obligations.ScratchpadWords : Prop :=
  ∀ (s : State) (c x : Nat) (ic : BitVec 2) (rd ra : BitVec 6) (imm : BitVec 12), s.cur = .stream c x .s → s.held [rd.toNat, ra.toNat] = false →
    let m := s.mdw c
    let k := m.ctx x
    let a := (k.sc.get ra.toNat).toNat % 2 ^ 20
    m.ecc = [] → m.badWords = [] → m.late = [] → a % 4 = 0 → (∀ b ∈ m.bufs, a / 4096 < b.2.first ∨ b.2.first + b.2.count ≤ a / 4096) →
    (k.landing.length < 64 → ∃ t e, exec (.lds ic rd ra imm) s = .next t ∧ Advanced s t ic ∧ regsSame s t ∧ OnlyCtx s t c x ∧
      (t.ctx c x).landing = k.landing ++ [e] ∧ e.stream = .s ∧ e.lam = m.mtc + imm.toNat ∧ e.dest = .scalar rd.toNat false false ∧
      e.spad = some a ∧ e.port = true ∧
      (x < 4 → (∀ y, y < 4 → ∀ l ∈ (m.ctx y).landing, l.port = false ∧ l.id ≠ e.id) →
        ∃ g, g ∈ ((t.portReads c).ctx c x).landing ∧ g.id = e.id ∧ g.port = false ∧ g.arriveAt = s.gtc + 3 ∧ g.bad = 0 ∧
          ∀ i, i < 4 → g.data.extractLsb' (8 * i) 8 = Memory.read m.spad (a + i))) ∧
    (∃ t, exec (.sts ic rd ra) s = .next t ∧ Advanced s t ic ∧ regsSame s t ∧ OnlyMdw s t c ∧
      (∀ b, Memory.read ((t.mdw c).applyLate (s.gtc + 1)).spad b = Memory.read m.spad b) ∧
      (∀ i, i < 4 → Memory.read ((t.mdw c).applyLate (s.gtc + 2)).spad (a + i) = (k.sc.get rd.toNat).extractLsb' (8 * i) 8) ∧
      (∀ b, (b < a ∨ a + 4 ≤ b) → Memory.read ((t.mdw c).applyLate (s.gtc + 2)).spad b = Memory.read m.spad b))

/-- R201, R180: TLOOK gives the lowest valid slot of the address's virtual tag, or all ones; TSET and TINV change a slot after their cycle,
and TINV clears VALID and DIRTY and keeps every other bit. R202, R183, R184: BDECL of a declaration that breaks no rule, consume-once where
READERS is not 0, BSTATE on a buffer that may take its event, and BQUERY of a declared buffer. -/
def Obligations.TagAndBufferWords : Prop :=
  (∀ (s : State) (c x : Nat) (ic : BitVec 2) (rd r : BitVec 6) (p : BitVec 5), s.cur = .stream c x .s →
    let m := s.mdw c
    let k := m.ctx x
    let va := k.sc.getD p.toNat
    let slot := (k.sc.get r.toNat).toNat
    (s.held (rd.toNat :: pairRegs p) = false → givesReg s (.tlook ic rd p) ic 2 rd.toNat
      (match (List.range 256).find? fun i => (tgetD m.tags i 0).getLsbD 63 && (tgetD m.tags i 0).extractLsb' 12 30 == va.extractLsb' 12 30 with
       | some i => BitVec.ofNat 32 i
       | none => 0xFFFFFFFF)) ∧
    (s.held (r.toNat :: pairRegs p) = false → slot < 256 → m.late = [] →
      ∃ t, exec (.tset ic p r) s = .next t ∧ Advanced s t ic ∧ regsSame s t ∧ OnlyMdw s t c ∧ (t.mdw c).tags = m.tags ∧
        tgetD ((t.mdw c).applyLate (s.gtc + 1)).tags slot 0 = va &&& 0xC0FF03FFFFFFF000#64 ∧
        (∀ i, i ≠ slot → tgetD ((t.mdw c).applyLate (s.gtc + 1)).tags i 0 = tgetD m.tags i 0)) ∧
    (s.held [r.toNat] = false → slot < 256 → m.late = [] →
      ∃ t, exec (.tinv ic r) s = .next t ∧ Advanced s t ic ∧ regsSame s t ∧ OnlyMdw s t c ∧ (t.mdw c).tags = m.tags ∧
        (∀ i, i < 64 → (tgetD ((t.mdw c).applyLate (s.gtc + 1)).tags slot 0).getLsbD i = (decide (i < 62) && (tgetD m.tags slot 0).getLsbD i)) ∧
        (∀ i, i ≠ slot → tgetD ((t.mdw c).applyLate (s.gtc + 1)).tags i 0 = tgetD m.tags i 0))) ∧
  (∀ (s : State) (c x : Nat) (ic : BitVec 2) (rd ra : BitVec 6), s.cur = .stream c x .s → s.held [rd.toNat, ra.toNat] = false → s.held [ra.toNat] = false →
    let m := s.mdw c
    let w := (m.ctx x).sc.get ra.toNat
    let b := w.toNat % 32
    let id := w.toNat / 2 ^ 24 % 32
    (m.declBad w = false → w.getLsbD 31 = false → m.late = [] →
      ∃ t, exec (.bdecl ic ra) s = .next t ∧ Advanced s t ic ∧ regsSame s t ∧ OnlyMdw s t c ∧ (t.mdw c).bufs = m.bufs ∧
        ∃ u, tget ((t.mdw c).applyLate (s.gtc + 1)).bufs id = some u ∧ u.first = w.toNat % 256 ∧ u.count = w.toNat / 256 % 256 + 1 ∧
          u.readers = w.toNat / 65536 % 256 ∧ u.once = decide (w.toNat / 65536 % 256 ≠ 0) ∧ u.nread = 0 ∧ u.state = .empty) ∧
    (m.declBad w = false → w.getLsbD 31 = true → m.late = [] →
      ∃ t, exec (.bdecl ic ra) s = .next t ∧ Advanced s t ic ∧ regsSame s t ∧ OnlyMdw s t c ∧ (t.mdw c).bufs = m.bufs ∧
        tget ((t.mdw c).applyLate (s.gtc + 1)).bufs id = none) ∧
    (∀ u, tget m.bufs b = some u →
      (m.late = [] → u.state = .filling ∨ u.state = .empty →
        ∃ t, exec (.bstateFull ic ra) s = .next t ∧ Advanced s t ic ∧ regsSame s t ∧ OnlyMdw s t c ∧ (t.mdw c).bufs = m.bufs ∧
          tget ((t.mdw c).applyLate (s.gtc + 1)).bufs b = some { u with state := .full, nread := 0 }) ∧
      (m.late = [] → u.once = false → u.readers = 0 → u.state = .full →
        ∃ t, exec (.bstateDrain ic ra) s = .next t ∧ Advanced s t ic ∧ regsSame s t ∧ OnlyMdw s t c ∧ (t.mdw c).bufs = m.bufs ∧
          tget ((t.mdw c).applyLate (s.gtc + 1)).bufs b = some { u with state := .draining, enterDrain := s.gtc }) ∧
      givesReg s (.bquery ic rd ra) ic 1 rd.toNat
        (BitVec.ofNat 32 (u.state.code + u.nread % 256 * 2 ^ 8 + (if u.once then 2 ^ 16 else 0) + 2 ^ 31))))

/-- R207, R208, R210, R204: SEW writes one shadow register; SEGO pushes the shadow descriptor while a slot is free, and resumes or drops a
halted command; SEPOP pops the oldest result; SECHAIN pushes a token. R211, R357: RQPAGE of a resident page answers at once with status 0;
of another page it claims a result slot and asks. -/
def Obligations.StreamEngineWords : Prop :=
  (∀ (s : State) (c x : Nat) (ic : BitVec 2) (n : BitVec 3) (p : BitVec 5) (sc : Scope), Ready s c x (pairRegs p) → s.held [] = false →
    let k := s.ctx c x
    let se := k.se
    let v := k.sc.getD p.toNat
    (∃ t, exec (.sew ic n p) s = .next t ∧ Advanced s t ic ∧ regsSame s t ∧ OnlyCtx s t c x ∧
      tgetD (t.ctx c x).se.shadow n.toNat 0 = v ∧ (∀ i, i ≠ n.toNat → tgetD (t.ctx c x).se.shadow i 0 = tgetD se.shadow i 0) ∧
      (t.ctx c x).se.queue = se.queue) ∧
    (se.used < 16 → ∃ t, exec (.sego ic sc) s = .next t ∧ Advanced s t ic ∧ regsSame s t ∧ OnlyCtx s t c x ∧
      ∃ q, (t.ctx c x).se.queue = se.queue ++ [q] ∧ q.chain = none ∧ q.d = (List.range 8).map (fun i => tgetD se.shadow i 0)) ∧
    (∀ r, se.run = some r → r.halted ≠ none → r.done = false →
      (∃ t, exec (.segoResume ic sc) s = .next t ∧ Advanced s t ic ∧ regsSame s t ∧ OnlyCtx s t c x ∧
        (t.ctx c x).se = { se with run := some { r with halted := none, started := false } }) ∧
      (∃ t, exec (.segoDrop ic sc) s = .next t ∧ Advanced s t ic ∧ regsSame s t ∧ OnlyCtx s t c x ∧
        (t.ctx c x).se = { se with run := some { r with done := true, owe := r.owe ++ [(seResult r.tag 5 r.moved, false)] } })) ∧
    (∀ e rest, se.results = e :: rest → ∃ t, exec (.sepop ic p) s = .next t ∧ Advanced s t ic ∧ PairGets s t (s.clock + 1) p.toNat e ∧
      OnlyCtx s t c x ∧ (t.ctx c x).se = { se with results := rest }) ∧
    (v.toNat % 64 = 0 → se.used < 16 → ∃ t, exec (.sechain ic sc p) s = .next t ∧ Advanced s t ic ∧ regsSame s t ∧ OnlyCtx s t c x ∧
      ∃ q, (t.ctx c x).se.queue = se.queue ++ [q] ∧ q.chain = some v)) ∧
  (∀ (s : State) (c x : Nat) (ic : BitVec 2) (ra : BitVec 5) (rb : BitVec 6) (e o z : Nat), Ready s c x (rb.toNat :: pairRegs ra) →
    let k := s.ctx c x
    let w := k.sc.get rb.toNat
    vaEntry (k.sc.getD ra.toNat).toNat = some (e, o, z) → w.toNat / 2 % 2 ^ 15 = 0 → k.se.results.length + k.se.claims < 16 →
    (eRes (tgetD (s.mdw c).window e 0) = true → ∃ t, exec (.rqpage ic ra rb) s = .next t ∧ Advanced s t ic ∧ regsSame s t ∧ OnlyCtx s t c x ∧
      (t.ctx c x).se.results = k.se.results ++ [BitVec.ofNat 64 (w.toNat / 2 ^ 16 % 2 ^ 16 * 2 ^ 48)] ∧ (t.ctx c x).se.claims = k.se.claims) ∧
    (eRes (tgetD (s.mdw c).window e 0) = false → ∃ t, exec (.rqpage ic ra rb) s = .next t ∧ Advanced s t ic ∧ regsSame s t ∧
      OnlyCtx s t c x ∧ (t.ctx c x).se.claims = k.se.claims + 1 ∧ (t.ctx c x).se.results = k.se.results ∧
      ∃ r ∈ t.pageReqs, r.image = (s.mdw c).imageOf e ∧ r.entry = e ∧ ∃ a ∈ r.askers, a.coord = c ∧ a.ctx = x ∧ a.tagc = w.extractLsb' 16 16))

/-- R220, R221: a FENCE with nothing outstanding that it orders, and an AFENCE with no access outstanding and no line held, only go on; on
an HCP a FENCE waits for its stores; an AFENCE whose group has a line held writes the line's changed bytes back and gives it up. R203, R178:
SBFW gives the old format word and sets the new one after its cycle. R166, R155: DSEED sets key and counter at once. R164: DTOPO starts
reading its table and holds the S-stream. -/
def Obligations.FencesFormatsDraws : Prop :=
  (∀ (s : State) (ic : BitVec 2) (un rc : Bool) (ord : BitVec 2) (sc : Scope) (ra : BitVec 5), ord ≠ 0 →
    (∀ c x, s.cur = .stream c x .s → s.held [] = false → s.unreleased c x ((s.ctx c x).reachOf .s s.seq) rc un sc = [] →
      ∃ t, exec (.fence ic un rc ord sc) s = .next t ∧ Issued s t (s.core.pc + 4) (s.clock + icGap ic) ∧ regsSame s t) ∧
    (∀ h, s.cur = .hcp h → s.held [] = false → (s.hcp h).stores = [] →
      ∃ t, exec (.fence ic un rc ord sc) s = .next t ∧ Issued s t (s.core.pc + 4) (s.clock + icGap ic) ∧ regsSame s t) ∧
    (∀ c x e o z, Ready s c x (pairRegs ra) → vaEntry ((s.ctx c x).sc.getD ra.toNat).toNat = some (e, o, z) →
      s.unreleased c x ((s.ctx c x).reachOf .s s.seq) true true sc = [] → (s.eng 0).lines = [] → (s.eng 1).lines = [] →
      ∃ t, exec (.afence ic ra sc) s = .next t ∧ Issued s t (s.core.pc + 4) (s.clock + icGap ic) ∧ regsSame s t) ∧
    (∀ c x e o z d h, d < 2 → Ready s c x (pairRegs ra) → vaEntry ((s.ctx c x).sc.getD ra.toNat).toNat = some (e, o, z) →
      s.unreleased c x ((s.ctx c x).reachOf .s s.seq) true true sc = [] → (s.eng d).lines = [h] → (s.eng (1 - d)).lines = [] →
      h.isLine h.va h.pa = true → inGroup (s.mdw c) e h.va = true → h.poison = false → s.memClean = true → Memory.wf s.mem →
      plainUnder s h.key h.pa 64 →
      ∃ t, exec (.afence ic ra sc) s = .next t ∧ Advanced s t ic ∧ regsSame s t ∧ (∀ j, j < 2 → (t.eng j).lines = []) ∧
        t.meadows = (s.setCore t.core).meadows ∧ WritesBytes s t h.pa 64 h.data.toNat h.dirty.toNat)) ∧
  (∀ (s : State) (c x : Nat) (ic : BitVec 2) (rd ra rb : BitVec 6) (p : BitVec 5),
    let m := s.mdw c
    let k := m.ctx x
    let n := (k.sc.get ra.toNat).toNat
    let v := k.sc.get rb.toNat
    (s.cur = .stream c x .s → s.held [rd.toNat, ra.toNat, rb.toNat] = false → n < 16 → v.toNat / 2 ^ 12 % 8 ≠ 7 → m.bankRead s.gtc n = false →
      m.late = [] → ∃ t, exec (.sbfw ic rd ra rb) s = .next t ∧ Advanced s t ic ∧ RegGets s t (s.clock + 1) rd.toNat (tgetD m.sbf n 0) ∧
        OnlyMdw s t c ∧ (t.mdw c).sbf = m.sbf ∧ tgetD ((t.mdw c).applyLate (s.gtc + 1)).sbf n 0 = v &&& 0x00FF700F#32) ∧
    (Ready s c x (rb.toNat :: pairRegs p) → ∃ t, exec (.dseed ic p rb) s = .next t ∧ Advanced s t ic ∧ regsSame s t ∧ OnlyCtx s t c x ∧
      (t.ctx c x).seed = k.sc.getD p.toNat ∧ (t.ctx c x).ctr = v) ∧
    (∀ ps, Ready s c x (pairRegs p) → k.dtopo = none → (k.sc.getD p.toNat).toNat % 64 = 0 →
      s.access m .load [((k.sc.getD p.toNat).toNat, 4)] = .ok ps →
      ∃ t d, exec (.dtopo ic p) s = .next t ∧ regsSame s t ∧ OnlyCtx s t c x ∧ (t.ctx c x).dtopo = some d ∧ d.addr = k.sc.getD p.toNat ∧
        d.pc = k.sc.pc ∧ d.ic = ic ∧ d.count = none ∧ (t.ctx c x).sc = k.sc))

/-! ## Atomics, semaphores, barriers, interrupts, launches, hasps -/

/-- R231, R234, R396: an aligned ATOM, RED, ACAS or FRED that the window allows sends one request to the line's home engine and goes on;
ATOM and ACAS also take a slot of the return queue, which has one free. APOP takes a head that holds its value. -/
def Obligations.AtomicWords : Prop :=
  (∀ (s : State) (c x : Nat) (ic : BitVec 2) (sg wide : Bool) (sc : Scope) (ra : BitVec 5) (rb : BitVec 6) (p : Part) (ps : List Part),
    Ready s c x (atomUses wide ra rb) →
    let k := s.ctx c x
    let n := if wide then 8 else 4
    let va := (k.sc.getD ra.toNat).toNat
    let v : W64 := if wide then k.sc.getD (rb.toNat / 2) else (k.sc.get rb.toNat).setWidth 64
    va % n = 0 → s.access (s.mdw c) .atomic [(va, n)] = .ok (p :: ps) →
    (k.arq.length < 32 → ∀ f ∈ ([(.atomAdd ic sg wide sc ra rb, 0), (.atomAnd ic sg wide sc ra rb, 1), (.atomOr ic sg wide sc ra rb, 2),
        (.atomXor ic sg wide sc ra rb, 3), (.atomMin ic sg wide sc ra rb, 4), (.atomMax ic sg wide sc ra rb, 5),
        (.atomSwap ic sg wide sc ra rb, 6)] : List (Instr × Nat)),
      ∃ t r, exec f.1 s = .next t ∧ Advanced s t ic ∧ regsSame s t ∧ OnlyCtx s t c x ∧ Sends s t p c x r ∧
        r.op = .atom f.2 sg wide v (some r.id) ∧ (t.ctx c x).arq = k.arq ++ [{ id := r.id }]) ∧
    (∀ f ∈ ([(.redAdd ic sg wide sc ra rb, 0), (.redAnd ic sg wide sc ra rb, 1), (.redOr ic sg wide sc ra rb, 2), (.redXor ic sg wide sc ra rb, 3),
        (.redMin ic sg wide sc ra rb, 4), (.redMax ic sg wide sc ra rb, 5)] : List (Instr × Nat)),
      ∃ t r, exec f.1 s = .next t ∧ Advanced s t ic ∧ regsSame s t ∧ OnlyCtx s t c x ∧ Sends s t p c x r ∧
        r.op = .atom f.2 sg wide v none ∧ (t.ctx c x).arq = k.arq)) ∧
  (∀ (s : State) (c x : Nat) (ic : BitVec 2) (sg wide : Bool) (sc : Scope) (ty : FredType) (ra rd : BitVec 5) (rb : BitVec 6) (p : Part) (ps : List Part),
    let k := s.ctx c x
    let n := if wide then 8 else 4
    let va := (k.sc.getD ra.toNat).toNat
    let b := rb.toNat
    (Ready s c x (pairRegs ra ++ if wide then [b, b + 1, b + 2, b + 3] else [b, b + 1]) → va % n = 0 →
      s.access (s.mdw c) .atomic [(va, n)] = .ok (p :: ps) → k.arq.length < 32 →
      ∃ t r, exec (.acas ic sg wide sc ra rb) s = .next t ∧ Advanced s t ic ∧ regsSame s t ∧ OnlyCtx s t c x ∧ Sends s t p c x r ∧
        (t.ctx c x).arq = k.arq ++ [{ id := r.id }] ∧
        r.op = .cas wide (if wide then k.sc.getD (b / 2) else (k.sc.get b).setWidth 64)
          (if wide then k.sc.getD (b / 2 + 1) else (k.sc.get (b + 1)).setWidth 64) r.id) ∧
    (Ready s c x (pairRegs ra ++ [b]) → va % 4 = 0 → s.access (s.mdw c) .atomic [(va, 4)] = .ok (p :: ps) →
      ∀ f ∈ ([(.fredAdd ic ty sc ra rb, 0), (.fredMin ic ty sc ra rb, 4), (.fredMax ic ty sc ra rb, 5)] : List (Instr × Nat)),
      ∃ t r, exec f.1 s = .next t ∧ Advanced s t ic ∧ regsSame s t ∧ OnlyCtx s t c x ∧ Sends s t p c x r ∧
        r.op = .fred f.2 ty (k.sc.get b) ∧ (t.ctx c x).arq = k.arq) ∧
    (∀ i v tval rest, Ready s c x (pairRegs rd) → k.arq = { id := i, val := some v, mark := none, tval := tval } :: rest →
      ∃ t, exec (.apop ic rd) s = .next t ∧ Advanced s t ic ∧ PairGets s t (s.clock + 1) rd.toNat v ∧ OnlyCtx s t c x ∧ (t.ctx c x).arq = rest))

/-- R236, R241: the words that send one request and go on. R237, R239, R241: SEMW, WAITQ and BARW send their wait and stay at their word;
once the answer has come they issue. -/
def Obligations.SemaphoreAndBarrierWords : Prop :=
  (∀ (s : State) (c x : Nat) (ic : BitVec 2) (sc : Scope) (ra : BitVec 5) (rb : BitVec 6) (p : Part) (ps : List Part),
    Ready s c x (pairRegs ra ++ [rb.toNat]) → Ready s c x (pairRegs ra) →
    let k := s.ctx c x
    let va := (k.sc.getD ra.toNat).toNat
    let v := k.sc.get rb.toNat
    (va % 4 = 0 → s.access (s.mdw c) .atomic [(va, 4)] = .ok (p :: ps) →
      ∃ t r, exec (.sems ic sc ra rb) s = .next t ∧ Advanced s t ic ∧ regsSame s t ∧ OnlyCtx s t c x ∧ Sends s t p c x r ∧ r.op = .sems v ∧
        r.rel ≠ none) ∧
    (va % 64 = 0 → s.access (s.mdw c) .atomic [(va, 64)] = .ok (p :: ps) →
      (0 < v.toNat → v.toNat < 65536 → ∃ t r, exec (.bari ic sc ra rb) s = .next t ∧ Advanced s t ic ∧ regsSame s t ∧ OnlyCtx s t c x ∧
        Sends s t p c x r ∧ r.op = .bari (v.setWidth 16)) ∧
      (∃ t r, exec (.barx ic sc ra rb) s = .next t ∧ Advanced s t ic ∧ regsSame s t ∧ OnlyCtx s t c x ∧ Sends s t p c x r ∧ r.op = .barx v) ∧
      (∃ t r, exec (.bart ic sc ra rb) s = .next t ∧ Advanced s t ic ∧ regsSame s t ∧ OnlyCtx s t c x ∧ Sends s t p c x r ∧ r.op = .bart v) ∧
      (k.arq.length < 32 →
        (∃ t r, exec (.barv ic sc ra) s = .next t ∧ Advanced s t ic ∧ regsSame s t ∧ OnlyCtx s t c x ∧ Sends s t p c x r ∧
          r.op = .barv false r.id ∧ (t.ctx c x).arq = k.arq ++ [{ id := r.id }]) ∧
        (∃ t r, exec (.bard ic sc ra) s = .next t ∧ Advanced s t ic ∧ regsSame s t ∧ OnlyCtx s t c x ∧ Sends s t p c x r ∧
          r.op = .barv true r.id ∧ (t.ctx c x).arq = k.arq ++ [{ id := r.id }])))) ∧
  (∀ (s : State) (c x : Nat) (ic : BitVec 2) (sc : Scope) (ra rb : BitVec 5) (p : Part) (ps : List Part), Ready s c x (pairRegs ra ++ pairRegs rb) →
    let k := s.ctx c x
    let va := (k.sc.getD ra.toNat).toNat
    let v := k.sc.get (2 * rb.toNat)
    let limit := (k.sc.get (2 * rb.toNat + 1)).toNat
    let waits (i : Instr) (align bytes : Nat) (want : Want) (op : Nat → SyncOp) :=
      (k.sWait = none → va % align = 0 → s.access (s.mdw c) want [(va, bytes)] = .ok (p :: ps) →
        ∃ t r, exec i s = .next t ∧ regsSame s t ∧ OnlyCtx s t c x ∧ Sends s t p c x r ∧ r.op = op r.id ∧ (t.ctx c x).sc = k.sc ∧
          (t.ctx c x).sWait = some { id := r.id, pc := k.sc.pc }) ∧
      (∀ w u, k.sWait = some w → w.answer = some (.ok u) → va % align = 0 →
        ∃ t, exec i s = .next t ∧ Advanced s t ic ∧ regsSame s t ∧ OnlyCtx s t c x ∧ (t.ctx c x).sWait = none)
    waits (.semw ic sc ra rb) 4 4 { read := true, resident := true } (fun id => .semw v limit id) ∧
    waits (.barw ic sc ra rb) 64 64 .atomic (fun id => .barw v limit id) ∧
    (0 < v.toNat → v.toNat ≤ 2 ^ 23 →
      waits (.waitqData ic sc ra rb) 64 64 { read := true, resident := true } (fun id => .waitq false v.toNat limit id) ∧
      waits (.waitqSpace ic sc ra rb) 64 64 { read := true, resident := true } (fun id => .waitq true v.toNat limit id)))

/-- R243, R244, R245: UIEN sets EN after its cycle; with a notification queued, EN set and no handler running, the handler is entered before
the next S-word, with s56 to s63 and their shadow copies exchanged; UIRET exchanges them back and goes back to the interrupted word. -/
def Obligations.UserInterrupts : Prop :=
  (∀ (a b : Nat), Completes (.userInterruptEntry a b)) ∧
  ((∀ (s : State) (c x : Nat) (ic : BitVec 2) (ra : BitVec 6),
    let k := s.ctx c x
    let v := (k.sc.get ra.toNat).toNat
    (Ready s c x [ra.toNat] → v < 2 → (s.mdw c).late = [] →
      ∃ t, exec (.uien ic ra) s = .next t ∧ Advanced s t ic ∧ regsSame s t ∧ OnlyMdw s t c ∧ (t.ctx c x).uistat = k.uistat ∧
        ((((t.mdw c).applyLate (s.gtc + 1)).ctx x).uistat).getLsbD 0 = decide (v = 1)) ∧
    (Ready s c x [] → k.uistat.getLsbD 2 = true → (k.uistat.extractLsb' 32 32).toNat % 4 = 0 →
      ∃ t, exec (.uiret ic) s = .next t ∧ OnlyCtx s t c x ∧ (t.ctx c x).uistat.getLsbD 2 = false ∧ (t.ctx c x).sc.pc = k.uistat.extractLsb' 32 32 ∧
        (∀ i, i < 8 → (t.ctx c x).sc.get (56 + i) = tgetD k.shadow i 0 ∧ tgetD (t.ctx c x).shadow i 0 = k.sc.get (56 + i)) ∧
        (∀ r, r < 56 → (t.ctx c x).sc.get r = k.sc.get r))) ∧
  (∀ (s : State) (c x : Nat) (tag : BitVec 16) (rest : List (BitVec 16)),
    let k := s.ctx c x
    k.notif = tag :: rest → k.uiDue = true → k.sc.nextAt ≤ (s.mdw c).mtc →
    ∃ t, exec (.userInterruptEntry c x) s = .next t ∧ OnlyCtx s t c x ∧
      let j := t.ctx c x
      j.notif = rest ∧ j.sc.pc = (k.uivec.extractLsb' 0 32 &&& 0xFFFFFFFC#32) ∧ j.uistat.extractLsb' 32 32 = k.sc.pc ∧
      j.uistat.extractLsb' 16 16 = tag ∧ j.uistat.getLsbD 2 = true ∧ j.uistat.getLsbD 0 = true ∧
      (∀ i, i < 8 → j.sc.get (56 + i) = tgetD k.shadow i 0 ∧ tgetD j.shadow i 0 = k.sc.get (56 + i)) ∧ (∀ r, r < 56 → j.sc.get r = k.sc.get r)))

/-- R247, R322: LNCH sends the 64 bytes of its record, and HSPDECL its declaration, and the S-stream is held until the answer comes. -/
def Obligations.LaunchAndDeclareWords : Prop :=
  ∀ (s : State) (c x : Nat) (ic : BitVec 2) (rd : BitVec 6) (ra rb : BitVec 5) (rw : BitVec 6) (ip : List Part) (p : Part) (ps : List Part),
    let k := s.ctx c x
    let a := (k.sc.getD ra.toNat).toNat
    let ring := (k.sc.getD rb.toNat).toNat
    let w := k.sc.get rw.toNat
    k.sWait = none →
    (Ready s c x (rd.toNat :: pairRegs ra ++ pairRegs rb) → a % 64 = 0 → ring % 64 = 0 →
      s.access (s.mdw c) { read := true, resident := true } [(a, 64)] = .ok ip → s.access (s.mdw c) .atomic [(ring, 64)] = .ok (p :: ps) →
      s.ownReadWaits c x ip = false → s.memClean = true → (s.readParts ip).2.1 = 0 →
      ∃ t r, exec (.lnch ic rd ra rb) s = .next t ∧ regsSame s t ∧ OnlyCtx s t c x ∧ Sends s t p c x r ∧
        r.op = .lnch (BitVec.ofNat 512 (s.readParts ip).1) r.id ∧ r.rel ≠ none ∧
        (t.ctx c x).sWait = some { id := r.id, pc := k.sc.pc, issued := true, rd := rd.toNat, ic := ic }) ∧
    (Ready s c x (rw.toNat :: pairRegs ra) → a % 64 = 0 → w.toNat / 2 ^ 28 % 8 = 0 →
      s.access (s.mdw c) { read := true, write := true, resident := true } [(a, if w.getLsbD 31 then 64 else 64 * (w.toNat % 2 ^ 16 + 1))] =
        .ok (p :: ps) →
      ∃ t r, exec (.hspdecl ic ra rw) s = .next t ∧ regsSame s t ∧ OnlyCtx s t c x ∧ Sends s t p c x r ∧ r.op = .hspdecl w r.id ∧
        (t.ctx c x).sWait = some { id := r.id, pc := k.sc.pc, issued := true, rd := 0, ic := ic })

/-- R331, R332, R333, R334: a new task, its restart, its end with nothing outstanding, its abort, and its age. R323, R325, R326: a load of a
task whose one set is free takes the set and its data; a rollback puts the registers of TBEGIN back, once the S-stream's loads have landed.
-/
def Obligations.HaspTasks : Prop :=
  (∀ (a b : Nat), ∀ i ∈ [Instr.haspTouch a b, .haspRollback a b], Completes i) ∧
  ((∀ (s : State) (c x : Nat) (ic : BitVec 2) (rd ra : BitVec 6) (p : BitVec 5), s.cur = .stream c x .s →
    let k := s.ctx c x
    let h := k.hasp
    (s.held [rd.toNat] = false → h.state = .none →
      ∃ t, exec (.tbegin ic rd) s = .next t ∧ Advanced s t ic ∧ RegGets s t (s.clock + 1) rd.toNat 0 ∧ OnlyCtx s t c x ∧
        (t.ctx c x).hasp.state = .active ∧ (t.ctx c x).hasp.age = ⟨s.gtc, c, x⟩ ∧ (t.ctx c x).hasp.tbpc = k.sc.pc ∧
        (t.ctx c x).hasp.rd = rd.toNat ∧ (t.ctx c x).hasp.restarts = 0 ∧ (t.ctx c x).hasp.snap = k.sc.regs) ∧
    (s.held [rd.toNat] = false → h.state = .restart → k.sc.pc = h.tbpc → h.waitSet = none →
      ∃ t, exec (.tbegin ic rd) s = .next t ∧ Advanced s t ic ∧ OnlyCtx s t c x ∧
        RegGets s t (s.clock + 1) rd.toNat (BitVec.ofNat 32 (min (h.restarts + 1) 0x7FFF)) ∧
        (t.ctx c x).hasp = { h with state := .active, rd := rd.toNat, restarts := min (h.restarts + 1) 0x7FFF, waitSet := none }) ∧
    (h.state = .active → h.roll = none → s.openAccs c x = [] → (∀ m ∈ s.meadows, ∀ j ∈ m.2.ctxs, j.2.hasp.waitSet = none) →
      ∃ t, exec (.tend ic) s = .next t ∧ Advanced s t ic ∧ regsSame s t ∧ OnlyCtx s t c x ∧ (t.ctx c x).hasp.state = .none ∧
        (∀ d, d < 2 → (∀ q ∈ (t.eng d).sets, q.owner ≠ some h.age) ∧ (∀ u ∈ (t.eng d).log, u.owner ≠ h.age))) ∧
    (s.held [ra.toNat] = false → h.state = .active → (k.sc.get ra.toNat).toNat < 0x7FFF →
      ∃ t, exec (.tabort ic ra) s = .next t ∧ (t.ctx c x).hasp.roll = some (.abort (k.sc.get ra.toNat).toNat) ∧
        (∀ d, d < 2 → (∀ q ∈ (t.eng d).sets, q.owner ≠ some h.age) ∧ (∀ u ∈ (t.eng d).log, u.owner ≠ h.age))) ∧
    (s.held (pairRegs p) = false →
      givesPair s (.tage ic p) ic 1 p.toNat (if h.state = .none then 0 else BitVec.ofNat 64 h.age.g))) ∧
  (∀ (s : State) (c x d : Nat) (e : LandEntry) (q : HaspSet),
    let k := s.ctx c x
    (s.haspLoad? e.id = some (c, x, e) → s.memClean = true → k.landing.find? (fun g => g.id == e.id) = some e →
      e.spad = none → (∀ u ∈ e.todo, ∃ p ∈ e.parts, p.off = u.1) → homeDie (((e.parts.head?).map (·.va)).getD 0) = d →
      s.loadReady c x e = true → s.setsOf ((s.mdw c).region.getD 0) e.parts = [(d, q)] →
      (s.eng d).sets.find? (fun t => t.region == q.region && t.ident == q.ident) = some q → q.owner = none →
      ∃ t, exec (.haspTouch d e.id) s = .next t ∧
        (∀ u ∈ (t.eng d).sets, u.region = q.region → u.ident = q.ident → u.owner = some k.hasp.age) ∧
        ∃ g, (t.ctx c x).landing.find? (fun g => g.id == e.id) = some g ∧ g.arrived = true) ∧
    (k.hasp.roll = some .restart → k.trap = none → (∀ l ∈ k.landing, l.stream ≠ .s) →
      ∃ t, exec (.haspRollback c x) s = .next t ∧ OnlyCtx s t c x ∧ (t.ctx c x).sc.regs = k.hasp.snap ∧ (t.ctx c x).sc.pc = k.hasp.tbpc ∧
        (t.ctx c x).hasp = { k.hasp with state := .restart, roll := none }) ∧
    (∀ n, k.hasp.roll = some (.abort n) → k.trap = none → (∀ l ∈ k.landing, l.stream ≠ .s) → k.hasp.rd ≠ 0 →
      ∃ t, exec (.haspRollback c x) s = .next t ∧ OnlyCtx s t c x ∧ (t.ctx c x).sc.pc = k.hasp.tbpc + 4 ∧ (t.ctx c x).hasp.state = .none ∧
        (t.ctx c x).sc.get k.hasp.rd = BitVec.ofNat 32 (2 ^ 31 + n) ∧
        (∀ r, r ≠ 0 → r ≠ k.hasp.rd → (t.ctx c x).sc.get r = tgetD k.hasp.snap r 0))))

/-! ## Traps and system words -/

/-- R374, R373: TRAP raises SOFT_TRAP with its operand as TVAL, and the saved counter will be the word after it. R375, R372: ERET at level S
in a handler restores the level, clears ACTIVE, SKIP, MULT and CAUSE2, and goes on at SEPC three cycles later; with SKIP a V-word that had
not issued is discarded (log entry 54). -/
def Obligations.TrapAndReturn : Prop :=
  (∀ (s : State) (c x : Nat) (ic : BitVec 2) (ra : BitVec 6), s.cur = .stream c x .s → s.held [ra.toNat] = false → (s.ctx c x).trap = none →
    let k := s.ctx c x
    ∃ t p, exec (.trap ic ra) s = .next t ∧ OnlyCtx s t c x ∧ (t.ctx c x).trap = some p ∧ p.cause = 0 ∧
      p.tval = (k.sc.get ra.toNat).setWidth 64 ∧ p.tpc = k.sc.pc ∧ p.stream = some .s ∧ (t.ctx c x).sc = k.sc ∧
      (k.hasp.state ≠ .active → k.sepcOf p = k.sc.pc + 4)) ∧
  (∀ (s : State) (c x : Nat) (ic : BitVec 2), Ready s c x [] → (s.ctx c x).pl ≠ 0 → (s.ctx c x).tcause.getLsbD 14 = true →
    (s.ctx c x).unbound = [] → (s.ctx c x).trap = none → ((s.ctx c x).tcause.extractLsb' 32 32).toNat % 4 = 0 →
    let k := s.ctx c x
    let tc := k.tcause.toNat
    ∃ t, exec (.eret ic) s = .next t ∧ OnlyCtx s t c x ∧
      let j := t.ctx c x
      j.sc.pc = k.tcause.extractLsb' 32 32 ∧ j.sc.nextAt = max (s.clock + 3) (s.clock + icGap ic) ∧ regsSame s t ∧
      j.pl = tc / 2 ^ 12 % 4 ∧ j.tcause = k.tcause &&& ~~~0x00FFC000#64 ∧ j.tval = k.tval ∧ j.tpc = k.tpc ∧
      (k.tcause.getLsbD 15 = false → j.vpc = k.vpc ∧ j.mpc = k.mpc) ∧
      (k.tcause.getLsbD 15 = true → tc / 2 ^ 8 % 4 = 1 → j.vpc = (if k.trapIssued = true then k.vpc else k.vpc + 12) ∧ j.mpc = k.mpc))

/-- R373, R372: when the words of a context that has a cause have completed, trap entry writes TCAUSE with SEPC, CAUSE, the stream and the
level left, TVAL and TPC, and enters level S at TVEC; no register, predicate or queue changes, and no other context. In a handler, or
without one, the fault domain stops. That entry may take the cause's own cycle is log entry 23. -/
def Obligations.TrapEntry : Prop :=
  (∀ (a b : Nat), Completes (.trapEntry a b)) ∧
  (∀ (s : State) (c x : Nat) (p : TrapPend),
    let m := s.mdw c
    let k := m.ctx x
    k.trap = some p → m.stopping = none → p.at_ ≤ s.gtc → s.trapQuiet c x = true → p.cause < 128 → p.cause ≠ Cause.owner →
    (k.active = false → m.tvec ≠ 0 → k.hasp.state ≠ .active →
      ∃ t, exec (.trapEntry c x) s = .next t ∧ OnlyCtx s t c x ∧
        let j := t.ctx c x
        j.trap = none ∧ j.pl = 1 ∧ j.active = true ∧ j.sc.pc = m.tvec ∧ j.sRun = true ∧ p.mtc + 3 ≤ j.sc.nextAt ∧
        j.tval = p.tval ∧ j.tpc = (p.walk.getD (if p.stream = none then k.sc.pc else p.tpc)).setWidth 64 ∧
        j.tcause.toNat % 128 = p.cause ∧ j.tcause.toNat / 2 ^ 8 % 4 = streamCode p.stream ∧ j.tcause.toNat / 2 ^ 12 % 4 = k.pl ∧
        j.tcause.getLsbD 15 = false ∧ j.tcause.getLsbD 16 = p.cause2.isSome ∧ j.tcause.extractLsb' 32 32 = k.sepcOf p ∧
        j.sc.regs = k.sc.regs ∧ j.preds = k.preds ∧ j.q64 = k.q64 ∧ j.qrow = k.qrow ∧ j.mregs = k.mregs ∧ j.vpc = k.vpc ∧ j.mpc = k.mpc) ∧
    (k.active = true ∨ m.tvec = 0 →
      ∃ t, exec (.trapEntry c x) s = .next t ∧ OnlyCtx s t c x ∧ (t.ctx c x).trap = none ∧ (t.ctx c x).sc = k.sc ∧
        t.agenda = Act.ev (.faultDomainStop (s.domainOf c) p.cause (ctxid c x) p.tval false) :: s.agenda))

/-- R51, R373: a word that raises its cause changes no register and no memory and leaves the cause, its value and its own address with its
context: a misaligned JALR target (R24), an unallocated control register (R42), a privileged word at level U (R42, R374, R375), a stop word
inside a hasp task (R328), EXIT there with HASP_STATE and 3 (R332, R335), and a window fault of a load (R193). -/
def Obligations.ScalarTraps : Prop :=
  ∀ (s : State) (c x : Nat) (ic : BitVec 2) (rd ra : BitVec 6) (pa pb : BitVec 5) (imm : BitVec 12), s.cur = .stream c x .s →
    (s.ctx c x).trap = none → (∀ rs, s.held rs = false) →
    let k := s.ctx c x
    let raises (i : Instr) (cause : Nat) (tval : W64) := ∃ t p, exec i s = .next t ∧ OnlyCtx s t c x ∧ (t.ctx c x).sc = k.sc ∧
      (t.ctx c x).trap = some p ∧ p.cause = cause ∧ p.tval = tval ∧ p.tpc = k.sc.pc ∧ p.stream = some .s ∧ p.sepc = .atWord
    ((k.sc.get ra.toNat + imm.signExtend 32).toNat % 4 ≠ 0 →
      raises (.jalr ic rd ra imm) Cause.fetchAlign ((k.sc.get ra.toNat + imm.signExtend 32).setWidth 64)) ∧
    (csrKind imm.toNat = none → raises (.csrr ic pa imm) Cause.resOperand (bitTval 11) ∧ raises (.csrw ic pa imm) Cause.resOperand (bitTval 11)) ∧
    (csrKind imm.toNat = some .supervisor → k.pl = 0 → raises (.csrw ic pa imm) Cause.priv 0) ∧
    (k.pl = 0 → raises (.eret ic) Cause.priv 0 ∧ raises (.halt ic pa) Cause.priv 0) ∧
    (k.hasp.state = .active → ∀ (q : BitVec 2) (n : BitVec 3) (sg wide : Bool) (ty : FredType) (sc : Scope),
      ∀ i ∈ [Instr.qpush ic q pa, .qpop ic pa q, .qpeek ic pa q, .sew ic n pa, .sego ic sc, .segoResume ic sc, .segoDrop ic sc, .sepop ic pa,
        .atomAdd ic sg wide sc pa ra, .atomAnd ic sg wide sc pa ra, .atomOr ic sg wide sc pa ra, .atomXor ic sg wide sc pa ra,
        .atomMin ic sg wide sc pa ra, .atomMax ic sg wide sc pa ra, .atomSwap ic sg wide sc pa ra, .acas ic sg wide sc pa ra,
        .redAdd ic sg wide sc pa ra, .redAnd ic sg wide sc pa ra, .redOr ic sg wide sc pa ra, .redXor ic sg wide sc pa ra,
        .redMin ic sg wide sc pa ra, .redMax ic sg wide sc pa ra, .fredAdd ic ty sc pa ra, .fredMin ic ty sc pa ra, .fredMax ic ty sc pa ra,
        .apop ic pa, .barv ic sc pa, .bard ic sc pa, .barx ic sc pa ra, .barw ic sc pa pb, .bart ic sc pa ra, .sems ic sc pa ra, .semw ic sc pa pb,
        .uiret ic, .afence ic pa sc, .dseed ic pa ra], raises i Cause.haspIllegal (k.sc.pc.setWidth 64)) ∧
    (k.hasp.state = .active → raises (.exit ic) Cause.haspState 3) ∧
    (∀ cause tval, s.access (s.mdw c) .load [((k.sc.getD pa.toNat).toNat, 4)] = .trap cause tval → raises (.ldw ic rd pa imm) cause tval)

/-- R10, R34, R371: a V-word whose rows lie in a tile that is not granted raises TILE_NOT_GRANTED with the lowest such row as TVAL; an
M-word that names such a tile has 128 × k, and MLDB of an operand register that is not granted has 0x400 + N. Nothing else changes. -/
def Obligations.UngrantedTiles : Prop :=
  ∀ (s : State) (c x : Nat), (s.ctx c x).trap = none →
    let k := s.ctx c x
    let raises (i : Instr) (st : StreamId) (pc : W32) (tval : Nat) := ∃ t p, exec i s = .next t ∧ OnlyCtx s t c x ∧ (t.ctx c x).sc = k.sc ∧
      (t.ctx c x).vpc = k.vpc ∧ (t.ctx c x).mpc = k.mpc ∧ (t.ctx c x).trap = some p ∧ p.cause = 0x20 ∧ p.tval = BitVec.ofNat 64 tval ∧
      p.tpc = pc ∧ p.stream = some st ∧ p.sepc = .nextUnissued
    (∀ op w, ∀ i ∈ sweepWords w ++ [.vmarkFull w, .vmarkEmpty w], s.cur = .stream c x .v → vParts i = some (op, w) →
      ∀ v ∈ vTouched op.toNat w, k.tileGranted (v / 128) = false → (∀ u ∈ vTouched op.toNat w, k.tileGranted (u / 128) = false → v ≤ u) →
      (op = 0x80#8 → vIndexBad (s.mdw c) k w = false) →
      raises i .v k.vpc v) ∧
    (∀ w, s.cur = .stream c x .m → k.tileGranted w.tile.toNat = false →
      let regs := mWordRegs k w
      (∀ i ∈ [Instr.mzero w, .mtype w, .mfull w, .mempty w], raises i .m k.mpc (128 * w.tile.toNat)) ∧
      (ldbPast (s.mdw c) w = false → raises (.mldbAcc w) .m k.mpc (128 * w.tile.toNat)) ∧
      ((s.mdw c).drawHolds x s.gtc = false →
        ((s.mdw c).staDescBad w ((regs[0]?).getD 0) ((regs[1]?).getD 0) = false → raises (.msta w) .m k.mpc (128 * w.tile.toNat)) ∧
        (listBad (k.mreg w.mx.toNat) (k.mreg (w.mx.toNat + 1)) = false → raises (.mdraw w) .m k.mpc (128 * w.tile.toNat)))) ∧
    (∀ w n, s.cur = .stream c x .m → (s.mdw c).drawHolds x s.gtc = false →
      descBad (((mWordRegs k w)[0]?).getD 0) (((mWordRegs k w)[1]?).getD 0) = false → w.srcB = .breg n → k.bregGranted n.toNat = false → raises (.mldbSpad w) .m k.mpc (0x400 + n.toNat))

/-- R374, R383, R363, R353: HALT ends its region with HALTED; CTXSV and CTXLD ask their meadow to stop or give their status; KEYLD of slot 0
is refused with status 3, an erase empties its slot, and a blob that unwraps to a key of two different halves fills it; TWLD of entries that
break no rule gives 0 and, when its copy has been made, the window holds them. The cycle of the results of KEYLD and TWLD is the model's (log
entry 41). -/
def Obligations.SupervisorWords : Prop :=
  (∀ (s : State) (c x : Nat) (ic : BitVec 2) (rd rb : BitVec 6) (ra : BitVec 5), (s.ctx c x).pl ≠ 0 →
    (∀ y, (s.ctx c y).hasp.state ≠ .active) →
    let m := s.mdw c
    let k := m.ctx x
    let a := (k.sc.getD ra.toNat).toNat
    let w := (k.sc.get rb.toNat).toNat
    (∀ g r, Ready s c x (pairRegs ra) → m.region = some g → s.regions.find? (fun q => q.id == g) = some r → r.fin = none →
      ∃ t, exec (.halt ic ra) s = .next t ∧ ∃ q, t.regions.find? (fun q => q.id == g) = some q ∧
        q.fin = some { status := 0x22, fctx := BitVec.ofNat 64 (x % 4 * 512 + c % 512), fval := k.sc.getD ra.toNat }) ∧
    (∀ ps, Ready s c x (rd.toNat :: pairRegs ra) → k.sWait = none → a % 4096 = 0 → s.access m .store [(a, 2 ^ 21)] = .ok ps →
      (m.beat = none → m.stopping = none → ∃ t, exec (.ctxsv ic rd ra) s = .next t ∧
        (t.mdw c).stopping = some ⟨.save x rd.toNat (k.sc.getD ra.toNat), s.gtc, s.gtc, false⟩ ∧ ((t.ctx c x).sWait.map (·.issued)) = some true ∧ memSame s t) ∧
      (m.beat.isSome = true → givesReg s (.ctxsv ic rd ra) ic 1 rd.toNat 2)) ∧
    (∀ ps, Ready s c x (rd.toNat :: rb.toNat :: pairRegs ra) → k.sWait = none → a % 4096 = 0 → w < 2 →
      s.access m { read := true, resident := true } [(a, 2 ^ 21)] = .ok ps →
      (s.imageCheck c a ((k.sc.get rb.toNat).getLsbD 0) = none → m.stopping = none → ∃ t, exec (.ctxld ic rd ra rb) s = .next t ∧
        (t.mdw c).stopping = some ⟨.load x (k.sc.getD ra.toNat) ((k.sc.get rb.toNat).getLsbD 0), s.gtc, s.gtc, false⟩ ∧ memSame s t) ∧
      (∀ v, s.imageCheck c a ((k.sc.get rb.toNat).getLsbD 0) = some v → givesReg s (.ctxld ic rd ra rb) ic 1 rd.toNat (BitVec.ofNat 32 v))) ∧
    (∀ ps, Ready s c x (rd.toNat :: rb.toNat :: pairRegs ra) → a % 8 = 0 → w / 2 ^ 10 % 2 ^ 21 = 0 → s.access m .load [(a, 72)] = .ok ps →
      s.ownReadWaits c x ps = false → s.memClean = true →
      (w % 2 ^ 10 = 0 → ∃ t due, exec (.keyld ic rd ra rb) s = .next t ∧ s.clock < due ∧ RegGets s t due rd.toNat 3 ∧ OnlyCtx s t c x) ∧
      (w % 2 ^ 10 ≠ 0 → s.level < 2 → 2 ^ 31 ≤ w → ∃ t due, exec (.keyld ic rd ra rb) s = .next t ∧ s.clock < due ∧
        RegGets s t due rd.toNat 0 ∧ tget t.keys (w % 2 ^ 10) = none ∧ ∀ n, n ≠ w % 2 ^ 10 → tget t.keys n = tget s.keys n) ∧
      (w % 2 ^ 10 ≠ 0 → s.level < 2 → w < 2 ^ 31 → (s.readParts ps).2.1 = 0 →
        ∃ t due, exec (.keyld ic rd ra rb) s = .next t ∧ s.clock < due ∧ (∀ n, n ≠ w % 2 ^ 10 → tget t.keys n = tget s.keys n) ∧
          match s.unwrap (BitVec.ofNat 576 (s.readParts ps).1) with
          | none => RegGets s t due rd.toNat 1 ∧ tget t.keys (w % 2 ^ 10) = tget s.keys (w % 2 ^ 10)
          | some key => if key.extractLsb' 0 256 = key.extractLsb' 256 256
              then RegGets s t due rd.toNat 2 ∧ tget t.keys (w % 2 ^ 10) = tget s.keys (w % 2 ^ 10)
              else RegGets s t due rd.toNat 0 ∧ tget t.keys (w % 2 ^ 10) = some key))) ∧
  (∀ (s : State) (c x : Nat) (ic : BitVec 2) (rd rb : BitVec 6) (ra : BitVec 5), Ready s c x (rd.toNat :: rb.toNat :: pairRegs ra) → (s.ctx c x).pl ≠ 0 →
    let m := s.mdw c
    let k := m.ctx x
    let a := (k.sc.getD ra.toNat).toNat
    let first := (k.sc.get rb.toNat).toNat % 2 ^ 16
    let count := (k.sc.get rb.toNat).toNat / 2 ^ 16 % 2 ^ 16
    let es := s.imageEntries a first count
    let after := es.foldl (fun t e => tputD t e.1 e.2 0) m.window
    a % 64 = 0 → 0 < count → first + count ≤ 6144 → s.backed (a + 8 * first) = true → s.memClean = true →
    (∀ l ∈ lineNos (a + 8 * first) (8 * count), (s.heathLine (64 * l) 0).2 = false) →
    s.windowFault (s.regionKey m) after (es.map (·.1)) = none →
    ∃ t due, exec (.twld ic rd ra rb) s = .next t ∧ s.clock < due ∧ RegGets s t due rd.toNat 0 ∧ OnlyMdw s t c ∧ (t.mdw c).window = m.window ∧
      (m.late = [] → ((t.mdw c).applyLate (s.gtc + (due - s.clock) + 1)).window = after))

/-- R213, R108, R372, R375: a whole-machine frame. No word changes GTC, TVAL, TPC, UIVEC, a predicate, the window, the scratchpad, a buffer,
the tag table, a bank format, the topology table, MTC, EMETER, PRIO, MISS_COUNT or another control register of the meadow in its issue cycle;
TCAUSE and ISTAT change by ERET alone, UISTAT and the shadows by UIRET alone, the draw key by DSEED alone and the draw counter by it and by V-
and M-words, the key slots by KEYLD alone; and memory stays but for AFENCE and KEYLD, which write lines back, and TABORT, HALT, CTXSV and
CTXLD, which undo hasp tasks. -/
def Obligations.WordFrames : Prop :=
  ∀ (s t : State) (i : Instr), (encode i).isSome = true → exec i s = .next t →
    t.gtc = s.gtc ∧ ((∀ ic rd ra rb, i ≠ .keyld ic rd ra rb) → t.keys = s.keys) ∧
    ((∀ ic ra sc, i ≠ .afence ic ra sc) → (∀ ic rd ra rb, i ≠ .keyld ic rd ra rb) → (∀ ic ra, i ≠ .tabort ic ra) → (∀ ic ra, i ≠ .halt ic ra) →
      (∀ ic rd ra, i ≠ .ctxsv ic rd ra) → (∀ ic rd ra rb, i ≠ .ctxld ic rd ra rb) → memSame s t) ∧
    (∀ c, let m := s.mdw c; let n := t.mdw c
      n.tvec = m.tvec ∧ n.relmask = m.relmask ∧ n.window = m.window ∧ n.spad = m.spad ∧ n.sbf = m.sbf ∧ n.tags = m.tags ∧ n.bufs = m.bufs ∧
      n.topo = m.topo ∧ n.look = m.look ∧ n.ageLimit = m.ageLimit ∧ n.mbpol = m.mbpol ∧ n.beatLimit = m.beatLimit ∧ n.missCount = m.missCount ∧
      n.prio = m.prio ∧ n.emeter = m.emeter ∧ n.mtc = m.mtc) ∧
    (∀ c x, let k := s.ctx c x; let j := t.ctx c x
      j.tval = k.tval ∧ j.tpc = k.tpc ∧ j.uivec = k.uivec ∧ j.preds = k.preds ∧
      ((∀ ic, i ≠ .eret ic) → j.tcause = k.tcause ∧ j.istat = k.istat) ∧ ((∀ ic, i ≠ .uiret ic) → j.uistat = k.uistat ∧ j.shadow = k.shadow) ∧
      ((∀ ic p r, i ≠ .dseed ic p r) → j.seed = k.seed ∧ (vParts i = none → mParts i = none → j.ctr = k.ctr)))

/-! ## Heath words -/

/-- R261, R262, R263, R264: an engine command word whose block passes every check hands its command on and marks its tag as running; one
whose block fails a check gives the tag that check's status. Said of a package with no latent DRAM error. -/
def Obligations.EngineCommandWords : Prop :=
  ∀ (s : State) (h : Nat) (ic : BitVec 2) (ra : BitVec 5) (key : Nat), s.cur = .hcp h → s.held (pairRegs ra) = false → s.memClean = true →
    let t0 := s.hcp h
    let pa := (t0.sc.getD ra.toNat).toNat % 2 ^ 48
    let v := (s.hRead key pa 64).1
    let b : HBlock := ⟨(List.range 8).map fun i => BitVec.ofNat 64 (v / 2 ^ (64 * i))⟩
    pa % 64 = 0 → t0.check pa 64 = .ok key → (s.hRead key pa 64).2 = 0 → (tgetD t0.status b.tag 0).getLsbD 31 = false →
    ∀ f ∈ ([(.hgemv ic ra, 0), (.hred ic ra, 1), (.hland ic ra, 2), (.hwalk ic ra, 3), (.hscan ic ra, 4), (.hcopy ic ra, 5)] : List (Instr × Nat)),
      s.queueFull { id := 0, hcp := h, func := f.2, block := b.w, engines := b.engines, readyAt := 0 } = false →
      (∀ l, s.hCheck h f.2 b = .ok l → s.thresh ≤ t0.effClass → t0.stores = [] →
        ∃ t c, exec f.1 s = .next t ∧ Advanced s t ic ∧ regsSame s t ∧ memSame s t ∧ t.hcmds = s.hcmds ++ [c] ∧ c.hcp = h ∧ c.func = f.2 ∧
          c.block = b.w ∧ c.engines = b.engines ∧ c.started = false ∧ tgetD (t.hcp h).status b.tag 0 = 0x80000000#32) ∧
      (∀ st d, s.hCheck h f.2 b = .error (st, d) →
        ∃ t, exec f.1 s = .next t ∧ Advanced s t ic ∧ regsSame s t ∧ memSame s t ∧ t.hcmds = s.hcmds ∧
          tgetD (t.hcp h).status b.tag 0 = BitVec.ofNat 32 (st * 2 ^ 16 + min d 65535))

/-- R273, R274, R275, R276: HROW opens its row under a lease, HFENCE and HWAIT go on once what they wait for is over, HSTAT reads a tag,
HPOST and HPOST_ERR send their post. -/
def Obligations.HeathControlWords : Prop :=
  ∀ (s : State) (h : Nat) (ic : BitVec 2) (rd ra rb : BitVec 6) (p : BitVec 5) (sc : Scope), s.cur = .hcp h →
    let t0 := s.hcp h
    let a := (t0.sc.get ra.toNat).toNat
    let pa := (t0.sc.getD p.toNat).toNat % 2 ^ 48
    let w := (t0.sc.get rb.toNat).toNat
    (∀ pl, s.held (rb.toNat :: pairRegs p) = false → 1 ≤ w % 2 ^ 7 → w % 2 ^ 7 ≤ 64 → w / 2 ^ 7 % 2 ^ 9 = 0 → 1 ≤ w / 2 ^ 16 % 2 ^ 10 →
      w / 2 ^ 16 % 2 ^ 10 ≤ 512 → w / 2 ^ 26 = 0 → (⟨pa, 1, .own, true⟩ : HRange).check h t0 = none → placeOf pa = some pl →
      ∃ t, exec (.hrow ic p rb) s = .next t ∧ Advanced s t ic ∧ regsSame s t ∧ memSame s t ∧ (t.hcp h).lease = some (pl.bankIx, pl.row) ∧
        (t.hcp h).cols = w % 2 ^ 7 ∧ (t.hcp h).ns = w / 2 ^ 16 % 2 ^ 10 ∧
        ∃ r ∈ (t.arb pl.pc).queue, r.kind = .heath ∧ r.hcp = h ∧ r.hrow = true ∧ r.bank = pl.bankIx ∧ r.row = pl.row ∧
          r.lim = (w % 2 ^ 7, 2 * (w / 2 ^ 16 % 2 ^ 10))) ∧
    ((∀ c ∈ s.hcmds, c.hcp ≠ h) → t0.stores = [] →
      ∃ t, exec (.hfence ic sc) s = .next t ∧ Issued s t (s.core.pc + 4) (s.clock + icGap ic) ∧ regsSame s t) ∧
    (s.held [ra.toNat] = false → a < 2 ^ 16 → (∀ i, i < 16 → a.testBit i = true → (tgetD t0.status i 0).getLsbD 31 = false) →
      ∃ t, exec (.hwait ic ra) s = .next t ∧ Issued s t (s.core.pc + 4) (s.clock + icGap ic) ∧ regsSame s t) ∧
    (s.held [rd.toNat, ra.toNat] = false → a < 16 → givesReg s (.hstat ic rd ra) ic 1 rd.toNat (tgetD t0.status a 0)) ∧
    (∀ va pp key, s.held [ra.toNat, rb.toNat] = false → a < 8 → tget t0.posts a = some (va, pp, key) → t0.stores = [] →
      ∀ f ∈ ([(.hpost ic sc ra rb, none), (.hpostErr ic sc ra rb, some (BitVec.ofNat 32 (t0.rank * 2 ^ 16 + 5)))] : List (Instr × Option W32)),
      ∃ t r, exec f.1 s = .next t ∧ Advanced s t ic ∧ regsSame s t ∧ memSame s t ∧
        (t.eng (homeDie va)).reqs = (s.eng (homeDie va)).reqs ++ [r] ∧ r.va = va ∧ r.pa = pp ∧ r.key = key ∧ r.heath = true ∧
        r.op = .hpost (t0.sc.get rb.toNat) f.2)

/-! ## Vector words -/

/-- R25, R112, R115, R116: every V-word that sweeps rows issues once nothing holds it and its checks pass: one flight starts in this MTC
cycle with its step count, and VLD and VLDS take a landing entry for each step, which lands at issue + step + offset (R197, R200). R132,
R133: V_NOP only goes on; VMARK sets the bit of its tile at issue; VEXIT ends the V-stream. -/
def Obligations.VectorWordsIssue : Prop :=
  (∀ (s : State) (c x : Nat) (op : BitVec 8) (w : VWord), ∀ i ∈ sweepWords w, VReady s c x i op w → (s.mdw c).ecc = [] →
    s.vCheck c x op.toNat w = .go →
    ∃ t f, exec i s = .next t ∧ VIssued s t c x w.ic ∧ (t.mdw c).flights = (s.mdw c).flights ++ [f] ∧ f.ins = i ∧ f.ctx = x ∧
      f.t0 = s.gtc ∧ f.n = rowCount w.n ∧ f.step = 0 ∧ f.done = [] ∧
      (op = 0x70 ∨ op = 0x72 → (t.ctx c x).landing.map (·.lam) =
        (s.ctx c x).landing.map (·.lam) ++
          (List.range (if op = 0x70 then (vMemAddrs (s.ctx c x) s.gtc op.toNat w).length else rowCount w.n)).map
            fun j => (s.mdw c).mtc + j + opImmN w.src2 % 4096) ∧
      (op ≠ 0x70 → op ≠ 0x72 → (t.ctx c x).landing = (s.ctx c x).landing)) ∧
  (∀ (s : State) (c x : Nat) (op : BitVec 8) (w : VWord),
    (VReady s c x (.vNop w) op w → ∃ t, exec (.vNop w) s = .next t ∧ VIssued s t c x w.ic ∧ (t.mdw c).tileFull = (s.mdw c).tileFull ∧
      (t.mdw c).flights = (s.mdw c).flights) ∧
    (∀ i ∈ [Instr.vmarkFull w, Instr.vmarkEmpty w], VReady s c x i op w → ∃ t, exec i s = .next t ∧ VIssued s t c x w.ic ∧
      (∀ k, k ∈ (t.mdw c).tileFull ↔ if k = opRow w.dst 0 / 128 then opImmN w.src1 = 1 else k ∈ (s.mdw c).tileFull)) ∧
    (VReady s c x (.vexit w) op w → ∃ t, exec (.vexit w) s = .next t ∧ VIssued s t c x w.ic ∧ (t.ctx c x).vRun = false))

/-- R118, R127, R128, R113: a step of an integer form of 8, 16 or 32 bits on row operands, unguarded: each lane's result, over integers,
kept in the type's range for VADD, VSUB, VMUL, VFMA, VABS, VNEG and VSHL (R75), wrapped for VMULH; and lanes moved, rotated and broadcast.
-/
def Obligations.IntegerLaneResults : Prop :=
  (∀ (a b : Nat), Completes (.vectorSweepStep a b)) ∧
  (∀ (s : State) (c : Nat) (f : VFlight) (w : VWord) (b1 b2 bd : BitVec 10) (s1 s2 sd : BitVec 6), w.et.cls = .I → w.pred = 0 → w.sense = false →
    w.src1 = .rows b1 s1 false false → w.dst = .rows bd sd false false →
    let n := w.et.width
    let m := s.mdw c
    let a (j : Nat) := laneOf n (m.row (opRow w.src1 f.step)) j
    let b (j : Nat) := laneOf n (m.row (opRow w.src2 f.step)) j
    let d (j : Nat) := laneOf n (m.row (opRow w.dst f.step)) j
    let val (x : Nat) : Int := if w.et.signed ∧ 2 ^ (n - 1) ≤ x then x - 2 ^ n else x
    let lo : Int := if w.et.signed then -2 ^ (n - 1) else 0
    let hi : Int := if w.et.signed then 2 ^ (n - 1) - 1 else 2 ^ n - 1
    let clamp (v : Int) : Int := max lo (min hi v) % 2 ^ n
    let lanes (i : Instr) (v : Nat → Int) := Sweeping s c f i → ∃ r, StepGives s c f r ∧ r.pred = false ∧ r.mask = BitVec.allOnes 512 ∧
      ∀ j, j < 4096 / n → (laneOf n r.row j : Int) = v j
    (w.src2 = .rows b2 s2 false false →
      lanes (.vadd w) (fun j => clamp (val (a j) + val (b j))) ∧ lanes (.vsub w) (fun j => clamp (val (a j) - val (b j))) ∧
      lanes (.vmul w) (fun j => clamp (val (a j) * val (b j))) ∧ lanes (.vfma w) (fun j => clamp (val (a j) * val (b j) + val (d j))) ∧
      lanes (.vmin w) (fun j => min (val (a j)) (val (b j)) % 2 ^ n) ∧ lanes (.vmax w) (fun j => max (val (a j)) (val (b j)) % 2 ^ n) ∧
      lanes (.vand w) (fun j => (a j &&& b j : Nat)) ∧ lanes (.vor w) (fun j => (a j ||| b j : Nat)) ∧
      lanes (.vxor w) (fun j => (a j ^^^ b j : Nat)) ∧ lanes (.vshl w) (fun j => clamp (val (a j) * 2 ^ min (b j) n)) ∧
      lanes (.vshr w) (fun j => if n ≤ b j then 0 else a j / 2 ^ b j) ∧ lanes (.vsra w) (fun j => val (a j) / 2 ^ min (b j) n % 2 ^ n) ∧
      lanes (.vmulh w) (fun j => val (a j) * val (b j) / 2 ^ n % 2 ^ n)) ∧
    lanes (.vabs w) (fun j => clamp |val (a j)|) ∧ lanes (.vneg w) (fun j => clamp (-val (a j))) ∧
    lanes (.vnot w) (fun j => 2 ^ n - 1 - a j) ∧ lanes (.vclz w) (fun j => (List.range n).countP fun k => a j < 2 ^ k) ∧
    lanes (.vpopc w) (fun j => (List.range n).countP fun k => (a j).testBit k) ∧ lanes (.vmov w) (fun j => a j) ∧
    (∀ k : BitVec 20, w.src2 = .imm k → lanes (.vrot w) (fun j => a ((j + k.toNat) % (4096 / n))) ∧
      (k.toNat < 4096 / n → lanes (.vbcast w) (fun _ => a k.toNat))))

/-- R36, R118 to R126, R128 to R131, R156, R160, R165: a step of the other lane forms on row operands, under any guard, of a type of class F,
E or I, pairs for the draws. A compare writes its condition at active lanes, keeps the bits of inactive ones, and writes the bits behind the
last lane as 0; arithmetic of classes F and E rounds its exact value, with the lane's coin under rm=sr; VSEL, VPERM, VROT, VBCAST, VIOTA and
VCOMP move lanes; VCVT converts the elements in order; reductions are pairwise trees, and scans running values; predicate words combine 512
bits; VSCALE of one row proposes a scale for its greatest active magnitude; VDMRG merges lanes, and VDRAW and DTREE deliver the pair of
their tree. Inactive lanes keep the old value where R114 says so. The exact values are those of the model's number formats. -/
def Obligations.LaneResults : Prop :=
  ∀ (s : State) (c : Nat) (f : VFlight) (w : VWord) (b1 b2 bd : BitVec 10) (s1 s2 sd : BitVec 6), w.dst = .rows bd sd false false →
    let n := w.et.width
    let L := 4096 / n
    let m := s.mdw c
    let i := f.step
    let row (o : VOperand) := m.row (opRow o i)
    let on (j : Nat) := (m.ctx f.ctx).predOn w.pred.toNat w.sense L j
    let a (j : Nat) := laneOf n (row w.src1) j
    let b (j : Nat) := laneOf n (row w.src2) j
    let d (j : Nat) := laneOf n (row w.dst) j
    let val (x : Nat) : Int := if w.et.signed ∧ 2 ^ (n - 1) ≤ x then x - 2 ^ n else x
    let lo : Int := if w.et.signed then -2 ^ (n - 1) else 0
    let hi : Int := if w.et.signed then 2 ^ (n - 1) - 1 else 2 ^ n - 1
    let pat (v : Int) : Nat := (max lo (min hi v) % 2 ^ n).toNat
    let F := tyFmt w.et
    let x (j : Nat) := F.value (a j)
    let y (j : Nat) := F.value (b j)
    let drawn (site : Nat) : Nat := coinOf f.k (meadowSite c site) (f.c0 + BitVec.ofNat 32 i)
    let coin (j : Nat) : Nat := if w.rm = .sr then drawn j else 0
    let gives (ins : Instr) (p : VResult → Prop) := Sweeping s c f ins → ∃ r, StepGives s c f r ∧ p r
    let bits (ins : Instr) (p : Nat → Prop) := gives ins fun r => r.pred = true ∧
      (∀ j, j < L → r.mask.getLsbD j = on j ∧ (on j = true → (r.row.getLsbD j = true ↔ p j))) ∧
      (∀ j, L ≤ j → j < 512 → r.mask.getLsbD j = true ∧ r.row.getLsbD j = false)
    let writes (ins : Instr) (v : Nat → Nat) := gives ins fun r => r.pred = false ∧ r.wide = false ∧ r.mask = BitVec.allOnes 512 ∧
      ∀ j, j < L → laneOf n r.row j = v j % 2 ^ n
    let keeps (ins : Instr) (v : Nat → Nat) := gives ins fun r => r.pred = false ∧ r.wide = false ∧
      ((∀ j, j < L → on j = true) → r.mask = BitVec.allOnes 512) ∧ ((∃ j, j < L ∧ on j = false) → r.mask = 0) ∧
      ∀ j, j < L → laneOf n r.row j = if on j = true then v j % 2 ^ n else d j
    let pair (ins : Instr) (p : DPair) := gives ins fun r => r.pred = false ∧ r.wide = true ∧ r.mask = BitVec.allOnes 512 ∧
      laneOf 32 r.row 0 = p.1 % 2 ^ 32 ∧ laneOf 32 r.hi 0 = p.2 % 2 ^ 32 ∧ ∀ j, 0 < j → j < 128 → laneOf 32 r.row j = 0 ∧ laneOf 32 r.hi j = 0
    let sum (u v : Nat) : Nat := if w.et.cls = .F then F.round w.rm 0 ((F.value u).add w.rm (F.value v)) else pat (val u + val v)
    let greater (u v : Nat) : Nat := if w.et.cls = .F then F.minmax true u v else pat (max (val u) (val v))
    let lesser (u v : Nat) : Nat := if w.et.cls = .F then F.minmax false u v else pat (min (val u) (val v))
    let reduces (ins : Instr) (op : Nat → Nat → Nat) (e : Nat) :=
      writes ins fun j => if j = 0 then (treeNode op (fun j => if on j = true then some (a j) else none) (Nat.log2 L) 0).getD e else 0
    (w.src1 = .rows b1 s1 false false → w.et.cls = .F ∨ w.et.cls = .E ∨ w.et.cls = .I →
      (w.src2 = .rows b2 s2 false false →
        (w.et.cls = .I →
          bits (.vcmpEq w) (fun j => a j = b j) ∧ bits (.vcmpNe w) (fun j => a j ≠ b j) ∧ bits (.vcmpLt w) (fun j => val (a j) < val (b j)) ∧
          bits (.vcmpLe w) (fun j => val (a j) ≤ val (b j)) ∧ bits (.vcmpGt w) (fun j => val (b j) < val (a j)) ∧
          bits (.vcmpGe w) (fun j => val (b j) ≤ val (a j)) ∧ bits (.vcmpUn w) (fun _ => False)) ∧
        (w.et.cls ≠ .I →
          let nan (j : Nat) : Prop := (x j).code?.isSome = true ∨ (y j).code?.isSome = true
          let eq (j : Nat) : Prop := (x j).eqv (y j) = true
          bits (.vcmpEq w) (fun j => ¬nan j ∧ eq j) ∧ bits (.vcmpNe w) (fun j => nan j ∨ ¬eq j) ∧
          bits (.vcmpLt w) (fun j => ¬nan j ∧ Val.lt false (x j) (y j) = true) ∧
          bits (.vcmpLe w) (fun j => ¬nan j ∧ (Val.lt false (x j) (y j) = true ∨ eq j)) ∧
          bits (.vcmpGt w) (fun j => ¬nan j ∧ Val.lt false (y j) (x j) = true) ∧
          bits (.vcmpGe w) (fun j => ¬nan j ∧ (Val.lt false (y j) (x j) = true ∨ eq j)) ∧ bits (.vcmpUn w) nan ∧
          keeps (.vadd w) (fun j => F.round w.rm (coin j) ((x j).add w.rm (y j))) ∧
          keeps (.vsub w) (fun j => F.round w.rm (coin j) ((x j).add w.rm (y j).negate)) ∧
          keeps (.vmul w) (fun j => F.round w.rm (coin j) ((x j).mul (y j))) ∧
          keeps (.vfma w) (fun j => F.round w.rm (coin j) ((x j).fma w.rm (y j) (F.value (d j)))) ∧
          keeps (.vmin w) (fun j => F.minmax false (a j) (b j)) ∧ keeps (.vmax w) (fun j => F.minmax true (a j) (b j))) ∧
        writes (.vsel w) (fun j => if on j = true then a j else b j) ∧
        keeps (.vperm w) (fun j => a (if n = 8 then 256 * (j / 256) + b j else b j % L))) ∧
      (w.et.cls ≠ .I →
        keeps (.vabs w) (fun j => F.round w.rm (coin j) (x j).abs) ∧ keeps (.vneg w) (fun j => F.round w.rm (coin j) (x j).negate)) ∧
      (w.et.cls = .F →
        keeps (.vexp2 w) (fun j => F.round w.rm (coin j) (Fn.exp2.eval (x j))) ∧ keeps (.vlog2 w) (fun j => F.round w.rm (coin j) (Fn.log2.eval (x j))) ∧
        keeps (.vrcp w) (fun j => F.round w.rm (coin j) (Fn.rcp.eval (x j))) ∧ keeps (.vrsq w) (fun j => F.round w.rm (coin j) (Fn.rsq.eval (x j))) ∧
        keeps (.vsqrt w) (fun j => F.round w.rm (coin j) (Fn.sqrt.eval (x j))) ∧
        (∀ k M : Nat, w.src2 = .imm 0 → f.n = 1 → f.acc = [] → (∀ j, j < L → on j = true → x j ≠ .nan 5) →
          (∀ j e, j < L → on j = true → x j = .fin e → a j % 2 ^ (n - 1) ≤ M) →
          M = 0 ∨ (∃ j e, j < L ∧ on j = true ∧ x j = .fin e ∧ a j % 2 ^ (n - 1) = M) → k < 256 →
          gives (.vscale w) fun r => r.pred = false ∧ r.mask = BitVec.allOnes 512 ∧ laneOf 16 r.row k = bandScale [F.value M] % 2 ^ 16) ∧
        (∀ k : BitVec 20, w.src2 = .imm k →
          let q := drawLoad f.acc
          (drawBadT q.1.temp = true → pair (.vdraw w) (0xFFFFFFFE, fp32.nan 6)) ∧
          (drawBadT q.1.temp = false → (∀ j, j < L → on j = true → (x j).code? = none) →
            pair (.vdraw w) (drawNode drawn L (fun j => if on j = true then (q.2 + i * L + j, drawWeight q.1 (x j)) else dEmpty) (Nat.log2 L) 0)))) ∧
      (∀ k : BitVec 20, w.src2 = .imm k →
        keeps (.vrot w) (fun j => a ((j + k.toNat) % L)) ∧ keeps (.vbcast w) (fun _ => a k.toNat) ∧ keeps (.vmov w) a ∧
        (gives (.vcomp w) fun r => r.pred = false ∧ r.mask = BitVec.allOnes 512 ∧
          let below (j : Nat) := (List.range j).countP on
          (∀ j, j < L → on j = true → laneOf n r.row (below j) = a j) ∧ ∀ j, below L ≤ j → j < L → laneOf n r.row j = 0) ∧
        (w.et.cls ≠ .E →
          reduces (.vrsum w) sum 0 ∧ reduces (.vrmax w) greater (if w.et.cls = .F then F.infEnc true else pat lo) ∧
          reduces (.vrmin w) lesser (if w.et.cls = .F then F.infEnc false else pat hi) ∧
          keeps (.vscan w) (fun j => (runValue sum on a (j + 1)).getD 0) ∧ keeps (.vscanmax w) (fun j => (runValue greater on a (j + 1)).getD 0)) ∧
        (let S := ElemType.ofCode (k.setWidth 4)
         let e (j : Nat) := i * L + j
         let src (j : Nat) : Nat := laneOf S.width (m.row (opRow w.src1 (e j / (4096 / S.width)))) (e j % (4096 / S.width))
         S.cls = .F ∨ S.cls = .E ∨ S.cls = .I → (S.cls = .F → w.et.cls ≠ .F → ∀ j, j < L → on j = true → (tyFmt S).value (src j) ≠ .nan 5) →
         keeps (.vcvt w) fun j => convert S w.et w.rm (coin j) (src j)))) ∧
    (∀ p q : BitVec 20, w.src1 = .imm p → w.src2 = .imm q → w.et.cls = .I →
      let k (v : BitVec 20) : Int := max lo (min hi v.toInt)
      keeps (.viota w) (fun j => pat (k p + (i * L + j : Nat) * k q))) ∧
    (w.src1 = .rows b1 s1 false false → (w.src2 = .rows b2 s2 false false ∨ w.src2 = .imm 0) →
      let guard (j : Nat) := (m.ctx f.ctx).predOn w.pred.toNat w.sense 512 j
      let p (j : Nat) := ((m.ctx f.ctx).pred (opRow w.src1 i)).getLsbD j
      let q (j : Nat) := ((m.ctx f.ctx).pred (opRow w.src2 i)).getLsbD j
      let logic (ins : Instr) (v : Nat → Bool) := gives ins fun r => r.pred = true ∧ ∀ j, j < 512 → r.mask.getLsbD j = guard j ∧ r.row.getLsbD j = v j
      logic (.pand w) (fun j => p j && q j) ∧ logic (.por w) (fun j => p j || q j) ∧ logic (.pxor w) (fun j => p j ^^ q j) ∧
      logic (.pnot w) (fun j => !p j)) ∧
    (w.src1 = .rows b1 s1 false false → w.et = .n64 →
      let on (j : Nat) := (m.ctx f.ctx).predOn w.pred.toNat w.sense 128 j
      let at_ (o : VOperand) (j : Nat) : DPair := (laneOf 32 (row o) j, laneOf 32 (m.row (opRow o i + 1)) j)
      (w.src2 = .rows b2 s2 false false → w.pred = 0 → w.sense = false →
        gives (.vdmrg w) fun r => r.pred = false ∧ r.wide = true ∧ r.mask = BitVec.allOnes 512 ∧ ∀ j, j < 128 →
          let z := drawMerge drawn j (at_ w.src1 j) (at_ w.src2 j)
          laneOf 32 r.row j = z.1 % 2 ^ 32 ∧ laneOf 32 r.hi j = z.2 % 2 ^ 32) ∧
      (∀ t : Nat → Nat → DPair, w.src2 = .imm 0 → 0 < f.acc.length → f.acc.length ≤ 128 →
        (∀ e, t 0 e = if on e = true then at_ w.src1 e else dEmpty) →
        (∀ u q, t (u + 1) q = let e := f.acc.length - 1 - u
          if some q = f.acc[e]? then drawMerge drawn e (t u q) (t u e) else t u q) →
        pair (.dtree w) (dCanon (t (f.acc.length - 1) 0))))

/-- R116, R113, R114: the result of a step is written in its result cycle: a row and its poison bit, a pair of rows, a predicate, or a queue
entry; every other row, predicate and byte of memory stays. -/
def Obligations.StepResultsLand : Prop :=
  (∀ (a b c : Nat), Completes (.vectorStepResult a b c)) ∧
  (∀ (s : State) (c : Nat) (f : VFlight) (r : VResult) (op : BitVec 8) (w : VWord), vParts f.ins = some (op, w) →
    (s.mdw c).flights.find? (·.id == f.id) = some f → f.done.find? (·.step == r.step) = some r → r.due ≤ s.gtc →
    f.roomFor ((s.mdw c).ctx f.ctx) s.gtc = true →
    let m := s.mdw c
    let v := opRow w.dst r.step
    ∃ t, exec (.vectorStepResult c f.id r.step) s = .next t ∧ OnlyMdw s t c ∧ (∀ y, y ≠ f.ctx → t.ctx c y = s.ctx c y) ∧
      (r.pred = true → (∀ u, (t.mdw c).row u = m.row u) ∧
        (∀ p, (t.ctx c f.ctx).pred p = if p = v ∧ p ≠ 0 then ((s.ctx c f.ctx).pred p &&& ~~~r.mask) ||| (r.row.setWidth 512 &&& r.mask)
          else (s.ctx c f.ctx).pred p)) ∧
      (r.pred = false → opQueue? w.dst = none → (∀ p, (t.ctx c f.ctx).pred p = (s.ctx c f.ctx).pred p) ∧
        (∀ u, (t.mdw c).row u = if r.wide = true ∧ u = v + 1 then r.hi else if u = v then r.row else m.row u) ∧
        (∀ u, (t.mdw c).poisoned u = if (u = v ∨ (r.wide = true ∧ u = v + 1)) ∧ r.mask = BitVec.allOnes 512 then false else m.poisoned u)) ∧
      (∀ q, r.pred = false → opQueue? w.dst = some q → (∀ u, (t.mdw c).row u = m.row u) ∧
        (q < 4 → ((t.ctx c f.ctx).queue64 q).items.map (·.val) = ((s.ctx c f.ctx).queue64 q).items.map (·.val) ++ [r.row.setWidth 64]) ∧
        (4 ≤ q → ((t.ctx c f.ctx).queueRow q).items.map (·.val) = ((s.ctx c f.ctx).queueRow q).items.map (·.val) ++ [r.row])))

/-! ## Matrix words -/

/-- R147, R150, R151, R154, R314, R315: NOP, MZERO, MTYPE, MSET, MQPOP, MFULL, MEMPTY, MWAIT, MEXIT, MBEND and MLOOK, on a granted tile that
nothing keeps busy. -/
def Obligations.MatrixSingleWords : Prop :=
  ∀ (s : State) (c x : Nat) (w : MWord), MReady s c x →
    let m := s.mdw c
    let k := m.ctx x
    let n := w.tile.toNat
    let idle := k.tileGranted n = true ∧ m.beatTile n = false ∧ m.tileBusy x s.gtc n = false
    let rowsStay (t : State) := ∀ v, (t.mdw c).row v = m.row v
    (∃ t, exec (.mNop w) s = .next t ∧ MIssued s t c x w.ic ∧ rowsStay t) ∧
    (idle → ∃ t, exec (.mzero w) s = .next t ∧ MIssued s t c x w.ic ∧
      (∀ v, (t.mdw c).row v = if v / 128 = n then 0 else m.row v) ∧ (∀ v, (t.mdw c).poisoned v = if v / 128 = n then false else m.poisoned v)) ∧
    (idle → ∃ t, exec (.mtype w) s = .next t ∧ MIssued s t c x w.ic ∧ rowsStay t ∧ (∀ j, j ≠ n → (t.mdw c).tileTy j = m.tileTy j) ∧
      ((w.imm64 % 8).toNat < 5 → ((t.mdw c).tileTy n).code = (w.imm64 % 8).toNat)) ∧
    (∃ t, exec (.mset w) s = .next t ∧ MIssued s t c x w.ic ∧ rowsStay t ∧
      (∀ j, (t.ctx c x).mreg j = if j = w.mx.toNat then w.imm64.setWidth 32 else k.mreg j)) ∧
    (∀ e rest, (k.queue64 (w.my.toNat % 4)).ready s.gtc = e :: rest → ∃ t, exec (.mqpop w) s = .next t ∧ MIssued s t c x w.ic ∧ rowsStay t ∧
      (∀ j, (t.ctx c x).mreg j = if j = w.mx.toNat + 1 then e.val.extractLsb' 32 32 else if j = w.mx.toNat then e.val.setWidth 32 else k.mreg j)) ∧
    (idle → ∃ t, exec (.mfull w) s = .next t ∧ MIssued s t c x w.ic ∧ rowsStay t ∧ n ∈ (t.mdw c).tileFull) ∧
    (k.tileGranted n = true → m.beatTile n = false → m.tileIsFull n = false →
      ∃ t, exec (.mempty w) s = .next t ∧ MIssued s t c x w.ic ∧ rowsStay t ∧ (t.mdw c).tileFull = m.tileFull) ∧
    (m.mPending x s.gtc (w.imm64.extractLsb' 0 8) = false → ∃ t, exec (.mwait w) s = .next t ∧ MIssued s t c x w.ic ∧ rowsStay t) ∧
    (m.mPending x s.gtc 0 = false → ∃ t, exec (.mexit w) s = .next t ∧ MIssued s t c x w.ic ∧ rowsStay t ∧ (t.ctx c x).mRun = false) ∧
    (∃ t, exec (.mbend w) s = .next t ∧ MIssued s t c x w.ic ∧ rowsStay t ∧ (t.mdw c).beat = m.beat.map fun b => { b with ended := true }) ∧
    (m.late = [] → 1 ≤ (w.imm64 % 16).toNat → (w.imm64 % 16).toNat ≤ 8 → ∃ t, exec (.mlook w) s = .next t ∧ MIssued s t c x w.ic ∧ rowsStay t ∧
      (t.mdw c).look = m.look ∧ ((t.mdw c).applyLate (s.gtc + 1)).look = (w.imm64 % 16).toNat)

/-- R140, R145, R146, R152, R153: MMA, MMAG, MWALK and MWRES without a stamp issue a step when the array, the tile and the operands are
free; with no walk suspended MWRES only goes on. -/
def Obligations.TileStepWords : Prop :=
  ∀ (s : State) (c x : Nat) (w : MWord), MReady s c x → w.stampMode = .none →
    let m := s.mdw c
    let k := m.ctx x
    let steps := if w.steps = 0 then 65536 else w.steps.toNat
    k.tileWord = none →
    (∀ i ∈ [Instr.mma w, Instr.mmag w],
      let tw : TileWord := { ins := i, pc := k.mpc, total := steps, regs := mWordRegs k w, running := false }
      mUngranted k (some w.tile.toNat) tw.bregs = none → mmaDescBad w tw.regs = none → StepReady s c x tw → StepIssues s i c x w.ic tw) ∧
    (let a := (k.mreg w.mx.toNat).toNat
     let topb := (List.range 32).map fun i => BitVec.ofNat 32 (spadRead m.spad (a + 4 * i) 4)
     let tw : TileWord := { ins := .mwalk w, pc := k.mpc, total := topbTotal topb, running := false, walk := some ⟨topb, k.mpc + 24⟩ }
     a % 128 = 0 → a < 2 ^ 20 → topbWorst topb = none → StepReady s c x tw → StepIssues s (.mwalk w) c x w.ic tw) ∧
    (k.suspended = none → ∃ t, exec (.mwres w) s = .next t ∧ MIssued s t c x w.ic ∧ ∀ v, (t.mdw c).row v = m.row v) ∧
    (∀ u, k.suspended = some u →
      let tw : TileWord := { u with ins := .mwres w, pc := k.mpc, byTrap := false }
      StepReady s c x tw → StepIssues s (.mwres w) c x w.ic tw)

/-- R148, R149, R167: MLDB in both forms, MSTA and MDRAW whose checks pass start their operation in this cycle. -/
def Obligations.MatrixTransferWords : Prop :=
  ∀ (s : State) (c x : Nat) (w : MWord), MReady s c x → (s.mdw c).ecc = [] → (s.mdw c).badWords = [] →
    let m := s.mdw c
    let k := m.ctx x
    let n := (match w.srcB with | .breg b => b.toNat | .desc _ => 0)
    let t0 := w.tile.toNat
    let row0 := (w.imm64 % 128).toNat
    let cnt := (w.imm64 / 256 % 256).toNat
    let regs := mWordRegs k w
    let starts (i : Instr) (p : MOp → Prop) := ∃ t o, exec i s = .next t ∧ MIssued s t c x w.ic ∧ (t.mdw c).mops = m.mops ++ [o] ∧ o.ctx = x ∧
      o.at_ = s.gtc ∧ o.ins = i ∧ (∀ v, (t.mdw c).row v = m.row v) ∧ p o
    (let p := m.srcOperand w.fa w.srcA ((regs[0]?).getD 0) ((regs[1]?).getD 0) none 0
     k.bregGranted n = true → descBad ((regs[0]?).getD 0) ((regs[1]?).getD 0) = false → m.ldbHeld x s.gtc n = false → p.conflict m = none →
     (∀ r ∈ p.allRanges m.sbf, m.bufFault .mread r.1 r.2 = none ∧ m.bufWait .mread r.1 r.2 = false) →
     starts (.mldbSpad w) fun o => o.regs = regs ∧ ∃ q, o.operand = some q ∧ q.fmt = w.fa) ∧
    (∀ e, mUngranted k (some t0) [n] = none → m.tileBusy x s.gtc t0 = false → m.beatTile t0 = false → ldbOk (m.tileTy t0) w.fa = true →
     tileElem (m.tileTy t0) = some e → 128 * t0 + row0 + ldbRows e w.fa ≤ 1024 →
     (∀ j, j < 8 → k.tileGranted j = true ∧ m.tileBusy x s.gtc j = false ∧ m.beatTile j = false) → m.ldbHeld x s.gtc n = false →
     (∀ v, rowNaN5 e w.fa (m.row v, m.poisoned v) = false) →
     starts (.mldbAcc w) fun o => o.count = ldbRows e w.fa ∧ o.ty = m.tileTy t0) ∧
    (k.tileGranted t0 = true → m.tileBusy x s.gtc t0 = false → m.beat = none → (m.unit .drain).busyUntil ≤ s.gtc →
     m.staCheck w ((regs[0]?).getD 0) ((regs[1]?).getD 0) = none →
     starts (.msta w) fun o => o.count = cnt ∧ o.regs = regs ∧ o.ty = m.tileTy t0) ∧
    (k.tileGranted t0 = true → m.tileBusy x s.gtc t0 = false → m.beatTile t0 = false → listBad (k.mreg w.mx.toNat) (k.mreg (w.mx.toNat + 1)) = false →
     m.tileTy t0 = .f32 → m.bufFault .mwrite (((k.mreg w.mx.toNat).toNat % 2 ^ 20 + 2 * (w.imm64 / 2 ^ 16 % 2 ^ 16).toNat) % 2 ^ 20) 2 = none →
     starts (.mdraw w) fun o => o.count = cnt ∧ o.k = k.seed ∧ o.c0 = k.ctr)

/-- R140, R142, R136, R146: a running word whose step is due issues it; in the step's result cycle the whole result lands: for an integer
step on good operands each element of the tile takes the four saturating group sums, and no other row changes. -/
def Obligations.TileStepEvents : Prop :=
  (∀ (a : Nat), Completes (.tileStepIssue a)) ∧
  (∀ (a b : Nat), Completes (.tileStepResult a b)) ∧
  (∀ (s : State) (c x : Nat),
    let m := s.mdw c
    (∀ tw, m.beat = none → m.frozen = false → m.dueWord s.gtc true = none → m.dueWord s.gtc false = some (x, tw) → (m.ctx x).tileWord = some tw →
      StepReady s c x tw →
      ∃ t e, exec (.tileStepIssue c) s = .next t ∧ OnlyMdw s t c ∧ (t.mdw c).tileSteps = m.tileSteps ++ [e] ∧ e.ctx = x ∧ e.at_ = s.gtc ∧
        e.step = tw.next ∧ (∀ v, (t.mdw c).row v = m.row v)) ∧
    (∀ e, m.tileSteps.find? (fun q => q.id == e.id) = some e → s.gtc = e.at_ + 272 → m.ecc = [] → e.float = false → e.scatter = [] → e.tile < 8 →
      (∀ r, r < 128 → e.a.rowIsBad r = false ∧ e.b.rowIsBad r = false ∧ m.poisoned (128 * e.tile + r) = false) →
      let sat (v : Int) : Int := max (-2 ^ 31) (min (2 ^ 31 - 1) v)
      let sum (a b g : Nat) : Int := (List.zipWith (· * ·) (((e.a.ints a).drop (64 * g)).take 64) (((e.b.ints b).drop (64 * g)).take 64)).foldl (· + ·) 0
      let old (a b : Nat) : Int := if e.overwrite then 0 else ((m.row (128 * e.tile + a)).extractLsb' (32 * b) 32).toInt
      ∃ t, exec (.tileStepResult c e.id) s = .next t ∧ OnlyMdw s t c ∧
        (∀ a b, a < 128 → b < 128 → ((t.mdw c).row (128 * e.tile + a)).extractLsb' (32 * b) 32 =
          BitVec.ofInt 32 (sat (sat (sat (sat (old a b + sum a b 0) + sum a b 1) + sum a b 2) + sum a b 3))) ∧
        (∀ v, v / 128 ≠ e.tile → (t.mdw c).row v = m.row v) ∧
        (e.tile ∈ (t.mdw c).tileFull ↔ e.markFull = true ∨ e.tile ∈ m.tileFull)))

/-- R148, R149, R168: MLDB leaves the rows that it read and its format's tag in its operand register; MSTA is over; MDRAW writes its index
to the m register and, after its cycle, its list entry. R164, R163: DTOPO's reads are over and its word issues, its table in force after
this cycle. R184: a draining buffer is empty after the cycle. -/
def Obligations.MatrixCompletions : Prop :=
  (∀ (a b : Nat), ∀ i ∈ [Instr.mldbComplete a b, .mstaComplete a b, .mdrawComplete a b, .bufferDrainEmpty a b], Completes i) ∧
  ((∀ (s : State) (c : Nat) (o : MOp) (op : BitVec 8) (w : MWord), mParts o.ins = some (op, w) → o.doneAt = s.gtc →
    (s.mdw c).mops.find? (fun q => q.id == o.id && q.word.1 == op.toNat && q.doneAt == s.gtc) = some o →
    let m := s.mdw c
    (op = 0x14 → o.uncarried = none → ∃ t, exec (.mldbComplete c o.id) s = .next t ∧ OnlyMdw s t c ∧ (∀ v, (t.mdw c).row v = m.row v) ∧
      (t.mdw c).mops = m.mops.filter (fun q => q.id != o.id) ∧ ((t.mdw c).breg (o.target.getD 0)).tag = w.fa ∧ (∀ n, n ≠ o.target.getD 0 → (t.mdw c).breg n = m.breg n) ∧
      (∀ p, o.operand = some p → (∀ r, r < 128 → (p.bad[r]?).getD 0 = 0) →
        ∀ r, r < 128 → tgetD ((t.mdw c).breg (o.target.getD 0)).rows r 0 = (p.rows[r]?).getD 0)) ∧
    (op = 0x15 → ∃ t, exec (.mstaComplete c o.id) s = .next t ∧ OnlyMdw s t c ∧ (∀ v, (t.mdw c).row v = m.row v) ∧
      (t.mdw c).mops = m.mops.filter (fun q => q.id != o.id)) ∧
    (op = 0x50 → ∃ t, exec (.mdrawComplete c o.id) s = .next t ∧ OnlyMdw s t c ∧ (∀ v, (t.mdw c).row v = m.row v) ∧
      (∀ j, (t.ctx c o.ctx).mreg j = if j = w.my.toNat + 1 then BitVec.ofNat 32 (o.draw c).1 else (m.ctx o.ctx).mreg j) ∧
      (t.mdw c).spad = m.spad)) ∧
  (∀ (s : State) (c x : Nat),
    let m := s.mdw c
    let k := m.ctx x
    (∀ d ps qs, k.dtopo = some d → d.count = none → s.access m .load [(d.addr.toNat, 4)] = .ok ps → s.dtopoReady c x d ps = true → s.memClean = true →
      let v := (s.readParts ps).1
      (s.readParts ps).2.1 = 0 → 1 ≤ v % 2 ^ 16 → v % 2 ^ 16 ≤ 128 → v / 2 ^ 16 % 2 ^ 16 = 0 →
      s.access m .load [(d.addr.toNat, 4 + 2 * (v % 2 ^ 16))] = .ok qs →
      ∃ t e, exec (.dtopoComplete c x) s = .next t ∧ OnlyCtx s t c x ∧ (t.ctx c x).sc = k.sc ∧ (t.ctx c x).dtopo = some e ∧ e.addr = d.addr ∧
        e.ic = d.ic ∧ e.count = some (v % 2 ^ 16) ∧ s.gtc < e.doneAt) ∧
    (∀ d n ps topo, k.dtopo = some d → d.count = some n → s.access m .load [(d.addr.toNat, 4 + 2 * n)] = .ok ps → s.dtopoReady c x d ps = true →
      s.memClean = true → (s.readParts ps).2.1 = 0 → topoCheck ((s.readParts ps).1 / 2 ^ 32 * 2 ^ 32 + n) = .ok topo → m.late = [] →
      ∃ t, exec (.dtopoComplete c x) s = .next t ∧ OnlyMdw s t c ∧ (t.ctx c x).sc.pc = k.sc.pc + 4 ∧ (t.ctx c x).dtopo = none ∧
        (t.mdw c).topo = m.topo ∧ ((t.mdw c).applyLate (s.gtc + 1)).topo = some topo) ∧
    (∀ b u, tget m.bufs b = some u → u.state = .draining → u.enterDrain < s.gtc → (∀ y, y < 4 → m.seReads y b = false) → m.late = [] →
      ∃ t, exec (.bufferDrainEmpty c b) s = .next t ∧ OnlyMdw s t c ∧ (t.mdw c).bufs = m.bufs ∧
        (tget ((t.mdw c).applyLate (s.gtc + 1)).bufs b).map (·.state) = some .empty)))

/-! ## Beat mode -/

/-- R304, R305, R306: MBEAT that its checks let through starts the meadow's beat run with its grid LOOK beats later. R308, R309: MDEQ to its
own or an adjacent meadow sends its entry to the port and takes s[rd] as a result to come; to another meadow it answers 4. BDWAIT of a
meadow too far answers at once; otherwise it waits at its word, and with its answer it issues. -/
def Obligations.BeatWords : Prop :=
  (∀ (s : State) (c x : Nat) (w : MWord), MReady s c x →
    let m := s.mdw c
    let k := m.ctx x
    let n := w.tile.toNat
    m.beat = none → mUngranted k (some n) (beatFixed w) = none → m.tileBusy x s.gtc n = false → m.arrayWord = none →
    (∀ b ∈ beatFixed w, m.bregLoading s.gtc b = false) → beatDescBad w (mWordRegs k w) = none → s.beatCheck c w = none →
    ∃ t b, exec (.mbeat w) s = .next t ∧ MIssued s t c x w.ic ∧ (t.mdw c).beat = some b ∧ (t.mdw c).beatEnd = false ∧ b.owner = x ∧ b.w = w ∧
      b.pc = k.mpc ∧ b.regs = mWordRegs k w ∧ b.grid = s.gtc + m.look * (128 * w.steps.toNat) ∧ b.beat = 0 ∧ b.slot = 0 ∧ b.ended = false ∧ ∀ v, (t.mdw c).row v = m.row v) ∧
  (∀ (s : State) (c x : Nat) (ic : BitVec 2) (rd ra6 rb6 : BitVec 6) (pd ra rb : BitVec 5),
    let k := s.ctx c x
    let sel := k.sc.get (2 * rb.toNat + 1)
    let bs := k.sc.get ra6.toNat
    (Ready s c x (rd.toNat :: pairRegs ra ++ pairRegs rb) → selBad sel = false → s.selDisabled c sel = false →
      s.released c x (k.reachOf .s s.seq) = true →
      (selFar c sel = true → givesReg s (.mdeq ic rd ra rb) ic 2 rd.toNat 4) ∧
      (selFar c sel = false → ∃ t r, exec (.mdeq ic rd ra rb) s = .next t ∧ Advanced s t ic ∧ memSame s t ∧
        (∀ d q, q ≠ rd.toNat ∨ d < 2 ^ 80 → seen t d q = seen s d q) ∧
        (t.mdw (selTarget sel)).beatReqs = (s.mdw (selTarget sel)).beatReqs ++ [r] ∧ r.wait = false ∧ r.entry = k.sc.getD ra.toNat ∧
        r.n = k.sc.get (2 * rb.toNat) ∧ r.port = selPort sel ∧ r.at_ = s.gtc ∧ r.due = s.clock + selLat c sel)) ∧
    (Ready s c x (pairRegs pd ++ [ra6.toNat, rb6.toNat]) → selBad bs = false → s.selDisabled c bs = false →
      (k.sWait = none → selFar c bs = true ∨ s.otherRegion c (selTarget bs) = true → givesPair s (.bdwait ic pd ra6 rb6) ic 1 pd.toNat (BitVec.ofNat 64 (2 ^ 33))) ∧
      (k.sWait = none → selFar c bs = false → s.otherRegion c (selTarget bs) = false → (s.mdw (selTarget bs)).beat = none →
        (s.mdw (selTarget bs)).beatEnd = false → k.sc.get rb6.toNat ≠ 0 →
        ∃ t r, exec (.bdwait ic pd ra6 rb6) s = .next t ∧ regsSame s t ∧ memSame s t ∧ (t.ctx c x).sc = k.sc ∧
          (t.mdw (selTarget bs)).beatReqs = (s.mdw (selTarget bs)).beatReqs ++ [r] ∧ r.wait = true ∧ r.until_ = s.gtc + (k.sc.get rb6.toNat).toNat ∧
          (t.ctx c x).sWait = some { id := r.id, pc := k.sc.pc }) ∧
      (∀ u v, k.sWait = some u → u.answer = some (.ok v) → ∃ t, exec (.bdwait ic pd ra6 rb6) s = .next t ∧ Advanced s t ic ∧
        PairGets s t (s.clock + 1) pd.toNat v ∧ OnlyCtx s t c x ∧ (t.ctx c x).sWait = none)))

/-- R310, R311, R312, R313: a slot whose entries are there and whose buffers are full starts its beat; a missing entry freezes the meadow
for the slot under STALL, and is counted; a drained row is read in its cycle, and its write changes its bytes of the scratchpad alone, after
the cycle; a run that has ended and completed leaves, END is set, and its tile's bit when the word says so. R309: a BDWAIT whose limit has
passed leaves its port with BDWAIT_EXPIRED, the selector word and NEXT. -/
def Obligations.BeatEvents : Prop :=
  (∀ (a b : Nat), ∀ i ∈ [Instr.bdwaitLimitExpiry a b, .beatDrain a b], Completes i) ∧
  (∀ (a : Nat), ∀ i ∈ [Instr.beatSlotStart a, .beatRunEnd a], Completes i) ∧
  ((∀ (s : State) (c : Nat) (b : BeatRun),
    let m := s.mdw c
    m.beat = some b →
    (b.slotNow s.gtc = true → (b.view m).bad = none → (b.view m).absent = false → (b.view m).waitA = false → (b.view m).waitB = false →
      (b.view m).token = false → ∃ t u, exec (.beatSlotStart c) s = .next t ∧ OnlyMdw s t c ∧ (t.mdw c).beat = some u ∧ u.cur = some b.beat ∧
        u.step = 0 ∧ u.stepAt = s.gtc ∧ u.beat = b.beat + 1 ∧ u.slot = b.slot + 1 ∧ (t.mdw c).missCount = m.missCount ∧
        (∀ v, (t.mdw c).row v = m.row v)) ∧
    (b.slotNow s.gtc = true → (b.view m).bad = none → (b.view m).absent = true → m.mbpolOld.toNat % 4 = 0 → b.prevRan = true →
      m.missCount.toNat < 0xFFFFFFFF → ∃ t u, exec (.beatSlotStart c) s = .next t ∧ OnlyMdw s t c ∧ (t.mdw c).beat = some u ∧ u.beat = b.beat ∧
        u.slot = b.slot + 1 ∧ u.stallUntil = s.gtc + b.len ∧ (t.mdw c).missCount.toNat = m.missCount.toNat + 1) ∧
    (b.slotNow s.gtc = true → (b.view m).bad = none → (b.view m).absent = false → (b.view m).waitA = false → (b.view m).waitB = false →
      (b.view m).token = true → ∃ t u, exec (.beatSlotStart c) s = .next t ∧ OnlyMdw s t c ∧ (t.mdw c).beat = some u ∧ u.ended = true ∧
        u.beat = b.beat ∧ (t.mdw c).missCount = m.missCount ∧ (∀ v, (t.mdw c).row v = m.row v)) ∧
    (∀ d row, b.drains.find? (fun q => q.at_ + row == s.gtc && q.rows.length == row) = some d → m.ecc = [] →
      let v := 128 * b.w.tile.toNat + row
      ∃ t u, exec (.beatDrain c row) s = .next t ∧ OnlyMdw s t c ∧ (∀ v, (t.mdw c).row v = m.row v) ∧ (t.mdw c).spad = m.spad ∧
        (t.mdw c).beat = some u ∧ u.beat = b.beat ∧ { d with rows := d.rows ++ [(m.row v, m.poisoned v)] } ∈ u.drains) ∧
    (∀ (q : BeatDrain) (i : Nat) (r : Row),
      let src := (tileElem (m.tileTy b.w.tile.toNat)).getD .f32
      let fmt := b.drainFmt
      let d := spadDesc (entryRegs q.entry).1 (entryRegs q.entry).2
      let a := spadRowAddr d.base d.rpitch d.rot i
      m.late = [] → m.bufs = [] → fmt.cls = .F ∨ fmt.cls = .E ∨ fmt.cls = .I → rowConflict m.sbf fmt a = false → staBytes src fmt ≤ 512 →
      a % 2 ^ 16 + staBytes src fmt ≤ 2 ^ 16 → rowNaN5 src fmt (r, false) = false →
      let t := s.drainWrite c b q i (r, false)
      let after := ((t.mdw c).applyLate (s.gtc + 1)).spad
      OnlyMdw s t c ∧ (t.mdw c).spad = m.spad ∧ (∀ z, z < a ∨ a + staBytes src fmt ≤ z → Memory.read after z = Memory.read m.spad z) ∧
        ∀ j k, j < src.lanes → k < fmt.width / 8 → Memory.read after (a + fmt.width / 8 * j + k) =
          BitVec.ofNat 8 (convert src fmt b.w.rm 0 (laneOf src.width r j) % 2 ^ fmt.width / 2 ^ (8 * k))) ∧
    (m.beatOver s.gtc = true → ∃ t, exec (.beatRunEnd c) s = .next t ∧ OnlyMdw s t c ∧ (t.mdw c).beat = none ∧ (t.mdw c).beatEnd = true ∧
      (∀ v, (t.mdw c).row v = m.row v) ∧ (∀ j, j ∈ (t.mdw c).tileFull ↔ (b.w.full = true ∧ j = b.w.tile.toNat) ∨ j ∈ m.tileFull))) ∧
  (∀ (s : State) (c : Nat) (r : BeatReq), (s.mdw c).beatReqs.find? (fun q => q.id == r.id) = some r → r.wait = true → r.until_ ≤ s.gtc →
    let next := match (s.mdw c).beat with | some b => (b.port r.port).next % 2 ^ 32 | none => 0
    ∃ t a, exec (.bdwaitLimitExpiry c r.id) s = .next t ∧ OnlyMdw s t c ∧ (∀ q ∈ (t.mdw c).beatReqs, q.id ≠ r.id) ∧ t.answers = s.answers ++ [a] ∧
      a.coord = r.coord ∧ a.ctx = r.ctx ∧ a.at_ = s.gtc + r.lat ∧
      a.ans = .wait r.id (.trap 0x46 (BitVec.ofNat 64 (r.sel.toNat * 2 ^ 32 + next)))))

/-! ## Loads and sync engines -/

/-- R26, R96: a result that is due is written to its register, s0 apart. R190, R194, R195, R15: the data of a load that may arrive is taken
from memory; in its MTC cycle a scalar, row or queue destination takes it, with the residency report; a load due that has not arrived
freezes its meadow (log entry 24). -/
def Obligations.LoadEvents : Prop :=
  (∀ (a : Agent), Completes (.sWordResult a)) ∧
  (∀ (a b c : Nat), ∀ i ∈ [Instr.loadDataArrival a b c, .loadLanding a b c], Completes i) ∧
  (∀ (a : Nat), Completes (.lateLandingFreeze a)) ∧
  ((∀ (s : State) (c x : Nat) (st : StreamId) (p : PendReg), (s.ctx c x).sc.pend = [p] → p.due ≤ (s.mdw c).mtc → (s.mdw c).frozen = false →
    ∃ t, exec (.sWordResult (.stream c x st)) s = .next t ∧ OnlyCtx s t c x ∧ (t.ctx c x).sc.pend = [] ∧ (t.ctx c x).sc.pc = (s.ctx c x).sc.pc ∧
      ∀ r, (t.ctx c x).sc.get r = if r = 0 then 0 else if r = p.reg then p.val else (s.ctx c x).sc.get r) ∧
  (∀ (s : State) (c x : Nat) (e : LandEntry),
    let m := s.mdw c
    let k := m.ctx x
    let due := e.arrived = true ∧ m.frozen = false ∧ e.lam ≤ m.mtc ∧ e.bad = 0
    let lands (p : State → Prop) := ∃ t, exec (.loadLanding c x e.id) s = .next t ∧ OnlyMdw s t c ∧ (∀ y, y ≠ x → t.ctx c y = s.ctx c y) ∧
      (t.ctx c x).landing = k.landing.filter (fun g => g.id != e.id) ∧ p t
    k.landing.find? (fun g => g.id == e.id) = some e →
    (s.loadReady c x e = true → e.hasp = false → s.memClean = true → e.spad = none →
      let ps := s.readyParts c x e
      ∃ t g, exec (.loadDataArrival c x e.id) s = .next t ∧ OnlyCtx s t c x ∧ (t.ctx c x).landing.find? (fun g => g.id == e.id) = some g ∧
        g.lam = e.lam ∧ g.dest = e.dest ∧ g.data = e.data ||| BitVec.ofNat 4096 ((s.issuedAt e.id).readParts ps).1 ∧
        (g.arrived = true ↔ ∀ u ∈ e.todo, ∃ p ∈ ps, p.off = u.1) ∧ (t.ctx c x).sc = k.sc) ∧
    (∀ rd pair p15, e.dest = .scalar rd pair p15 → due → k.sc.pend = [] →
      lands fun t => (∀ v, (t.mdw c).row v = m.row v) ∧
        (∀ r, (t.ctx c x).sc.get r =
          if r = 0 then 0 else if pair = true ∧ r = rd + 1 then e.data.extractLsb' 32 32 else if r = rd then e.data.setWidth 32 else k.sc.get r) ∧
        (p15 = true → ((t.ctx c x).pred 15).getLsbD 0 = decide (e.nonres ≠ 0)) ∧ (∀ p, p ≠ 15 → (t.ctx c x).pred p = k.pred p)) ∧
    (∀ v, e.dest = .row v → e.spad = none → due →
      lands fun t => (∀ u, (t.mdw c).row u = if u = v then e.data else m.row u) ∧
        (∀ u, (t.mdw c).poisoned u = if u = v then false else m.poisoned u) ∧
        (∀ p, (t.ctx c x).pred p = if p ≠ 0 ∧ e.resPred = some p then e.mask.getD 0 else k.pred p)) ∧
    (∀ q, e.dest = .queue q → 1 ≤ k.qRoom s.gtc q → due →
      lands fun t => (∀ v, (t.mdw c).row v = m.row v) ∧
        ((t.ctx c x).queueRow q).items.map (·.val) = (k.queueRow q).items.map (·.val) ++ [e.data]) ∧
    (x < 4 → e.lam ≤ m.mtc → e.arrived = false → ∃ t, exec (.lateLandingFreeze c) s = .next t ∧ OnlyMdw s t c ∧ (t.mdw c).frozen = true) ∧
    ((∀ y g, g ∈ (m.ctx y).landing → m.mtc < g.lam) → m.beat = none →
      ∃ t, exec (.lateLandingFreeze c) s = .next t ∧ OnlyMdw s t c ∧ (t.mdw c).frozen = false)))

/-- R230, R232, R236, R231: one cycle of an engine with one request, for a line that it holds: the line's word takes the operation's value,
its other bytes stay, and an operation with a return slot answers the old value. -/
def Obligations.SyncRequestApplied : Prop :=
  (∀ (a : Nat), Completes (.syncRequestApply a)) ∧
  (∀ (s : State) (d : Nat) (r : SyncReq) (h : HeldLine), (s.eng d).reqs = [r] → (s.eng d).again = [] → (s.eng d).waiters = [] → (s.eng d).ecc = [] →
    (s.eng d).lines = [h] → h.isLine r.va r.pa = true → h.poison = false → s.reqReady d r = true → r.heath = false →
    let o := r.pa % 64
    let leaves (n v : Nat) (ans : List SyncAns) := ∃ t, exec (.syncRequestApply d) s = .next t ∧ (t.eng d).reqs = [] ∧ memSame s t ∧
      t.meadows = s.meadows ∧ (∃ g, (t.eng d).lines = [g] ∧ g.va = h.va ∧ g.pa = h.pa ∧ g.poison = false ∧ lineGet g.data o n = v ∧
        ∀ j, j < 64 → j < o ∨ o + n ≤ j → lineGet g.data j 1 = lineGet h.data j 1) ∧
      ∃ as_, t.answers = s.answers ++ as_ ∧ as_.map (·.ans) = ans ∧ ∀ a ∈ as_, a.coord = r.coord ∧ a.ctx = r.ctx ∧ s.gtc ≤ a.at_
    (∀ f sg wide x slot, r.op = .atom f sg wide x slot →
      let n := if wide then 8 else 4
      let w := 8 * n
      let old := lineGet h.data o n
      let y := x.toNat % 2 ^ w
      let val (u : Nat) : Int := if sg = true ∧ 2 ^ (w - 1) ≤ u then u - 2 ^ w else u
      let new := match f with
        | 0 => (old + y) % 2 ^ w
        | 1 => old &&& y
        | 2 => old ||| y
        | 3 => old ^^^ y
        | 4 => if val old < val y then old else y
        | 5 => if val old < val y then y else old
        | _ => y
      o % n = 0 → leaves n new (match slot with | some i => [.slot i (BitVec.ofNat 64 old)] | none => [])) ∧
    (∀ wide cmp new i, r.op = .cas wide cmp new i →
      let n := if wide then 8 else 4
      let old := lineGet h.data o n
      o % n = 0 → leaves n (if old = cmp.toNat % 2 ^ (8 * n) then new.toNat % 2 ^ (8 * n) else old) [.slot i (BitVec.ofNat 64 old)]) ∧
    (∀ x, r.op = .sems x → o % 4 = 0 → leaves 4 ((lineGet h.data o 4 + x.toNat) % 2 ^ 32) []))

/-- R234, R237, R396: an answer fills its slot of the return queue, or is kept by the word that waits at its issue, or gives the word that
has issued its result. R237, R239, R241: a wait whose last cycle has passed answers its cause, with the values of its line. -/
def Obligations.SyncAnswers : Prop :=
  (∀ (a b c : Nat), Completes (.syncAnswerArrival a b c)) ∧
  (∀ (a b : Nat), Completes (.boundedWaitExpiry a b)) ∧
  ((∀ (s : State) (c x : Nat) (a : AnsMsg), s.answers.find? (fun b => b.id == a.id && b.coord == c && b.ctx == x && decide (b.at_ ≤ s.gtc)) = some a →
    let k := s.ctx c x
    let arrives (p : Ctx → Prop) := ∃ t, exec (.syncAnswerArrival c x a.id) s = .next t ∧ OnlyCtx s t c x ∧ p (t.ctx c x)
    (∀ i v, a.ans = .slot i v → arrives fun j => j.sc = k.sc ∧ j.arq = k.arq.map fun e => if e.id = i then { e with val := some v } else e) ∧
    (∀ i n v, a.ans = .mark i n v → arrives fun j => j.sc = k.sc ∧ j.arq = k.arq.map fun e => if e.id = i then { e with mark := some n, tval := v } else e) ∧
    (∀ w v, a.ans = .wait w.id v → k.sWait = some w → w.issued = false → arrives fun j => j.sc = k.sc ∧ j.sWait = some { w with answer := some v }) ∧
    (∀ w v, a.ans = .wait w.id (.ok v) → k.sWait = some w → w.issued = true → (s.mdw c).frozen = false → w.rd ≠ 0 →
      arrives fun j => j.sWait = none ∧ j.sc.pc = k.sc.pc + 4 ∧ (j.sc.settle ((s.mdw c).mtc + 1)).get w.rd = v.setWidth 32) ∧
    (∀ w n v, a.ans = .wait w.id (.trap n v) → k.sWait = some w → w.issued = true → (s.mdw c).frozen = false → k.trap = none →
      arrives fun j => j.sWait = none ∧ j.sc = k.sc ∧ ∃ p, j.trap = some p ∧ p.cause = n ∧ p.tval = v ∧ p.tpc = w.pc ∧ p.sepc = .atWord)) ∧
  (∀ (s : State) (d : Nat) (r : SyncReq) (h : HeldLine), (s.eng d).waiters.find? (fun q => q.id == r.id) = some r → (s.eng d).lines = [h] →
    h.isLine r.va r.pa = true →
    let v := h.data
    let ends (cause : Nat) (tval : Nat) := ∃ t a, exec (.boundedWaitExpiry d r.id) s = .next t ∧ (∀ q ∈ (t.eng d).waiters, q.id ≠ r.id) ∧ memSame s t ∧
      t.meadows = s.meadows ∧ t.answers = s.answers ++ [a] ∧ a.coord = r.coord ∧ a.ctx = r.ctx ∧
      a.ans = .wait r.id (.trap cause (BitVec.ofNat 64 tval))
    (∀ g l i, r.op = .semw g l i → ends 0x43 (lineGet v (r.pa % 64) 4 * 2 ^ 32 + g.toNat)) ∧
    (∀ b k l i, r.op = .waitq b k l i → ends 0x42 (lineGet v 12 2 * 2 ^ 48 + lineGet v 0 3 * 2 ^ 24 + lineGet v 4 3)) ∧
    (∀ g l i, r.op = .barw g l i → ends 0x44 (lineGet v 8 4 * 2 ^ 32 + lineGet v 2 2 * 2 ^ 16 + lineGet v 0 2))))

/-! ## Stream engine -/

/-- R206, R208, R210: the command at the head starts by its operation, or halts with status 1 when a field is bad; a chain's entry is
fetched as the next command; a started command that has moved everything pushes its result with status 0 and leaves. R206, R176: one granule
of a PATTERN command from memory to scratchpad moves up to 64 bytes, which the scratchpad takes after the cycle. -/
def Obligations.StreamEngineEvents : Prop :=
  (∀ (a b : Nat), ∀ i ∈ [Instr.sePattern a b, .seGather a b, .seScatter a b, .seSync a b, .seCommandComplete a b], Completes i) ∧
  ((∀ (s : State) (c x : Nat),
    let m := s.mdw c
    let k := m.ctx x
    (∀ r, s.seStartable c x = some r →
      ∀ f ∈ ([(.sePattern c x, r.op ≠ 1 ∧ r.op ≠ 2 ∧ r.op ≠ 15), (.seGather c x, r.op = 1), (.seScatter c x, r.op = 2), (.seSync c x, r.op = 15)] :
        List (Instr × Prop)), f.2 →
      (r.bad = false → ∃ t u, exec f.1 s = .next t ∧ OnlyCtx s t c x ∧ (t.ctx c x).se.run = some u ∧ u.started = true ∧ u.halted = r.halted ∧
        u.d = r.d ∧ u.moved = r.moved ∧ s.gtc < u.readyAt ∧ (t.ctx c x).se.results = k.se.results) ∧
      (r.bad = true → k.se.results.length + k.se.claims < 16 → (r.w 0).getLsbD 59 = false → r.done = false →
        ∃ t u, exec f.1 s = .next t ∧ OnlyCtx s t c x ∧ (t.ctx c x).se.run = some u ∧ u.halted = some 1 ∧
        (t.ctx c x).se.results = k.se.results ++ [seResult r.tag 1 r.moved])) ∧
    (∀ q rest a ps, k.se.run = none → k.se.queue = q :: rest → q.chain = some a → k.se.owedNotify = [] → s.released c x q.rel q.scope = true →
      s.memClean = true →
      s.access m .seRead [(a.toNat, 64)] = .ok ps → (s.readParts ps).2.1 = 0 →
      s.nearby c x { id := s.seq, stream := .s, load := true, parts := partKeys ps } = false →
      ∃ t u, exec (.seChainFetch c x) s = .next t ∧ OnlyCtx s t c x ∧ (t.ctx c x).se.queue = rest ∧ (t.ctx c x).se.run = some u ∧ u.chain = true ∧
        u.started = false ∧ u.halted = none ∧ u.req ≠ none ∧ s.gtc ≤ u.readyAt ∧ u.d = (List.range 8).map fun i => BitVec.ofNat 64 ((s.readParts ps).1 / 2 ^ (64 * i))) ∧
    (∀ r, k.se.run = some r → m.seFinish x s.gtc = true → r.owe = [] → r.op ≠ 15 → (r.w 0).getLsbD 59 = false →
      ∃ t, exec (.seCommandComplete c x) s = .next t ∧ OnlyMdw s t c ∧ (∀ y, y ≠ x → t.ctx c y = s.ctx c y) ∧ (t.ctx c x).se.run = none ∧
        (t.ctx c x).se.results = k.se.results ++ (if (r.w 0).getLsbD 57 then [seResult r.tag 0 r.moved] else []) ∧
        (∀ p, tgetD (t.mdw c).ring p 0 =
          if (r.w 6).getLsbD 31 = true ∧ p = (r.w 6).toNat / 2 ^ 16 % 64 then tgetD m.ring p 0 + (r.w 6).setWidth 16 else tgetD m.ring p 0))) ∧
  (∀ (s : State) (c x : Nat) (r : SERun) (ps : List Part),
    let m := s.mdw c
    let k := m.ctx x
    let src := (rowAddr (r.w 1) r.sstride r.row + r.unit) % 2 ^ 64
    let dst := (rowAddr (r.w 2) r.dstride r.row + r.unit) % 2 ^ 64 % 2 ^ 20
    let n := min 64 (r.len - r.unit)
    k.se.run = some r → r.moving s.gtc = true → k.se.owedNotify = [] → m.seBytes < 512 → r.req ≠ none → s.seServed r = true →
    (∀ y, y < 4 → (m.ctx y).stores = []) → r.op = 0 → r.srcSp = false → r.dstSp = true → s.memClean = true → m.late = [] →
    m.bufs = [] → 0 < n → dst + n ≤ 2 ^ 20 → s.access m .seRead [(src, n)] = .ok ps → (s.readParts ps).2.1 = 0 →
    ∃ t, exec (.seGranuleMove c x) s = .next t ∧ OnlyMdw s t c ∧ (t.mdw c).spad = m.spad ∧ (t.ctx c x).sc = k.sc ∧
      (∀ j, j < n → Memory.read ((t.mdw c).applyLate (s.gtc + 1)).spad (dst + j) = BitVec.ofNat 8 ((s.readParts ps).1 / 2 ^ (8 * j))) ∧
      (∀ a, a < dst ∨ dst + n ≤ a → Memory.read ((t.mdw c).applyLate (s.gtc + 1)).spad a = Memory.read m.spad a) ∧
      (t.mdw c).seBytes = m.seBytes + 64 ∧ ∃ u, (t.ctx c x).se.run = some u ∧ u.moved = r.moved + n ∧ u.req = none))

/-! ## Heaths and arbiters -/

/-- R262, R265, R252: the next command of an engine starts; a command whose time is over leaves its queue and its tag is no longer running,
and of HCOPY of one row of up to 64 bytes exactly the destination's bytes change, to those read (R272); the data of an HCP's load arrives in
its register, or ends the kernel POISONED. When a command reads and writes is log entry 42. -/
def Obligations.HeathEvents : Prop :=
  (∀ (a : Nat), ∀ i ∈ [Instr.heathCommandStart a, .heathCommandComplete a, .hcpLoadArrival a], Completes i) ∧
  (∀ (s : State),
    (∀ c, s.hcmds.find? (fun q => q.id == c.id) = some c → c.started = false → c.readyAt ≤ s.hcpCycle → s.cmdNext c = true →
      (c.func = 2 → s.landFree c = true) → s.memClean = true →
      ∃ t u, exec (.heathCommandStart c.id) s = .next t ∧ t.hcmds.find? (fun q => q.id == c.id) = some u ∧ u.started = true ∧
        u.block = c.block ∧ u.hcp = c.hcp ∧ (c.func ≠ 2 → s.hcpCycle < u.doneAt ∧ memSame s t)) ∧
    (∀ c, s.hcmds.find? (fun q => q.id == c.id) = some c → c.started = true → c.doneAt ≠ 0 → c.doneAt ≤ s.hcpCycle →
      c.todo = [] → s.arbDone c.id = true → s.cmdCommitting c = false → s.cmdBehind c = false → s.cmdHeld c = false →
      ((HBlock.mk c.block).writes ≠ [] → c.wr ≠ []) → (∀ l ∈ s.landings, l.cmd = c.id → l.todo = []) →
      ∃ t, exec (.heathCommandComplete c.id) s = .next t ∧ (∀ q ∈ t.hcmds, q.id ≠ c.id) ∧
        (tgetD (t.hcp c.hcp).status (HBlock.mk c.block).tag 0).getLsbD 31 = false ∧
        (∀ key,
          let b := HBlock.mk c.block
          let h := s.hcp c.hcp
          let src := b.copyAt false 0
          let dst := b.copyAt true 0
          let n := b.f 0x18 0 32
          let v := (s.asRead c).hGet h src n
          b.op = 5 → b.f 0x18 32 32 = 1 → 0 < n → n ≤ 64 → dst % 2 ^ 21 + n ≤ 2 ^ 21 → h.keyAt dst = key → v.2 = 0 →
          (∀ l ∈ s.landings, l.cmd ≠ c.id) → (∀ d, d < 2 → (s.eng d).lines = [] ∧ (s.eng d).sets = []) → s.memClean = true → Memory.wf s.mem →
          plainUnder s key dst n → plainUnder (s.asRead c) key dst n → WritesBytes s t dst n v.1 (2 ^ n - 1))) ∧
    (∀ h l, (s.hcp h).load = some l → l.at_ ≤ s.gtc → s.hcpTick = true → s.arbDone l.id = true → (s.hcp h).stores = [] → s.memClean = true →
      (∀ i ∈ lineNos l.pa l.bytes, s.arrayAhead l.id i false = false ∧ s.heathAhead l.id i false = false) →
      let v := (s.issuedAt l.id).hRead l.key l.pa l.bytes
      (v.2 = 0 → ∃ t, exec (.hcpLoadArrival h) s = .next t ∧ memSame s t ∧ (t.hcp h).load = none ∧ (t.hcp h).sc.pc = (s.hcp h).sc.pc ∧
        ∀ r, (t.hcp h).sc.get r = if r = 0 then 0 else if l.pair = true ∧ r = l.rd + 1 then BitVec.ofNat 32 (v.1 / 2 ^ 32)
          else if r = l.rd then BitVec.ofNat 32 v.1 else (s.hcp h).sc.get r) ∧
      (v.2 ≠ 0 → (s.hcp h).ending = none → ∃ t, exec (.hcpLoadArrival h) s = .next t ∧ memSame s t ∧ (t.hcp h).load = none ∧
        (t.hcp h).ending = some (2, 0) ∧ (t.hcp h).sc.pc = (s.hcp h).sc.pc - 4)))

/-- R253, R254, R255: a slot of an empty arbiter only counts; a lone array read of an open row leaves when DRAM is ready for it, which is a
free value (log entry 2), and stays otherwise. A heath request that has waited 256 slots is promoted, a lease at its limit ends, and a
refresh due ends the bank's lease and stands first. -/
def Obligations.ArbiterEvents : Prop :=
  (∀ (a : Nat), Completes (.arbiterSlot a)) ∧
  (∀ (a b : Nat), ∀ i ∈ [Instr.activatePromotion a b, .leaseExpiry a b, .refreshDue a b], Completes i) ∧
  (∀ (s : State) (pc : Nat),
    let a := s.arb pc
    (∃ t, exec (.arbiterSlot pc) s = .next t ∧ memSame s t ∧ (∀ q, q ≠ pc → t.arb q = s.arb q) ∧ (t.arb pc).slot = max (a.slot + 1) s.slotFrom ∧
      (a.queue = [] → (t.arb pc).queue = [] ∧ ∀ b, ((t.arb pc).bankOf b).openRow = (a.bankOf b).openRow) ∧
      (∀ r, a.queue = [r] → r.kind = .arrayRead → (a.bankOf r.bank).openRow = some r.row → (a.bankOf r.bank).lease = false →
        (a.bankOf r.bank).posted = none → (t.arb pc).queue = if dramHolds (max (a.slot + 1) s.slotFrom) s.fresh r then [r] else [])) ∧
    (∀ r ∈ a.queue, a.promotable s.slotFrom r = true → ∃ t, exec (.activatePromotion pc r.id) s = .next t ∧ memSame s t ∧
      { r with promoted := true } ∈ (t.arb pc).queue) ∧
    (∀ b, (a.bankOf b).expired s.slotFrom = true → ∃ t, exec (.leaseExpiry pc b) s = .next t ∧ memSame s t ∧ ((t.arb pc).bankOf b).lease = false ∧
      (t.arb pc).queue = a.queue) ∧
    (∀ b, ∃ t r, exec (.refreshDue pc b) s = .next t ∧ memSame s t ∧ ((t.arb pc).bankOf b).lease = false ∧ (t.arb pc).queue = r :: a.queue ∧
      r.kind = .refresh ∧ r.bank = b))

/-! ## Launches, tasks, power, stops -/

/-- R285, R286, R287, R288: a record that fails its checks completes with its status; a region whose meadows are free is placed on them; a
kernel whose processors are free runs; a launch that is done completes, and its region's meadows are free again. -/
def Obligations.LaunchEvents : Prop :=
  (∀ (a b : Nat), Completes (.launchRecordStart a b)) ∧
  (∀ (a : Nat), Completes (.launchCompletion a)) ∧
  (∀ (s : State) (q slot : Nat) (d : Line),
    let m := s.queueView q
    let batch := (slotBatch slot).map (·.1)
    let rs := s.openRecords m q batch
    (s.memClean = true → (s.lqOf q).en = true → (batch = none → (s.lqOf q).pending = none) → rs.find? (fun p => decide (p.1 = slot)) = some (slot, d) →
      firstOfRcb rs slot d = true → s.afterMet m d = true →
      (∀ e, s.judgeRecord m batch.isSome d = .refuse e →
        ∃ t l, exec (.launchRecordStart q slot) s = .next t ∧ l ∈ t.launches ∧ l.queue = q ∧ l.slot = slot ∧ l.fin = some e ∧
          (∀ c, t.mdw c = s.mdw c) ∧ Act.ev (.launchCompletion l.id) ∈ t.agenda) ∧
      (∀ p, s.judgeRecord m batch.isSome d = .region p → s.claimedAbove p.prio p.plist = false → p.plist.all s.meadowFree = true → s.beatRoom p = true →
        ∃ t r, exec (.launchRecordStart q slot) s = .next t ∧ r ∈ t.regions ∧ r.rcb = p.region.va ∧ r.plist = p.plist ∧ r.eff = p.prio ∧
          (∀ c ∈ p.plist, (t.mdw c).region = some r.id) ∧ (∀ c, c ∉ p.plist → (t.mdw c).region = (s.mdw c).region)) ∧
      (∀ p, s.judgeRecord m batch.isSome d = .kernel p → (∀ h ∈ p.hcps, s.hcpBusy h = false) →
        ∃ t l, exec (.launchRecordStart q slot) s = .next t ∧ l ∈ t.launches ∧ l.hcps = p.hcps ∧ ∀ h ∈ p.hcps, (t.hcp h).running = true)) ∧
    (∀ l, s.launches.find? (fun k => decide (k.id = l.id)) = some l → s.launchDone l = true →
      ∃ t, exec (.launchCompletion l.id) s = .next t ∧ (∀ k ∈ t.launches, k.id ≠ l.id) ∧
        (∀ r, s.regions.find? (fun r => decide (r.launch = l.id)) = some r → (∀ g ∈ t.regions, g.id ≠ r.id) ∧
          ∀ c ∈ r.plist, (s.mdw c).region = some r.id → (t.mdw c).region = none)))

/-- R291, R299, R17: a task starts with the registers, counters and grants of its stage, and counts in its stage; it ends when its streams
have ended, and its grants are returned. R293, R294: a context that has been ready for the limit is promoted on its unit, ranked by the MTC
cycle in which its wait began; the holder of a
timed region's turn loses it at the limit. -/
def Obligations.TaskAndTurnEvents : Prop :=
  (∀ (a b c : Nat), Completes (.taskStart a b c)) ∧
  (∀ (a b : Nat), Completes (.taskEnd a b)) ∧
  (∀ (a b : Nat) (c : IssueUnit), Completes (.contextPromotion a b c)) ∧
  (∀ (a : Nat) (b : IssueUnit), Completes (.turnTimeout a b)) ∧
  ((∀ (s : State) (c x : Nat) (r : Region) (i : Nat) (g : Stage), s.regionOf c = some r → r.stages[i]? = some g →
    let m := s.mdw c
    let k := m.ctx x
    let gift := s.gift c i g
    (s.ctxFree c x = some r → s.eligible c x r i g ≠ none →
      ∃ t, exec (.taskStart c x i) s = .next t ∧ OnlyMdw s t c ∧ (∀ y, y ≠ x → t.ctx c y = s.ctx c y) ∧ (∀ v, (t.mdw c).row v = m.row v) ∧
        ((t.mdw c).stageRt i).running = (m.stageRt i).running + 1 ∧
        let j := t.ctx c x
        j.sc.getD 1 = BitVec.ofNat 64 gift.src ∧ j.sc.getD 2 = BitVec.ofNat 64 gift.dst ∧ j.sc.get 6 = BitVec.ofNat 32 gift.item ∧
        j.sc.get 7 = BitVec.ofNat 32 m.rank ∧ j.sRun = g.use.getLsbD 0 ∧ j.vRun = g.use.getLsbD 1 ∧ j.mRun = g.use.getLsbD 2 ∧
        (g.use.getLsbD 0 = true → j.sc.pc = g.sentry) ∧ (g.use.getLsbD 1 = true → j.vpc = g.ventry) ∧ (g.use.getLsbD 2 = true → j.mpc = g.mentry) ∧
        j.pl = 0 ∧ (∀ b, b < 8 → j.tileGranted b = g.tiles.getLsbD b) ∧ (∀ b, b < 4 → j.bregGranted b = g.bregs.getLsbD b)) ∧
    (∀ u, k.task = some u → u.stage = i → s.taskOver c x = true →
      ∃ t, exec (.taskEnd c x) s = .next t ∧ (t.ctx c x).task = none ∧ (t.ctx c x).sc = k.sc ∧ (∀ b, b < 8 → (t.ctx c x).tileGranted b = false) ∧
        (∀ b, b < 4 → (t.ctx c x).bregGranted b = false) ∧ ((t.mdw c).stageRt i).running = (m.stageRt i).running - 1 ∧
        (∀ y, y ≠ x → t.ctx c y = s.ctx c y) ∧ (u.claim = none → u.resv = none → OnlyMdw s t c))) ∧
  (∀ (s : State) (c x : Nat) (u : IssueUnit),
    let m := s.mdw c
    (m.timed = false → m.ageLimit.toNat * 256 ≤ tgetD (m.ctx x).readyRun (unitIx u) 0 → tget (m.ctx x).promoted (unitIx u) = none →
      ∃ t, exec (.contextPromotion c x u) s = .next t ∧ OnlyCtx s t c x ∧ tget (t.ctx c x).promoted (unitIx u) = some (m.mtc + 2 ^ 20 - tgetD (m.ctx x).readyRun (unitIx u) 0) ∧
        (t.ctx c x).sc = (s.ctx c x).sc) ∧
    ((m.unit u).turn = some x → m.timed = true → m.ageLimit.toNat * 256 ≤ (m.unit u).idle →
      ∃ t, exec (.turnTimeout c u) s = .next t ∧ OnlyMdw s t c ∧ ((t.mdw c).unit u).turn = m.nextTurn x ∧ (∀ y, t.ctx c y = s.ctx c y))))

/-- R296, R297: the charge every 4,096 cycles adds what each meadow's meter has gained to its launch; the compare every 14,000 cycles moves
the threshold by the sign of the power's excess over its limit, where the measured power is a free value (log entry 2); in other cycles
neither does anything. -/
def Obligations.PowerEvents : Prop :=
  (∀ i ∈ [Instr.energyCharge, .powerCompare], Completes i) ∧
  (∀ (s : State),
    (s.gtc % 4096 ≠ 0 → exec .energyCharge s = .next s) ∧
    (s.gtc % 4096 = 0 → s.hcps = [] → s.nodes = [] → ∀ c m r, s.meadows = [(c, m)] → s.regionOf c = some r →
      ∃ t, exec .energyCharge s = .next t ∧ memSame s t ∧ (t.mdw c).charged = m.emeter ∧
        (∀ l ∈ s.launches, l.id = r.launch → ∃ k ∈ t.launches, k.id = l.id ∧ k.used = l.used + (m.emeter - m.charged).toNat)) ∧
    (s.gtc % 14000 ≠ 0 → exec .powerCompare s = .next s) ∧
    (s.gtc % 14000 = 0 → ∃ t, exec .powerCompare s = .next t ∧ memSame s t ∧ t.meadows = s.meadows ∧
      let p := Config.power s.fresh
      (s.pwrlim.toNat < p → t.thresh = min 7 (s.thresh + 1)) ∧
      (p ≤ s.pwrlim.toNat → 95 * s.pwrlim.toNat ≤ 100 * p → t.thresh = s.thresh ∧ t.below = 0) ∧
      (100 * p < 95 * s.pwrlim.toNat → s.below < 9 → t.thresh = s.thresh ∧ t.below = s.below + 1) ∧
      (100 * p < 95 * s.pwrlim.toNat → 9 ≤ s.below → t.thresh = s.thresh - 1)))

/-- R300, R301: a request to pre-empt stops every meadow of the region; a meadow stopped by the end of its region becomes free when it is
quiet; a stuck one stops its fault domain; a region whose meadows are free again is resumed. R359, R360: a stop of a fault domain that no
wider stop covers ends every region under its node, records the node, and tells the host; a clear forgets the node. -/
def Obligations.PreemptionAndStops : Prop :=
  (∀ (a : Nat), ∀ i ∈ [Instr.preemptStuck a, .resumption a, .faultDomainStopClear a], Completes i) ∧
  (∀ (a b : Nat) (c d : BitVec 64) (e : Bool), Completes (.faultDomainStop a b c d e)) ∧
  ((∀ (s : State) (c : Nat) (r : Region),
    (s.regionOf c = some r → (s.mdw c).stopping = none → c ∈ r.plist → (s.mdw c).region = some r.id →
      (∀ d ∈ r.plist, ∀ y, (s.ctx d y).hasp.state ≠ .active) →
      ∃ t, exec (.preemption c) s = .next t ∧ (t.mdw c).stopping ≠ none ∧ ∀ d, d ∉ r.plist → t.mdw d = s.mdw d) ∧
    (∀ st, (s.mdw c).stopping = some st → st.why = .stop ∨ st.why = .halt → s.drained c none = true →
      ∃ t, exec (.preemption c) s = .next t ∧ OnlyMdw s t c ∧ (t.mdw c).region = none) ∧
    ((s.mdw c).stuck s.gtc = true → ∃ t, exec (.preemptStuck c) s = .next t ∧ OnlyMdw s t c ∧
      t.agenda = Act.ev (.faultDomainStop (s.domainOf c) Cause.preemptStuck 0 0 false) :: s.agenda) ∧
    (s.regions.find? (fun g => decide (g.id = r.id)) = some r → s.resumable r = true →
      ∃ t g, exec (.resumption r.id) s = .next t ∧ t.regions.find? (fun g => decide (g.id = r.id)) = some g ∧ g.preempted = false ∧
        ∀ d, d ∉ r.plist → t.mdw d = s.mdw d)) ∧
  (∀ (s : State) (node cause : Nat) (fctx fval : W64) (killed : Bool),
    (s.coveredStop node = false → ∃ t, exec (.faultDomainStop node cause fctx fval killed) s = .next t ∧
      (tget t.stopped node).isSome = true ∧ t.mcirq.getLsbD 17 = true ∧ (∀ r ∈ t.regions, node ∈ r.path → r.fin.isSome = true)) ∧
    (∃ t, exec (.faultDomainStopClear node) s = .next t ∧ tget t.stopped node = none ∧ (∀ n, n ≠ node → tget t.stopped n = tget s.stopped n) ∧
      t.meadows = s.meadows ∧ memSame s t)))

/-! ## Host, isolation, links -/

/-- R388, R389, R258, R297, R315, R392: writes to the registers of the management window, each changing nothing else of the machine, the
host's and the management core's (REGISTER_WRITE where the opcode table's event is the host's, log entry 76); a host
write to a register marked M, or before boot step 4 (R394), changes nothing. R386, R256: an aperture write puts its bytes in memory at APBASE
plus the offset and leaves the other bytes of their lines as they read under the key; a read gives them; an address without memory behind it
completes with Unsupported Request, and a read of a poisoned line with Completer Abort. Said of lines that no engine holds and no task's set
covers. What is lost when a record of the queue runs is log entry 75. -/
def Obligations.HostWindow : Prop :=
  (∀ (a : Bool) (b : BitVec 64) (c : Nat) (d : BitVec 512), Completes (.apertureAccess a b c d)) ∧
  (∀ (a : BitVec 64), Completes (.mcirq a)) ∧
  (∀ (a : BitVec 64), Completes (.bootcfg a)) ∧
  (∀ (m : Bool) (a : Nat) (b : BitVec 64), ∀ i ∈ [Instr.lqregh a b, .lqregl a b, .nrctl a b, .registerWrite m a b], Completes i) ∧
  ((∀ (s : State) (v : W64) (q off n : Nat) (w : Bool) (d : BitVec 512), s.bootStep < 4 →
    ∀ i ∈ [Instr.lqregh q v, .lqregl q v, .lqdb v, .bootcfg v, .registerWrite false off v, .apertureAccess w v n d, .hrqdb v],
      exec i s = .next s) ∧
  (∀ (s : State) (byM : Bool) (v : W64) (q : Nat), q < 16 → s.windowOff byM = false →
    (∀ i, WritesWindow s (.lqregh q v) (0x108 + 16 * q) v i → ∃ t, exec i s = .next t ∧ t = { s with lq := t.lq } ∧
      (t.lqOf q).heldHi = some (v &&& 0xFFFFFFFFFFFFF000#64) ∧ (t.lqOf q).lo = (s.lqOf q).lo ∧ (t.lqOf q).hi = (s.lqOf q).hi ∧
      ∀ p, p ≠ q → t.lqOf p = s.lqOf p) ∧
    (∀ hi i, WritesWindow s (.lqregl q v) (0x100 + 16 * q) v i → hi = (s.lqOf q).heldHi.getD (((s.lqOf q).pending.map (·.2)).getD (s.lqOf q).hi) →
      ((∀ l ∈ s.launches, l.queue ≠ q) → (v.getLsbD 0 = true → 6 ≤ s.bootStep) →
        ∃ t, exec i s = .next t ∧ t = { s with lq := t.lq, claims := t.claims } ∧ (t.lqOf q).lo = v &&& 0xFFFFFFFFFFFFFFC3#64 ∧
        (t.lqOf q).hi = hi ∧ (t.lqOf q).heldHi = none ∧ (t.lqOf q).pending = none ∧ ∀ p, p ≠ q → t.lqOf p = s.lqOf p) ∧
      (∀ l ∈ s.launches, l.queue = q →
        ∃ t, exec i s = .next t ∧ t = { s with lq := t.lq } ∧ (t.lqOf q).lo = (s.lqOf q).lo ∧ (t.lqOf q).hi = (s.lqOf q).hi ∧
        (t.lqOf q).heldHi = none ∧ (t.lqOf q).pending = some (v &&& 0xFFFFFFFFFFFFFFC3#64, hi) ∧ ∀ p, p ≠ q → t.lqOf p = s.lqOf p)) ∧
    (∀ i, WritesWindow s (.bootcfg v) 0x08 v i → ∃ t, exec i s = .next t ∧ t = { s with bootcfg := t.bootcfg } ∧ (5 ≤ s.bootStep → t.bootcfg = s.bootcfg) ∧
      (s.bootStep < 5 → t.bootcfg.toNat % 2 ^ 10 = v.toNat % 2 ^ 10 ∧ t.bootcfg.getLsbD 32 = v.getLsbD 32 ∧
        t.bootcfg.toNat / 2 ^ 33 = s.bootcfg.toNat / 2 ^ 33 ∧
        (v.toNat / 2 ^ 10 % 2 ^ 10 ≤ 512 → t.bootcfg.toNat / 2 ^ 10 % 2 ^ 10 = v.toNat / 2 ^ 10 % 2 ^ 10) ∧
        (512 < v.toNat / 2 ^ 10 % 2 ^ 10 → t.bootcfg.toNat / 2 ^ 10 % 2 ^ 10 = s.bootcfg.toNat / 2 ^ 10 % 2 ^ 10) ∧
        (let ports := ((List.range 8).filter fun i => v.getLsbD (24 + i)).length
          if (ports = 1 ∨ ports = 2 ∨ ports = 4 ∨ ports = 8) ∧ (v.getLsbD 24 = false ∨ Config.hostCxl = true) then
            t.bootcfg.toNat / 2 ^ 24 % 2 ^ 8 = v.toNat / 2 ^ 24 % 2 ^ 8 ∧ t.bootcfg.toNat / 2 ^ 20 % 2 ^ 4 = ports
          else t.bootcfg.toNat / 2 ^ 20 % 2 ^ 12 = s.bootcfg.toNat / 2 ^ 20 % 2 ^ 12))) ∧
    (∃ t, exec (.registerWrite byM 0x10 v) s = .next t ∧ t = { s with apbase := if byM then s.apbase else v &&& 0xFFF000000000#64 }) ∧
    (∃ t, exec (.registerWrite byM 0x18 v) s = .next t ∧ t = { s with apkey := if byM then s.apkey else v &&& 0x3FF#64 }) ∧
    (∃ t, exec (.registerWrite byM 0x210 v) s = .next t ∧ t = { s with prq := if byM then s.prq else v }) ∧
    (∃ t, exec (.registerWrite byM 0x218 v) s = .next t ∧ t = { s with hrq := if byM then s.hrq else v }) ∧
    (∃ t, exec (.registerWrite byM 0x300 v) s = .next t ∧ t = { s with pwrlim := v.setWidth 16 }) ∧
    (∃ t, exec (.registerWrite byM 0x308 v) s = .next t ∧ t = { s with brlim := v.setWidth 16 }) ∧
    (∃ t, exec (.registerWrite byM 0x600 v) s = .next t ∧ t = { s with elogsel := v &&& 0xFFFF#64 }) ∧
    (∃ t, exec (.registerWrite byM 0x700 v) s = .next t ∧ t = { s with fvxaddr := v &&& 0xFFF#64 }) ∧
    (∃ t, exec (.registerWrite byM 0x708 v) s = .next t ∧ t = { s with fvxsync := v &&& 0x1F#64 }) ∧
    (∀ k, k < 8 → (∃ t, exec (.registerWrite byM (0x408 + 16 * k) v) s = .next t ∧ t = { s with nrseed := t.nrseed } ∧
      ∀ j, tget t.nrseed j = if byM = true ∧ j = k then some v else tget s.nrseed j)) ∧
    (∀ a, a % 8 = 0 → a < 2 ^ 18 → Memory.wf s.tcm → ∃ t, exec (.registerWrite byM (0x100000 + a) v) s = .next t ∧ t = { s with tcm := t.tcm } ∧
      (byM = false → t.tcm = s.tcm) ∧ (∀ b, b < a ∨ a + 8 ≤ b → Memory.read t.tcm b = Memory.read s.tcm b) ∧
      (byM = true → ∀ i, i < 8 → Memory.read t.tcm (a + i) = BitVec.ofNat 8 (v.toNat / 2 ^ (8 * i))))) ∧
  (∀ (s : State) (v : W64),
    (∃ t, exec (.mcirq v) s = .next t ∧ t = { s with mcirq := t.mcirq } ∧
      ∀ i, t.mcirq.getLsbD i = (s.mcirq.getLsbD i && (!v.getLsbD i || s.mcirqSet.getLsbD i))) ∧
    (∀ n, n < 8 → ∃ t, exec (.nrctl n v) s = .next t ∧ t = { s with nrctl := t.nrctl, arbiters := t.arbiters } ∧
      (t.nrOf n).getLsbD 8 = v.getLsbD 8 ∧ (6 ≤ v.toNat % 16 → v.toNat % 16 ≤ 12 → (t.nrOf n).toNat % 16 = v.toNat % 16) ∧
      (v.toNat % 16 < 6 ∨ 12 < v.toNat % 16 → (t.nrOf n).toNat % 16 = (s.nrOf n).toNat % 16) ∧ (v.getLsbD 8 = false → t.arbiters = s.arbiters) ∧
      ∀ k, k ≠ n → t.nrOf k = s.nrOf k))) ∧
  (∀ (s : State) (off : W64) (n : Nat) (d : BitVec 512), 4 ≤ s.bootStep → 0 < n → n ≤ 64 → s.memClean = true →
    let pa := (s.apbase.toNat + off.toNat % 2 ^ 36) % 2 ^ 48
    let key := s.apkey.toNat % 2 ^ 10
    (s.backedRange pa n = true →
      (∃ t, exec (.apertureAccess false off n d) s = .next t ∧ memSame s t ∧ t.meadows = s.meadows ∧ t.engines = s.engines ∧
        t.hostCpl = if (s.hRead key pa n).2 = 0 then .success (some (BitVec.ofNat 512 (s.hRead key pa n).1)) else .completerAbort) ∧
      ((tget s.keys key).isSome = true → s.heldIn pa n = false → s.woundRange pa n = s → Memory.wf s.mem →
        ∃ t, exec (.apertureAccess true off n d) s = .next t ∧ t.hostCpl = .success none ∧ t.meadows = s.meadows ∧ t.engines = s.engines ∧
        (∀ a, pa / 64 ≤ a / 64 → a / 64 ≤ (pa + n - 1) / 64 →
          (t.hRead key a 1).1 = if pa ≤ a ∧ a < pa + n then d.toNat / 2 ^ (8 * (a - pa)) % 256 else (s.hRead key a 1).1) ∧
        ∀ a, a / 64 < pa / 64 ∨ (pa + n - 1) / 64 < a / 64 → Memory.read t.mem a = Memory.read s.mem a)) ∧
    (s.backedRange pa n = false → ∀ w, ∃ t, exec (.apertureAccess w off n d) s = .next t ∧ t = { s with hostCpl := .unsupportedRequest }))

/-- R390: a doorbell takes the new entries in ring order, each as the answer or the page that the host asks for, skips others, and moves HEAD
to TAIL. R355, R356, R357: a successful answer with a frame that passes writes the entry, in the image and in every live copy loaded from it
at once, and gives the asker status 0; an answer that no request waits for is ignored, and a failed one gives every asker status 6; a request
without an answer for 2^31 cycles ends so too; a reclaim of an entry that no kernel pins starts, and completes once its accesses are
performed. -/
def Obligations.PageEvents : Prop :=
  (∀ (a : BitVec 64), Completes (.hrqdb a)) ∧
  (∀ (a : Nat) (b c : BitVec 64), Completes (.hrqAnswer a b c)) ∧
  (∀ (a : BitVec 64) (b : Nat), Completes (.hrqReclaim a b)) ∧
  (∀ (a : Nat), ∀ i ∈ [Instr.reclaimComplete a, .pageRequestTimeout a], Completes i) ∧
  (∀ (s : State) (v : W64), 4 ≤ s.bootStep →
    let r := ringView (Memory.readN s.host) s.hrq.toNat
    let s1 : State := { s with hrqdb := v &&& 0xFFFFFF#64 }
    (r.depth = 0 ∨ r.depth < r.occ → exec (.hrqdb v) s = .next s1) ∧
    (r.depth ≠ 0 → r.occ ≤ r.depth → ∃ t, ∃ f : Nat → State, exec (.hrqdb v) s = .next t ∧ f 0 = s1 ∧
      (∀ i, i < r.occ →
        let rd (off n : Nat) : Nat := Memory.readN (f i).host (r.addr (r.head + i) + off) n
        (rd 0 1 = 1 → exec (.hrqAnswer (rd 4 4) (BitVec.ofNat 64 (rd 8 8)) (BitVec.ofNat 64 (rd 16 8))) (f i) = .next (f (i + 1))) ∧
        (rd 0 1 = 2 → exec (.hrqReclaim (BitVec.ofNat 64 (rd 16 8)) (rd 24 8 % 2 ^ 13)) (f i) = .next (f (i + 1))) ∧
        (rd 0 1 ≠ 1 → rd 0 1 ≠ 2 → f (i + 1) = f i)) ∧
      t = { f r.occ with host := Memory.writeN (f r.occ).host s.hrq.toNat 4 r.tail })) ∧
  (∀ (s : State),
    (∀ seq st fr, (∀ q ∈ s.pageReqs, q.out = true → q.seq ≠ seq) → exec (.hrqAnswer seq st fr) s = .next s) ∧
    (∀ q (frame : W64), s.pageReqs.find? (fun p => p.out && p.seq == q.seq) = some q → s.pinnedEntry q.image q.entry = false →
      s.frameOk q frame.toNat = true → s.reclaims = [] → s.memClean = true →
      let taken (e w : W64) : Prop := ∀ i, i < 64 → w.getLsbD i = if 21 ≤ i ∧ i < 48 then frame.getLsbD i else if 62 ≤ i then true else e.getLsbD i
      let a := q.image + 8 * q.entry
      ∃ t, exec (.hrqAnswer q.seq 0 frame) s = .next t ∧
        (∀ c, (s.mdw c).region.isSome = true → (s.mdw c).imageOf q.entry = q.image →
          taken (tgetD (s.mdw c).window q.entry 0) (tgetD (t.mdw c).window q.entry 0)) ∧
        (∀ a, q.askers = [a] → (s.ctx a.coord a.ctx).gen = a.gen → (s.mdw a.coord).region.isSome = true → a.notify = false →
          (t.ctx a.coord a.ctx).se.results = (s.ctx a.coord a.ctx).se.results ++ [seResult a.tagc 0 0]) ∧
        ((tget s.keys 0).isSome = true → s.heldIn a 8 = false → Memory.wf s.mem → plainUnder s 0 a 8 →
          ∃ w, taken (s.imageEntry q.image q.entry) w ∧ WritesBytes s t a 8 w.toNat (2 ^ 8 - 1))) ∧
    (∀ q st fr, s.pageReqs.find? (fun p => p.out && p.seq == q.seq) = some q → st ≠ 0 → s.reclaims = [] →
      ∃ t, exec (.hrqAnswer q.seq st fr) s = .next t ∧ memSame s t ∧ (∀ a, q.askers = [a] → (s.ctx a.coord a.ctx).gen = a.gen → (s.mdw a.coord).region.isSome = true → a.notify = false →
        (t.ctx a.coord a.ctx).se.results = (s.ctx a.coord a.ctx).se.results ++ [seResult a.tagc 6 st.toNat])) ∧
    (∀ q, s.pageReqs.find? (fun p => p.out && p.seq == q.seq) = some q → q.since + 2 ^ 31 ≤ s.gtc →
      ∃ t, exec (.pageRequestTimeout q.seq) s = .next t ∧ (∀ a, q.askers = [a] → (s.ctx a.coord a.ctx).gen = a.gen →
        (s.mdw a.coord).region.isSome = true → a.notify = false →
        (t.ctx a.coord a.ctx).se.results = (s.ctx a.coord a.ctx).se.results ++ [seResult a.tagc 6 0xFFFF0002])) ∧
    (∀ image e, s.pinnedEntry image.toNat e = false → e < 6144 → (∀ q ∈ s.pageReqs, q.out = false) →
      ∃ t r, exec (.hrqReclaim image e) s = .next t ∧ t.reclaims = s.reclaims ++ [r] ∧ r.image = image.toNat ∧ r.entry = e ∧ r.started = true) ∧
    (∀ r, s.reclaims.find? (fun q => decide (q.id = r.id)) = some r → r.started = true → r.since < s.gtc → s.pageQuiet r.image r.entry r.ord = true →
      ∃ t, exec (.reclaimComplete r.id) s = .next t ∧ ∀ q ∈ t.reclaims, q.id ≠ r.id))

/-- R366, R367, R368: an alarm never lowers the level, leaves it at least its source's level, and records its source; CLR1 lowers level 1
alone; SECCFG takes levels 1 to 3 until it is locked. R393, R364, R365, R376: a debug access with a certificate that verifies is admitted;
firmware whose signatures verify runs, and other firmware raises its alarm; a report uses the next leaf of the per-boot key and covers the
nonce, the part, the alarm, the wrap epoch and GTC, and none is given when the leaves are used up; a parity failure of an instruction buffer
delays its stream by a cycle and is logged. What images and certificates hold is a free value (log entry 94). -/
def Obligations.SecurityEvents : Prop :=
  (∀ (a b : Nat) (c : StreamId), Completes (.ibufParity a b c)) ∧
  (∀ (a : BitVec 64), ∀ i ∈ [Instr.secstat a, .seccfg a], Completes i) ∧
  (∀ (a : AlarmSource), Completes (.alarmRaise a)) ∧
  (∀ (a : Nat), ∀ i ∈ [Instr.debugAccess a, .firmwareUpdate a], Completes i) ∧
  (∀ (a : BitVec 256), Completes (.attestationReport a)) ∧
  ((∀ (s : State) (v : W64),
    (∀ a ∈ ([(.tamper, 0, s.seccfg.toNat % 4), (.debug, 1, s.seccfg.toNat / 4 % 4), (.attest, 2, s.seccfg.toNat / 16 % 4),
        (.firmware, 3, s.seccfg.toNat / 64 % 4), (.debugAdmitted, 1, 1)] : List (AlarmSource × Nat × Nat)),
      ∃ t, exec (.alarmRaise a.1) s = .next t ∧ t.level = max s.level a.2.2 ∧ memSame s t ∧ t.meadows = s.meadows ∧
      ∀ i, i < 4 → t.alarmSrc.getLsbD i = (s.alarmSrc.getLsbD i || decide (i = a.2.1))) ∧
    (∃ t, exec (.secstat v) s = .next t ∧ memSame s t ∧ (∀ i, i < 4 → t.alarmSrc.getLsbD i = (s.alarmSrc.getLsbD i && !v.getLsbD (8 + i))) ∧
      (t.level = if v.getLsbD 2 = true ∧ s.level = 1 ∧ s.alarmAt ≠ some s.ticks then 0 else s.level)) ∧
    (∃ t, exec (.seccfg v) s = .next t ∧ t = { s with seccfg := t.seccfg } ∧ (s.seccfg.getLsbD 8 = true → t.seccfg = s.seccfg) ∧
      (s.seccfg.getLsbD 8 = false → t.seccfg.getLsbD 8 = v.getLsbD 8 ∧ ∀ i, i < 4 →
        t.seccfg.toNat / 2 ^ (2 * i) % 4 = if v.toNat / 2 ^ (2 * i) % 4 = 0 then s.seccfg.toNat / 2 ^ (2 * i) % 4 else v.toNat / 2 ^ (2 * i) % 4))) ∧
  (∀ (s : State),
    (∀ n, ∃ t, exec (.debugAccess n) s = .next t ∧ memSame s t ∧ t.meadows = s.meadows ∧
      (certOk s.customerPart n = true → t.debugOpen = true ∧ t.level = max s.level 1) ∧
      (certOk s.customerPart n = false → t.debugOpen = s.debugOpen ∧ t.level = if s.debugOpen then s.level else max s.level (s.seccfg.toNat / 4 % 4))) ∧
    (∀ n, ∃ t, exec (.firmwareUpdate n) s = .next t ∧ memSame s t ∧ t.meadows = s.meadows ∧
      (firmwareOk s.customerPart n = true → t = { s with firmware := [n] }) ∧
      (firmwareOk s.customerPart n = false → t.firmware = s.firmware ∧ t.level = max s.level (s.seccfg.toNat / 64 % 4))) ∧
    (∀ nonce,
      (s.bootLeaf = none → exec (.attestationReport nonce) s = .next s) ∧
      (∀ q, s.bootLeaf = some q → 2 ^ 20 ≤ s.leaf → ∃ t, exec (.attestationReport nonce) s = .next t ∧ t.report = s.report ∧ t.leaf = s.leaf ∧
        t.level = max s.level (s.seccfg.toNat / 16 % 4)) ∧
      (∀ q, s.bootLeaf = some q → s.leaf < 2 ^ 20 → ∃ t r, exec (.attestationReport nonce) s = .next t ∧
        t = { s with leaf := s.leaf + 1, report := some r } ∧ r.q = q ∧ r.leaf = s.leaf ∧ r.customerPart = s.customerPart ∧ r.level = s.level ∧
        r.alarmSrc = s.alarmSrc ∧ r.wepoch = s.wepoch ∧ r.nonce = nonce ∧ r.gtc = s.gtc ∧ r.images.length = s.firmware.length)) ∧
    (∀ c x st, (s.ctx c x).parity = [] → (s.mdw c).relmask.getLsbD 3 = false → ∃ t, exec (.ibufParity c x st) s = .next t ∧ OnlyCtx s t c x ∧
      (t.ctx c x).nextOf st = max ((s.ctx c x).nextOf st) ((s.mdw c).mtc + 1) ∧ (t.ctx c x).pcOf st = (s.ctx c x).pcOf st ∧
      (t.ctx c x).sc.regs = (s.ctx c x).sc.regs ∧ t.logs ≠ s.logs)))

/-- R268, R269, R391: a packet of four contribution lines reaches an armed landing: a line that its rank has not sent yet and that DST has
is taken, a second one is counted and discarded, and a line that every rank has sent is to be written; a packet for no armed landing is
dropped with a log entry, and a GTC-sync packet is neither. R384, R392: a failed port is remembered; the GTC-sync flit of the named port
starts GTC at V + D. R285, R343: a doorbell examines every enabled queue, of idle queues it changes nothing. R394: power-on goes to boot step
1 with no key, meadow, kernel or launch. What memory holds after power-on is log entry 1. -/
def Obligations.LinkEvents : Prop :=
  (∀ (a : FavexPacket), Completes (.landingContribution a)) ∧
  (∀ (a : Nat) (b c : BitVec 64), Completes (.gtcSyncFlit a b c)) ∧
  (∀ (a : Nat), Completes (.favexPortFailure a)) ∧
  (∀ (a : BitVec 64), Completes (.lqdb a)) ∧
  (Completes (.powerOnReset)) ∧
  (∀ (s : State),
    (∀ port, ∃ t, exec (.favexPortFailure port) s = .next t ∧ port ∈ t.portFailed ∧ (∀ p, p ≠ port → (p ∈ t.portFailed ↔ p ∈ s.portFailed)) ∧
      memSame s t ∧ t.meadows = s.meadows) ∧
    (∀ port v d, s.bootStep = 5 → s.gtcRunning = false → s.fvxsync.getLsbD 4 = true → s.fvxsync.toNat % 16 = port → port ∉ s.portFailed →
      ∃ t, exec (.gtcSyncFlit port v d) s = .next t ∧ t.gtc = (v.toNat + d.toNat) % 2 ^ 64 ∧ t.gtcRunning = true ∧
        t = { s with gtc := t.gtc, gtcRunning := true, edge := t.edge, fresh := t.fresh }) ∧
    (∀ p, p.type = 2 → exec (.landingContribution p) s = .next s) ∧
    (∀ p, p.type ≠ 2 → p.type ≠ 1 ∨ p.dpkg.toNat ≠ s.fvxaddr.toNat % 2 ^ 12 ∨
        (∀ l ∈ s.landings, l.hcp ≠ p.dheath.toNat ∨ l.b.f 0x10 56 8 ≠ p.lid.toNat ∨ l.post ≠ none) →
      ∃ t, exec (.landingContribution p) s = .next t ∧ t = { s with logs := t.logs, msix := t.msix } ∧
      ∃ log e, (tgetD t.logs log {}).entries.getLast? = some e ∧ e.cause = Cause.pktDrop) ∧
    (∀ p l, p.type = 1 → p.dpkg.toNat = s.fvxaddr.toNat % 2 ^ 12 → s.landings = [l] → l.hcp = p.dheath.toNat → l.b.f 0x10 56 8 = p.lid.toNat →
      l.post = none → p.rank.toNat < l.b.f 0x10 32 13 →
      let takes (i : Nat) : Prop := i < 4 ∧ p.line.toNat + i < l.lines ∧ ∀ g ∈ l.got, ¬ (g.rank = p.rank.toNat ∧ g.line = p.line.toNat + i)
      ∃ t k, exec (.landingContribution p) s = .next t ∧ memSame s t ∧ t.meadows = s.meadows ∧ t.landings = [k] ∧ k.cmd = l.cmd ∧ k.block = l.block ∧
        k.written = l.written ∧
        (∀ g, g ∈ k.got ↔ g ∈ l.got ∨ ∃ i, takes i ∧
          g = ⟨p.rank.toNat, p.line.toNat + i, p.payload.extractLsb' (512 * i) 512, p.poison.getLsbD i⟩) ∧
        (∀ i, takes i → (l.got.filter fun g => g.line = p.line.toNat + i).length + 1 = l.b.f 0x10 32 13 → p.line.toNat + i ∈ k.todo) ∧
        ((∀ i, ¬ takes i) → p.line.toNat + 4 ≤ l.lines → k.dups = l.dups + 4)) ∧
    (∀ (v : W64) (i : Instr), WritesWindow s (.lqdb v) 0x200 v i →
      ((∀ q ∈ s.lq, q.2.en = false) → exec i s = .next s) ∧
      (∃ t, exec i s = .next t ∧ t = { s with agenda := t.agenda } ∧ (∀ a ∈ s.agenda, a ∈ t.agenda) ∧
        ∀ q, (s.lqOf q).en = true → ∀ r ∈ s.openRecords (s.queueView q) q none, Act.ev (.launchRecordStart q r.1) ∈ t.agenda)) ∧
    (∃ t, exec .powerOnReset s = .next t ∧ t.bootStep = 1 ∧ t.gtcRunning = false ∧ t.gtc = 0 ∧ t.level = 0 ∧ t.meadows = [] ∧ t.regions = [] ∧
      t.launches = [] ∧ t.keys = [] ∧ t.engines = [] ∧ t.hcps = [] ∧ t.pwrlim = 3400 ∧ t.brlim = 1200))

/-- R340, R341, R344, R345, R346: a request of the host goes to slot TAIL of the request ring, 256 bytes, and TAIL advances; with a full ring,
or with none, it waits behind the others (log entry 78). With no live sequence an issue step only takes the requests; an iteration is issued
only when none is in flight and the launch queue has room; a commit of an iteration whose batch has succeeded ends it and counts it. Where
the loop's records lie is the model's (log entry 16). -/
def Obligations.GenerationEvents : Prop :=
  (∀ i ∈ [Instr.genIterationIssue, .genCommit], Completes i) ∧
  (∀ (a : BitVec 1024), Completes (.sequenceAdd a)) ∧
  (∀ (a : BitVec 32), Completes (.sequenceCancel a)) ∧
  (∀ (s : State),
    (∀ (i : Instr) (r : GenReq), (∃ img, i = .sequenceAdd img ∧ r = .add img) ∨ (∃ n, i = .sequenceCancel n ∧ r = .cancel n) →
      (∀ d e tl, s.reqRing = some d → s.gen.reqs = [] → d.toNat / 2 ^ 64 % 2 ^ 24 ≠ ringOcc d → s.genSlot d s.gen.ringAddr 256 = some (e, tl) →
        ∃ t, exec i s = .next t ∧ t = (s.writeParts e r.bytes (2 ^ 256 - 1)).writeParts tl ((d.toNat / 2 ^ 32 % 2 ^ 24 + 1) % 2 ^ 24) 15 ∧
          t.gen = s.gen ∧ t.tcm = s.tcm ∧ t.gtc = s.gtc ∧ t.meadows = s.meadows) ∧
      (s.reqRing = none ∨ s.gen.reqs ≠ [] ∨ (∃ d, s.reqRing = some d ∧ (d.toNat / 2 ^ 64 % 2 ^ 24 = ringOcc d ∨ s.genSlot d s.gen.ringAddr 256 = none)) →
        exec i s = .next { s with gen := { s.gen with reqs := s.gen.reqs ++ [r] } })) ∧
    (s.gen.inFlight = true ∨ s.genRoom = false → exec .genIterationIssue s = .next s) ∧
    (s.gen.inFlight = false → s.genRoom = true → s.memClean = true → s.reqRing = none → s.gen.reqs = [] → s.genRows = [] →
      ∃ t, exec .genIterationIssue s = .next t ∧ memSame s t ∧ t.gen.inFlight = false ∧ t.tcm = s.tcm) ∧
    (s.gen.inFlight = false → s.genRoom = true → s.memClean = true → s.reqRing = none → s.gen.reqs = [] → s.genRows ≠ [] →
      ∃ t, exec .genIterationIssue s = .next t ∧ t.gen.inFlight = true ∧ t.gen.rows = s.genRows ∧ t.gen.done = false ∧ t.tcm = s.tcm ∧ t.gen.iter = s.gen.iter) ∧
    (s.gen.inFlight = false ∨ s.gen.retry = true ∧ s.genRoom = false ∨ s.gen.retry = false ∧ s.gen.done = false → exec .genCommit s = .next s) ∧
    (s.gen.inFlight = true → s.gen.retry = false → s.gen.done = true → s.memClean = true → s.reqRing = none → s.gen.reqs = [] →
      s.qRead s.genView s.gen.crecAddr 1 = some 0 →
      ∃ t, exec .genCommit s = .next t ∧ t.gen.inFlight = false ∧ t.gen.rows = [] ∧ t.gen.iter = s.gen.iter + 1 ∧
        (s.mcirqSet.getLsbD (s.gen.queue % 16) = false → t.mcirq.getLsbD (s.gen.queue % 16) = false) ∧ (s.gen.rows = [] → t.tcm = s.tcm ∧ memSame s t)))

/-! ## Reset, steps, encodings -/

/-- R394, R13, R297, R315, R366, R367, R12, R9: what the spec gives at reset: boot step 1, GTC 0 and not started, no meadow in use and no
kernel, no key slot loaded, no launch queue enabled, alarm level 0, and PWRLIM, BRLIM, THRESH, SECCFG and NRCTL at their values. R39, R41,
R9: what a context and its meadow hold when they are cleared for placement. MTC 0 there is log entry 6. -/
def Obligations.ResetAndPlacement : Prop :=
  (let s := Machine.State.reset
  s.bootStep = 1 ∧ s.gtc = 0 ∧ s.gtcRunning = false ∧ (∀ c, (s.mdw c).region = none) ∧ (∀ h, (s.hcp h).running = false) ∧
  (∀ n, tget s.keys n = none) ∧ (∀ q, (s.lqOf q).en = false) ∧ s.level = 0 ∧ s.alarmSrc = 0 ∧ s.pwrlim = 3400 ∧ s.brlim = 1200 ∧ s.thresh = 0 ∧
  s.seccfg = 0x5B ∧ s.mcirq = 0 ∧ (∀ n, s.nrOf n = 8) ∧ s.regions = [] ∧ s.launches = [] ∧ s.agenda = []) ∧
  (let m : Machine.Meadow := {}
  let k : Machine.Ctx := {}
  (∀ r, k.sc.get r = 0) ∧ (∀ j, k.mreg j = 0) ∧ (∀ p, k.pred p = if p = 0 then BitVec.allOnes 512 else 0) ∧
  (∀ q, (k.queue64 q).items = [] ∧ (k.queueRow q).items = []) ∧ k.seed = 0 ∧ k.ctr = 0 ∧ k.tcause = 0 ∧ k.tval = 0 ∧ k.tpc = 0 ∧ k.uivec = 0 ∧
  k.uistat = 0 ∧ (∀ v, m.row v = 0) ∧ (∀ v, m.poisoned v = false) ∧ (∀ t, m.tileTy t = .f32) ∧ (∀ n, tgetD m.sbf n 0 = 0) ∧
  (∀ a, Memory.read m.spad a = 0) ∧ m.ageLimit = 16 ∧ m.emeter = 0 ∧ m.mtc = 0 ∧ m.mbpol = 0 ∧ m.missCount = 0 ∧ m.beatLimit = 8 ∧
  (∀ p, m.lookReg p = 0))

/-- The memory of the reset state is in canonical form: the model's own invariant, of the value that unlisted memory reads as (log entry 1).
-/
def Obligations.ResetMemoryCanonical : Prop :=
  memorySafe Machine.State.reset

/-- Every step keeps the memory's canonical form, whatever instruction or event it runs: addresses strictly rising, no byte listed that
reads as an unlisted one does (the model's own invariant, log entry 1). -/
def Obligations.StepKeepsMemoryCanonical : Prop :=
  ∀ s t, memorySafe s → Machine.step s = .next t → memorySafe t

/-- R23, R193, R350, R111: with an issue slot next on the agenda that is open, when the window or the page list gives the word's bytes, none
of them poisoned, and they decode to an instruction that its unit lets issue, a step is exec of that instruction for that agent, with the
slot taken off the agenda. An input next on the agenda runs as its instruction. The agenda is the model's (log entry 3). Said of a package
with no latent DRAM error, whose fetch corrects nothing. -/
def Obligations.StepRunsTheDecodedWord : Prop :=
  (∀ (s : State) (c x : Nat) (st : StreamId) (rest : List Act) (ps : List Part) (i : Instr),
    s.agenda = .slot (.stream c x st) :: rest → s.memClean = true → s.slotOpen (.stream c x st) = true →
    let a := ((s.ctx c x).fetchAddr st).toNat
    let v := (s.readParts ps).1
    s.access (s.mdw c) .fetch [(a, streamBytes st)] = .ok ps → (s.readParts ps).2.1 = 0 → (st = .s → v / 2 ^ 24 % 64 ≠ 0x3E) →
    decodeBytes st (natToBytes (streamBytes st) v) = .ok i → s.unitOk (.stream c x st) i = true →
    Machine.step s = exec i { s with agenda := rest, cur := .stream c x st }) ∧
  (∀ (s : State) (h key : Nat) (rest : List Act) (i : Instr),
    s.agenda = .slot (.hcp h) :: rest → s.memClean = true → s.slotOpen (.hcp h) = true →
    let pa := (s.hcp h).hi.toNat * 2 ^ 32 + (s.hcp h).sc.pc.toNat
    let r := s.hRead key pa 4
    (s.hcp h).check pa 4 = .ok key → r.2 = 0 → hcpMajor r.1 = none → decodeBytes .s (natToBytes 4 r.1) = .ok i →
    Machine.step s = exec i { s with agenda := rest, cur := .hcp h }) ∧
  (∀ (s : State) (i : Instr) (rest : List Act), s.agenda = .input i :: rest →
    Machine.step s = exec i { s with agenda := rest, cur := .device })

/-- R50, R51, R43, R371: with an open issue slot next, a word whose bytes the decoder refuses raises the refusal's cause with its bit as
TVAL and the word's address as TPC, and a heath word on an S-stream raises RES_OPCODE; no register changes. -/
def Obligations.ReservedWordsTrap : Prop :=
  ∀ (s : State) (c x : Nat) (st : StreamId) (rest : List Act) (ps : List Part),
    s.agenda = .slot (.stream c x st) :: rest → s.memClean = true → s.slotOpen (.stream c x st) = true → (s.ctx c x).trap = none →
    let a := ((s.ctx c x).fetchAddr st).toNat
    let v := (s.readParts ps).1
    let traps (cause bit : Nat) := ∃ t p, Machine.step s = .next t ∧ OnlyCtx s t c x ∧ (t.ctx c x).trap = some p ∧ p.cause = cause ∧
      p.tval = BitVec.ofNat 64 bit ∧ p.tpc = (s.ctx c x).pcOf st ∧ p.stream = some st ∧ (t.ctx c x).sc = (s.ctx c x).sc
    s.access (s.mdw c) .fetch [(a, streamBytes st)] = .ok ps → (s.readParts ps).2.1 = 0 →
    (∀ r, (st = .s → v / 2 ^ 24 % 64 ≠ 0x3E) → decodeBytes st (natToBytes (streamBytes st) v) = .error r → traps r.cause.code r.bit) ∧
    (st = .s → v / 2 ^ 24 % 64 = 0x3E → traps 0x01 29)

/-- R28, R43 to R47: for every well-formed S-word and heath word, with every operand at every value its encoding admits, decode of encode is
the instruction. -/
def Obligations.ScalarWordsRoundTrip : Prop :=
  ∀ (i : Instr) (w : W32), i.wellFormed = true → encodeS i = some w → encode i = some (32, w.toNat) ∧ decodeTableWord 32 w.toNat = some i

/-- R30, R33, R37, R38, R48, R49: for every well-formed V-word and M-word, with every operand at every value its encoding admits, decode of
encode is the instruction. -/
def Obligations.VectorMatrixWordsRoundTrip : Prop :=
  ∀ (i : Instr), i.wellFormed = true →
    (∀ w, encodeV i = some w → encode i = some (96, w.toNat) ∧ decodeTableWord 96 w.toNat = some i) ∧
    (∀ w, encodeM i = some w → encode i = some (192, w.toNat) ∧ decodeTableWord 192 w.toNat = some i)

/-- R28, R30, R37 and the worked example of 05_scalar_isa.md: words written out from the encoding tables decode to the instructions they
stand for, and three reserved words to none. -/
def Obligations.WordsFromTheSpec : Prop :=
  decodeTableWord 32 0x0D10278D = some (.lih 0 4 0x0278D) ∧ decodeTableWord 32 0x03140005 = some (.addi 0 5 0 5) ∧
  decodeTableWord 32 0x01186140 = some (.add 0 6 6 5) ∧ decodeTableWord 32 0x16140FFF = some (.loop 0 5 0 0xFFF) ∧
  decodeTableWord 32 0x02204100 = some (.addd 0 4 2 2) ∧ decodeTableWord 32 0x1700003F = some (.exit 0) ∧
  decodeTableWord 32 0b10_100011_000100_000110_000000001001 = some (.ldd 2 2 3 9) ∧
  decodeTableWord 32 0b00_101110_010101_001000_000011_000000 = some (.atomAdd 0 true false .sys 4 3) ∧
  decodeTableWord 32 0b00_111110_000000_000110_000000_000000 = some (.hgemv 0 3) ∧
  decodeTableWord 96 0b00_00010000_0000_0011_0_000_00001000_0000000100000000010000_0000001000000000010001_1000111111100000000000 =
    some (.vadd ⟨0, .f32, 3, false, .rne, 8, .rows 16 1 false false, .rows 32 1 true false, .imm 0x3F800⟩) ∧
  decodeTableWord 192 (0b0000010010 * 2 ^ 182 + 5 * 2 ^ 171) =
    some (.mzero ⟨0, .f32, .f32, 5, .rne, .none, 0, .breg 0, .breg 0, none, none, false, false, false, 0, 0, 0, 0⟩) ∧
  decodeTableWord 32 0x00000000 = none ∧ decodeTableWord 32 0x01000013 = none ∧ decodeTableWord 32 0x02041000 = none
end

