-- ==== Sys2Proof/Laws/Tables.lean ====
section
/-! SUPPORT. Laws of sparse tables and memories: reads after writes, and the canonical form of a memory, which every memory operation keeps. -/
namespace Sys2Proof.Machine

/-! ## Tables -/

theorem tget_tput_self {α : Type} (t : Tab α) (k : Nat) (v : α) : tget (tput t k v) k = some v := by
  induction t with
  | nil => simp [tput, tget]
  | cons c t ih =>
    obtain ⟨i, u⟩ := c
    simp only [tput]
    split
    · simp [tget]
    · split
      · simp [tget]
      · next h => simp [tget, ih, Ne.symm h]

theorem tget_tput_ne {α : Type} (t : Tab α) {k j : Nat} (v : α) (h : j ≠ k) : tget (tput t k v) j = tget t j := by
  induction t with
  | nil => simp [tput, tget, Ne.symm h]
  | cons c t ih =>
    obtain ⟨i, u⟩ := c
    simp only [tput]
    split
    · simp [tget, Ne.symm h]
    · split
      · next h2 => subst h2; simp [tget, Ne.symm h]
      · simp [tget, ih]

theorem tget_tdel_self {α : Type} (t : Tab α) (k : Nat) : tget (tdel t k) k = none := by
  induction t with
  | nil => rfl
  | cons c t ih =>
    obtain ⟨i, u⟩ := c
    simp only [tdel]
    split
    · exact ih
    · simp [tget, *]

theorem tget_tdel_ne {α : Type} (t : Tab α) {k j : Nat} (h : j ≠ k) : tget (tdel t k) j = tget t j := by
  induction t with
  | nil => rfl
  | cons c t ih =>
    obtain ⟨i, u⟩ := c
    simp only [tdel]
    split
    · next h2 => subst h2; simp [tget, Ne.symm h, ih]
    · simp [tget, ih]

@[simp] theorem tgetD_tput_self {α : Type} (t : Tab α) (k : Nat) (v d : α) : tgetD (tput t k v) k d = v := by
  simp [tgetD, tget_tput_self]

theorem tgetD_tput_ne {α : Type} (t : Tab α) {k j : Nat} (v d : α) (h : j ≠ k) : tgetD (tput t k v) j d = tgetD t j d := by
  simp [tgetD, tget_tput_ne t v h]

@[simp] theorem tgetD_tputD_self {α : Type} [DecidableEq α] (t : Tab α) (k : Nat) (v d : α) : tgetD (tputD t k v d) k d = v := by
  unfold tputD
  split
  · next h => simp [tgetD, tget_tdel_self, h]
  · simp

theorem tgetD_tputD_ne {α : Type} [DecidableEq α] (t : Tab α) {k j : Nat} (v d e : α) (h : j ≠ k) :
    tgetD (tputD t k v d) j e = tgetD t j e := by
  unfold tputD
  split
  · simp [tgetD, tget_tdel_ne t h]
  · exact tgetD_tput_ne t v e h

/-! ## Memories -/

@[simp] theorem Memory.read_write_self (m : List Host.Cell) (a : Nat) (b : Byte) : Memory.read (Memory.write m a b) a = b :=
  tgetD_tputD_self m a b 0

theorem Memory.read_write_ne (m : List Host.Cell) {a c : Nat} (b : Byte) (h : c ≠ a) :
    Memory.read (Memory.write m a b) c = Memory.read m c := tgetD_tputD_ne m b 0 0 h

theorem Memory.read_writeN_out (m : List Host.Cell) (a n v c : Nat) (h : c < a ∨ a + n ≤ c) :
    Memory.read (Memory.writeN m a n v) c = Memory.read m c := by
  induction n generalizing m a v with
  | zero => rfl
  | succ n ih => rw [Memory.writeN, ih _ _ _ (by omega), Memory.read_write_ne _ _ (by omega)]

theorem Memory.read_writeN_in (m : List Host.Cell) (a n v i : Nat) (h : i < n) :
    Memory.read (Memory.writeN m a n v) (a + i) = BitVec.ofNat 8 (v / 256 ^ i) := by
  induction n generalizing m a v i with
  | zero => omega
  | succ n ih =>
    rw [Memory.writeN]
    cases i with
    | zero => rw [Memory.read_writeN_out _ _ _ _ _ (by omega)]; simp
    | succ i =>
      rw [show a + (i + 1) = a + 1 + i by omega, ih _ _ _ i (by omega), Nat.div_div_eq_div_mul]
      congr 2; rw [Nat.pow_succ]; ring

theorem mem_tput_key {t : List Host.Cell} {k : Nat} {v : Byte} {c : Host.Cell} (h : c ∈ tput t k v) : c = (k, v) ∨ c ∈ t := by
  induction t with
  | nil => simpa [tput] using h
  | cons d t ih =>
    obtain ⟨i, u⟩ := d
    simp only [tput] at h
    split at h
    · simpa using h
    · split at h
      · simp only [List.mem_cons] at h ⊢; tauto
      · simp only [List.mem_cons] at h ⊢
        rcases h with h | h
        · tauto
        · rcases ih h with h | h <;> tauto

theorem mem_tdel {t : List Host.Cell} {k : Nat} {c : Host.Cell} (h : c ∈ tdel t k) : c ∈ t := by
  induction t with
  | nil => simp [tdel] at h
  | cons d t ih =>
    obtain ⟨i, u⟩ := d
    simp only [tdel] at h
    split at h
    · exact List.mem_cons_of_mem _ (ih h)
    · rcases List.mem_cons.1 h with h | h
      · simp [h]
      · exact List.mem_cons_of_mem _ (ih h)

theorem tput_wf {t : List Host.Cell} (h : Memory.wf t) (k : Nat) {v : Byte} (hv : v ≠ 0) : Memory.wf (tput t k v) := by
  induction t with
  | nil => simpa [tput, Memory.wf] using hv
  | cons d t ih =>
    obtain ⟨i, u⟩ := d
    obtain ⟨hp, hz⟩ := h
    rw [List.pairwise_cons] at hp
    have hz' : ∀ c ∈ t, c.2 ≠ 0 := fun c hc => hz c (List.mem_cons_of_mem _ hc)
    have hu : u ≠ 0 := hz (i, u) (by simp)
    obtain ⟨ih1, ih2⟩ := ih ⟨hp.2, hz'⟩
    simp only [tput]
    split
    · next hk =>
      refine ⟨?_, ?_⟩
      · rw [List.pairwise_cons, List.pairwise_cons]
        refine ⟨?_, hp.1, hp.2⟩
        intro c hc
        rcases List.mem_cons.1 hc with hc | hc
        · subst hc; exact hk
        · exact Nat.lt_trans hk (hp.1 c hc)
      · intro c hc
        rcases List.mem_cons.1 hc with hc | hc
        · subst hc; exact hv
        · exact hz c hc
    · split
      · next hk =>
        subst hk
        refine ⟨List.pairwise_cons.2 ⟨hp.1, hp.2⟩, ?_⟩
        intro c hc
        rcases List.mem_cons.1 hc with hc | hc
        · subst hc; exact hv
        · exact hz' c hc
      · next h1 h2 =>
        refine ⟨List.pairwise_cons.2 ⟨?_, ih1⟩, ?_⟩
        · intro c hc
          rcases mem_tput_key hc with hc | hc
          · subst hc; show i < k; omega
          · exact hp.1 c hc
        · intro c hc
          rcases List.mem_cons.1 hc with hc | hc
          · subst hc; exact hu
          · exact ih2 c hc

theorem tdel_wf {t : List Host.Cell} (h : Memory.wf t) (k : Nat) : Memory.wf (tdel t k) := by
  refine ⟨?_, fun c hc => h.2 c (mem_tdel hc)⟩
  have hp := h.1
  clear h
  induction t with
  | nil => simp [tdel]
  | cons d t ih =>
    obtain ⟨i, u⟩ := d
    rw [List.pairwise_cons] at hp
    simp only [tdel]
    split
    · exact ih hp.2
    · exact List.pairwise_cons.2 ⟨fun c hc => hp.1 c (mem_tdel hc), ih hp.2⟩

theorem Memory.write_wf {m : List Host.Cell} (h : Memory.wf m) (a : Nat) (b : Byte) : Memory.wf (Memory.write m a b) := by
  unfold Memory.write tputD
  split
  · exact tdel_wf h a
  · next hb => exact tput_wf h a hb

theorem Memory.writeN_wf {m : List Host.Cell} (h : Memory.wf m) (a n v : Nat) : Memory.wf (Memory.writeN m a n v) := by
  induction n generalizing m a v with
  | zero => exact h
  | succ n ih => exact ih (Memory.write_wf h a _) _ _

theorem Memory.filter_wf {m : List Host.Cell} (h : Memory.wf m) (f : Host.Cell → Bool) : Memory.wf (m.filter f) :=
  ⟨h.1.filter _, fun c hc => h.2 c (List.mem_of_mem_filter hc)⟩

theorem Memory.clear_wf {m : List Host.Cell} (h : Memory.wf m) (a len : Nat) : Memory.wf (Memory.clear m a len) :=
  Memory.filter_wf h _

theorem Memory.slice_wf {m : List Host.Cell} (h : Memory.wf m) (a len : Nat) : Memory.wf (Memory.slice m a len) := by
  have hf := Memory.filter_wf h fun c => a ≤ c.1 && c.1 < a + len
  refine ⟨?_, ?_⟩
  · rw [Memory.slice, List.pairwise_map]
    refine hf.1.imp_of_mem ?_
    intro c d hc hd hcd
    have h1 : a ≤ c.1 := by have := (List.mem_filter.1 hc).2; simp at this; exact this.1
    have h2 : a ≤ d.1 := by have := (List.mem_filter.1 hd).2; simp at this; exact this.1
    show c.1 - a < d.1 - a
    omega
  · intro c hc
    rw [Memory.slice, List.mem_map] at hc
    obtain ⟨d, hd, rfl⟩ := hc
    exact hf.2 d hd

theorem Memory.blit_wf {m cs : List Host.Cell} (h : Memory.wf m) (hc : Memory.wf cs) (a len : Nat) : Memory.wf (Memory.blit m a len cs) := by
  have h1 := Memory.filter_wf h fun c => c.1 < a
  have h2 := Memory.filter_wf hc fun c => c.1 < len
  have h3 := Memory.filter_wf h fun c => a + len ≤ c.1
  refine ⟨?_, ?_⟩
  · rw [Memory.blit, List.pairwise_append, List.pairwise_append]
    refine ⟨⟨h1.1, ?_, ?_⟩, h3.1, ?_⟩
    · rw [List.pairwise_map]
      exact h2.1.imp fun {c d} hcd => Nat.add_lt_add_left hcd a
    · intro c hc d hd
      obtain ⟨e, -, rfl⟩ := List.mem_map.1 hd
      have := (List.mem_filter.1 hc).2
      simp at this
      show c.1 < a + e.1
      omega
    · intro c hc d hd
      have hd' := (List.mem_filter.1 hd).2
      simp at hd'
      rcases List.mem_append.1 hc with hc | hc
      · have := (List.mem_filter.1 hc).2
        simp at this
        omega
      · obtain ⟨e, he, rfl⟩ := List.mem_map.1 hc
        have := (List.mem_filter.1 he).2
        simp at this
        show a + e.1 < d.1
        omega
  · intro c hc
    rw [Memory.blit] at hc
    rcases List.mem_append.1 hc with hc | hc
    · rcases List.mem_append.1 hc with hc | hc
      · exact h1.2 c hc
      · obtain ⟨e, he, rfl⟩ := List.mem_map.1 hc
        exact h2.2 e he
    · exact h3.2 c hc

end Sys2Proof.Machine
end

