-- ==== Sys2Proof/Laws/State.lean ====
section
/-! SUPPORT. What each update of State leaves alone, one lemma per field, and reads after updates of the parts of the state. -/
namespace Sys2Proof.Machine

/-! ## State.setMdw -/

@[simp] theorem State.setMdw_gtc (s : State) (c : Nat) (m : Meadow) : (s.setMdw c m).gtc = s.gtc := rfl
@[simp] theorem State.setMdw_gtcRunning (s : State) (c : Nat) (m : Meadow) : (s.setMdw c m).gtcRunning = s.gtcRunning := rfl
@[simp] theorem State.setMdw_edge (s : State) (c : Nat) (m : Meadow) : (s.setMdw c m).edge = s.edge := rfl
@[simp] theorem State.setMdw_bootStep (s : State) (c : Nat) (m : Meadow) : (s.setMdw c m).bootStep = s.bootStep := rfl
@[simp] theorem State.setMdw_bootAt (s : State) (c : Nat) (m : Meadow) : (s.setMdw c m).bootAt = s.bootAt := rfl
@[simp] theorem State.setMdw_enabled (s : State) (c : Nat) (m : Meadow) : (s.setMdw c m).enabled = s.enabled := rfl
@[simp] theorem State.setMdw_customerPart (s : State) (c : Nat) (m : Meadow) : (s.setMdw c m).customerPart = s.customerPart := rfl
@[simp] theorem State.setMdw_engines (s : State) (c : Nat) (m : Meadow) : (s.setMdw c m).engines = s.engines := rfl
@[simp] theorem State.setMdw_answers (s : State) (c : Nat) (m : Meadow) : (s.setMdw c m).answers = s.answers := rfl
@[simp] theorem State.setMdw_mem (s : State) (c : Nat) (m : Meadow) : (s.setMdw c m).mem = s.mem := rfl
@[simp] theorem State.setMdw_poisoned (s : State) (c : Nat) (m : Meadow) : (s.setMdw c m).poisoned = s.poisoned := rfl
@[simp] theorem State.setMdw_dramErr (s : State) (c : Nat) (m : Meadow) : (s.setMdw c m).dramErr = s.dramErr := rfl
@[simp] theorem State.setMdw_lineKey (s : State) (c : Nat) (m : Meadow) : (s.setMdw c m).lineKey = s.lineKey := rfl
@[simp] theorem State.setMdw_host (s : State) (c : Nat) (m : Meadow) : (s.setMdw c m).host = s.host := rfl
@[simp] theorem State.setMdw_keys (s : State) (c : Nat) (m : Meadow) : (s.setMdw c m).keys = s.keys := rfl
@[simp] theorem State.setMdw_oldKeys (s : State) (c : Nat) (m : Meadow) : (s.setMdw c m).oldKeys = s.oldKeys := rfl
@[simp] theorem State.setMdw_wrapErased (s : State) (c : Nat) (m : Meadow) : (s.setMdw c m).wrapErased = s.wrapErased := rfl
@[simp] theorem State.setMdw_hcps (s : State) (c : Nat) (m : Meadow) : (s.setMdw c m).hcps = s.hcps := rfl
@[simp] theorem State.setMdw_hcmds (s : State) (c : Nat) (m : Meadow) : (s.setMdw c m).hcmds = s.hcmds := rfl
@[simp] theorem State.setMdw_landings (s : State) (c : Nat) (m : Meadow) : (s.setMdw c m).landings = s.landings := rfl
@[simp] theorem State.setMdw_arbiters (s : State) (c : Nat) (m : Meadow) : (s.setMdw c m).arbiters = s.arbiters := rfl
@[simp] theorem State.setMdw_nrctl (s : State) (c : Nat) (m : Meadow) : (s.setMdw c m).nrctl = s.nrctl := rfl
@[simp] theorem State.setMdw_nrseed (s : State) (c : Nat) (m : Meadow) : (s.setMdw c m).nrseed = s.nrseed := rfl
@[simp] theorem State.setMdw_logs (s : State) (c : Nat) (m : Meadow) : (s.setMdw c m).logs = s.logs := rfl
@[simp] theorem State.setMdw_lq (s : State) (c : Nat) (m : Meadow) : (s.setMdw c m).lq = s.lq := rfl
@[simp] theorem State.setMdw_launches (s : State) (c : Nat) (m : Meadow) : (s.setMdw c m).launches = s.launches := rfl
@[simp] theorem State.setMdw_claims (s : State) (c : Nat) (m : Meadow) : (s.setMdw c m).claims = s.claims := rfl
@[simp] theorem State.setMdw_regions (s : State) (c : Nat) (m : Meadow) : (s.setMdw c m).regions = s.regions := rfl
@[simp] theorem State.setMdw_nodes (s : State) (c : Nat) (m : Meadow) : (s.setMdw c m).nodes = s.nodes := rfl
@[simp] theorem State.setMdw_stopped (s : State) (c : Nat) (m : Meadow) : (s.setMdw c m).stopped = s.stopped := rfl
@[simp] theorem State.setMdw_gens (s : State) (c : Nat) (m : Meadow) : (s.setMdw c m).gens = s.gens := rfl
@[simp] theorem State.setMdw_saved (s : State) (c : Nat) (m : Meadow) : (s.setMdw c m).saved = s.saved := rfl
@[simp] theorem State.setMdw_pwrlim (s : State) (c : Nat) (m : Meadow) : (s.setMdw c m).pwrlim = s.pwrlim := rfl
@[simp] theorem State.setMdw_brlim (s : State) (c : Nat) (m : Meadow) : (s.setMdw c m).brlim = s.brlim := rfl
@[simp] theorem State.setMdw_thresh (s : State) (c : Nat) (m : Meadow) : (s.setMdw c m).thresh = s.thresh := rfl
@[simp] theorem State.setMdw_below (s : State) (c : Nat) (m : Meadow) : (s.setMdw c m).below = s.below := rfl
@[simp] theorem State.setMdw_mcirq (s : State) (c : Nat) (m : Meadow) : (s.setMdw c m).mcirq = s.mcirq := rfl
@[simp] theorem State.setMdw_mcirqSet (s : State) (c : Nat) (m : Meadow) : (s.setMdw c m).mcirqSet = s.mcirqSet := rfl
@[simp] theorem State.setMdw_bootcfg (s : State) (c : Nat) (m : Meadow) : (s.setMdw c m).bootcfg = s.bootcfg := rfl
@[simp] theorem State.setMdw_apbase (s : State) (c : Nat) (m : Meadow) : (s.setMdw c m).apbase = s.apbase := rfl
@[simp] theorem State.setMdw_apkey (s : State) (c : Nat) (m : Meadow) : (s.setMdw c m).apkey = s.apkey := rfl
@[simp] theorem State.setMdw_prq (s : State) (c : Nat) (m : Meadow) : (s.setMdw c m).prq = s.prq := rfl
@[simp] theorem State.setMdw_hrq (s : State) (c : Nat) (m : Meadow) : (s.setMdw c m).hrq = s.hrq := rfl
@[simp] theorem State.setMdw_hrqdb (s : State) (c : Nat) (m : Meadow) : (s.setMdw c m).hrqdb = s.hrqdb := rfl
@[simp] theorem State.setMdw_prqHeld (s : State) (c : Nat) (m : Meadow) : (s.setMdw c m).prqHeld = s.prqHeld := rfl
@[simp] theorem State.setMdw_pageReqs (s : State) (c : Nat) (m : Meadow) : (s.setMdw c m).pageReqs = s.pageReqs := rfl
@[simp] theorem State.setMdw_reclaims (s : State) (c : Nat) (m : Meadow) : (s.setMdw c m).reclaims = s.reclaims := rfl
@[simp] theorem State.setMdw_seqNo (s : State) (c : Nat) (m : Meadow) : (s.setMdw c m).seqNo = s.seqNo := rfl
@[simp] theorem State.setMdw_level (s : State) (c : Nat) (m : Meadow) : (s.setMdw c m).level = s.level := rfl
@[simp] theorem State.setMdw_alarmSrc (s : State) (c : Nat) (m : Meadow) : (s.setMdw c m).alarmSrc = s.alarmSrc := rfl
@[simp] theorem State.setMdw_wepoch (s : State) (c : Nat) (m : Meadow) : (s.setMdw c m).wepoch = s.wepoch := rfl
@[simp] theorem State.setMdw_seccfg (s : State) (c : Nat) (m : Meadow) : (s.setMdw c m).seccfg = s.seccfg := rfl
@[simp] theorem State.setMdw_eraseAt (s : State) (c : Nat) (m : Meadow) : (s.setMdw c m).eraseAt = s.eraseAt := rfl
@[simp] theorem State.setMdw_alarmAt (s : State) (c : Nat) (m : Meadow) : (s.setMdw c m).alarmAt = s.alarmAt := rfl
@[simp] theorem State.setMdw_removed (s : State) (c : Nat) (m : Meadow) : (s.setMdw c m).removed = s.removed := rfl
@[simp] theorem State.setMdw_elogsel (s : State) (c : Nat) (m : Meadow) : (s.setMdw c m).elogsel = s.elogsel := rfl
@[simp] theorem State.setMdw_fvxaddr (s : State) (c : Nat) (m : Meadow) : (s.setMdw c m).fvxaddr = s.fvxaddr := rfl
@[simp] theorem State.setMdw_fvxsync (s : State) (c : Nat) (m : Meadow) : (s.setMdw c m).fvxsync = s.fvxsync := rfl
@[simp] theorem State.setMdw_portFailed (s : State) (c : Nat) (m : Meadow) : (s.setMdw c m).portFailed = s.portFailed := rfl
@[simp] theorem State.setMdw_tcm (s : State) (c : Nat) (m : Meadow) : (s.setMdw c m).tcm = s.tcm := rfl
@[simp] theorem State.setMdw_hart (s : State) (c : Nat) (m : Meadow) : (s.setMdw c m).hart = s.hart := rfl
@[simp] theorem State.setMdw_gen (s : State) (c : Nat) (m : Meadow) : (s.setMdw c m).gen = s.gen := rfl
@[simp] theorem State.setMdw_identity (s : State) (c : Nat) (m : Meadow) : (s.setMdw c m).identity = s.identity := rfl
@[simp] theorem State.setMdw_leaf (s : State) (c : Nat) (m : Meadow) : (s.setMdw c m).leaf = s.leaf := rfl
@[simp] theorem State.setMdw_debugOpen (s : State) (c : Nat) (m : Meadow) : (s.setMdw c m).debugOpen = s.debugOpen := rfl
@[simp] theorem State.setMdw_firmware (s : State) (c : Nat) (m : Meadow) : (s.setMdw c m).firmware = s.firmware := rfl
@[simp] theorem State.setMdw_bootLeaf (s : State) (c : Nat) (m : Meadow) : (s.setMdw c m).bootLeaf = s.bootLeaf := rfl
@[simp] theorem State.setMdw_msix (s : State) (c : Nat) (m : Meadow) : (s.setMdw c m).msix = s.msix := rfl
@[simp] theorem State.setMdw_report (s : State) (c : Nat) (m : Meadow) : (s.setMdw c m).report = s.report := rfl
@[simp] theorem State.setMdw_hostCpl (s : State) (c : Nat) (m : Meadow) : (s.setMdw c m).hostCpl = s.hostCpl := rfl
@[simp] theorem State.setMdw_power (s : State) (c : Nat) (m : Meadow) : (s.setMdw c m).power = s.power := rfl
@[simp] theorem State.setMdw_cur (s : State) (c : Nat) (m : Meadow) : (s.setMdw c m).cur = s.cur := rfl
@[simp] theorem State.setMdw_agenda (s : State) (c : Nat) (m : Meadow) : (s.setMdw c m).agenda = s.agenda := rfl
@[simp] theorem State.setMdw_phase (s : State) (c : Nat) (m : Meadow) : (s.setMdw c m).phase = s.phase := rfl
@[simp] theorem State.setMdw_ticks (s : State) (c : Nat) (m : Meadow) : (s.setMdw c m).ticks = s.ticks := rfl
@[simp] theorem State.setMdw_inputs (s : State) (c : Nat) (m : Meadow) : (s.setMdw c m).inputs = s.inputs := rfl
@[simp] theorem State.setMdw_fresh (s : State) (c : Nat) (m : Meadow) : (s.setMdw c m).fresh = s.fresh := rfl
@[simp] theorem State.setMdw_seq (s : State) (c : Nat) (m : Meadow) : (s.setMdw c m).seq = s.seq := rfl

/-! ## State.modMdw -/

@[simp] theorem State.modMdw_gtc (s : State) (c : Nat) (f : Meadow → Meadow) : (s.modMdw c f).gtc = s.gtc := rfl
@[simp] theorem State.modMdw_gtcRunning (s : State) (c : Nat) (f : Meadow → Meadow) : (s.modMdw c f).gtcRunning = s.gtcRunning := rfl
@[simp] theorem State.modMdw_edge (s : State) (c : Nat) (f : Meadow → Meadow) : (s.modMdw c f).edge = s.edge := rfl
@[simp] theorem State.modMdw_bootStep (s : State) (c : Nat) (f : Meadow → Meadow) : (s.modMdw c f).bootStep = s.bootStep := rfl
@[simp] theorem State.modMdw_bootAt (s : State) (c : Nat) (f : Meadow → Meadow) : (s.modMdw c f).bootAt = s.bootAt := rfl
@[simp] theorem State.modMdw_enabled (s : State) (c : Nat) (f : Meadow → Meadow) : (s.modMdw c f).enabled = s.enabled := rfl
@[simp] theorem State.modMdw_customerPart (s : State) (c : Nat) (f : Meadow → Meadow) : (s.modMdw c f).customerPart = s.customerPart := rfl
@[simp] theorem State.modMdw_engines (s : State) (c : Nat) (f : Meadow → Meadow) : (s.modMdw c f).engines = s.engines := rfl
@[simp] theorem State.modMdw_answers (s : State) (c : Nat) (f : Meadow → Meadow) : (s.modMdw c f).answers = s.answers := rfl
@[simp] theorem State.modMdw_mem (s : State) (c : Nat) (f : Meadow → Meadow) : (s.modMdw c f).mem = s.mem := rfl
@[simp] theorem State.modMdw_poisoned (s : State) (c : Nat) (f : Meadow → Meadow) : (s.modMdw c f).poisoned = s.poisoned := rfl
@[simp] theorem State.modMdw_dramErr (s : State) (c : Nat) (f : Meadow → Meadow) : (s.modMdw c f).dramErr = s.dramErr := rfl
@[simp] theorem State.modMdw_lineKey (s : State) (c : Nat) (f : Meadow → Meadow) : (s.modMdw c f).lineKey = s.lineKey := rfl
@[simp] theorem State.modMdw_host (s : State) (c : Nat) (f : Meadow → Meadow) : (s.modMdw c f).host = s.host := rfl
@[simp] theorem State.modMdw_keys (s : State) (c : Nat) (f : Meadow → Meadow) : (s.modMdw c f).keys = s.keys := rfl
@[simp] theorem State.modMdw_oldKeys (s : State) (c : Nat) (f : Meadow → Meadow) : (s.modMdw c f).oldKeys = s.oldKeys := rfl
@[simp] theorem State.modMdw_wrapErased (s : State) (c : Nat) (f : Meadow → Meadow) : (s.modMdw c f).wrapErased = s.wrapErased := rfl
@[simp] theorem State.modMdw_hcps (s : State) (c : Nat) (f : Meadow → Meadow) : (s.modMdw c f).hcps = s.hcps := rfl
@[simp] theorem State.modMdw_hcmds (s : State) (c : Nat) (f : Meadow → Meadow) : (s.modMdw c f).hcmds = s.hcmds := rfl
@[simp] theorem State.modMdw_landings (s : State) (c : Nat) (f : Meadow → Meadow) : (s.modMdw c f).landings = s.landings := rfl
@[simp] theorem State.modMdw_arbiters (s : State) (c : Nat) (f : Meadow → Meadow) : (s.modMdw c f).arbiters = s.arbiters := rfl
@[simp] theorem State.modMdw_nrctl (s : State) (c : Nat) (f : Meadow → Meadow) : (s.modMdw c f).nrctl = s.nrctl := rfl
@[simp] theorem State.modMdw_nrseed (s : State) (c : Nat) (f : Meadow → Meadow) : (s.modMdw c f).nrseed = s.nrseed := rfl
@[simp] theorem State.modMdw_logs (s : State) (c : Nat) (f : Meadow → Meadow) : (s.modMdw c f).logs = s.logs := rfl
@[simp] theorem State.modMdw_lq (s : State) (c : Nat) (f : Meadow → Meadow) : (s.modMdw c f).lq = s.lq := rfl
@[simp] theorem State.modMdw_launches (s : State) (c : Nat) (f : Meadow → Meadow) : (s.modMdw c f).launches = s.launches := rfl
@[simp] theorem State.modMdw_claims (s : State) (c : Nat) (f : Meadow → Meadow) : (s.modMdw c f).claims = s.claims := rfl
@[simp] theorem State.modMdw_regions (s : State) (c : Nat) (f : Meadow → Meadow) : (s.modMdw c f).regions = s.regions := rfl
@[simp] theorem State.modMdw_nodes (s : State) (c : Nat) (f : Meadow → Meadow) : (s.modMdw c f).nodes = s.nodes := rfl
@[simp] theorem State.modMdw_stopped (s : State) (c : Nat) (f : Meadow → Meadow) : (s.modMdw c f).stopped = s.stopped := rfl
@[simp] theorem State.modMdw_gens (s : State) (c : Nat) (f : Meadow → Meadow) : (s.modMdw c f).gens = s.gens := rfl
@[simp] theorem State.modMdw_saved (s : State) (c : Nat) (f : Meadow → Meadow) : (s.modMdw c f).saved = s.saved := rfl
@[simp] theorem State.modMdw_pwrlim (s : State) (c : Nat) (f : Meadow → Meadow) : (s.modMdw c f).pwrlim = s.pwrlim := rfl
@[simp] theorem State.modMdw_brlim (s : State) (c : Nat) (f : Meadow → Meadow) : (s.modMdw c f).brlim = s.brlim := rfl
@[simp] theorem State.modMdw_thresh (s : State) (c : Nat) (f : Meadow → Meadow) : (s.modMdw c f).thresh = s.thresh := rfl
@[simp] theorem State.modMdw_below (s : State) (c : Nat) (f : Meadow → Meadow) : (s.modMdw c f).below = s.below := rfl
@[simp] theorem State.modMdw_mcirq (s : State) (c : Nat) (f : Meadow → Meadow) : (s.modMdw c f).mcirq = s.mcirq := rfl
@[simp] theorem State.modMdw_mcirqSet (s : State) (c : Nat) (f : Meadow → Meadow) : (s.modMdw c f).mcirqSet = s.mcirqSet := rfl
@[simp] theorem State.modMdw_bootcfg (s : State) (c : Nat) (f : Meadow → Meadow) : (s.modMdw c f).bootcfg = s.bootcfg := rfl
@[simp] theorem State.modMdw_apbase (s : State) (c : Nat) (f : Meadow → Meadow) : (s.modMdw c f).apbase = s.apbase := rfl
@[simp] theorem State.modMdw_apkey (s : State) (c : Nat) (f : Meadow → Meadow) : (s.modMdw c f).apkey = s.apkey := rfl
@[simp] theorem State.modMdw_prq (s : State) (c : Nat) (f : Meadow → Meadow) : (s.modMdw c f).prq = s.prq := rfl
@[simp] theorem State.modMdw_hrq (s : State) (c : Nat) (f : Meadow → Meadow) : (s.modMdw c f).hrq = s.hrq := rfl
@[simp] theorem State.modMdw_hrqdb (s : State) (c : Nat) (f : Meadow → Meadow) : (s.modMdw c f).hrqdb = s.hrqdb := rfl
@[simp] theorem State.modMdw_prqHeld (s : State) (c : Nat) (f : Meadow → Meadow) : (s.modMdw c f).prqHeld = s.prqHeld := rfl
@[simp] theorem State.modMdw_pageReqs (s : State) (c : Nat) (f : Meadow → Meadow) : (s.modMdw c f).pageReqs = s.pageReqs := rfl
@[simp] theorem State.modMdw_reclaims (s : State) (c : Nat) (f : Meadow → Meadow) : (s.modMdw c f).reclaims = s.reclaims := rfl
@[simp] theorem State.modMdw_seqNo (s : State) (c : Nat) (f : Meadow → Meadow) : (s.modMdw c f).seqNo = s.seqNo := rfl
@[simp] theorem State.modMdw_level (s : State) (c : Nat) (f : Meadow → Meadow) : (s.modMdw c f).level = s.level := rfl
@[simp] theorem State.modMdw_alarmSrc (s : State) (c : Nat) (f : Meadow → Meadow) : (s.modMdw c f).alarmSrc = s.alarmSrc := rfl
@[simp] theorem State.modMdw_wepoch (s : State) (c : Nat) (f : Meadow → Meadow) : (s.modMdw c f).wepoch = s.wepoch := rfl
@[simp] theorem State.modMdw_seccfg (s : State) (c : Nat) (f : Meadow → Meadow) : (s.modMdw c f).seccfg = s.seccfg := rfl
@[simp] theorem State.modMdw_eraseAt (s : State) (c : Nat) (f : Meadow → Meadow) : (s.modMdw c f).eraseAt = s.eraseAt := rfl
@[simp] theorem State.modMdw_alarmAt (s : State) (c : Nat) (f : Meadow → Meadow) : (s.modMdw c f).alarmAt = s.alarmAt := rfl
@[simp] theorem State.modMdw_removed (s : State) (c : Nat) (f : Meadow → Meadow) : (s.modMdw c f).removed = s.removed := rfl
@[simp] theorem State.modMdw_elogsel (s : State) (c : Nat) (f : Meadow → Meadow) : (s.modMdw c f).elogsel = s.elogsel := rfl
@[simp] theorem State.modMdw_fvxaddr (s : State) (c : Nat) (f : Meadow → Meadow) : (s.modMdw c f).fvxaddr = s.fvxaddr := rfl
@[simp] theorem State.modMdw_fvxsync (s : State) (c : Nat) (f : Meadow → Meadow) : (s.modMdw c f).fvxsync = s.fvxsync := rfl
@[simp] theorem State.modMdw_portFailed (s : State) (c : Nat) (f : Meadow → Meadow) : (s.modMdw c f).portFailed = s.portFailed := rfl
@[simp] theorem State.modMdw_tcm (s : State) (c : Nat) (f : Meadow → Meadow) : (s.modMdw c f).tcm = s.tcm := rfl
@[simp] theorem State.modMdw_hart (s : State) (c : Nat) (f : Meadow → Meadow) : (s.modMdw c f).hart = s.hart := rfl
@[simp] theorem State.modMdw_gen (s : State) (c : Nat) (f : Meadow → Meadow) : (s.modMdw c f).gen = s.gen := rfl
@[simp] theorem State.modMdw_identity (s : State) (c : Nat) (f : Meadow → Meadow) : (s.modMdw c f).identity = s.identity := rfl
@[simp] theorem State.modMdw_leaf (s : State) (c : Nat) (f : Meadow → Meadow) : (s.modMdw c f).leaf = s.leaf := rfl
@[simp] theorem State.modMdw_debugOpen (s : State) (c : Nat) (f : Meadow → Meadow) : (s.modMdw c f).debugOpen = s.debugOpen := rfl
@[simp] theorem State.modMdw_firmware (s : State) (c : Nat) (f : Meadow → Meadow) : (s.modMdw c f).firmware = s.firmware := rfl
@[simp] theorem State.modMdw_bootLeaf (s : State) (c : Nat) (f : Meadow → Meadow) : (s.modMdw c f).bootLeaf = s.bootLeaf := rfl
@[simp] theorem State.modMdw_msix (s : State) (c : Nat) (f : Meadow → Meadow) : (s.modMdw c f).msix = s.msix := rfl
@[simp] theorem State.modMdw_report (s : State) (c : Nat) (f : Meadow → Meadow) : (s.modMdw c f).report = s.report := rfl
@[simp] theorem State.modMdw_hostCpl (s : State) (c : Nat) (f : Meadow → Meadow) : (s.modMdw c f).hostCpl = s.hostCpl := rfl
@[simp] theorem State.modMdw_power (s : State) (c : Nat) (f : Meadow → Meadow) : (s.modMdw c f).power = s.power := rfl
@[simp] theorem State.modMdw_cur (s : State) (c : Nat) (f : Meadow → Meadow) : (s.modMdw c f).cur = s.cur := rfl
@[simp] theorem State.modMdw_agenda (s : State) (c : Nat) (f : Meadow → Meadow) : (s.modMdw c f).agenda = s.agenda := rfl
@[simp] theorem State.modMdw_phase (s : State) (c : Nat) (f : Meadow → Meadow) : (s.modMdw c f).phase = s.phase := rfl
@[simp] theorem State.modMdw_ticks (s : State) (c : Nat) (f : Meadow → Meadow) : (s.modMdw c f).ticks = s.ticks := rfl
@[simp] theorem State.modMdw_inputs (s : State) (c : Nat) (f : Meadow → Meadow) : (s.modMdw c f).inputs = s.inputs := rfl
@[simp] theorem State.modMdw_fresh (s : State) (c : Nat) (f : Meadow → Meadow) : (s.modMdw c f).fresh = s.fresh := rfl
@[simp] theorem State.modMdw_seq (s : State) (c : Nat) (f : Meadow → Meadow) : (s.modMdw c f).seq = s.seq := rfl

/-! ## State.modCtx -/

@[simp] theorem State.modCtx_gtc (s : State) (c x : Nat) (f : Ctx → Ctx) : (s.modCtx c x f).gtc = s.gtc := rfl
@[simp] theorem State.modCtx_gtcRunning (s : State) (c x : Nat) (f : Ctx → Ctx) : (s.modCtx c x f).gtcRunning = s.gtcRunning := rfl
@[simp] theorem State.modCtx_edge (s : State) (c x : Nat) (f : Ctx → Ctx) : (s.modCtx c x f).edge = s.edge := rfl
@[simp] theorem State.modCtx_bootStep (s : State) (c x : Nat) (f : Ctx → Ctx) : (s.modCtx c x f).bootStep = s.bootStep := rfl
@[simp] theorem State.modCtx_bootAt (s : State) (c x : Nat) (f : Ctx → Ctx) : (s.modCtx c x f).bootAt = s.bootAt := rfl
@[simp] theorem State.modCtx_enabled (s : State) (c x : Nat) (f : Ctx → Ctx) : (s.modCtx c x f).enabled = s.enabled := rfl
@[simp] theorem State.modCtx_customerPart (s : State) (c x : Nat) (f : Ctx → Ctx) : (s.modCtx c x f).customerPart = s.customerPart := rfl
@[simp] theorem State.modCtx_engines (s : State) (c x : Nat) (f : Ctx → Ctx) : (s.modCtx c x f).engines = s.engines := rfl
@[simp] theorem State.modCtx_answers (s : State) (c x : Nat) (f : Ctx → Ctx) : (s.modCtx c x f).answers = s.answers := rfl
@[simp] theorem State.modCtx_mem (s : State) (c x : Nat) (f : Ctx → Ctx) : (s.modCtx c x f).mem = s.mem := rfl
@[simp] theorem State.modCtx_poisoned (s : State) (c x : Nat) (f : Ctx → Ctx) : (s.modCtx c x f).poisoned = s.poisoned := rfl
@[simp] theorem State.modCtx_dramErr (s : State) (c x : Nat) (f : Ctx → Ctx) : (s.modCtx c x f).dramErr = s.dramErr := rfl
@[simp] theorem State.modCtx_lineKey (s : State) (c x : Nat) (f : Ctx → Ctx) : (s.modCtx c x f).lineKey = s.lineKey := rfl
@[simp] theorem State.modCtx_host (s : State) (c x : Nat) (f : Ctx → Ctx) : (s.modCtx c x f).host = s.host := rfl
@[simp] theorem State.modCtx_keys (s : State) (c x : Nat) (f : Ctx → Ctx) : (s.modCtx c x f).keys = s.keys := rfl
@[simp] theorem State.modCtx_oldKeys (s : State) (c x : Nat) (f : Ctx → Ctx) : (s.modCtx c x f).oldKeys = s.oldKeys := rfl
@[simp] theorem State.modCtx_wrapErased (s : State) (c x : Nat) (f : Ctx → Ctx) : (s.modCtx c x f).wrapErased = s.wrapErased := rfl
@[simp] theorem State.modCtx_hcps (s : State) (c x : Nat) (f : Ctx → Ctx) : (s.modCtx c x f).hcps = s.hcps := rfl
@[simp] theorem State.modCtx_hcmds (s : State) (c x : Nat) (f : Ctx → Ctx) : (s.modCtx c x f).hcmds = s.hcmds := rfl
@[simp] theorem State.modCtx_landings (s : State) (c x : Nat) (f : Ctx → Ctx) : (s.modCtx c x f).landings = s.landings := rfl
@[simp] theorem State.modCtx_arbiters (s : State) (c x : Nat) (f : Ctx → Ctx) : (s.modCtx c x f).arbiters = s.arbiters := rfl
@[simp] theorem State.modCtx_nrctl (s : State) (c x : Nat) (f : Ctx → Ctx) : (s.modCtx c x f).nrctl = s.nrctl := rfl
@[simp] theorem State.modCtx_nrseed (s : State) (c x : Nat) (f : Ctx → Ctx) : (s.modCtx c x f).nrseed = s.nrseed := rfl
@[simp] theorem State.modCtx_logs (s : State) (c x : Nat) (f : Ctx → Ctx) : (s.modCtx c x f).logs = s.logs := rfl
@[simp] theorem State.modCtx_lq (s : State) (c x : Nat) (f : Ctx → Ctx) : (s.modCtx c x f).lq = s.lq := rfl
@[simp] theorem State.modCtx_launches (s : State) (c x : Nat) (f : Ctx → Ctx) : (s.modCtx c x f).launches = s.launches := rfl
@[simp] theorem State.modCtx_claims (s : State) (c x : Nat) (f : Ctx → Ctx) : (s.modCtx c x f).claims = s.claims := rfl
@[simp] theorem State.modCtx_regions (s : State) (c x : Nat) (f : Ctx → Ctx) : (s.modCtx c x f).regions = s.regions := rfl
@[simp] theorem State.modCtx_nodes (s : State) (c x : Nat) (f : Ctx → Ctx) : (s.modCtx c x f).nodes = s.nodes := rfl
@[simp] theorem State.modCtx_stopped (s : State) (c x : Nat) (f : Ctx → Ctx) : (s.modCtx c x f).stopped = s.stopped := rfl
@[simp] theorem State.modCtx_gens (s : State) (c x : Nat) (f : Ctx → Ctx) : (s.modCtx c x f).gens = s.gens := rfl
@[simp] theorem State.modCtx_saved (s : State) (c x : Nat) (f : Ctx → Ctx) : (s.modCtx c x f).saved = s.saved := rfl
@[simp] theorem State.modCtx_pwrlim (s : State) (c x : Nat) (f : Ctx → Ctx) : (s.modCtx c x f).pwrlim = s.pwrlim := rfl
@[simp] theorem State.modCtx_brlim (s : State) (c x : Nat) (f : Ctx → Ctx) : (s.modCtx c x f).brlim = s.brlim := rfl
@[simp] theorem State.modCtx_thresh (s : State) (c x : Nat) (f : Ctx → Ctx) : (s.modCtx c x f).thresh = s.thresh := rfl
@[simp] theorem State.modCtx_below (s : State) (c x : Nat) (f : Ctx → Ctx) : (s.modCtx c x f).below = s.below := rfl
@[simp] theorem State.modCtx_mcirq (s : State) (c x : Nat) (f : Ctx → Ctx) : (s.modCtx c x f).mcirq = s.mcirq := rfl
@[simp] theorem State.modCtx_mcirqSet (s : State) (c x : Nat) (f : Ctx → Ctx) : (s.modCtx c x f).mcirqSet = s.mcirqSet := rfl
@[simp] theorem State.modCtx_bootcfg (s : State) (c x : Nat) (f : Ctx → Ctx) : (s.modCtx c x f).bootcfg = s.bootcfg := rfl
@[simp] theorem State.modCtx_apbase (s : State) (c x : Nat) (f : Ctx → Ctx) : (s.modCtx c x f).apbase = s.apbase := rfl
@[simp] theorem State.modCtx_apkey (s : State) (c x : Nat) (f : Ctx → Ctx) : (s.modCtx c x f).apkey = s.apkey := rfl
@[simp] theorem State.modCtx_prq (s : State) (c x : Nat) (f : Ctx → Ctx) : (s.modCtx c x f).prq = s.prq := rfl
@[simp] theorem State.modCtx_hrq (s : State) (c x : Nat) (f : Ctx → Ctx) : (s.modCtx c x f).hrq = s.hrq := rfl
@[simp] theorem State.modCtx_hrqdb (s : State) (c x : Nat) (f : Ctx → Ctx) : (s.modCtx c x f).hrqdb = s.hrqdb := rfl
@[simp] theorem State.modCtx_prqHeld (s : State) (c x : Nat) (f : Ctx → Ctx) : (s.modCtx c x f).prqHeld = s.prqHeld := rfl
@[simp] theorem State.modCtx_pageReqs (s : State) (c x : Nat) (f : Ctx → Ctx) : (s.modCtx c x f).pageReqs = s.pageReqs := rfl
@[simp] theorem State.modCtx_reclaims (s : State) (c x : Nat) (f : Ctx → Ctx) : (s.modCtx c x f).reclaims = s.reclaims := rfl
@[simp] theorem State.modCtx_seqNo (s : State) (c x : Nat) (f : Ctx → Ctx) : (s.modCtx c x f).seqNo = s.seqNo := rfl
@[simp] theorem State.modCtx_level (s : State) (c x : Nat) (f : Ctx → Ctx) : (s.modCtx c x f).level = s.level := rfl
@[simp] theorem State.modCtx_alarmSrc (s : State) (c x : Nat) (f : Ctx → Ctx) : (s.modCtx c x f).alarmSrc = s.alarmSrc := rfl
@[simp] theorem State.modCtx_wepoch (s : State) (c x : Nat) (f : Ctx → Ctx) : (s.modCtx c x f).wepoch = s.wepoch := rfl
@[simp] theorem State.modCtx_seccfg (s : State) (c x : Nat) (f : Ctx → Ctx) : (s.modCtx c x f).seccfg = s.seccfg := rfl
@[simp] theorem State.modCtx_eraseAt (s : State) (c x : Nat) (f : Ctx → Ctx) : (s.modCtx c x f).eraseAt = s.eraseAt := rfl
@[simp] theorem State.modCtx_alarmAt (s : State) (c x : Nat) (f : Ctx → Ctx) : (s.modCtx c x f).alarmAt = s.alarmAt := rfl
@[simp] theorem State.modCtx_removed (s : State) (c x : Nat) (f : Ctx → Ctx) : (s.modCtx c x f).removed = s.removed := rfl
@[simp] theorem State.modCtx_elogsel (s : State) (c x : Nat) (f : Ctx → Ctx) : (s.modCtx c x f).elogsel = s.elogsel := rfl
@[simp] theorem State.modCtx_fvxaddr (s : State) (c x : Nat) (f : Ctx → Ctx) : (s.modCtx c x f).fvxaddr = s.fvxaddr := rfl
@[simp] theorem State.modCtx_fvxsync (s : State) (c x : Nat) (f : Ctx → Ctx) : (s.modCtx c x f).fvxsync = s.fvxsync := rfl
@[simp] theorem State.modCtx_portFailed (s : State) (c x : Nat) (f : Ctx → Ctx) : (s.modCtx c x f).portFailed = s.portFailed := rfl
@[simp] theorem State.modCtx_tcm (s : State) (c x : Nat) (f : Ctx → Ctx) : (s.modCtx c x f).tcm = s.tcm := rfl
@[simp] theorem State.modCtx_hart (s : State) (c x : Nat) (f : Ctx → Ctx) : (s.modCtx c x f).hart = s.hart := rfl
@[simp] theorem State.modCtx_gen (s : State) (c x : Nat) (f : Ctx → Ctx) : (s.modCtx c x f).gen = s.gen := rfl
@[simp] theorem State.modCtx_identity (s : State) (c x : Nat) (f : Ctx → Ctx) : (s.modCtx c x f).identity = s.identity := rfl
@[simp] theorem State.modCtx_leaf (s : State) (c x : Nat) (f : Ctx → Ctx) : (s.modCtx c x f).leaf = s.leaf := rfl
@[simp] theorem State.modCtx_debugOpen (s : State) (c x : Nat) (f : Ctx → Ctx) : (s.modCtx c x f).debugOpen = s.debugOpen := rfl
@[simp] theorem State.modCtx_firmware (s : State) (c x : Nat) (f : Ctx → Ctx) : (s.modCtx c x f).firmware = s.firmware := rfl
@[simp] theorem State.modCtx_bootLeaf (s : State) (c x : Nat) (f : Ctx → Ctx) : (s.modCtx c x f).bootLeaf = s.bootLeaf := rfl
@[simp] theorem State.modCtx_msix (s : State) (c x : Nat) (f : Ctx → Ctx) : (s.modCtx c x f).msix = s.msix := rfl
@[simp] theorem State.modCtx_report (s : State) (c x : Nat) (f : Ctx → Ctx) : (s.modCtx c x f).report = s.report := rfl
@[simp] theorem State.modCtx_hostCpl (s : State) (c x : Nat) (f : Ctx → Ctx) : (s.modCtx c x f).hostCpl = s.hostCpl := rfl
@[simp] theorem State.modCtx_power (s : State) (c x : Nat) (f : Ctx → Ctx) : (s.modCtx c x f).power = s.power := rfl
@[simp] theorem State.modCtx_cur (s : State) (c x : Nat) (f : Ctx → Ctx) : (s.modCtx c x f).cur = s.cur := rfl
@[simp] theorem State.modCtx_agenda (s : State) (c x : Nat) (f : Ctx → Ctx) : (s.modCtx c x f).agenda = s.agenda := rfl
@[simp] theorem State.modCtx_phase (s : State) (c x : Nat) (f : Ctx → Ctx) : (s.modCtx c x f).phase = s.phase := rfl
@[simp] theorem State.modCtx_ticks (s : State) (c x : Nat) (f : Ctx → Ctx) : (s.modCtx c x f).ticks = s.ticks := rfl
@[simp] theorem State.modCtx_inputs (s : State) (c x : Nat) (f : Ctx → Ctx) : (s.modCtx c x f).inputs = s.inputs := rfl
@[simp] theorem State.modCtx_fresh (s : State) (c x : Nat) (f : Ctx → Ctx) : (s.modCtx c x f).fresh = s.fresh := rfl
@[simp] theorem State.modCtx_seq (s : State) (c x : Nat) (f : Ctx → Ctx) : (s.modCtx c x f).seq = s.seq := rfl

/-! ## State.modHcp -/

@[simp] theorem State.modHcp_gtc (s : State) (h : Nat) (f : Hcp → Hcp) : (s.modHcp h f).gtc = s.gtc := rfl
@[simp] theorem State.modHcp_gtcRunning (s : State) (h : Nat) (f : Hcp → Hcp) : (s.modHcp h f).gtcRunning = s.gtcRunning := rfl
@[simp] theorem State.modHcp_edge (s : State) (h : Nat) (f : Hcp → Hcp) : (s.modHcp h f).edge = s.edge := rfl
@[simp] theorem State.modHcp_bootStep (s : State) (h : Nat) (f : Hcp → Hcp) : (s.modHcp h f).bootStep = s.bootStep := rfl
@[simp] theorem State.modHcp_bootAt (s : State) (h : Nat) (f : Hcp → Hcp) : (s.modHcp h f).bootAt = s.bootAt := rfl
@[simp] theorem State.modHcp_enabled (s : State) (h : Nat) (f : Hcp → Hcp) : (s.modHcp h f).enabled = s.enabled := rfl
@[simp] theorem State.modHcp_customerPart (s : State) (h : Nat) (f : Hcp → Hcp) : (s.modHcp h f).customerPart = s.customerPart := rfl
@[simp] theorem State.modHcp_meadows (s : State) (h : Nat) (f : Hcp → Hcp) : (s.modHcp h f).meadows = s.meadows := rfl
@[simp] theorem State.modHcp_engines (s : State) (h : Nat) (f : Hcp → Hcp) : (s.modHcp h f).engines = s.engines := rfl
@[simp] theorem State.modHcp_answers (s : State) (h : Nat) (f : Hcp → Hcp) : (s.modHcp h f).answers = s.answers := rfl
@[simp] theorem State.modHcp_mem (s : State) (h : Nat) (f : Hcp → Hcp) : (s.modHcp h f).mem = s.mem := rfl
@[simp] theorem State.modHcp_poisoned (s : State) (h : Nat) (f : Hcp → Hcp) : (s.modHcp h f).poisoned = s.poisoned := rfl
@[simp] theorem State.modHcp_dramErr (s : State) (h : Nat) (f : Hcp → Hcp) : (s.modHcp h f).dramErr = s.dramErr := rfl
@[simp] theorem State.modHcp_lineKey (s : State) (h : Nat) (f : Hcp → Hcp) : (s.modHcp h f).lineKey = s.lineKey := rfl
@[simp] theorem State.modHcp_host (s : State) (h : Nat) (f : Hcp → Hcp) : (s.modHcp h f).host = s.host := rfl
@[simp] theorem State.modHcp_keys (s : State) (h : Nat) (f : Hcp → Hcp) : (s.modHcp h f).keys = s.keys := rfl
@[simp] theorem State.modHcp_oldKeys (s : State) (h : Nat) (f : Hcp → Hcp) : (s.modHcp h f).oldKeys = s.oldKeys := rfl
@[simp] theorem State.modHcp_wrapErased (s : State) (h : Nat) (f : Hcp → Hcp) : (s.modHcp h f).wrapErased = s.wrapErased := rfl
@[simp] theorem State.modHcp_hcmds (s : State) (h : Nat) (f : Hcp → Hcp) : (s.modHcp h f).hcmds = s.hcmds := rfl
@[simp] theorem State.modHcp_landings (s : State) (h : Nat) (f : Hcp → Hcp) : (s.modHcp h f).landings = s.landings := rfl
@[simp] theorem State.modHcp_arbiters (s : State) (h : Nat) (f : Hcp → Hcp) : (s.modHcp h f).arbiters = s.arbiters := rfl
@[simp] theorem State.modHcp_nrctl (s : State) (h : Nat) (f : Hcp → Hcp) : (s.modHcp h f).nrctl = s.nrctl := rfl
@[simp] theorem State.modHcp_nrseed (s : State) (h : Nat) (f : Hcp → Hcp) : (s.modHcp h f).nrseed = s.nrseed := rfl
@[simp] theorem State.modHcp_logs (s : State) (h : Nat) (f : Hcp → Hcp) : (s.modHcp h f).logs = s.logs := rfl
@[simp] theorem State.modHcp_lq (s : State) (h : Nat) (f : Hcp → Hcp) : (s.modHcp h f).lq = s.lq := rfl
@[simp] theorem State.modHcp_launches (s : State) (h : Nat) (f : Hcp → Hcp) : (s.modHcp h f).launches = s.launches := rfl
@[simp] theorem State.modHcp_claims (s : State) (h : Nat) (f : Hcp → Hcp) : (s.modHcp h f).claims = s.claims := rfl
@[simp] theorem State.modHcp_regions (s : State) (h : Nat) (f : Hcp → Hcp) : (s.modHcp h f).regions = s.regions := rfl
@[simp] theorem State.modHcp_nodes (s : State) (h : Nat) (f : Hcp → Hcp) : (s.modHcp h f).nodes = s.nodes := rfl
@[simp] theorem State.modHcp_stopped (s : State) (h : Nat) (f : Hcp → Hcp) : (s.modHcp h f).stopped = s.stopped := rfl
@[simp] theorem State.modHcp_gens (s : State) (h : Nat) (f : Hcp → Hcp) : (s.modHcp h f).gens = s.gens := rfl
@[simp] theorem State.modHcp_saved (s : State) (h : Nat) (f : Hcp → Hcp) : (s.modHcp h f).saved = s.saved := rfl
@[simp] theorem State.modHcp_pwrlim (s : State) (h : Nat) (f : Hcp → Hcp) : (s.modHcp h f).pwrlim = s.pwrlim := rfl
@[simp] theorem State.modHcp_brlim (s : State) (h : Nat) (f : Hcp → Hcp) : (s.modHcp h f).brlim = s.brlim := rfl
@[simp] theorem State.modHcp_thresh (s : State) (h : Nat) (f : Hcp → Hcp) : (s.modHcp h f).thresh = s.thresh := rfl
@[simp] theorem State.modHcp_below (s : State) (h : Nat) (f : Hcp → Hcp) : (s.modHcp h f).below = s.below := rfl
@[simp] theorem State.modHcp_mcirq (s : State) (h : Nat) (f : Hcp → Hcp) : (s.modHcp h f).mcirq = s.mcirq := rfl
@[simp] theorem State.modHcp_mcirqSet (s : State) (h : Nat) (f : Hcp → Hcp) : (s.modHcp h f).mcirqSet = s.mcirqSet := rfl
@[simp] theorem State.modHcp_bootcfg (s : State) (h : Nat) (f : Hcp → Hcp) : (s.modHcp h f).bootcfg = s.bootcfg := rfl
@[simp] theorem State.modHcp_apbase (s : State) (h : Nat) (f : Hcp → Hcp) : (s.modHcp h f).apbase = s.apbase := rfl
@[simp] theorem State.modHcp_apkey (s : State) (h : Nat) (f : Hcp → Hcp) : (s.modHcp h f).apkey = s.apkey := rfl
@[simp] theorem State.modHcp_prq (s : State) (h : Nat) (f : Hcp → Hcp) : (s.modHcp h f).prq = s.prq := rfl
@[simp] theorem State.modHcp_hrq (s : State) (h : Nat) (f : Hcp → Hcp) : (s.modHcp h f).hrq = s.hrq := rfl
@[simp] theorem State.modHcp_hrqdb (s : State) (h : Nat) (f : Hcp → Hcp) : (s.modHcp h f).hrqdb = s.hrqdb := rfl
@[simp] theorem State.modHcp_prqHeld (s : State) (h : Nat) (f : Hcp → Hcp) : (s.modHcp h f).prqHeld = s.prqHeld := rfl
@[simp] theorem State.modHcp_pageReqs (s : State) (h : Nat) (f : Hcp → Hcp) : (s.modHcp h f).pageReqs = s.pageReqs := rfl
@[simp] theorem State.modHcp_reclaims (s : State) (h : Nat) (f : Hcp → Hcp) : (s.modHcp h f).reclaims = s.reclaims := rfl
@[simp] theorem State.modHcp_seqNo (s : State) (h : Nat) (f : Hcp → Hcp) : (s.modHcp h f).seqNo = s.seqNo := rfl
@[simp] theorem State.modHcp_level (s : State) (h : Nat) (f : Hcp → Hcp) : (s.modHcp h f).level = s.level := rfl
@[simp] theorem State.modHcp_alarmSrc (s : State) (h : Nat) (f : Hcp → Hcp) : (s.modHcp h f).alarmSrc = s.alarmSrc := rfl
@[simp] theorem State.modHcp_wepoch (s : State) (h : Nat) (f : Hcp → Hcp) : (s.modHcp h f).wepoch = s.wepoch := rfl
@[simp] theorem State.modHcp_seccfg (s : State) (h : Nat) (f : Hcp → Hcp) : (s.modHcp h f).seccfg = s.seccfg := rfl
@[simp] theorem State.modHcp_eraseAt (s : State) (h : Nat) (f : Hcp → Hcp) : (s.modHcp h f).eraseAt = s.eraseAt := rfl
@[simp] theorem State.modHcp_alarmAt (s : State) (h : Nat) (f : Hcp → Hcp) : (s.modHcp h f).alarmAt = s.alarmAt := rfl
@[simp] theorem State.modHcp_removed (s : State) (h : Nat) (f : Hcp → Hcp) : (s.modHcp h f).removed = s.removed := rfl
@[simp] theorem State.modHcp_elogsel (s : State) (h : Nat) (f : Hcp → Hcp) : (s.modHcp h f).elogsel = s.elogsel := rfl
@[simp] theorem State.modHcp_fvxaddr (s : State) (h : Nat) (f : Hcp → Hcp) : (s.modHcp h f).fvxaddr = s.fvxaddr := rfl
@[simp] theorem State.modHcp_fvxsync (s : State) (h : Nat) (f : Hcp → Hcp) : (s.modHcp h f).fvxsync = s.fvxsync := rfl
@[simp] theorem State.modHcp_portFailed (s : State) (h : Nat) (f : Hcp → Hcp) : (s.modHcp h f).portFailed = s.portFailed := rfl
@[simp] theorem State.modHcp_tcm (s : State) (h : Nat) (f : Hcp → Hcp) : (s.modHcp h f).tcm = s.tcm := rfl
@[simp] theorem State.modHcp_hart (s : State) (h : Nat) (f : Hcp → Hcp) : (s.modHcp h f).hart = s.hart := rfl
@[simp] theorem State.modHcp_gen (s : State) (h : Nat) (f : Hcp → Hcp) : (s.modHcp h f).gen = s.gen := rfl
@[simp] theorem State.modHcp_identity (s : State) (h : Nat) (f : Hcp → Hcp) : (s.modHcp h f).identity = s.identity := rfl
@[simp] theorem State.modHcp_leaf (s : State) (h : Nat) (f : Hcp → Hcp) : (s.modHcp h f).leaf = s.leaf := rfl
@[simp] theorem State.modHcp_debugOpen (s : State) (h : Nat) (f : Hcp → Hcp) : (s.modHcp h f).debugOpen = s.debugOpen := rfl
@[simp] theorem State.modHcp_firmware (s : State) (h : Nat) (f : Hcp → Hcp) : (s.modHcp h f).firmware = s.firmware := rfl
@[simp] theorem State.modHcp_bootLeaf (s : State) (h : Nat) (f : Hcp → Hcp) : (s.modHcp h f).bootLeaf = s.bootLeaf := rfl
@[simp] theorem State.modHcp_msix (s : State) (h : Nat) (f : Hcp → Hcp) : (s.modHcp h f).msix = s.msix := rfl
@[simp] theorem State.modHcp_report (s : State) (h : Nat) (f : Hcp → Hcp) : (s.modHcp h f).report = s.report := rfl
@[simp] theorem State.modHcp_hostCpl (s : State) (h : Nat) (f : Hcp → Hcp) : (s.modHcp h f).hostCpl = s.hostCpl := rfl
@[simp] theorem State.modHcp_power (s : State) (h : Nat) (f : Hcp → Hcp) : (s.modHcp h f).power = s.power := rfl
@[simp] theorem State.modHcp_cur (s : State) (h : Nat) (f : Hcp → Hcp) : (s.modHcp h f).cur = s.cur := rfl
@[simp] theorem State.modHcp_agenda (s : State) (h : Nat) (f : Hcp → Hcp) : (s.modHcp h f).agenda = s.agenda := rfl
@[simp] theorem State.modHcp_phase (s : State) (h : Nat) (f : Hcp → Hcp) : (s.modHcp h f).phase = s.phase := rfl
@[simp] theorem State.modHcp_ticks (s : State) (h : Nat) (f : Hcp → Hcp) : (s.modHcp h f).ticks = s.ticks := rfl
@[simp] theorem State.modHcp_inputs (s : State) (h : Nat) (f : Hcp → Hcp) : (s.modHcp h f).inputs = s.inputs := rfl
@[simp] theorem State.modHcp_fresh (s : State) (h : Nat) (f : Hcp → Hcp) : (s.modHcp h f).fresh = s.fresh := rfl
@[simp] theorem State.modHcp_seq (s : State) (h : Nat) (f : Hcp → Hcp) : (s.modHcp h f).seq = s.seq := rfl

/-! ## State.modEng -/

@[simp] theorem State.modEng_gtc (s : State) (d : Nat) (f : SyncEngine → SyncEngine) : (s.modEng d f).gtc = s.gtc := rfl
@[simp] theorem State.modEng_gtcRunning (s : State) (d : Nat) (f : SyncEngine → SyncEngine) : (s.modEng d f).gtcRunning = s.gtcRunning := rfl
@[simp] theorem State.modEng_edge (s : State) (d : Nat) (f : SyncEngine → SyncEngine) : (s.modEng d f).edge = s.edge := rfl
@[simp] theorem State.modEng_bootStep (s : State) (d : Nat) (f : SyncEngine → SyncEngine) : (s.modEng d f).bootStep = s.bootStep := rfl
@[simp] theorem State.modEng_bootAt (s : State) (d : Nat) (f : SyncEngine → SyncEngine) : (s.modEng d f).bootAt = s.bootAt := rfl
@[simp] theorem State.modEng_enabled (s : State) (d : Nat) (f : SyncEngine → SyncEngine) : (s.modEng d f).enabled = s.enabled := rfl
@[simp] theorem State.modEng_customerPart (s : State) (d : Nat) (f : SyncEngine → SyncEngine) : (s.modEng d f).customerPart = s.customerPart := rfl
@[simp] theorem State.modEng_meadows (s : State) (d : Nat) (f : SyncEngine → SyncEngine) : (s.modEng d f).meadows = s.meadows := rfl
@[simp] theorem State.modEng_answers (s : State) (d : Nat) (f : SyncEngine → SyncEngine) : (s.modEng d f).answers = s.answers := rfl
@[simp] theorem State.modEng_mem (s : State) (d : Nat) (f : SyncEngine → SyncEngine) : (s.modEng d f).mem = s.mem := rfl
@[simp] theorem State.modEng_poisoned (s : State) (d : Nat) (f : SyncEngine → SyncEngine) : (s.modEng d f).poisoned = s.poisoned := rfl
@[simp] theorem State.modEng_dramErr (s : State) (d : Nat) (f : SyncEngine → SyncEngine) : (s.modEng d f).dramErr = s.dramErr := rfl
@[simp] theorem State.modEng_lineKey (s : State) (d : Nat) (f : SyncEngine → SyncEngine) : (s.modEng d f).lineKey = s.lineKey := rfl
@[simp] theorem State.modEng_host (s : State) (d : Nat) (f : SyncEngine → SyncEngine) : (s.modEng d f).host = s.host := rfl
@[simp] theorem State.modEng_keys (s : State) (d : Nat) (f : SyncEngine → SyncEngine) : (s.modEng d f).keys = s.keys := rfl
@[simp] theorem State.modEng_oldKeys (s : State) (d : Nat) (f : SyncEngine → SyncEngine) : (s.modEng d f).oldKeys = s.oldKeys := rfl
@[simp] theorem State.modEng_wrapErased (s : State) (d : Nat) (f : SyncEngine → SyncEngine) : (s.modEng d f).wrapErased = s.wrapErased := rfl
@[simp] theorem State.modEng_hcps (s : State) (d : Nat) (f : SyncEngine → SyncEngine) : (s.modEng d f).hcps = s.hcps := rfl
@[simp] theorem State.modEng_hcmds (s : State) (d : Nat) (f : SyncEngine → SyncEngine) : (s.modEng d f).hcmds = s.hcmds := rfl
@[simp] theorem State.modEng_landings (s : State) (d : Nat) (f : SyncEngine → SyncEngine) : (s.modEng d f).landings = s.landings := rfl
@[simp] theorem State.modEng_arbiters (s : State) (d : Nat) (f : SyncEngine → SyncEngine) : (s.modEng d f).arbiters = s.arbiters := rfl
@[simp] theorem State.modEng_nrctl (s : State) (d : Nat) (f : SyncEngine → SyncEngine) : (s.modEng d f).nrctl = s.nrctl := rfl
@[simp] theorem State.modEng_nrseed (s : State) (d : Nat) (f : SyncEngine → SyncEngine) : (s.modEng d f).nrseed = s.nrseed := rfl
@[simp] theorem State.modEng_logs (s : State) (d : Nat) (f : SyncEngine → SyncEngine) : (s.modEng d f).logs = s.logs := rfl
@[simp] theorem State.modEng_lq (s : State) (d : Nat) (f : SyncEngine → SyncEngine) : (s.modEng d f).lq = s.lq := rfl
@[simp] theorem State.modEng_launches (s : State) (d : Nat) (f : SyncEngine → SyncEngine) : (s.modEng d f).launches = s.launches := rfl
@[simp] theorem State.modEng_claims (s : State) (d : Nat) (f : SyncEngine → SyncEngine) : (s.modEng d f).claims = s.claims := rfl
@[simp] theorem State.modEng_regions (s : State) (d : Nat) (f : SyncEngine → SyncEngine) : (s.modEng d f).regions = s.regions := rfl
@[simp] theorem State.modEng_nodes (s : State) (d : Nat) (f : SyncEngine → SyncEngine) : (s.modEng d f).nodes = s.nodes := rfl
@[simp] theorem State.modEng_stopped (s : State) (d : Nat) (f : SyncEngine → SyncEngine) : (s.modEng d f).stopped = s.stopped := rfl
@[simp] theorem State.modEng_gens (s : State) (d : Nat) (f : SyncEngine → SyncEngine) : (s.modEng d f).gens = s.gens := rfl
@[simp] theorem State.modEng_saved (s : State) (d : Nat) (f : SyncEngine → SyncEngine) : (s.modEng d f).saved = s.saved := rfl
@[simp] theorem State.modEng_pwrlim (s : State) (d : Nat) (f : SyncEngine → SyncEngine) : (s.modEng d f).pwrlim = s.pwrlim := rfl
@[simp] theorem State.modEng_brlim (s : State) (d : Nat) (f : SyncEngine → SyncEngine) : (s.modEng d f).brlim = s.brlim := rfl
@[simp] theorem State.modEng_thresh (s : State) (d : Nat) (f : SyncEngine → SyncEngine) : (s.modEng d f).thresh = s.thresh := rfl
@[simp] theorem State.modEng_below (s : State) (d : Nat) (f : SyncEngine → SyncEngine) : (s.modEng d f).below = s.below := rfl
@[simp] theorem State.modEng_mcirq (s : State) (d : Nat) (f : SyncEngine → SyncEngine) : (s.modEng d f).mcirq = s.mcirq := rfl
@[simp] theorem State.modEng_mcirqSet (s : State) (d : Nat) (f : SyncEngine → SyncEngine) : (s.modEng d f).mcirqSet = s.mcirqSet := rfl
@[simp] theorem State.modEng_bootcfg (s : State) (d : Nat) (f : SyncEngine → SyncEngine) : (s.modEng d f).bootcfg = s.bootcfg := rfl
@[simp] theorem State.modEng_apbase (s : State) (d : Nat) (f : SyncEngine → SyncEngine) : (s.modEng d f).apbase = s.apbase := rfl
@[simp] theorem State.modEng_apkey (s : State) (d : Nat) (f : SyncEngine → SyncEngine) : (s.modEng d f).apkey = s.apkey := rfl
@[simp] theorem State.modEng_prq (s : State) (d : Nat) (f : SyncEngine → SyncEngine) : (s.modEng d f).prq = s.prq := rfl
@[simp] theorem State.modEng_hrq (s : State) (d : Nat) (f : SyncEngine → SyncEngine) : (s.modEng d f).hrq = s.hrq := rfl
@[simp] theorem State.modEng_hrqdb (s : State) (d : Nat) (f : SyncEngine → SyncEngine) : (s.modEng d f).hrqdb = s.hrqdb := rfl
@[simp] theorem State.modEng_prqHeld (s : State) (d : Nat) (f : SyncEngine → SyncEngine) : (s.modEng d f).prqHeld = s.prqHeld := rfl
@[simp] theorem State.modEng_pageReqs (s : State) (d : Nat) (f : SyncEngine → SyncEngine) : (s.modEng d f).pageReqs = s.pageReqs := rfl
@[simp] theorem State.modEng_reclaims (s : State) (d : Nat) (f : SyncEngine → SyncEngine) : (s.modEng d f).reclaims = s.reclaims := rfl
@[simp] theorem State.modEng_seqNo (s : State) (d : Nat) (f : SyncEngine → SyncEngine) : (s.modEng d f).seqNo = s.seqNo := rfl
@[simp] theorem State.modEng_level (s : State) (d : Nat) (f : SyncEngine → SyncEngine) : (s.modEng d f).level = s.level := rfl
@[simp] theorem State.modEng_alarmSrc (s : State) (d : Nat) (f : SyncEngine → SyncEngine) : (s.modEng d f).alarmSrc = s.alarmSrc := rfl
@[simp] theorem State.modEng_wepoch (s : State) (d : Nat) (f : SyncEngine → SyncEngine) : (s.modEng d f).wepoch = s.wepoch := rfl
@[simp] theorem State.modEng_seccfg (s : State) (d : Nat) (f : SyncEngine → SyncEngine) : (s.modEng d f).seccfg = s.seccfg := rfl
@[simp] theorem State.modEng_eraseAt (s : State) (d : Nat) (f : SyncEngine → SyncEngine) : (s.modEng d f).eraseAt = s.eraseAt := rfl
@[simp] theorem State.modEng_alarmAt (s : State) (d : Nat) (f : SyncEngine → SyncEngine) : (s.modEng d f).alarmAt = s.alarmAt := rfl
@[simp] theorem State.modEng_removed (s : State) (d : Nat) (f : SyncEngine → SyncEngine) : (s.modEng d f).removed = s.removed := rfl
@[simp] theorem State.modEng_elogsel (s : State) (d : Nat) (f : SyncEngine → SyncEngine) : (s.modEng d f).elogsel = s.elogsel := rfl
@[simp] theorem State.modEng_fvxaddr (s : State) (d : Nat) (f : SyncEngine → SyncEngine) : (s.modEng d f).fvxaddr = s.fvxaddr := rfl
@[simp] theorem State.modEng_fvxsync (s : State) (d : Nat) (f : SyncEngine → SyncEngine) : (s.modEng d f).fvxsync = s.fvxsync := rfl
@[simp] theorem State.modEng_portFailed (s : State) (d : Nat) (f : SyncEngine → SyncEngine) : (s.modEng d f).portFailed = s.portFailed := rfl
@[simp] theorem State.modEng_tcm (s : State) (d : Nat) (f : SyncEngine → SyncEngine) : (s.modEng d f).tcm = s.tcm := rfl
@[simp] theorem State.modEng_hart (s : State) (d : Nat) (f : SyncEngine → SyncEngine) : (s.modEng d f).hart = s.hart := rfl
@[simp] theorem State.modEng_gen (s : State) (d : Nat) (f : SyncEngine → SyncEngine) : (s.modEng d f).gen = s.gen := rfl
@[simp] theorem State.modEng_identity (s : State) (d : Nat) (f : SyncEngine → SyncEngine) : (s.modEng d f).identity = s.identity := rfl
@[simp] theorem State.modEng_leaf (s : State) (d : Nat) (f : SyncEngine → SyncEngine) : (s.modEng d f).leaf = s.leaf := rfl
@[simp] theorem State.modEng_debugOpen (s : State) (d : Nat) (f : SyncEngine → SyncEngine) : (s.modEng d f).debugOpen = s.debugOpen := rfl
@[simp] theorem State.modEng_firmware (s : State) (d : Nat) (f : SyncEngine → SyncEngine) : (s.modEng d f).firmware = s.firmware := rfl
@[simp] theorem State.modEng_bootLeaf (s : State) (d : Nat) (f : SyncEngine → SyncEngine) : (s.modEng d f).bootLeaf = s.bootLeaf := rfl
@[simp] theorem State.modEng_msix (s : State) (d : Nat) (f : SyncEngine → SyncEngine) : (s.modEng d f).msix = s.msix := rfl
@[simp] theorem State.modEng_report (s : State) (d : Nat) (f : SyncEngine → SyncEngine) : (s.modEng d f).report = s.report := rfl
@[simp] theorem State.modEng_hostCpl (s : State) (d : Nat) (f : SyncEngine → SyncEngine) : (s.modEng d f).hostCpl = s.hostCpl := rfl
@[simp] theorem State.modEng_power (s : State) (d : Nat) (f : SyncEngine → SyncEngine) : (s.modEng d f).power = s.power := rfl
@[simp] theorem State.modEng_cur (s : State) (d : Nat) (f : SyncEngine → SyncEngine) : (s.modEng d f).cur = s.cur := rfl
@[simp] theorem State.modEng_agenda (s : State) (d : Nat) (f : SyncEngine → SyncEngine) : (s.modEng d f).agenda = s.agenda := rfl
@[simp] theorem State.modEng_phase (s : State) (d : Nat) (f : SyncEngine → SyncEngine) : (s.modEng d f).phase = s.phase := rfl
@[simp] theorem State.modEng_ticks (s : State) (d : Nat) (f : SyncEngine → SyncEngine) : (s.modEng d f).ticks = s.ticks := rfl
@[simp] theorem State.modEng_inputs (s : State) (d : Nat) (f : SyncEngine → SyncEngine) : (s.modEng d f).inputs = s.inputs := rfl
@[simp] theorem State.modEng_fresh (s : State) (d : Nat) (f : SyncEngine → SyncEngine) : (s.modEng d f).fresh = s.fresh := rfl
@[simp] theorem State.modEng_seq (s : State) (d : Nat) (f : SyncEngine → SyncEngine) : (s.modEng d f).seq = s.seq := rfl

/-! ## State.modArb -/

@[simp] theorem State.modArb_gtc (s : State) (p : Nat) (f : Arbiter → Arbiter) : (s.modArb p f).gtc = s.gtc := rfl
@[simp] theorem State.modArb_gtcRunning (s : State) (p : Nat) (f : Arbiter → Arbiter) : (s.modArb p f).gtcRunning = s.gtcRunning := rfl
@[simp] theorem State.modArb_edge (s : State) (p : Nat) (f : Arbiter → Arbiter) : (s.modArb p f).edge = s.edge := rfl
@[simp] theorem State.modArb_bootStep (s : State) (p : Nat) (f : Arbiter → Arbiter) : (s.modArb p f).bootStep = s.bootStep := rfl
@[simp] theorem State.modArb_bootAt (s : State) (p : Nat) (f : Arbiter → Arbiter) : (s.modArb p f).bootAt = s.bootAt := rfl
@[simp] theorem State.modArb_enabled (s : State) (p : Nat) (f : Arbiter → Arbiter) : (s.modArb p f).enabled = s.enabled := rfl
@[simp] theorem State.modArb_customerPart (s : State) (p : Nat) (f : Arbiter → Arbiter) : (s.modArb p f).customerPart = s.customerPart := rfl
@[simp] theorem State.modArb_meadows (s : State) (p : Nat) (f : Arbiter → Arbiter) : (s.modArb p f).meadows = s.meadows := rfl
@[simp] theorem State.modArb_engines (s : State) (p : Nat) (f : Arbiter → Arbiter) : (s.modArb p f).engines = s.engines := rfl
@[simp] theorem State.modArb_answers (s : State) (p : Nat) (f : Arbiter → Arbiter) : (s.modArb p f).answers = s.answers := rfl
@[simp] theorem State.modArb_mem (s : State) (p : Nat) (f : Arbiter → Arbiter) : (s.modArb p f).mem = s.mem := rfl
@[simp] theorem State.modArb_poisoned (s : State) (p : Nat) (f : Arbiter → Arbiter) : (s.modArb p f).poisoned = s.poisoned := rfl
@[simp] theorem State.modArb_dramErr (s : State) (p : Nat) (f : Arbiter → Arbiter) : (s.modArb p f).dramErr = s.dramErr := rfl
@[simp] theorem State.modArb_lineKey (s : State) (p : Nat) (f : Arbiter → Arbiter) : (s.modArb p f).lineKey = s.lineKey := rfl
@[simp] theorem State.modArb_host (s : State) (p : Nat) (f : Arbiter → Arbiter) : (s.modArb p f).host = s.host := rfl
@[simp] theorem State.modArb_keys (s : State) (p : Nat) (f : Arbiter → Arbiter) : (s.modArb p f).keys = s.keys := rfl
@[simp] theorem State.modArb_oldKeys (s : State) (p : Nat) (f : Arbiter → Arbiter) : (s.modArb p f).oldKeys = s.oldKeys := rfl
@[simp] theorem State.modArb_wrapErased (s : State) (p : Nat) (f : Arbiter → Arbiter) : (s.modArb p f).wrapErased = s.wrapErased := rfl
@[simp] theorem State.modArb_hcps (s : State) (p : Nat) (f : Arbiter → Arbiter) : (s.modArb p f).hcps = s.hcps := rfl
@[simp] theorem State.modArb_hcmds (s : State) (p : Nat) (f : Arbiter → Arbiter) : (s.modArb p f).hcmds = s.hcmds := rfl
@[simp] theorem State.modArb_landings (s : State) (p : Nat) (f : Arbiter → Arbiter) : (s.modArb p f).landings = s.landings := rfl
@[simp] theorem State.modArb_nrctl (s : State) (p : Nat) (f : Arbiter → Arbiter) : (s.modArb p f).nrctl = s.nrctl := rfl
@[simp] theorem State.modArb_nrseed (s : State) (p : Nat) (f : Arbiter → Arbiter) : (s.modArb p f).nrseed = s.nrseed := rfl
@[simp] theorem State.modArb_logs (s : State) (p : Nat) (f : Arbiter → Arbiter) : (s.modArb p f).logs = s.logs := rfl
@[simp] theorem State.modArb_lq (s : State) (p : Nat) (f : Arbiter → Arbiter) : (s.modArb p f).lq = s.lq := rfl
@[simp] theorem State.modArb_launches (s : State) (p : Nat) (f : Arbiter → Arbiter) : (s.modArb p f).launches = s.launches := rfl
@[simp] theorem State.modArb_claims (s : State) (p : Nat) (f : Arbiter → Arbiter) : (s.modArb p f).claims = s.claims := rfl
@[simp] theorem State.modArb_regions (s : State) (p : Nat) (f : Arbiter → Arbiter) : (s.modArb p f).regions = s.regions := rfl
@[simp] theorem State.modArb_nodes (s : State) (p : Nat) (f : Arbiter → Arbiter) : (s.modArb p f).nodes = s.nodes := rfl
@[simp] theorem State.modArb_stopped (s : State) (p : Nat) (f : Arbiter → Arbiter) : (s.modArb p f).stopped = s.stopped := rfl
@[simp] theorem State.modArb_gens (s : State) (p : Nat) (f : Arbiter → Arbiter) : (s.modArb p f).gens = s.gens := rfl
@[simp] theorem State.modArb_saved (s : State) (p : Nat) (f : Arbiter → Arbiter) : (s.modArb p f).saved = s.saved := rfl
@[simp] theorem State.modArb_pwrlim (s : State) (p : Nat) (f : Arbiter → Arbiter) : (s.modArb p f).pwrlim = s.pwrlim := rfl
@[simp] theorem State.modArb_brlim (s : State) (p : Nat) (f : Arbiter → Arbiter) : (s.modArb p f).brlim = s.brlim := rfl
@[simp] theorem State.modArb_thresh (s : State) (p : Nat) (f : Arbiter → Arbiter) : (s.modArb p f).thresh = s.thresh := rfl
@[simp] theorem State.modArb_below (s : State) (p : Nat) (f : Arbiter → Arbiter) : (s.modArb p f).below = s.below := rfl
@[simp] theorem State.modArb_mcirq (s : State) (p : Nat) (f : Arbiter → Arbiter) : (s.modArb p f).mcirq = s.mcirq := rfl
@[simp] theorem State.modArb_mcirqSet (s : State) (p : Nat) (f : Arbiter → Arbiter) : (s.modArb p f).mcirqSet = s.mcirqSet := rfl
@[simp] theorem State.modArb_bootcfg (s : State) (p : Nat) (f : Arbiter → Arbiter) : (s.modArb p f).bootcfg = s.bootcfg := rfl
@[simp] theorem State.modArb_apbase (s : State) (p : Nat) (f : Arbiter → Arbiter) : (s.modArb p f).apbase = s.apbase := rfl
@[simp] theorem State.modArb_apkey (s : State) (p : Nat) (f : Arbiter → Arbiter) : (s.modArb p f).apkey = s.apkey := rfl
@[simp] theorem State.modArb_prq (s : State) (p : Nat) (f : Arbiter → Arbiter) : (s.modArb p f).prq = s.prq := rfl
@[simp] theorem State.modArb_hrq (s : State) (p : Nat) (f : Arbiter → Arbiter) : (s.modArb p f).hrq = s.hrq := rfl
@[simp] theorem State.modArb_hrqdb (s : State) (p : Nat) (f : Arbiter → Arbiter) : (s.modArb p f).hrqdb = s.hrqdb := rfl
@[simp] theorem State.modArb_prqHeld (s : State) (p : Nat) (f : Arbiter → Arbiter) : (s.modArb p f).prqHeld = s.prqHeld := rfl
@[simp] theorem State.modArb_pageReqs (s : State) (p : Nat) (f : Arbiter → Arbiter) : (s.modArb p f).pageReqs = s.pageReqs := rfl
@[simp] theorem State.modArb_reclaims (s : State) (p : Nat) (f : Arbiter → Arbiter) : (s.modArb p f).reclaims = s.reclaims := rfl
@[simp] theorem State.modArb_seqNo (s : State) (p : Nat) (f : Arbiter → Arbiter) : (s.modArb p f).seqNo = s.seqNo := rfl
@[simp] theorem State.modArb_level (s : State) (p : Nat) (f : Arbiter → Arbiter) : (s.modArb p f).level = s.level := rfl
@[simp] theorem State.modArb_alarmSrc (s : State) (p : Nat) (f : Arbiter → Arbiter) : (s.modArb p f).alarmSrc = s.alarmSrc := rfl
@[simp] theorem State.modArb_wepoch (s : State) (p : Nat) (f : Arbiter → Arbiter) : (s.modArb p f).wepoch = s.wepoch := rfl
@[simp] theorem State.modArb_seccfg (s : State) (p : Nat) (f : Arbiter → Arbiter) : (s.modArb p f).seccfg = s.seccfg := rfl
@[simp] theorem State.modArb_eraseAt (s : State) (p : Nat) (f : Arbiter → Arbiter) : (s.modArb p f).eraseAt = s.eraseAt := rfl
@[simp] theorem State.modArb_alarmAt (s : State) (p : Nat) (f : Arbiter → Arbiter) : (s.modArb p f).alarmAt = s.alarmAt := rfl
@[simp] theorem State.modArb_removed (s : State) (p : Nat) (f : Arbiter → Arbiter) : (s.modArb p f).removed = s.removed := rfl
@[simp] theorem State.modArb_elogsel (s : State) (p : Nat) (f : Arbiter → Arbiter) : (s.modArb p f).elogsel = s.elogsel := rfl
@[simp] theorem State.modArb_fvxaddr (s : State) (p : Nat) (f : Arbiter → Arbiter) : (s.modArb p f).fvxaddr = s.fvxaddr := rfl
@[simp] theorem State.modArb_fvxsync (s : State) (p : Nat) (f : Arbiter → Arbiter) : (s.modArb p f).fvxsync = s.fvxsync := rfl
@[simp] theorem State.modArb_portFailed (s : State) (p : Nat) (f : Arbiter → Arbiter) : (s.modArb p f).portFailed = s.portFailed := rfl
@[simp] theorem State.modArb_tcm (s : State) (p : Nat) (f : Arbiter → Arbiter) : (s.modArb p f).tcm = s.tcm := rfl
@[simp] theorem State.modArb_hart (s : State) (p : Nat) (f : Arbiter → Arbiter) : (s.modArb p f).hart = s.hart := rfl
@[simp] theorem State.modArb_gen (s : State) (p : Nat) (f : Arbiter → Arbiter) : (s.modArb p f).gen = s.gen := rfl
@[simp] theorem State.modArb_identity (s : State) (p : Nat) (f : Arbiter → Arbiter) : (s.modArb p f).identity = s.identity := rfl
@[simp] theorem State.modArb_leaf (s : State) (p : Nat) (f : Arbiter → Arbiter) : (s.modArb p f).leaf = s.leaf := rfl
@[simp] theorem State.modArb_debugOpen (s : State) (p : Nat) (f : Arbiter → Arbiter) : (s.modArb p f).debugOpen = s.debugOpen := rfl
@[simp] theorem State.modArb_firmware (s : State) (p : Nat) (f : Arbiter → Arbiter) : (s.modArb p f).firmware = s.firmware := rfl
@[simp] theorem State.modArb_bootLeaf (s : State) (p : Nat) (f : Arbiter → Arbiter) : (s.modArb p f).bootLeaf = s.bootLeaf := rfl
@[simp] theorem State.modArb_msix (s : State) (p : Nat) (f : Arbiter → Arbiter) : (s.modArb p f).msix = s.msix := rfl
@[simp] theorem State.modArb_report (s : State) (p : Nat) (f : Arbiter → Arbiter) : (s.modArb p f).report = s.report := rfl
@[simp] theorem State.modArb_hostCpl (s : State) (p : Nat) (f : Arbiter → Arbiter) : (s.modArb p f).hostCpl = s.hostCpl := rfl
@[simp] theorem State.modArb_power (s : State) (p : Nat) (f : Arbiter → Arbiter) : (s.modArb p f).power = s.power := rfl
@[simp] theorem State.modArb_cur (s : State) (p : Nat) (f : Arbiter → Arbiter) : (s.modArb p f).cur = s.cur := rfl
@[simp] theorem State.modArb_agenda (s : State) (p : Nat) (f : Arbiter → Arbiter) : (s.modArb p f).agenda = s.agenda := rfl
@[simp] theorem State.modArb_phase (s : State) (p : Nat) (f : Arbiter → Arbiter) : (s.modArb p f).phase = s.phase := rfl
@[simp] theorem State.modArb_ticks (s : State) (p : Nat) (f : Arbiter → Arbiter) : (s.modArb p f).ticks = s.ticks := rfl
@[simp] theorem State.modArb_inputs (s : State) (p : Nat) (f : Arbiter → Arbiter) : (s.modArb p f).inputs = s.inputs := rfl
@[simp] theorem State.modArb_fresh (s : State) (p : Nat) (f : Arbiter → Arbiter) : (s.modArb p f).fresh = s.fresh := rfl
@[simp] theorem State.modArb_seq (s : State) (p : Nat) (f : Arbiter → Arbiter) : (s.modArb p f).seq = s.seq := rfl

/-! ## State.later -/

@[simp] theorem State.later_gtc (s : State) (es : List Ev) : (s.later es).gtc = s.gtc := rfl
@[simp] theorem State.later_gtcRunning (s : State) (es : List Ev) : (s.later es).gtcRunning = s.gtcRunning := rfl
@[simp] theorem State.later_edge (s : State) (es : List Ev) : (s.later es).edge = s.edge := rfl
@[simp] theorem State.later_bootStep (s : State) (es : List Ev) : (s.later es).bootStep = s.bootStep := rfl
@[simp] theorem State.later_bootAt (s : State) (es : List Ev) : (s.later es).bootAt = s.bootAt := rfl
@[simp] theorem State.later_enabled (s : State) (es : List Ev) : (s.later es).enabled = s.enabled := rfl
@[simp] theorem State.later_customerPart (s : State) (es : List Ev) : (s.later es).customerPart = s.customerPart := rfl
@[simp] theorem State.later_meadows (s : State) (es : List Ev) : (s.later es).meadows = s.meadows := rfl
@[simp] theorem State.later_engines (s : State) (es : List Ev) : (s.later es).engines = s.engines := rfl
@[simp] theorem State.later_answers (s : State) (es : List Ev) : (s.later es).answers = s.answers := rfl
@[simp] theorem State.later_mem (s : State) (es : List Ev) : (s.later es).mem = s.mem := rfl
@[simp] theorem State.later_poisoned (s : State) (es : List Ev) : (s.later es).poisoned = s.poisoned := rfl
@[simp] theorem State.later_dramErr (s : State) (es : List Ev) : (s.later es).dramErr = s.dramErr := rfl
@[simp] theorem State.later_lineKey (s : State) (es : List Ev) : (s.later es).lineKey = s.lineKey := rfl
@[simp] theorem State.later_host (s : State) (es : List Ev) : (s.later es).host = s.host := rfl
@[simp] theorem State.later_keys (s : State) (es : List Ev) : (s.later es).keys = s.keys := rfl
@[simp] theorem State.later_oldKeys (s : State) (es : List Ev) : (s.later es).oldKeys = s.oldKeys := rfl
@[simp] theorem State.later_wrapErased (s : State) (es : List Ev) : (s.later es).wrapErased = s.wrapErased := rfl
@[simp] theorem State.later_hcps (s : State) (es : List Ev) : (s.later es).hcps = s.hcps := rfl
@[simp] theorem State.later_hcmds (s : State) (es : List Ev) : (s.later es).hcmds = s.hcmds := rfl
@[simp] theorem State.later_landings (s : State) (es : List Ev) : (s.later es).landings = s.landings := rfl
@[simp] theorem State.later_arbiters (s : State) (es : List Ev) : (s.later es).arbiters = s.arbiters := rfl
@[simp] theorem State.later_nrctl (s : State) (es : List Ev) : (s.later es).nrctl = s.nrctl := rfl
@[simp] theorem State.later_nrseed (s : State) (es : List Ev) : (s.later es).nrseed = s.nrseed := rfl
@[simp] theorem State.later_logs (s : State) (es : List Ev) : (s.later es).logs = s.logs := rfl
@[simp] theorem State.later_lq (s : State) (es : List Ev) : (s.later es).lq = s.lq := rfl
@[simp] theorem State.later_launches (s : State) (es : List Ev) : (s.later es).launches = s.launches := rfl
@[simp] theorem State.later_claims (s : State) (es : List Ev) : (s.later es).claims = s.claims := rfl
@[simp] theorem State.later_regions (s : State) (es : List Ev) : (s.later es).regions = s.regions := rfl
@[simp] theorem State.later_nodes (s : State) (es : List Ev) : (s.later es).nodes = s.nodes := rfl
@[simp] theorem State.later_stopped (s : State) (es : List Ev) : (s.later es).stopped = s.stopped := rfl
@[simp] theorem State.later_gens (s : State) (es : List Ev) : (s.later es).gens = s.gens := rfl
@[simp] theorem State.later_saved (s : State) (es : List Ev) : (s.later es).saved = s.saved := rfl
@[simp] theorem State.later_pwrlim (s : State) (es : List Ev) : (s.later es).pwrlim = s.pwrlim := rfl
@[simp] theorem State.later_brlim (s : State) (es : List Ev) : (s.later es).brlim = s.brlim := rfl
@[simp] theorem State.later_thresh (s : State) (es : List Ev) : (s.later es).thresh = s.thresh := rfl
@[simp] theorem State.later_below (s : State) (es : List Ev) : (s.later es).below = s.below := rfl
@[simp] theorem State.later_mcirq (s : State) (es : List Ev) : (s.later es).mcirq = s.mcirq := rfl
@[simp] theorem State.later_mcirqSet (s : State) (es : List Ev) : (s.later es).mcirqSet = s.mcirqSet := rfl
@[simp] theorem State.later_bootcfg (s : State) (es : List Ev) : (s.later es).bootcfg = s.bootcfg := rfl
@[simp] theorem State.later_apbase (s : State) (es : List Ev) : (s.later es).apbase = s.apbase := rfl
@[simp] theorem State.later_apkey (s : State) (es : List Ev) : (s.later es).apkey = s.apkey := rfl
@[simp] theorem State.later_prq (s : State) (es : List Ev) : (s.later es).prq = s.prq := rfl
@[simp] theorem State.later_hrq (s : State) (es : List Ev) : (s.later es).hrq = s.hrq := rfl
@[simp] theorem State.later_hrqdb (s : State) (es : List Ev) : (s.later es).hrqdb = s.hrqdb := rfl
@[simp] theorem State.later_prqHeld (s : State) (es : List Ev) : (s.later es).prqHeld = s.prqHeld := rfl
@[simp] theorem State.later_pageReqs (s : State) (es : List Ev) : (s.later es).pageReqs = s.pageReqs := rfl
@[simp] theorem State.later_reclaims (s : State) (es : List Ev) : (s.later es).reclaims = s.reclaims := rfl
@[simp] theorem State.later_seqNo (s : State) (es : List Ev) : (s.later es).seqNo = s.seqNo := rfl
@[simp] theorem State.later_level (s : State) (es : List Ev) : (s.later es).level = s.level := rfl
@[simp] theorem State.later_alarmSrc (s : State) (es : List Ev) : (s.later es).alarmSrc = s.alarmSrc := rfl
@[simp] theorem State.later_wepoch (s : State) (es : List Ev) : (s.later es).wepoch = s.wepoch := rfl
@[simp] theorem State.later_seccfg (s : State) (es : List Ev) : (s.later es).seccfg = s.seccfg := rfl
@[simp] theorem State.later_eraseAt (s : State) (es : List Ev) : (s.later es).eraseAt = s.eraseAt := rfl
@[simp] theorem State.later_alarmAt (s : State) (es : List Ev) : (s.later es).alarmAt = s.alarmAt := rfl
@[simp] theorem State.later_removed (s : State) (es : List Ev) : (s.later es).removed = s.removed := rfl
@[simp] theorem State.later_elogsel (s : State) (es : List Ev) : (s.later es).elogsel = s.elogsel := rfl
@[simp] theorem State.later_fvxaddr (s : State) (es : List Ev) : (s.later es).fvxaddr = s.fvxaddr := rfl
@[simp] theorem State.later_fvxsync (s : State) (es : List Ev) : (s.later es).fvxsync = s.fvxsync := rfl
@[simp] theorem State.later_portFailed (s : State) (es : List Ev) : (s.later es).portFailed = s.portFailed := rfl
@[simp] theorem State.later_tcm (s : State) (es : List Ev) : (s.later es).tcm = s.tcm := rfl
@[simp] theorem State.later_hart (s : State) (es : List Ev) : (s.later es).hart = s.hart := rfl
@[simp] theorem State.later_gen (s : State) (es : List Ev) : (s.later es).gen = s.gen := rfl
@[simp] theorem State.later_identity (s : State) (es : List Ev) : (s.later es).identity = s.identity := rfl
@[simp] theorem State.later_leaf (s : State) (es : List Ev) : (s.later es).leaf = s.leaf := rfl
@[simp] theorem State.later_debugOpen (s : State) (es : List Ev) : (s.later es).debugOpen = s.debugOpen := rfl
@[simp] theorem State.later_firmware (s : State) (es : List Ev) : (s.later es).firmware = s.firmware := rfl
@[simp] theorem State.later_bootLeaf (s : State) (es : List Ev) : (s.later es).bootLeaf = s.bootLeaf := rfl
@[simp] theorem State.later_msix (s : State) (es : List Ev) : (s.later es).msix = s.msix := rfl
@[simp] theorem State.later_report (s : State) (es : List Ev) : (s.later es).report = s.report := rfl
@[simp] theorem State.later_hostCpl (s : State) (es : List Ev) : (s.later es).hostCpl = s.hostCpl := rfl
@[simp] theorem State.later_power (s : State) (es : List Ev) : (s.later es).power = s.power := rfl
@[simp] theorem State.later_cur (s : State) (es : List Ev) : (s.later es).cur = s.cur := rfl
@[simp] theorem State.later_phase (s : State) (es : List Ev) : (s.later es).phase = s.phase := rfl
@[simp] theorem State.later_ticks (s : State) (es : List Ev) : (s.later es).ticks = s.ticks := rfl
@[simp] theorem State.later_inputs (s : State) (es : List Ev) : (s.later es).inputs = s.inputs := rfl
@[simp] theorem State.later_fresh (s : State) (es : List Ev) : (s.later es).fresh = s.fresh := rfl
@[simp] theorem State.later_seq (s : State) (es : List Ev) : (s.later es).seq = s.seq := rfl

/-! ## State.now -/

@[simp] theorem State.now_gtc (s : State) (es : List Ev) : (s.now es).gtc = s.gtc := rfl
@[simp] theorem State.now_gtcRunning (s : State) (es : List Ev) : (s.now es).gtcRunning = s.gtcRunning := rfl
@[simp] theorem State.now_edge (s : State) (es : List Ev) : (s.now es).edge = s.edge := rfl
@[simp] theorem State.now_bootStep (s : State) (es : List Ev) : (s.now es).bootStep = s.bootStep := rfl
@[simp] theorem State.now_bootAt (s : State) (es : List Ev) : (s.now es).bootAt = s.bootAt := rfl
@[simp] theorem State.now_enabled (s : State) (es : List Ev) : (s.now es).enabled = s.enabled := rfl
@[simp] theorem State.now_customerPart (s : State) (es : List Ev) : (s.now es).customerPart = s.customerPart := rfl
@[simp] theorem State.now_meadows (s : State) (es : List Ev) : (s.now es).meadows = s.meadows := rfl
@[simp] theorem State.now_engines (s : State) (es : List Ev) : (s.now es).engines = s.engines := rfl
@[simp] theorem State.now_answers (s : State) (es : List Ev) : (s.now es).answers = s.answers := rfl
@[simp] theorem State.now_mem (s : State) (es : List Ev) : (s.now es).mem = s.mem := rfl
@[simp] theorem State.now_poisoned (s : State) (es : List Ev) : (s.now es).poisoned = s.poisoned := rfl
@[simp] theorem State.now_dramErr (s : State) (es : List Ev) : (s.now es).dramErr = s.dramErr := rfl
@[simp] theorem State.now_lineKey (s : State) (es : List Ev) : (s.now es).lineKey = s.lineKey := rfl
@[simp] theorem State.now_host (s : State) (es : List Ev) : (s.now es).host = s.host := rfl
@[simp] theorem State.now_keys (s : State) (es : List Ev) : (s.now es).keys = s.keys := rfl
@[simp] theorem State.now_oldKeys (s : State) (es : List Ev) : (s.now es).oldKeys = s.oldKeys := rfl
@[simp] theorem State.now_wrapErased (s : State) (es : List Ev) : (s.now es).wrapErased = s.wrapErased := rfl
@[simp] theorem State.now_hcps (s : State) (es : List Ev) : (s.now es).hcps = s.hcps := rfl
@[simp] theorem State.now_hcmds (s : State) (es : List Ev) : (s.now es).hcmds = s.hcmds := rfl
@[simp] theorem State.now_landings (s : State) (es : List Ev) : (s.now es).landings = s.landings := rfl
@[simp] theorem State.now_arbiters (s : State) (es : List Ev) : (s.now es).arbiters = s.arbiters := rfl
@[simp] theorem State.now_nrctl (s : State) (es : List Ev) : (s.now es).nrctl = s.nrctl := rfl
@[simp] theorem State.now_nrseed (s : State) (es : List Ev) : (s.now es).nrseed = s.nrseed := rfl
@[simp] theorem State.now_logs (s : State) (es : List Ev) : (s.now es).logs = s.logs := rfl
@[simp] theorem State.now_lq (s : State) (es : List Ev) : (s.now es).lq = s.lq := rfl
@[simp] theorem State.now_launches (s : State) (es : List Ev) : (s.now es).launches = s.launches := rfl
@[simp] theorem State.now_claims (s : State) (es : List Ev) : (s.now es).claims = s.claims := rfl
@[simp] theorem State.now_regions (s : State) (es : List Ev) : (s.now es).regions = s.regions := rfl
@[simp] theorem State.now_nodes (s : State) (es : List Ev) : (s.now es).nodes = s.nodes := rfl
@[simp] theorem State.now_stopped (s : State) (es : List Ev) : (s.now es).stopped = s.stopped := rfl
@[simp] theorem State.now_gens (s : State) (es : List Ev) : (s.now es).gens = s.gens := rfl
@[simp] theorem State.now_saved (s : State) (es : List Ev) : (s.now es).saved = s.saved := rfl
@[simp] theorem State.now_pwrlim (s : State) (es : List Ev) : (s.now es).pwrlim = s.pwrlim := rfl
@[simp] theorem State.now_brlim (s : State) (es : List Ev) : (s.now es).brlim = s.brlim := rfl
@[simp] theorem State.now_thresh (s : State) (es : List Ev) : (s.now es).thresh = s.thresh := rfl
@[simp] theorem State.now_below (s : State) (es : List Ev) : (s.now es).below = s.below := rfl
@[simp] theorem State.now_mcirq (s : State) (es : List Ev) : (s.now es).mcirq = s.mcirq := rfl
@[simp] theorem State.now_mcirqSet (s : State) (es : List Ev) : (s.now es).mcirqSet = s.mcirqSet := rfl
@[simp] theorem State.now_bootcfg (s : State) (es : List Ev) : (s.now es).bootcfg = s.bootcfg := rfl
@[simp] theorem State.now_apbase (s : State) (es : List Ev) : (s.now es).apbase = s.apbase := rfl
@[simp] theorem State.now_apkey (s : State) (es : List Ev) : (s.now es).apkey = s.apkey := rfl
@[simp] theorem State.now_prq (s : State) (es : List Ev) : (s.now es).prq = s.prq := rfl
@[simp] theorem State.now_hrq (s : State) (es : List Ev) : (s.now es).hrq = s.hrq := rfl
@[simp] theorem State.now_hrqdb (s : State) (es : List Ev) : (s.now es).hrqdb = s.hrqdb := rfl
@[simp] theorem State.now_prqHeld (s : State) (es : List Ev) : (s.now es).prqHeld = s.prqHeld := rfl
@[simp] theorem State.now_pageReqs (s : State) (es : List Ev) : (s.now es).pageReqs = s.pageReqs := rfl
@[simp] theorem State.now_reclaims (s : State) (es : List Ev) : (s.now es).reclaims = s.reclaims := rfl
@[simp] theorem State.now_seqNo (s : State) (es : List Ev) : (s.now es).seqNo = s.seqNo := rfl
@[simp] theorem State.now_level (s : State) (es : List Ev) : (s.now es).level = s.level := rfl
@[simp] theorem State.now_alarmSrc (s : State) (es : List Ev) : (s.now es).alarmSrc = s.alarmSrc := rfl
@[simp] theorem State.now_wepoch (s : State) (es : List Ev) : (s.now es).wepoch = s.wepoch := rfl
@[simp] theorem State.now_seccfg (s : State) (es : List Ev) : (s.now es).seccfg = s.seccfg := rfl
@[simp] theorem State.now_eraseAt (s : State) (es : List Ev) : (s.now es).eraseAt = s.eraseAt := rfl
@[simp] theorem State.now_alarmAt (s : State) (es : List Ev) : (s.now es).alarmAt = s.alarmAt := rfl
@[simp] theorem State.now_removed (s : State) (es : List Ev) : (s.now es).removed = s.removed := rfl
@[simp] theorem State.now_elogsel (s : State) (es : List Ev) : (s.now es).elogsel = s.elogsel := rfl
@[simp] theorem State.now_fvxaddr (s : State) (es : List Ev) : (s.now es).fvxaddr = s.fvxaddr := rfl
@[simp] theorem State.now_fvxsync (s : State) (es : List Ev) : (s.now es).fvxsync = s.fvxsync := rfl
@[simp] theorem State.now_portFailed (s : State) (es : List Ev) : (s.now es).portFailed = s.portFailed := rfl
@[simp] theorem State.now_tcm (s : State) (es : List Ev) : (s.now es).tcm = s.tcm := rfl
@[simp] theorem State.now_hart (s : State) (es : List Ev) : (s.now es).hart = s.hart := rfl
@[simp] theorem State.now_gen (s : State) (es : List Ev) : (s.now es).gen = s.gen := rfl
@[simp] theorem State.now_identity (s : State) (es : List Ev) : (s.now es).identity = s.identity := rfl
@[simp] theorem State.now_leaf (s : State) (es : List Ev) : (s.now es).leaf = s.leaf := rfl
@[simp] theorem State.now_debugOpen (s : State) (es : List Ev) : (s.now es).debugOpen = s.debugOpen := rfl
@[simp] theorem State.now_firmware (s : State) (es : List Ev) : (s.now es).firmware = s.firmware := rfl
@[simp] theorem State.now_bootLeaf (s : State) (es : List Ev) : (s.now es).bootLeaf = s.bootLeaf := rfl
@[simp] theorem State.now_msix (s : State) (es : List Ev) : (s.now es).msix = s.msix := rfl
@[simp] theorem State.now_report (s : State) (es : List Ev) : (s.now es).report = s.report := rfl
@[simp] theorem State.now_hostCpl (s : State) (es : List Ev) : (s.now es).hostCpl = s.hostCpl := rfl
@[simp] theorem State.now_power (s : State) (es : List Ev) : (s.now es).power = s.power := rfl
@[simp] theorem State.now_cur (s : State) (es : List Ev) : (s.now es).cur = s.cur := rfl
@[simp] theorem State.now_phase (s : State) (es : List Ev) : (s.now es).phase = s.phase := rfl
@[simp] theorem State.now_ticks (s : State) (es : List Ev) : (s.now es).ticks = s.ticks := rfl
@[simp] theorem State.now_inputs (s : State) (es : List Ev) : (s.now es).inputs = s.inputs := rfl
@[simp] theorem State.now_fresh (s : State) (es : List Ev) : (s.now es).fresh = s.fresh := rfl
@[simp] theorem State.now_seq (s : State) (es : List Ev) : (s.now es).seq = s.seq := rfl

/-! ## State.setCore -/

@[simp] theorem State.setCore_gtc (s : State) (k : SCore) : (s.setCore k).gtc = s.gtc := by unfold State.setCore; split <;> rfl
@[simp] theorem State.setCore_gtcRunning (s : State) (k : SCore) : (s.setCore k).gtcRunning = s.gtcRunning := by unfold State.setCore; split <;> rfl
@[simp] theorem State.setCore_edge (s : State) (k : SCore) : (s.setCore k).edge = s.edge := by unfold State.setCore; split <;> rfl
@[simp] theorem State.setCore_bootStep (s : State) (k : SCore) : (s.setCore k).bootStep = s.bootStep := by unfold State.setCore; split <;> rfl
@[simp] theorem State.setCore_bootAt (s : State) (k : SCore) : (s.setCore k).bootAt = s.bootAt := by unfold State.setCore; split <;> rfl
@[simp] theorem State.setCore_enabled (s : State) (k : SCore) : (s.setCore k).enabled = s.enabled := by unfold State.setCore; split <;> rfl
@[simp] theorem State.setCore_customerPart (s : State) (k : SCore) : (s.setCore k).customerPart = s.customerPart := by unfold State.setCore; split <;> rfl
@[simp] theorem State.setCore_engines (s : State) (k : SCore) : (s.setCore k).engines = s.engines := by unfold State.setCore; split <;> rfl
@[simp] theorem State.setCore_answers (s : State) (k : SCore) : (s.setCore k).answers = s.answers := by unfold State.setCore; split <;> rfl
@[simp] theorem State.setCore_mem (s : State) (k : SCore) : (s.setCore k).mem = s.mem := by unfold State.setCore; split <;> rfl
@[simp] theorem State.setCore_poisoned (s : State) (k : SCore) : (s.setCore k).poisoned = s.poisoned := by unfold State.setCore; split <;> rfl
@[simp] theorem State.setCore_dramErr (s : State) (k : SCore) : (s.setCore k).dramErr = s.dramErr := by unfold State.setCore; split <;> rfl
@[simp] theorem State.setCore_lineKey (s : State) (k : SCore) : (s.setCore k).lineKey = s.lineKey := by unfold State.setCore; split <;> rfl
@[simp] theorem State.setCore_host (s : State) (k : SCore) : (s.setCore k).host = s.host := by unfold State.setCore; split <;> rfl
@[simp] theorem State.setCore_keys (s : State) (k : SCore) : (s.setCore k).keys = s.keys := by unfold State.setCore; split <;> rfl
@[simp] theorem State.setCore_oldKeys (s : State) (k : SCore) : (s.setCore k).oldKeys = s.oldKeys := by unfold State.setCore; split <;> rfl
@[simp] theorem State.setCore_wrapErased (s : State) (k : SCore) : (s.setCore k).wrapErased = s.wrapErased := by unfold State.setCore; split <;> rfl
@[simp] theorem State.setCore_hcmds (s : State) (k : SCore) : (s.setCore k).hcmds = s.hcmds := by unfold State.setCore; split <;> rfl
@[simp] theorem State.setCore_landings (s : State) (k : SCore) : (s.setCore k).landings = s.landings := by unfold State.setCore; split <;> rfl
@[simp] theorem State.setCore_arbiters (s : State) (k : SCore) : (s.setCore k).arbiters = s.arbiters := by unfold State.setCore; split <;> rfl
@[simp] theorem State.setCore_nrctl (s : State) (k : SCore) : (s.setCore k).nrctl = s.nrctl := by unfold State.setCore; split <;> rfl
@[simp] theorem State.setCore_nrseed (s : State) (k : SCore) : (s.setCore k).nrseed = s.nrseed := by unfold State.setCore; split <;> rfl
@[simp] theorem State.setCore_logs (s : State) (k : SCore) : (s.setCore k).logs = s.logs := by unfold State.setCore; split <;> rfl
@[simp] theorem State.setCore_lq (s : State) (k : SCore) : (s.setCore k).lq = s.lq := by unfold State.setCore; split <;> rfl
@[simp] theorem State.setCore_launches (s : State) (k : SCore) : (s.setCore k).launches = s.launches := by unfold State.setCore; split <;> rfl
@[simp] theorem State.setCore_claims (s : State) (k : SCore) : (s.setCore k).claims = s.claims := by unfold State.setCore; split <;> rfl
@[simp] theorem State.setCore_regions (s : State) (k : SCore) : (s.setCore k).regions = s.regions := by unfold State.setCore; split <;> rfl
@[simp] theorem State.setCore_nodes (s : State) (k : SCore) : (s.setCore k).nodes = s.nodes := by unfold State.setCore; split <;> rfl
@[simp] theorem State.setCore_stopped (s : State) (k : SCore) : (s.setCore k).stopped = s.stopped := by unfold State.setCore; split <;> rfl
@[simp] theorem State.setCore_gens (s : State) (k : SCore) : (s.setCore k).gens = s.gens := by unfold State.setCore; split <;> rfl
@[simp] theorem State.setCore_saved (s : State) (k : SCore) : (s.setCore k).saved = s.saved := by unfold State.setCore; split <;> rfl
@[simp] theorem State.setCore_pwrlim (s : State) (k : SCore) : (s.setCore k).pwrlim = s.pwrlim := by unfold State.setCore; split <;> rfl
@[simp] theorem State.setCore_brlim (s : State) (k : SCore) : (s.setCore k).brlim = s.brlim := by unfold State.setCore; split <;> rfl
@[simp] theorem State.setCore_thresh (s : State) (k : SCore) : (s.setCore k).thresh = s.thresh := by unfold State.setCore; split <;> rfl
@[simp] theorem State.setCore_below (s : State) (k : SCore) : (s.setCore k).below = s.below := by unfold State.setCore; split <;> rfl
@[simp] theorem State.setCore_mcirq (s : State) (k : SCore) : (s.setCore k).mcirq = s.mcirq := by unfold State.setCore; split <;> rfl
@[simp] theorem State.setCore_mcirqSet (s : State) (k : SCore) : (s.setCore k).mcirqSet = s.mcirqSet := by unfold State.setCore; split <;> rfl
@[simp] theorem State.setCore_bootcfg (s : State) (k : SCore) : (s.setCore k).bootcfg = s.bootcfg := by unfold State.setCore; split <;> rfl
@[simp] theorem State.setCore_apbase (s : State) (k : SCore) : (s.setCore k).apbase = s.apbase := by unfold State.setCore; split <;> rfl
@[simp] theorem State.setCore_apkey (s : State) (k : SCore) : (s.setCore k).apkey = s.apkey := by unfold State.setCore; split <;> rfl
@[simp] theorem State.setCore_prq (s : State) (k : SCore) : (s.setCore k).prq = s.prq := by unfold State.setCore; split <;> rfl
@[simp] theorem State.setCore_hrq (s : State) (k : SCore) : (s.setCore k).hrq = s.hrq := by unfold State.setCore; split <;> rfl
@[simp] theorem State.setCore_hrqdb (s : State) (k : SCore) : (s.setCore k).hrqdb = s.hrqdb := by unfold State.setCore; split <;> rfl
@[simp] theorem State.setCore_prqHeld (s : State) (k : SCore) : (s.setCore k).prqHeld = s.prqHeld := by unfold State.setCore; split <;> rfl
@[simp] theorem State.setCore_pageReqs (s : State) (k : SCore) : (s.setCore k).pageReqs = s.pageReqs := by unfold State.setCore; split <;> rfl
@[simp] theorem State.setCore_reclaims (s : State) (k : SCore) : (s.setCore k).reclaims = s.reclaims := by unfold State.setCore; split <;> rfl
@[simp] theorem State.setCore_seqNo (s : State) (k : SCore) : (s.setCore k).seqNo = s.seqNo := by unfold State.setCore; split <;> rfl
@[simp] theorem State.setCore_level (s : State) (k : SCore) : (s.setCore k).level = s.level := by unfold State.setCore; split <;> rfl
@[simp] theorem State.setCore_alarmSrc (s : State) (k : SCore) : (s.setCore k).alarmSrc = s.alarmSrc := by unfold State.setCore; split <;> rfl
@[simp] theorem State.setCore_wepoch (s : State) (k : SCore) : (s.setCore k).wepoch = s.wepoch := by unfold State.setCore; split <;> rfl
@[simp] theorem State.setCore_seccfg (s : State) (k : SCore) : (s.setCore k).seccfg = s.seccfg := by unfold State.setCore; split <;> rfl
@[simp] theorem State.setCore_eraseAt (s : State) (k : SCore) : (s.setCore k).eraseAt = s.eraseAt := by unfold State.setCore; split <;> rfl
@[simp] theorem State.setCore_alarmAt (s : State) (k : SCore) : (s.setCore k).alarmAt = s.alarmAt := by unfold State.setCore; split <;> rfl
@[simp] theorem State.setCore_removed (s : State) (k : SCore) : (s.setCore k).removed = s.removed := by unfold State.setCore; split <;> rfl
@[simp] theorem State.setCore_elogsel (s : State) (k : SCore) : (s.setCore k).elogsel = s.elogsel := by unfold State.setCore; split <;> rfl
@[simp] theorem State.setCore_fvxaddr (s : State) (k : SCore) : (s.setCore k).fvxaddr = s.fvxaddr := by unfold State.setCore; split <;> rfl
@[simp] theorem State.setCore_fvxsync (s : State) (k : SCore) : (s.setCore k).fvxsync = s.fvxsync := by unfold State.setCore; split <;> rfl
@[simp] theorem State.setCore_portFailed (s : State) (k : SCore) : (s.setCore k).portFailed = s.portFailed := by unfold State.setCore; split <;> rfl
@[simp] theorem State.setCore_tcm (s : State) (k : SCore) : (s.setCore k).tcm = s.tcm := by unfold State.setCore; split <;> rfl
@[simp] theorem State.setCore_hart (s : State) (k : SCore) : (s.setCore k).hart = s.hart := by unfold State.setCore; split <;> rfl
@[simp] theorem State.setCore_gen (s : State) (k : SCore) : (s.setCore k).gen = s.gen := by unfold State.setCore; split <;> rfl
@[simp] theorem State.setCore_identity (s : State) (k : SCore) : (s.setCore k).identity = s.identity := by unfold State.setCore; split <;> rfl
@[simp] theorem State.setCore_leaf (s : State) (k : SCore) : (s.setCore k).leaf = s.leaf := by unfold State.setCore; split <;> rfl
@[simp] theorem State.setCore_debugOpen (s : State) (k : SCore) : (s.setCore k).debugOpen = s.debugOpen := by unfold State.setCore; split <;> rfl
@[simp] theorem State.setCore_firmware (s : State) (k : SCore) : (s.setCore k).firmware = s.firmware := by unfold State.setCore; split <;> rfl
@[simp] theorem State.setCore_bootLeaf (s : State) (k : SCore) : (s.setCore k).bootLeaf = s.bootLeaf := by unfold State.setCore; split <;> rfl
@[simp] theorem State.setCore_msix (s : State) (k : SCore) : (s.setCore k).msix = s.msix := by unfold State.setCore; split <;> rfl
@[simp] theorem State.setCore_report (s : State) (k : SCore) : (s.setCore k).report = s.report := by unfold State.setCore; split <;> rfl
@[simp] theorem State.setCore_hostCpl (s : State) (k : SCore) : (s.setCore k).hostCpl = s.hostCpl := by unfold State.setCore; split <;> rfl
@[simp] theorem State.setCore_power (s : State) (k : SCore) : (s.setCore k).power = s.power := by unfold State.setCore; split <;> rfl
@[simp] theorem State.setCore_cur (s : State) (k : SCore) : (s.setCore k).cur = s.cur := by unfold State.setCore; split <;> rfl
@[simp] theorem State.setCore_agenda (s : State) (k : SCore) : (s.setCore k).agenda = s.agenda := by unfold State.setCore; split <;> rfl
@[simp] theorem State.setCore_phase (s : State) (k : SCore) : (s.setCore k).phase = s.phase := by unfold State.setCore; split <;> rfl
@[simp] theorem State.setCore_ticks (s : State) (k : SCore) : (s.setCore k).ticks = s.ticks := by unfold State.setCore; split <;> rfl
@[simp] theorem State.setCore_inputs (s : State) (k : SCore) : (s.setCore k).inputs = s.inputs := by unfold State.setCore; split <;> rfl
@[simp] theorem State.setCore_fresh (s : State) (k : SCore) : (s.setCore k).fresh = s.fresh := by unfold State.setCore; split <;> rfl
@[simp] theorem State.setCore_seq (s : State) (k : SCore) : (s.setCore k).seq = s.seq := by unfold State.setCore; split <;> rfl

/-! ## Reads after updates -/

@[simp] theorem State.setMdw_mdw (s : State) (c : Nat) (m : Meadow) : (s.setMdw c m).mdw c = m := tgetD_tput_self _ _ _ _
theorem State.setMdw_mdw_ne (s : State) {c d : Nat} (m : Meadow) (h : d ≠ c) : (s.setMdw c m).mdw d = s.mdw d := tgetD_tput_ne _ _ _ h
@[simp] theorem State.modMdw_mdw (s : State) (c : Nat) (f : Meadow → Meadow) : (s.modMdw c f).mdw c = f (s.mdw c) := tgetD_tput_self _ _ _ _
theorem State.modMdw_mdw_ne (s : State) {c d : Nat} (f : Meadow → Meadow) (h : d ≠ c) : (s.modMdw c f).mdw d = s.mdw d :=
  tgetD_tput_ne _ _ _ h
@[simp] theorem Meadow.setCtx_ctx (m : Meadow) (x : Nat) (k : Ctx) : (m.setCtx x k).ctx x = k := tgetD_tput_self _ _ _ _
theorem Meadow.setCtx_ctx_ne (m : Meadow) {x y : Nat} (k : Ctx) (h : y ≠ x) : (m.setCtx x k).ctx y = m.ctx y := tgetD_tput_ne _ _ _ h
@[simp] theorem Meadow.modCtx_ctx (m : Meadow) (x : Nat) (f : Ctx → Ctx) : (m.modCtx x f).ctx x = f (m.ctx x) := tgetD_tput_self _ _ _ _
@[simp] theorem State.modCtx_mdw (s : State) (c x : Nat) (f : Ctx → Ctx) : (s.modCtx c x f).mdw c = (s.mdw c).modCtx x f :=
  tgetD_tput_self _ _ _ _
@[simp] theorem State.modCtx_ctx (s : State) (c x : Nat) (f : Ctx → Ctx) : (s.modCtx c x f).ctx c x = f (s.ctx c x) := by
  simp [State.ctx]
@[simp] theorem State.modHcp_hcp (s : State) (h : Nat) (f : Hcp → Hcp) : (s.modHcp h f).hcp h = f (s.hcp h) := tgetD_tput_self _ _ _ _
theorem State.modHcp_hcp_ne (s : State) {h i : Nat} (f : Hcp → Hcp) (e : i ≠ h) : (s.modHcp h f).hcp i = s.hcp i := tgetD_tput_ne _ _ _ e
@[simp] theorem State.modEng_eng (s : State) (d : Nat) (f : SyncEngine → SyncEngine) : (s.modEng d f).eng d = f (s.eng d) :=
  tgetD_tput_self _ _ _ _
@[simp] theorem State.modArb_arb (s : State) (p : Nat) (f : Arbiter → Arbiter) : (s.modArb p f).arb p = f (s.arb p) :=
  tgetD_tput_self _ _ _ _

/-! ## Meadow.modCtx -/

@[simp] theorem Meadow.modCtx_region (m : Meadow) (x : Nat) (f : Ctx → Ctx) : (m.modCtx x f).region = m.region := rfl
@[simp] theorem Meadow.modCtx_rank (m : Meadow) (x : Nat) (f : Ctx → Ctx) : (m.modCtx x f).rank = m.rank := rfl
@[simp] theorem Meadow.modCtx_timed (m : Meadow) (x : Nat) (f : Ctx → Ctx) : (m.modCtx x f).timed = m.timed := rfl
@[simp] theorem Meadow.modCtx_mtc (m : Meadow) (x : Nat) (f : Ctx → Ctx) : (m.modCtx x f).mtc = m.mtc := rfl
@[simp] theorem Meadow.modCtx_frozen (m : Meadow) (x : Nat) (f : Ctx → Ctx) : (m.modCtx x f).frozen = m.frozen := rfl
@[simp] theorem Meadow.modCtx_rows (m : Meadow) (x : Nat) (f : Ctx → Ctx) : (m.modCtx x f).rows = m.rows := rfl
@[simp] theorem Meadow.modCtx_rowPoison (m : Meadow) (x : Nat) (f : Ctx → Ctx) : (m.modCtx x f).rowPoison = m.rowPoison := rfl
@[simp] theorem Meadow.modCtx_tileType (m : Meadow) (x : Nat) (f : Ctx → Ctx) : (m.modCtx x f).tileType = m.tileType := rfl
@[simp] theorem Meadow.modCtx_tileFull (m : Meadow) (x : Nat) (f : Ctx → Ctx) : (m.modCtx x f).tileFull = m.tileFull := rfl
@[simp] theorem Meadow.modCtx_tileOld (m : Meadow) (x : Nat) (f : Ctx → Ctx) : (m.modCtx x f).tileOld = m.tileOld := rfl
@[simp] theorem Meadow.modCtx_tileRel (m : Meadow) (x : Nat) (f : Ctx → Ctx) : (m.modCtx x f).tileRel = m.tileRel := rfl
@[simp] theorem Meadow.modCtx_late (m : Meadow) (x : Nat) (f : Ctx → Ctx) : (m.modCtx x f).late = m.late := rfl
@[simp] theorem Meadow.modCtx_bregs (m : Meadow) (x : Nat) (f : Ctx → Ctx) : (m.modCtx x f).bregs = m.bregs := rfl
@[simp] theorem Meadow.modCtx_spad (m : Meadow) (x : Nat) (f : Ctx → Ctx) : (m.modCtx x f).spad = m.spad := rfl
@[simp] theorem Meadow.modCtx_badWords (m : Meadow) (x : Nat) (f : Ctx → Ctx) : (m.modCtx x f).badWords = m.badWords := rfl
@[simp] theorem Meadow.modCtx_ecc (m : Meadow) (x : Nat) (f : Ctx → Ctx) : (m.modCtx x f).ecc = m.ecc := rfl
@[simp] theorem Meadow.modCtx_sbf (m : Meadow) (x : Nat) (f : Ctx → Ctx) : (m.modCtx x f).sbf = m.sbf := rfl
@[simp] theorem Meadow.modCtx_tags (m : Meadow) (x : Nat) (f : Ctx → Ctx) : (m.modCtx x f).tags = m.tags := rfl
@[simp] theorem Meadow.modCtx_bufs (m : Meadow) (x : Nat) (f : Ctx → Ctx) : (m.modCtx x f).bufs = m.bufs := rfl
@[simp] theorem Meadow.modCtx_ring (m : Meadow) (x : Nat) (f : Ctx → Ctx) : (m.modCtx x f).ring = m.ring := rfl
@[simp] theorem Meadow.modCtx_topo (m : Meadow) (x : Nat) (f : Ctx → Ctx) : (m.modCtx x f).topo = m.topo := rfl
@[simp] theorem Meadow.modCtx_window (m : Meadow) (x : Nat) (f : Ctx → Ctx) : (m.modCtx x f).window = m.window := rfl
@[simp] theorem Meadow.modCtx_windowImage (m : Meadow) (x : Nat) (f : Ctx → Ctx) : (m.modCtx x f).windowImage = m.windowImage := rfl
@[simp] theorem Meadow.modCtx_twld (m : Meadow) (x : Nat) (f : Ctx → Ctx) : (m.modCtx x f).twld = m.twld := rfl
@[simp] theorem Meadow.modCtx_ageLimit (m : Meadow) (x : Nat) (f : Ctx → Ctx) : (m.modCtx x f).ageLimit = m.ageLimit := rfl
@[simp] theorem Meadow.modCtx_prio (m : Meadow) (x : Nat) (f : Ctx → Ctx) : (m.modCtx x f).prio = m.prio := rfl
@[simp] theorem Meadow.modCtx_emeter (m : Meadow) (x : Nat) (f : Ctx → Ctx) : (m.modCtx x f).emeter = m.emeter := rfl
@[simp] theorem Meadow.modCtx_charged (m : Meadow) (x : Nat) (f : Ctx → Ctx) : (m.modCtx x f).charged = m.charged := rfl
@[simp] theorem Meadow.modCtx_mbpol (m : Meadow) (x : Nat) (f : Ctx → Ctx) : (m.modCtx x f).mbpol = m.mbpol := rfl
@[simp] theorem Meadow.modCtx_mbpolOld (m : Meadow) (x : Nat) (f : Ctx → Ctx) : (m.modCtx x f).mbpolOld = m.mbpolOld := rfl
@[simp] theorem Meadow.modCtx_missCount (m : Meadow) (x : Nat) (f : Ctx → Ctx) : (m.modCtx x f).missCount = m.missCount := rfl
@[simp] theorem Meadow.modCtx_beatLimit (m : Meadow) (x : Nat) (f : Ctx → Ctx) : (m.modCtx x f).beatLimit = m.beatLimit := rfl
@[simp] theorem Meadow.modCtx_beatEnd (m : Meadow) (x : Nat) (f : Ctx → Ctx) : (m.modCtx x f).beatEnd = m.beatEnd := rfl
@[simp] theorem Meadow.modCtx_flights (m : Meadow) (x : Nat) (f : Ctx → Ctx) : (m.modCtx x f).flights = m.flights := rfl
@[simp] theorem Meadow.modCtx_units (m : Meadow) (x : Nat) (f : Ctx → Ctx) : (m.modCtx x f).units = m.units := rfl
@[simp] theorem Meadow.modCtx_tileSteps (m : Meadow) (x : Nat) (f : Ctx → Ctx) : (m.modCtx x f).tileSteps = m.tileSteps := rfl
@[simp] theorem Meadow.modCtx_mops (m : Meadow) (x : Nat) (f : Ctx → Ctx) : (m.modCtx x f).mops = m.mops := rfl
@[simp] theorem Meadow.modCtx_beat (m : Meadow) (x : Nat) (f : Ctx → Ctx) : (m.modCtx x f).beat = m.beat := rfl
@[simp] theorem Meadow.modCtx_beatReqs (m : Meadow) (x : Nat) (f : Ctx → Ctx) : (m.modCtx x f).beatReqs = m.beatReqs := rfl
@[simp] theorem Meadow.modCtx_tvec (m : Meadow) (x : Nat) (f : Ctx → Ctx) : (m.modCtx x f).tvec = m.tvec := rfl
@[simp] theorem Meadow.modCtx_relmask (m : Meadow) (x : Nat) (f : Ctx → Ctx) : (m.modCtx x f).relmask = m.relmask := rfl
@[simp] theorem Meadow.modCtx_stages (m : Meadow) (x : Nat) (f : Ctx → Ctx) : (m.modCtx x f).stages = m.stages := rfl
@[simp] theorem Meadow.modCtx_lastStage (m : Meadow) (x : Nat) (f : Ctx → Ctx) : (m.modCtx x f).lastStage = m.lastStage := rfl
@[simp] theorem Meadow.modCtx_stopping (m : Meadow) (x : Nat) (f : Ctx → Ctx) : (m.modCtx x f).stopping = m.stopping := rfl
@[simp] theorem Meadow.modCtx_seTurn (m : Meadow) (x : Nat) (f : Ctx → Ctx) : (m.modCtx x f).seTurn = m.seTurn := rfl
@[simp] theorem Meadow.modCtx_ports (m : Meadow) (x : Nat) (f : Ctx → Ctx) : (m.modCtx x f).ports = m.ports := rfl
@[simp] theorem Meadow.modCtx_seBytes (m : Meadow) (x : Nat) (f : Ctx → Ctx) : (m.modCtx x f).seBytes = m.seBytes := rfl

/-! ## The scalar core -/

/-- A core written is the core read, for an agent that has one. -/
theorem State.setCore_core (s : State) (k : SCore) (h : s.cur ≠ .device) : (s.setCore k).core = k := by
  unfold State.setCore State.core
  cases hc : s.cur with
  | stream c x st => simp [hc]
  | hcp n => simp [hc]
  | device => exact absurd hc h

@[simp] theorem SCore.set_pc (k : SCore) (r : Nat) (v : W32) : (k.set r v).pc = k.pc := by unfold SCore.set; split <;> rfl
@[simp] theorem SCore.set_nextAt (k : SCore) (r : Nat) (v : W32) : (k.set r v).nextAt = k.nextAt := by unfold SCore.set; split <;> rfl
@[simp] theorem SCore.set_pend (k : SCore) (r : Nat) (v : W32) : (k.set r v).pend = k.pend := by unfold SCore.set; split <;> rfl
@[simp] theorem SCore.push_pc (k : SCore) (r d : Nat) (v : W32) : (k.push r d v).pc = k.pc := by unfold SCore.push; split <;> rfl
@[simp] theorem SCore.push_nextAt (k : SCore) (r d : Nat) (v : W32) : (k.push r d v).nextAt = k.nextAt := by unfold SCore.push; split <;> rfl
@[simp] theorem SCore.push_regs (k : SCore) (r d : Nat) (v : W32) : (k.push r d v).regs = k.regs := by unfold SCore.push; split <;> rfl
@[simp] theorem SCore.pushD_pc (k : SCore) (n d : Nat) (v : W64) : (k.pushD n d v).pc = k.pc := by simp [SCore.pushD]
@[simp] theorem SCore.pushD_nextAt (k : SCore) (n d : Nat) (v : W64) : (k.pushD n d v).nextAt = k.nextAt := by simp [SCore.pushD]
@[simp] theorem SCore.pushD_regs (k : SCore) (n d : Nat) (v : W64) : (k.pushD n d v).regs = k.regs := by simp [SCore.pushD]

@[simp] theorem SCore.get_zero (k : SCore) : k.get 0 = 0 := rfl
theorem SCore.get_set_self (k : SCore) (r : Nat) (v : W32) (h : r ≠ 0) : (k.set r v).get r = v := by simp [SCore.set, SCore.get, h]
theorem SCore.get_set_ne (k : SCore) {r q : Nat} (v : W32) (h : q ≠ r) : (k.set r v).get q = k.get q := by
  unfold SCore.set SCore.get
  by_cases h0 : r = 0
  · simp [h0]
  · rw [if_neg h0, tgetD_tputD_ne _ _ _ _ h]

end Sys2Proof.Machine
end

