-- ==== Sys2Proof/Laws/Scalar.lean ====
section
/-! SUPPORT. What issuing an S-word does, in terms of what each register is seen to hold: one lemma per shared operation. -/
namespace Sys2Proof.Machine

/-! ## Results in flight -/

/-- What register r of a core shows in cycle d, as `seen` says it of the executing core. -/
def SCore.shows (k : SCore) (d r : Nat) : W32 :=
  if r = 0 then 0
  else (k.pend.foldl (fun b p => if p.reg = r ∧ p.due ≤ d ∧ b.1 ≤ p.due then (p.due, p.val) else b) (0, k.get r)).2

theorem SCore.shows_congr {k j : SCore} (hr : k.regs = j.regs) (hp : k.pend = j.pend) (d r : Nat) : k.shows d r = j.shows d r := by
  simp [SCore.shows, SCore.get, hr, hp]

/-- The cycle of the result that is seen is bounded by every bound of the results in flight. -/
theorem shows_fold_le (l : List PendReg) (d r due : Nat) (b : Nat × W32) (hb : b.1 ≤ due)
    (h : ∀ p ∈ l, p.reg = r → p.due ≤ d → p.due ≤ due) :
    (l.foldl (fun b p => if p.reg = r ∧ p.due ≤ d ∧ b.1 ≤ p.due then (p.due, p.val) else b) b).1 ≤ due := by
  induction l generalizing b with
  | nil => exact hb
  | cons p l ih =>
    refine ih _ ?_ fun q hq => h q (List.mem_cons_of_mem _ hq)
    by_cases e : p.reg = r ∧ p.due ≤ d ∧ b.1 ≤ p.due
    · simp only [e, and_self, if_true]; exact h p List.mem_cons_self e.1 e.2.1
    · simp only [e, if_false]; exact hb

/-- A result put in flight is seen from its cycle on, unless a later one overtakes it. -/
theorem SCore.shows_push_self (k : SCore) (r due : Nat) (v : W32) (d : Nat) (hd : due ≤ d) (h0 : r ≠ 0)
    (h : ∀ p ∈ k.pend, p.reg = r → p.due ≤ d → p.due ≤ due) : (k.push r due v).shows d r = v := by
  have hle := shows_fold_le k.pend d r due (0, k.get r) (Nat.zero_le _) h
  simp only [SCore.shows, h0, if_false, SCore.push, List.foldl_append, List.foldl_cons, List.foldl_nil]
  have hg : ({ k with pend := k.pend ++ [⟨r, due, v, k.nextAt⟩] } : SCore).get r = k.get r := rfl
  rw [hg, if_pos ⟨trivial, hd, hle⟩]

/-- Every other register, and every earlier cycle, shows what it did. -/
theorem SCore.shows_push_other (k : SCore) (r due : Nat) (v : W32) (d q : Nat) (h : q ≠ r ∨ d < due) :
    (k.push r due v).shows d q = k.shows d q := by
  by_cases h0 : r = 0
  · simp [SCore.push, h0]
  · by_cases hq : q = 0
    · simp [SCore.shows, hq]
    · simp only [SCore.shows, SCore.push, h0, hq, if_false, List.foldl_append, List.foldl_cons, List.foldl_nil]
      have hg : ({ k with pend := k.pend ++ [⟨r, due, v, k.nextAt⟩] } : SCore).get q = k.get q := rfl
      rw [hg, if_neg (fun e => by omega)]

/-! ## What is seen after an issue -/

/-- A core written whole is the frame of every S-word. -/
theorem issued_setCore (s : State) (k : SCore) (h : s.cur ≠ .device) : Issued s (s.setCore k) k.pc k.nextAt where
  frame := by rw [State.setCore_core s k h]
  mem := fun _ => by rw [State.setCore_mem]
  pc := by rw [State.setCore_core s k h]
  next := by rw [State.setCore_core s k h]

theorem seen_core {s : State} {k : SCore} (h : s.core = k) (d r : Nat) : seen s d r = k.shows d r := by
  simp only [seen, h, SCore.shows]

theorem regsSame_core {s t : State} (hr : t.core.regs = s.core.regs) (hp : t.core.pend = s.core.pend) : regsSame s t :=
  fun d r => SCore.shows_congr hr hp d r

theorem regGets_core {s t : State} {k : SCore} {r due : Nat} {v : W32} (h : t.core = k.push r due v) (hr : k.regs = s.core.regs)
    (hp : k.pend = s.core.pend) : RegGets s t due r v where
  after := by
    intro d hd hn
    rw [seen_core h]
    by_cases h0 : r = 0
    · simp [SCore.shows, h0]
    · rw [if_neg h0, SCore.shows_push_self k r due v d hd h0 (hp ▸ hn)]
  other := by
    intro d q hq
    rw [seen_core h, SCore.shows_push_other k r due v d q hq]
    exact SCore.shows_congr hr hp d q

theorem pairGets_core {s t : State} {k : SCore} {n due : Nat} {v : W64} (h : t.core = k.pushD n due v) (hr : k.regs = s.core.regs)
    (hp : k.pend = s.core.pend) : PairGets s t due n v where
  low := by
    intro d hd hn
    rw [seen_core h]
    unfold SCore.pushD
    rw [SCore.shows_push_other _ _ _ _ _ _ (Or.inl (by omega))]
    by_cases h0 : n = 0
    · subst h0; simp [SCore.shows]
    · rw [if_neg h0, SCore.shows_push_self k (2 * n) due _ d hd (by omega) (hp ▸ hn)]
  high := by
    intro d hd hn
    rw [seen_core h]
    unfold SCore.pushD
    refine SCore.shows_push_self _ _ _ _ d hd (by omega) ?_
    intro p hm hr' hdue
    by_cases h0 : n = 0
    · subst h0
      exact hn p (by simpa [SCore.push, hp] using hm) hr' hdue
    · have h2 : 2 * n ≠ 0 := by omega
      rw [SCore.push, if_neg h2] at hm
      rcases List.mem_append.mp hm with hm | hm
      · exact hn p (hp ▸ hm) hr' hdue
      · rw [List.mem_singleton.mp hm] at hr'
        simp at hr'
  other := by
    intro d q hq
    rw [seen_core h]
    unfold SCore.pushD
    rw [SCore.shows_push_other _ _ _ _ _ _ (by omega), SCore.shows_push_other _ _ _ _ _ _ (by omega)]
    exact SCore.shows_congr hr hp d q

theorem regsSame_setCore {s : State} {k : SCore} (h : s.cur ≠ .device) (hr : k.regs = s.core.regs) (hp : k.pend = s.core.pend) :
    regsSame s (s.setCore k) := regsSame_core (by rw [State.setCore_core s k h, hr]) (by rw [State.setCore_core s k h, hp])

theorem regGets_setCore {s : State} {k : SCore} (h : s.cur ≠ .device) (hr : k.regs = s.core.regs) (hp : k.pend = s.core.pend)
    (r due : Nat) (v : W32) : RegGets s (s.setCore (k.push r due v)) due r v := regGets_core (State.setCore_core s _ h) hr hp

theorem pairGets_setCore {s : State} {k : SCore} (h : s.cur ≠ .device) (hr : k.regs = s.core.regs) (hp : k.pend = s.core.pend)
    (n due : Nat) (v : W64) : PairGets s (s.setCore (k.pushD n due v)) due n v := pairGets_core (State.setCore_core s _ h) hr hp

/-! ## Shared operations -/

/-- A word whose registers are not held issues. -/
theorem sIssue_eq {s : State} {ic : BitVec 2} {regs : List Nat} {f : SCore → SCore} (hh : s.held regs = false) :
    sIssue s ic regs f = .next (s.setCore (f (s.core.advance ic s.clock))) := by simp [sIssue, hh]

theorem push_gives {s : State} (ic : BitVec 2) (lat rd : Nat) (v : W32) (hc : s.cur ≠ .device) :
    Issued s (s.setCore ((s.core.advance ic s.clock).push rd (s.clock + lat) v)) (s.core.pc + 4) (s.clock + icGap ic) ∧
      RegGets s (s.setCore ((s.core.advance ic s.clock).push rd (s.clock + lat) v)) (s.clock + lat) rd v :=
  ⟨by simpa [SCore.advance] using issued_setCore s ((s.core.advance ic s.clock).push rd (s.clock + lat) v) hc,
    @regGets_setCore s (s.core.advance ic s.clock) hc rfl rfl _ _ _⟩

theorem pushD_gives {s : State} (ic : BitVec 2) (lat n : Nat) (v : W64) (hc : s.cur ≠ .device) :
    Issued s (s.setCore ((s.core.advance ic s.clock).pushD n (s.clock + lat) v)) (s.core.pc + 4) (s.clock + icGap ic) ∧
      PairGets s (s.setCore ((s.core.advance ic s.clock).pushD n (s.clock + lat) v)) (s.clock + lat) n v :=
  ⟨by simpa [SCore.advance] using issued_setCore s ((s.core.advance ic s.clock).pushD n (s.clock + lat) v) hc,
    @pairGets_setCore s (s.core.advance ic s.clock) hc rfl rfl _ _ _⟩

theorem sAlu_gives {s : State} {lat : Nat} {f : W32 → W32 → W32} {ic : BitVec 2} {rd ra rb : BitVec 6} (hc : s.cur ≠ .device)
    (hh : s.held [rd.toNat, ra.toNat, rb.toNat] = false) :
    ∃ t, sAlu lat f ic rd ra rb s = .next t ∧ Issued s t (s.core.pc + 4) (s.clock + icGap ic) ∧
      RegGets s t (s.clock + lat) rd.toNat (f (s.core.get ra.toNat) (s.core.get rb.toNat)) :=
  ⟨_, sIssue_eq hh, push_gives ic lat _ _ hc⟩

theorem sAluImm_gives {s : State} {f : W32 → W32} {ic : BitVec 2} {rd ra : BitVec 6} (hc : s.cur ≠ .device)
    (hh : s.held [rd.toNat, ra.toNat] = false) :
    ∃ t, sAluImm f ic rd ra s = .next t ∧ Issued s t (s.core.pc + 4) (s.clock + icGap ic) ∧
      RegGets s t (s.clock + 1) rd.toNat (f (s.core.get ra.toNat)) :=
  ⟨_, sIssue_eq hh, push_gives ic 1 _ _ hc⟩

theorem sPair_gives {s : State} {f : W64 → W64} {regs : List Nat} {ic : BitVec 2} {rd ra : BitVec 5} (hc : s.cur ≠ .device)
    (hh : s.held (pairRegs rd ++ pairRegs ra ++ regs) = false) :
    ∃ t, sPair f regs ic rd ra s = .next t ∧ Issued s t (s.core.pc + 4) (s.clock + icGap ic) ∧
      PairGets s t (s.clock + 1) rd.toNat (f (s.core.getD ra.toNat)) :=
  ⟨_, sIssue_eq hh, pushD_gives ic 1 _ _ hc⟩

end Sys2Proof.Machine
end

