-- ==== Sys2Proof/Laws/Frames.lean ====
section
/-! SUPPORT. Frames of the updates that S-words make: a change to one context, to one meadow, or to a core. -/
namespace Sys2Proof.Machine

theorem State.core_stream {s : State} {c x : Nat} {st : StreamId} (h : s.cur = .stream c x st) : s.core = (s.ctx c x).sc := by
  simp [State.core, h]

theorem State.setCore_stream {s : State} {c x : Nat} {st : StreamId} (h : s.cur = .stream c x st) (k : SCore) :
    s.setCore k = s.modCtx c x fun t => { t with sc := k } := by simp [State.setCore, h]

theorem State.setCore_hcp {s : State} {h : Nat} (e : s.cur = .hcp h) (k : SCore) :
    s.setCore k = s.modHcp h fun t => { t with sc := k } := by simp [State.setCore, e]

theorem State.clock_stream {s : State} {c x : Nat} {st : StreamId} (h : s.cur = .stream c x st) : s.clock = (s.mdw c).mtc := by
  simp [State.clock, h]

theorem onlyCtx_modCtx (s : State) (c x : Nat) (f : Ctx → Ctx) : OnlyCtx s (s.modCtx c x f) c x where
  meadows := fun _ hd => State.modMdw_mdw_ne s _ hd
  ctxs := fun y hy => by simp only [State.ctx, State.modCtx_mdw, Meadow.modCtx, Meadow.setCtx_ctx_ne _ _ hy]
  shared := by simp [Meadow.modCtx, Meadow.setCtx]
  keys := rfl
  mem := fun _ => rfl

theorem onlyCtx_trans {s t u : State} {c x : Nat} (h : OnlyCtx s t c x) (g : OnlyCtx t u c x) : OnlyCtx s u c x where
  meadows := fun d hd => (g.meadows d hd).trans (h.meadows d hd)
  ctxs := fun y hy => (g.ctxs y hy).trans (h.ctxs y hy)
  shared := g.shared.trans h.shared
  keys := g.keys.trans h.keys
  mem := fun a => (g.mem a).trans (h.mem a)

theorem onlyMdw_modMdw (s : State) (c : Nat) (f : Meadow → Meadow) : OnlyMdw s (s.modMdw c f) c where
  meadows := fun _ hd => State.modMdw_mdw_ne s _ hd
  keys := rfl
  mem := fun _ => rfl

theorem onlyMdw_trans {s t u : State} {c : Nat} (h : OnlyMdw s t c) (g : OnlyMdw t u c) : OnlyMdw s u c where
  meadows := fun d hd => (g.meadows d hd).trans (h.meadows d hd)
  keys := g.keys.trans h.keys
  mem := fun a => (g.mem a).trans (h.mem a)

theorem onlyMdw_of_ctx {s t : State} {c x : Nat} (h : OnlyCtx s t c x) : OnlyMdw s t c := ⟨h.meadows, h.keys, h.mem⟩

/-- A state that differs from another outside meadows, keys and memory only. -/
theorem onlyCtx_of_eq {s t : State} (c x : Nat) (hm : t.meadows = s.meadows) (hk : t.keys = s.keys) (h : t.mem = s.mem) : OnlyCtx s t c x where
  meadows := fun d _ => by simp [State.mdw, hm]
  ctxs := fun y _ => by simp [State.ctx, State.mdw, hm]
  shared := by simp [State.mdw, hm]
  keys := hk
  mem := fun a => by simp [h]

/-! ## The arbiters' queues -/

/-- Two states with the same meadows, key slots, memory, executing agent and heath command processors. -/
def SameCore (s t : State) : Prop := t.meadows = s.meadows ∧ t.keys = s.keys ∧ t.mem = s.mem ∧ t.cur = s.cur ∧ t.hcps = s.hcps

theorem SameCore.refl (s : State) : SameCore s s := ⟨rfl, rfl, rfl, rfl, rfl⟩
theorem SameCore.trans {s t u : State} (h : SameCore s t) (g : SameCore t u) : SameCore s u :=
  ⟨g.1.trans h.1, g.2.1.trans h.2.1, g.2.2.1.trans h.2.2.1, g.2.2.2.1.trans h.2.2.2.1, g.2.2.2.2.trans h.2.2.2.2⟩

theorem sameCore_foldl {α : Type} (f : State → α → State) (h : ∀ s a, SameCore s (f s a)) (l : List α) (s : State) : SameCore s (l.foldl f s) := by
  induction l generalizing s with
  | nil => exact .refl s
  | cons a l ih => exact (h s a).trans (ih _)

theorem arbPut_frame (s : State) (pa : Nat) (r : ArbReq) (gran : Bool) : SameCore s (s.arbPut pa r gran) := by
  unfold State.arbPut
  split <;> exact ⟨rfl, rfl, rfl, rfl, rfl⟩

/-- Entering an access's requests changes arbiters only. -/
theorem arbEnter_frame (s : State) (id : Nat) (kind : ArbKind) (dl : Nat) (ps : List Part) (gran : Bool := false) :
    SameCore s (s.arbEnter id kind dl ps gran) := by
  refine sameCore_foldl _ (fun s p => ?_) ps s
  split
  · refine sameCore_foldl _ (fun s l => ?_) p.lines s
    split
    · exact .refl s
    · split
      · exact arbPut_frame ..
      · refine sameCore_foldl _ (fun s i => ?_) _ s
        dsimp only
        split
        · exact arbPut_frame ..
        · exact .refl s
  · exact .refl s

/-! ## What an S-word that changes its context leaves -/

theorem advanced_core {s t : State} {ic : BitVec 2} {k : SCore} (h : t.core = k) (hp : k.pc = s.core.pc + 4)
    (hn : k.nextAt = s.clock + icGap ic) : Advanced s t ic := ⟨by rw [h, hp], by rw [h, hn]⟩

/-! ## Key slots of earlier accesses (R363) -/

/-- Without a change of a key slot every access uses the slots as they are. -/
theorem keysAt_of_unchanged {s : State} (id : Nat) (h : s.oldKeys = []) : s.keysAt id = s.keys := by simp [State.keysAt, h]

theorem issuedAt_of_unchanged {s : State} (id : Nat) (h : s.oldKeys = []) : s.issuedAt id = s := by
  rw [State.issuedAt, keysAt_of_unchanged id h]

theorem underKeys_keys (s : State) (id : Nat) (f : State → State) : (s.underKeys id f).keys = s.keys := rfl

/-- A change of a slot is not seen by an access issued before it, and by every later one. -/
theorem setKey_keysAt (s : State) (slot id : Nat) (k : Option (BitVec 512)) (h : s.oldKeys = []) :
    tget ((s.setKey slot k).keysAt id) slot = if id < s.seq then tget s.keys slot else k := by
  by_cases hi : id < s.seq <;> simp only [State.keysAt, State.setKey, h, List.foldl_cons, List.foldl_nil, hi, if_true, if_false]
  · cases tget s.keys slot <;> simp [tget_tput_self, tget_tdel_self]
  · cases k <;> simp [tget_tput_self, tget_tdel_self]

end Sys2Proof.Machine
end

