-- ==== Sys2Proof/Laws/PerInstr.lean ====
section
/-! SUPPORT. One statement about every instruction as syntax, proved constructor by constructor: its word. -/
namespace Sys2Proof.Laws.Encoding

/-- The word of an instruction has the length of its stream's words and fits in it, and it is a word of that stream alone (R28, R30, R37);
an event or an input is no word. -/
def Statement (i : Instr) : Prop :=
  ∀ n w, encode i = some (n, w) → w < 2 ^ n ∧
    ((n = 32 ∧ encodeV i = none ∧ encodeM i = none) ∨ (n = 96 ∧ encodeS i = none ∧ encodeM i = none) ∨ (n = 192 ∧ encodeS i = none ∧ encodeV i = none))

theorem of_scalar {i : Instr} (hv : encodeV i = none) (hm : encodeM i = none) : Statement i := by
  intro n w h
  cases hs : encodeS i with
  | none => simp [encode, hs, hv, hm] at h
  | some x => simp [encode, hs] at h; obtain ⟨rfl, rfl⟩ := h; exact ⟨x.isLt, .inl ⟨rfl, hv, hm⟩⟩

theorem of_vector {i : Instr} (hs : encodeS i = none) (hm : encodeM i = none) : Statement i := by
  intro n w h
  cases hv : encodeV i with
  | none => simp [encode, hs, hv, hm] at h
  | some x => simp [encode, hs, hv] at h; obtain ⟨rfl, rfl⟩ := h; exact ⟨x.isLt, .inr (.inl ⟨rfl, hs, hm⟩)⟩

theorem of_matrix {i : Instr} (hs : encodeS i = none) (hv : encodeV i = none) : Statement i := by
  intro n w h
  cases hm : encodeM i with
  | none => simp [encode, hs, hv, hm] at h
  | some x => simp [encode, hs, hv, hm] at h; obtain ⟨rfl, rfl⟩ := h; exact ⟨x.isLt, .inr (.inr ⟨rfl, hs, hv⟩)⟩

end Sys2Proof.Laws.Encoding

namespace Sys2Proof

theorem Laws.Encoding.add (x0 x1 x2 x3) : Laws.Encoding.Statement (.add x0 x1 x2 x3) := Laws.Encoding.of_scalar rfl rfl
theorem Laws.Encoding.sub (x0 x1 x2 x3) : Laws.Encoding.Statement (.sub x0 x1 x2 x3) := Laws.Encoding.of_scalar rfl rfl
theorem Laws.Encoding.and (x0 x1 x2 x3) : Laws.Encoding.Statement (.and x0 x1 x2 x3) := Laws.Encoding.of_scalar rfl rfl
theorem Laws.Encoding.or (x0 x1 x2 x3) : Laws.Encoding.Statement (.or x0 x1 x2 x3) := Laws.Encoding.of_scalar rfl rfl
theorem Laws.Encoding.xor (x0 x1 x2 x3) : Laws.Encoding.Statement (.xor x0 x1 x2 x3) := Laws.Encoding.of_scalar rfl rfl
theorem Laws.Encoding.shl (x0 x1 x2 x3) : Laws.Encoding.Statement (.shl x0 x1 x2 x3) := Laws.Encoding.of_scalar rfl rfl
theorem Laws.Encoding.shr (x0 x1 x2 x3) : Laws.Encoding.Statement (.shr x0 x1 x2 x3) := Laws.Encoding.of_scalar rfl rfl
theorem Laws.Encoding.sra (x0 x1 x2 x3) : Laws.Encoding.Statement (.sra x0 x1 x2 x3) := Laws.Encoding.of_scalar rfl rfl
theorem Laws.Encoding.mul (x0 x1 x2 x3) : Laws.Encoding.Statement (.mul x0 x1 x2 x3) := Laws.Encoding.of_scalar rfl rfl
theorem Laws.Encoding.mulh (x0 x1 x2 x3) : Laws.Encoding.Statement (.mulh x0 x1 x2 x3) := Laws.Encoding.of_scalar rfl rfl
theorem Laws.Encoding.mulhu (x0 x1 x2 x3) : Laws.Encoding.Statement (.mulhu x0 x1 x2 x3) := Laws.Encoding.of_scalar rfl rfl
theorem Laws.Encoding.div (x0 x1 x2 x3) : Laws.Encoding.Statement (.div x0 x1 x2 x3) := Laws.Encoding.of_scalar rfl rfl
theorem Laws.Encoding.divu (x0 x1 x2 x3) : Laws.Encoding.Statement (.divu x0 x1 x2 x3) := Laws.Encoding.of_scalar rfl rfl
theorem Laws.Encoding.rem (x0 x1 x2 x3) : Laws.Encoding.Statement (.rem x0 x1 x2 x3) := Laws.Encoding.of_scalar rfl rfl
theorem Laws.Encoding.remu (x0 x1 x2 x3) : Laws.Encoding.Statement (.remu x0 x1 x2 x3) := Laws.Encoding.of_scalar rfl rfl
theorem Laws.Encoding.min (x0 x1 x2 x3) : Laws.Encoding.Statement (.min x0 x1 x2 x3) := Laws.Encoding.of_scalar rfl rfl
theorem Laws.Encoding.max (x0 x1 x2 x3) : Laws.Encoding.Statement (.max x0 x1 x2 x3) := Laws.Encoding.of_scalar rfl rfl
theorem Laws.Encoding.minu (x0 x1 x2 x3) : Laws.Encoding.Statement (.minu x0 x1 x2 x3) := Laws.Encoding.of_scalar rfl rfl
theorem Laws.Encoding.maxu (x0 x1 x2 x3) : Laws.Encoding.Statement (.maxu x0 x1 x2 x3) := Laws.Encoding.of_scalar rfl rfl
theorem Laws.Encoding.seq (x0 x1 x2 x3) : Laws.Encoding.Statement (.seq x0 x1 x2 x3) := Laws.Encoding.of_scalar rfl rfl
theorem Laws.Encoding.sne (x0 x1 x2 x3) : Laws.Encoding.Statement (.sne x0 x1 x2 x3) := Laws.Encoding.of_scalar rfl rfl
theorem Laws.Encoding.slt (x0 x1 x2 x3) : Laws.Encoding.Statement (.slt x0 x1 x2 x3) := Laws.Encoding.of_scalar rfl rfl
theorem Laws.Encoding.sltu (x0 x1 x2 x3) : Laws.Encoding.Statement (.sltu x0 x1 x2 x3) := Laws.Encoding.of_scalar rfl rfl
theorem Laws.Encoding.sge (x0 x1 x2 x3) : Laws.Encoding.Statement (.sge x0 x1 x2 x3) := Laws.Encoding.of_scalar rfl rfl
theorem Laws.Encoding.sgeu (x0 x1 x2 x3) : Laws.Encoding.Statement (.sgeu x0 x1 x2 x3) := Laws.Encoding.of_scalar rfl rfl
theorem Laws.Encoding.addd (x0 x1 x2 x3) : Laws.Encoding.Statement (.addd x0 x1 x2 x3) := Laws.Encoding.of_scalar rfl rfl
theorem Laws.Encoding.subd (x0 x1 x2 x3) : Laws.Encoding.Statement (.subd x0 x1 x2 x3) := Laws.Encoding.of_scalar rfl rfl
theorem Laws.Encoding.shld (x0 x1 x2 x3) : Laws.Encoding.Statement (.shld x0 x1 x2 x3) := Laws.Encoding.of_scalar rfl rfl
theorem Laws.Encoding.shrd (x0 x1 x2 x3) : Laws.Encoding.Statement (.shrd x0 x1 x2 x3) := Laws.Encoding.of_scalar rfl rfl
theorem Laws.Encoding.srad (x0 x1 x2 x3) : Laws.Encoding.Statement (.srad x0 x1 x2 x3) := Laws.Encoding.of_scalar rfl rfl
theorem Laws.Encoding.addi (x0 x1 x2 x3) : Laws.Encoding.Statement (.addi x0 x1 x2 x3) := Laws.Encoding.of_scalar rfl rfl
theorem Laws.Encoding.andi (x0 x1 x2 x3) : Laws.Encoding.Statement (.andi x0 x1 x2 x3) := Laws.Encoding.of_scalar rfl rfl
theorem Laws.Encoding.ori (x0 x1 x2 x3) : Laws.Encoding.Statement (.ori x0 x1 x2 x3) := Laws.Encoding.of_scalar rfl rfl
theorem Laws.Encoding.xori (x0 x1 x2 x3) : Laws.Encoding.Statement (.xori x0 x1 x2 x3) := Laws.Encoding.of_scalar rfl rfl
theorem Laws.Encoding.shli (x0 x1 x2 x3) : Laws.Encoding.Statement (.shli x0 x1 x2 x3) := Laws.Encoding.of_scalar rfl rfl
theorem Laws.Encoding.shri (x0 x1 x2 x3) : Laws.Encoding.Statement (.shri x0 x1 x2 x3) := Laws.Encoding.of_scalar rfl rfl
theorem Laws.Encoding.srai (x0 x1 x2 x3) : Laws.Encoding.Statement (.srai x0 x1 x2 x3) := Laws.Encoding.of_scalar rfl rfl
theorem Laws.Encoding.slti (x0 x1 x2 x3) : Laws.Encoding.Statement (.slti x0 x1 x2 x3) := Laws.Encoding.of_scalar rfl rfl
theorem Laws.Encoding.sltiu (x0 x1 x2 x3) : Laws.Encoding.Statement (.sltiu x0 x1 x2 x3) := Laws.Encoding.of_scalar rfl rfl
theorem Laws.Encoding.adddi (x0 x1 x2 x3) : Laws.Encoding.Statement (.adddi x0 x1 x2 x3) := Laws.Encoding.of_scalar rfl rfl
theorem Laws.Encoding.lih (x0 x1 x2) : Laws.Encoding.Statement (.lih x0 x1 x2) := Laws.Encoding.of_scalar rfl rfl
theorem Laws.Encoding.jal (x0 x1 x2) : Laws.Encoding.Statement (.jal x0 x1 x2) := Laws.Encoding.of_scalar rfl rfl
theorem Laws.Encoding.jalr (x0 x1 x2 x3) : Laws.Encoding.Statement (.jalr x0 x1 x2 x3) := Laws.Encoding.of_scalar rfl rfl
theorem Laws.Encoding.beq (x0 x1 x2 x3) : Laws.Encoding.Statement (.beq x0 x1 x2 x3) := Laws.Encoding.of_scalar rfl rfl
theorem Laws.Encoding.bne (x0 x1 x2 x3) : Laws.Encoding.Statement (.bne x0 x1 x2 x3) := Laws.Encoding.of_scalar rfl rfl
theorem Laws.Encoding.blt (x0 x1 x2 x3) : Laws.Encoding.Statement (.blt x0 x1 x2 x3) := Laws.Encoding.of_scalar rfl rfl
theorem Laws.Encoding.bge (x0 x1 x2 x3) : Laws.Encoding.Statement (.bge x0 x1 x2 x3) := Laws.Encoding.of_scalar rfl rfl
theorem Laws.Encoding.bltu (x0 x1 x2 x3) : Laws.Encoding.Statement (.bltu x0 x1 x2 x3) := Laws.Encoding.of_scalar rfl rfl
theorem Laws.Encoding.bgeu (x0 x1 x2 x3) : Laws.Encoding.Statement (.bgeu x0 x1 x2 x3) := Laws.Encoding.of_scalar rfl rfl
theorem Laws.Encoding.loop (x0 x1 x2 x3) : Laws.Encoding.Statement (.loop x0 x1 x2 x3) := Laws.Encoding.of_scalar rfl rfl
theorem Laws.Encoding.qpush (x0 x1 x2) : Laws.Encoding.Statement (.qpush x0 x1 x2) := Laws.Encoding.of_scalar rfl rfl
theorem Laws.Encoding.qpop (x0 x1 x2) : Laws.Encoding.Statement (.qpop x0 x1 x2) := Laws.Encoding.of_scalar rfl rfl
theorem Laws.Encoding.qpeek (x0 x1 x2) : Laws.Encoding.Statement (.qpeek x0 x1 x2) := Laws.Encoding.of_scalar rfl rfl
theorem Laws.Encoding.gtcr (x0 x1) : Laws.Encoding.Statement (.gtcr x0 x1) := Laws.Encoding.of_scalar rfl rfl
theorem Laws.Encoding.waitg (x0 x1) : Laws.Encoding.Statement (.waitg x0 x1) := Laws.Encoding.of_scalar rfl rfl
theorem Laws.Encoding.exit (x0) : Laws.Encoding.Statement (.exit x0) := Laws.Encoding.of_scalar rfl rfl
theorem Laws.Encoding.gap (x0 x1) : Laws.Encoding.Statement (.gap x0 x1) := Laws.Encoding.of_scalar rfl rfl
theorem Laws.Encoding.csrr (x0 x1 x2) : Laws.Encoding.Statement (.csrr x0 x1 x2) := Laws.Encoding.of_scalar rfl rfl
theorem Laws.Encoding.csrw (x0 x1 x2) : Laws.Encoding.Statement (.csrw x0 x1 x2) := Laws.Encoding.of_scalar rfl rfl
theorem Laws.Encoding.ldb (x0 x1 x2 x3) : Laws.Encoding.Statement (.ldb x0 x1 x2 x3) := Laws.Encoding.of_scalar rfl rfl
theorem Laws.Encoding.ldh (x0 x1 x2 x3) : Laws.Encoding.Statement (.ldh x0 x1 x2 x3) := Laws.Encoding.of_scalar rfl rfl
theorem Laws.Encoding.ldw (x0 x1 x2 x3) : Laws.Encoding.Statement (.ldw x0 x1 x2 x3) := Laws.Encoding.of_scalar rfl rfl
theorem Laws.Encoding.ldd (x0 x1 x2 x3) : Laws.Encoding.Statement (.ldd x0 x1 x2 x3) := Laws.Encoding.of_scalar rfl rfl
theorem Laws.Encoding.stb (x0 x1 x2) : Laws.Encoding.Statement (.stb x0 x1 x2) := Laws.Encoding.of_scalar rfl rfl
theorem Laws.Encoding.sth (x0 x1 x2) : Laws.Encoding.Statement (.sth x0 x1 x2) := Laws.Encoding.of_scalar rfl rfl
theorem Laws.Encoding.stw (x0 x1 x2) : Laws.Encoding.Statement (.stw x0 x1 x2) := Laws.Encoding.of_scalar rfl rfl
theorem Laws.Encoding.std (x0 x1 x2) : Laws.Encoding.Statement (.std x0 x1 x2) := Laws.Encoding.of_scalar rfl rfl
theorem Laws.Encoding.lds (x0 x1 x2 x3) : Laws.Encoding.Statement (.lds x0 x1 x2 x3) := Laws.Encoding.of_scalar rfl rfl
theorem Laws.Encoding.sts (x0 x1 x2) : Laws.Encoding.Statement (.sts x0 x1 x2) := Laws.Encoding.of_scalar rfl rfl
theorem Laws.Encoding.tlook (x0 x1 x2) : Laws.Encoding.Statement (.tlook x0 x1 x2) := Laws.Encoding.of_scalar rfl rfl
theorem Laws.Encoding.tset (x0 x1 x2) : Laws.Encoding.Statement (.tset x0 x1 x2) := Laws.Encoding.of_scalar rfl rfl
theorem Laws.Encoding.tinv (x0 x1) : Laws.Encoding.Statement (.tinv x0 x1) := Laws.Encoding.of_scalar rfl rfl
theorem Laws.Encoding.bdecl (x0 x1) : Laws.Encoding.Statement (.bdecl x0 x1) := Laws.Encoding.of_scalar rfl rfl
theorem Laws.Encoding.bstateFull (x0 x1) : Laws.Encoding.Statement (.bstateFull x0 x1) := Laws.Encoding.of_scalar rfl rfl
theorem Laws.Encoding.bstateDrain (x0 x1) : Laws.Encoding.Statement (.bstateDrain x0 x1) := Laws.Encoding.of_scalar rfl rfl
theorem Laws.Encoding.bquery (x0 x1 x2) : Laws.Encoding.Statement (.bquery x0 x1 x2) := Laws.Encoding.of_scalar rfl rfl
theorem Laws.Encoding.sbfw (x0 x1 x2 x3) : Laws.Encoding.Statement (.sbfw x0 x1 x2 x3) := Laws.Encoding.of_scalar rfl rfl
theorem Laws.Encoding.sew (x0 x1 x2) : Laws.Encoding.Statement (.sew x0 x1 x2) := Laws.Encoding.of_scalar rfl rfl
theorem Laws.Encoding.sego (x0 x1) : Laws.Encoding.Statement (.sego x0 x1) := Laws.Encoding.of_scalar rfl rfl
theorem Laws.Encoding.segoResume (x0 x1) : Laws.Encoding.Statement (.segoResume x0 x1) := Laws.Encoding.of_scalar rfl rfl
theorem Laws.Encoding.segoDrop (x0 x1) : Laws.Encoding.Statement (.segoDrop x0 x1) := Laws.Encoding.of_scalar rfl rfl
theorem Laws.Encoding.sepop (x0 x1) : Laws.Encoding.Statement (.sepop x0 x1) := Laws.Encoding.of_scalar rfl rfl
theorem Laws.Encoding.sechain (x0 x1 x2) : Laws.Encoding.Statement (.sechain x0 x1 x2) := Laws.Encoding.of_scalar rfl rfl
theorem Laws.Encoding.rqpage (x0 x1 x2) : Laws.Encoding.Statement (.rqpage x0 x1 x2) := Laws.Encoding.of_scalar rfl rfl
theorem Laws.Encoding.fence (x0 x1 x2 x3 x4) : Laws.Encoding.Statement (.fence x0 x1 x2 x3 x4) := Laws.Encoding.of_scalar rfl rfl
theorem Laws.Encoding.afence (x0 x1 x2) : Laws.Encoding.Statement (.afence x0 x1 x2) := Laws.Encoding.of_scalar rfl rfl
theorem Laws.Encoding.atomAdd (x0 x1 x2 x3 x4 x5) : Laws.Encoding.Statement (.atomAdd x0 x1 x2 x3 x4 x5) := Laws.Encoding.of_scalar rfl rfl
theorem Laws.Encoding.atomAnd (x0 x1 x2 x3 x4 x5) : Laws.Encoding.Statement (.atomAnd x0 x1 x2 x3 x4 x5) := Laws.Encoding.of_scalar rfl rfl
theorem Laws.Encoding.atomOr (x0 x1 x2 x3 x4 x5) : Laws.Encoding.Statement (.atomOr x0 x1 x2 x3 x4 x5) := Laws.Encoding.of_scalar rfl rfl
theorem Laws.Encoding.atomXor (x0 x1 x2 x3 x4 x5) : Laws.Encoding.Statement (.atomXor x0 x1 x2 x3 x4 x5) := Laws.Encoding.of_scalar rfl rfl
theorem Laws.Encoding.atomMin (x0 x1 x2 x3 x4 x5) : Laws.Encoding.Statement (.atomMin x0 x1 x2 x3 x4 x5) := Laws.Encoding.of_scalar rfl rfl
theorem Laws.Encoding.atomMax (x0 x1 x2 x3 x4 x5) : Laws.Encoding.Statement (.atomMax x0 x1 x2 x3 x4 x5) := Laws.Encoding.of_scalar rfl rfl
theorem Laws.Encoding.atomSwap (x0 x1 x2 x3 x4 x5) : Laws.Encoding.Statement (.atomSwap x0 x1 x2 x3 x4 x5) := Laws.Encoding.of_scalar rfl rfl
theorem Laws.Encoding.acas (x0 x1 x2 x3 x4 x5) : Laws.Encoding.Statement (.acas x0 x1 x2 x3 x4 x5) := Laws.Encoding.of_scalar rfl rfl
theorem Laws.Encoding.redAdd (x0 x1 x2 x3 x4 x5) : Laws.Encoding.Statement (.redAdd x0 x1 x2 x3 x4 x5) := Laws.Encoding.of_scalar rfl rfl
theorem Laws.Encoding.redAnd (x0 x1 x2 x3 x4 x5) : Laws.Encoding.Statement (.redAnd x0 x1 x2 x3 x4 x5) := Laws.Encoding.of_scalar rfl rfl
theorem Laws.Encoding.redOr (x0 x1 x2 x3 x4 x5) : Laws.Encoding.Statement (.redOr x0 x1 x2 x3 x4 x5) := Laws.Encoding.of_scalar rfl rfl
theorem Laws.Encoding.redXor (x0 x1 x2 x3 x4 x5) : Laws.Encoding.Statement (.redXor x0 x1 x2 x3 x4 x5) := Laws.Encoding.of_scalar rfl rfl
theorem Laws.Encoding.redMin (x0 x1 x2 x3 x4 x5) : Laws.Encoding.Statement (.redMin x0 x1 x2 x3 x4 x5) := Laws.Encoding.of_scalar rfl rfl
theorem Laws.Encoding.redMax (x0 x1 x2 x3 x4 x5) : Laws.Encoding.Statement (.redMax x0 x1 x2 x3 x4 x5) := Laws.Encoding.of_scalar rfl rfl
theorem Laws.Encoding.fredAdd (x0 x1 x2 x3 x4) : Laws.Encoding.Statement (.fredAdd x0 x1 x2 x3 x4) := Laws.Encoding.of_scalar rfl rfl
theorem Laws.Encoding.fredMin (x0 x1 x2 x3 x4) : Laws.Encoding.Statement (.fredMin x0 x1 x2 x3 x4) := Laws.Encoding.of_scalar rfl rfl
theorem Laws.Encoding.fredMax (x0 x1 x2 x3 x4) : Laws.Encoding.Statement (.fredMax x0 x1 x2 x3 x4) := Laws.Encoding.of_scalar rfl rfl
theorem Laws.Encoding.apop (x0 x1) : Laws.Encoding.Statement (.apop x0 x1) := Laws.Encoding.of_scalar rfl rfl
theorem Laws.Encoding.bari (x0 x1 x2 x3) : Laws.Encoding.Statement (.bari x0 x1 x2 x3) := Laws.Encoding.of_scalar rfl rfl
theorem Laws.Encoding.barv (x0 x1 x2) : Laws.Encoding.Statement (.barv x0 x1 x2) := Laws.Encoding.of_scalar rfl rfl
theorem Laws.Encoding.bard (x0 x1 x2) : Laws.Encoding.Statement (.bard x0 x1 x2) := Laws.Encoding.of_scalar rfl rfl
theorem Laws.Encoding.barx (x0 x1 x2 x3) : Laws.Encoding.Statement (.barx x0 x1 x2 x3) := Laws.Encoding.of_scalar rfl rfl
theorem Laws.Encoding.barw (x0 x1 x2 x3) : Laws.Encoding.Statement (.barw x0 x1 x2 x3) := Laws.Encoding.of_scalar rfl rfl
theorem Laws.Encoding.bart (x0 x1 x2 x3) : Laws.Encoding.Statement (.bart x0 x1 x2 x3) := Laws.Encoding.of_scalar rfl rfl
theorem Laws.Encoding.waitqData (x0 x1 x2 x3) : Laws.Encoding.Statement (.waitqData x0 x1 x2 x3) := Laws.Encoding.of_scalar rfl rfl
theorem Laws.Encoding.waitqSpace (x0 x1 x2 x3) : Laws.Encoding.Statement (.waitqSpace x0 x1 x2 x3) := Laws.Encoding.of_scalar rfl rfl
theorem Laws.Encoding.sems (x0 x1 x2 x3) : Laws.Encoding.Statement (.sems x0 x1 x2 x3) := Laws.Encoding.of_scalar rfl rfl
theorem Laws.Encoding.semw (x0 x1 x2 x3) : Laws.Encoding.Statement (.semw x0 x1 x2 x3) := Laws.Encoding.of_scalar rfl rfl
theorem Laws.Encoding.uien (x0 x1) : Laws.Encoding.Statement (.uien x0 x1) := Laws.Encoding.of_scalar rfl rfl
theorem Laws.Encoding.uiret (x0) : Laws.Encoding.Statement (.uiret x0) := Laws.Encoding.of_scalar rfl rfl
theorem Laws.Encoding.lnch (x0 x1 x2 x3) : Laws.Encoding.Statement (.lnch x0 x1 x2 x3) := Laws.Encoding.of_scalar rfl rfl
theorem Laws.Encoding.hspdecl (x0 x1 x2) : Laws.Encoding.Statement (.hspdecl x0 x1 x2) := Laws.Encoding.of_scalar rfl rfl
theorem Laws.Encoding.tbegin (x0 x1) : Laws.Encoding.Statement (.tbegin x0 x1) := Laws.Encoding.of_scalar rfl rfl
theorem Laws.Encoding.tend (x0) : Laws.Encoding.Statement (.tend x0) := Laws.Encoding.of_scalar rfl rfl
theorem Laws.Encoding.tabort (x0 x1) : Laws.Encoding.Statement (.tabort x0 x1) := Laws.Encoding.of_scalar rfl rfl
theorem Laws.Encoding.tage (x0 x1) : Laws.Encoding.Statement (.tage x0 x1) := Laws.Encoding.of_scalar rfl rfl
theorem Laws.Encoding.dseed (x0 x1 x2) : Laws.Encoding.Statement (.dseed x0 x1 x2) := Laws.Encoding.of_scalar rfl rfl
theorem Laws.Encoding.dtopo (x0 x1) : Laws.Encoding.Statement (.dtopo x0 x1) := Laws.Encoding.of_scalar rfl rfl
theorem Laws.Encoding.mdeq (x0 x1 x2 x3) : Laws.Encoding.Statement (.mdeq x0 x1 x2 x3) := Laws.Encoding.of_scalar rfl rfl
theorem Laws.Encoding.bdwait (x0 x1 x2 x3) : Laws.Encoding.Statement (.bdwait x0 x1 x2 x3) := Laws.Encoding.of_scalar rfl rfl
theorem Laws.Encoding.nop (x0) : Laws.Encoding.Statement (.nop x0) := Laws.Encoding.of_scalar rfl rfl
theorem Laws.Encoding.halt (x0 x1) : Laws.Encoding.Statement (.halt x0 x1) := Laws.Encoding.of_scalar rfl rfl
theorem Laws.Encoding.trap (x0 x1) : Laws.Encoding.Statement (.trap x0 x1) := Laws.Encoding.of_scalar rfl rfl
theorem Laws.Encoding.eret (x0) : Laws.Encoding.Statement (.eret x0) := Laws.Encoding.of_scalar rfl rfl
theorem Laws.Encoding.ctxsv (x0 x1 x2) : Laws.Encoding.Statement (.ctxsv x0 x1 x2) := Laws.Encoding.of_scalar rfl rfl
theorem Laws.Encoding.ctxld (x0 x1 x2 x3) : Laws.Encoding.Statement (.ctxld x0 x1 x2 x3) := Laws.Encoding.of_scalar rfl rfl
theorem Laws.Encoding.twld (x0 x1 x2 x3) : Laws.Encoding.Statement (.twld x0 x1 x2 x3) := Laws.Encoding.of_scalar rfl rfl
theorem Laws.Encoding.keyld (x0 x1 x2 x3) : Laws.Encoding.Statement (.keyld x0 x1 x2 x3) := Laws.Encoding.of_scalar rfl rfl
theorem Laws.Encoding.hgemv (x0 x1) : Laws.Encoding.Statement (.hgemv x0 x1) := Laws.Encoding.of_scalar rfl rfl
theorem Laws.Encoding.hred (x0 x1) : Laws.Encoding.Statement (.hred x0 x1) := Laws.Encoding.of_scalar rfl rfl
theorem Laws.Encoding.hland (x0 x1) : Laws.Encoding.Statement (.hland x0 x1) := Laws.Encoding.of_scalar rfl rfl
theorem Laws.Encoding.hwalk (x0 x1) : Laws.Encoding.Statement (.hwalk x0 x1) := Laws.Encoding.of_scalar rfl rfl
theorem Laws.Encoding.hscan (x0 x1) : Laws.Encoding.Statement (.hscan x0 x1) := Laws.Encoding.of_scalar rfl rfl
theorem Laws.Encoding.hcopy (x0 x1) : Laws.Encoding.Statement (.hcopy x0 x1) := Laws.Encoding.of_scalar rfl rfl
theorem Laws.Encoding.hrow (x0 x1 x2) : Laws.Encoding.Statement (.hrow x0 x1 x2) := Laws.Encoding.of_scalar rfl rfl
theorem Laws.Encoding.hfence (x0 x1) : Laws.Encoding.Statement (.hfence x0 x1) := Laws.Encoding.of_scalar rfl rfl
theorem Laws.Encoding.hwait (x0 x1) : Laws.Encoding.Statement (.hwait x0 x1) := Laws.Encoding.of_scalar rfl rfl
theorem Laws.Encoding.hpost (x0 x1 x2 x3) : Laws.Encoding.Statement (.hpost x0 x1 x2 x3) := Laws.Encoding.of_scalar rfl rfl
theorem Laws.Encoding.hpostErr (x0 x1 x2 x3) : Laws.Encoding.Statement (.hpostErr x0 x1 x2 x3) := Laws.Encoding.of_scalar rfl rfl
theorem Laws.Encoding.hstat (x0 x1 x2) : Laws.Encoding.Statement (.hstat x0 x1 x2) := Laws.Encoding.of_scalar rfl rfl
theorem Laws.Encoding.vNop (x0) : Laws.Encoding.Statement (.vNop x0) := Laws.Encoding.of_vector rfl rfl
theorem Laws.Encoding.vadd (x0) : Laws.Encoding.Statement (.vadd x0) := Laws.Encoding.of_vector rfl rfl
theorem Laws.Encoding.vsub (x0) : Laws.Encoding.Statement (.vsub x0) := Laws.Encoding.of_vector rfl rfl
theorem Laws.Encoding.vmul (x0) : Laws.Encoding.Statement (.vmul x0) := Laws.Encoding.of_vector rfl rfl
theorem Laws.Encoding.vfma (x0) : Laws.Encoding.Statement (.vfma x0) := Laws.Encoding.of_vector rfl rfl
theorem Laws.Encoding.vmin (x0) : Laws.Encoding.Statement (.vmin x0) := Laws.Encoding.of_vector rfl rfl
theorem Laws.Encoding.vmax (x0) : Laws.Encoding.Statement (.vmax x0) := Laws.Encoding.of_vector rfl rfl
theorem Laws.Encoding.vabs (x0) : Laws.Encoding.Statement (.vabs x0) := Laws.Encoding.of_vector rfl rfl
theorem Laws.Encoding.vneg (x0) : Laws.Encoding.Statement (.vneg x0) := Laws.Encoding.of_vector rfl rfl
theorem Laws.Encoding.vexp2 (x0) : Laws.Encoding.Statement (.vexp2 x0) := Laws.Encoding.of_vector rfl rfl
theorem Laws.Encoding.vlog2 (x0) : Laws.Encoding.Statement (.vlog2 x0) := Laws.Encoding.of_vector rfl rfl
theorem Laws.Encoding.vrcp (x0) : Laws.Encoding.Statement (.vrcp x0) := Laws.Encoding.of_vector rfl rfl
theorem Laws.Encoding.vrsq (x0) : Laws.Encoding.Statement (.vrsq x0) := Laws.Encoding.of_vector rfl rfl
theorem Laws.Encoding.vsqrt (x0) : Laws.Encoding.Statement (.vsqrt x0) := Laws.Encoding.of_vector rfl rfl
theorem Laws.Encoding.vcmpEq (x0) : Laws.Encoding.Statement (.vcmpEq x0) := Laws.Encoding.of_vector rfl rfl
theorem Laws.Encoding.vcmpNe (x0) : Laws.Encoding.Statement (.vcmpNe x0) := Laws.Encoding.of_vector rfl rfl
theorem Laws.Encoding.vcmpLt (x0) : Laws.Encoding.Statement (.vcmpLt x0) := Laws.Encoding.of_vector rfl rfl
theorem Laws.Encoding.vcmpLe (x0) : Laws.Encoding.Statement (.vcmpLe x0) := Laws.Encoding.of_vector rfl rfl
theorem Laws.Encoding.vcmpGt (x0) : Laws.Encoding.Statement (.vcmpGt x0) := Laws.Encoding.of_vector rfl rfl
theorem Laws.Encoding.vcmpGe (x0) : Laws.Encoding.Statement (.vcmpGe x0) := Laws.Encoding.of_vector rfl rfl
theorem Laws.Encoding.vcmpUn (x0) : Laws.Encoding.Statement (.vcmpUn x0) := Laws.Encoding.of_vector rfl rfl
theorem Laws.Encoding.vsel (x0) : Laws.Encoding.Statement (.vsel x0) := Laws.Encoding.of_vector rfl rfl
theorem Laws.Encoding.vcvt (x0) : Laws.Encoding.Statement (.vcvt x0) := Laws.Encoding.of_vector rfl rfl
theorem Laws.Encoding.vscale (x0) : Laws.Encoding.Statement (.vscale x0) := Laws.Encoding.of_vector rfl rfl
theorem Laws.Encoding.vand (x0) : Laws.Encoding.Statement (.vand x0) := Laws.Encoding.of_vector rfl rfl
theorem Laws.Encoding.vor (x0) : Laws.Encoding.Statement (.vor x0) := Laws.Encoding.of_vector rfl rfl
theorem Laws.Encoding.vxor (x0) : Laws.Encoding.Statement (.vxor x0) := Laws.Encoding.of_vector rfl rfl
theorem Laws.Encoding.vnot (x0) : Laws.Encoding.Statement (.vnot x0) := Laws.Encoding.of_vector rfl rfl
theorem Laws.Encoding.vshl (x0) : Laws.Encoding.Statement (.vshl x0) := Laws.Encoding.of_vector rfl rfl
theorem Laws.Encoding.vshr (x0) : Laws.Encoding.Statement (.vshr x0) := Laws.Encoding.of_vector rfl rfl
theorem Laws.Encoding.vsra (x0) : Laws.Encoding.Statement (.vsra x0) := Laws.Encoding.of_vector rfl rfl
theorem Laws.Encoding.vpopc (x0) : Laws.Encoding.Statement (.vpopc x0) := Laws.Encoding.of_vector rfl rfl
theorem Laws.Encoding.vclz (x0) : Laws.Encoding.Statement (.vclz x0) := Laws.Encoding.of_vector rfl rfl
theorem Laws.Encoding.vmulh (x0) : Laws.Encoding.Statement (.vmulh x0) := Laws.Encoding.of_vector rfl rfl
theorem Laws.Encoding.vperm (x0) : Laws.Encoding.Statement (.vperm x0) := Laws.Encoding.of_vector rfl rfl
theorem Laws.Encoding.vbcast (x0) : Laws.Encoding.Statement (.vbcast x0) := Laws.Encoding.of_vector rfl rfl
theorem Laws.Encoding.viota (x0) : Laws.Encoding.Statement (.viota x0) := Laws.Encoding.of_vector rfl rfl
theorem Laws.Encoding.vrot (x0) : Laws.Encoding.Statement (.vrot x0) := Laws.Encoding.of_vector rfl rfl
theorem Laws.Encoding.vcomp (x0) : Laws.Encoding.Statement (.vcomp x0) := Laws.Encoding.of_vector rfl rfl
theorem Laws.Encoding.vmov (x0) : Laws.Encoding.Statement (.vmov x0) := Laws.Encoding.of_vector rfl rfl
theorem Laws.Encoding.vrsum (x0) : Laws.Encoding.Statement (.vrsum x0) := Laws.Encoding.of_vector rfl rfl
theorem Laws.Encoding.vrmax (x0) : Laws.Encoding.Statement (.vrmax x0) := Laws.Encoding.of_vector rfl rfl
theorem Laws.Encoding.vrmin (x0) : Laws.Encoding.Statement (.vrmin x0) := Laws.Encoding.of_vector rfl rfl
theorem Laws.Encoding.vscan (x0) : Laws.Encoding.Statement (.vscan x0) := Laws.Encoding.of_vector rfl rfl
theorem Laws.Encoding.vscanmax (x0) : Laws.Encoding.Statement (.vscanmax x0) := Laws.Encoding.of_vector rfl rfl
theorem Laws.Encoding.pand (x0) : Laws.Encoding.Statement (.pand x0) := Laws.Encoding.of_vector rfl rfl
theorem Laws.Encoding.por (x0) : Laws.Encoding.Statement (.por x0) := Laws.Encoding.of_vector rfl rfl
theorem Laws.Encoding.pxor (x0) : Laws.Encoding.Statement (.pxor x0) := Laws.Encoding.of_vector rfl rfl
theorem Laws.Encoding.pnot (x0) : Laws.Encoding.Statement (.pnot x0) := Laws.Encoding.of_vector rfl rfl
theorem Laws.Encoding.vld (x0) : Laws.Encoding.Statement (.vld x0) := Laws.Encoding.of_vector rfl rfl
theorem Laws.Encoding.vst (x0) : Laws.Encoding.Statement (.vst x0) := Laws.Encoding.of_vector rfl rfl
theorem Laws.Encoding.vlds (x0) : Laws.Encoding.Statement (.vlds x0) := Laws.Encoding.of_vector rfl rfl
theorem Laws.Encoding.vsts (x0) : Laws.Encoding.Statement (.vsts x0) := Laws.Encoding.of_vector rfl rfl
theorem Laws.Encoding.vdraw (x0) : Laws.Encoding.Statement (.vdraw x0) := Laws.Encoding.of_vector rfl rfl
theorem Laws.Encoding.vdmrg (x0) : Laws.Encoding.Statement (.vdmrg x0) := Laws.Encoding.of_vector rfl rfl
theorem Laws.Encoding.dtree (x0) : Laws.Encoding.Statement (.dtree x0) := Laws.Encoding.of_vector rfl rfl
theorem Laws.Encoding.vmarkFull (x0) : Laws.Encoding.Statement (.vmarkFull x0) := Laws.Encoding.of_vector rfl rfl
theorem Laws.Encoding.vmarkEmpty (x0) : Laws.Encoding.Statement (.vmarkEmpty x0) := Laws.Encoding.of_vector rfl rfl
theorem Laws.Encoding.vexit (x0) : Laws.Encoding.Statement (.vexit x0) := Laws.Encoding.of_vector rfl rfl
theorem Laws.Encoding.mNop (x0) : Laws.Encoding.Statement (.mNop x0) := Laws.Encoding.of_matrix rfl rfl
theorem Laws.Encoding.mma (x0) : Laws.Encoding.Statement (.mma x0) := Laws.Encoding.of_matrix rfl rfl
theorem Laws.Encoding.mmag (x0) : Laws.Encoding.Statement (.mmag x0) := Laws.Encoding.of_matrix rfl rfl
theorem Laws.Encoding.mzero (x0) : Laws.Encoding.Statement (.mzero x0) := Laws.Encoding.of_matrix rfl rfl
theorem Laws.Encoding.mtype (x0) : Laws.Encoding.Statement (.mtype x0) := Laws.Encoding.of_matrix rfl rfl
theorem Laws.Encoding.mldbSpad (x0) : Laws.Encoding.Statement (.mldbSpad x0) := Laws.Encoding.of_matrix rfl rfl
theorem Laws.Encoding.mldbAcc (x0) : Laws.Encoding.Statement (.mldbAcc x0) := Laws.Encoding.of_matrix rfl rfl
theorem Laws.Encoding.msta (x0) : Laws.Encoding.Statement (.msta x0) := Laws.Encoding.of_matrix rfl rfl
theorem Laws.Encoding.mset (x0) : Laws.Encoding.Statement (.mset x0) := Laws.Encoding.of_matrix rfl rfl
theorem Laws.Encoding.mqpop (x0) : Laws.Encoding.Statement (.mqpop x0) := Laws.Encoding.of_matrix rfl rfl
theorem Laws.Encoding.mwalk (x0) : Laws.Encoding.Statement (.mwalk x0) := Laws.Encoding.of_matrix rfl rfl
theorem Laws.Encoding.mwres (x0) : Laws.Encoding.Statement (.mwres x0) := Laws.Encoding.of_matrix rfl rfl
theorem Laws.Encoding.mfull (x0) : Laws.Encoding.Statement (.mfull x0) := Laws.Encoding.of_matrix rfl rfl
theorem Laws.Encoding.mempty (x0) : Laws.Encoding.Statement (.mempty x0) := Laws.Encoding.of_matrix rfl rfl
theorem Laws.Encoding.mwait (x0) : Laws.Encoding.Statement (.mwait x0) := Laws.Encoding.of_matrix rfl rfl
theorem Laws.Encoding.mdraw (x0) : Laws.Encoding.Statement (.mdraw x0) := Laws.Encoding.of_matrix rfl rfl
theorem Laws.Encoding.mbeat (x0) : Laws.Encoding.Statement (.mbeat x0) := Laws.Encoding.of_matrix rfl rfl
theorem Laws.Encoding.mbend (x0) : Laws.Encoding.Statement (.mbend x0) := Laws.Encoding.of_matrix rfl rfl
theorem Laws.Encoding.mlook (x0) : Laws.Encoding.Statement (.mlook x0) := Laws.Encoding.of_matrix rfl rfl
theorem Laws.Encoding.mexit (x0) : Laws.Encoding.Statement (.mexit x0) := Laws.Encoding.of_matrix rfl rfl
theorem Laws.Encoding.sWordResult (x0) : Laws.Encoding.Statement (.sWordResult x0) := Laws.Encoding.of_scalar rfl rfl
theorem Laws.Encoding.vectorSweepStep (x0 x1) : Laws.Encoding.Statement (.vectorSweepStep x0 x1) := Laws.Encoding.of_scalar rfl rfl
theorem Laws.Encoding.vectorStepResult (x0 x1 x2) : Laws.Encoding.Statement (.vectorStepResult x0 x1 x2) := Laws.Encoding.of_scalar rfl rfl
theorem Laws.Encoding.loadDataArrival (x0 x1 x2) : Laws.Encoding.Statement (.loadDataArrival x0 x1 x2) := Laws.Encoding.of_scalar rfl rfl
theorem Laws.Encoding.loadLanding (x0 x1 x2) : Laws.Encoding.Statement (.loadLanding x0 x1 x2) := Laws.Encoding.of_scalar rfl rfl
theorem Laws.Encoding.lateLandingFreeze (x0) : Laws.Encoding.Statement (.lateLandingFreeze x0) := Laws.Encoding.of_scalar rfl rfl
theorem Laws.Encoding.tileStepIssue (x0) : Laws.Encoding.Statement (.tileStepIssue x0) := Laws.Encoding.of_scalar rfl rfl
theorem Laws.Encoding.tileStepResult (x0 x1) : Laws.Encoding.Statement (.tileStepResult x0 x1) := Laws.Encoding.of_scalar rfl rfl
theorem Laws.Encoding.mldbComplete (x0 x1) : Laws.Encoding.Statement (.mldbComplete x0 x1) := Laws.Encoding.of_scalar rfl rfl
theorem Laws.Encoding.mstaComplete (x0 x1) : Laws.Encoding.Statement (.mstaComplete x0 x1) := Laws.Encoding.of_scalar rfl rfl
theorem Laws.Encoding.mdrawComplete (x0 x1) : Laws.Encoding.Statement (.mdrawComplete x0 x1) := Laws.Encoding.of_scalar rfl rfl
theorem Laws.Encoding.dtopoComplete (x0 x1) : Laws.Encoding.Statement (.dtopoComplete x0 x1) := Laws.Encoding.of_scalar rfl rfl
theorem Laws.Encoding.bufferDrainEmpty (x0 x1) : Laws.Encoding.Statement (.bufferDrainEmpty x0 x1) := Laws.Encoding.of_scalar rfl rfl
theorem Laws.Encoding.sePattern (x0 x1) : Laws.Encoding.Statement (.sePattern x0 x1) := Laws.Encoding.of_scalar rfl rfl
theorem Laws.Encoding.seGather (x0 x1) : Laws.Encoding.Statement (.seGather x0 x1) := Laws.Encoding.of_scalar rfl rfl
theorem Laws.Encoding.seScatter (x0 x1) : Laws.Encoding.Statement (.seScatter x0 x1) := Laws.Encoding.of_scalar rfl rfl
theorem Laws.Encoding.seSync (x0 x1) : Laws.Encoding.Statement (.seSync x0 x1) := Laws.Encoding.of_scalar rfl rfl
theorem Laws.Encoding.seGranuleMove (x0 x1) : Laws.Encoding.Statement (.seGranuleMove x0 x1) := Laws.Encoding.of_scalar rfl rfl
theorem Laws.Encoding.seCommandComplete (x0 x1) : Laws.Encoding.Statement (.seCommandComplete x0 x1) := Laws.Encoding.of_scalar rfl rfl
theorem Laws.Encoding.seChainFetch (x0 x1) : Laws.Encoding.Statement (.seChainFetch x0 x1) := Laws.Encoding.of_scalar rfl rfl
theorem Laws.Encoding.userInterruptEntry (x0 x1) : Laws.Encoding.Statement (.userInterruptEntry x0 x1) := Laws.Encoding.of_scalar rfl rfl
theorem Laws.Encoding.syncRequestApply (x0) : Laws.Encoding.Statement (.syncRequestApply x0) := Laws.Encoding.of_scalar rfl rfl
theorem Laws.Encoding.syncAnswerArrival (x0 x1 x2) : Laws.Encoding.Statement (.syncAnswerArrival x0 x1 x2) := Laws.Encoding.of_scalar rfl rfl
theorem Laws.Encoding.boundedWaitExpiry (x0 x1) : Laws.Encoding.Statement (.boundedWaitExpiry x0 x1) := Laws.Encoding.of_scalar rfl rfl
theorem Laws.Encoding.bdwaitLimitExpiry (x0 x1) : Laws.Encoding.Statement (.bdwaitLimitExpiry x0 x1) := Laws.Encoding.of_scalar rfl rfl
theorem Laws.Encoding.heathCommandStart (x0) : Laws.Encoding.Statement (.heathCommandStart x0) := Laws.Encoding.of_scalar rfl rfl
theorem Laws.Encoding.heathCommandComplete (x0) : Laws.Encoding.Statement (.heathCommandComplete x0) := Laws.Encoding.of_scalar rfl rfl
theorem Laws.Encoding.arbiterSlot (x0) : Laws.Encoding.Statement (.arbiterSlot x0) := Laws.Encoding.of_scalar rfl rfl
theorem Laws.Encoding.activatePromotion (x0 x1) : Laws.Encoding.Statement (.activatePromotion x0 x1) := Laws.Encoding.of_scalar rfl rfl
theorem Laws.Encoding.leaseExpiry (x0 x1) : Laws.Encoding.Statement (.leaseExpiry x0 x1) := Laws.Encoding.of_scalar rfl rfl
theorem Laws.Encoding.refreshDue (x0 x1) : Laws.Encoding.Statement (.refreshDue x0 x1) := Laws.Encoding.of_scalar rfl rfl
theorem Laws.Encoding.landingContribution (x0) : Laws.Encoding.Statement (.landingContribution x0) := Laws.Encoding.of_scalar rfl rfl
theorem Laws.Encoding.gtcSyncFlit (x0 x1 x2) : Laws.Encoding.Statement (.gtcSyncFlit x0 x1 x2) := Laws.Encoding.of_scalar rfl rfl
theorem Laws.Encoding.favexPortFailure (x0) : Laws.Encoding.Statement (.favexPortFailure x0) := Laws.Encoding.of_scalar rfl rfl
theorem Laws.Encoding.lqdb (x0) : Laws.Encoding.Statement (.lqdb x0) := Laws.Encoding.of_scalar rfl rfl
theorem Laws.Encoding.launchRecordStart (x0 x1) : Laws.Encoding.Statement (.launchRecordStart x0 x1) := Laws.Encoding.of_scalar rfl rfl
theorem Laws.Encoding.launchCompletion (x0) : Laws.Encoding.Statement (.launchCompletion x0) := Laws.Encoding.of_scalar rfl rfl
theorem Laws.Encoding.taskStart (x0 x1 x2) : Laws.Encoding.Statement (.taskStart x0 x1 x2) := Laws.Encoding.of_scalar rfl rfl
theorem Laws.Encoding.taskEnd (x0 x1) : Laws.Encoding.Statement (.taskEnd x0 x1) := Laws.Encoding.of_scalar rfl rfl
theorem Laws.Encoding.contextPromotion (x0 x1 x2) : Laws.Encoding.Statement (.contextPromotion x0 x1 x2) := Laws.Encoding.of_scalar rfl rfl
theorem Laws.Encoding.turnTimeout (x0 x1) : Laws.Encoding.Statement (.turnTimeout x0 x1) := Laws.Encoding.of_scalar rfl rfl
theorem Laws.Encoding.energyCharge : Laws.Encoding.Statement (.energyCharge) := Laws.Encoding.of_scalar rfl rfl
theorem Laws.Encoding.powerCompare : Laws.Encoding.Statement (.powerCompare) := Laws.Encoding.of_scalar rfl rfl
theorem Laws.Encoding.preemption (x0) : Laws.Encoding.Statement (.preemption x0) := Laws.Encoding.of_scalar rfl rfl
theorem Laws.Encoding.preemptStuck (x0) : Laws.Encoding.Statement (.preemptStuck x0) := Laws.Encoding.of_scalar rfl rfl
theorem Laws.Encoding.resumption (x0) : Laws.Encoding.Statement (.resumption x0) := Laws.Encoding.of_scalar rfl rfl
theorem Laws.Encoding.beatSlotStart (x0) : Laws.Encoding.Statement (.beatSlotStart x0) := Laws.Encoding.of_scalar rfl rfl
theorem Laws.Encoding.beatDrain (x0 x1) : Laws.Encoding.Statement (.beatDrain x0 x1) := Laws.Encoding.of_scalar rfl rfl
theorem Laws.Encoding.beatRunEnd (x0) : Laws.Encoding.Statement (.beatRunEnd x0) := Laws.Encoding.of_scalar rfl rfl
theorem Laws.Encoding.haspTouch (x0 x1) : Laws.Encoding.Statement (.haspTouch x0 x1) := Laws.Encoding.of_scalar rfl rfl
theorem Laws.Encoding.haspRollback (x0 x1) : Laws.Encoding.Statement (.haspRollback x0 x1) := Laws.Encoding.of_scalar rfl rfl
theorem Laws.Encoding.trapEntry (x0 x1) : Laws.Encoding.Statement (.trapEntry x0 x1) := Laws.Encoding.of_scalar rfl rfl
theorem Laws.Encoding.faultDomainStop (x0 x1 x2 x3 x4) : Laws.Encoding.Statement (.faultDomainStop x0 x1 x2 x3 x4) := Laws.Encoding.of_scalar rfl rfl
theorem Laws.Encoding.ibufParity (x0 x1 x2) : Laws.Encoding.Statement (.ibufParity x0 x1 x2) := Laws.Encoding.of_scalar rfl rfl
theorem Laws.Encoding.hrqdb (x0) : Laws.Encoding.Statement (.hrqdb x0) := Laws.Encoding.of_scalar rfl rfl
theorem Laws.Encoding.hrqAnswer (x0 x1 x2) : Laws.Encoding.Statement (.hrqAnswer x0 x1 x2) := Laws.Encoding.of_scalar rfl rfl
theorem Laws.Encoding.hrqReclaim (x0 x1) : Laws.Encoding.Statement (.hrqReclaim x0 x1) := Laws.Encoding.of_scalar rfl rfl
theorem Laws.Encoding.reclaimComplete (x0) : Laws.Encoding.Statement (.reclaimComplete x0) := Laws.Encoding.of_scalar rfl rfl
theorem Laws.Encoding.pageRequestTimeout (x0) : Laws.Encoding.Statement (.pageRequestTimeout x0) := Laws.Encoding.of_scalar rfl rfl
theorem Laws.Encoding.apertureAccess (x0 x1 x2 x3) : Laws.Encoding.Statement (.apertureAccess x0 x1 x2 x3) := Laws.Encoding.of_scalar rfl rfl
theorem Laws.Encoding.bootcfg (x0) : Laws.Encoding.Statement (.bootcfg x0) := Laws.Encoding.of_scalar rfl rfl
theorem Laws.Encoding.lqregh (x0 x1) : Laws.Encoding.Statement (.lqregh x0 x1) := Laws.Encoding.of_scalar rfl rfl
theorem Laws.Encoding.lqregl (x0 x1) : Laws.Encoding.Statement (.lqregl x0 x1) := Laws.Encoding.of_scalar rfl rfl
theorem Laws.Encoding.mcirq (x0) : Laws.Encoding.Statement (.mcirq x0) := Laws.Encoding.of_scalar rfl rfl
theorem Laws.Encoding.secstat (x0) : Laws.Encoding.Statement (.secstat x0) := Laws.Encoding.of_scalar rfl rfl
theorem Laws.Encoding.seccfg (x0) : Laws.Encoding.Statement (.seccfg x0) := Laws.Encoding.of_scalar rfl rfl
theorem Laws.Encoding.nrctl (x0 x1) : Laws.Encoding.Statement (.nrctl x0 x1) := Laws.Encoding.of_scalar rfl rfl
theorem Laws.Encoding.registerWrite (x0 x1 x2) : Laws.Encoding.Statement (.registerWrite x0 x1 x2) := Laws.Encoding.of_scalar rfl rfl
theorem Laws.Encoding.alarmRaise (x0) : Laws.Encoding.Statement (.alarmRaise x0) := Laws.Encoding.of_scalar rfl rfl
theorem Laws.Encoding.debugAccess (x0) : Laws.Encoding.Statement (.debugAccess x0) := Laws.Encoding.of_scalar rfl rfl
theorem Laws.Encoding.firmwareUpdate (x0) : Laws.Encoding.Statement (.firmwareUpdate x0) := Laws.Encoding.of_scalar rfl rfl
theorem Laws.Encoding.attestationReport (x0) : Laws.Encoding.Statement (.attestationReport x0) := Laws.Encoding.of_scalar rfl rfl
theorem Laws.Encoding.powerOnReset : Laws.Encoding.Statement (.powerOnReset) := Laws.Encoding.of_scalar rfl rfl
theorem Laws.Encoding.genIterationIssue : Laws.Encoding.Statement (.genIterationIssue) := Laws.Encoding.of_scalar rfl rfl
theorem Laws.Encoding.genCommit : Laws.Encoding.Statement (.genCommit) := Laws.Encoding.of_scalar rfl rfl
theorem Laws.Encoding.sequenceAdd (x0) : Laws.Encoding.Statement (.sequenceAdd x0) := Laws.Encoding.of_scalar rfl rfl
theorem Laws.Encoding.sequenceCancel (x0) : Laws.Encoding.Statement (.sequenceCancel x0) := Laws.Encoding.of_scalar rfl rfl
theorem Laws.Encoding.hcpLoadArrival (x0) : Laws.Encoding.Statement (.hcpLoadArrival x0) := Laws.Encoding.of_scalar rfl rfl
theorem Laws.Encoding.faultDomainStopClear (x0) : Laws.Encoding.Statement (.faultDomainStopClear x0) := Laws.Encoding.of_scalar rfl rfl

end Sys2Proof
end

