-- ==== Sys2Proof/Tests/Slice0.lean ====
section
/-! SUPPORT. The model's own tests: words of the spec and what they decode to, ill-formed terms that the check refuses, small steps, and for
every statement a state and operands that meet its hypotheses, clause by clause. -/
namespace Sys2Proof.Tests

/-! Long evaluations by the kernel, one after the other. -/
set_option maxRecDepth 100000
set_option Elab.async false

open Sys2Proof Sys2Proof.Machine

/-! ## Small states -/

/-- A context whose listed registers hold the given values, with every tile and operand register granted, at level U. -/
def K (l : List (Nat × Nat)) : Ctx :=
  { sc := { regs := l.map fun p => (p.1, BitVec.ofNat 32 p.2), pc := 0x40 }, vpc := 0x80, mpc := 0xC0, sRun := true, vRun := true, mRun := true, istat := 0xFFF00 }

/-- A timed meadow in MTC cycle 500 whose context 2 is k and whose window maps its first page. -/
def M (k : Ctx) : Meadow := { region := some 7, timed := true, mtc := 500, window := [(0, openEntry)], ctxs := [(2, k)] }

/-- That meadow as meadow 1 of a running package in GTC cycle 1000, with an agent at work. -/
def At (a : Agent) (m : Meadow) : State := { gtc := 1000, cur := a, meadows := [(1, m)], keys := [(0, 0)], seq := 50, gtcRunning := true, bootStep := 6 }
def S (k : Ctx) : State := At (.stream 1 2 .s) (M k)
def V (m : Meadow) : State := At (.stream 1 2 .v) m
def X (m : Meadow) : State := At (.stream 1 2 .m) m
def D (m : Meadow) : State := At .device m

/-- A kernel on HCP 0 with one listed page. -/
def H (l : List (Nat × Nat)) : Hcp :=
  { sc := { regs := l.map fun p => (p.1, BitVec.ofNat 32 p.2), pc := 0x40 }, running := true, pages := [⟨0, 0⟩] }
def AtH (h : Hcp) : State := { gtc := 1000, cur := .hcp 0, hcps := [(0, h)], keys := [(0, 0)], seq := 50, gtcRunning := true, bootStep := 6 }

/-- One access in the first page. -/
def P (va len : Nat) : Part := { off := 0, len := len, va := va, pa := va, key := 0, kind := 0, res := true }

def mem4 (a n v : Nat) (s : State) : State := { s with mem := Memory.writeN s.mem a n v }

/-! ## Hypotheses that can be met: scalar words -/

theorem witness_RegisterForms : (S (K [])).cur ≠ .device ∧ (S (K [])).held [0, 63, 63] = false ∧
    (sMajor (0x01000013 : W32)).toNat = 0x01 ∧ (sFunc (0x01000013 : W32)).toNat = 0x13 ∧ (sFunc (0x01000017 : W32)).toNat = 0x17 ∧
    (sFunc (0x0100001E : W32)).toNat = 0x1E ∧ (sFunc (0x0100003F : W32)).toNat = 0x3F := by decide +kernel

theorem witness_ImmediateForms : (S (K [])).cur ≠ .device ∧ (S (K [])).held [0, 63] = false ∧
    (sMajor (0x07000020 : W32)).toNat = 0x07 ∧ (sImm12 (0x07000020 : W32)).toNat = 32 ∧ (sMajor (0x09000FFF : W32)).toNat = 0x09 ∧
    32 ≤ (sImm12 (0x09000FFF : W32)).toNat := by decide +kernel

theorem witness_UpperImmediateForm :
    let s := S (K [(5, 7)])
    s.cur ≠ .device ∧ s.core.pend = [] ∧ s.held [5] = false ∧
    (match exec (.lih 0 5 0x12345) s with
     | .next t => (match exec (.lih 1 5 0x6789) (t.setCore (t.core.settle (s.clock + 1))) with | .next _ => true | _ => false)
     | _ => false) = true := by decide +kernel

theorem witness_PairForms : (S (K [])).cur ≠ .device ∧ (S (K [])).held (pairRegs 0 ++ pairRegs 31 ++ pairRegs 31) = false ∧
    (S (K [])).held (pairRegs 0 ++ pairRegs 31 ++ [63]) = false ∧
    (sMajor (0x02000005 : W32)).toNat = 0x02 ∧ 0x04 < (sFunc (0x02000005 : W32)).toNat ∧
    (sMajor (0x02041001 : W32)).toNat = 0x02 ∧ (sFunc (0x02041001 : W32)).toNat < 2 ∧ (sRd (0x02041001 : W32)).toNat % 2 = 1 ∧
    (sRa (0x02001004 : W32)).toNat % 2 = 1 ∧ (sFunc (0x02001004 : W32)).toNat = 4 ∧ (sRb (0x02000041 : W32)).toNat % 2 = 1 ∧
    (sMajor (0x0C040000 : W32)).toNat = 0x0C ∧ (sRd (0x0C040000 : W32)).toNat % 2 = 1 := by decide +kernel

theorem witness_ControlTransfers :
    let s := S (K [(5, 0x100), (6, 0x102)])
    s.cur = .stream 1 2 .s ∧ s.cur ≠ .device ∧ s.held [0, 5] = false ∧ s.held [0] = false ∧ s.held [5, 63] = false ∧ (s.ctx 1 2).trap = none ∧
    s.core.pc.toNat % 4 = 0 ∧ (BitVec.ofInt 32 ((s.core.get 5).toNat + (4 : BitVec 12).toInt)).toNat % 4 = 0 ∧
    (BitVec.ofInt 32 ((s.core.get 6).toNat + (4 : BitVec 12).toInt)).toNat % 4 ≠ 0 ∧ (5 : BitVec 6) ≠ 0 := by decide +kernel

theorem witness_TimeWords :
    let s := S (K [(8, 1000), (10, 1001)])
    s.cur ≠ .device ∧ s.held (pairRegs 0) = false ∧ s.held (pairRegs 4) = false ∧ (s.core.getD 4).toNat ≤ s.gtc % 2 ^ 64 ∧
    s.gtc % 2 ^ 64 < (s.core.getD 5).toNat := by decide +kernel

/-- A queue with one slot left, and its head ready. -/
def queue15 : QReg 64 := { items := (List.range 15).map fun i => { val := BitVec.ofNat 64 i, at_ := 999 } }

theorem witness_QueueMovesAndExit :
    let s := S { K [] with q64 := [(3, queue15)] }
    let h := AtH (H [])
    s.cur = .stream 1 2 .s ∧ s.held (pairRegs 31) = false ∧ s.held [] = false ∧ (s.ctx 1 2).hasp.state ≠ .active ∧
    1 ≤ ((s.ctx 1 2).queue64 3).room s.gtc 16 ∧ (match ((s.ctx 1 2).queue64 3).items with | it :: _ => decide (it.at_ < s.gtc) | [] => false) = true ∧ (∀ l ∈ (s.ctx 1 2).landing, l.stream ≠ .s) ∧
    h.cur = .hcp 0 ∧ (h.hcp 0).ending = none := by decide +kernel

theorem witness_ControlRegisters :
    let s := S ((K []).setPl 1)
    s.cur = .stream 1 2 .s ∧ s.held (pairRegs 0) = false ∧ (s.ctx 1 2).hasp.state ≠ .active ∧ csrKind 0x010 = some .user ∧
    csrKind 0x002 = some .supervisor ∧ (s.ctx 1 2).pl ≠ 0 ∧ (s.mdw 1).late = [] := by decide +kernel

theorem witness_ScalarMemoryWords :
    let s := S (K [(8, 0x2040), (10, 2 ^ 21 - 1)])
    let h := AtH (H [(8, 0x2040), (10, 2 ^ 21 - 1)])
    s.cur = .stream 1 2 .s ∧ s.held (pairRegs 4 ++ [0]) = false ∧ s.held (pairRegs 4 ++ [62, 63]) = false ∧ (s.ctx 1 2).landing.length < 64 ∧
    s.access (s.mdw 1) .load [(0x2040, 1)] = .ok [P 0x2040 1] ∧ s.access (s.mdw 1) .load [(0x2040, 2)] = .ok [P 0x2040 2] ∧
    s.access (s.mdw 1) .load [(0x2040, 4)] = .ok [P 0x2040 4] ∧ s.access (s.mdw 1) .load [(0x2040, 8)] = .ok [P 0x2040 8] ∧
    s.access (s.mdw 1) .load [(2 ^ 21 - 1, 1)] = .ok [P (2 ^ 21 - 1) 1] ∧
    s.access (s.mdw 1) .store [(0x2040, 1)] = .ok [P 0x2040 1] ∧ s.access (s.mdw 1) .store [(0x2040, 8)] = .ok [P 0x2040 8] ∧
    h.cur = .hcp 0 ∧ h.held (pairRegs 4 ++ [0]) = false ∧ (h.hcp 0).check 0x2040 8 = .ok 0 ∧ (h.hcp 0).check (2 ^ 21 - 1) 1 = .ok 0 := by
  decide +kernel

/-- Memory of plain text under slot 0, in which no engine holds a line. -/
theorem witness_plain (s : State) (pa len : Nat) (h : tget s.keys 0 = some 0) (k : s.lineKey = []) : plainUnder s 0 pa len :=
  ⟨0, h, fun l _ => .inl (by rw [k]; rfl)⟩

theorem witness_ScalarMemoryWords_store :
    let q := { P 0x203E 8 with off := 4 }
    let p : PendStore := { id := 9, stream := .s, due := 990, parts := [q], data := 0x1122334455667788 * 2 ^ 32, mask := 0xF30 }
    let s := D (M { K [] with stores := [p] })
    p.parts = [q] ∧ q.res = true ∧ s.oldKeys = [] ∧ Memory.wf s.mem ∧ tget s.keys q.key = some 0 ∧ s.lineKey = [] ∧ (s.eng 0).lines = [] ∧ (s.eng 1).lines = [] := by
  decide +kernel

theorem witness_ScratchpadWords :
    let s := S (K [(8, 2 ^ 20 - 4)])
    let m := s.mdw 1
    let a := ((s.ctx 1 2).sc.get 8).toNat % 2 ^ 20
    s.cur = .stream 1 2 .s ∧ s.held [0, 8] = false ∧ m.ecc = [] ∧ m.badWords = [] ∧ m.late = [] ∧ a % 4 = 0 ∧
    (∀ b ∈ m.bufs, a / 4096 < b.2.first ∨ b.2.first + b.2.count ≤ a / 4096) ∧ (s.ctx 1 2).landing.length < 64 ∧
    (∀ y, y < 4 → (m.ctx y).landing = []) := by decide +kernel

def bufOf (st : BufState) : Buf := { first := 16, count := 4, readers := 0, once := false, state := st }

theorem witness_TagAndBufferWords :
    let w : W32 := 0x05000310
    let u : W32 := 0x85000310
    let m := M (K [(8, 255), (9, 5)])
    let s := At (.stream 1 2 .s) { m with bufs := [(5, bufOf .filling), (6, bufOf .full)] }
    let e := At (.stream 1 2 .s) { m with bufs := [(5, bufOf .empty)] }
    s.cur = .stream 1 2 .s ∧ s.held (0 :: pairRegs 31) = false ∧ s.held [0, 9] = false ∧ s.held [9] = false ∧ ((s.ctx 1 2).sc.get 8).toNat < 256 ∧
    (s.mdw 1).late = [] ∧ m.declBad w = false ∧ w.getLsbD 31 = false ∧ (e.mdw 1).declBad u = false ∧ u.getLsbD 31 = true ∧
    tget (s.mdw 1).bufs 5 = some (bufOf .filling) ∧ (bufOf .filling).state = .filling ∧ tget (s.mdw 1).bufs 6 = some (bufOf .full) ∧
    (bufOf .full).once = false ∧ (bufOf .full).readers = 0 ∧ (bufOf .full).state = .full := by decide +kernel

/-! ## Hypotheses that can be met: requests, traps, supervisor words -/

/-- A halted command of the stream engine. -/
def haltedRun : SERun := { d := [0, 0, 0, 0, 0, 0, 0, 0], halted := some 3, moved := 5 }

theorem witness_StreamEngineWords :
    let s := S { K [(8, 0x2040), (20, 0x80000001)] with se := { run := some haltedRun, results := [77, 78] } }
    let k := s.ctx 1 2
    let far := S (K [(8, 2 ^ 30), (20, 1)])
    s.cur = .stream 1 2 .s ∧ s.held (pairRegs 4) = false ∧ s.held (20 :: pairRegs 4) = false ∧ s.held [] = false ∧ k.hasp.state ≠ .active ∧
    k.se.used < 16 ∧ k.se.run = some haltedRun ∧ haltedRun.halted ≠ none ∧ haltedRun.done = false ∧ k.se.results = [77, 78] ∧
    (k.sc.getD 4).toNat % 64 = 0 ∧ vaEntry 0x2040 = some (0, 0x2040, 2 ^ 30) ∧ (k.sc.get 20).toNat / 2 % 2 ^ 15 = 0 ∧ eRes (tgetD (s.mdw 1).window 0 0) = true ∧
    k.se.results.length + k.se.claims < 16 ∧ vaEntry (2 ^ 30) = some (1, 0, 2 ^ 30) ∧ eRes (tgetD (far.mdw 1).window 1 0) = false ∧
    (far.ctx 1 2).se.results.length + (far.ctx 1 2).se.claims < 16 := by decide +kernel

theorem witness_FencesFormatsDraws :
    let s := S (K [(8, 0x2040), (10, 15), (11, 0xFFFF6FFF)])
    let m := s.mdw 1
    let k := s.ctx 1 2
    let h := AtH (H [])
    s.cur = .stream 1 2 .s ∧ s.held [] = false ∧ s.held (pairRegs 4) = false ∧ s.held [0, 10, 11] = false ∧ s.held (11 :: pairRegs 4) = false ∧
    k.hasp.state ≠ .active ∧ s.unreleased 1 2 (k.reachOf .s s.seq) true true .sys = [] ∧ vaEntry (k.sc.getD 4).toNat = some (0, 0x2040, 2 ^ 30) ∧
    (s.eng 0).lines = [] ∧ (s.eng 1).lines = [] ∧ (k.sc.get 10).toNat < 16 ∧ (k.sc.get 11).toNat / 2 ^ 12 % 8 ≠ 7 ∧ m.bankRead s.gtc 15 = false ∧
    m.late = [] ∧ k.dtopo = none ∧ (k.sc.getD 4).toNat % 64 = 0 ∧ s.access m .load [(0x2040, 4)] = .ok [P 0x2040 4] ∧
    h.cur = .hcp 0 ∧ h.held [] = false ∧ (h.hcp 0).stores = [] := by decide +kernel

theorem witness_FencesFormatsDraws_writeBack :
    let h : HeldLine := { va := 0x2040, pa := 0x2040, key := 0, data := 0x1122334455667788, dirty := 0xF }
    let s := { S (K [(8, 0x2040)]) with engines := [(1, { lines := [h] })] }
    s.cur = .stream 1 2 .s ∧ s.held (pairRegs 4) = false ∧ (s.ctx 1 2).hasp.state ≠ .active ∧
    vaEntry ((s.ctx 1 2).sc.getD 4).toNat = some (0, 0x2040, 2 ^ 30) ∧ s.unreleased 1 2 ((s.ctx 1 2).reachOf .s s.seq) true true .sys = [] ∧
    (s.eng 1).lines = [h] ∧ (s.eng (1 - 1)).lines = [] ∧ h.isLine h.va h.pa = true ∧ inGroup (s.mdw 1) 0 h.va = true ∧ h.poison = false ∧
    s.memClean = true ∧ Memory.wf s.mem ∧ tget s.keys h.key = some 0 ∧ s.lineKey = [] := by decide +kernel

theorem witness_AtomicWords :
    let s := S { K [(8, 0x2048), (20, 7)] with arq := [{ id := 3, val := some 9 }] }
    let k := s.ctx 1 2
    s.cur = .stream 1 2 .s ∧ s.held (atomUses true 4 20) = false ∧ s.held (atomUses false 4 63) = false ∧ s.held (pairRegs 4 ++ [20, 21, 22, 23]) = false ∧
    s.held (pairRegs 4 ++ [62, 63]) = false ∧ s.held (pairRegs 0) = false ∧ k.hasp.state ≠ .active ∧ (k.sc.getD 4).toNat % 8 = 0 ∧
    s.access (s.mdw 1) .atomic [(0x2048, 8)] = .ok [P 0x2048 8] ∧ s.access (s.mdw 1) .atomic [(0x2048, 4)] = .ok [P 0x2048 4] ∧
    k.arq.length < 32 ∧ k.arq = { id := 3, val := some 9, mark := none, tval := 0 } :: [] := by decide +kernel

theorem witness_SemaphoreAndBarrierWords :
    let k := K [(8, 0x2040), (10, 2 ^ 23), (11, 2 ^ 32 - 1), (21, 65535)]
    let w : SWait := { id := 9, pc := 0x40, answer := some (.ok 5) }
    let s := S k
    let u := S { k with sWait := some w }
    s.cur = .stream 1 2 .s ∧ s.held (pairRegs 4 ++ [21]) = false ∧ s.held (pairRegs 4) = false ∧ s.held (pairRegs 4 ++ pairRegs 5) = false ∧
    u.held (pairRegs 4 ++ pairRegs 5) = false ∧ (s.ctx 1 2).hasp.state ≠ .active ∧ (k.sc.getD 4).toNat % 64 = 0 ∧
    s.access (s.mdw 1) .atomic [(0x2040, 4)] = .ok [P 0x2040 4] ∧ s.access (s.mdw 1) .atomic [(0x2040, 64)] = .ok [P 0x2040 64] ∧
    s.access (s.mdw 1) { read := true, resident := true } [(0x2040, 4)] = .ok [P 0x2040 4] ∧
    s.access (s.mdw 1) { read := true, resident := true } [(0x2040, 64)] = .ok [P 0x2040 64] ∧
    0 < (k.sc.get 21).toNat ∧ (k.sc.get 21).toNat < 65536 ∧ k.arq.length < 32 ∧ (s.ctx 1 2).sWait = none ∧ (u.ctx 1 2).sWait = some w ∧
    w.answer = some (.ok 5) ∧ 0 < (k.sc.get 10).toNat ∧ (k.sc.get 10).toNat ≤ 2 ^ 23 := by decide +kernel

theorem witness_UserInterrupts :
    let s := S { K [(8, 1)] with uistat := 0x12345678_0001_0005#64 }
    let u := S { K [] with uistat := 1, notif := [0xABCD, 5], task := some { stage := 0, claim := none, resv := none, item := 0 } }
    s.cur = .stream 1 2 .s ∧ s.held [8] = false ∧ s.held [] = false ∧ (s.ctx 1 2).hasp.state ≠ .active ∧ ((s.ctx 1 2).sc.get 8).toNat < 2 ∧
    (s.mdw 1).late = [] ∧ (s.ctx 1 2).uistat.getLsbD 2 = true ∧ ((s.ctx 1 2).uistat.extractLsb' 32 32).toNat % 4 = 0 ∧
    (u.ctx 1 2).notif = 0xABCD :: [5] ∧ (u.ctx 1 2).uiDue = true ∧ (u.ctx 1 2).sc.nextAt ≤ (u.mdw 1).mtc := by decide +kernel

theorem witness_LaunchAndDeclareWords :
    let s := S (K [(8, 0x2040), (10, 0x3000), (20, 0x80000003), (21, 0x0000FFFF)])
    let k := s.ctx 1 2
    s.cur = .stream 1 2 .s ∧ s.held (9 :: pairRegs 4 ++ pairRegs 5) = false ∧ s.held (20 :: pairRegs 4) = false ∧ k.hasp.state ≠ .active ∧
    k.sWait = none ∧ (k.sc.getD 4).toNat % 64 = 0 ∧ (k.sc.getD 5).toNat % 64 = 0 ∧
    s.access (s.mdw 1) { read := true, resident := true } [(0x2040, 64)] = .ok [P 0x2040 64] ∧
    s.access (s.mdw 1) .atomic [(0x3000, 64)] = .ok [P 0x3000 64] ∧ s.ownReadWaits 1 2 [P 0x2040 64] = false ∧ s.memClean = true ∧ (s.readParts [P 0x2040 64]).2.1 = 0 ∧ (k.sc.get 20).toNat / 2 ^ 28 % 8 = 0 ∧
    (k.sc.get 20).getLsbD 31 = true ∧ (k.sc.get 21).getLsbD 31 = false ∧
    s.access (s.mdw 1) { read := true, write := true, resident := true } [(0x2040, 64)] = .ok [P 0x2040 64] ∧
    s.access (s.mdw 1) { read := true, write := true, resident := true } [(0x2040, 64 * 2 ^ 16)] = .ok [P 0x2040 (64 * 2 ^ 16)] := by decide +kernel

/-- A hasp task of context 2 of meadow 1. -/
def task9 (st : HaspState) (roll : Option RollWhy) : Hasp :=
  { state := st, age := ⟨900, 1, 2⟩, tbpc := 0x40, rd := 9, restarts := 0x7FFE, snap := [(4, 5)], roll := roll }
def set9 : HaspSet := { region := 7, ident := 1, base := 0x2000, lines := 4 }
def load9 (stream : StreamId) : LandEntry :=
  { id := 9, stream := stream, pc := 0x3C, lam := 500, arriveAt := 990, dest := .scalar 6 true true, bytes := 8, parts := [P 0x2040 8], todo := [(0, 990)], hasp := true }

theorem witness_HaspTasks :
    let s := S (K [])
    let r := S { K [] with hasp := task9 .restart none }
    let a := S { K [(8, 0x7FFE)] with hasp := task9 .active none }
    let h := { D (M { K [] with hasp := task9 .active none, landing := [load9 .s] }) with engines := [(0, { sets := [set9] }), (1, { sets := [set9] })] }
    let e := D (M { K [] with hasp := task9 .active (some .restart), landing := [load9 .v] })
    let b := D (M { K [] with hasp := task9 .active (some (.abort 77)) })
    let d := homeDie 0x2040
    s.cur = .stream 1 2 .s ∧ s.held [63] = false ∧ (s.ctx 1 2).hasp.state = .none ∧ s.held (pairRegs 0) = false ∧
    (r.ctx 1 2).hasp.state = .restart ∧ (r.ctx 1 2).sc.pc = (r.ctx 1 2).hasp.tbpc ∧ (r.ctx 1 2).hasp.waitSet = none ∧ r.held [0] = false ∧
    (a.ctx 1 2).hasp.state = .active ∧ (a.ctx 1 2).hasp.roll = none ∧ a.openAccs 1 2 = [] ∧ (∀ m ∈ a.meadows, ∀ j ∈ m.2.ctxs, j.2.hasp.waitSet = none) ∧ a.held [8] = false ∧ ((a.ctx 1 2).sc.get 8).toNat < 0x7FFF ∧
    h.haspLoad? 9 = some (1, 2, load9 .s) ∧ h.memClean = true ∧ (h.ctx 1 2).landing.find? (fun g => g.id == 9) = some (load9 .s) ∧
    h.loadReady 1 2 (load9 .s) = true ∧ h.setsOf 7 [P 0x2040 8] = [(0, set9)] ∧ d = 0 ∧ (load9 .s).spad = none ∧ (load9 .s).todo = [(0, 990)] ∧ (P 0x2040 8).off = 0 ∧ set9.owner = none ∧
    (h.eng 0).sets.find? (fun t => t.region == 7 && t.ident == 1) = some set9 ∧
    (e.ctx 1 2).hasp.roll = some .restart ∧ (e.ctx 1 2).trap = none ∧ (∀ l ∈ (e.ctx 1 2).landing, l.stream ≠ .s) ∧
    (b.ctx 1 2).hasp.roll = some (.abort 77) ∧ (b.ctx 1 2).hasp.rd ≠ 0 ∧ (b.ctx 1 2).trap = none := by decide +kernel

theorem witness_TrapAndReturn :
    let s := S (K [(20, 0x12345)])
    let v := S { (K []).setPl 1 with tcause := 0x12345678_0000E100#64, tval := 7, tpc := 9 }
    s.cur = .stream 1 2 .s ∧ s.held [20] = false ∧ (s.ctx 1 2).trap = none ∧ (s.ctx 1 2).hasp.state ≠ .active ∧
    v.cur = .stream 1 2 .s ∧ v.held [] = false ∧ (v.ctx 1 2).hasp.state ≠ .active ∧ (v.ctx 1 2).pl ≠ 0 ∧ (v.ctx 1 2).tcause.getLsbD 14 = true ∧
    (v.ctx 1 2).unbound = [] ∧ (v.ctx 1 2).trap = none ∧ (v.ctx 1 2).tcause.getLsbD 15 = true ∧ (v.ctx 1 2).tcause.toNat / 2 ^ 8 % 4 = 1 ∧
    ((v.ctx 1 2).tcause.extractLsb' 32 32).toNat % 4 = 0 := by decide +kernel

/-- A cause that a context holds. -/
def cause7F : TrapPend := { cause := 0x7F, tval := 0x1234, tpc := 0x77, stream := some .s, sepc := .atWord, at_ := 990, mtc := 495 }

theorem witness_TrapEntry :
    let s := D { M { K [] with trap := some cause7F } with tvec := 0x800 }
    let a := D { M { K [] with trap := some cause7F, tcause := 0x4000 } with tvec := 0x800 }
    let z := D (M { K [] with trap := some cause7F })
    (s.ctx 1 2).trap = some cause7F ∧ (s.mdw 1).stopping = none ∧ cause7F.at_ ≤ s.gtc ∧ s.trapQuiet 1 2 = true ∧ cause7F.cause < 128 ∧
    cause7F.cause ≠ Cause.owner ∧ (s.ctx 1 2).active = false ∧ (s.mdw 1).tvec ≠ 0 ∧ (s.ctx 1 2).hasp.state ≠ .active ∧
    (a.ctx 1 2).trap = some cause7F ∧ (a.mdw 1).stopping = none ∧ a.trapQuiet 1 2 = true ∧ (a.ctx 1 2).active = true ∧
    (z.ctx 1 2).trap = some cause7F ∧ (z.mdw 1).stopping = none ∧ z.trapQuiet 1 2 = true ∧ (z.mdw 1).tvec = 0 := by decide +kernel

/-- A timed meadow holds no S-word for a register. -/
theorem timed_never_held (k : Ctx) (regs : List Nat) : (S k).held regs = false := rfl

theorem witness_ScalarTraps :
    let s := S (K [(20, 0x1003), (9, 1)])
    let h := S { K [] with hasp := task9 .active none }
    s.cur = .stream 1 2 .s ∧ (s.ctx 1 2).trap = none ∧ ((s.ctx 1 2).sc.get 20 + (0xFFF#12).signExtend 32).toNat % 4 ≠ 0 ∧ csrKind 0xFFF = none ∧
    csrKind 0x042 = some .supervisor ∧ (s.ctx 1 2).pl = 0 ∧ h.cur = .stream 1 2 .s ∧ (h.ctx 1 2).trap = none ∧ (h.ctx 1 2).hasp.state = .active ∧
    (match s.access (s.mdw 1) .load [(((s.ctx 1 2).sc.getD 4).toNat, 4)] with | .trap _ _ => true | _ => false) = true := by decide +kernel

def vw : VWord :=
  { ic := 1, et := .i32, pred := 0, sense := false, rm := .rne, n := 3, dst := .rows 300 1 false false, src1 := .rows 10 1 false false,
    src2 := .rows 20 1 false false }
def mw : MWord :=
  { ic := 1, fa := .e4m3, fb := .e4m3, tile := 3, rm := .rne, stampMode := .none, stamp := 0, srcA := .desc 5, srcB := .breg 1, gather := none,
    scatter := none, acc := false, full := false, once := false, steps := 1, mx := 4, my := 5, imm64 := 0 }

theorem witness_UngrantedTiles :
    let k := { K [] with istat := 0xFD000 }
    let v := V (M k)
    let m := X (M { k with istat := 0, mregs := [(4, 0x2000), (5, 0), (10, 0x4000), (11, 0x01000100)] })
    let r := mWordRegs (m.ctx 1 2) mw
    let w := { vw with n := 8, dst := .rows 255 1 false false }
    v.cur = .stream 1 2 .v ∧ (v.ctx 1 2).trap = none ∧ Instr.vadd w ∈ sweepWords w ∧ vParts (.vadd w) = some (0x10, w) ∧
    256 ∈ vTouched 0x10 w ∧ (v.ctx 1 2).tileGranted 2 = true ∧ (v.ctx 1 2).tileGranted 1 = false ∧ 255 ∈ vTouched 0x10 w ∧
    (∀ u ∈ vTouched 0x10 w, (v.ctx 1 2).tileGranted (u / 128) = false → 255 ≤ u) ∧
    m.cur = .stream 1 2 .m ∧ (m.ctx 1 2).trap = none ∧ (m.ctx 1 2).tileGranted mw.tile.toNat = false ∧ mw.srcB = .breg 1 ∧ (m.ctx 1 2).bregGranted 1 = false ∧
    vIndexBad (v.mdw 1) (v.ctx 1 2) w = false ∧ ldbPast (m.mdw 1) mw = false ∧ (m.mdw 1).drawHolds 2 m.gtc = false ∧
    (m.mdw 1).staDescBad mw ((r[0]?).getD 0) ((r[1]?).getD 0) = false ∧ listBad ((m.ctx 1 2).mreg 4) ((m.ctx 1 2).mreg 5) = false ∧
    descBad ((r[0]?).getD 0) ((r[1]?).getD 0) = false := by decide +kernel

/-- A region of meadow 1, and a launch on it. -/
def stage2 : Stage :=
  { rcb := 0x9000, qin := 0, qout := 0, role := 2, insp := false, outsp := false, maxctx := 3, ctx := 2, tiles := 0x0C, bregs := 3, vtiles := 8,
    items := 5, use := 7, sentry := 0x100, ventry := 0x180, mentry := 0x300, prio := 1 }
def region7 (stages : List Stage) : Region :=
  { id := 7, launch := 1, rcb := 0x9000, path := [3, 0], window := 0x500000, key := 0, timed := true, gang := false, prio := 1, eff := 1,
    area := 0x600000, stages := stages, plist := [1] }
def launch1 : Launch :=
  { id := 1, queue := 0, slot := 0, kind := 0, word0 := 0, seq := 0, rcb := 0x9000, post := 0, pinc := 0, arg := 0, crec := 0, path := [3, 0], domain := 3 }
def beat2 : BeatRun := { owner := 2, w := mw, pc := 0xC0, grid := 744 }

theorem witness_SupervisorWords_stops :
    let k := { (K [(8, 0x200000), (20, 1)]).setPl 1 with sWait := none }
    let s := { S k with regions := [region7 []], keys := [(0, 0), (5, 77)] }
    let b := { At (.stream 1 2 .s) { M k with beat := some beat2 } with regions := [region7 []] }
    let g := mem4 0x200000 64 (0x43415841 * 2 ^ 32 + 2 ^ 16 + 1 + 0x9000 * 2 ^ 64 + 2 ^ 256) s
    s.cur = .stream 1 2 .s ∧ s.held (pairRegs 4) = false ∧ s.held (9 :: pairRegs 4) = false ∧ s.held (9 :: 20 :: pairRegs 4) = false ∧
    (s.ctx 1 2).pl ≠ 0 ∧ (s.ctx 1 2).hasp.state ≠ .active ∧ (s.mdw 1).ctxs = [(2, k)] ∧ (s.mdw 1).region = some 7 ∧
    s.regions.find? (fun q => q.id == 7) = some (region7 []) ∧ (region7 []).fin = none ∧ (s.ctx 1 2).sWait = none ∧
    ((s.ctx 1 2).sc.getD 4).toNat % 4096 = 0 ∧ s.access (s.mdw 1) .store [(0x200000, 2 ^ 21)] = .ok [P 0x200000 (2 ^ 21)] ∧
    (s.mdw 1).beat = none ∧ (s.mdw 1).stopping = none ∧ b.cur = .stream 1 2 .s ∧ (b.mdw 1).beat.isSome = true ∧
    b.access (b.mdw 1) .store [(0x200000, 2 ^ 21)] = .ok [P 0x200000 (2 ^ 21)] ∧ ((s.ctx 1 2).sc.get 20).toNat < 2 ∧
    g.access (g.mdw 1) { read := true, resident := true } [(0x200000, 2 ^ 21)] = .ok [P 0x200000 (2 ^ 21)] ∧
    g.imageCheck 1 0x200000 ((g.ctx 1 2).sc.get 20 |>.getLsbD 0) = none ∧ s.imageCheck 1 0x200000 ((s.ctx 1 2).sc.get 20 |>.getLsbD 0) = some 1 ∧
    s.access (s.mdw 1) { read := true, resident := true } [(0x200000, 2 ^ 21)] = .ok [P 0x200000 (2 ^ 21)] := by decide +kernel

theorem witness_SupervisorWords_keys :
    let s := { S ((K [(8, 0x200008)]).setPl 1) with regions := [region7 []] }
    let e := { S ((K [(8, 0x200008), (20, 0x80000005)]).setPl 1) with regions := [region7 []], keys := [(0, 0), (5, 77)] }
    let w := mem4 (0x200000 + 24) 16 (openEntry.toNat + 3 * 2 ^ 30 + 2 ^ 64 * (openEntry.toNat + 5 * 2 ^ 30))
      { S ((K [(8, 0x200000), (20, 2 * 65536 + 3)]).setPl 1) with regions := [region7 []] }
    let a := 0x200000
    s.cur = .stream 1 2 .s ∧ s.held (9 :: 20 :: pairRegs 4) = false ∧ (s.ctx 1 2).pl ≠ 0 ∧ ((s.ctx 1 2).sc.getD 4).toNat % 8 = 0 ∧
    ((s.ctx 1 2).sc.get 20).toNat = 0 ∧ s.access (s.mdw 1) .load [(0x200008, 72)] = .ok [P 0x200008 72] ∧
    s.ownReadWaits 1 2 [P 0x200008 72] = false ∧ s.memClean = true ∧ (s.readParts [P 0x200008 72]).2.1 = 0 ∧ (5 % 2 ^ 10 : Nat) ≠ 0 ∧ e.ownReadWaits 1 2 [P 0x200008 72] = false ∧ e.memClean = true ∧
    ((e.ctx 1 2).sc.get 20).toNat % 2 ^ 10 ≠ 0 ∧ ((e.ctx 1 2).sc.get 20).toNat / 2 ^ 10 % 2 ^ 21 = 0 ∧ e.level < 2 ∧ 2 ^ 31 ≤ ((e.ctx 1 2).sc.get 20).toNat ∧
    e.access (e.mdw 1) .load [(0x200008, 72)] = .ok [P 0x200008 72] ∧
    w.cur = .stream 1 2 .s ∧ w.held (9 :: 20 :: pairRegs 4) = false ∧ (w.ctx 1 2).pl ≠ 0 ∧ ((w.ctx 1 2).sc.getD 4).toNat = a ∧
    ((w.ctx 1 2).sc.get 20).toNat % 2 ^ 16 = 3 ∧ ((w.ctx 1 2).sc.get 20).toNat / 2 ^ 16 % 2 ^ 16 = 2 ∧ w.backed (a + 8 * 3) = true ∧ w.memClean = true ∧
    (w.heathLine (a + 8 * 3) 0).2 = false ∧ (w.heathLine (a + 8 * 3 + 64) 0).2 = false ∧
    w.windowFault (w.regionKey (w.mdw 1)) ((w.imageEntries a 3 2).foldl (fun t e => tputD t e.1 e.2 0) (w.mdw 1).window)
      ((w.imageEntries a 3 2).map (·.1)) = none ∧ (w.mdw 1).late = [] := by decide +kernel

/-- A word of each shape answers a next state. -/
theorem witness_WordFrames :
    (encode (.addi 1 9 8 5)).isSome = true ∧ (match exec (.addi 1 9 8 5) (S (K [])) with | .next _ => true | _ => false) = true ∧
    (encode (.vNop vw)).isSome = true ∧ (match exec (.vNop vw) (V (M (K []))) with | .next _ => true | _ => false) = true ∧
    (encode (.mNop mw)).isSome = true ∧ (match exec (.mNop mw) (X (M (K []))) with | .next _ => true | _ => false) = true := by decide +kernel

/-! ## Hypotheses that can be met: the heath -/

def block (l : List (Nat × Nat)) : Nat := l.foldl (fun v p => v + p.2 * 2 ^ (8 * p.1)) 0
def hgemvBlock : Nat :=
  block [(0, 3 * 2 ^ 56 + (ElemType.bf16).code.toNat * 2 ^ 48), (8, 0x1000), (0x10, 2 * 2 ^ 32 + 8 * 2 ^ 16 + 4), (0x18, 0x2000), (0x20, 0), (0x28, 0x3000)]

theorem witness_EngineCommandWords :
    let h := { H [(8, 0x8000)] with pages := (List.range 8).map fun i => ⟨i * 2 ^ 21, 0⟩ }
    let s := mem4 0x8000 64 hgemvBlock (AtH h)
    let e := mem4 0x8000 64 (hgemvBlock + 2 ^ 32) (AtH h)
    let v := (s.hRead 0 0x8000 64).1
    let b : HBlock := ⟨(List.range 8).map fun i => BitVec.ofNat 64 (v / 2 ^ (64 * i))⟩
    let u := (e.hRead 0 0x8000 64).1
    let d : HBlock := ⟨(List.range 8).map fun i => BitVec.ofNat 64 (u / 2 ^ (64 * i))⟩
    s.cur = .hcp 0 ∧ s.held (pairRegs 4) = false ∧ s.memClean = true ∧ ((s.hcp 0).sc.getD 4).toNat % 2 ^ 48 = 0x8000 ∧
    (match (s.hcp 0).check 0x8000 64 with | .ok key => key == 0 | .error _ => false) = true ∧ (s.hRead 0 0x8000 64).2 = 0 ∧
    (tgetD (s.hcp 0).status b.tag 0).getLsbD 31 = false ∧
    s.queueFull { id := 0, hcp := 0, func := 0, block := b.w, engines := b.engines, readyAt := 0 } = false ∧
    (match s.hCheck 0 0 b with | .ok _ => true | .error _ => false) = true ∧ s.thresh ≤ (s.hcp 0).effClass ∧ (s.hcp 0).stores = [] ∧
    e.cur = .hcp 0 ∧ e.held (pairRegs 4) = false ∧ e.memClean = true ∧ (e.hRead 0 0x8000 64).2 = 0 ∧
    e.queueFull { id := 0, hcp := 0, func := 0, block := d.w, engines := d.engines, readyAt := 0 } = false ∧
    (match e.hCheck 0 0 d with | .ok _ => false | .error _ => true) = true := by decide +kernel

theorem witness_HeathControlWords :
    let s := (AtH (H [(8, 0x1000), (20, 1 + 2 ^ 16), (21, 64 + 512 * 2 ^ 16), (22, 0xFFFF), (23, 15), (24, 7)])).modHcp 0
      fun h => { h with posts := [(7, (0x123440, 0x5440, 3))] }
    let t0 := s.hcp 0
    let w := (t0.sc.get 20).toNat
    let v := (t0.sc.get 21).toNat
    s.cur = .hcp 0 ∧ s.held (20 :: pairRegs 4) = false ∧ 1 ≤ w % 2 ^ 7 ∧ w % 2 ^ 7 ≤ 64 ∧ w / 2 ^ 7 % 2 ^ 9 = 0 ∧ 1 ≤ w / 2 ^ 16 % 2 ^ 10 ∧
    w / 2 ^ 16 % 2 ^ 10 ≤ 512 ∧ w / 2 ^ 26 = 0 ∧ v % 2 ^ 7 ≤ 64 ∧ v / 2 ^ 7 % 2 ^ 9 = 0 ∧ v / 2 ^ 16 % 2 ^ 10 ≤ 512 ∧ v / 2 ^ 26 = 0 ∧
    (t0.sc.getD 4).toNat % 2 ^ 48 = 0x1000 ∧ (⟨0x1000, 1, .own, true⟩ : HRange).check 0 t0 = none ∧ (placeOf 0x1000).isSome = true ∧
    s.hcmds = [] ∧ t0.stores = [] ∧ s.held [22] = false ∧ (t0.sc.get 22).toNat < 2 ^ 16 ∧ t0.status = [] ∧
    s.held [9, 23] = false ∧ (t0.sc.get 23).toNat < 16 ∧ s.held [24, 21] = false ∧ (t0.sc.get 24).toNat < 8 ∧
    tget t0.posts (t0.sc.get 24).toNat = some (0x123440, 0x5440, 3) := by decide +kernel

/-! ## Hypotheses that can be met: vector words -/

def qfull : QReg 64 := { items := [0x2000, 0x3000, 0x4000, 0x200].map fun v => { val := BitVec.ofNat 64 v, at_ := 5 } }
/-- A meadow with every tile full, long enough for a V-word to see it. -/
def MV (k : Ctx) : Meadow := { M k with rows := [(10, 5), (20, 7)], tileFull := List.range 8, tileOld := List.range 8 }

theorem witness_VectorWordsIssue :
    let s := V (MV { K [(8, 0x10000)] with q64 := [(0, qfull)] })
    let a := { vw with n := 64, dst := .rows 960 1 false false }
    let l := { vw with et := .n32, src1 := .queue 0, src2 := .imm 600 }
    let p := { vw with src1 := .imm 512, src2 := .imm 100 }
    let q := { vw with dst := .rows 1023 1 false false, src1 := .imm 1, src2 := .imm 0 }
    s.cur = .stream 1 2 .v ∧ (s.mdw 1).ecc = [] ∧
    Instr.vadd a ∈ sweepWords a ∧ vParts (.vadd a) = some (0x10, a) ∧ vUngranted (s.ctx 1 2) 0x10 a = none ∧ s.vHeld 1 2 0x10 a = false ∧
    s.vCheck 1 2 0x10 a = .go ∧
    Instr.vld l ∈ sweepWords l ∧ vParts (.vld l) = some (0x70, l) ∧ vUngranted (s.ctx 1 2) 0x70 l = none ∧ s.vHeld 1 2 0x70 l = false ∧
    s.vCheck 1 2 0x70 l = .go ∧
    Instr.vlds p ∈ sweepWords p ∧ vParts (.vlds p) = some (0x72, p) ∧ vUngranted (s.ctx 1 2) 0x72 p = none ∧ s.vHeld 1 2 0x72 p = false ∧
    s.vCheck 1 2 0x72 p = .go ∧
    vParts (.vNop a) = some (0x01, a) ∧ vUngranted (s.ctx 1 2) 0x01 a = none ∧ s.vHeld 1 2 0x01 a = false ∧
    vParts (.vmarkFull q) = some (0xF0, q) ∧ vParts (.vmarkEmpty q) = some (0xF0, q) ∧ vUngranted (s.ctx 1 2) 0xF0 q = none ∧
    s.vHeld 1 2 0xF0 q = false ∧
    vParts (.vexit a) = some (0xFF, a) ∧ vUngranted (s.ctx 1 2) 0xFF a = none ∧ s.vHeld 1 2 0xFF a = false := by decide +kernel

def flight (i : Instr) : VFlight := { id := 5, ctx := 2, ins := i, pc := 0x80, t0 := 490, n := 3, c := 1, lat := 8, step := 2 }
def Fl (i : Instr) (done : List VResult) : State := D { MV (K []) with flights := [{ flight i with done := done }] }

theorem witness_IntegerLaneResults :
    let w := { vw with et := .i8 }
    let u := { vw with et := .i8, src2 := .imm 511 }
    (∀ i ∈ [Instr.vadd w, .vsub w, .vmul w, .vfma w, .vmin w, .vmax w, .vand w, .vor w, .vxor w, .vshl w, .vshr w, .vsra w, .vmulh w, .vabs w,
        .vneg w, .vnot w, .vclz w, .vpopc w, .vmov w, .vrot u, .vbcast u],
      ((Fl i []).mdw 1).flights.find? (·.id == 5) = some (flight i) ∧ (flight i).ins = i ∧ (flight i).step < (flight i).n ∧
      (flight i).readAt 2 ≤ (Fl i []).gtc ∧ (flight i).fed ((Fl i []).ctx 1 2) (Fl i []).gtc = true ∧ (flight i).done = [] ∧ ((Fl i []).mdw 1).rowPoison = []) ∧
    w.et.cls = .I ∧ w.pred = 0 ∧ w.sense = false ∧ w.src1 = .rows 10 1 false false ∧ w.src2 = .rows 20 1 false false ∧
    w.dst = .rows 300 1 false false ∧ u.src2 = .imm 511 ∧ 511 < 4096 / u.et.width := by decide +kernel

/-- A sweep of word i with its carried values, at its last step. -/
def FlA (i : Instr) (n : Nat) (acc : List Nat) : State := D { MV (K []) with flights := [{ flight i with n := n, step := n - 1, acc := acc }] }
def sweeps (i : Instr) (n : Nat) (acc : List Nat) : Bool :=
  let f : VFlight := { flight i with n := n, step := n - 1, acc := acc }
  let s := FlA i n acc
  (s.mdw 1).flights.find? (·.id == 5) == some f && decide (f.step < f.n) && decide (f.readAt f.step ≤ s.gtc) && f.fed (s.ctx 1 2) s.gtc && f.done.isEmpty &&
    (s.mdw 1).rowPoison.isEmpty

theorem witness_LaneResults :
    let q := VOperand.imm 0
    let w (ty : ElemType) : VWord := { vw with et := ty, pred := 3, sense := true }
    let u (ty : ElemType) : VWord := { w ty with src2 := q }
    let c (ty : ElemType) : VWord := { w ty with dst := .rows 5 1 false false }
    (∀ ty ∈ [ElemType.f32, .e4m3, .n16],
      (ty.cls = .F ∨ ty.cls = .E ∨ ty.cls = .I) ∧ (w ty).dst = .rows 300 1 false false ∧ (w ty).src1 = .rows 10 1 false false ∧ (w ty).src2 = .rows 20 1 false false ∧
      (∀ i ∈ [Instr.vcmpEq (c ty), .vcmpNe (c ty), .vcmpLt (c ty), .vcmpLe (c ty), .vcmpGt (c ty), .vcmpGe (c ty), .vcmpUn (c ty), .vsel (w ty), .vperm (w ty),
        .vrot (u ty), .vbcast (u ty), .vmov (u ty), .vcomp (u ty), .vcvt (u ty)], sweeps i 3 [] = true)) ∧
    (∀ ty ∈ [ElemType.f32, .e4m3], ty.cls ≠ .I ∧
      ∀ i ∈ [Instr.vadd (w ty), .vsub (w ty), .vmul (w ty), .vfma (w ty), .vmin (w ty), .vmax (w ty), .vabs (w ty), .vneg (w ty)], sweeps i 3 [] = true) ∧
    (∀ i ∈ [Instr.vexp2 (w .f32), .vlog2 (w .f32), .vrcp (w .f32), .vrsq (w .f32), .vsqrt (w .f32)], sweeps i 3 [] = true) ∧
    (∀ ty ∈ [ElemType.f32, .n16], ty.cls ≠ .E ∧
      ∀ i ∈ [Instr.vrsum (u ty), .vrmax (u ty), .vrmin (u ty), .vscan (u ty), .vscanmax (u ty)], sweeps i 3 [] = true) ∧
    (∀ i ∈ [Instr.viota { w .i8 with src1 := .imm 5, src2 := .imm 0xFFFFF }, .pand (w .f32), .por (w .f32), .pxor (w .f32), .pnot (u .f32)], sweeps i 3 [] = true) ∧
    ElemType.i8.cls = .I := by decide +kernel

theorem witness_LaneResults_values :
    let s := FlA (.vscale { vw with et := .f32, src2 := .imm 0 }) 1 []
    let row := (s.mdw 1).row (opRow vw.src1 0)
    let ok := drawSave { temp := 0x3F800000, anyInf := false, mhat := none } 5
    let bad := drawSave { temp := 0x7FC00000, anyInf := false, mhat := none } 5
    let d : VWord := { vw with et := .f32, src2 := .imm 0, dst := .rows 300 2 false false }
    let n : VWord := { vw with et := .n64, src1 := .rows 10 2 false false, src2 := .rows 20 2 false false, dst := .rows 300 2 false false }
    sweeps (.vscale { vw with et := .f32, src2 := .imm 0 }) 1 [] = true ∧
    (∀ j, j < 128 → laneOf 32 row j % 2 ^ 31 ≤ 5 ∧ (tyFmt .f32).value (laneOf 32 row j) ≠ .nan 5) ∧ laneOf 32 row 0 % 2 ^ 31 = 5 ∧
    (match (tyFmt .f32).value (laneOf 32 row 0) with | .fin _ => true | _ => false) = true ∧
    drawBadT (drawLoad ok).1.temp = false ∧ drawBadT (drawLoad bad).1.temp = true ∧ sweeps (.vdraw d) 3 ok = true ∧ sweeps (.vdraw d) 3 bad = true ∧
    (∀ j, j < 128 → ((tyFmt .f32).value (laneOf 32 (((FlA (.vdraw d) 3 ok).mdw 1).row (opRow d.src1 2)) j)).code? = none) ∧
    sweeps (.vdmrg n) 3 [] = true ∧ sweeps (.dtree { n with src2 := .imm 0 }) 3 [0xFFFF, 0, 1] = true := by decide +kernel

/-- The merges of DTREE, in order, always exist. -/
theorem merges_exist (base : Nat → DPair) (merge : Nat → (Nat → DPair) → Nat → DPair) :
    ∃ t : Nat → Nat → DPair, (∀ e, t 0 e = base e) ∧ ∀ u q, t (u + 1) q = merge u (t u) q :=
  ⟨fun n => Nat.rec base merge n, fun _ => rfl, fun _ _ => rfl⟩

def resultOf (pred wide : Bool) (mask : Pred) : VResult := { step := 1, due := 500, row := 9, hi := 8, mask := mask, pred := pred, wide := wide }

theorem witness_StepResultsLand :
    let all : Pred := BitVec.allOnes 512
    let q (n : BitVec 3) : VWord := { vw with dst := .queue n }
    (∀ r ∈ [resultOf false false all, resultOf false true all, resultOf false false 0xFF],
      let s := Fl (.vadd vw) [r]
      vParts (.vadd vw) = some (0x10, vw) ∧ (s.mdw 1).flights.find? (·.id == 5) = some { flight (.vadd vw) with done := [r] } ∧
      [r].find? (·.step == r.step) = some r ∧ r.due ≤ s.gtc ∧ (flight (.vadd vw)).roomFor (s.ctx 1 2) s.gtc = true ∧ opQueue? vw.dst = none) ∧
    (resultOf true false 0xFF).pred = true ∧ vParts (.vcmpEq vw) = some (0x20, vw) ∧
    ((Fl (.vcmpEq vw) [resultOf true false 0xFF]).mdw 1).flights.find? (·.id == 5) =
      some { flight (.vcmpEq vw) with done := [resultOf true false 0xFF] } ∧
    opQueue? (q 3).dst = some 3 ∧ opQueue? (q 4).dst = some 4 ∧ (flight (.vadd (q 3))).roomFor (K []) 1000 = true ∧ (flight (.vadd (q 4))).roomFor (K []) 1000 = true ∧ vParts (.vadd (q 3)) = some (0x10, q 3) ∧
    ((Fl (.vadd (q 3)) [resultOf false false all]).mdw 1).flights.find? (·.id == 5) =
      some { flight (.vadd (q 3)) with done := [resultOf false false all] } ∧
    ((Fl (.vadd (q 4)) [resultOf false false all]).mdw 1).flights.find? (·.id == 5) =
      some { flight (.vadd (q 4)) with done := [resultOf false false all] } := by decide +kernel

/-! ## Hypotheses that can be met: matrix words -/

/-- A meadow whose tile 3 holds f32, with loaded operand registers and e4m3 banks but for bank 15, which holds f32. -/
def MX (k : Ctx) : Meadow :=
  { M k with
    tileType := [(3, .f32)], bregs := [(0, { tag := .e4m3 }), (1, { tag := .e4m3 })],
    sbf := (List.range 16).map fun i => (i, BitVec.ofNat 32 (if i = 15 then (ElemType.f32).code.toNat else (ElemType.e4m3).code.toNat)) }
def KX : Ctx :=
  { K [] with mregs := [(4, 0x2000), (5, 0), (10, 0x4000), (11, 0x01000100)], q64 := [(1, qfull)] }

theorem witness_MatrixSingleWords :
    let s := X (MX KX)
    let m := s.mdw 1
    let k := m.ctx 2
    s.cur = .stream 1 2 .m ∧ m.drawHolds 2 s.gtc = false ∧ k.tileGranted mw.tile.toNat = true ∧ m.beatTile mw.tile.toNat = false ∧
    m.tileBusy 2 s.gtc mw.tile.toNat = false ∧ ({ mw with imm64 := 4 }.imm64 % 8).toNat < 5 ∧
    (k.queue64 (mw.my.toNat % 4)).ready s.gtc ≠ [] ∧ m.tileIsFull mw.tile.toNat = false ∧ m.mPending 2 s.gtc ((0xFF#64).extractLsb' 0 8) = false ∧
    m.mPending 2 s.gtc 0 = false ∧ m.late = [] ∧ 1 ≤ (1#64 % 16).toNat ∧ (8#64 % 16).toNat ≤ 8 := by decide +kernel

/-- The words of a TOPB of two steps on tile 3. -/
def topbWords : List Nat :=
  [2 + 16 * (ElemType.e4m3).code.toNat + 256 * (ElemType.e4m3).code.toNat + 3 * 4096, 0x4000, 0x8000, 256 * 65536 + 256, 0, 0, 0, 0, 2, 0, 0, 0, 3, 0, 0, 0]
    ++ List.replicate 16 0

theorem witness_TileStepWords :
    let b := { mw with srcA := .breg 0, steps := 0 }
    let k := { KX with mregs := [(4, 0x1000)] }
    let s := X (MX k)
    let m := s.mdw 1
    let tw : TileWord := { ins := .mma b, pc := k.mpc, total := 65536, regs := mWordRegs k b, running := false }
    let v := X { MX k with spad := topbWords.zipIdx.foldl (fun sp p => spadWrite sp (0x1000 + 4 * p.2) 4 p.1 15) [] }
    let n := v.mdw 1
    let topb := (List.range 32).map fun i => BitVec.ofNat 32 (spadRead n.spad (0x1000 + 4 * i) 4)
    let wk : TileWord := { ins := .mwalk b, pc := k.mpc, total := topbTotal topb, running := false, walk := some ⟨topb, k.mpc + 24⟩ }
    let u : TileWord := { ins := .mma { b with steps := 3 }, pc := 0x20, total := 3, regs := mWordRegs k b, running := false, next := 1, byTrap := true }
    let z := X (MX { k with suspended := some u })
    let re : TileWord := { u with ins := .mwres b, pc := k.mpc, byTrap := false }
    s.cur = .stream 1 2 .m ∧ m.drawHolds 2 s.gtc = false ∧ b.stampMode = .none ∧ k.tileWord = none ∧ k.suspended = none ∧
    mUngranted k (some 3) tw.bregs = none ∧ mmaDescBad b tw.regs = none ∧ m.stepWaits 2 s.gtc tw (tw.plan m 0) 0 = false ∧
    (match m.stepFate (m.ctx 2) tw (tw.plan m 0) with | .go => true | _ => false) = true ∧ s.arrayHeld 1 2 = false ∧ m.ecc = [] ∧ m.badWords = [] ∧
    (k.mreg 4).toNat % 128 = 0 ∧ (k.mreg 4).toNat < 2 ^ 20 ∧ topbWorst topb = none ∧ n.stepWaits 2 v.gtc wk (wk.plan n 0) 0 = false ∧
    (match n.stepFate (n.ctx 2) wk (wk.plan n 0) with | .go => true | _ => false) = true ∧ v.arrayHeld 1 2 = false ∧ n.ecc = [] ∧ n.badWords = [] ∧
    (z.ctx 1 2).suspended = some u ∧ (z.mdw 1).stepWaits 2 z.gtc re (re.plan (z.mdw 1) 1) 1 = false ∧
    (match (z.mdw 1).stepFate (z.ctx 1 2) re (re.plan (z.mdw 1) 1) with | .go => true | _ => false) = true ∧ z.arrayHeld 1 2 = false := by decide +kernel

theorem witness_MatrixTransferWords :
    let s := X (MX KX)
    let m := s.mdw 1
    let k := m.ctx 2
    let a := { mw with fa := .bf16, imm64 := 64 }
    let t := { mw with fb := .f32, imm64 := 3 + 256 * 7 }
    let regs := mWordRegs k mw
    let p := m.srcOperand mw.fa mw.srcA ((regs[0]?).getD 0) ((regs[1]?).getD 0) none 0
    s.cur = .stream 1 2 .m ∧ m.drawHolds 2 s.gtc = false ∧ m.ecc = [] ∧ m.badWords = [] ∧ k.bregGranted 1 = true ∧
    descBad ((regs[0]?).getD 0) ((regs[1]?).getD 0) = false ∧ m.ldbHeld 2 s.gtc 1 = false ∧ p.conflict m = none ∧
    (∀ r ∈ p.allRanges m.sbf, m.bufFault .mread r.1 r.2 = none ∧ m.bufWait .mread r.1 r.2 = false) ∧
    mUngranted k (some 3) [1] = none ∧ m.tileBusy 2 s.gtc 3 = false ∧ m.beatTile 3 = false ∧ ldbOk (m.tileTy 3) a.fa = true ∧
    tileElem (m.tileTy 3) = some .f32 ∧ 128 * 3 + 64 + ldbRows .f32 a.fa ≤ 1024 ∧
    (∀ j, j < 8 → k.tileGranted j = true ∧ m.tileBusy 2 s.gtc j = false ∧ m.beatTile j = false) ∧
    m.beat = none ∧ (m.unit .drain).busyUntil ≤ s.gtc ∧ m.staCheck t ((regs[0]?).getD 0) ((regs[1]?).getD 0) = none ∧
    listBad (k.mreg 4) (k.mreg 5) = false ∧ m.tileTy 3 = .f32 ∧ m.bufFault .mwrite 0x2000 2 = none := by decide +kernel

/-- Rows of zeros hold no lane that MLDB refuses. -/
theorem zero_rows_plain (k : Ctx) (v : Nat) : rowNaN5 .f32 .bf16 ((MX k).row v, (MX k).poisoned v) = false := by
  show rowNaN5 .f32 .bf16 (0, false) = false
  decide +kernel

def plainOperand : TileOperand := { fmt := .i8, rows := List.replicate 128 1 }
def intStep : TileStep :=
  { id := 9, ctx := 2, at_ := 728, pc := 0, step := 0, walk := none, last := true, once := false, tile := 7, rm := .rne, overwrite := false, markFull := true,
    a := plainOperand, b := plainOperand, sbf := [], k := 0, c0 := 0 }

theorem witness_TileStepEvents :
    let b := { mw with srcA := .breg 0, steps := 3 }
    let tw : TileWord := { ins := .mma b, pc := 0xC0, total := 3, next := 1, lastAt := 872, regs := mWordRegs KX b, running := true }
    let s := D (MX { KX with tileWord := some tw })
    let m := s.mdw 1
    let r := D { MX KX with tileSteps := [intStep] }
    m.beat = none ∧ m.frozen = false ∧ m.dueWord s.gtc true = none ∧ m.dueWord s.gtc false = some (2, tw) ∧ (m.ctx 2).tileWord = some tw ∧
    m.stepWaits 2 s.gtc tw (tw.plan m tw.next) tw.next = false ∧
    (match m.stepFate (m.ctx 2) tw (tw.plan m tw.next) with | .go => true | _ => false) = true ∧ s.arrayHeld 1 2 = false ∧ m.ecc = [] ∧ m.badWords = [] ∧
    ((r.mdw 1).tileSteps.find? (fun q => q.id == 9)) = some intStep ∧ r.gtc = intStep.at_ + 272 ∧ (r.mdw 1).ecc = [] ∧ intStep.float = false ∧
    intStep.scatter = [] ∧ intStep.tile < 8 ∧
    (∀ i, i < 128 → intStep.a.rowIsBad i = false ∧ intStep.b.rowIsBad i = false ∧ (r.mdw 1).poisoned (128 * 7 + i) = false) := by decide +kernel

theorem witness_MatrixCompletions :
    let o (i : Instr) (d : Nat) : MOp := { id := 9, ctx := 2, at_ := 1000 - d, ins := i, pc := 0, count := 3, operand := some plainOperand, regs := [0x4000, 0x1000] }
    let f (i : Instr) (d op : Nat) : Bool := ((D { MX KX with mops := [o i d] }).mdw 1).mops.find? (fun q => q.id == 9 && q.word.1 == op && q.doneAt == 1000) == some (o i d)
    let d : Dtopo := { pc := 0x40, ic := 1, addr := 0x2040, doneAt := 1000 }
    let e : Dtopo := { d with count := some 3 }
    let s (d : Dtopo) := mem4 0x2040 12 (3 + 0xFFFF * 2 ^ 32 + 2 ^ 64) (D (M { K [] with dtopo := some d }))
    let u : Buf := { first := 1, count := 2, readers := 1, once := false, state := .draining, enterDrain := 999 }
    mParts (.mldbSpad mw) = some (0x14, mw) ∧ (o (.mldbSpad mw) 11).doneAt = 1000 ∧ f (.mldbSpad mw) 11 0x14 = true ∧
    (∀ r, r < 128 → (plainOperand.bad[r]?).getD 0 = 0) ∧
    mParts (.msta mw) = some (0x15, mw) ∧ (o (.msta mw) 11).doneAt = 1000 ∧ f (.msta mw) 11 0x15 = true ∧
    mParts (.mdraw mw) = some (0x50, mw) ∧ (o (.mdraw mw) 35).doneAt = 1000 ∧ f (.mdraw mw) 35 0x50 = true ∧
    ((s d).ctx 1 2).dtopo = some d ∧ d.count = none ∧ (s d).access ((s d).mdw 1) .load [(0x2040, 4)] = .ok [P 0x2040 4] ∧
    (s d).dtopoReady 1 2 d [P 0x2040 4] = true ∧ (s d).memClean = true ∧ ((s d).readParts [P 0x2040 4]).2.1 = 0 ∧
    ((s d).readParts [P 0x2040 4]).1 % 2 ^ 16 = 3 ∧ ((s d).readParts [P 0x2040 4]).1 / 2 ^ 16 % 2 ^ 16 = 0 ∧
    (s d).access ((s d).mdw 1) .load [(0x2040, 10)] = .ok [P 0x2040 10] ∧
    ((s e).ctx 1 2).dtopo = some e ∧ e.count = some 3 ∧ (s e).access ((s e).mdw 1) .load [(0x2040, 10)] = .ok [P 0x2040 10] ∧
    (s e).dtopoReady 1 2 e [P 0x2040 10] = true ∧ (s e).memClean = true ∧ ((s e).readParts [P 0x2040 10]).2.1 = 0 ∧
    (match topoCheck (((s e).readParts [P 0x2040 10]).1 / 2 ^ 32 * 2 ^ 32 + 3) with | .ok t => t == [0xFFFF, 0, 1] | .error _ => false) = true ∧
    ((s e).mdw 1).late = [] ∧ (o (.mldbSpad mw) 11).uncarried = none ∧
    (∀ y, y < 4 → ((D { M (K []) with bufs := [(63, u)] }).mdw 1).seReads y 63 = false) ∧
    tget ((D { M (K []) with bufs := [(63, u)] }).mdw 1).bufs 63 = some u ∧ u.state = .draining ∧ u.enterDrain < 1000 := by decide +kernel

/-! ## Hypotheses that can be met: beat mode -/

theorem witness_BeatWords_start :
    let w := { mw with srcA := .breg 0, steps := 2 }
    let s := X (MX (K []))
    let m := s.mdw 1
    let k := m.ctx 2
    s.cur = .stream 1 2 .m ∧ m.drawHolds 2 s.gtc = false ∧ m.beat = none ∧ mUngranted k (some 3) (beatFixed w) = none ∧ m.tileBusy 2 s.gtc 3 = false ∧
    m.arrayWord = none ∧ (∀ b ∈ beatFixed w, m.bregLoading s.gtc b = false) ∧ beatDescBad w (mWordRegs k w) = none ∧ s.beatCheck 1 w = none := by decide +kernel

theorem witness_BeatWords_ports :
    let near := { S (K [(8, 0x1234), (10, 7), (11, 0x10001), (20, 0x10001), (21, 50)]) with enabled := BitVec.allOnes _ }
    let far := S (K [(8, 0x1234), (10, 7), (11, 0x10009), (20, 0x10009), (21, 50)])
    let w : SWait := { id := 9, pc := 0x40, answer := some (.ok 5) }
    let u := { S { K [(20, 0x10001)] with sWait := some w } with enabled := BitVec.allOnes _ }
    near.cur = .stream 1 2 .s ∧ near.held (9 :: pairRegs 4 ++ pairRegs 5) = false ∧ (near.ctx 1 2).hasp.state ≠ .active ∧
    near.selDisabled 1 ((near.ctx 1 2).sc.get 11) = false ∧ far.selDisabled 1 ((far.ctx 1 2).sc.get 11) = false ∧
    near.selDisabled 1 ((near.ctx 1 2).sc.get 20) = false ∧ far.selDisabled 1 ((far.ctx 1 2).sc.get 20) = false ∧ u.selDisabled 1 ((u.ctx 1 2).sc.get 20) = false ∧
    selBad ((near.ctx 1 2).sc.get 11) = false ∧ selFar 1 ((near.ctx 1 2).sc.get 11) = false ∧ near.released 1 2 ((near.ctx 1 2).reachOf .s near.seq) = true ∧
    selBad ((far.ctx 1 2).sc.get 11) = false ∧ selFar 1 ((far.ctx 1 2).sc.get 11) = true ∧ far.released 1 2 ((far.ctx 1 2).reachOf .s far.seq) = true ∧
    near.held (pairRegs 7 ++ [20, 21]) = false ∧ (near.ctx 1 2).sWait = none ∧ (far.ctx 1 2).sWait = none ∧
    near.otherRegion 1 (selTarget ((near.ctx 1 2).sc.get 20)) = false ∧ (near.mdw (selTarget ((near.ctx 1 2).sc.get 20))).beat = none ∧
    (near.mdw (selTarget ((near.ctx 1 2).sc.get 20))).beatEnd = false ∧ (near.ctx 1 2).sc.get 21 ≠ 0 ∧
    u.held (pairRegs 7 ++ [20, 21]) = false ∧ selBad ((u.ctx 1 2).sc.get 20) = false ∧ (u.ctx 1 2).sWait = some w ∧ w.answer = some (.ok 5) := by decide +kernel

def MB (b : BeatRun) : Meadow :=
  { MX (K []) with sbf := (List.range 16).map fun i => (i, BitVec.ofNat 32 (ElemType.e4m3).code.toNat), beat := some b }
def beatWord : MWord :=
  { mw with srcA := .breg 0, steps := 2, full := true, imm64 := BitVec.ofNat 64 (8 + 2 * 2 ^ 32 + (ElemType.e4m3).code.toNat * 2 ^ 48 + 2 ^ 52) }
def run1 : BeatRun :=
  { owner := 2, w := beatWord, pc := 0xC0, grid := 744, slot := 1, beat := 0,
    ports := [{ used := true, queue := [0x0100000000004000] }, {}, { used := true, queue := [0x0100000000008000] }] }
def drain1 : BeatDrain := { beat := 1, entry := 0x0100000000004000, at_ := 995, rows := List.replicate 5 (7, false) }

theorem witness_BeatEvents_slots :
    let s := D (MB run1)
    let v := run1.view (s.mdw 1)
    let b := { run1 with ports := [{ used := true, queue := [] }, {}, {}], prevRan := true }
    let t := D (MB b)
    let e := { run1 with ports := [{ used := true, queue := [endToken] }, {}, { used := true, queue := [0x0100000000008000] }] }
    let f := D (MB e)
    (f.mdw 1).beat = some e ∧ e.slotNow f.gtc = true ∧ (e.view (f.mdw 1)).bad = none ∧ (e.view (f.mdw 1)).absent = false ∧
    (e.view (f.mdw 1)).waitA = false ∧ (e.view (f.mdw 1)).waitB = false ∧ (e.view (f.mdw 1)).token = true ∧
    (s.mdw 1).beat = some run1 ∧ run1.slotNow s.gtc = true ∧ v.bad = none ∧ v.absent = false ∧ v.waitA = false ∧ v.waitB = false ∧ v.token = false ∧
    (t.mdw 1).beat = some b ∧ b.slotNow t.gtc = true ∧ (b.view (t.mdw 1)).bad = none ∧ (b.view (t.mdw 1)).absent = true ∧
    (t.mdw 1).mbpolOld.toNat % 4 = 0 ∧ b.prevRan = true ∧ (t.mdw 1).missCount.toNat < 0xFFFFFFFF := by decide +kernel

theorem witness_BeatEvents_drains :
    let b := { run1 with drains := [{ beat := 0, entry := 0, at_ := 900, rows := List.replicate 100 (0, false) }, drain1] }
    let s := D (MB b)
    let m := s.mdw 1
    let src := (tileElem (m.tileTy b.w.tile.toNat)).getD .f32
    let fmt := b.drainFmt
    let a := spadRowAddr (spadDesc (entryRegs drain1.entry).1 (entryRegs drain1.entry).2).base (spadDesc (entryRegs drain1.entry).1 (entryRegs drain1.entry).2).rpitch
      (spadDesc (entryRegs drain1.entry).1 (entryRegs drain1.entry).2).rot 5
    let e := { run1 with ended := true, drains := [] }
    let r : BeatReq := { id := 8, coord := 1, ctx := 2, wait := true, port := 2, at_ := 900, until_ := 1000, sel := 0x20001, lat := 12 }
    m.beat = some b ∧ b.drains.find? (fun q => q.at_ + 5 == s.gtc && q.rows.length == 5) = some drain1 ∧ m.ecc = [] ∧ m.late = [] ∧ m.bufs = [] ∧
    fmt.cls = .E ∧ rowConflict m.sbf fmt a = false ∧ staBytes src fmt ≤ 512 ∧ a % 2 ^ 16 + staBytes src fmt ≤ 2 ^ 16 ∧
    rowNaN5 src fmt (0x3F800000, false) = false ∧
    (MB e).beat = some e ∧ (MB e).beatOver 1000 = true ∧
    ({ MB run1 with beatReqs := [r] } : Meadow).beatReqs.find? (fun q => q.id == r.id) = some r ∧ r.wait = true ∧ r.until_ ≤ 1000 := by decide +kernel

/-! ## Hypotheses that can be met: loads and sync engines -/

def loaded (dest : LandDest) (arrived : Bool) : LandEntry :=
  { id := 9, stream := .s, pc := 0x3C, lam := 500, arriveAt := 990, dest := dest, bytes := 8, parts := [P 0x2040 8], todo := if arrived then [] else [(0, 990)], arrived := arrived,
    data := if arrived then 0x1122334455667788#4096 else 0 }

theorem witness_LoadEvents :
    let p : PendReg := { reg := 5, due := 500, val := 7, ord := 4 }
    let s := D (M { K [] with sc := { (K []).sc with pend := [p] } })
    let l (e : LandEntry) := D (M { K [] with landing := [e] })
    let n := loaded (.scalar 6 true true) false
    (s.ctx 1 2).sc.pend = [p] ∧ p.due ≤ (s.mdw 1).mtc ∧ (s.mdw 1).frozen = false ∧ 1 ≤ ((K [])).qRoom s.gtc 5 ∧
    ((l n).ctx 1 2).landing.find? (fun g => g.id == 9) = some n ∧ (l n).loadReady 1 2 n = true ∧ n.hasp = false ∧ (l n).memClean = true ∧ n.spad = none ∧
    (∀ e ∈ [loaded (.scalar 6 true true) true, loaded (.row 300) true, loaded (.queue 5) true],
      ((l e).ctx 1 2).landing.find? (fun g => g.id == 9) = some e ∧ e.arrived = true ∧ ((l e).mdw 1).frozen = false ∧ e.lam ≤ ((l e).mdw 1).mtc ∧
      e.bad = 0 ∧ e.spad = none ∧ ((l e).ctx 1 2).sc.pend = []) ∧
    n.lam ≤ ((l n).mdw 1).mtc ∧ n.arrived = false ∧ ((l n).mdw 1).beat = none := by decide +kernel

/-- In a meadow without landing entries none is due. -/
theorem witness_LoadEvents_none (y : Nat) (g : LandEntry) : g ∉ ((D (M {})).mdw 1 |>.ctx y).landing := by
  show g ∉ (Meadow.ctx (M {}) y).landing
  by_cases h : y = 2
  · subst h; exact List.not_mem_nil
  · have e : (Meadow.ctx (M {}) y) = {} := by simp [M, Meadow.ctx, tgetD, tget, Ne.symm h]
    rw [e]; exact List.not_mem_nil

def line8 : HeldLine := { va := 0x2040, pa := 0x2040, key := 0, data := BitVec.ofNat 512 (0x0123456789ABCDEF * 2 ^ 64 + 0x55) }
def req (op : SyncOp) : SyncReq := { id := 3, op := op, va := 0x2048, pa := 0x2048, key := 0, scope := .pkg, coord := 1, ctx := 2, at_ := 990 }
def EngReq (op : SyncOp) : State := { D (M (K [])) with engines := [(homeDie 0x2048, { lines := [line8], reqs := [req op] })] }
def EngWait (op : SyncOp) : State := { D (M (K [])) with engines := [(homeDie 0x2048, { lines := [line8], waiters := [req op] })] }

theorem witness_SyncRequestApplied :
    let d := homeDie 0x2048
    (∀ op ∈ [SyncOp.atom 6 true true 7 (some 4), .atom 4 false false 7 none, .cas true 5 6 4, .sems 65535],
      let s := EngReq op
      (s.eng d).reqs = [req op] ∧ (s.eng d).again = [] ∧ (s.eng d).waiters = [] ∧ (s.eng d).ecc = [] ∧ (s.eng d).lines = [line8] ∧
      s.reqReady d (req op) = true) ∧
    line8.isLine 0x2048 0x2048 = true ∧ line8.poison = false ∧ (req (.sems 1)).heath = false ∧ (req (.sems 1)).pa % 64 % 8 = 0 := by decide +kernel

theorem witness_SyncAnswers :
    let w : SWait := { id := 6, pc := 0x40 }
    let i : SWait := { id := 6, pc := 0x40, issued := true, rd := 9, ic := 1 }
    let s (x : Option SWait) (a : SyncAns) : State :=
      { D (M { K [] with arq := [{ id := 4 }, { id := 5 }], sWait := x }) with answers := [{ id := 77, coord := 1, ctx := 2, ans := a, at_ := 1000 }] }
    let f (x : Option SWait) (a : SyncAns) : Bool :=
      (s x a).answers.find? (fun b => b.id == 77 && b.coord == 1 && b.ctx == 2 && decide (b.at_ ≤ 1000)) == some { id := 77, coord := 1, ctx := 2, ans := a, at_ := 1000 }
    f none (.slot 4 99) = true ∧ f none (.mark 5 7 99) = true ∧ f (some w) (.wait 6 (.ok 5)) = true ∧ w.issued = false ∧
    f (some i) (.wait 6 (.ok 5)) = true ∧ i.issued = true ∧ ((s (some i) (.wait 6 (.ok 5))).mdw 1).frozen = false ∧ i.rd ≠ 0 ∧
    f (some i) (.wait 6 (.trap 0x43 9)) = true ∧ ((s (some i) (.wait 6 (.trap 0x43 9))).ctx 1 2).trap = none ∧
    ((s (some i) (.wait 6 (.trap 0x43 9))).ctx 1 2).sWait = some i ∧
    (∀ op ∈ [SyncOp.semw 7 100 3, .waitq true 2 100 3, .barw 7 100 3],
      ((EngWait op).eng (homeDie 0x2048)).waiters.find? (fun q => q.id == 3) = some (req op) ∧
      ((EngWait op).eng (homeDie 0x2048)).lines = [line8]) := by decide +kernel

/-! ## Hypotheses that can be met: the stream engine -/

def seWords (op w0 w1 w2 w3 w5 : Nat) : List W64 :=
  [BitVec.ofNat 64 (op * 2 ^ 60 + w0 + 77 * 2 ^ 32), BitVec.ofNat 64 w1, BitVec.ofNat 64 w2, BitVec.ofNat 64 w3, 0, BitVec.ofNat 64 w5, 0, 0]

theorem witness_StreamEngineEvents :
    let st (r : SERun) : State := D (M { K [] with se := { run := some r, results := [5] } })
    let pat : SERun := { d := seWords 0 (2 ^ 55 + 2 ^ 57) 0x2040 0x400 (2 ^ 32 + 64) 0 }
    let gat : SERun := { d := seWords 1 (2 ^ 55 + 2 ^ 57) 0x2040 0x400 (2 ^ 32 + 64) 0x100 }
    let sca : SERun := { d := seWords 2 (2 ^ 55 + 2 ^ 57) 0x2040 0x400 (2 ^ 32 + 64) 0x100 }
    let syn : SERun := { d := seWords 15 0 0 0 0 0 }
    let bad : SERun := { d := seWords 7 0 0 0 0 0 }
    let fin : SERun := { d := seWords 0 (2 ^ 55 + 2 ^ 57) 0x2040 0x400 (2 ^ 32 + 64) 0, row := 1, started := true, moved := 64 }
    let q : SECmd := { d := [], chain := some 0x2040, rel := {}, scope := .pkg }
    let c := D (M { K [] with se := { queue := [q] } })
    (st pat).seStartable 1 2 = some pat ∧ pat.op = 0 ∧ pat.bad = false ∧ (st gat).seStartable 1 2 = some gat ∧ gat.op = 1 ∧
    (st sca).seStartable 1 2 = some sca ∧ sca.op = 2 ∧ (st syn).seStartable 1 2 = some syn ∧ syn.op = 15 ∧
    (st bad).seStartable 1 2 = some bad ∧ bad.bad = true ∧ ((st bad).ctx 1 2).se.results.length + ((st bad).ctx 1 2).se.claims < 16 ∧
    (bad.w 0).getLsbD 59 = false ∧ bad.done = false ∧
    (c.ctx 1 2).se.run = none ∧ (c.ctx 1 2).se.queue = q :: [] ∧ q.chain = some 0x2040 ∧ (c.ctx 1 2).se.owedNotify = [] ∧ c.released 1 2 q.rel .pkg = true ∧
    c.memClean = true ∧ c.access (c.mdw 1) .seRead [(0x2040, 64)] = .ok [P 0x2040 64] ∧ (c.readParts [P 0x2040 64]).2.1 = 0 ∧
    c.nearby 1 2 { id := c.seq, stream := .s, load := true, parts := partKeys [P 0x2040 64] } = false ∧
    ((st fin).ctx 1 2).se.run = some fin ∧ ((st fin).mdw 1).seFinish 2 1000 = true ∧ fin.owe = [] ∧ fin.op ≠ 15 ∧ (fin.w 0).getLsbD 59 = false := by
  decide +kernel

theorem witness_StreamEngineEvents_granule :
    let r : SERun := { d := seWords 0 (2 ^ 55) 0x2040 (2 ^ 20 - 64) (2 ^ 32 + 100) 0, started := true, moved := 9, req := some 3 }
    let s := D (M { K [] with se := { run := some r } })
    (s.ctx 1 2).se.run = some r ∧ r.moving s.gtc = true ∧ (s.ctx 1 2).se.owedNotify = [] ∧ (s.mdw 1).seBytes < 512 ∧ r.req ≠ none ∧ s.seServed r = true ∧
    (∀ y, y < 4 → ((s.mdw 1).ctx y).stores = []) ∧ r.op = 0 ∧ r.srcSp = false ∧ r.dstSp = true ∧
    s.memClean = true ∧ (s.mdw 1).late = [] ∧ (s.mdw 1).bufs = [] ∧ min 64 (r.len - r.unit) = 64 ∧
    (rowAddr (r.w 1) r.sstride r.row + r.unit) % 2 ^ 64 = 0x2040 ∧ (rowAddr (r.w 2) r.dstride r.row + r.unit) % 2 ^ 64 % 2 ^ 20 + 64 ≤ 2 ^ 20 ∧
    s.access (s.mdw 1) .seRead [(0x2040, 64)] = .ok [P 0x2040 64] ∧ (s.readParts [P 0x2040 64]).2.1 = 0 := by decide +kernel

/-! ## Hypotheses that can be met: heath events, arbiters -/

/-- The heath of an HCP cycle. -/
def Tick (h : Hcp) : State :=
  let s : State := { AtH h with cur := .device }
  { s with gtc := ((List.range 20).find? fun i => ({ s with gtc := 1000 + i } : State).hcpTick).getD 0 + 1000 }

theorem witness_HeathEvents :
    let h := { H [] with pages := (List.range 8).map fun i => ⟨i * 2 ^ 21, 0⟩, status := [(3, 0x80000000)] }
    let b : List W64 := (List.range 8).map fun i => BitVec.ofNat 64 (hgemvBlock / 2 ^ (64 * i))
    let c (f : Nat) : HCmd := { id := 6, hcp := 0, func := f, block := b, engines := (HBlock.mk b).engines, readyAt := 0 }
    let s (f : Nat) : State := { Tick h with hcmds := [c f] }
    let d : HCmd := { c 0 with started := true, doneAt := 5, wr := [(0x3000, 16)] }
    let z : State := { Tick h with hcmds := [d] }
    let l : HLoad := { id := 12, rd := 10, pair := true, bytes := 8, pa := 0x2040, key := 0, at_ := 900 }
    let u := Tick { h with load := some l }
    let p : State := { u with poisoned := [0x2040 / 64] }
    (s 0).hcmds.find? (fun q => q.id == 6) = some (c 0) ∧ (c 0).started = false ∧ (c 0).readyAt ≤ (s 0).hcpCycle ∧ (s 0).cmdNext (c 0) = true ∧
    (s 2).landFree (c 2) = true ∧ (s 2).cmdNext (c 2) = true ∧ (s 0).memClean = true ∧
    z.hcmds.find? (fun q => q.id == 6) = some d ∧ d.started = true ∧ d.doneAt ≠ 0 ∧ d.doneAt ≤ z.hcpCycle ∧ d.todo = [] ∧ z.arbDone d.id = true ∧ z.cmdCommitting d = false ∧ z.cmdBehind d = false ∧ z.cmdHeld d = false ∧
    d.wr ≠ [] ∧ z.landings = [] ∧
    (u.hcp 0).load = some l ∧ l.at_ ≤ u.gtc ∧ u.arbDone l.id = true ∧ (u.hcp 0).stores = [] ∧ u.memClean = true ∧ p.arbDone l.id = true ∧ (p.hcp 0).stores = [] ∧ u.hcpTick = true ∧ (u.hRead l.key l.pa l.bytes).2 = 0 ∧
    (∀ i ∈ lineNos l.pa l.bytes, u.arrayAhead l.id i false = false ∧ u.heathAhead l.id i false = false ∧ p.arrayAhead l.id i false = false ∧
      p.heathAhead l.id i false = false) ∧
    (p.hcp 0).load = some l ∧ p.hcpTick = true ∧ (p.hRead l.key l.pa l.bytes).2 ≠ 0 ∧ (p.hcp 0).ending = none := by decide +kernel

theorem witness_HeathEvents_copy :
    let h := { H [] with pages := (List.range 8).map fun i => ⟨i * 2 ^ 21, 0⟩ }
    let v := block [(0, 5 * 2 ^ 60), (8, 0x1010), (0x10, 0x3020), (0x18, 2 ^ 32 + 40), (0x20, 0)]
    let b : HBlock := ⟨(List.range 8).map fun i => BitVec.ofNat 64 (v / 2 ^ (64 * i))⟩
    let c : HCmd := { id := 6, hcp := 0, func := 5, block := b.w, engines := b.engines, readyAt := 0, started := true, doneAt := 5, wr := [(0x3020, 40)], got := [(0x1010 / 64, 0xABCD, false)] }
    let s : State := { Tick h with hcmds := [c] }
    s.hcmds.find? (fun q => q.id == 6) = some c ∧ c.started = true ∧ c.doneAt ≠ 0 ∧ c.doneAt ≤ s.hcpCycle ∧ c.todo = [] ∧ s.arbDone c.id = true ∧
    s.cmdCommitting c = false ∧ s.cmdBehind c = false ∧ s.cmdHeld c = false ∧ c.wr ≠ [] ∧ s.landings = [] ∧
    b.op = 5 ∧ b.f 0x18 32 32 = 1 ∧ b.copyAt false 0 = 0x1010 ∧ b.copyAt true 0 = 0x3020 ∧ b.f 0x18 0 32 = 40 ∧ (s.hcp 0).keyAt 0x3020 = 0 ∧
    ((s.asRead c).hGet (s.hcp 0) 0x1010 40).2 = 0 ∧ (∀ d, d < 2 → (s.eng d).lines = [] ∧ (s.eng d).sets = []) ∧ s.memClean = true ∧ Memory.wf s.mem ∧
    tget s.keys 0 = some 0 ∧ s.lineKey = [] ∧ tget (s.asRead c).keys 0 = some 0 ∧ (∀ e ∈ (s.asRead c).lineKey, e.1 ≠ 0x3020 / 64 ∧ e.1 ≠ 0x3020 / 64 + 1) := by
  decide +kernel

theorem witness_ArbiterEvents :
    let r : ArbReq := { id := 3, kind := .arrayRead, bank := 2, row := 7, line := 9, enq := 0 }
    let h : ArbReq := { id := 3, kind := .heath, bank := 2, row := 7, line := 9, enq := 0 }
    let a : Arbiter := { queue := [r], banks := [(2, { openRow := some 7 })], slot := 5 }
    let p : Arbiter := { queue := [h], banks := [(2, { openRow := some 8, lease := true, cols := 64 })], slot := 5 }
    let s : State := { Tick (H []) with arbiters := [(0, a), (1, p)] }
    (s.arb 2).queue = [] ∧ (s.arb 0).queue = [r] ∧ r.kind = .arrayRead ∧ ((s.arb 0).bankOf r.bank).openRow = some r.row ∧
    ((s.arb 0).bankOf r.bank).lease = false ∧ ((s.arb 0).bankOf r.bank).posted = none ∧
    h ∈ (s.arb 1).queue ∧ (s.arb 1).promotable s.slotFrom h = true ∧ ((s.arb 1).bankOf 2).expired s.slotFrom = true := by decide +kernel

/-! ## Hypotheses that can be met: launches -/

/-- Lines that the sync engines hold, from 8-byte words. -/
def heldOf (l : List (Nat × Nat)) : List HeldLine :=
  ((l.map fun p => p.1 / 64 * 64).eraseDups).map fun a =>
    { va := a, pa := a, key := 1, data := BitVec.ofNat 512 (l.foldl (fun v p => if p.1 / 64 * 64 = a then v + p.2 * 2 ^ (8 * (p.1 % 64)) else v) 0) }

/-- A launch queue of three records, their RCBs and kernel block: a record of no kind, a region on meadow 1, a kernel on one HCP; and three request
rings, an empty one, a full one and one that does not translate. All of it in lines that the engines hold, under key slot 1. -/
def launchWords : List (Nat × Nat) :=
  [(0x100000, openEntry.toNat + 2 ^ 48), (0x100000 + 8 * 2048, openEntry.toNat + 2 ^ 59 + 2 ^ 48 + 2 ^ 39),
   (0x2000, 3 * 2 ^ 32), (0x2008, 16 + 8 * 2 ^ 48), (0x2010, 0x3000),
   (0x3000, 7), (0x3040, 1), (0x3048, 0x4000), (0x3080, 2 + 2 ^ 16), (0x3088, 0x7000), (0x8000, 0),
   (0x4100 + 8, 2 ^ 33 + 1), (0x4100 + 0x18, 0x100000), (0x4100 + 0x40, 0xFFFFFFFF),
   (0x4000, 0x4100), (0x4008, 3 * 2 ^ 61 + 2 ^ 59 + 0x3F * 2 ^ 40), (0x4020, 0x600000), (0x4028, 0x5000), (0x4030, 0x6000), (0x4038, 1), (0x6000, 1),
   (0x5000, 0x4000), (0x5008, 5 * 2 ^ 61 + 3 * 2 ^ 59 + 0x3F * 2 ^ 40), (0x5050, 2 * 2 ^ 24 + 0xC * 2 ^ 8 + 3 * 16 + 8 * 2 ^ 32),
   (0x5058, 5 + 7 * 2 ^ 32), (0x5060, 0x100 + 0x180 * 2 ^ 32), (0x5068, 0x300),
   (0x7000, 2 ^ 41), (0x7008, 0x7100), (0x7010, 1), (0x7100, 2 ^ 41),
   (0x9008, 16 + 32 * 2 ^ 48), (0x9010, 0xA000), (0x9040, 16 * 2 ^ 32), (0x9048, 16 + 32 * 2 ^ 48), (0x9050, 0xA000),
   (0x9088, 16 + 32 * 2 ^ 48), (0x9090, 2 ^ 40)]

def launchState : State :=
  let h := heldOf launchWords
  { gtc := 1000, keys := [(0, 0), (1, 77)], seq := 50, gtcRunning := true, bootStep := 6, enabled := 7, lq := [(3, { lo := 0x2001, hi := 0x100000 })],
    bootcfg := 2 ^ 11, engines := [(0, { lines := h.filter fun x => homeDie x.va == 0 }), (1, { lines := h.filter fun x => homeDie x.va == 1 })] }

theorem witness_LaunchEvents_start :
    let s := launchState
    let m := s.queueView 3
    let rs := s.openRecords m 3 none
    let d0 : Line := 7
    let d1 : Line := 1 + 0x4000 * 2 ^ 64
    let d2 : Line := 2 + 2 ^ 16 + 0x7000 * 2 ^ 64
    s.memClean = true ∧ slotBatch 0 = none ∧ slotBatch 2 = none ∧ (s.lqOf 3).en = true ∧ (s.lqOf 3).pending = none ∧
    rs.find? (fun p => decide (p.1 = 0)) = some (0, d0) ∧ rs.find? (fun p => decide (p.1 = 1)) = some (1, d1) ∧
    rs.find? (fun p => decide (p.1 = 2)) = some (2, d2) ∧ firstOfRcb rs 0 d0 = true ∧ firstOfRcb rs 1 d1 = true ∧ firstOfRcb rs 2 d2 = true ∧
    s.afterMet m d0 = true ∧ s.afterMet m d1 = true ∧ s.afterMet m d2 = true ∧
    (match s.judgeRecord m false d0 with | .refuse e => e.status == 0x10 | _ => false) = true ∧
    (match s.judgeRecord m false d1 with | .region p => !s.claimedAbove p.prio p.plist && p.plist.all s.meadowFree && p.plist == [1] && s.beatRoom p | _ => false) = true ∧
    (match s.judgeRecord m false d2 with | .kernel p => p.hcps == [0] && p.hcps.all (fun h => !s.hcpBusy h) | _ => false) = true := by decide +kernel

theorem witness_LaunchEvents_end :
    let k : Launch := { launch1 with id := 2, kind := 2 }
    let s := { D { M (K []) with stages := [(0, { started := 5 })] } with regions := [region7 [stage2]], launches := [launch1, k] }
    s.launches.find? (fun l => decide (l.id = 1)) = some launch1 ∧ s.launches.find? (fun l => decide (l.id = 2)) = some k ∧ s.launchDone k = true ∧
    s.launchDone { launch1 with kind := 1 } = true ∧ s.regions.find? (fun r => decide (r.launch = 1)) = some (region7 [stage2]) ∧
    (s.mdw 1).region = some 7 := by decide +kernel

theorem witness_TaskAndTurnEvents :
    let r := region7 [stage2]
    let s := { D (M { K [] with sRun := false, vRun := false, mRun := false, istat := 0 }) with regions := [r], launches := [launch1] }
    let u : Task := { stage := 0, claim := none, resv := none, item := 0 }
    let e := { D (M { K [] with sRun := false, vRun := false, mRun := false, task := some u }) with regions := [r], launches := [launch1] }
    let p (u : IssueUnit) : State := D { M { K [] with readyRun := [(unitIx u, 16 * 256)] } with timed := false }
    let t (u : IssueUnit) : State := D ((M (K [])).setUnit u { turn := some 2, idle := 4096 })
    s.regionOf 1 = some r ∧ r.stages[0]? = some stage2 ∧ s.ctxFree 1 2 = some r ∧ s.eligible 1 2 r 0 stage2 ≠ none ∧
    e.regionOf 1 = some r ∧ (e.ctx 1 2).task = some u ∧ u.stage = 0 ∧ e.taskOver 1 2 = true ∧ u.claim = none ∧ u.resv = none ∧
    (∀ v ∈ [IssueUnit.vector, .array, .load, .drain],
      ((p v).mdw 1).timed = false ∧ ((p v).mdw 1).ageLimit.toNat * 256 ≤ tgetD ((p v).ctx 1 2).readyRun (unitIx v) 0 ∧
      tget ((p v).ctx 1 2).promoted (unitIx v) = none ∧
      (((t v).mdw 1).unit v).turn = some 2 ∧ ((t v).mdw 1).timed = true ∧ ((t v).mdw 1).ageLimit.toNat * 256 ≤ (((t v).mdw 1).unit v).idle) := by
  decide +kernel

theorem witness_PowerEvents :
    let m := { M (K []) with emeter := 5000, charged := 2000 }
    let s := { D m with regions := [region7 [stage2]], launches := [launch1], gtc := 4096 * 5 }
    (4095 : Nat) % 4096 ≠ 0 ∧ s.gtc % 4096 = 0 ∧ s.hcps = [] ∧ s.nodes = [] ∧ s.meadows = [(1, m)] ∧ s.regionOf 1 = some (region7 [stage2]) ∧
    (13999 : Nat) % 14000 ≠ 0 ∧ (14000 * 4) % 14000 = 0 := by decide +kernel

theorem witness_PreemptionAndStops :
    let r := region7 [stage2]
    let q : Ctx := { K [] with sRun := false, vRun := false, mRun := false }
    let s := { D (M (K [])) with regions := [r], launches := [launch1] }
    let d (w : StopWhy) : State := { D { M q with stopping := some ⟨w, 10, 10, false⟩ } with regions := [r], launches := [launch1] }
    let k : State := { D { M { K [] with landing := [loaded (.scalar 6 true true) false] } with stopping := some ⟨.preempt, 10, 10, false⟩ } with gtc := 2 ^ 21 }
    let p : State := { D { M (K []) with region := none } with regions := [{ r with preempted := true }], launches := [launch1] }
    s.regionOf 1 = some r ∧ (s.mdw 1).stopping = none ∧ 1 ∈ r.plist ∧ (s.mdw 1).region = some r.id ∧
    ((d .stop).mdw 1).stopping = some ⟨.stop, 10, 10, false⟩ ∧ (s.mdw 1).ctxs = [(2, K [])] ∧ (K []).hasp.state ≠ .active ∧ (d .stop).drained 1 none = true ∧ (d .halt).drained 1 none = true ∧
    (k.mdw 1).stuck k.gtc = true ∧ p.regions.find? (fun g => decide (g.id = 7)) = some { r with preempted := true } ∧
    p.resumable { r with preempted := true } = true ∧ s.coveredStop 0 = false ∧ s.coveredStop 99 = false := by decide +kernel

/-! ## Hypotheses that can be met: host, isolation, links -/

theorem witness_HostWindow :
    let s : State := { D (M (K [])) with engines := [(0, { lines := [{ va := 0x2040, pa := 0x2040, key := 0, data := 0 }] })] }
    let b (n : Nat) : State := { s with bootStep := n }
    let l : State := { s with launches := [launch1] }
    let g : State := { s with apbase := BitVec.ofNat 64 (2 ^ 44) }
    let u : State := { s with apbase := BitVec.ofNat 64 (2 ^ 39) }
    let p (v : W64) : Nat := ((List.range 8).filter fun i => v.getLsbD (24 + i)).length
    (b 3).bootStep < 4 ∧ (b 3).windowOff true = false ∧ (b 4).windowOff false = false ∧ (b 4).bootStep < 5 ∧ 5 ≤ (b 5).bootStep ∧
    s.launches = [] ∧ (1#64).getLsbD 0 = true ∧ 6 ≤ s.bootStep ∧ l.launches = [launch1] ∧ launch1.queue = 0 ∧
    512 < (0x80400#64).toNat / 2 ^ 10 % 2 ^ 10 ∧ (0x80000#64).toNat / 2 ^ 10 % 2 ^ 10 ≤ 512 ∧
    p 0x06000000 = 2 ∧ (0x06000000#64).getLsbD 24 = false ∧ p 0x0E000000 = 3 ∧ (0x3FFF8 : Nat) % 8 = 0 ∧ (0x3FFF8 : Nat) < 2 ^ 18 ∧ Memory.wf s.tcm ∧
    6 ≤ (6#64).toNat % 16 ∧ (12#64).toNat % 16 ≤ 12 ∧ (5#64).toNat % 16 < 6 ∧ 12 < (13#64).toNat % 16 ∧ (6#64).getLsbD 8 = false ∧
    g.memClean = true ∧ 4 ≤ g.bootStep ∧ g.backedRange ((g.apbase.toNat + 0x33 % 2 ^ 36) % 2 ^ 48) 64 = true ∧
    (tget g.keys (g.apkey.toNat % 2 ^ 10)).isSome = true ∧ g.heldIn ((g.apbase.toNat + 0x33 % 2 ^ 36) % 2 ^ 48) 64 = false ∧
    (g.eng 0).sets = [] ∧ (g.eng 1).sets = [] ∧ Memory.wf g.mem ∧
    u.backedRange ((u.apbase.toNat + 0x33 % 2 ^ 36) % 2 ^ 48) 1 = false := by decide +kernel

/-- Without an owned set a write wounds nobody. -/
theorem no_sets_no_wound (s : State) (pa n : Nat) (h : (s.eng 0).sets = []) (k : (s.eng 1).sets = []) : s.woundRange pa n = s := by
  simp [State.woundRange, h, k]

/-- A page request in flight, of one stream command of context 2. -/
def asked : PageReq :=
  { seq := 7, image := 0x500000, entry := 3, va := 3 * 2 ^ 30, since := 5, out := true, askers := [{ coord := 1, ctx := 2, gen := 0, tagc := 77, notify := false }] }

theorem witness_PageEvents :
    let s := { D (M (K [])) with pageReqs := [asked], hrq := 0 }
    let late := { s with gtc := 2 ^ 31 + 5 }
    let idle := { D (M (K [])) with pageReqs := [{ asked with out := false }] }
    let r : Reclaim := { id := 4, image := 0x500000, entry := 3, since := 10, started := true, ord := 40 }
    let c := { D { M (K []) with windowImage := 0x900000 } with reclaims := [r] }
    let h : State := { s with hrq := 0x100, host := Memory.writeN [] 0x100 24 (1 + 3 * 2 ^ 32 + 4 * 2 ^ 64 + 4 * 2 ^ 112 + 0x200 * 2 ^ 128) }
    let v := ringView (Memory.readN h.host) h.hrq.toNat
    4 ≤ s.bootStep ∧ (ringView (Memory.readN s.host) s.hrq.toNat).depth = 0 ∧ v.depth ≠ 0 ∧ v.occ = 2 ∧ v.occ ≤ v.depth ∧
    (∀ q ∈ s.pageReqs, q.out = true → q.seq ≠ 8) ∧
    s.pageReqs.find? (fun p => p.out && p.seq == 7) = some asked ∧ (1#32) ≠ 0 ∧ s.reclaims = [] ∧ (s.ctx 1 2).gen = 0 ∧ (s.mdw 1).region.isSome = true ∧
    late.pageReqs.find? (fun p => p.out && p.seq == 7) = some asked ∧ asked.since + 2 ^ 31 ≤ late.gtc ∧
    idle.pinnedEntry 0x500000 6143 = false ∧ (∀ q ∈ idle.pageReqs, q.out = false) ∧
    c.reclaims.find? (fun q => decide (q.id = 4)) = some r ∧ r.since < c.gtc ∧ c.pageQuiet r.image r.entry r.ord = true := by decide +kernel

theorem witness_PageEvents_answer :
    let s := { D { M (K []) with windowImage := 0x500000 } with pageReqs := [asked], mem := Memory.writeN [] 0x500018 8 (2 ^ 11 + 2 ^ 10) }
    s.pageReqs.find? (fun p => p.out && p.seq == 7) = some asked ∧ s.pinnedEntry asked.image asked.entry = false ∧ s.frameOk asked (2 ^ 30) = true ∧
    s.reclaims = [] ∧ s.memClean = true ∧ (s.mdw 1).region.isSome = true ∧ (s.mdw 1).imageOf 3 = 0x500000 ∧
    (s.ctx 1 2).gen = 0 ∧ (tget s.keys 0).isSome = true ∧ s.heldIn 0x500018 8 = false ∧ Memory.wf s.mem ∧ s.lineKey = [] ∧ tget s.keys 0 = some 0 := by
  decide +kernel

/-- What certificates and images hold is free, and either of the two cases holds. -/
theorem certificates_verify_or_not (c : Bool) (n : Nat) : certOk c n = true ∨ certOk c n = false := by
  cases certOk c n <;> simp

theorem witness_SecurityEvents :
    let s := D (M (K []))
    let o : State := { s with debugOpen := true, bootLeaf := some 5 }
    let k : State := { s with seccfg := 0x15B, bootLeaf := some 5, leaf := 2 ^ 20 }
    s.bootLeaf = none ∧ o.bootLeaf = some 5 ∧ o.leaf < 2 ^ 20 ∧ k.bootLeaf = some 5 ∧ 2 ^ 20 ≤ k.leaf ∧ (s.ctx 1 2).parity = [] ∧
    (s.mdw 1).relmask.getLsbD 3 = false ∧ o.debugOpen = true ∧ k.seccfg.getLsbD 8 = true ∧ s.seccfg.getLsbD 8 = false := by decide +kernel

/-- A landing of 8 lines of two ranks on HCP 5, of which rank 0 has sent lines 0 to 3. -/
def landing2 : Landing :=
  { cmd := 6, hcp := 5, block := [BitVec.ofNat 64 (2 * 2 ^ 60 + (ElemType.f32).code.toNat * 2 ^ 48), 0x3000, BitVec.ofNat 64 (77 * 2 ^ 56 + 2 * 2 ^ 32 + 128), 0, 0, 0, 0, 0],
    got := (List.range 4).map fun i => ⟨0, i, 9, false⟩ }
def packet (rank line : Nat) : FavexPacket :=
  { type := 1, dpkg := 0, dheath := 5, line := BitVec.ofNat 32 line, lid := 77, rank := BitVec.ofNat 13 rank, payload := 3, poison := 8 }

theorem witness_LinkEvents :
    let s : State := { bootStep := 5, fvxsync := 0x1F }
    let l : State := { s with landings := [landing2] }
    let takes (p : FavexPacket) (i : Nat) : Bool := decide (p.line.toNat + i < landing2.lines) && landing2.got.all fun g => g.rank != p.rank.toNat || g.line != p.line.toNat + i
    s.bootStep = 5 ∧ s.gtcRunning = false ∧ s.fvxsync.getLsbD 4 = true ∧ s.fvxsync.toNat % 16 = 15 ∧ 15 ∉ s.portFailed ∧ s.landings = [] ∧ s.lq = [] ∧
    { packet 1 0 with type := 2 }.type = 2 ∧ { packet 1 0 with type := 3 }.type ≠ 1 ∧ (packet 1 0).dpkg.toNat = l.fvxaddr.toNat % 2 ^ 12 ∧
    { packet 1 0 with dpkg := 1 }.dpkg.toNat ≠ l.fvxaddr.toNat % 2 ^ 12 ∧ landing2.b.f 0x10 56 8 ≠ { packet 1 0 with lid := 78 }.lid.toNat ∧
    l.landings = [landing2] ∧ landing2.hcp = (packet 1 0).dheath.toNat ∧ landing2.b.f 0x10 56 8 = (packet 1 0).lid.toNat ∧ landing2.post = none ∧
    (packet 1 0).rank.toNat < landing2.b.f 0x10 32 13 ∧ landing2.lines = 8 ∧ takes (packet 1 0) 0 = true ∧
    (landing2.got.filter fun g => g.line = 0).length + 1 = landing2.b.f 0x10 32 13 ∧ takes (packet 0 6) 1 = true ∧ takes (packet 0 6) 2 = false ∧
    (List.range 4).all (fun i => !takes (packet 0 0) i) = true ∧
    launchState.windowOff false = false ∧ s.windowOff true = false ∧ (launchState.lqOf 3).en = true ∧
    (launchState.openRecords (launchState.queueView 3) 3 none).length = 3 := by decide +kernel

/-- The generation loop on the queue of launchState. -/
def genState : State := { launchState with gen := { queue := 3, crecAddr := 0x8000 } }

theorem witness_GenerationEvents_requests :
    let ring (a : Nat) : State := { genState with gen := { genState.gen with ringAddr := a } }
    let occ (a : Nat) : Option (Nat × Nat × Nat × Bool) :=
      (ring a).reqRing.map fun d => (ringOcc d, d.toNat / 2 ^ 64 % 2 ^ 24, d.toNat / 2 ^ 32 % 2 ^ 24, ((ring a).genSlot d a 256).isSome)
    occ 0x9000 = some (0, 16, 0, true) ∧ occ 0x9040 = some (16, 16, 16, true) ∧ occ 0x9080 = some (0, 16, 0, false) ∧ (ring 0x9000).gen.reqs = [] ∧
    genState.reqRing = none := by decide +kernel

theorem witness_GenerationEvents :
    let n := genState
    let s : State := { n with tcm := Memory.writeN (Memory.writeN [] 4 4 (2 ^ 30)) 0x28 8 0x2000 }
    let f : State := { s with gen := { s.gen with inFlight := true, rows := [0], done := true }, mcirq := 8 }
    let z : State := { n with gen := { n.gen with inFlight := true, done := true }, mcirq := 8 }
    let w : State := { f with gen := { f.gen with done := false } }
    s.memClean = true ∧ n.memClean = true ∧ f.memClean = true ∧
    s.reqRing = none ∧ n.reqRing = none ∧ f.reqRing = none ∧ z.reqRing = none ∧ s.gen.inFlight = false ∧ s.genRoom = true ∧ s.gen.reqs = [] ∧ s.genRows ≠ [] ∧
    n.gen.inFlight = false ∧ n.genRoom = true ∧ n.gen.reqs = [] ∧ n.genRows = [] ∧
    f.gen.inFlight = true ∧ f.gen.retry = false ∧ f.gen.done = true ∧ f.mcirqSet.getLsbD (f.gen.queue % 16) = false ∧ f.gen.reqs = [] ∧
    w.gen.retry = false ∧ w.gen.done = false ∧ f.qRead f.genView f.gen.crecAddr 1 = some 0 ∧
    z.gen.rows = [] ∧ z.gen.retry = false ∧ z.gen.done = true ∧ z.qRead z.genView z.gen.crecAddr 1 = some 0 := by decide +kernel

/-! ## Hypotheses that can be met: steps and encodings -/

theorem witness_StepKeepsMemoryCanonical :
    Memory.wf (mem4 0x40 4 0x03140005 (S (K []))).mem ∧
    (match Machine.step { mem4 0x40 4 0x03140005 (S (K [])) with agenda := [.slot (.stream 1 2 .s)] } with | .next _ => true | _ => false) = true ∧
    Memory.wf State.reset.mem ∧ (match Machine.step State.reset with | .next _ => true | _ => false) = true := by decide +kernel

/-- An issue slot next on the agenda, and the word's bytes at its stream's counter. -/
def Slot (a : Agent) (at_ n w : Nat) : State := { mem4 at_ n w (At .device (MV (K []))) with agenda := [.slot a] }
def vaddWord : Nat := 0b00_00010000_0000_0011_0_000_00001000_0000000100000000010000_0000001000000000010001_1000111111100000000000
def mzeroWord : Nat := 0b0000010010 * 2 ^ 182 + 3 * 2 ^ 171

def decodes (st : StreamId) (n w : Nat) (s : State) (c x : Nat) : Bool :=
  match decodeBytes st (natToBytes n w) with
  | .ok i => s.unitOk (.stream c x st) i
  | .error _ => false

theorem witness_StepRunsTheDecodedWord :
    let s := Slot (.stream 1 2 .s) 0x40 4 0x03140005
    let v := Slot (.stream 1 2 .v) 0x80 12 vaddWord
    let m := Slot (.stream 1 2 .m) 0xC0 24 mzeroWord
    let h : State := { mem4 0x40 4 0x03140005 (Tick (H [])) with agenda := [.slot (.hcp 0)] }
    (∀ q ∈ [(s, StreamId.s, 0x40, 4, 0x03140005), (v, .v, 0x80, 12, vaddWord), (m, .m, 0xC0, 24, mzeroWord)],
      q.1.memClean = true ∧ q.1.slotOpen (.stream 1 2 q.2.1) = true ∧ ((q.1.ctx 1 2).fetchAddr q.2.1).toNat = q.2.2.1 ∧ streamBytes q.2.1 = q.2.2.2.1 ∧
      q.1.access (q.1.mdw 1) .fetch [(q.2.2.1, q.2.2.2.1)] = .ok [P q.2.2.1 q.2.2.2.1] ∧ (q.1.readParts [P q.2.2.1 q.2.2.2.1]).1 = q.2.2.2.2 ∧
      (q.1.readParts [P q.2.2.1 q.2.2.2.1]).2.1 = 0 ∧ decodes q.2.1 q.2.2.2.1 q.2.2.2.2 q.1 1 2 = true) ∧
    s.agenda = .slot (.stream 1 2 .s) :: [] ∧ v.agenda = .slot (.stream 1 2 .v) :: [] ∧ m.agenda = .slot (.stream 1 2 .m) :: [] ∧
    0x03140005 / 2 ^ 24 % 64 ≠ 0x3E ∧
    h.agenda = .slot (.hcp 0) :: [] ∧ h.memClean = true ∧ h.slotOpen (.hcp 0) = true ∧ (h.hcp 0).hi.toNat * 2 ^ 32 + (h.hcp 0).sc.pc.toNat = 0x40 ∧
    (match (h.hcp 0).check 0x40 4 with | .ok key => key == 0 | .error _ => false) = true ∧ h.hRead 0 0x40 4 = (0x03140005, 0) ∧
    hcpMajor 0x03140005 = none ∧ (match decodeBytes .s (natToBytes 4 0x03140005) with | .ok _ => true | .error _ => false) = true := by decide +kernel

theorem witness_ReservedWordsTrap :
    let s := Slot (.stream 1 2 .s) 0x40 4 0x01000013
    let v := Slot (.stream 1 2 .v) 0x80 12 0
    let m := Slot (.stream 1 2 .m) 0xC0 24 0
    let h := Slot (.stream 1 2 .s) 0x40 4 0x3E000000
    (∀ q ∈ [(s, StreamId.s, 0x40, 4, 0x01000013), (v, .v, 0x80, 12, 0), (m, .m, 0xC0, 24, 0)],
      q.1.memClean = true ∧ q.1.slotOpen (.stream 1 2 q.2.1) = true ∧ (q.1.ctx 1 2).trap = none ∧
      q.1.access (q.1.mdw 1) .fetch [(q.2.2.1, q.2.2.2.1)] = .ok [P q.2.2.1 q.2.2.2.1] ∧ (q.1.readParts [P q.2.2.1 q.2.2.2.1]).1 = q.2.2.2.2 ∧
      (q.1.readParts [P q.2.2.1 q.2.2.2.1]).2.1 = 0 ∧
      (match decodeBytes q.2.1 (natToBytes q.2.2.2.1 q.2.2.2.2) with | .ok _ => false | .error _ => true) = true) ∧
    h.slotOpen (.stream 1 2 .s) = true ∧ h.access (h.mdw 1) .fetch [(0x40, 4)] = .ok [P 0x40 4] ∧ (h.readParts [P 0x40 4]).1 / 2 ^ 24 % 64 = 0x3E ∧
    (h.readParts [P 0x40 4]).2.1 = 0 := by decide +kernel

theorem witness_ScalarWordsRoundTrip :
    (Instr.addi 3 63 63 0xFFF).wellFormed = true ∧ (encodeS (.addi 3 63 63 0xFFF)).isSome = true ∧
    (Instr.hgemv 1 31).wellFormed = true ∧ (encodeS (.hgemv 1 31)).isSome = true := by decide +kernel

theorem witness_VectorMatrixWordsRoundTrip :
    (Instr.vadd vw).wellFormed = true ∧ (encodeV (.vadd vw)).isSome = true ∧
    (Instr.mzero { mw with fa := .f32, fb := .f32, srcA := .breg 0, srcB := .breg 0, steps := 0, mx := 0, my := 0 }).wellFormed = true ∧
    (encodeM (.mzero { mw with fa := .f32, fb := .f32, srcA := .breg 0, srcB := .breg 0, steps := 0, mx := 0, my := 0 })).isSome = true := by decide +kernel

/-! ## Decoding. Each word is written from the spec: the forms of R28 with the opcodes of R43 to R47, the layout of R30 with R31 to R33 and
R48, the layout of R37 with R38 and R49. -/

/-- Majors 0x01 and 0x02. -/
theorem test_decode_arithmetic : ∀ p ∈ ([
    (0x41A74B80, Instr.add 1 41 52 46),
    (0x81A74B81, Instr.sub 2 41 52 46),
    (0xC1A74B82, Instr.and 3 41 52 46),
    (0x01A74B83, Instr.or 0 41 52 46),
    (0x41A74B84, Instr.xor 1 41 52 46),
    (0x81A74B85, Instr.shl 2 41 52 46),
    (0xC1A74B86, Instr.shr 3 41 52 46),
    (0x01A74B87, Instr.sra 0 41 52 46),
    (0x41A74B88, Instr.mul 1 41 52 46),
    (0x81A74B89, Instr.mulh 2 41 52 46),
    (0xC1A74B8A, Instr.mulhu 3 41 52 46),
    (0x01A74B8B, Instr.div 0 41 52 46),
    (0x41A74B8C, Instr.divu 1 41 52 46),
    (0x81A74B8D, Instr.rem 2 41 52 46),
    (0xC1A74B8E, Instr.remu 3 41 52 46),
    (0x01A74B8F, Instr.min 0 41 52 46),
    (0x41A74B90, Instr.max 1 41 52 46),
    (0x81A74B91, Instr.minu 2 41 52 46),
    (0xC1A74B92, Instr.maxu 3 41 52 46),
    (0x01A74B98, Instr.seq 0 41 52 46),
    (0x41A74B99, Instr.sne 1 41 52 46),
    (0x81A74B9A, Instr.slt 2 41 52 46),
    (0xC1A74B9B, Instr.sltu 3 41 52 46),
    (0x01A74B9C, Instr.sge 0 41 52 46),
    (0x41A74B9D, Instr.sgeu 1 41 52 46),
    (0x824AA700, Instr.addd 2 9 21 14),
    (0xC24AA701, Instr.subd 3 9 21 14),
    (0x024AAB82, Instr.shld 0 9 21 46),
    (0x424AAB83, Instr.shrd 1 9 21 46),
    (0x824AAB84, Instr.srad 2 9 21 46)
  ] : List (Nat × Instr)), decodeTableWord 32 p.1 = some p.2 := by decide +kernel

/-- Majors 0x03 to 0x0D. -/
theorem test_decode_immediates : ∀ p ∈ ([
    (0xC3A74A7B, Instr.addi 3 41 52 0xa7b),
    (0x04A74A7C, Instr.andi 0 41 52 0xa7c),
    (0x45A74A7D, Instr.ori 1 41 52 0xa7d),
    (0x86A74A7E, Instr.xori 2 41 52 0xa7e),
    (0xC7A74013, Instr.shli 3 41 52 19),
    (0x08A74013, Instr.shri 0 41 52 19),
    (0x49A74013, Instr.srai 1 41 52 19),
    (0x8AA74A82, Instr.slti 2 41 52 0xa82),
    (0xCBA74A83, Instr.sltiu 3 41 52 0xa83),
    (0x0C4AAA84, Instr.adddi 0 9 21 0xa84),
    (0x4DA6A5C3, Instr.lih 1 41 0x2a5c3)
  ] : List (Nat × Instr)), decodeTableWord 32 p.1 = some p.2 := by decide +kernel

/-- Majors 0x0E to 0x1A. -/
theorem test_decode_control : ∀ p ∈ ([
    (0x8EA6A5C3, Instr.jal 2 41 0x2a5c3),
    (0xCFA74A87, Instr.jalr 3 41 52 0xa87),
    (0x10D2EA88, Instr.beq 0 52 46 0xa88),
    (0x51D2EA89, Instr.bne 1 52 46 0xa89),
    (0x92D2EA8A, Instr.blt 2 52 46 0xa8a),
    (0xD3D2EA8B, Instr.bge 3 52 46 0xa8b),
    (0x14D2EA8C, Instr.bltu 0 52 46 0xa8c),
    (0x55D2EA8D, Instr.bgeu 1 52 46 0xa8d),
    (0x96D2EA8E, Instr.loop 2 52 46 0xa8e),
    (0xD70EA000, Instr.qpush 3 3 21),
    (0x17480001, Instr.qpop 0 9 0),
    (0x57481002, Instr.qpeek 1 9 1),
    (0x97480008, Instr.gtcr 2 9),
    (0xD702A009, Instr.waitg 3 21),
    (0x1700003F, Instr.exit 0),
    (0x58000A95, Instr.gap 1 0xa95),
    (0x99480A96, Instr.csrr 2 9 0xa96),
    (0xDA02AA97, Instr.csrw 3 21 0xa97)
  ] : List (Nat × Instr)), decodeTableWord 32 p.1 = some p.2 := by decide +kernel

/-- Majors 0x20 to 0x2D. -/
theorem test_decode_memory : ∀ p ∈ ([
    (0x20A6AA98, Instr.ldb 0 41 21 0xa98),
    (0x61A6AA99, Instr.ldh 1 41 21 0xa99),
    (0xA2A6AA9A, Instr.ldw 2 41 21 0xa9a),
    (0xE34AAA9B, Instr.ldd 3 9 21 0xa9b),
    (0x24A6A000, Instr.stb 0 41 21),
    (0x65A6A000, Instr.sth 1 41 21),
    (0xA6A6A000, Instr.stw 2 41 21),
    (0xE74AA000, Instr.std 3 9 21),
    (0x28A74AA0, Instr.lds 0 41 52 0xaa0),
    (0x69A74000, Instr.sts 1 41 52),
    (0xAAA6A000, Instr.tlook 2 41 21),
    (0xEA02AB81, Instr.tset 3 21 46),
    (0x2A034002, Instr.tinv 0 52),
    (0x6A034008, Instr.bdecl 1 52),
    (0xAA034009, Instr.bstateFull 2 52),
    (0xEA074009, Instr.bstateDrain 3 52),
    (0x2AA7400A, Instr.bquery 0 41 52),
    (0x6AA74B90, Instr.sbfw 1 41 52 46),
    (0xAB1AA000, Instr.sew 2 6 21),
    (0xEB040001, Instr.sego 3 .mdw),
    (0x2B280001, Instr.segoResume 0 .die),
    (0x6B4C0001, Instr.segoDrop 1 .stk),
    (0xAB480002, Instr.sepop 2 9),
    (0xEB16A003, Instr.sechain 3 .sys 21),
    (0x2B02AB88, Instr.rqpage 0 21 46),
    (0x6C000009, Instr.fence 1 false false 1 .mdw),
    (0xAD02A002, Instr.afence 2 21 .die)
  ] : List (Nat × Instr)), decodeTableWord 32 p.1 = some p.2 := by decide +kernel

/-- Majors 0x2E to 0x32. -/
theorem test_decode_atomics : ∀ p ∈ ([
    (0xEE4EAB80, Instr.atomAdd 3 true false .stk 21 46),
    (0x2E32AB81, Instr.atomAnd 0 false true .pkg 21 46),
    (0x6E36AB82, Instr.atomOr 1 false true .sys 21 46),
    (0xAE42AB83, Instr.atomXor 2 true false .ctx 21 46),
    (0xEE46AB84, Instr.atomMin 3 true false .mdw 21 46),
    (0x2E2AAB85, Instr.atomMax 0 false true .die 21 46),
    (0x6E2EAB86, Instr.atomSwap 1 false true .stk 21 46),
    (0xAF52AB80, Instr.acas 2 true false .pkg 21 46),
    (0xF056AB80, Instr.redAdd 3 true false .sys 21 46),
    (0x3022AB81, Instr.redAnd 0 false true .ctx 21 46),
    (0x7026AB82, Instr.redOr 1 false true .mdw 21 46),
    (0xB04AAB83, Instr.redXor 2 true false .die 21 46),
    (0xF04EAB84, Instr.redMin 3 true false .stk 21 46),
    (0x3032AB85, Instr.redMax 0 false true .pkg 21 46),
    (0x7156AB80, Instr.fredAdd 1 .f16 .sys 21 46),
    (0xB102AB84, Instr.fredMin 2 .f32 .ctx 21 46),
    (0xF126AB85, Instr.fredMax 3 .bf16 .mdw 21 46),
    (0x32480000, Instr.apop 0 9),
    (0x720EAB88, Instr.bari 1 .stk 21 46),
    (0xB212A009, Instr.barv 2 .pkg 21),
    (0xF216A00A, Instr.bard 3 .sys 21),
    (0x3202AB8B, Instr.barx 0 .ctx 21 46),
    (0x7206A70C, Instr.barw 1 .mdw 21 14),
    (0xB20AAB8D, Instr.bart 2 .die 21 46),
    (0xF20EA710, Instr.waitqData 3 .stk 21 14),
    (0x3232A710, Instr.waitqSpace 0 .pkg 21 14),
    (0x7216AB91, Instr.sems 1 .sys 21 46),
    (0xB202A712, Instr.semw 2 .ctx 21 14),
    (0xF2034018, Instr.uien 3 52),
    (0x32000019, Instr.uiret 0),
    (0x72A6A720, Instr.lnch 1 41 21 14)
  ] : List (Nat × Instr)), decodeTableWord 32 p.1 = some p.2 := by decide +kernel

/-- Majors 0x33 to 0x36. -/
theorem test_decode_system : ∀ p ∈ ([
    (0xB302AB80, Instr.hspdecl 2 21 46),
    (0xF3A40001, Instr.tbegin 3 41),
    (0x33000002, Instr.tend 0),
    (0x73034003, Instr.tabort 1 52),
    (0xB3480004, Instr.tage 2 9),
    (0xF402AB80, Instr.dseed 3 21 46),
    (0x3402A001, Instr.dtopo 0 21),
    (0x75A6A700, Instr.mdeq 1 41 21 14),
    (0xB54B4B81, Instr.bdwait 2 9 52 46),
    (0xF6000000, Instr.nop 3),
    (0x3602A001, Instr.halt 0 21),
    (0x76034002, Instr.trap 1 52),
    (0xB6000003, Instr.eret 2),
    (0xF6A6A004, Instr.ctxsv 3 41 21),
    (0x36A6AB85, Instr.ctxld 0 41 21 46),
    (0x76A6AB86, Instr.twld 1 41 21 46),
    (0xB6A6AB87, Instr.keyld 2 41 21 46)
  ] : List (Nat × Instr)), decodeTableWord 32 p.1 = some p.2 := by decide +kernel

/-- Major 0x3E. -/
theorem test_decode_heath : ∀ p ∈ ([
    (0xFE02A000, Instr.hgemv 3 21),
    (0x3E02A001, Instr.hred 0 21),
    (0x7E02A002, Instr.hland 1 21),
    (0xBE02A003, Instr.hwalk 2 21),
    (0xFE02A004, Instr.hscan 3 21),
    (0x3E02A005, Instr.hcopy 0 21),
    (0x7E02AB88, Instr.hrow 1 21 46),
    (0xBE100010, Instr.hfence 2 .pkg),
    (0xFE034011, Instr.hwait 3 52),
    (0x3E034B92, Instr.hpost 0 .ctx 52 46),
    (0x7E274B92, Instr.hpostErr 1 .mdw 52 46),
    (0xBEA74018, Instr.hstat 2 41 52)
  ] : List (Nat × Instr)), decodeTableWord 32 p.1 = some p.2 := by decide +kernel

/-- V opcodes up to the integer ones. -/
theorem test_decode_vector1 : ∀ p ∈ ([
    (0xC04000000000000000000000, Instr.vNop ⟨3, .f32, 0, false, .rne, 0, .rows 0 0 false false, .rows 0 0 false false, .rows 0 0 false false⟩),
    (0x4400C010028200140470781F, Instr.vadd ⟨1, .f32, 3, false, .rne, 4, .rows 10 2 false false, .rows 20 1 true false, .bcast 30 1 15⟩),
    (0x4440E414028200140470781F, Instr.vsub ⟨1, .f32, 3, true, .rz, 5, .rows 10 2 false false, .rows 20 1 true false, .bcast 30 1 15⟩),
    (0x4480C818028200140470781F, Instr.vmul ⟨1, .f32, 3, false, .rd, 6, .rows 10 2 false false, .rows 20 1 true false, .bcast 30 1 15⟩),
    (0x44C0EC1C028200140470781F, Instr.vfma ⟨1, .f32, 3, true, .ru, 7, .rows 10 2 false false, .rows 20 1 true false, .bcast 30 1 15⟩),
    (0x4500C020028200140470781F, Instr.vmin ⟨1, .f32, 3, false, .rne, 8, .rows 10 2 false false, .rows 20 1 true false, .bcast 30 1 15⟩),
    (0x4540E024028200140470781F, Instr.vmax ⟨1, .f32, 3, true, .rne, 9, .rows 10 2 false false, .rows 20 1 true false, .bcast 30 1 15⟩),
    (0x4580C02802820014FC000000, Instr.vabs ⟨1, .f32, 3, false, .rne, 10, .rows 10 2 false false, .rows 20 63 false false, .rows 0 0 false false⟩),
    (0x45C0E02C02820014FC000000, Instr.vneg ⟨1, .f32, 3, true, .rne, 11, .rows 10 2 false false, .rows 20 63 false false, .rows 0 0 false false⟩),
    (0x4600C03002820014FC000000, Instr.vexp2 ⟨1, .f32, 3, false, .rne, 12, .rows 10 2 false false, .rows 20 63 false false, .rows 0 0 false false⟩),
    (0x4640E03402820014FC000000, Instr.vlog2 ⟨1, .f32, 3, true, .rne, 13, .rows 10 2 false false, .rows 20 63 false false, .rows 0 0 false false⟩),
    (0x4680C03802820014FC000000, Instr.vrcp ⟨1, .f32, 3, false, .rne, 14, .rows 10 2 false false, .rows 20 63 false false, .rows 0 0 false false⟩),
    (0x46C0E03C02820014FC000000, Instr.vrsq ⟨1, .f32, 3, true, .rne, 15, .rows 10 2 false false, .rows 20 63 false false, .rows 0 0 false false⟩),
    (0x4700C04002820014FC000000, Instr.vsqrt ⟨1, .f32, 3, false, .rne, 16, .rows 10 2 false false, .rows 20 63 false false, .rows 0 0 false false⟩),
    (0x482800040040001404280005, Instr.vcmpEq ⟨1, .i32, 0, false, .rne, 1, .rows 1 0 false false, .rows 20 1 false false, .imm 524293⟩),
    (0x486800040080001404280005, Instr.vcmpNe ⟨1, .i32, 0, false, .rne, 1, .rows 2 0 false false, .rows 20 1 false false, .imm 524293⟩),
    (0x48A8000400C0001404280005, Instr.vcmpLt ⟨1, .i32, 0, false, .rne, 1, .rows 3 0 false false, .rows 20 1 false false, .imm 524293⟩),
    (0x48E800040100001404280005, Instr.vcmpLe ⟨1, .i32, 0, false, .rne, 1, .rows 4 0 false false, .rows 20 1 false false, .imm 524293⟩),
    (0x492800040140001404280005, Instr.vcmpGt ⟨1, .i32, 0, false, .rne, 1, .rows 5 0 false false, .rows 20 1 false false, .imm 524293⟩),
    (0x496800040180001404280005, Instr.vcmpGe ⟨1, .i32, 0, false, .rne, 1, .rows 6 0 false false, .rows 20 1 false false, .imm 524293⟩),
    (0x4980000401C0001404007810, Instr.vcmpUn ⟨1, .f32, 0, false, .rne, 1, .rows 7 0 false false, .rows 20 1 false false, .rows 30 1 false false⟩),
    (0x4A0543FC0281001404007810, Instr.vsel ⟨1, .bf16, 5, false, .rne, 255, .rows 10 1 false false, .rows 20 1 false false, .rows 30 1 false false⟩),
    (0x4A400C10028100140420000A, Instr.vcvt ⟨1, .f32, 0, false, .ru, 4, .rows 10 1 false false, .rows 20 1 false false, .imm 10⟩),
    (0x4A8808100280001404000000, Instr.vscale ⟨1, .f16, 0, false, .rd, 4, .rows 10 0 false false, .rows 20 1 false false, .rows 0 0 false false⟩),
    (0x4C340018190300C8F804B040, Instr.vand ⟨1, .n16, 0, false, .rne, 6, .rows 100 3 false false, .rows 200 62 false false, .rows 300 4 false false⟩),
    (0x4C740018190300C8F804B040, Instr.vor ⟨1, .n16, 0, false, .rne, 6, .rows 100 3 false false, .rows 200 62 false false, .rows 300 4 false false⟩),
    (0x4CB40018190300C8F804B040, Instr.vxor ⟨1, .n16, 0, false, .rne, 6, .rows 100 3 false false, .rows 200 62 false false, .rows 300 4 false false⟩),
    (0x4CF40018190300C8F8000000, Instr.vnot ⟨1, .n16, 0, false, .rne, 6, .rows 100 3 false false, .rows 200 62 false false, .rows 0 0 false false⟩),
    (0x4D340018190300C8F804B040, Instr.vshl ⟨1, .n16, 0, false, .rne, 6, .rows 100 3 false false, .rows 200 62 false false, .rows 300 4 false false⟩)
  ] : List (Nat × Instr)), decodeTableWord 96 p.1 = some p.2 := by decide +kernel

/-- The other V opcodes. -/
theorem test_decode_vector2 : ∀ p ∈ ([
    (0x4D740018190300C8F804B040, Instr.vshr ⟨1, .n16, 0, false, .rne, 6, .rows 100 3 false false, .rows 200 62 false false, .rows 300 4 false false⟩),
    (0x4DB40018190300C8F804B040, Instr.vsra ⟨1, .n16, 0, false, .rne, 6, .rows 100 3 false false, .rows 200 62 false false, .rows 300 4 false false⟩),
    (0x4DF40018190300C8F8000000, Instr.vpopc ⟨1, .n16, 0, false, .rne, 6, .rows 100 3 false false, .rows 200 62 false false, .rows 0 0 false false⟩),
    (0x4E340018190300C8F8000000, Instr.vclz ⟨1, .n16, 0, false, .rne, 6, .rows 100 3 false false, .rows 200 62 false false, .rows 0 0 false false⟩),
    (0x4E740018190300C8F804B040, Instr.vmulh ⟨1, .n16, 0, false, .rne, 6, .rows 100 3 false false, .rows 200 62 false false, .rows 300 4 false false⟩),
    (0x503800100281001404007810, Instr.vperm ⟨1, .n32, 0, false, .rne, 4, .rows 10 1 false false, .rows 20 1 false false, .rows 30 1 false false⟩),
    (0x507800100281001404200007, Instr.vbcast ⟨1, .n32, 0, false, .rne, 4, .rows 10 1 false false, .rows 20 1 false false, .imm 7⟩),
    (0x50B800100281080001600000, Instr.viota ⟨1, .n32, 0, false, .rne, 4, .rows 10 1 false false, .imm 5, .imm 0⟩),
    (0x50F800100281001404200009, Instr.vrot ⟨1, .n32, 0, false, .rne, 4, .rows 10 1 false false, .rows 20 1 false false, .imm 9⟩),
    (0x513800100281001404000000, Instr.vcomp ⟨1, .n32, 0, false, .rne, 4, .rows 10 1 false false, .rows 20 1 false false, .rows 0 0 false false⟩),
    (0x517800100281040300000000, Instr.vmov ⟨1, .n32, 0, false, .rne, 4, .rows 10 1 false false, .queue 3, .rows 0 0 false false⟩),
    (0x542800100281001404000000, Instr.vrsum ⟨1, .i32, 0, false, .rne, 4, .rows 10 1 false false, .rows 20 1 false false, .rows 0 0 false false⟩),
    (0x546800100281001404000000, Instr.vrmax ⟨1, .i32, 0, false, .rne, 4, .rows 10 1 false false, .rows 20 1 false false, .rows 0 0 false false⟩),
    (0x54A800100281001404000000, Instr.vrmin ⟨1, .i32, 0, false, .rne, 4, .rows 10 1 false false, .rows 20 1 false false, .rows 0 0 false false⟩),
    (0x54E800100281001404000000, Instr.vscan ⟨1, .i32, 0, false, .rne, 4, .rows 10 1 false false, .rows 20 1 false false, .rows 0 0 false false⟩),
    (0x552800100281001404000000, Instr.vscanmax ⟨1, .i32, 0, false, .rne, 4, .rows 10 1 false false, .rows 20 1 false false, .rows 0 0 false false⟩),
    (0x5800000400C0000100000800, Instr.pand ⟨1, .f32, 0, false, .rne, 1, .rows 3 0 false false, .rows 1 0 false false, .rows 2 0 false false⟩),
    (0x5840000400C0000100000800, Instr.por ⟨1, .f32, 0, false, .rne, 1, .rows 3 0 false false, .rows 1 0 false false, .rows 2 0 false false⟩),
    (0x5880000400C0000100000800, Instr.pxor ⟨1, .f32, 0, false, .rne, 1, .rows 3 0 false false, .rows 1 0 false false, .rows 2 0 false false⟩),
    (0x58C0000400C0000100000000, Instr.pnot ⟨1, .f32, 0, false, .rne, 1, .rows 3 0 false false, .rows 1 0 false false, .rows 0 0 false false⟩),
    (0x5C3800100281040100200258, Instr.vld ⟨1, .n32, 0, false, .rne, 4, .rows 10 1 false false, .queue 1, .imm 600⟩),
    (0x5C7800100000001404100800, Instr.vst ⟨1, .n32, 0, false, .rne, 4, .rows 0 0 false false, .rows 20 1 false false, .queue 2⟩),
    (0x5CB800100281080080200064, Instr.vlds ⟨1, .n32, 0, false, .rne, 4, .rows 10 1 false false, .imm 512, .imm 100⟩),
    (0x5CF800100000001404200200, Instr.vsts ⟨1, .n32, 0, false, .rne, 4, .rows 0 0 false false, .rows 20 1 false false, .imm 512⟩),
    (0x600000110000001404200000, Instr.vdraw ⟨1, .f32, 0, false, .rne, 4, .queue 0, .rows 20 1 false false, .imm 0⟩),
    (0x607C00100282001410007BE0, Instr.vdmrg ⟨1, .n64, 0, false, .rne, 4, .rows 10 2 false false, .rows 20 4 false false, .rows 30 62 false false⟩),
    (0x60BC00100282001408000000, Instr.dtree ⟨1, .n64, 0, false, .rne, 4, .rows 10 2 false false, .rows 20 2 false false, .rows 0 0 false false⟩),
    (0x7C0000046000080000400000, Instr.vmarkFull ⟨1, .f32, 0, false, .rne, 1, .rows 384 0 false false, .imm 1, .rows 0 0 false false⟩),
    (0x7C0000046000080000000000, Instr.vmarkEmpty ⟨1, .f32, 0, false, .rne, 1, .rows 384 0 false false, .imm 0, .rows 0 0 false false⟩),
    (0x7FC000000000000000000000, Instr.vexit ⟨1, .f32, 0, false, .rne, 0, .rows 0 0 false false, .rows 0 0 false false, .rows 0 0 false false⟩)
  ] : List (Nat × Instr)), decodeTableWord 96 p.1 = some p.2 := by decide +kernel

/-- M opcodes. -/
theorem test_decode_matrix : ∀ p ∈ ([
    (0x804000000000000000000000000000000000000000000000, Instr.mNop ⟨2, .f32, .f32, 0, .rne, .none, 0x0, .breg 0, .breg 0, none, none, false, false, false, 0, 0, 0, 0x0⟩),
    (0x040450400048D00090003000080000000000000000000000, Instr.mma ⟨0, .bf16, .bf16, 2, .rne, .absolute, 0x12340, .breg 0, .desc 2, none, none, true, true, false, 1, 0, 0, 0x0⟩),
    (0x844CF8000000002A0E802FFFF80000000000000000000000, Instr.mmag ⟨2, .e4m3, .e4m3, 7, .rne, .none, 0x0, .desc 5, .breg 3, (some 4), none, true, false, true, 65535, 0, 0, 0x0⟩),
    (0x848028000000000000000000000000000000000000000000, Instr.mzero ⟨2, .f32, .f32, 5, .rne, .none, 0x0, .breg 0, .breg 0, none, none, false, false, false, 0, 0, 0, 0x0⟩),
    (0x84C030000000000000000000000000000000000000000004, Instr.mtype ⟨2, .f32, .f32, 6, .rne, .none, 0x0, .breg 0, .breg 0, none, none, false, false, false, 0, 0, 0, 0x4⟩),
    (0x851000000000003E08000000000000000000000000000000, Instr.mldbSpad ⟨2, .e5m2, .f32, 0, .rne, .none, 0x0, .desc 15, .breg 2, none, none, false, false, false, 0, 0, 0, 0x0⟩),
    (0x850408000000000004000000000000000000000000000040, Instr.mldbAcc ⟨2, .bf16, .f32, 1, .rne, .none, 0x0, .breg 0, .breg 1, none, none, false, false, false, 0, 0, 0, 0x40⟩),
    (0x854819000000002C00000000000000000000000000000905, Instr.msta ⟨2, .f16, .f32, 3, .rz, .none, 0x0, .desc 6, .breg 0, none, none, false, false, false, 0, 0, 0, 0x905⟩),
    (0x88000000000000000000000007C000000000000089ABCDEF, Instr.mset ⟨2, .f32, .f32, 0, .rne, .none, 0x0, .breg 0, .breg 0, none, none, false, false, false, 0, 31, 0, 0x89abcdef⟩),
    (0x884000000000000000000000078600000000000000000000, Instr.mqpop ⟨2, .f32, .f32, 0, .rne, .none, 0x0, .breg 0, .breg 0, none, none, false, false, false, 0, 30, 3, 0x0⟩),
    (0x8C000000000000000000000001C000000000000000000000, Instr.mwalk ⟨2, .f32, .f32, 0, .rne, .none, 0x0, .breg 0, .breg 0, none, none, false, false, false, 0, 7, 0, 0x0⟩),
    (0x8C4000000000000000000000000000000000000000000000, Instr.mwres ⟨2, .f32, .f32, 0, .rne, .none, 0x0, .breg 0, .breg 0, none, none, false, false, false, 0, 0, 0, 0x0⟩),
    (0x900038000000000000000000000000000000000000000000, Instr.mfull ⟨2, .f32, .f32, 7, .rne, .none, 0x0, .breg 0, .breg 0, none, none, false, false, false, 0, 0, 0, 0x0⟩),
    (0x904008000000000000000000000000000000000000000000, Instr.mempty ⟨2, .f32, .f32, 1, .rne, .none, 0x0, .breg 0, .breg 0, none, none, false, false, false, 0, 0, 0, 0x0⟩),
    (0x908000000000000000000000000000000000000000000081, Instr.mwait ⟨2, .f32, .f32, 0, .rne, .none, 0x0, .breg 0, .breg 0, none, none, false, false, false, 0, 0, 0, 0x81⟩),
    (0x940010000000000000000000010C00000000000000030703, Instr.mdraw ⟨2, .f32, .f32, 2, .rne, .none, 0x0, .breg 0, .breg 0, none, none, false, false, false, 0, 4, 6, 0x30703⟩),
    (0x980CD8000000000004001000100000000000000000000000, Instr.mbeat ⟨2, .e4m3, .e4m3, 3, .rne, .none, 0x0, .breg 0, .breg 1, none, none, false, true, false, 2, 0, 0, 0x0⟩),
    (0x984000000000000000000000000000000000000000000000, Instr.mbend ⟨2, .f32, .f32, 0, .rne, .none, 0x0, .breg 0, .breg 0, none, none, false, false, false, 0, 0, 0, 0x0⟩),
    (0x988000000000000000000000000000000000000000000008, Instr.mlook ⟨2, .f32, .f32, 0, .rne, .none, 0x0, .breg 0, .breg 0, none, none, false, false, false, 0, 0, 0, 0x8⟩),
    (0xBFC000000000000000000000000000000000000000000000, Instr.mexit ⟨2, .f32, .f32, 0, .rne, .none, 0x0, .breg 0, .breg 0, none, none, false, false, false, 0, 0, 0, 0x0⟩)
  ] : List (Nat × Instr)), decodeTableWord 192 p.1 = some p.2 := by decide +kernel

/-- The worked V-word of 02_encoding.md: vadd.f32 v10+2, v20+1, v30+1, #4, ?p3. -/
theorem test_decode_worked_v : decodeTableWord 96 0x0400_C010_0282_0014_0400_7810 =
    some (.vadd ⟨0, .f32, 3, false, .rne, 4, .rows 10 2 false false, .rows 20 1 false false, .rows 30 1 false false⟩) := by decide +kernel

/-- The worked M-word of 02_encoding.md: mma.bf16.bf16 a2, b0, m4, #1, acc, full, stamp=0x0001_2340. -/
theorem test_decode_worked_m : decodeTableWord 192 0x0404_5040_0048_D000_9000_3000_0800_0000_0000_0000_0000_0000 =
    some (.mma ⟨0, .bf16, .bf16, 2, .rne, .absolute, 0x00012340, .breg 0, .desc 2, none, none, true, true, false, 1, 0, 0, 0⟩) := by decide +kernel

/-! ## What is refused. For each check of the encoding a term that breaks it -/

/-- S-words: an odd rb of a 64-bit operation, of a compare-and-swap, and one that is no multiple of 4 (R46, R232). -/
theorem test_illformed_s :
    (Instr.atomAdd 0 false true .ctx 4 7).wellFormed = false ∧ (Instr.redMax 0 true true .sys 4 9).wellFormed = false ∧
    (Instr.acas 0 false false .ctx 4 7).wellFormed = false ∧ (Instr.acas 0 false true .ctx 4 6).wellFormed = false := by decide +kernel

/-- V-words: types, rows, queues, immediates, predicates and unused fields (R31 to R36, R113 to R135). -/
theorem test_illformed_v :
    let z : VOperand := .rows 0 0 false false
    ∀ i ∈ [Instr.vadd { vw with et := .cb4 }, .vand { vw with et := .f32 }, .vscale { vw with et := .i8, src2 := z }, .vld { vw with et := .n64, src1 := .queue 0, src2 := .imm 9 },
      .vdmrg { vw with et := .n32 }, .dtree { vw with et := .f32, src2 := z },
      .vadd { vw with dst := .rows 1022 1 false false }, .vadd { vw with src1 := .rows 1 63 false false }, .vadd { vw with et := .i64 },
      .vadd { vw with dst := .rows 300 1 true false }, .vadd { vw with src1 := .rows 10 1 true false }, .vadd { vw with dst := .imm 3 },
      .vadd { vw with dst := .bcast 3 0 0 }, .vadd { vw with n := 17, dst := .queue 0 }, .vadd { vw with n := 5, src1 := .queue 7 },
      .vadd { vw with n := 9, src1 := .queue 3, src2 := .queue 3 }, .vadd { vw with et := .i64, dst := .queue 4, src1 := .rows 10 2 false false, src2 := .rows 20 2 false false },
      .vadd { vw with et := .bf16, src2 := .imm 0x10000 }, .vadd { vw with et := .e4m3, src2 := .imm 0x100 }, .vcmpEq { vw with dst := .rows 14 1 false false },
      .vcmpEq { vw with dst := .queue 1 }, .vabs vw, .vnot vw, .vrot { vw with src2 := .imm 128 }, .vscale { vw with et := .f32, src2 := z },
      .vld { vw with src1 := .rows 1 0 false false }, .vst { vw with dst := z, src2 := .rows 1 0 false false }, .vlds { vw with src1 := .rows 1 0 false false },
      .vexit vw, .vNop vw, .vmarkFull { vw with src1 := .imm 0, src2 := z, dst := .rows 0 0 false false, n := 1 },
      .vmarkEmpty { vw with src1 := .imm 1, src2 := z, dst := .rows 0 0 false false, n := 1 }], i.wellFormed = false := by decide +kernel

/-- M-words: unused fields, stamps, sources, lists, formats and immediates (R37, R38, R139 to R154, R304). -/
theorem test_illformed_m :
    let o : MWord := { mw with fa := .f32, fb := .f32, tile := 0, srcA := .breg 0, srcB := .breg 0, steps := 0, mx := 0, my := 0 }
    let a : MWord := { o with fa := .bf16, fb := .bf16, steps := 1 }
    ∀ i ∈ [Instr.mNop { o with tile := 1 }, .mzero { o with fa := .bf16 }, .mzero { o with fb := .bf16 }, .mzero { o with stampMode := .absolute }, .mzero { o with srcA := .breg 1 },
      .mzero { o with srcB := .desc 1 }, .mzero { o with acc := true }, .mzero { o with full := true }, .mzero { o with once := true }, .mzero { o with steps := 1 },
      .mzero { o with mx := 1 }, .mzero { o with my := 1 }, .mzero { o with imm64 := 1 }, .mma { a with stamp := 5 }, .mma { a with gather := some 2 },
      .mma { a with scatter := some 2 }, .mmag a, .mma { a with fb := .i8 }, .mma { a with fa := .f32 }, .mtype { o with imm64 := 5 }, .mtype { o with imm64 := 8 },
      .mldbSpad { o with fa := .bf16, srcA := .desc 2, srcB := .desc 1 }, .mldbSpad { o with fa := .bf16, srcA := .desc 2, tile := 1 },
      .mldbSpad { o with fa := .bf16 }, .mldbAcc { o with fa := .bf16, srcA := .desc 1 }, .mldbAcc { o with fa := .cb4 }, .mldbAcc { o with fa := .bf16, rm := .sr },
      .msta { o with srcA := .breg 0, imm64 := 0x100 }, .msta { o with srcA := .desc 1, imm64 := 0 }, .msta { o with srcA := .desc 1, imm64 := 0x8101 },
      .msta { o with srcA := .desc 1, imm64 := 0x10100 }, .msta { o with srcA := .desc 1, fa := .i64, imm64 := 0x100 }, .msta { o with srcA := .desc 1, rm := .sr, imm64 := 0x100 },
      .mqpop { o with mx := 1 }, .mqpop { o with my := 4 }, .mset { o with imm64 := 0x100000000 }, .mwait { o with imm64 := 0x100 }, .mlook { o with imm64 := 0x10 },
      .mdraw { o with mx := 1, imm64 := 0x100 }, .mdraw { o with mx := 2, my := 31, imm64 := 0x100 }, .mdraw { o with mx := 2, imm64 := 0 },
      .mbeat { a with steps := 0 }, .mbeat { a with steps := 257 }, .mbeat { a with imm64 := 2 ^ 48 }, .mbeat { a with imm64 := 2 ^ 52, srcA := .breg 1 },
      .mbeat { a with imm64 := 2 ^ 54 }, .mbeat { a with acc := true, imm64 := 2 ^ 32 }], i.wellFormed = false := by decide +kernel

/-- The cause and the field's top bit of words that are no instruction (R50, R51): the all-zero words, reserved majors, funcs and opcodes, and the
example of R51. -/
theorem test_reserved_words :
    ∀ p ∈ ([(.s, 4, 0x00000000, 0x01, 29), (.s, 4, 0x3F000000, 0x01, 29), (.s, 4, 0x0100003F, 0x02, 5), (.s, 4, 0x02040000, 0x07, 23),
        (.s, 4, 0x07000020, 0x07, 11), (.s, 4, 0x2C000006, 0x05, 2), (.s, 4, 0x31600000, 0x03, 22), (.s, 4, 0x17100000, 0x05, 23), (.s, 4, 0x36000100, 0x06, 11),
        (.v, 12, 0, 0x01, 93), (.v, 12, 0x11 * 2 ^ 86 + 5 * 2 ^ 74, 0x04, 76), (.v, 12, 0x10 * 2 ^ 86 + 5 * 2 ^ 82 + 6 * 2 ^ 74 + 2 ^ 44, 0x03, 85),
        (.v, 12, 0x10 * 2 ^ 86 + 2 ^ 22 * 4, 0x06, 25), (.m, 24, 0, 0x01, 189), (.m, 24, 0x40 * 2 ^ 182 + 3 * 2 ^ 166, 0x05, 167), (.m, 24, 0x40 * 2 ^ 182 + 2 ^ 64, 0x06, 80)] :
        List (StreamId × Nat × Nat × Nat × Nat)),
      (match decodeBytes p.1 (natToBytes p.2.1 p.2.2.1) with | .ok _ => false | .error r => r.cause.code == p.2.2.2.1 && r.bit == p.2.2.2.2) = true := by decide +kernel

/-! ## Small steps -/

/-- What the executing core sees of a register some cycles after a word's issue. -/
def after (i : Instr) (s : State) (d r : Nat) : Option W32 :=
  match exec i s with
  | .next t => some (seen t (s.clock + d) r)
  | _ => none

/-- R97, R99: sums wrap; the high half of a signed product; R76: quotients by zero and of the most negative number, and their remainders. -/
theorem test_scalar_arithmetic :
    let s := S (K [(4, 0xFFFFFFFF), (5, 2), (6, 0x80000000), (7, 0)])
    after (.add 0 9 4 5) s 1 9 = some 1 ∧ after (.sub 0 9 7 5) s 1 9 = some 0xFFFFFFFE ∧ after (.sra 0 9 6 5) s 1 9 = some 0xE0000000 ∧
    after (.slt 0 9 6 7) s 1 9 = some 1 ∧ after (.sltu 0 9 6 7) s 1 9 = some 0 ∧ after (.add 0 0 4 5) s 1 0 = some 0 ∧
    after (.mulh 0 9 4 5) s 50 9 = some 0xFFFFFFFF ∧ after (.mulhu 0 9 4 5) s 50 9 = some 1 ∧ after (.div 0 9 6 4) s 50 9 = some 0x7FFFFFFF ∧
    after (.rem 0 9 6 4) s 50 9 = some 0 ∧ after (.div 0 9 6 7) s 50 9 = some 0x80000000 ∧ after (.divu 0 9 4 7) s 50 9 = some 0xFFFFFFFF ∧
    after (.rem 0 9 6 7) s 50 9 = some 0x80000000 := by decide +kernel

/-- R98, R99: LIH shifts its 18 bits into the register, ADDI's immediate is sign-extended, and ANDI's and XORI's are not. -/
theorem test_scalar_immediates :
    let s := S (K [(4, 5), (9, 0x12345)])
    after (.lih 0 9 0x2A5C3) s 1 9 = some 0x8D16A5C3 ∧ after (.addi 0 9 4 0xFFF) s 1 9 = some 4 ∧ after (.andi 0 9 4 0xFFC) s 1 9 = some 4 ∧
    after (.xori 0 9 0 0xFFF) s 1 9 = some 0xFFF := by decide +kernel

/-- The first step after a word is placed at the reset state runs it. -/
theorem test_step_runs_placed_word :
    (match Machine.step (State.reset.withFetchWord 32 0x03140005) with | .next t => t.core.pc == 4 && seen t 10 5 == 5 | _ => false) = true ∧
    (match Machine.step (State.reset.withFetchWord 32 0) with | .next t => t.core.pc == 0 && t.meadows.any fun m => m.2.ctxs.any fun k => k.2.trap.isSome | _ => false)
      = true := by decide +kernel

/-- R118, R75: lanes of VADD.i32 saturate: the greatest number and 1, the least and −1, 1 and 1. -/
theorem test_vector_saturates :
    let w := { vw with n := 1 }
    let f := { flight (.vadd w) with n := 1, step := 0 }
    let s := D { MV (K []) with rows := [(10, 0x00000001_80000000_7FFFFFFF), (20, 0x00000001_FFFFFFFF_00000001)], flights := [f] }
    (match exec (.vectorSweepStep 1 5) s with
      | .next t => (t.mdw 1).flights.map (fun f => f.done.map fun r => r.row) == [[0x00000002_80000000_7FFFFFFF]]
      | _ => false) = true := by decide +kernel
end Sys2Proof.Tests
end

section
/-! SUPPORT. S-words that raise a cause at issue (O21): what the cause leaves in the context of the executing S-stream, and the guard that
refuses a word inside a hasp task. -/
namespace Sys2Proof.Machine

/-! ## The executing stream -/

theorem State.curM_stream {s : State} {c x : Nat} {st : StreamId} (h : s.cur = .stream c x st) : s.curM = c := by simp [State.curM, h]

theorem State.curX_stream {s : State} {c x : Nat} {st : StreamId} (h : s.cur = .stream c x st) : s.curX = x := by simp [State.curX, h]

/-! ## A cause raised at the word of an S-stream (R51, R373) -/

/-- An S-word of context x of meadow c has no effect but its cause: nothing outside the context and nothing of its core changes, and the
context holds the cause, its value and the word's own address, to which SEPC points. -/
def RaisesAtWord (s : State) (c x : Nat) (i : Instr) (cause : Nat) (tval : W64) : Prop :=
  ∃ t p, exec i s = .next t ∧ OnlyCtx s t c x ∧ (t.ctx c x).sc = (s.ctx c x).sc ∧ (t.ctx c x).trap = some p ∧ p.cause = cause ∧
    p.tval = tval ∧ p.tpc = (s.ctx c x).sc.pc ∧ p.stream = some .s ∧ p.sepc = .atWord

/-- A context that holds no cause takes the one that is raised, and nothing else of it changes. -/
theorem Ctx.addCause_of_none {k : Ctx} (h : k.trap = none) (p : TrapPend) (atIssue : Bool) :
    k.addCause p atIssue = { k with trap := some p } := by
  simp [Ctx.addCause, h]

theorem State.raise_stream {s : State} {c x : Nat} {st : StreamId} (h : s.cur = .stream c x st) (cause : Nat) (tval : W64) :
    s.raise cause tval = s.modCtx c x fun k => k.addCause
      { cause := cause, tval := tval, tpc := k.pcOf st, stream := some st,
        sepc := if st = .s then .atWord else .nextUnissued, at_ := s.gtc, mtc := (s.mdw c).mtc } true := by
  simp [State.raise, h]

theorem raisesAtWord_of_trapRes {s : State} {c x : Nat} {i : Instr} {cause : Nat} {tval : W64} (hcur : s.cur = .stream c x .s)
    (hfree : (s.ctx c x).trap = none) (h : exec i s = trapRes s cause tval) : RaisesAtWord s c x i cause tval := by
  rw [trapRes, State.raise_stream hcur] at h
  exact ⟨_, _, h, onlyCtx_modCtx .., by rw [State.modCtx_ctx, Ctx.addCause_of_none hfree],
    by rw [State.modCtx_ctx, Ctx.addCause_of_none hfree], rfl, rfl, rfl, rfl, rfl⟩

/-! ## The guard of a word that goes to queues or engines (R51, R328) -/

theorem sGuard_enc {s : State} {regs : List Nat} (hh : s.held regs = false) (cause : Nat) (tval : W64) (k : Res) :
    sGuard s regs (some (cause, tval)) k = trapRes s cause tval := by
  simp [sGuard, hh]

theorem sGuard_hasp {s : State} {c x : Nat} {st : StreamId} {regs : List Nat} (hcur : s.cur = .stream c x st) (hh : s.held regs = false)
    (hact : (s.ctx c x).hasp.state = .active) (k : Res) :
    sGuard s regs none k = trapRes s Cause.haspIllegal ((s.ctx c x).sc.pc.setWidth 64) := by
  simp [sGuard, hh, State.curM_stream hcur, State.curX_stream hcur, State.core_stream hcur, hact]

/-! ## The words, case by case -/

section
variable {s : State} {c x : Nat} {ic : BitVec 2}

theorem exec_jalr_misaligned {rd ra : BitVec 6} {imm : BitVec 12} (hcur : s.cur = .stream c x .s) (hh : ∀ rs, s.held rs = false)
    (h : ((s.ctx c x).sc.get ra.toNat + imm.signExtend 32).toNat % 4 ≠ 0) :
    exec (.jalr ic rd ra imm) s = trapRes s Cause.fetchAlign (((s.ctx c x).sc.get ra.toNat + imm.signExtend 32).setWidth 64) := by
  rw [← State.core_stream hcur] at h ⊢
  simp only [exec, execJalr, hh, if_pos h, Bool.false_eq_true, if_false]

theorem exec_csrr_unallocated {rd : BitVec 5} {imm : BitVec 12} (h : csrKind imm.toNat = none) :
    exec (.csrr ic rd imm) s = trapRes s Cause.resOperand (bitTval 11) := by
  simp only [exec, execCsrr, h]

theorem exec_csrw_unallocated {ra : BitVec 5} {imm : BitVec 12} (h : csrKind imm.toNat = none) :
    exec (.csrw ic ra imm) s = trapRes s Cause.resOperand (bitTval 11) := by
  simp only [exec, execCsrw, h]

theorem exec_csrw_supervisor {ra : BitVec 5} {imm : BitVec 12} (hcur : s.cur = .stream c x .s) (h : csrKind imm.toNat = some .supervisor)
    (hpl : (s.ctx c x).pl = 0) : exec (.csrw ic ra imm) s = trapRes s Cause.priv 0 := by
  simp [exec, execCsrw, h, State.curM_stream hcur, State.curX_stream hcur, hpl]

/-- At level U the check before ERET and HALT refuses (R374, R375). -/
theorem privU_of_user (hcur : s.cur = .stream c x .s) (hpl : (s.ctx c x).pl = 0) : privU s = some (Cause.priv, 0) := by
  simp [privU, State.curM_stream hcur, State.curX_stream hcur, hpl]

theorem exec_eret_user (hcur : s.cur = .stream c x .s) (hh : ∀ rs, s.held rs = false) (hpl : (s.ctx c x).pl = 0) :
    exec (.eret ic) s = trapRes s Cause.priv 0 := by
  simp only [exec, execEret, privU_of_user hcur hpl, sGuard_enc (hh _)]

theorem exec_halt_user {ra : BitVec 5} (hcur : s.cur = .stream c x .s) (hh : ∀ rs, s.held rs = false) (hpl : (s.ctx c x).pl = 0) :
    exec (.halt ic ra) s = trapRes s Cause.priv 0 := by
  simp only [exec, execHalt, privU_of_user hcur hpl, sGuard_enc (hh _)]

theorem exec_qpush_hasp {q : BitVec 2} {ra : BitVec 5} (hcur : s.cur = .stream c x .s) (hact : (s.ctx c x).hasp.state = .active) :
    exec (.qpush ic q ra) s = trapRes s Cause.haspIllegal ((s.ctx c x).sc.pc.setWidth 64) := by
  simp [exec, execQpush, State.curM_stream hcur, State.curX_stream hcur, hact]

/-- QPOP and QPEEK. -/
theorem qTake_hasp {rd : BitVec 5} {q : BitVec 2} (hcur : s.cur = .stream c x .s) (hact : (s.ctx c x).hasp.state = .active) (remove : Bool) :
    qTake remove ic rd q s = trapRes s Cause.haspIllegal ((s.ctx c x).sc.pc.setWidth 64) := by
  simp [qTake, State.curM_stream hcur, State.curX_stream hcur, hact]

theorem exec_exit_hasp (hcur : s.cur = .stream c x .s) (hact : (s.ctx c x).hasp.state = .active) :
    exec (.exit ic) s = trapRes s Cause.haspState 3 := by
  simp [exec, execExit, hcur, hact]

theorem exec_ldw_trap {rd : BitVec 6} {ra : BitVec 5} {imm : BitVec 12} {cause : Nat} {tval : W64} (hcur : s.cur = .stream c x .s)
    (hh : ∀ rs, s.held rs = false) (h : s.access (s.mdw c) .load [(((s.ctx c x).sc.getD ra.toNat).toNat, 4)] = .trap cause tval) :
    exec (.ldw ic rd ra imm) s = trapRes s cause tval := by
  rw [State.ctx] at h
  simp [exec, execLdw, sLoad, hcur, hh, h]

end

end Sys2Proof.Machine

namespace Sys2Proof

open Sys2Proof.Machine

/-- Settles O21: in each case the word's meaning is the raising of its cause, and a cause raised at a word of an S-stream whose context
holds none changes that context's trap record alone. -/
theorem scalarTraps : Obligations.ScalarTraps := by
  intro s c x ic rd ra pa pb imm hcur hfree hh k raises
  have at_word {i cause tval} (h : exec i s = trapRes s cause tval) : raises i cause tval := raisesAtWord_of_trapRes hcur hfree h
  refine ⟨fun h => ?jalr, fun h => ?unallocated, fun h hpl => ?csrw, fun hpl => ?user, fun hact q n sg wide ty sc i hi => ?hasp,
    fun hact => ?exit, fun cause tval h => ?load⟩
  case jalr => exact at_word (exec_jalr_misaligned hcur hh h)
  case unallocated => exact ⟨at_word (exec_csrr_unallocated h), at_word (exec_csrw_unallocated h)⟩
  case csrw => exact at_word (exec_csrw_supervisor hcur h hpl)
  case user => exact ⟨at_word (exec_eret_user hcur hh hpl), at_word (exec_halt_user hcur hh hpl)⟩
  case hasp =>
    fin_cases hi
    · exact at_word (exec_qpush_hasp hcur hact)
    · exact at_word (qTake_hasp hcur hact true)
    · exact at_word (qTake_hasp hcur hact false)
    -- the meaning of every other word of the list is the guard, with no check of its encoding before it
    all_goals exact at_word (sGuard_hasp hcur (hh _) hact _)
  case exit => exact at_word (exec_exit_hasp hcur hact)
  case load => exact at_word (exec_ldw_trap hcur hh h)

end Sys2Proof
end

section
/-! SUPPORT. What a context and a meadow cleared for placement hold (O53): registers, predicates and lookahead registers as they read. -/
namespace Sys2Proof.Machine

theorem SCore.get_empty (r : Nat) : ({} : SCore).get r = 0 := by
  rw [SCore.get]
  exact ite_self 0

theorem Ctx.pred_empty (p : Nat) : ({} : Ctx).pred p = if p = 0 then BitVec.allOnes 512 else 0 := rfl

theorem Meadow.lookReg_empty (p : Nat) : ({} : Meadow).lookReg p = 0 := by
  rw [Meadow.lookReg]
  exact ite_self 0

theorem State.lqOf_reset_en (q : Nat) : (State.reset.lqOf q).en = false := by
  rw [State.lqOf, LqReg.en]
  exact BitVec.getLsbD_zero

end Sys2Proof.Machine

namespace Sys2Proof

open Sys2Proof.Machine

/-- Settles O53: every table of the reset state, of a fresh context and of a fresh meadow is empty, so that a read gives the value of an
entry that is not listed. -/
theorem resetAndPlacement : Obligations.ResetAndPlacement :=
  ⟨⟨rfl, rfl, rfl, fun _ => rfl, fun _ => rfl, fun _ => rfl, State.lqOf_reset_en, rfl, rfl, rfl, rfl, rfl, rfl, rfl, fun _ => rfl, rfl, rfl, rfl⟩,
    SCore.get_empty, fun _ => rfl, Ctx.pred_empty, fun _ => ⟨rfl, rfl⟩, rfl, rfl, rfl, rfl, rfl, rfl, rfl, fun _ => rfl, fun _ => rfl,
    fun _ => rfl, fun _ => rfl, fun _ => rfl, rfl, rfl, rfl, rfl, rfl, rfl, Meadow.lookReg_empty⟩

end Sys2Proof
end

section
/-! SUPPORT. The M-words of one cycle (O31): what their shared frame leaves, and what each does to the meadow within it. -/
namespace Sys2Proof.Machine

/-! ## Fields of a word -/

theorem testBit_getField {n : Nat} (v : BitVec n) (lo len i : Nat) : (getField v lo len).testBit i = (decide (i < len) && v.getLsbD (lo + i)) := by
  rw [getField, Nat.testBit_mod_two_pow, Nat.testBit_div_two_pow, BitVec.getLsbD, Nat.add_comm]

/-- A field that has been replaced reads as its new value. -/
theorem getField_setField {n : Nat} (v : BitVec n) (lo len u : Nat) (h : lo + len ≤ n) : getField (setField v lo len u) lo len = u % 2 ^ len := by
  refine Nat.eq_of_testBit_eq fun i => ?_
  rw [testBit_getField, Nat.testBit_mod_two_pow]
  by_cases hi : i < len
  · have hlt : lo + i < n := by omega
    simp [-BitVec.getLsbD_eq_getElem, setField, hi, hlt, BitVec.getLsbD_ofNat, Nat.testBit_mul_two_pow, Nat.testBit_two_pow_sub_one]
  · simp [hi]

/-! ## Rows, poison bits and registers after writes -/

@[simp] theorem Meadow.freshWords_row (m : Meadow) (v : Nat) (mask : Pred) (u : Nat) : (m.freshWords v mask).row u = m.row u := by
  unfold Meadow.freshWords
  split <;> rfl

theorem Meadow.putRow_row (m : Meadow) (v : Nat) (r : Row) (mask : Pred) (u : Nat) :
    (m.putRow v r mask).row u = if u = v then r else m.row u := by
  rw [Meadow.putRow, Meadow.freshWords_row]
  split
  case isTrue h => rw [h]; exact tgetD_tputD_self ..
  case isFalse h => exact tgetD_tputD_ne _ _ _ _ h

@[simp] theorem Meadow.setPoison_row (m : Meadow) (v : Nat) (b : Bool) (u : Nat) : (m.setPoison v b).row u = m.row u := rfl

@[simp] theorem Meadow.putRow_poisoned (m : Meadow) (v : Nat) (r : Row) (mask : Pred) (u : Nat) :
    (m.putRow v r mask).poisoned u = m.poisoned u := by
  rw [Meadow.putRow, Meadow.freshWords]
  split <;> rfl

theorem Meadow.putRow_mtc (m : Meadow) (v : Nat) (r : Row) (mask : Pred) : (m.putRow v r mask).mtc = m.mtc := by
  rw [Meadow.putRow, Meadow.freshWords]
  split <;> rfl

theorem Meadow.putRow_ctxs (m : Meadow) (v : Nat) (r : Row) (mask : Pred) : (m.putRow v r mask).ctxs = m.ctxs := by
  rw [Meadow.putRow, Meadow.freshWords]
  split <;> rfl

theorem Meadow.setPoison_false_poisoned (m : Meadow) (v u : Nat) : (m.setPoison v false).poisoned u = if u = v then false else m.poisoned u := by
  by_cases h : u = v <;> simp [Meadow.setPoison, Meadow.poisoned, h]

theorem Ctx.setMreg_mreg (k : Ctx) (i : Nat) (v : W32) (j : Nat) : (k.setMreg i v).mreg j = if j = i then v else k.mreg j := by
  split
  case isTrue h => rw [h]; exact tgetD_tputD_self ..
  case isFalse h => exact tgetD_tputD_ne _ _ _ _ h

theorem mem_sortedInsert (l : List Nat) (a b : Nat) : b ∈ sortedInsert l a ↔ b = a ∨ b ∈ l := by
  induction l with
  | nil => simp [sortedInsert]
  | cons i t ih =>
    simp only [sortedInsert]
    split
    · simp
    · split
      case isTrue h => simp [h]
      case isFalse => simp only [List.mem_cons, ih]; tauto

@[simp] theorem Ctx.joinReach_mpc (k : Ctx) (st : StreamId) (r : Reach) : (k.joinReach st r).mpc = k.mpc := by cases st <;> rfl
@[simp] theorem Ctx.joinReach_sc (k : Ctx) (st : StreamId) (r : Reach) : (k.joinReach st r).sc = k.sc := by cases st <;> rfl

/-! ## The shared frame -/

/-- What the effect of an M-word of one cycle keeps of its meadow: MTC, the other contexts, and its own context's counter and core. -/
structure KeepsMStream (m j : Meadow) (x : Nat) : Prop where
  mtc : j.mtc = m.mtc
  ctxs : ∀ y, y ≠ x → j.ctx y = m.ctx y
  mpc : (j.ctx x).mpc = (m.ctx x).mpc
  sc : (j.ctx x).sc = (m.ctx x).sc

theorem KeepsMStream.refl (m : Meadow) (x : Nat) : KeepsMStream m m x := ⟨rfl, fun _ _ => rfl, rfl, rfl⟩

theorem KeepsMStream.trans {m j i : Meadow} {x : Nat} (h : KeepsMStream m j x) (g : KeepsMStream j i x) : KeepsMStream m i x :=
  ⟨g.mtc.trans h.mtc, fun y hy => (g.ctxs y hy).trans (h.ctxs y hy), g.mpc.trans h.mpc, g.sc.trans h.sc⟩

/-- A change outside MTC and the contexts. -/
theorem KeepsMStream.of_ctxs {m j : Meadow} (x : Nat) (hm : j.mtc = m.mtc) (hc : j.ctxs = m.ctxs) : KeepsMStream m j x := by
  have h (y : Nat) : j.ctx y = m.ctx y := by rw [Meadow.ctx, hc, Meadow.ctx]
  exact ⟨hm, fun y _ => h y, by rw [h], by rw [h]⟩

/-- A change of the word's own context. -/
theorem KeepsMStream.of_modCtx (m : Meadow) (x : Nat) (f : Ctx → Ctx) (hp : (f (m.ctx x)).mpc = (m.ctx x).mpc)
    (hs : (f (m.ctx x)).sc = (m.ctx x).sc) : KeepsMStream m (m.modCtx x f) x :=
  ⟨rfl, fun _ hy => Meadow.setCtx_ctx_ne _ _ hy, by rw [Meadow.modCtx_ctx, hp], by rw [Meadow.modCtx_ctx, hs]⟩

/-- The meadow on which an M-word acts: of a word that names a tile, with the tile bit's order handed over. -/
def Meadow.mEntered (m : Meadow) (x : Nat) (w : MWord) (tile : Bool) : Meadow :=
  if tile then m.modCtx x fun k => k.joinReach .m (tgetD m.tileRel w.tile.toNat {}) else m

theorem Meadow.mEntered_keeps (m : Meadow) (x : Nat) (w : MWord) (tile : Bool) : KeepsMStream m (m.mEntered x w tile) x := by
  cases tile
  · exact .refl m x
  · exact .of_modCtx m x (fun k => k.joinReach .m (tgetD m.tileRel w.tile.toNat {})) (Ctx.joinReach_mpc ..) (Ctx.joinReach_sc ..)

section
variable {s : State} {c x : Nat} {w : MWord} {tile : Bool} {busy : Meadow → Nat → Bool} {f : Meadow → Nat → State → Meadow}

/-- A granted word that nothing keeps has its effect and goes on. -/
theorem mTileWord_issues (hr : MReady s c x)
    (ht : tile = true → (s.ctx c x).tileGranted w.tile.toNat = true ∧ (s.mdw c).beatTile w.tile.toNat = false)
    (hb : busy (s.mdw c) x = false) :
    mTileWord w tile busy f s = .next (s.setMdw c ((f ((s.mdw c).mEntered x w tile) x s).mAdvance x w.ic)) := by
  have hg : (tile && !((s.mdw c).ctx x).tileGranted w.tile.toNat) = false := by
    cases tile
    · rfl
    · simpa [State.ctx] using (ht rfl).1
  have hbt : (tile && (s.mdw c).beatTile w.tile.toNat) = false := by
    cases tile
    · rfl
    · simpa using (ht rfl).2
  simp only [mTileWord, hr.cur, hg, hr.free, hbt, hb, Bool.or_self, Bool.false_eq_true, if_false, Meadow.mEntered]

theorem mIssued_setMdw {j : Meadow} (ic : BitVec 2) (h : KeepsMStream (s.mdw c) j x) : MIssued s (s.setMdw c (j.mAdvance x ic)) c x ic where
  only := ⟨fun _ hd => State.setMdw_mdw_ne _ _ hd, rfl, fun _ => rfl⟩
  ctxs := fun y hy => by
    rw [State.ctx, State.setMdw_mdw, Meadow.mAdvance, Meadow.modCtx, Meadow.setCtx_ctx_ne _ _ hy]
    exact h.ctxs y hy
  pc := by rw [State.ctx, State.setMdw_mdw, Meadow.mAdvance, Meadow.modCtx_ctx, h.mpc, State.ctx]
  next := by rw [State.ctx, State.setMdw_mdw, Meadow.mAdvance, Meadow.modCtx_ctx, h.mtc]
  scalar := by rw [State.ctx, State.setMdw_mdw, Meadow.mAdvance, Meadow.modCtx_ctx]; exact h.sc

/-- A word of the shared frame whose effect keeps the M-stream issues, and the meadow is then as the effect leaves it, but for its context's
counter. -/
theorem mTileWord_gives (hr : MReady s c x)
    (ht : tile = true → (s.ctx c x).tileGranted w.tile.toNat = true ∧ (s.mdw c).beatTile w.tile.toNat = false)
    (hb : busy (s.mdw c) x = false) (hf : ∀ m, KeepsMStream m (f m x s) x) :
    ∃ t, mTileWord w tile busy f s = .next t ∧ MIssued s t c x w.ic ∧
      t.mdw c = (f ((s.mdw c).mEntered x w tile) x s).mAdvance x w.ic :=
  ⟨_, mTileWord_issues hr ht hb, mIssued_setMdw _ (((s.mdw c).mEntered_keeps x w tile).trans (hf _)), State.setMdw_mdw ..⟩

end

@[simp] theorem Meadow.mAdvance_row (m : Meadow) (x : Nat) (ic : BitVec 2) (v : Nat) : (m.mAdvance x ic).row v = m.row v := rfl
@[simp] theorem Meadow.mAdvance_poisoned (m : Meadow) (x : Nat) (ic : BitVec 2) (v : Nat) : (m.mAdvance x ic).poisoned v = m.poisoned v := rfl
@[simp] theorem Meadow.mAdvance_mreg (m : Meadow) (x : Nat) (ic : BitVec 2) (j : Nat) : ((m.mAdvance x ic).ctx x).mreg j = (m.ctx x).mreg j := by
  rw [Meadow.mAdvance, Meadow.modCtx_ctx]
  rfl

@[simp] theorem Meadow.mEntered_row (m : Meadow) (x : Nat) (w : MWord) (tile : Bool) (v : Nat) : (m.mEntered x w tile).row v = m.row v := by
  cases tile <;> rfl
@[simp] theorem Meadow.mEntered_poisoned (m : Meadow) (x : Nat) (w : MWord) (tile : Bool) (v : Nat) :
    (m.mEntered x w tile).poisoned v = m.poisoned v := by cases tile <;> rfl
@[simp] theorem Meadow.mEntered_tileTy (m : Meadow) (x : Nat) (w : MWord) (tile : Bool) (k : Nat) :
    (m.mEntered x w tile).tileTy k = m.tileTy k := by cases tile <;> rfl
@[simp] theorem Meadow.mEntered_tileFull (m : Meadow) (x : Nat) (w : MWord) (tile : Bool) : (m.mEntered x w tile).tileFull = m.tileFull := by
  cases tile <;> rfl

/-! ## MZERO (R147) -/

/-- The rows of some offsets of a tile cleared, with their poison bits. -/
def Meadow.zeroRows (m : Meadow) (n : Nat) (l : List Nat) : Meadow :=
  l.foldl (fun m a => (m.putRow (128 * n + a) 0 (BitVec.allOnes 512)).setPoison (128 * n + a) false) m

theorem Meadow.zeroRows_keeps (m : Meadow) (n : Nat) (l : List Nat) (x : Nat) : KeepsMStream m (m.zeroRows n l) x := by
  induction l generalizing m with
  | nil => exact .refl m x
  | cons a l ih =>
    have h : KeepsMStream m ((m.putRow (128 * n + a) 0 (BitVec.allOnes 512)).setPoison (128 * n + a) false) x :=
      .of_ctxs x (Meadow.putRow_mtc ..) (Meadow.putRow_ctxs ..)
    exact h.trans (ih _)

theorem Meadow.zeroRows_row (m : Meadow) (n : Nat) (l : List Nat) (v : Nat) :
    (m.zeroRows n l).row v = if ∃ a ∈ l, v = 128 * n + a then 0 else m.row v := by
  induction l generalizing m with
  | nil => simp [Meadow.zeroRows]
  | cons a l ih =>
    refine (ih _).trans ?_
    rw [Meadow.setPoison_row, Meadow.putRow_row]
    by_cases h : v = 128 * n + a <;> simp only [List.mem_cons, exists_eq_or_imp, h, true_or, false_or, if_true, if_false, ite_self]

theorem Meadow.zeroRows_poisoned (m : Meadow) (n : Nat) (l : List Nat) (v : Nat) :
    (m.zeroRows n l).poisoned v = if ∃ a ∈ l, v = 128 * n + a then false else m.poisoned v := by
  induction l generalizing m with
  | nil => simp [Meadow.zeroRows]
  | cons a l ih =>
    refine (ih _).trans ?_
    rw [Meadow.setPoison_false_poisoned, Meadow.putRow_poisoned]
    by_cases h : v = 128 * n + a <;> simp only [List.mem_cons, exists_eq_or_imp, h, true_or, false_or, if_true, if_false, ite_self]

/-- The 128 rows of a tile. -/
theorem exists_row_of_tile (n v : Nat) : (∃ a ∈ List.range 128, v = 128 * n + a) ↔ v / 128 = n := by
  constructor
  · rintro ⟨a, ha, rfl⟩
    have := List.mem_range.1 ha
    omega
  · intro h
    exact ⟨v % 128, List.mem_range.2 (by omega), by omega⟩

/-! ## MTYPE, MLOOK -/

theorem tileTypeOf_code {n : Nat} (h : n < 5) : (tileTypeOf n).code = n := by
  interval_cases n <;> rfl

/-- A LOOK put alone into the changes to come is made after its cycle. -/
theorem Meadow.look_of_late (m : Meadow) (g n : Nat) (h1 : 1 ≤ n) (h8 : n ≤ 8) (hl : m.late = [{ at_ := g, rank := 6, op := .look n }]) :
    (m.applyLate (g + 1)).look = n := by
  have hlt : g < g + 1 := Nat.lt_succ_self g
  have hf : getField (setField m.mbpol 8 3 (n - 1)) 8 3 = n - 1 := by
    rw [getField_setField _ _ _ _ (by decide), Nat.mod_eq_of_lt (by omega)]
  simp only [Meadow.applyLate, hl, List.filter_cons, List.filter_nil, hlt, decide_true, if_true, portSplit, PortUse.take, LateOp.ports,
    List.foldl_cons, List.foldl_nil, Meadow.apply, Meadow.look, hf]
  omega

/-! ## Each word as the shared frame with its effect -/

/-- MQPOP's effect on its context: the head entry, its order handed over, goes to two m registers. -/
def Ctx.popToMregs (k : Ctx) (q g j : Nat) : Ctx :=
  match ((k.queue64 q).ready g).head? with
  | none => k
  | some e => (((k.joinReach .m e.rel).pop64 q g).setMreg j (e.val.setWidth 32)).setMreg (j + 1) (e.val.extractLsb' 32 32)

theorem Ctx.popToMregs_of_ready {k : Ctx} {q g : Nat} {e : QItem 64} {rest : List (QItem 64)} (h : (k.queue64 q).ready g = e :: rest) (j : Nat) :
    k.popToMregs q g j = (((k.joinReach .m e.rel).pop64 q g).setMreg j (e.val.setWidth 32)).setMreg (j + 1) (e.val.extractLsb' 32 32) := by
  rw [Ctx.popToMregs, h]
  rfl

theorem Ctx.popToMregs_mpc (k : Ctx) (q g j : Nat) : (k.popToMregs q g j).mpc = k.mpc := by
  rw [Ctx.popToMregs]
  split
  · rfl
  · exact Ctx.joinReach_mpc ..

theorem Ctx.popToMregs_sc (k : Ctx) (q g j : Nat) : (k.popToMregs q g j).sc = k.sc := by
  rw [Ctx.popToMregs]
  split
  · rfl
  · exact Ctx.joinReach_sc ..

@[simp] theorem Ctx.joinReach_mreg (k : Ctx) (st : StreamId) (r : Reach) (j : Nat) : (k.joinReach st r).mreg j = k.mreg j := by cases st <;> rfl
@[simp] theorem Ctx.pop64_mreg (k : Ctx) (q g j : Nat) : (k.pop64 q g).mreg j = k.mreg j := rfl

section
variable (w : MWord) (s : State)

theorem exec_mNop : exec (.mNop w) s = mTileWord w false (fun _ _ => false) (fun m _ _ => m) s := rfl
theorem exec_mzero : exec (.mzero w) s = mTileWord w true (fun m x => m.tileBusy x s.gtc w.tile.toNat)
    (fun m _ _ => m.zeroRows w.tile.toNat (List.range 128)) s := rfl
theorem exec_mtype : exec (.mtype w) s = mTileWord w true (fun m x => m.tileBusy x s.gtc w.tile.toNat)
    (fun m _ _ => { m with tileType := tput m.tileType w.tile.toNat (tileTypeOf (getField w.imm64 0 3)) }) s := rfl
theorem exec_mset : exec (.mset w) s = mTileWord w false (fun _ _ => false)
    (fun m x _ => m.modCtx x fun k => k.setMreg w.mx.toNat (w.imm64.setWidth 32)) s := rfl
theorem exec_mqpop : exec (.mqpop w) s = mTileWord w false (fun m x => (((m.ctx x).queue64 (getField w.my 0 2)).ready s.gtc).isEmpty)
    (fun m x s => m.modCtx x fun k => k.popToMregs (getField w.my 0 2) s.gtc w.mx.toNat) s := rfl
theorem exec_mfull : exec (.mfull w) s = mTileWord w true (fun m x => m.tileBusy x s.gtc w.tile.toNat)
    (fun m x s => m.setTile w.tile.toNat true ((m.ctx x).reachOf .m s.seq)) s := rfl
theorem exec_mempty : exec (.mempty w) s = mTileWord w true (fun m _ => m.tileIsFull w.tile.toNat) (fun m _ _ => m) s := rfl
theorem exec_mwait : exec (.mwait w) s = mTileWord w false (fun m x => m.mPending x s.gtc (w.imm64.extractLsb' 0 8)) (fun m _ _ => m) s := rfl
theorem exec_mexit : exec (.mexit w) s = mTileWord w false (fun m x => m.mPending x s.gtc 0)
    (fun m x _ => m.modCtx x fun k => { k with mRun := false }) s := rfl
theorem exec_mbend : exec (.mbend w) s = mTileWord w false (fun _ _ => false)
    (fun m _ _ => { m with beat := m.beat.map fun b => { b with ended := true } }) s := rfl
theorem exec_mlook (h1 : 1 ≤ getField w.imm64 0 4) (h8 : getField w.imm64 0 4 ≤ 8) : exec (.mlook w) s =
    mTileWord w false (fun _ _ => false) (fun m _ _ => m.addLate s.gtc 6 (.look (getField w.imm64 0 4))) s :=
  if_neg (by omega)

end

theorem getField_zero {n : Nat} (v : BitVec n) (len : Nat) : getField v 0 len = v.toNat % 2 ^ len := by simp [getField]

end Sys2Proof.Machine

namespace Sys2Proof

open Sys2Proof.Machine

/-- Settles O31: each word is the shared frame with an effect of its own, which keeps the M-stream's counter and core. -/
theorem matrixSingleWords : Obligations.MatrixSingleWords := by
  intro s c x w hr m k n idle rowsStay
  have gives {i busy f} (tile : Bool) (hi : exec i s = mTileWord w tile busy f s)
      (ht : tile = true → k.tileGranted n = true ∧ m.beatTile n = false) (hb : busy m x = false) (hf : ∀ m, KeepsMStream m (f m x s) x) :
      ∃ t, exec i s = .next t ∧ MIssued s t c x w.ic ∧ t.mdw c = (f (m.mEntered x w tile) x s).mAdvance x w.ic :=
    hi ▸ mTileWord_gives hr ht hb hf
  refine ⟨?nop, ?zero, ?type, ?set, ?qpop, ?full, ?empty, ?wait, ?exit, ?bend, ?look⟩
  case nop =>
    obtain ⟨t, ht, hiss, hm⟩ := gives false (exec_mNop w s) nofun rfl fun m => .refl m x
    exact ⟨t, ht, hiss, fun v => by simp [hm, m]⟩
  case zero =>
    rintro ⟨hg, hbt, hbusy⟩
    obtain ⟨t, ht, hiss, hm⟩ := gives true (exec_mzero w s) (fun _ => ⟨hg, hbt⟩) hbusy fun m => m.zeroRows_keeps n (List.range 128) x
    refine ⟨t, ht, hiss, fun v => ?_, fun v => ?_⟩
    · simp only [hm, Meadow.mAdvance_row, Meadow.zeroRows_row, exists_row_of_tile, Meadow.mEntered_row, n]
    · simp only [hm, Meadow.mAdvance_poisoned, Meadow.zeroRows_poisoned, exists_row_of_tile, Meadow.mEntered_poisoned, n]
  case type =>
    rintro ⟨hg, hbt, hbusy⟩
    obtain ⟨t, ht, hiss, hm⟩ := gives true (exec_mtype w s) (fun _ => ⟨hg, hbt⟩) hbusy fun m => .of_ctxs x rfl rfl
    refine ⟨t, ht, hiss, fun v => ?_, fun j hj => ?_, fun h5 => ?_⟩
    · rw [hm]; exact Meadow.mEntered_row ..
    · rw [hm]; exact (tgetD_tput_ne _ _ _ hj).trans (Meadow.mEntered_tileTy ..)
    · have hc : getField w.imm64 0 3 = (w.imm64 % 8).toNat := by rw [getField_zero]; rfl
      have hty : (t.mdw c).tileTy n = tileTypeOf (w.imm64 % 8).toNat := by rw [hm, ← hc]; exact tgetD_tput_self ..
      rw [hty, tileTypeOf_code h5]
  case set =>
    obtain ⟨t, ht, hiss, hm⟩ := gives false (exec_mset w s) nofun rfl fun m => .of_modCtx m x _ rfl rfl
    refine ⟨t, ht, hiss, fun v => by rw [hm]; rfl, fun j => ?_⟩
    rw [State.ctx, hm, Meadow.mAdvance_mreg, Meadow.modCtx_ctx, Ctx.setMreg_mreg]
    rfl
  case qpop =>
    intro e rest hq
    have hf : getField w.my 0 2 = w.my.toNat % 4 := getField_zero ..
    obtain ⟨t, ht, hiss, hm⟩ := gives false (exec_mqpop w s) nofun (by rw [hf]; exact congrArg List.isEmpty hq)
      fun m => .of_modCtx m x _ (Ctx.popToMregs_mpc ..) (Ctx.popToMregs_sc ..)
    refine ⟨t, ht, hiss, fun v => by rw [hm]; rfl, fun j => ?_⟩
    rw [State.ctx, hm, Meadow.mAdvance_mreg, Meadow.modCtx_ctx, hf]
    change ((k.popToMregs _ _ _).mreg j) = _
    rw [Ctx.popToMregs_of_ready hq]
    simp only [Ctx.setMreg_mreg, Ctx.pop64_mreg, Ctx.joinReach_mreg]
  case full =>
    rintro ⟨hg, hbt, hbusy⟩
    obtain ⟨t, ht, hiss, hm⟩ := gives true (exec_mfull w s) (fun _ => ⟨hg, hbt⟩) hbusy fun m => .of_ctxs x rfl rfl
    refine ⟨t, ht, hiss, fun v => by rw [hm]; exact Meadow.mEntered_row .., ?_⟩
    rw [hm]
    exact (mem_sortedInsert ..).2 (.inl rfl)
  case empty =>
    intro hg hbt hfull
    obtain ⟨t, ht, hiss, hm⟩ := gives true (exec_mempty w s) (fun _ => ⟨hg, hbt⟩) hfull fun m => .refl m x
    exact ⟨t, ht, hiss, fun v => by rw [hm]; exact Meadow.mEntered_row .., by rw [hm]; exact Meadow.mEntered_tileFull ..⟩
  case wait =>
    intro hp
    obtain ⟨t, ht, hiss, hm⟩ := gives false (exec_mwait w s) nofun hp fun m => .refl m x
    exact ⟨t, ht, hiss, fun v => by rw [hm]; rfl⟩
  case exit =>
    intro hp
    obtain ⟨t, ht, hiss, hm⟩ := gives false (exec_mexit w s) nofun hp fun m => .of_modCtx m x _ rfl rfl
    refine ⟨t, ht, hiss, fun v => by rw [hm]; rfl, ?_⟩
    rw [State.ctx, hm, Meadow.mAdvance, Meadow.modCtx_ctx, Meadow.modCtx_ctx]
  case bend =>
    obtain ⟨t, ht, hiss, hm⟩ := gives false (exec_mbend w s) nofun rfl fun m => .of_ctxs x rfl rfl
    exact ⟨t, ht, hiss, fun v => by rw [hm]; rfl, by rw [hm]; rfl⟩
  case look =>
    intro hl h1 h8
    have hn : getField w.imm64 0 4 = (w.imm64 % 16).toNat := by rw [getField_zero]; rfl
    obtain ⟨t, ht, hiss, hm⟩ := gives false (exec_mlook w s (hn ▸ h1) (hn ▸ h8)) nofun rfl fun m => .of_ctxs x rfl rfl
    refine ⟨t, ht, hiss, fun v => by rw [hm]; rfl, by rw [hm]; rfl, ?_⟩
    refine Meadow.look_of_late _ _ _ h1 h8 ?_
    rw [hm, ← hn]
    change lateInsert m.late _ = _
    rw [hl]
    rfl

end Sys2Proof
end

section
/-! SUPPORT. V-words and M-words that touch a tile or an operand register that is not granted (O22): the row that is reported, and what the
cause leaves. -/
namespace Sys2Proof.Machine

/-! ## A cause raised at the word of a stream (R51, R373) -/

theorem State.raise_onlyCtx {s : State} {c x : Nat} {st : StreamId} (hcur : s.cur = .stream c x st) (cause : Nat) (tval : W64) :
    OnlyCtx s (s.raise cause tval) c x := by
  rw [State.raise_stream hcur]
  exact onlyCtx_modCtx ..

theorem State.raise_ctx {s : State} {c x : Nat} {st : StreamId} (hcur : s.cur = .stream c x st) (hfree : (s.ctx c x).trap = none)
    (cause : Nat) (tval : W64) :
    (s.raise cause tval).ctx c x = { s.ctx c x with
      trap := some { cause := cause, tval := tval, tpc := (s.ctx c x).pcOf st, stream := some st,
                     sepc := if st = .s then .atWord else .nextUnissued, at_ := s.gtc, mtc := (s.mdw c).mtc } } := by
  rw [State.raise_stream hcur, State.modCtx_ctx, Ctx.addCause_of_none hfree]

/-! ## V-words share one meaning -/

/-- The meaning of every V-word is the one that V-words share. -/
theorem exec_eq_vGo {i : Instr} {p : BitVec 8 × VWord} (h : vParts i = some p) (s : State) : exec i s = vGo i s := by
  unfold vParts at h
  split at h
  case h_60 => cases h
  all_goals rfl

/-! ## The row that is reported (R34, R371) -/

/-- The least of some numbers that fail a test, started from an earlier finding. -/
theorem foldl_least (ok : Nat → Bool) (l : List Nat) (a : Option Nat) {v : Nat} (hl : ∀ u ∈ l, ok u = false → v ≤ u)
    (ha : ∀ u, a = some u → v ≤ u) (hv : a = some v ∨ v ∈ l ∧ ok v = false) :
    l.foldl (fun a u => if ok u then a else some (match a with | some w => min w u | none => u)) a = some v := by
  induction l generalizing a with
  | nil => simpa using hv
  | cons u l ih =>
    have hl' : ∀ w ∈ l, ok w = false → v ≤ w := fun w hw => hl w (List.mem_cons_of_mem _ hw)
    cases hu : ok u with
    | true =>
      simp only [List.foldl_cons, hu, if_true]
      refine ih a hl' ha (hv.imp_right ?_)
      rintro ⟨hm, hok⟩
      refine ⟨(List.mem_cons.1 hm).resolve_left ?_, hok⟩
      rintro rfl
      simp [hu] at hok
    | false =>
      have hle : v ≤ u := hl u List.mem_cons_self hu
      simp only [List.foldl_cons, hu, Bool.false_eq_true, if_false]
      cases a with
      | none =>
        refine ih _ hl' (fun w hw => Option.some.inj hw ▸ hle) ?_
        obtain ⟨hm, hok⟩ := hv.resolve_left nofun
        exact (List.mem_cons.1 hm).imp (congrArg some ·.symm) (⟨·, hok⟩)
      | some w =>
        have hw : v ≤ w := ha w rfl
        refine ih _ hl' (fun z hz => Option.some.inj hz ▸ Nat.le_min.2 ⟨hw, hle⟩) ?_
        rcases hv with hv | ⟨hm, hok⟩
        · exact .inl (congrArg some (by rw [Option.some.inj hv]; exact Nat.min_eq_left hle))
        · exact (List.mem_cons.1 hm).imp (fun h => congrArg some (by rw [← h]; exact Nat.min_eq_right hw)) (⟨·, hok⟩)

/-- The lowest row in a tile that is not granted is the one found. -/
theorem vUngranted_of_least {k : Ctx} {op : Nat} {w : VWord} {v : Nat} (hv : v ∈ vTouched op w) (hg : k.tileGranted (v / 128) = false)
    (hmin : ∀ u ∈ vTouched op w, k.tileGranted (u / 128) = false → v ≤ u) : vUngranted k op w = some v :=
  foldl_least (fun u => k.tileGranted (u / 128)) _ none hmin (fun _ h => nomatch h) (.inr ⟨hv, hg⟩)

theorem vGo_ungranted {i : Instr} {s : State} {c x v : Nat} {op : BitVec 8} {w : VWord} (hcur : s.cur = .stream c x .v)
    (hi : vParts i = some (op, w)) (hu : vUngranted (s.ctx c x) op.toNat w = some v)
    (hdraw : op = 0x80#8 → vIndexBad (s.mdw c) (s.ctx c x) w = false) :
    vGo i s = trapRes s Cause.tileNotGranted (BitVec.ofNat 64 v) := by
  have hno : ¬ (op.toNat = 0x80 ∧ vIndexBad (s.mdw c) (s.ctx c x) w = true) := by
    rintro ⟨hop, hbad⟩
    have := hdraw (BitVec.eq_of_toNat_eq hop)
    simp [this] at hbad
  simp only [vGo, hcur, hi, hu, if_neg hno]

/-! ## M-words (R10, R371) -/

section
variable {s : State} {c x : Nat} {w : MWord}

theorem mTileWord_ungranted {busy : Meadow → Nat → Bool} {f : Meadow → Nat → State → Meadow} (hcur : s.cur = .stream c x .m)
    (hg : (s.ctx c x).tileGranted w.tile.toNat = false) :
    mTileWord w true busy f s = trapRes s Cause.tileNotGranted (BitVec.ofNat 64 (128 * w.tile.toNat)) := by
  rw [State.ctx] at hg
  simp [mTileWord, hcur, hg]

theorem exec_mldbAcc_ungranted (hcur : s.cur = .stream c x .m) (hg : (s.ctx c x).tileGranted w.tile.toNat = false)
    (hp : ldbPast (s.mdw c) w = false) : exec (.mldbAcc w) s = trapRes s Cause.tileNotGranted (BitVec.ofNat 64 (128 * w.tile.toNat)) := by
  rw [State.ctx] at hg
  simp [exec, execMldbAcc, hcur, mUngranted, hg, hp]

theorem exec_msta_ungranted (hcur : s.cur = .stream c x .m) (hg : (s.ctx c x).tileGranted w.tile.toNat = false)
    (hd : (s.mdw c).drawHolds x s.gtc = false)
    (hb : (s.mdw c).staDescBad w (((mWordRegs (s.ctx c x) w)[0]?).getD 0) (((mWordRegs (s.ctx c x) w)[1]?).getD 0) = false) :
    exec (.msta w) s = trapRes s Cause.tileNotGranted (BitVec.ofNat 64 (128 * w.tile.toNat)) := by
  rw [State.ctx] at hg hb
  simp only [exec, execMsta, hcur, hg, hd, hb, Bool.not_false, Bool.false_eq_true, if_true, if_false]

theorem exec_mdraw_ungranted (hcur : s.cur = .stream c x .m) (hg : (s.ctx c x).tileGranted w.tile.toNat = false)
    (hd : (s.mdw c).drawHolds x s.gtc = false)
    (hb : listBad ((s.ctx c x).mreg w.mx.toNat) ((s.ctx c x).mreg (w.mx.toNat + 1)) = false) :
    exec (.mdraw w) s = trapRes s Cause.tileNotGranted (BitVec.ofNat 64 (128 * w.tile.toNat)) := by
  rw [State.ctx] at hg hb
  change execMdraw w s = _
  unfold execMdraw
  rw [hcur]
  exact (if_neg (by simp [hd])).trans ((if_neg (by simp [hb])).trans (if_pos (by simp [hg])))

theorem exec_mldbSpad_ungranted {n : BitVec 2} (hcur : s.cur = .stream c x .m) (hd : (s.mdw c).drawHolds x s.gtc = false)
    (hb : descBad (((mWordRegs (s.ctx c x) w)[0]?).getD 0) (((mWordRegs (s.ctx c x) w)[1]?).getD 0) = false) (hn : w.srcB = .breg n)
    (hg : (s.ctx c x).bregGranted n.toNat = false) :
    exec (.mldbSpad w) s = trapRes s Cause.tileNotGranted (BitVec.ofNat 64 (0x400 + n.toNat)) := by
  rw [State.ctx] at hg hb
  have hreg : Machine.MWord.breg w = n.toNat := by rw [Machine.MWord.breg, hn]
  simp only [exec, execMldbSpad, hcur, hreg, hg, hd, hb, Bool.not_false, Bool.false_eq_true, if_true, if_false]

end

end Sys2Proof.Machine

namespace Sys2Proof

open Sys2Proof.Machine

/-- Settles O22: each word's meaning comes to TILE_NOT_GRANTED, and a cause raised at a V-word or M-word whose context holds none changes
that context's trap record alone. -/
theorem ungrantedTiles : Obligations.UngrantedTiles := by
  intro s c x hfree k raises
  have at_word {i st tval} (hcur : s.cur = .stream c x st) (hst : st ≠ .s)
      (h : exec i s = trapRes s Cause.tileNotGranted (BitVec.ofNat 64 tval)) : raises i st (k.pcOf st) tval := by
    have hk := State.raise_ctx hcur hfree Cause.tileNotGranted (BitVec.ofNat 64 tval)
    exact ⟨_, _, h, State.raise_onlyCtx hcur .., by rw [hk], by rw [hk], by rw [hk], by rw [hk], rfl, rfl, rfl, rfl, if_neg hst⟩
  refine ⟨fun op w i _ hcur hi v hv hg hmin hdraw => ?vector, fun w hcur hg => ⟨fun i hi => ?tile, fun hp => ?acc, fun hd =>
    ⟨fun hb => ?sta, fun hb => ?draw⟩⟩, fun w n hcur hd hb hn hg => ?spad⟩
  case vector =>
    exact at_word hcur (by decide) ((exec_eq_vGo hi s).trans (vGo_ungranted hcur hi (vUngranted_of_least hv hg hmin) hdraw))
  case tile =>
    have hw : exec i s = trapRes s Cause.tileNotGranted (BitVec.ofNat 64 (128 * w.tile.toNat)) := by
      fin_cases hi
      · exact (exec_mzero w s).trans (mTileWord_ungranted hcur hg)
      · exact (exec_mtype w s).trans (mTileWord_ungranted hcur hg)
      · exact (exec_mfull w s).trans (mTileWord_ungranted hcur hg)
      · exact (exec_mempty w s).trans (mTileWord_ungranted hcur hg)
    exact at_word hcur (by decide) hw
  case acc => exact at_word hcur (by decide) (exec_mldbAcc_ungranted hcur hg hp)
  case sta => exact at_word hcur (by decide) (exec_msta_ungranted hcur hg hd hb)
  case draw => exact at_word hcur (by decide) (exec_mdraw_ungranted hcur hg hd hb)
  case spad => exact at_word hcur (by decide) (exec_mldbSpad_ungranted hcur hd hb hn hg)

end Sys2Proof
end

section
/-! SUPPORT. A row that lands for a queue while results are being written (O38): part 4 of a cycle only reports it, and its entry stays. -/
namespace Sys2Proof.Machine

/-- In part 4 of a cycle LOAD_LANDING takes no entry of a queue's row from the landing buffer: at most its report is made. -/
theorem loadLanding_queue_keeps_entries {s t : State} {c x q : Nat} {e : LandEntry} (hphase : s.phase = 4)
    (hfind : (s.ctx c x).landing.find? (fun g => g.id == e.id) = some e) (hq : e.dest = .queue q) (harr : e.arrived = true)
    (hfrozen : (s.mdw c).frozen = false) (hlam : e.lam ≤ (s.mdw c).mtc) (ht : exec (.loadLanding c x e.id) s = .next t) :
    (t.ctx c x).landing.map (·.id) = (s.ctx c x).landing.map (·.id) := by
  have hwait : (!e.arrived || (s.mdw c).frozen || decide ((s.mdw c).mtc < e.lam)) = false := by simp [harr, hfrozen, hlam]
  change execLoadLanding c x e.id s = .next t at ht
  rw [State.ctx] at hfind
  simp only [execLoadLanding, hfind, hwait, hq, hphase, Bool.false_eq_true, if_false, if_true] at ht
  cases ht
  split
  · rw [← State.modCtx, State.modCtx_ctx, List.map_map]
    refine List.map_congr_left fun l _ => ?_
    simp only [Function.comp_apply]
    split <;> rfl
  · rfl

/-- A row for q4 whose landing cycle has come. -/
def arrivedRow : LandEntry :=
  { id := 9, stream := .v, pc := 0, lam := 0, arriveAt := 0, dest := .queue 4, bytes := 512, parts := [], arrived := true }

/-- A meadow whose context 2 has that row alone in its landing buffer, in part 4 of a cycle. -/
def rowInResults : State := { phase := 4, meadows := [(1, { ctxs := [(2, { landing := [arrivedRow] })] })] }

end Sys2Proof.Machine

namespace Sys2Proof

open Sys2Proof.Machine

/-- Refutes O38: the clause on a queue destination says that the entry leaves the landing buffer in every state, and in part 4 of a cycle
LOAD_LANDING only reports the row's residency and leaves its entry, though the row is due and its queue has room. -/
theorem not_loadEvents : ¬ Obligations.LoadEvents := by
  rintro ⟨-, -, -, -, h⟩
  obtain ⟨-, -, -, hqueue, -⟩ := h rowInResults 1 2 arrivedRow rfl
  obtain ⟨t, ht, -, -, hgone, -⟩ := hqueue 4 rfl (by decide) ⟨rfl, rfl, Nat.le_refl 0, rfl⟩
  have hkept := loadLanding_queue_keeps_entries rfl rfl rfl rfl rfl (Nat.le_refl 0) ht
  rw [hgone] at hkept
  exact absurd hkept (by decide)

end Sys2Proof
end

section
/-! SUPPORT. Tasks and turns (O45): what a task start gives its context, what a task end returns, and what the rings' heads and tails leave. -/
namespace Sys2Proof.Machine

/-! ## Writes to memory leave the meadows -/

theorem arrayWrite_meadows (s : State) (va pa key : Nat) (d : Line) (mask : BitVec 64) :
    (s.arrayWrite va pa key d mask).meadows = s.meadows := by
  unfold State.arrayWrite
  split <;> rfl

theorem writeRun_meadows (key fuel : Nat) (s : State) (va pa len v mask : Nat) :
    (s.writeRun key fuel va pa len v mask).meadows = s.meadows := by
  induction fuel generalizing s va pa len v mask with
  | zero => rfl
  | succ fuel ih =>
    unfold State.writeRun
    split
    · rfl
    · refine (ih ..).trans ?_
      split
      · rfl
      · exact arrayWrite_meadows ..

theorem writeParts_meadows (s : State) (ps : List Part) (v mask : Nat) : (s.writeParts ps v mask).meadows = s.meadows := by
  unfold State.writeParts
  induction ps generalizing s with
  | nil => rfl
  | cons p ps ih => exact (ih _).trans (writeRun_meadows ..)

/-! ## HEAD and TAIL of a stage queue (R284, R291) -/

/-- What a move of a ring leaves of meadow c: every context, and the number of tasks that run in each stage. -/
structure OnlyRings (s t : State) (c : Nat) : Prop where
  ctxs : ∀ x, t.ctx c x = s.ctx c x
  running : ∀ i, ((t.mdw c).stageRt i).running = ((s.mdw c).stageRt i).running

theorem OnlyRings.refl (s : State) (c : Nat) : OnlyRings s s c := ⟨fun _ => rfl, fun _ => rfl⟩
theorem OnlyRings.trans {s t u : State} {c : Nat} (h : OnlyRings s t c) (g : OnlyRings t u c) : OnlyRings s u c :=
  ⟨fun x => (g.ctxs x).trans (h.ctxs x), fun i => (g.running i).trans (h.running i)⟩

theorem OnlyRings.of_meadows {s t : State} (c : Nat) (h : t.meadows = s.meadows) : OnlyRings s t c := by
  have hm : t.mdw c = s.mdw c := by rw [State.mdw, h, State.mdw]
  exact ⟨fun _ => by rw [State.ctx, hm, State.ctx], fun _ => by rw [hm]⟩

theorem ringPut_onlyRings (s : State) (c : Nat) (sp : Bool) (addr off v : Nat) : OnlyRings s (s.ringPut c sp addr off v) c := by
  unfold State.ringPut
  dsimp only
  split
  · exact ⟨fun _ => by rw [State.ctx, State.setMdw_mdw]; rfl, fun _ => by rw [State.setMdw_mdw]; rfl⟩
  · split
    · exact .of_meadows c (writeParts_meadows ..)
    · exact .refl s c

/-- A stage's record replaced. -/
def Meadow.setStage (m : Meadow) (i : Nat) (r : StageRt) : Meadow := { m with stages := tput m.stages i r }

theorem setStage_onlyRings (s : State) (c i : Nat) (r : StageRt) (h : r.running = ((s.mdw c).stageRt i).running) :
    OnlyRings s (s.setMdw c ((s.mdw c).setStage i r)) c where
  ctxs := fun _ => by rw [State.ctx, State.setMdw_mdw]; rfl
  running := fun j => by
    rw [State.setMdw_mdw, Meadow.stageRt, Meadow.setStage]
    by_cases hj : j = i
    · rw [hj, tgetD_tput_self, h]
    · rw [tgetD_tput_ne _ _ _ hj, Meadow.stageRt]

theorem freeItem_onlyRings (s : State) (c i : Nat) (g : Stage) (item : Nat) : OnlyRings s (s.freeItem c i g item) c := by
  unfold State.freeItem
  dsimp only
  split
  · exact .trans (setStage_onlyRings s c i _ (by rfl)) (ringPut_onlyRings ..)
  · exact setStage_onlyRings s c i _ (by rfl)

theorem commitSlot_onlyRings (s : State) (c i : Nat) (g : Stage) (slot : Nat) : OnlyRings s (s.commitSlot c i g slot) c := by
  unfold State.commitSlot
  dsimp only
  split
  · exact .trans (setStage_onlyRings s c i _ (by rfl)) (ringPut_onlyRings ..)
  · exact setStage_onlyRings s c i _ (by rfl)

/-! ## Grants in ISTAT (R17) -/

/-- A bit of a field whose value is known. -/
theorem getLsbD_of_getField {n lo len u : Nat} {v : BitVec n} (h : getField v lo len = u) {i : Nat} (hi : i < len) :
    v.getLsbD (lo + i) = u.testBit i := by
  rw [← h, testBit_getField]
  simp [hi]

/-- What the end of a task leaves of its context: no task, and no grant. -/
def Ctx.returnGrants (k : Ctx) : Ctx := { k with task := none, istat := setField k.istat 8 12 0, readyRun := [], promoted := [] }

theorem getField_returnGrants (k : Ctx) : getField k.returnGrants.istat 8 12 = 0 := getField_setField _ _ _ _ (by decide)

theorem Ctx.returnGrants_tileGranted (k : Ctx) {b : Nat} (hb : b < 8) : k.returnGrants.tileGranted b = false := by
  rw [Ctx.tileGranted, show 12 + b = 8 + (4 + b) by omega, getLsbD_of_getField (getField_returnGrants k) (by omega), Nat.zero_testBit]

theorem Ctx.returnGrants_bregGranted (k : Ctx) {b : Nat} (hb : b < 4) : k.returnGrants.bregGranted b = false := by
  rw [Ctx.bregGranted, getLsbD_of_getField (getField_returnGrants k) (by omega), Nat.zero_testBit]

section
variable (r : Region) (i : Nat) (g : Stage) (item : Nat)

theorem istatWord_pl : getField (istatWord r i g item) 20 2 = 0 := by
  have := g.tiles.isLt
  have := g.bregs.isLt
  simp only [getField, istatWord, BitVec.toNat_ofNat]
  split <;> split <;> omega

theorem istatWord_tiles : getField (istatWord r i g item) 12 8 = g.tiles.toNat := by
  have := g.tiles.isLt
  have := g.bregs.isLt
  simp only [getField, istatWord, BitVec.toNat_ofNat]
  split <;> split <;> omega

theorem istatWord_bregs : getField (istatWord r i g item) 8 4 = g.bregs.toNat := by
  have := g.tiles.isLt
  have := g.bregs.isLt
  simp only [getField, istatWord, BitVec.toNat_ofNat]
  split <;> split <;> omega

end

/-! ## TASK_START (R291, R299) -/

theorem append_halves (v : W64) : (v.extractLsb' 32 32 ++ v.extractLsb' 0 32 : BitVec 64) = v := by
  rw [BitVec.extractLsb'_append_extractLsb'_eq_extractLsb' (by decide)]
  exact BitVec.extractLsb'_eq_self

/-- The registers that a task start sets. -/
def SCore.given (k : SCore) (rank : Nat) (v : TaskGift) : SCore :=
  (((k.setD 1 (BitVec.ofNat 64 v.src)).setD 2 (BitVec.ofNat 64 v.dst)).set 6 (BitVec.ofNat 32 v.item)).set 7 (BitVec.ofNat 32 rank)

section
variable (k : SCore) (rank : Nat) (v : TaskGift)

theorem SCore.given_src : (k.given rank v).getD 1 = BitVec.ofNat 64 v.src := by
  simp [SCore.given, SCore.getD, SCore.setD, SCore.get_set_ne, SCore.get_set_self, append_halves]

theorem SCore.given_dst : (k.given rank v).getD 2 = BitVec.ofNat 64 v.dst := by
  simp [SCore.given, SCore.getD, SCore.setD, SCore.get_set_ne, SCore.get_set_self, append_halves]

theorem SCore.given_item : (k.given rank v).get 6 = BitVec.ofNat 32 v.item := by
  simp [SCore.given, SCore.get_set_ne, SCore.get_set_self]

theorem SCore.given_rank : (k.given rank v).get 7 = BitVec.ofNat 32 rank := by
  simp [SCore.given, SCore.get_set_self]

end

/-- Setting some tiles' bits leaves the contexts, the rows and the stages. -/
theorem setTiles_keeps (full : Nat → Bool) (l : List Nat) (m : Meadow) :
    (l.foldl (fun m k => m.setTile k (full k) {}) m).ctxs = m.ctxs ∧ (l.foldl (fun m k => m.setTile k (full k) {}) m).rows = m.rows ∧
      (l.foldl (fun m k => m.setTile k (full k) {}) m).stages = m.stages := by
  induction l generalizing m with
  | nil => exact ⟨rfl, rfl, rfl⟩
  | cons a l ih => exact ih (m.setTile a (full a) {})

section
variable {s : State} {c x i : Nat} {r : Region} {g : Stage}

/-- An eligible stage's task starts: its stage counts it, and its context begins with what it is given. -/
theorem taskStart_of_eligible (hfree : s.ctxFree c x = some r) (hg : r.stages[i]? = some g) (hel : s.eligible c x r i g ≠ none) :
    ∃ (m : Meadow) (u : Task), exec (.taskStart c x i) s = .next (s.setMdw c (m.modCtx x fun k =>
        k.begin_ r i g (s.mdw c).rank (s.gift c i g) u (s.mdw c).mtc s.gtc)) ∧
      m.ctxs = (s.mdw c).ctxs ∧ m.rows = (s.mdw c).rows ∧ (m.stageRt i).running = ((s.mdw c).stageRt i).running + 1 := by
  have hsome : ¬ (s.eligible c x r i g).isNone = true := by simpa using hel
  change ∃ m u, execTaskStart c x i s = _ ∧ _
  simp only [execTaskStart, hfree, hg, if_neg hsome]
  obtain ⟨hctxs, hrows, hstages⟩ := setTiles_keeps (fun k => g.vtiles.getLsbD k) ((List.range 8).filter fun k => g.tiles.getLsbD k) _
  refine ⟨_, _, rfl, hctxs, hrows, ?_⟩
  exact congrArg StageRt.running ((congrArg (tgetD · i {}) hstages).trans (tgetD_tput_self ..))

end

/-! ## TASK_END (R17, R291) -/

/-- The task of a context over: its stage counts one task less, and its grants are returned. -/
def State.taskReturned (s : State) (c x i : Nat) : State :=
  s.modMdw c fun m => (m.setStage i { m.stageRt i with running := (m.stageRt i).running - 1 }).modCtx x Ctx.returnGrants

section
variable (s : State) (c x i : Nat)

theorem taskReturned_ctx : (s.taskReturned c x i).ctx c x = (s.ctx c x).returnGrants := by
  rw [State.ctx, State.taskReturned, State.modMdw_mdw, Meadow.modCtx_ctx]
  rfl

theorem taskReturned_ctx_ne {y : Nat} (hy : y ≠ x) : (s.taskReturned c x i).ctx c y = s.ctx c y := by
  rw [State.ctx, State.taskReturned, State.modMdw_mdw]
  exact Meadow.setCtx_ctx_ne _ _ hy

theorem taskReturned_running : (((s.taskReturned c x i).mdw c).stageRt i).running = ((s.mdw c).stageRt i).running - 1 := by
  rw [State.taskReturned, State.modMdw_mdw]
  exact congrArg StageRt.running (tgetD_tput_self ..)

end

/-- The item that a task claimed, if it claimed one, is freed. -/
def State.freeClaim (s : State) (c i : Nat) (g : Stage) (claim : Option Nat) : State :=
  match claim with | some j => s.freeItem c i g j | none => s

/-- The slot that a task reserved, if it reserved one, is committed. -/
def State.commitResv (s : State) (c i : Nat) (g : Stage) (resv : Option Nat) : State :=
  match resv with | some j => s.commitSlot c i g j | none => s

theorem freeClaim_onlyRings (s : State) (c i : Nat) (g : Stage) (claim : Option Nat) : OnlyRings s (s.freeClaim c i g claim) c := by
  cases claim
  · exact .refl s c
  · exact freeItem_onlyRings ..

theorem commitResv_onlyRings (s : State) (c i : Nat) (g : Stage) (resv : Option Nat) : OnlyRings s (s.commitResv c i g resv) c := by
  cases resv
  · exact .refl s c
  · exact commitSlot_onlyRings ..

/-- A task that is over ends: its grants are returned, and what it claimed and reserved goes to the rings. -/
theorem exec_taskEnd {s : State} {c x : Nat} {u : Task} {r : Region} {g : Stage} (hover : s.taskOver c x = true)
    (htask : (s.ctx c x).task = some u) (hreg : s.regionOf c = some r) (hg : r.stages[u.stage]? = some g) :
    exec (.taskEnd c x) s =
      .next (((s.taskReturned c x u.stage).freeClaim c u.stage g u.claim).commitResv c u.stage g u.resv) := by
  change execTaskEnd c x s = _
  simp only [execTaskEnd, hover, htask, hreg, hg, Bool.not_true, Bool.false_eq_true, if_false]
  rfl

/-! ## The events answer in every state -/

theorem taskStart_completes (c x i : Nat) : Completes (.taskStart c x i) := by
  intro s
  change ∃ t, execTaskStart c x i s = _
  unfold execTaskStart
  split
  · exact ⟨_, rfl⟩
  · split
    · exact ⟨_, rfl⟩
    · split <;> exact ⟨_, rfl⟩

theorem taskEnd_completes (c x : Nat) : Completes (.taskEnd c x) := by
  intro s
  change ∃ t, execTaskEnd c x s = _
  unfold execTaskEnd
  split
  · exact ⟨_, rfl⟩
  · split
    · split <;> exact ⟨_, rfl⟩
    · exact ⟨_, rfl⟩

theorem contextPromotion_completes (c x : Nat) (u : IssueUnit) : Completes (.contextPromotion c x u) := by
  intro s
  change ∃ t, execContextPromotion c x u s = _
  unfold execContextPromotion
  dsimp only
  split <;> exact ⟨_, rfl⟩

theorem turnTimeout_completes (c : Nat) (u : IssueUnit) : Completes (.turnTimeout c u) := by
  intro s
  change ∃ t, execTurnTimeout c u s = _
  unfold execTurnTimeout
  dsimp only
  split
  · exact ⟨_, rfl⟩
  · split <;> exact ⟨_, rfl⟩

/-! ## CONTEXT_PROMOTION and TURN_TIMEOUT (R293, R294) -/

section
variable {s : State} {c x : Nat} {u : IssueUnit}

theorem exec_contextPromotion (htimed : (s.mdw c).timed = false)
    (hrun : (s.mdw c).limit ≤ tgetD ((s.mdw c).ctx x).readyRun (unitIx u) 0) (hnone : tget ((s.mdw c).ctx x).promoted (unitIx u) = none) :
    exec (.contextPromotion c x u) s = .next (s.modCtx c x fun k =>
      { k with promoted := tput k.promoted (unitIx u) ((s.mdw c).mtc + 2 ^ 20 - tgetD k.readyRun (unitIx u) 0) }) :=
  if_neg (by simp [htimed, hrun, hnone])

theorem exec_turnTimeout (hturn : ((s.mdw c).unit u).turn = some x) (htimed : (s.mdw c).timed = true)
    (hidle : (s.mdw c).limit ≤ ((s.mdw c).unit u).idle) :
    exec (.turnTimeout c u) s =
      .next (s.setMdw c ((s.mdw c).setUnit u { (s.mdw c).unit u with turn := (s.mdw c).nextTurn x, idle := 0 })) := by
  change execTurnTimeout c u s = _
  simp only [execTurnTimeout, hturn]
  exact if_pos (by simp [htimed, hidle])

end

end Sys2Proof.Machine

namespace Sys2Proof

open Sys2Proof.Machine

/-- Settles O45: a start writes the registers, counters and grants of the stage into its context, an end returns the grants and moves the
rings, and a promotion and a time-out change one entry each. -/
theorem taskAndTurnEvents : Obligations.TaskAndTurnEvents := by
  refine ⟨taskStart_completes, taskEnd_completes, contextPromotion_completes, turnTimeout_completes,
    fun s c x r i g hreg hg => ⟨fun hfree hel => ?start, fun u htask hu hover => ?end_⟩,
    fun s c x u => ⟨fun htimed hrun hnone => ?promotion, fun hturn htimed hidle => ?timeout⟩⟩
  case start =>
    obtain ⟨m, u, hex, hctxs, hrows, hrunning⟩ := taskStart_of_eligible hfree hg hel
    refine ⟨_, hex, ⟨fun _ hd => State.setMdw_mdw_ne _ _ hd, rfl, fun _ => rfl⟩, fun y hy => ?_, fun v => ?_, ?_, ?_⟩
    · rw [State.ctx, State.setMdw_mdw, Meadow.modCtx, Meadow.setCtx_ctx_ne _ _ hy, Meadow.ctx, hctxs]
      rfl
    · rw [State.setMdw_mdw]
      exact congrArg (tgetD · v 0) hrows
    · rw [State.setMdw_mdw]
      exact hrunning
    · rw [State.ctx, State.setMdw_mdw, Meadow.modCtx_ctx]
      refine ⟨SCore.given_src .., SCore.given_dst .., SCore.given_item .., SCore.given_rank .., rfl, rfl, rfl, fun h => if_pos h,
        fun h => if_pos h, fun h => if_pos h, istatWord_pl .., fun b hb => ?_, fun b hb => ?_⟩
      · exact getLsbD_of_getField (istatWord_tiles ..) hb
      · exact getLsbD_of_getField (istatWord_bregs ..) hb
  case end_ =>
    have hrings := (freeClaim_onlyRings (s.taskReturned c x u.stage) c u.stage g u.claim).trans
      (commitResv_onlyRings _ c u.stage g u.resv)
    have hctx := (hrings.ctxs x).trans (taskReturned_ctx ..)
    refine ⟨_, exec_taskEnd hover htask hreg (hu ▸ hg), by rw [hctx]; rfl, by rw [hctx]; rfl, fun b hb => ?_, fun b hb => ?_, ?_,
      fun y hy => ?_, fun hc hr => ?_⟩
    · rw [hctx, Ctx.returnGrants_tileGranted _ hb]
    · rw [hctx, Ctx.returnGrants_bregGranted _ hb]
    · rw [hrings.running, ← hu, taskReturned_running]
    · exact (hrings.ctxs y).trans (taskReturned_ctx_ne _ _ _ _ hy)
    · rw [hc, hr]
      change OnlyMdw s (s.taskReturned c x u.stage) c
      exact onlyMdw_modMdw ..
  case promotion =>
    refine ⟨_, exec_contextPromotion htimed hrun hnone, onlyCtx_modCtx .., ?_, ?_⟩
    · rw [State.modCtx_ctx]
      exact tget_tput_self ..
    · rw [State.modCtx_ctx]
  case timeout =>
    refine ⟨_, exec_turnTimeout hturn htimed hidle, ⟨fun _ hd => State.setMdw_mdw_ne _ _ hd, rfl, fun _ => rfl⟩, ?_, fun y => ?_⟩
    · rw [State.setMdw_mdw]
      exact congrArg UnitSt.turn (tgetD_tput_self ..)
    · rw [State.ctx, State.setMdw_mdw]
      rfl

end Sys2Proof
end


section
/-! SUPPORT. Words as bytes, and the fields of S-words and heath words as their decoder reads them (O58). -/
namespace Sys2Proof

/-! ## Words as bytes (R23) -/

theorem natToBytes_length (k v : Nat) : (natToBytes k v).length = k := by
  induction k generalizing v with
  | zero => rfl
  | succ k ih => simp [natToBytes, ih]

theorem bytesToNat_natToBytes (k v : Nat) : bytesToNat (natToBytes k v) = v % 256 ^ k := by
  induction k generalizing v with
  | zero => simp [natToBytes, bytesToNat, Nat.mod_one]
  | succ k ih =>
    rw [natToBytes, bytesToNat, ih, Nat.pow_succ', Nat.mod_mul]
    rfl

/-- The bytes of a word of `k` bytes are read back as that word. -/
theorem ofNat_bytesToNat_natToBytes {n : Nat} (k : Nat) (hn : 256 ^ k = 2 ^ n) (w : BitVec n) :
    BitVec.ofNat n (bytesToNat (natToBytes k (w.toNat % 2 ^ n))) = w := by
  rw [bytesToNat_natToBytes, hn, Nat.mod_mod, Nat.mod_eq_of_lt w.isLt, BitVec.ofNat_toNat, BitVec.setWidth_eq]

theorem decodeTableWord_scalar {w : W32} {i : Instr} (h : decodeS w = .ok i) : decodeTableWord 32 w.toNat = some i := by
  simp only [decodeTableWord, decodeBytes, natToBytes_length, Nat.le_refl, if_true, ofNat_bytesToNat_natToBytes 4 (by decide) w, h]

theorem decodeTableWord_vector {w : BitVec 96} {i : Instr} (h : decodeV w = .ok i) : decodeTableWord 96 w.toNat = some i := by
  have h32 : ¬ 96 ≤ 32 := by decide
  simp only [decodeTableWord, decodeBytes, natToBytes_length, h32, Nat.le_refl, if_true, if_false,
    ofNat_bytesToNat_natToBytes 12 (by decide) w, h]

theorem decodeTableWord_matrix {w : BitVec 192} {i : Instr} (h : decodeM w = .ok i) : decodeTableWord 192 w.toNat = some i := by
  have h32 : ¬ 192 ≤ 32 := by decide
  have h96 : ¬ 192 ≤ 96 := by decide
  simp only [decodeTableWord, decodeBytes, natToBytes_length, h32, h96, if_false, ofNat_bytesToNat_natToBytes 24 (by decide) w, h]

/-! ## Codes -/

@[simp] theorem ElemType.ofCode_code (t : ElemType) : ElemType.ofCode t.code = t := by cases t <;> rfl
@[simp] theorem Round.ofCode_code (r : Round) : Round.ofCode r.code = r := by cases r <;> rfl
@[simp] theorem Scope.ofCode_code (sc : Scope) : Scope.ofCode sc.code = sc := by cases sc <;> rfl
@[simp] theorem FredType.ofCode_code (t : FredType) : FredType.ofCode t.code = t := by cases t <;> rfl
@[simp] theorem StampMode.ofCode_code (m : StampMode) : StampMode.ofCode m.code = m := by cases m <;> rfl

/-! ## The fields of a word put together (R28) -/

section
variable (ic : BitVec 2) (major rd ra rb func : BitVec 6) (imm : BitVec 12) (imm18 : BitVec 18)

@[simp] theorem sIc_regWord : sIc (sRegWord ic major rd ra rb func) = ic := by
  simp (disch := decide) only [sIc, sRegWord, BitVec.extractLsb'_append_eq_of_le, Nat.reduceSub, BitVec.extractLsb'_eq_self]
@[simp] theorem sMajor_regWord : sMajor (sRegWord ic major rd ra rb func) = major := by
  simp (disch := decide) only [sMajor, sRegWord, BitVec.extractLsb'_append_eq_of_le, BitVec.extractLsb'_append_eq_of_add_le, Nat.reduceSub,
    BitVec.extractLsb'_eq_self]
@[simp] theorem sRd_regWord : sRd (sRegWord ic major rd ra rb func) = rd := by
  simp (disch := decide) only [sRd, sRegWord, BitVec.extractLsb'_append_eq_of_le, BitVec.extractLsb'_append_eq_of_add_le, Nat.reduceSub,
    BitVec.extractLsb'_eq_self]
@[simp] theorem sRa_regWord : sRa (sRegWord ic major rd ra rb func) = ra := by
  simp (disch := decide) only [sRa, sRegWord, BitVec.extractLsb'_append_eq_of_le, BitVec.extractLsb'_append_eq_of_add_le, Nat.reduceSub,
    BitVec.extractLsb'_eq_self]
@[simp] theorem sRb_regWord : sRb (sRegWord ic major rd ra rb func) = rb := by
  simp (disch := decide) only [sRb, sRegWord, BitVec.extractLsb'_append_eq_of_le, BitVec.extractLsb'_append_eq_of_add_le, Nat.reduceSub,
    BitVec.extractLsb'_eq_self]
@[simp] theorem sFunc_regWord : sFunc (sRegWord ic major rd ra rb func) = func := by
  simp (disch := decide) only [sFunc, sRegWord, BitVec.extractLsb'_append_eq_of_add_le, BitVec.extractLsb'_eq_self]

@[simp] theorem sIc_immWord : sIc (sImmWord ic major rd ra imm) = ic := by
  simp (disch := decide) only [sIc, sImmWord, BitVec.extractLsb'_append_eq_of_le, Nat.reduceSub, BitVec.extractLsb'_eq_self]
@[simp] theorem sMajor_immWord : sMajor (sImmWord ic major rd ra imm) = major := by
  simp (disch := decide) only [sMajor, sImmWord, BitVec.extractLsb'_append_eq_of_le, BitVec.extractLsb'_append_eq_of_add_le, Nat.reduceSub,
    BitVec.extractLsb'_eq_self]
@[simp] theorem sRd_immWord : sRd (sImmWord ic major rd ra imm) = rd := by
  simp (disch := decide) only [sRd, sImmWord, BitVec.extractLsb'_append_eq_of_le, BitVec.extractLsb'_append_eq_of_add_le, Nat.reduceSub,
    BitVec.extractLsb'_eq_self]
@[simp] theorem sRa_immWord : sRa (sImmWord ic major rd ra imm) = ra := by
  simp (disch := decide) only [sRa, sImmWord, BitVec.extractLsb'_append_eq_of_le, BitVec.extractLsb'_append_eq_of_add_le, Nat.reduceSub,
    BitVec.extractLsb'_eq_self]
@[simp] theorem sImm12_immWord : sImm12 (sImmWord ic major rd ra imm) = imm := by
  simp (disch := decide) only [sImm12, sImmWord, BitVec.extractLsb'_append_eq_of_add_le, BitVec.extractLsb'_eq_self]

/-- A part of the immediate, which is the last field of the word. -/
theorem extractLsb'_immWord (lo len : Nat) (h : lo + len ≤ 12) :
    (sImmWord ic major rd ra imm).extractLsb' lo len = imm.extractLsb' lo len := BitVec.extractLsb'_append_eq_of_add_le h

@[simp] theorem sIc_upperWord : sIc (sUpperWord ic major rd imm18) = ic := by
  simp (disch := decide) only [sIc, sUpperWord, BitVec.extractLsb'_append_eq_of_le, Nat.reduceSub, BitVec.extractLsb'_eq_self]
@[simp] theorem sMajor_upperWord : sMajor (sUpperWord ic major rd imm18) = major := by
  simp (disch := decide) only [sMajor, sUpperWord, BitVec.extractLsb'_append_eq_of_le, BitVec.extractLsb'_append_eq_of_add_le, Nat.reduceSub,
    BitVec.extractLsb'_eq_self]
@[simp] theorem sRd_upperWord : sRd (sUpperWord ic major rd imm18) = rd := by
  simp (disch := decide) only [sRd, sUpperWord, BitVec.extractLsb'_append_eq_of_le, BitVec.extractLsb'_append_eq_of_add_le, Nat.reduceSub,
    BitVec.extractLsb'_eq_self]
@[simp] theorem sImm18_upperWord : sImm18 (sUpperWord ic major rd imm18) = imm18 := by
  simp (disch := decide) only [sImm18, sUpperWord, BitVec.extractLsb'_append_eq_of_add_le, BitVec.extractLsb'_eq_self]

end

/-! ## What a register field holds (R29, R46, R47) -/

@[simp] theorem pairOf_pairField (p : BitVec 5) : pairOf (pairField p) = p := by
  simp (disch := decide) only [pairOf, pairField, BitVec.extractLsb'_append_eq_of_le, Nat.reduceSub, BitVec.extractLsb'_eq_self]

@[simp] theorem scopeField_scope (hi : BitVec 3) (sc : Scope) : (scopeField hi sc).extractLsb' 0 3 = sc.code := by
  simp (disch := decide) only [scopeField, BitVec.extractLsb'_append_eq_of_add_le, BitVec.extractLsb'_eq_self]
@[simp] theorem scopeField_mode (hi : BitVec 3) (sc : Scope) : (scopeField hi sc).extractLsb' 3 2 = hi.extractLsb' 0 2 := by
  simp (disch := decide) only [scopeField, BitVec.extractLsb'_append_eq_of_le, Nat.reduceSub]
@[simp] theorem scopeField_select (hi : BitVec 3) (sc : Scope) : (scopeField hi sc)[3] = hi[0] := by
  simp only [scopeField]
  rw [BitVec.getElem_append]
  rfl
@[simp] theorem atomField_scope (sg wide : Bool) (sc : Scope) : (atomField sg wide sc).extractLsb' 0 3 = sc.code := by
  simp (disch := decide) only [atomField, BitVec.extractLsb'_append_eq_of_add_le, BitVec.extractLsb'_eq_self]
@[simp] theorem atomField_signed (sg wide : Bool) (sc : Scope) : (atomField sg wide sc)[4] = sg := by
  cases sg <;> cases wide <;> cases sc <;> rfl
@[simp] theorem atomField_wide (sg wide : Bool) (sc : Scope) : (atomField sg wide sc)[3] = wide := by
  cases sg <;> cases wide <;> cases sc <;> rfl
@[simp] theorem fredField_scope (ty : FredType) (sc : Scope) : (0#1 ++ ty.code ++ sc.code : BitVec 6).extractLsb' 0 3 = sc.code := by
  simp (disch := decide) only [BitVec.extractLsb'_append_eq_of_add_le, BitVec.extractLsb'_eq_self]
@[simp] theorem fredField_type (ty : FredType) (sc : Scope) : (0#1 ++ ty.code ++ sc.code : BitVec 6).extractLsb' 3 2 = ty.code := by
  simp (disch := decide) only [BitVec.extractLsb'_append_eq_of_le, BitVec.extractLsb'_append_eq_of_add_le, Nat.reduceSub, BitVec.extractLsb'_eq_self]
@[simp] theorem queueField_number (q : BitVec 2) : (0#4 ++ q : BitVec 6).extractLsb' 0 2 = q := by
  simp (disch := decide) only [BitVec.extractLsb'_append_eq_of_add_le, BitVec.extractLsb'_eq_self]
@[simp] theorem shadowField_number (n : BitVec 3) : (0#3 ++ n : BitVec 6).extractLsb' 0 3 = n := by
  simp (disch := decide) only [BitVec.extractLsb'_append_eq_of_add_le, BitVec.extractLsb'_eq_self]

/-! ## What an immediate field holds (R28, R220, R221) -/

/-- A bit of the immediate. -/
theorem getElem_immWord (ic : BitVec 2) (major rd ra : BitVec 6) (imm : BitVec 12) (k : Nat) (h : k < 12) :
    (sImmWord ic major rd ra imm)[k] = imm[k] := by
  simp only [sImmWord]
  rw [BitVec.getElem_append, dif_pos h]
@[simp] theorem shiftField_amount (n : BitVec 5) : (0#7 ++ n : BitVec 12).extractLsb' 0 5 = n := by
  simp (disch := decide) only [BitVec.extractLsb'_append_eq_of_add_le, BitVec.extractLsb'_eq_self]
@[simp] theorem afenceField_scope (sc : Scope) : (0#9 ++ sc.code : BitVec 12).extractLsb' 0 3 = sc.code := by
  simp (disch := decide) only [BitVec.extractLsb'_append_eq_of_add_le, BitVec.extractLsb'_eq_self]

section
variable (un rc : Bool) (ord : BitVec 2) (sc : Scope)

@[simp] theorem fenceField_scope : (0#5 ++ BitVec.ofBool un ++ BitVec.ofBool rc ++ ord ++ sc.code : BitVec 12).extractLsb' 0 3 = sc.code := by
  simp (disch := decide) only [BitVec.extractLsb'_append_eq_of_add_le, BitVec.extractLsb'_eq_self]
@[simp] theorem fenceField_order : (0#5 ++ BitVec.ofBool un ++ BitVec.ofBool rc ++ ord ++ sc.code : BitVec 12).extractLsb' 3 2 = ord := by
  simp (disch := decide) only [BitVec.extractLsb'_append_eq_of_le, BitVec.extractLsb'_append_eq_of_add_le, Nat.reduceSub, BitVec.extractLsb'_eq_self]
@[simp] theorem fenceField_un : (0#5 ++ BitVec.ofBool un ++ BitVec.ofBool rc ++ ord ++ sc.code : BitVec 12)[6] = un := by
  simp only [BitVec.getElem_append, BitVec.getElem_ofBool]
  rfl
@[simp] theorem fenceField_rc : (0#5 ++ BitVec.ofBool un ++ BitVec.ofBool rc ++ ord ++ sc.code : BitVec 12)[5] = rc := by
  simp only [BitVec.getElem_append, BitVec.getElem_ofBool]
  rfl

end

/-- Every S-word and heath word is built again from the word that encodes it: the immediate forms by their major, the register forms by their
major and func. -/
theorem sBuild_of_encodeS {i : Instr} {w : W32} (h : encodeS i = some w) : sBuild w = some i := by
  cases i <;> cases h
  case lih | jal =>
    rw [sBuild, sMajor_upperWord]
    simp
  case addi | andi | ori | xori | slti | sltiu | adddi | jalr | beq | bne | blt | bge | bltu | bgeu | loop | gap | csrr | csrw | ldb |
      ldh | ldw | ldd | stb | sth | stw | std | lds | sts =>
    rw [sBuild, sMajor_immWord]
    dsimp only [BitVec.reduceToNat]
    simp
  case shli | shri | srai | afence | fence =>
    rw [sBuild, sMajor_immWord]
    dsimp only [BitVec.reduceToNat]
    simp [extractLsb'_immWord, getElem_immWord]
  case add | sub | and | or | xor | shl | shr | sra | mul | mulh | mulhu | div | divu | rem | remu | min | max | minu | maxu | seq | sne |
      slt | sltu | sge | sgeu =>
    rw [sBuild, sMajor_regWord]
    change sBuild01 _ = _
    rw [sBuild01, sFunc_regWord]
    dsimp only [BitVec.reduceToNat]
    simp
  case addd | subd | shld | shrd | srad =>
    rw [sBuild, sMajor_regWord]
    change sBuild02 _ = _
    rw [sBuild02, sFunc_regWord]
    dsimp only [BitVec.reduceToNat]
    simp
  case qpush | qpop | qpeek | gtcr | waitg | exit =>
    rw [sBuild, sMajor_regWord]
    change sBuild17 _ = _
    rw [sBuild17, sFunc_regWord]
    dsimp only [BitVec.reduceToNat]
    simp
  case tlook | tset | tinv | bdecl | bstateFull | bstateDrain | bquery | sbfw =>
    rw [sBuild, sMajor_regWord]
    change sBuild2A _ = _
    rw [sBuild2A, sFunc_regWord]
    dsimp only [BitVec.reduceToNat]
    simp
  case sew | sego | segoResume | segoDrop | sepop | sechain | rqpage =>
    rw [sBuild, sMajor_regWord]
    change sBuild2B _ = _
    rw [sBuild2B, sFunc_regWord]
    dsimp only [BitVec.reduceToNat]
    simp
  case atomAdd | atomAnd | atomOr | atomXor | atomMin | atomMax | atomSwap =>
    rw [sBuild, sMajor_regWord]
    change sBuild2E _ = _
    rw [sBuild2E, sFunc_regWord]
    dsimp only [BitVec.reduceToNat]
    simp
  case acas =>
    rw [sBuild, sMajor_regWord]
    change sBuild2F _ = _
    rw [sBuild2F, sFunc_regWord]
    dsimp only [BitVec.reduceToNat]
    simp
  case redAdd | redAnd | redOr | redXor | redMin | redMax =>
    rw [sBuild, sMajor_regWord]
    change sBuild30 _ = _
    rw [sBuild30, sFunc_regWord]
    dsimp only [BitVec.reduceToNat]
    simp
  case fredAdd | fredMin | fredMax =>
    rw [sBuild, sMajor_regWord]
    change sBuild31 _ = _
    rw [sBuild31, sFunc_regWord]
    dsimp only [BitVec.reduceToNat]
    simp
  case apop | bari | barv | bard | barx | barw | bart | waitqData | waitqSpace | sems | semw | uien | uiret | lnch =>
    rw [sBuild, sMajor_regWord]
    change sBuild32 _ = _
    rw [sBuild32, sFunc_regWord]
    dsimp only [BitVec.reduceToNat]
    simp
  case hspdecl | tbegin | tend | tabort | tage =>
    rw [sBuild, sMajor_regWord]
    change sBuild33 _ = _
    rw [sBuild33, sFunc_regWord]
    dsimp only [BitVec.reduceToNat]
    simp
  case dseed | dtopo =>
    rw [sBuild, sMajor_regWord]
    change sBuild34 _ = _
    rw [sBuild34, sFunc_regWord]
    dsimp only [BitVec.reduceToNat]
    simp
  case mdeq | bdwait =>
    rw [sBuild, sMajor_regWord]
    change sBuild35 _ = _
    rw [sBuild35, sFunc_regWord]
    dsimp only [BitVec.reduceToNat]
    simp
  case nop | halt | trap | eret | ctxsv | ctxld | twld | keyld =>
    rw [sBuild, sMajor_regWord]
    change sBuild36 _ = _
    rw [sBuild36, sFunc_regWord]
    dsimp only [BitVec.reduceToNat]
    simp
  case hgemv | hred | hland | hwalk | hscan | hcopy | hrow | hfence | hwait | hpost | hpostErr | hstat =>
    rw [sBuild, sMajor_regWord]
    change sBuild3E _ = _
    rw [sBuild3E, sFunc_regWord]
    dsimp only [BitVec.reduceToNat]
    simp

end Sys2Proof

namespace Sys2Proof

/-- Settles O58: a well-formed word breaks no rule, so that the decoder builds its instruction, and that is the one encoded. -/
theorem scalarWordsRoundTrip : Obligations.ScalarWordsRoundTrip := by
  intro i w hwf hw
  have hrules : worst (sViol w) = none := by simpa [Instr.wellFormed, hw] using hwf
  have hdec : decodeS w = .ok i := by simp only [decodeS, hrules, sBuild_of_encodeS hw]
  exact ⟨by simp only [encode, hw], decodeTableWord_scalar hdec⟩

end Sys2Proof
end


section
/-! SUPPORT. The fields of V-words and M-words as their decoder reads them (O59). -/
namespace Sys2Proof

/-! ## Operands of V-words (R33) -/

/-- An operand is read again from its field: by its kind in the top two bits, then by the sub-fields of that kind. -/
@[simp] theorem VOperand.ofField_toField (o : VOperand) : VOperand.ofField o.toField = o := by
  cases o
  case queue q =>
    have hq : ((1#2 ++ 0#7 ++ q : BitVec 12).extractLsb' 0 10).extractLsb' 0 3 = q := by
      refine BitVec.eq_of_getLsbD_eq fun k hk => ?_
      have h10 : k < 10 := by omega
      simp only [BitVec.getLsbD_extractLsb', BitVec.getLsbD_append, Nat.zero_add, hk, h10, decide_true, Bool.true_and, if_true]
    simp (disch := decide) only [VOperand.ofField, VOperand.toField, opKind, opBase, BitVec.extractLsb'_append_eq_of_le,
      Nat.reduceSub, BitVec.extractLsb'_eq_self, BitVec.reduceToNat, hq]
  case rows b st neg abs =>
    simp (disch := decide) only [VOperand.ofField, VOperand.toField, opKind, opBase, opStride, BitVec.extractLsb'_append_eq_of_le,
      BitVec.extractLsb'_append_eq_of_add_le, Nat.reduceSub, BitVec.extractLsb'_eq_self, BitVec.getLsbD_append, BitVec.getLsbD_ofBool,
      BitVec.reduceToNat]
    rfl
  all_goals
    simp (disch := decide) only [VOperand.ofField, VOperand.toField, opKind, opBase, opStride, opAux, opImm, BitVec.extractLsb'_append_eq_of_le,
      BitVec.extractLsb'_append_eq_of_add_le, Nat.reduceSub, BitVec.extractLsb'_eq_self, BitVec.reduceToNat]

/-! ## V-words (R30) -/

theorem vOp_vWordBits (op : BitVec 8) (x : VWord) : vOp (vWordBits op x) = op := by
  simp (disch := decide) only [vOp, vWordBits, BitVec.extractLsb'_append_eq_of_le, BitVec.extractLsb'_append_eq_of_add_le, Nat.reduceSub,
    BitVec.extractLsb'_eq_self]

theorem sense_vWordBits (op : BitVec 8) (x : VWord) : (vWordBits op x).getLsbD 77 = x.sense := by
  simp only [vWordBits, BitVec.getLsbD_append, Nat.reduceSub, BitVec.getLsbD_ofBool]
  rfl

/-- The fields of a V-word are read again from its bits. -/
theorem vWordOf_vWordBits (op : BitVec 8) (x : VWord) : vWordOf (vWordBits op x) = x := by
  rw [vWordOf, sense_vWordBits]
  simp (disch := decide) only [vWordBits, vType, vRmCode, vDst, vSrc1, vSrc2, BitVec.extractLsb'_append_eq_of_le,
    BitVec.extractLsb'_append_eq_of_add_le, Nat.reduceSub, BitVec.extractLsb'_eq_self, ElemType.ofCode_code, Round.ofCode_code,
    VOperand.ofField_toField]

/-- A V-word whose constructor names its variant is built again from its opcode and fields (R48, R132). -/
theorem vBuild_of_vParts {i : Instr} {op : BitVec 8} {x : VWord} (h : vParts i = some (op, x)) (hv : i.variantOk = true) :
    vBuild op.toNat x = some i := by
  cases i <;> cases h
  case vmarkFull => exact congrArg some (if_pos (by simpa [Instr.variantOk] using hv))
  case vmarkEmpty => exact congrArg some (if_neg (by simpa [Instr.variantOk] using hv))
  all_goals rfl

/-! ## M-words (R37, R38) -/

@[simp] theorem MSource.ofField_toField (f : MSource) : MSource.ofField f.toField = f := by
  cases f with
  | breg n =>
    have hbit : (MSource.breg n).toField.getLsbD 5 = false := by
      simp only [MSource.toField, BitVec.getLsbD_append]
      rfl
    rw [MSource.ofField, hbit, if_neg Bool.false_ne_true, MSource.toField, BitVec.extractLsb'_append_eq_of_add_le (by decide),
      BitVec.extractLsb'_eq_self]
  | desc p =>
    have hbit : (MSource.desc p).toField.getLsbD 5 = true := by
      simp only [MSource.toField, BitVec.getLsbD_append]
      rfl
    rw [MSource.ofField, hbit, MSource.toField, BitVec.extractLsb'_append_eq_of_le (by decide), BitVec.extractLsb'_append_eq_of_add_le (by decide),
      BitVec.extractLsb'_eq_self]
    rfl

@[simp] theorem listOf_listField (l : Option (BitVec 4)) : listOf (listField l) = l := by
  cases l with
  | none => rfl
  | some p =>
    have hbit : (listField (some p)).getLsbD 5 = true := by
      simp only [listField, BitVec.getLsbD_append]
      rfl
    rw [listOf, hbit, listField, BitVec.extractLsb'_append_eq_of_le (by decide), BitVec.extractLsb'_append_eq_of_add_le (by decide),
      BitVec.extractLsb'_eq_self]
    rfl

section
variable (op : BitVec 8) (x : MWord)

theorem mOp_mWordBits : mOp (mWordBits op x) = op := by
  simp (disch := decide) only [mOp, mWordBits, BitVec.extractLsb'_append_eq_of_le, BitVec.extractLsb'_append_eq_of_add_le, Nat.reduceSub,
    BitVec.extractLsb'_eq_self]

theorem acc_mWordBits : (mWordBits op x).getLsbD 109 = x.acc := by
  simp only [mWordBits, BitVec.getLsbD_append, Nat.reduceSub, BitVec.getLsbD_ofBool]
  rfl

theorem full_mWordBits : (mWordBits op x).getLsbD 108 = x.full := by
  simp only [mWordBits, BitVec.getLsbD_append, Nat.reduceSub, BitVec.getLsbD_ofBool]
  rfl

theorem once_mWordBits : (mWordBits op x).getLsbD 107 = x.once := by
  simp only [mWordBits, BitVec.getLsbD_append, Nat.reduceSub, BitVec.getLsbD_ofBool]
  rfl

/-- The fields of an M-word are read again from its bits. -/
theorem mWordOf_mWordBits : mWordOf (mWordBits op x) = x := by
  rw [mWordOf, acc_mWordBits, full_mWordBits, once_mWordBits]
  simp (disch := decide) only [mWordBits, mFa, mFb, mSrcA, mSrcB, mRmCode, mImm, BitVec.extractLsb'_append_eq_of_le,
    BitVec.extractLsb'_append_eq_of_add_le, Nat.reduceSub, BitVec.extractLsb'_eq_self, ElemType.ofCode_code, Round.ofCode_code,
    StampMode.ofCode_code, MSource.ofField_toField, listOf_listField]

end

/-- An M-word whose constructor names its variant is built again from its opcode and fields (R49, R148). -/
theorem mBuild_of_mParts {i : Instr} {op : BitVec 8} {x : MWord} (h : mParts i = some (op, x)) (hv : i.variantOk = true) :
    mBuild op.toNat x = some i := by
  cases i <;> cases h
  case mldbSpad => 
    obtain ⟨p, hp⟩ : ∃ p, x.srcA = .desc p := by
      cases hA : x.srcA <;> simp [Instr.variantOk, hA] at hv ⊢
    simp only [mBuild, BitVec.reduceToNat, hp]
  case mldbAcc =>
    obtain ⟨n, hn⟩ : ∃ n, x.srcA = .breg n := by
      cases hA : x.srcA <;> simp [Instr.variantOk, hA] at hv ⊢
    simp only [mBuild, BitVec.reduceToNat, hn]
  all_goals rfl

/-! ## Which encoder a word belongs to (R28, R30, R37) -/

theorem encodeS_of_vParts {i : Instr} {p : BitVec 8 × VWord} (h : vParts i = some p) : encodeS i = none := by
  cases i <;> cases h <;> rfl

theorem encodeS_of_mParts {i : Instr} {p : BitVec 8 × MWord} (h : mParts i = some p) : encodeS i = none := by
  cases i <;> cases h <;> rfl

theorem vParts_of_mParts {i : Instr} {p : BitVec 8 × MWord} (h : mParts i = some p) : vParts i = none := by
  cases i <;> cases h <;> rfl

end Sys2Proof

namespace Sys2Proof

/-- Settles O59: the fields of a V-word or M-word are read again from its bits, and its opcode and fields build the instruction again, VMARK and
MLDB being told apart by a field that agrees with their variant. -/
theorem vectorMatrixWordsRoundTrip : Obligations.VectorMatrixWordsRoundTrip := by
  intro i hwf
  refine ⟨fun w hw => ?vector, fun w hw => ?matrix⟩
  case vector =>
    obtain ⟨⟨op, x⟩, hp, rfl⟩ := Option.map_eq_some_iff.1 hw
    have hs := encodeS_of_vParts hp
    obtain ⟨hrules, hvar⟩ : worst (vViol (vWordBits op x)) = none ∧ i.variantOk = true := by simpa [Instr.wellFormed, hs, hw] using hwf
    have hdec : decodeV (vWordBits op x) = .ok i := by
      simp only [decodeV, hrules, vOp_vWordBits, vWordOf_vWordBits, vBuild_of_vParts hp hvar]
    exact ⟨by simp only [encode, hs, hw], decodeTableWord_vector hdec⟩
  case matrix =>
    obtain ⟨⟨op, x⟩, hp, rfl⟩ := Option.map_eq_some_iff.1 hw
    have hs := encodeS_of_mParts hp
    have hv : encodeV i = none := by rw [encodeV, vParts_of_mParts hp]; rfl
    obtain ⟨hrules, hvar⟩ : worst (mViol (mWordBits op x)) = none ∧ i.variantOk = true := by simpa [Instr.wellFormed, hs, hv, hw] using hwf
    have hdec : decodeM (mWordBits op x) = .ok i := by
      simp only [decodeM, hrules, mOp_mWordBits, mWordOf_mWordBits, mBuild_of_mParts hp hvar]
    exact ⟨by simp only [encode, hs, hv, hw]; rfl, decodeTableWord_matrix hdec⟩

end Sys2Proof
end


section
/-! SUPPORT. An issue slot taken off the agenda (O56, O57): the fetch sees the state as it was, and what it gives is run or raised. -/
namespace Sys2Proof.Machine

/-- The state in which the agent of the next slot executes: the slot is off the agenda. -/
def State.inSlot (s : State) (rest : List Act) (g : Agent) : State := { s with agenda := rest, cur := g }

section
variable (s : State) (rest : List Act) (g : Agent)

/-! ## What a fetch reads does not depend on the agenda -/

theorem inSlot_readRun (key fuel va pa len : Nat) : (s.inSlot rest g).readRun key fuel va pa len = s.readRun key fuel va pa len := by
  induction fuel generalizing va pa len with
  | zero => rfl
  | succ fuel ih =>
    simp only [State.readRun, ih]
    rfl

theorem inSlot_readParts (ps : List Part) : (s.inSlot rest g).readParts ps = s.readParts ps := by
  simp only [State.readParts, inSlot_readRun]

theorem inSlot_hRead (key pa len : Nat) : (s.inSlot rest g).hRead key pa len = s.hRead key pa len := by
  unfold State.hRead
  induction len / 64 + 2 generalizing pa len with
  | zero => rfl
  | succ fuel ih =>
    simp only [State.hReadRun, ih]
    rfl

end

/-! ## The bytes of a fetched word (R23) -/

/-- The major of an S-word is read the same from its bytes and from the number they are taken from. -/
theorem major_of_bytes (v : Nat) : bytesToNat (natToBytes (streamBytes .s) v) / 2 ^ 24 % 64 = v / 2 ^ 24 % 64 := by
  rw [bytesToNat_natToBytes]
  simp only [streamBytes]
  omega

section
variable {s : State} {c x : Nat} {st : StreamId} {rest : List Act}

/-- A fetch whose access the window allows and whose bytes are not poisoned gives what the stream's decoder reads from them. -/
theorem fetch_stream {ps : List Part}
    (hacc : s.access (s.mdw c) .fetch [(((s.ctx c x).fetchAddr st).toNat, streamBytes st)] = .ok ps) (hpoison : (s.readParts ps).2.1 = 0) :
    (s.inSlot rest (.stream c x st)).fetch (.stream c x st) = decodeStream st (natToBytes (streamBytes st) (s.readParts ps).1) := by
  have hacc' : (s.inSlot rest (.stream c x st)).access ((s.inSlot rest (.stream c x st)).mdw c) .fetch
      [((((s.inSlot rest (.stream c x st)).mdw c).ctx x).fetchAddr st |>.toNat, streamBytes st)] = .ok ps := hacc
  simp only [State.fetch, State.fetchStream, hacc', inSlot_readParts, hpoison, ne_eq, not_true_eq_false, if_false]

/-- A word of no heath major is read by the decoder of its stream. -/
theorem decodeStream_of_major {v : Nat} (hmaj : st = .s → v / 2 ^ 24 % 64 ≠ 0x3E) :
    decodeStream st (natToBytes (streamBytes st) v) = match decodeBytes st (natToBytes (streamBytes st) v) with
      | .ok i => .word i
      | .error r => .trap r.cause.code (bitTval r.bit) := by
  refine if_neg ?_
  rintro ⟨rfl, h⟩
  exact hmaj rfl (major_of_bytes v ▸ h)

/-- A heath word on an array stream is reserved (R43). -/
theorem decodeStream_heath {v : Nat} (hmaj : v / 2 ^ 24 % 64 = 0x3E) :
    decodeStream .s (natToBytes (streamBytes .s) v) = .trap Cause.resOpcode (bitTval 29) := if_pos ⟨rfl, (major_of_bytes v).trans hmaj⟩

/-! ## A step that takes an issue slot -/

section
variable {g : Agent}

theorem step_slot (hag : s.agenda = .slot g :: rest) : Machine.step s = runSlot g (s.inSlot rest g) := by
  rw [Machine.step, hag]
  rfl

theorem inSlot_slotOpen : (s.inSlot rest g).slotOpen g = s.slotOpen g := by cases g <;> rfl
theorem inSlot_unitOk (i : Instr) : (s.inSlot rest g).unitOk g i = s.unitOk g i := by cases g <;> rfl

/-- With no latent error a fetch corrects nothing. -/
theorem inSlot_scrubFetch (hclean : s.memClean = true) : (s.inSlot rest g).scrubFetch g = s.inSlot rest g := if_pos hclean

/-- An open slot runs the word that is fetched, when its unit lets it issue. -/
theorem step_slot_word {i : Instr} (hag : s.agenda = .slot g :: rest) (hclean : s.memClean = true) (hopen : s.slotOpen g = true)
    (hfetch : (s.inSlot rest g).fetch g = .word i) (hunit : s.unitOk g i = true) : Machine.step s = exec i (s.inSlot rest g) := by
  simp only [step_slot hag, runSlot, inSlot_scrubFetch hclean, inSlot_slotOpen, hopen, hfetch, inSlot_unitOk, hunit, Bool.not_true,
    Bool.false_eq_true, if_false, if_true]

/-- An open slot raises the cause that the fetch meets. -/
theorem step_slot_trap {cause : Nat} {tval : W64} (hag : s.agenda = .slot g :: rest) (hclean : s.memClean = true)
    (hopen : s.slotOpen g = true) (hfetch : (s.inSlot rest g).fetch g = .trap cause tval) :
    Machine.step s = .next ((s.inSlot rest g).raise cause tval) := by
  rw [step_slot hag, runSlot, inSlot_scrubFetch hclean, inSlot_slotOpen, hopen, hfetch]
  rfl

end

/-- A heath command processor's fetch from a listed page, of a word that is not poisoned and that it executes. -/
theorem fetch_hcp {h key : Nat} {i : Instr} (hpage : (s.hcp h).check ((s.hcp h).hi.toNat * 2 ^ 32 + (s.hcp h).sc.pc.toNat) 4 = .ok key)
    (hpoison : (s.hRead key ((s.hcp h).hi.toNat * 2 ^ 32 + (s.hcp h).sc.pc.toNat) 4).2 = 0)
    (hmaj : hcpMajor (s.hRead key ((s.hcp h).hi.toNat * 2 ^ 32 + (s.hcp h).sc.pc.toNat) 4).1 = none)
    (hdec : decodeBytes .s (natToBytes 4 (s.hRead key ((s.hcp h).hi.toNat * 2 ^ 32 + (s.hcp h).sc.pc.toNat) 4).1) = .ok i) :
    (s.inSlot rest (.hcp h)).fetch (.hcp h) = .word i := by
  have hh : (s.inSlot rest (.hcp h)).hcp h = s.hcp h := rfl
  unfold State.fetch State.fetchHcp
  dsimp only
  rw [hh, hpage]
  dsimp only
  rw [inSlot_hRead, if_neg (not_not.2 hpoison), hmaj, hdec]

end

end Sys2Proof.Machine

namespace Sys2Proof

open Sys2Proof.Machine

/-- Settles O56: what is fetched for an open slot is the word that its bytes decode to, and the step runs it; an input runs as it stands. -/
theorem stepRunsTheDecodedWord : Obligations.StepRunsTheDecodedWord := by
  refine ⟨?stream, ?hcp, ?input⟩
  case stream =>
    intro s c x st rest ps i hag hclean hopen a v hacc hpoison hmaj hdec hunit
    refine step_slot_word hag hclean hopen ?_ hunit
    rw [fetch_stream hacc hpoison, decodeStream_of_major hmaj, hdec]
  case hcp =>
    intro s h key rest i hag hclean hopen pa r hpage hpoison hmaj hdec
    exact step_slot_word hag hclean hopen (fetch_hcp hpage hpoison hmaj hdec) rfl
  case input =>
    intro s i rest hag
    rw [Machine.step, hag]
    rfl

/-- Settles O57: the fetch gives the refusal's cause and bit, or RES_OPCODE for a heath word, and a cause raised for a stream whose context
holds none changes that context's trap record alone. -/
theorem reservedWordsTrap : Obligations.ReservedWordsTrap := by
  intro s c x st rest ps hag hclean hopen hfree a v traps hacc hpoison
  have raised {cause bit : Nat} (h : decodeStream st (natToBytes (streamBytes st) v) = .trap cause (bitTval bit)) : traps cause bit := by
    have hk := State.raise_ctx (s := s.inSlot rest (.stream c x st)) rfl hfree cause (bitTval bit)
    have honly := State.raise_onlyCtx (s := s.inSlot rest (.stream c x st)) rfl cause (bitTval bit)
    have hslot : OnlyCtx s (s.inSlot rest (.stream c x st)) c x := onlyCtx_of_eq c x rfl rfl rfl
    exact ⟨_, _, step_slot_trap hag hclean hopen ((fetch_stream hacc hpoison).trans h), onlyCtx_trans hslot honly,
      by rw [hk], rfl, rfl, rfl, rfl, by rw [hk]; rfl⟩
  refine ⟨fun r hmaj hdec => raised ?_, fun hst hmaj => ?_⟩
  · rw [decodeStream_of_major hmaj, hdec]
  · subst hst
    exact raised (decodeStream_heath hmaj)

/-- Settles O60: the decoder is run on each of the words. -/
theorem wordsFromTheSpec : Obligations.WordsFromTheSpec := by
  unfold Obligations.WordsFromTheSpec
  decide +kernel

end Sys2Proof
end


section
/-! SUPPORT. Control and status registers (O8): what CSRR reads, and what a CSRW has written once its change is made. -/
namespace Sys2Proof.Machine

/-! ## CSRR (R41, R108) -/

theorem exec_csrr {s : State} {c x : Nat} {ic : BitVec 2} {p : BitVec 5} {n : BitVec 12} (hcur : s.cur = .stream c x .s)
    (hh : s.held (pairRegs p) = false) (hn : (csrKind n.toNat).isSome = true) : givesPair s (.csrr ic p n) ic 2 p.toNat (s.csrRead c x n.toNat) := by
  obtain ⟨w, hw⟩ := Option.isSome_iff_exists.1 hn
  have hex : exec (.csrr ic p n) s = .next (s.setCore ((s.core.advance ic s.clock).pushD p.toNat (s.clock + 2) (s.csrRead c x n.toNat))) := by
    change execCsrr ic p n s = _
    simp only [execCsrr, hw, sIssue_eq hh, State.curM_stream hcur, State.curX_stream hcur]
  exact ⟨_, hex, pushD_gives ic 2 p.toNat _ (by simp [hcur])⟩

/-! ## CSRW: the change that a word leaves behind (R108) -/

/-- A change put alone into the changes to come is made after its cycle, when it takes no write port. -/
theorem Meadow.applyLate_single {m : Meadow} {g rank own : Nat} {op : LateOp} (hl : m.late = [⟨g, rank, op, own⟩]) (hp : op.ports = []) :
    m.applyLate (g + 1) = ({ m with late := [] } : Meadow).apply g op := by
  have hlt : g < g + 1 := Nat.lt_succ_self g
  have hge : ¬ g + 1 ≤ g := Nat.not_succ_le_self g
  simp only [Meadow.applyLate, hl, List.filter_cons, List.filter_nil, hlt, hge, decide_true, decide_false, if_true, Bool.false_eq_true, if_false,
    portSplit, PortUse.take, hp, List.foldl_cons, List.foldl_nil, List.foldr_nil]

section
variable {s : State} {c x : Nat} {ic : BitVec 2} {p : BitVec 5} {n : BitVec 12}

/-- The meadow as CSRW leaves it: the counter has moved on, and the write is a change to come. -/
def Meadow.csrSent (m : Meadow) (x : Nat) (ic : BitVec 2) (n : Nat) (v : W64) (g : Nat) : Meadow :=
  (m.modCtx x fun k => { k with sc := k.sc.advance ic m.mtc }).addLate g 5 (.csr x n v)

theorem exec_csrw (hr : Ready s c x (pairRegs p))
    (hw : csrKind n.toNat = some .user ∨ (csrKind n.toNat = some .supervisor ∧ (s.ctx c x).pl ≠ 0)) :
    ∃ t, exec (.csrw ic p n) s = .next t ∧ OnlyMdw s t c ∧ t.cur = s.cur ∧ t.thresh = s.thresh ∧
      t.mdw c = (s.mdw c).csrSent x ic n.toNat ((s.ctx c x).sc.getD p.toNat) s.gtc := by
  obtain ⟨hcur, hfree, hplain⟩ := hr
  have hpriv : ∃ w, csrKind n.toNat = some w ∧ ¬ (w = .never ∨ (w = .supervisor ∧ (s.ctx c x).pl = 0)) := by
    rcases hw with hw | ⟨hw, hpl⟩
    · exact ⟨_, hw, by simp⟩
    · exact ⟨_, hw, by simp [hpl]⟩
  obtain ⟨w, hk, hlevel⟩ := hpriv
  refine ⟨(s.modCtx c x fun k => { k with sc := (s.ctx c x).sc.advance ic (s.mdw c).mtc }).modMdw c fun m =>
    m.addLate s.gtc 5 (.csr x n.toNat ((s.ctx c x).sc.getD p.toNat)), ?_,
    onlyMdw_trans (onlyMdw_of_ctx (onlyCtx_modCtx ..)) (onlyMdw_modMdw ..), rfl, rfl, ?_⟩
  · change execCsrw ic p n s = _
    simp only [execCsrw, State.curM_stream hcur, State.curX_stream hcur, hk, hlevel, hplain, hfree, State.setCore_stream hcur,
      State.clock_stream hcur, Bool.false_eq_true, if_false]
  · rw [State.modMdw_mdw, State.modCtx_mdw]
    rfl

/-! ## What the change writes -/

theorem Meadow.csrSent_ctx (m : Meadow) (v : W64) (n g : Nat) :
    (m.csrSent x ic n v g).ctx x = { m.ctx x with sc := (m.ctx x).sc.advance ic m.mtc } :=
  Meadow.modCtx_ctx m x fun k => { k with sc := k.sc.advance ic m.mtc }

/-- Every register reads in the cycle of a CSRW as it did before. -/
theorem csrRead_csrSent {t : State} {v : W64} {k g : Nat} (h : t.mdw c = (s.mdw c).csrSent x ic k v g) (hth : t.thresh = s.thresh) (r : Nat) :
    t.csrRead c x r = s.csrRead c x r := by
  simp only [State.csrRead, State.prioRead, h, hth, Meadow.csrSent_ctx]
  rfl

/-- After the cycle of a CSRW that finds no other change to come, its value has reached the register. -/
theorem applyLate_csrSent {m : Meadow} (hl : m.late = []) (k g : Nat) (v : W64) :
    (m.csrSent x ic k v g).applyLate (g + 1) = (m.modCtx x fun k => { k with sc := k.sc.advance ic m.mtc }).csrWrite x k v := by
  have hlate : (m.csrSent x ic k v g).late = [⟨g, 5, .csr x k v, 0⟩] := by
    change lateInsert m.late _ = _
    rw [hl]
    rfl
  rw [Meadow.applyLate_single hlate rfl]
  change (({ (m.csrSent x ic k v g) with late := [] } : Meadow).csrWrite x k v) = _
  congr 1
  rw [← hl]
  rfl

end

/-- A merged value has the written bits where the register's mask has them, and keeps the others. -/
theorem csrMerge_bits {n : Nat} {on : Nat → Prop} [DecidablePred on] (hm : ∀ i, i < 64 → (csrMask n).getLsbD i = decide (on i)) (old v : W64)
    (i : Nat) (hi : i < 64) : (on i → (csrMerge n old v).getLsbD i = v.getLsbD i) ∧ (¬on i → (csrMerge n old v).getLsbD i = old.getLsbD i) := by
  have h := hm i hi
  constructor <;> intro ho <;> simp [-BitVec.getLsbD_eq_getElem, csrMerge, h, ho, hi]

section
variable (m : Meadow) (x : Nat) (v : W64)

theorem csrWrite_istat (h : v.getLsbD 21 = false) : ((m.csrWrite x 0x000 v).ctx x).istat = csrMerge 0x000 (m.ctx x).istat v := by
  have hlow : ¬ 2 ≤ getField v 20 2 := by
    intro hge
    have hb : (getField v 20 2).testBit 1 = v.getLsbD 21 := by rw [testBit_getField]; rfl
    have hlt : getField v 20 2 < 4 := Nat.mod_lt _ (by decide)
    rw [h] at hb
    generalize getField v 20 2 = u at hge hb hlt
    interval_cases u <;> exact absurd hb (by decide)
  rw [Meadow.csrWrite, Meadow.modCtx_ctx, if_neg hlow]
theorem csrWrite_tcause : ((m.csrWrite x 0x001 v).ctx x).tcause = csrMerge 0x001 (m.ctx x).tcause v := by rw [Meadow.csrWrite, Meadow.modCtx_ctx]
theorem csrWrite_tval : ((m.csrWrite x 0x002 v).ctx x).tval = v := by rw [Meadow.csrWrite, Meadow.modCtx_ctx]
theorem csrWrite_tpc : ((m.csrWrite x 0x003 v).ctx x).tpc = csrMerge 0x003 (m.ctx x).tpc v := by rw [Meadow.csrWrite, Meadow.modCtx_ctx]
theorem csrWrite_uivec : ((m.csrWrite x 0x010 v).ctx x).uivec = csrMerge 0x010 (m.ctx x).uivec v := by rw [Meadow.csrWrite, Meadow.modCtx_ctx]
theorem csrWrite_uistat : ((m.csrWrite x 0x011 v).ctx x).uistat = csrMerge 0x011 (m.ctx x).uistat v := by
  rw [Meadow.csrWrite, Meadow.modCtx_ctx]

/-- AGE_LIMIT takes no 0 (R293). -/
theorem csrWrite_ageLimit : (m.csrWrite x 0x020 v).ageLimit = if v.extractLsb' 0 8 = 0 then m.ageLimit else v.extractLsb' 0 8 := by
  have hz : getField v 0 8 = 0 ↔ v.extractLsb' 0 8 = 0 := by
    rw [← BitVec.toNat_inj, BitVec.extractLsb'_toNat, getField]
    simp
  simp only [Meadow.csrWrite, hz]
  split <;> rfl

/-- The policy bits of MBPOL, which 3 leaves as they are (R312). -/
def mbpolPolicy : W64 := if getField v 0 2 = 3 then m.mbpol &&& 3#64 else v &&& 3#64

theorem mbpolPolicy_high {i : Nat} (hi : 2 ≤ i) : (mbpolPolicy m v).getLsbD i = false := by
  have h3 : (3#64).getLsbD i = false := by
    rw [BitVec.getLsbD_ofNat, Nat.testBit_lt_two_pow (Nat.lt_of_lt_of_le (by decide) (Nat.pow_le_pow_right (by decide) hi)), Bool.and_false]
  unfold mbpolPolicy
  split <;> simp only [BitVec.getLsbD_and, h3, Bool.and_false]

theorem csrWrite_mbpol : (m.csrWrite x 0x040 v).mbpol = (v &&& 0x700#64) ||| mbpolPolicy m v := rfl

theorem csrWrite_mbpol_look : (m.csrWrite x 0x040 v).mbpol.extractLsb' 8 3 = v.extractLsb' 8 3 := by
  refine BitVec.eq_of_getLsbD_eq fun i hi => ?_
  have hm : (0x700#64).getLsbD (8 + i) = true := by interval_cases i <;> rfl
  simp only [csrWrite_mbpol, BitVec.getLsbD_extractLsb', BitVec.getLsbD_or, BitVec.getLsbD_and, hm, mbpolPolicy_high m v (show 2 ≤ 8 + i by omega),
    Bool.and_true, Bool.or_false]

theorem csrWrite_mbpol_policy (h : v.extractLsb' 0 2 ≠ 3) : (m.csrWrite x 0x040 v).mbpol.extractLsb' 0 2 = v.extractLsb' 0 2 := by
  have h3 : getField v 0 2 ≠ 3 := by
    intro hg
    refine h (BitVec.eq_of_toNat_eq ?_)
    rw [BitVec.extractLsb'_toNat, Nat.shiftRight_zero, ← getField_zero, hg]
    rfl
  refine BitVec.eq_of_getLsbD_eq fun i hi => ?_
  have hl : (0x700#64).getLsbD (0 + i) = false := by interval_cases i <;> rfl
  have hm : (3#64).getLsbD (0 + i) = true := by interval_cases i <;> rfl
  rw [csrWrite_mbpol, mbpolPolicy, if_neg h3]
  simp only [BitVec.getLsbD_extractLsb', BitVec.getLsbD_or, BitVec.getLsbD_and, hl, hm, Bool.and_false, Bool.and_true, Bool.false_or]

theorem csrWrite_missCount : (m.csrWrite x 0x041 v).missCount.extractLsb' 0 32 = v.extractLsb' 0 32 := by
  refine BitVec.eq_of_getLsbD_eq fun i hi => ?_
  have hm : (0xFFFFFFFF#64).getLsbD (0 + i) = true := by
    rw [BitVec.getLsbD_ofNat, show 0xFFFFFFFF = 2 ^ 32 - 1 by rfl, Nat.testBit_two_pow_sub_one]
    simp
    omega
  have hw : (m.csrWrite x 0x041 v).missCount = v &&& 0xFFFFFFFF#64 := rfl
  simp only [hw, BitVec.getLsbD_extractLsb', BitVec.getLsbD_and, hm, Bool.and_true]

end

end Sys2Proof.Machine
end

section
namespace Sys2Proof

open Sys2Proof.Machine

/-- Settles O8: CSRR writes what the register reads; CSRW changes its core and leaves one change to come, which after the cycle has written the
register's own bits. -/
theorem controlRegisters : Obligations.ControlRegisters := by
  refine ⟨?read, ?write⟩
  case read =>
    intro s c x ic p hcur hh m k reads
    have reads_csr (n : Nat) (hlt : n < 2 ^ 12) (hn : (csrKind n).isSome = true) : reads n (s.csrRead c x n) := by
      have hnat : (BitVec.ofNat 12 n).toNat = n := by rw [BitVec.toNat_ofNat, Nat.mod_eq_of_lt hlt]
      have h := exec_csrr (n := BitVec.ofNat 12 n) (ic := ic) hcur hh (hnat.symm ▸ hn)
      rwa [hnat] at h
    refine ⟨reads_csr 0x000 (by decide) rfl, reads_csr 0x001 (by decide) rfl, reads_csr 0x002 (by decide) rfl, reads_csr 0x003 (by decide) rfl,
      reads_csr 0x010 (by decide) rfl, reads_csr 0x011 (by decide) rfl, reads_csr 0x020 (by decide) rfl, reads_csr 0x021 (by decide) rfl,
      reads_csr 0x022 (by decide) rfl, reads_csr 0x030 (by decide) rfl, reads_csr 0x031 (by decide) rfl, reads_csr 0x040 (by decide) rfl,
      reads_csr 0x041 (by decide) rfl, reads_csr 0x042 (by decide) rfl, fun i hi => ?_⟩
    have hread : s.csrRead c x (0x048 + i) = m.lookReg i := by interval_cases i <;> rfl
    rw [← hread]
    exact reads_csr _ (by omega) (by interval_cases i <;> rfl)
  case write =>
    intro s c x ic p n hr hw v
    obtain ⟨t, hex, honly, hcur, hth, hm⟩ := exec_csrw hr hw
    have hcore : t.core = (s.ctx c x).sc.advance ic (s.mdw c).mtc := by
      rw [State.core_stream (hcur.trans hr.cur), State.ctx, hm, Meadow.csrSent_ctx]
      rfl
    have hcore0 := State.core_stream hr.cur
    refine ⟨t, hex, advanced_core hcore (by rw [hcore0]; rfl) (by rw [State.clock_stream hr.cur]; rfl),
      regsSame_core (by rw [hcore, hcore0]; rfl) (by rw [hcore, hcore0]; rfl), honly, csrRead_csrSent hm hth, fun hl => ?_⟩
    intro m k n1 k1 bits
    have hn1 : n1 = (m.modCtx x fun k => { k with sc := k.sc.advance ic m.mtc }).csrWrite x n.toNat v := by
      rw [← applyLate_csrSent hl, ← hm]
    have hctx : (m.modCtx x fun k => { k with sc := k.sc.advance ic m.mtc }).ctx x = { k with sc := k.sc.advance ic m.mtc } := Meadow.modCtx_ctx ..
    have at_ {r : Nat} (h : n.toNat = r) : n1 = (m.modCtx x fun k => { k with sc := k.sc.advance ic m.mtc }).csrWrite x r v := h ▸ hn1
    have hk1 : k1 = n1.ctx x := rfl
    refine ⟨fun h21 hn => ?istat, fun hn => ?tcause, fun hn i hi => ?tval, fun hn => ?tpc, fun hn => ?uivec, fun hn => ?uistat,
      fun hn => ?age, fun hn => ?mbpol, fun hn => ?miss, fun hn => ?beat⟩
    case istat =>
      have hk : k1.istat = csrMerge 0x000 k.istat v := by rw [hk1, at_ hn, csrWrite_istat _ _ _ h21, hctx]
      rw [hk]
      exact csrMerge_bits (by decide) _ _
    case tcause =>
      have hk : k1.tcause = csrMerge 0x001 k.tcause v := by rw [hk1, at_ hn, csrWrite_tcause, hctx]
      rw [hk]
      exact csrMerge_bits (by decide) _ _
    case tpc =>
      have hk : k1.tpc = csrMerge 0x003 k.tpc v := by rw [hk1, at_ hn, csrWrite_tpc, hctx]
      rw [hk]
      exact csrMerge_bits (by decide) _ _
    case uivec =>
      have hk : k1.uivec = csrMerge 0x010 k.uivec v := by rw [hk1, at_ hn, csrWrite_uivec, hctx]
      rw [hk]
      exact csrMerge_bits (by decide) _ _
    case uistat =>
      have hk : k1.uistat = csrMerge 0x011 k.uistat v := by rw [hk1, at_ hn, csrWrite_uistat, hctx]
      rw [hk]
      exact csrMerge_bits (by decide) _ _
    case tval => exact ⟨fun _ => by rw [hk1, at_ hn, csrWrite_tval], fun h => absurd trivial h⟩
    case age => rw [at_ (congrArg BitVec.toNat hn)]; exact csrWrite_ageLimit ..
    case mbpol =>
      rw [at_ (congrArg BitVec.toNat hn)]
      exact ⟨csrWrite_mbpol_look .., csrWrite_mbpol_policy _ _ _⟩
    case miss => rw [at_ (congrArg BitVec.toNat hn)]; exact csrWrite_missCount ..
    case beat => rw [at_ (congrArg BitVec.toNat hn)]; rfl

end Sys2Proof
end


section
/-! SUPPORT. The frame of a word's issue (O24): what every shared operation of the words keeps of the control registers, of the contexts'
special registers, of the key slots and of memory. -/
namespace Sys2Proof.Machine

/-! ## The frame as a relation -/

/-- The special registers of a context: traps and their return, handlers, vector results and DSEED change them. -/
def Ctx.special (k : Ctx) := (k.tval, k.tpc, k.uivec, k.preds, k.tcause, k.istat, k.uistat, k.shadow, k.seed)

/-- What the frame holds of a meadow beside its contexts. -/
def Meadow.controls (m : Meadow) :=
  (m.tvec, m.relmask, m.window, m.spad, m.sbf, m.tags, m.bufs, m.topo, m.ageLimit, m.mbpol, m.beatLimit, m.missCount, m.prio, m.emeter, m.mtc)

/-- A context's special registers are kept, and its draw counter where `C` holds. -/
def CtxKept (C : Prop) (k j : Ctx) : Prop := j.special = k.special ∧ (C → j.ctr = k.ctr)

/-- A meadow's control registers and its contexts are kept. -/
def MdwKept (C : Prop) (m n : Meadow) : Prop := n.controls = m.controls ∧ ∀ x, CtxKept C (m.ctx x) (n.ctx x)

/-- GTC and every meadow are kept; memory is where `M` holds, the key slots where `K` does, and the draw counters where `C` does. -/
structure Kept (M K C : Prop) (s t : State) : Prop where
  gtc : t.gtc = s.gtc
  mem : M → t.mem = s.mem
  keys : K → t.keys = s.keys
  mdw : ∀ c, MdwKept C (s.mdw c) (t.mdw c)

/-- A word that answers a next state keeps the frame in it. -/
def ResKept (M K C : Prop) (s : State) (r : Res) : Prop := ∀ t, r = .next t → Kept M K C s t

section
variable {M K C : Prop}

/-! ## Contexts -/

/-- A context that changes in other fields than its special registers and its draw counter. -/
theorem CtxKept.of_eq {k j : Ctx} (h : (j.special, j.ctr) = (k.special, k.ctr)) : CtxKept C k j := by
  simp only [Prod.mk.injEq] at h
  exact ⟨h.1, fun _ => h.2⟩

theorem CtxKept.refl (k : Ctx) : CtxKept C k k := ⟨rfl, fun _ => rfl⟩

theorem CtxKept.trans {k j l : Ctx} (h : CtxKept C k j) (h2 : CtxKept C j l) : CtxKept C k l :=
  ⟨h2.1.trans h.1, fun hc => (h2.2 hc).trans (h.2 hc)⟩

theorem CtxKept.joinReach (k : Ctx) (st : StreamId) (r : Reach) : CtxKept C k (k.joinReach st r) := by cases st <;> exact ⟨rfl, fun _ => rfl⟩

theorem CtxKept.addCause (k : Ctx) (p : TrapPend) (b : Bool) : CtxKept C k (k.addCause p b) := by
  unfold Ctx.addCause
  repeat' split
  all_goals exact ⟨rfl, fun _ => rfl⟩

theorem CtxKept.foldl {α : Type} {f : Ctx → α → Ctx} (hf : ∀ k a, CtxKept C k (f k a)) (l : List α) (k : Ctx) : CtxKept C k (l.foldl f k) := by
  induction l generalizing k with
  | nil => exact .refl k
  | cons a l ih => exact (hf k a).trans (ih _)

/-! ## Meadows -/

theorem MdwKept.refl (m : Meadow) : MdwKept C m m := ⟨rfl, fun _ => .refl _⟩

theorem MdwKept.trans {m n o : Meadow} (h : MdwKept C m n) (h2 : MdwKept C n o) : MdwKept C m o :=
  ⟨h2.1.trans h.1, fun x => (h.2 x).trans (h2.2 x)⟩

/-- A meadow that changes in its other fields alone. -/
theorem MdwKept.of_ctxs {m n : Meadow} (hc : n.controls = m.controls) (hx : n.ctxs = m.ctxs) : MdwKept C m n :=
  ⟨hc, fun x => by simp only [Meadow.ctx, hx]; exact .refl _⟩

theorem MdwKept.modCtx (m : Meadow) (x : Nat) {f : Ctx → Ctx} (hf : CtxKept C (m.ctx x) (f (m.ctx x))) : MdwKept C m (m.modCtx x f) := by
  refine ⟨rfl, fun y => ?_⟩
  by_cases hy : y = x
  · subst hy; rw [Meadow.modCtx_ctx]; exact hf
  · rw [Meadow.modCtx, Meadow.setCtx_ctx_ne _ _ hy]; exact .refl _

/-- A context changes in other fields than its special registers and its draw counter. -/
theorem MdwKept.modOther (m : Meadow) (x : Nat) {f : Ctx → Ctx} (hf : ∀ k, ((f k).special, (f k).ctr) = (k.special, k.ctr)) :
    MdwKept C m (m.modCtx x f) := .modCtx m x (.of_eq (hf _))

/-- A further change of fields that are neither control registers nor contexts. -/
theorem MdwKept.rest {m n o : Meadow} (h : MdwKept C m n) (ho : (o.controls, o.ctxs) = (n.controls, n.ctxs)) : MdwKept C m o :=
  h.trans (.of_ctxs (congrArg Prod.fst ho) (congrArg Prod.snd ho))

theorem MdwKept.foldl {α : Type} {f : Meadow → α → Meadow} (hf : ∀ m a, MdwKept C m (f m a)) (l : List α) (m : Meadow) :
    MdwKept C m (l.foldl f m) := by
  induction l generalizing m with
  | nil => exact .refl m
  | cons a l ih => exact (hf m a).trans (ih _)

theorem MdwKept.addLate (m : Meadow) (g rank : Nat) (op : LateOp) (own : Nat) : MdwKept C m (m.addLate g rank op own) := .of_ctxs rfl rfl

theorem MdwKept.spadStoreNext (m : Meadow) (g rank a len : Nat) (d : Row) (mask : Pred) (own : Nat) :
    MdwKept C m (m.spadStoreNext g rank a len d mask own) :=
  (MdwKept.addLate ..).trans (.foldl (fun _ _ => .addLate ..) _ _)

theorem MdwKept.setPoison (m : Meadow) (v : Nat) (b : Bool) : MdwKept C m (m.setPoison v b) := .of_ctxs rfl rfl
theorem MdwKept.setTile (m : Meadow) (k : Nat) (b : Bool) (r : Reach) : MdwKept C m (m.setTile k b r) := .of_ctxs rfl rfl

theorem MdwKept.putRow (m : Meadow) (v : Nat) (r : Row) (mask : Pred) : MdwKept C m (m.putRow v r mask) := by
  unfold Meadow.putRow Meadow.freshWords
  split <;> exact .of_ctxs rfl rfl

/-- A word has taken its turn on a shared unit. -/
theorem MdwKept.takeTurn (m : Meadow) (u : IssueUnit) (x : Nat) (ic : BitVec 2) (busy : Nat) : MdwKept C m (m.takeTurn u x ic busy) := by
  have h := MdwKept.modOther (C := C) m x (f := fun k => { k with readyRun := tdel k.readyRun (unitIx u), promoted := tdel k.promoted (unitIx u) })
    fun _ => rfl
  exact h.rest (by rfl)

theorem MdwKept.keepTurn (m : Meadow) (u : IssueUnit) (x busy : Nat) : MdwKept C m (m.keepTurn u x busy) := by
  have h := MdwKept.modOther (C := C) m x (f := fun k => { k with readyRun := tdel k.readyRun (unitIx u), promoted := tdel k.promoted (unitIx u) })
    fun _ => rfl
  exact h.rest (by rfl)

theorem MdwKept.mAdvance (m : Meadow) (x : Nat) (ic : BitVec 2) : MdwKept C m (m.mAdvance x ic) := .modOther m x fun _ => by rfl

theorem MdwKept.vIssued (m : Meadow) (x : Nat) (ic : BitVec 2) (busy : Nat) : MdwKept C m (m.vIssued x ic busy) :=
  (MdwKept.modOther m x fun _ => by rfl).trans (.takeTurn ..)

/-! ## States -/

section
variable {s t : State}

theorem Kept.refl (s : State) : Kept M K C s s := ⟨rfl, fun _ => rfl, fun _ => rfl, fun _ => .refl _⟩

theorem Kept.trans {u : State} (h : Kept M K C s t) (h2 : Kept M K C t u) : Kept M K C s u :=
  ⟨h2.gtc.trans h.gtc, fun hm => (h2.mem hm).trans (h.mem hm), fun hk => (h2.keys hk).trans (h.keys hk), fun c => (h.mdw c).trans (h2.mdw c)⟩

/-- A step outside GTC, memory, the key slots and the meadows. -/
theorem Kept.of_eq {u : State} (h : Kept M K C s t) (hg : u.gtc = t.gtc) (hm : u.mem = t.mem) (hk : u.keys = t.keys) (hd : u.meadows = t.meadows) :
    Kept M K C s u :=
  h.trans ⟨hg, fun _ => hm, fun _ => hk, fun c => by simp only [State.mdw, hd]; exact .refl _⟩

theorem Kept.foldl {α : Type} {f : State → α → State} (h : Kept M K C s t) (hf : ∀ u a, Kept M K C s u → Kept M K C s (f u a)) (l : List α) :
    Kept M K C s (l.foldl f t) := by
  induction l generalizing t with
  | nil => exact h
  | cons a l ih => exact ih (hf t a h)

theorem Kept.setMdw {c : Nat} {m : Meadow} (h : Kept M K C s t) (hm : MdwKept C (t.mdw c) m) : Kept M K C s (t.setMdw c m) := by
  refine h.trans ⟨rfl, fun _ => rfl, fun _ => rfl, fun d => ?_⟩
  by_cases hd : d = c
  · subst hd; rw [State.setMdw_mdw]; exact hm
  · rw [State.setMdw_mdw_ne _ _ hd]; exact .refl _

theorem Kept.modMdw {c : Nat} {f : Meadow → Meadow} (h : Kept M K C s t) (hf : ∀ m, MdwKept C m (f m)) : Kept M K C s (t.modMdw c f) :=
  h.setMdw (hf _)

theorem Kept.modCtx {c x : Nat} {f : Ctx → Ctx} (h : Kept M K C s t) (hf : ∀ k, CtxKept C k (f k)) : Kept M K C s (t.modCtx c x f) :=
  h.modMdw fun m => .modCtx m x (hf _)

/-- A context changes in other fields than its special registers and its draw counter. -/
theorem Kept.modOther {c x : Nat} {f : Ctx → Ctx} (h : Kept M K C s t) (hf : ∀ k, ((f k).special, (f k).ctr) = (k.special, k.ctr)) :
    Kept M K C s (t.modCtx c x f) := h.modCtx fun k => .of_eq (hf k)

/-- A meadow changes in other fields than its control registers and its contexts. -/
theorem Kept.modRest {c : Nat} {f : Meadow → Meadow} (h : Kept M K C s t) (hf : ∀ m, ((f m).controls, (f m).ctxs) = (m.controls, m.ctxs)) :
    Kept M K C s (t.modMdw c f) := h.modMdw fun m => (MdwKept.refl m).rest (hf m)

theorem Kept.modHcp {i : Nat} {f : Hcp → Hcp} (h : Kept M K C s t) : Kept M K C s (t.modHcp i f) := h.of_eq rfl rfl rfl rfl
theorem Kept.modEng {d : Nat} {f : SyncEngine → SyncEngine} (h : Kept M K C s t) : Kept M K C s (t.modEng d f) := h.of_eq rfl rfl rfl rfl
theorem Kept.modArb {p : Nat} {f : Arbiter → Arbiter} (h : Kept M K C s t) : Kept M K C s (t.modArb p f) := h.of_eq rfl rfl rfl rfl
theorem Kept.nextSeq (h : Kept M K C s t) : Kept M K C s t.nextSeq.2 := h.of_eq rfl rfl rfl rfl
theorem Kept.freshIx (h : Kept M K C s t) : Kept M K C s t.freshIx.2 := h.of_eq rfl rfl rfl rfl
theorem Kept.now {es : List Ev} (h : Kept M K C s t) : Kept M K C s (t.now es) := h.of_eq rfl rfl rfl rfl

theorem Kept.logErr {log cause : Nat} {d : W64} (h : Kept M K C s t) : Kept M K C s (t.logErr log cause d) := h.of_eq rfl rfl rfl rfl

theorem Kept.setCore {k : SCore} (h : Kept M K C s t) : Kept M K C s (t.setCore k) := by
  unfold State.setCore
  split
  · exact h.modOther fun _ => by rfl
  · exact h.modHcp
  · exact h

theorem Kept.addCause {c x : Nat} {p : Ctx → TrapPend} {b : Bool} (h : Kept M K C s t) : Kept M K C s (t.modCtx c x fun k => k.addCause (p k) b) :=
  h.modCtx fun k => .addCause k _ _

theorem Kept.raise {cause : Nat} {tval : W64} (h : Kept M K C s t) : Kept M K C s (t.raise cause tval) := by
  unfold State.raise
  split
  · exact h.addCause
  · exact h.modHcp
  · exact h

theorem Kept.raiseUnbound {c x cause : Nat} {tval : W64} (h : Kept M K C s t) : Kept M K C s (t.raiseUnbound c x cause tval) := h.addCause

end

end
end Sys2Proof.Machine
end

section
/-! SUPPORT. The frame of a word's issue (O24), continued: requests, accesses and errors met on the way. -/
namespace Sys2Proof.Machine

section
variable {M K C : Prop} {s t : State}

/-! ## Latent errors -/

theorem Kept.poisonLine {pa : Nat} (h : Kept M K C s t) : Kept M K C s (t.poisonLine pa) := h.of_eq rfl rfl rfl rfl

theorem Kept.sramScrub {pa len : Nat} (h : Kept M K C s t) : Kept M K C s (t.sramScrub pa len) :=
  h.foldl (fun _ _ h => h.foldl (fun _ _ h => h.modEng.logErr) _) _

theorem Kept.dieScrub {pa len : Nat} (h : Kept M K C s t) : Kept M K C s (t.dieScrub pa len) := by
  refine h.foldl (fun u e h => ?_) _
  dsimp only
  have hd : Kept M K C s { u with dramErr := tdel u.dramErr e.1 } := h.of_eq rfl rfl rfl rfl
  split
  · exact hd.logErr
  · exact hd.poisonLine.logErr

theorem Kept.dramScrub {pa len : Nat} (h : Kept M K C s t) : Kept M K C s (t.dramScrub pa len) := by
  refine h.foldl (fun u l h => ?_) _
  split
  · exact h.sramScrub
  · exact h.dieScrub

theorem Kept.scrubParts {ps : List Part} (h : Kept M K C s t) : Kept M K C s (t.scrubParts ps) := by
  unfold State.scrubParts
  split
  · exact h
  · refine h.foldl (fun u p h => ?_) _
    split
    · refine h.foldl (fun v l h => ?_) _
      split
      · exact h.sramScrub
      · exact h.dieScrub
    · exact h

theorem Kept.rowScrub {c : Nat} {rows : List Nat} (h : Kept M K C s t) : Kept M K C s (t.rowScrub c rows) := by
  unfold State.rowScrub
  split
  · exact h
  · refine h.foldl (fun u v h => h.foldl (fun u i h => ?_) _) _
    dsimp only
    split
    · exact h
    · next e _ =>
      by_cases he : e = 1
      · simp only [he, if_true]
        split
        · split
          · exact (h.modRest fun _ => by rfl).logErr.raiseUnbound
          · exact (h.modRest fun _ => by rfl).logErr
        · exact (h.modRest fun _ => by rfl).logErr
      · simp only [he, if_false]
        split
        · split
          · exact (h.modRest fun _ => by rfl).logErr.raiseUnbound
          · exact (h.modRest fun _ => by rfl).logErr
        · exact (h.modRest fun _ => by rfl).logErr

theorem Kept.spadScrub {c x a len : Nat} (h : Kept M K C s t) : Kept M K C s (t.spadScrub c x a len) := by
  have bad {w : Nat} {u : State} (h : Kept M K C s u) : Kept M K C s
      (if (u.mdw c).relmask.getLsbD 5 then (u.logDie Cause.spadUe (8 * w) c ((some x).getD 0)).raiseUnbound c x Cause.spadUe (BitVec.ofNat 64 (8 * w))
        else u.logDie Cause.spadUe (8 * w) c ((some x).getD 0)) := by
    split
    · exact h.logErr.raiseUnbound
    · exact h.logErr
  unfold State.spadScrub State.scrubWords
  dsimp only
  split
  · exact h
  · refine h.foldl (fun u w h => ?_) _
    split
    · exact (h.modRest fun _ => by rfl).logErr
    · exact bad (h.modRest fun _ => by rfl)
    · split
      · exact bad h
      · exact h

theorem Kept.spadScrubs {c x : Nat} {rs : List (Nat × Nat)} (h : Kept M K C s t) :
    Kept M K C s (rs.foldl (fun s r => s.spadScrub c x r.1 r.2) t) := h.foldl (fun _ _ h => h.spadScrub) _

/-! ## Arbiters -/

theorem Kept.arbPut {pa : Nat} {r : ArbReq} {gran : Bool} (h : Kept M K C s t) : Kept M K C s (t.arbPut pa r gran) := by
  unfold State.arbPut
  split
  · exact h
  · exact h.modArb

theorem Kept.arbEnter {id deadline : Nat} {kind : ArbKind} {ps : List Part} {gran : Bool} (h : Kept M K C s t) :
    Kept M K C s (t.arbEnter id kind deadline ps gran) := by
  refine h.foldl (fun u p h => ?_) _
  split
  · refine h.foldl (fun v l h => ?_) _
    split
    · exact h
    · split
      · exact h.arbPut
      · refine h.foldl (fun w i h => ?_) _
        dsimp only
        split
        · exact h.arbPut
        · exact h
  · exact h

theorem Kept.arbHeath {id hcp pa len : Nat} {lim : Nat × Nat} (h : Kept M K C s t) : Kept M K C s (t.arbHeath id hcp lim pa len) := by
  refine h.foldl (fun u l h => ?_) _
  split
  · exact h
  · exact h.arbPut

/-! ## Requests, loads and stores -/

theorem Kept.send {c x id : Nat} {op : SyncOp} {p : Part} {sc : Scope} {rel : Option Reach} {ring : List Part} (h : Kept M K C s t) :
    Kept M K C s (t.send c x id op p sc rel ring) := by
  unfold State.send
  exact h.freshIx.modEng

theorem Kept.issueWait {ic : BitVec 2} {rd id : Nat} (h : Kept M K C s t) : Kept M K C s (issueWait ic rd id t) :=
  h.modOther fun _ => by rfl

theorem Kept.startLoad {c x lam bytes : Nat} {st : StreamId} {pc : W32} {dest : LandDest} {ps : List Part} {hasp : Bool}
    {f : LandEntry → LandEntry} (h : Kept M K C s t) : Kept M K C s (t.startLoad c x st pc lam bytes dest ps hasp f) := by
  have hs : Kept M K C s { t.nextSeq.2 with fresh := t.nextSeq.2.fresh + ps.length } := h.of_eq rfl rfl rfl rfl
  unfold State.startLoad
  dsimp only
  split
  · exact (hs.arbEnter.modOther fun _ => by rfl).now
  · exact hs.arbEnter.modOther fun _ => by rfl

theorem Kept.startSpadLoad {c x lam bytes a : Nat} {st : StreamId} {pc : W32} {dest : LandDest} {f : LandEntry → LandEntry}
    (h : Kept M K C s t) : Kept M K C s (t.startSpadLoad c x st pc lam bytes dest a f) := h.nextSeq.modOther fun _ => by rfl

theorem Kept.startStore1 {c x : Nat} {st : StreamId} {ps : List Part} {d : Row} {mask : Pred} {hasp : Bool} (h : Kept M K C s t) :
    Kept M K C s (t.startStore1 c x st ps d mask hasp) := h.nextSeq.freshIx.arbEnter.modOther fun _ => by rfl

theorem Kept.startStore {c x : Nat} {st : StreamId} {ps : List Part} {d : Row} {mask : Pred} {hasp : Bool} (h : Kept M K C s t) :
    Kept M K C s (t.startStore c x st ps d mask hasp) := by
  unfold State.startStore
  split
  · exact h.foldl (fun _ _ h => h.startStore1) _
  · exact h.startStore1

theorem Kept.dtopoRead {c x : Nat} {d : Dtopo} {n : Option Nat} {ps : List Part} (h : Kept M K C s t) : Kept M K C s (t.dtopoRead c x d n ps) :=
  h.nextSeq.freshIx.arbEnter.modOther fun _ => by rfl

/-! ## Page requests (R211, R390) -/

theorem Kept.prqPush {e : BitVec 256} (h : Kept M K C s t) : Kept M K C s (t.prqPush e) := by
  unfold State.prqPush State.prqWrite
  dsimp only
  repeat' split
  all_goals exact h.of_eq rfl rfl rfl rfl

theorem Kept.pageRequest {image entry va : Nat} {who : Option Asker} (h : Kept M K C s t) : Kept M K C s (t.pageRequest image entry va who) := by
  unfold State.pageRequest
  split
  · exact h.of_eq rfl rfl rfl rfl
  · split
    · exact h.of_eq rfl rfl rfl rfl
    · refine Kept.prqPush ?_
      exact h.of_eq rfl rfl rfl rfl

theorem CtxKept.pageAnswer (k : Ctx) (tag : BitVec 16) (notify : Bool) (st v : Nat) : CtxKept C k (k.pageAnswer tag notify st v) := by
  unfold Ctx.pageAnswer Ctx.notify
  dsimp only
  repeat' split
  all_goals exact ⟨rfl, fun _ => rfl⟩

/-! ## Hasp tasks that commit (R332) -/

theorem MdwKept.noticeRelease (m : Meadow) (ws : List (Nat × Nat × Nat)) : MdwKept C m (m.noticeRelease ws) := by
  refine ⟨rfl, fun x => ?_⟩
  simp only [Meadow.noticeRelease, Meadow.ctx]
  induction m.ctxs with
  | nil => exact .refl _
  | cons a l ih =>
    simp only [List.map_cons, tgetD, tget] at ih ⊢
    split
    · exact ⟨rfl, fun _ => rfl⟩
    · exact ih

theorem Kept.noticeRelease {ws : List (Nat × Nat × Nat)} (h : Kept M K C s t) : Kept M K C s (t.noticeRelease ws) := by
  unfold State.noticeRelease
  split
  · exact h
  · refine h.trans ⟨rfl, fun _ => rfl, fun _ => rfl, fun c => ?_⟩
    simp only [State.mdw]
    induction t.meadows with
    | nil => exact .refl _
    | cons a l ih =>
      simp only [List.map_cons, tgetD, tget] at ih ⊢
      split
      · exact MdwKept.noticeRelease ..
      · exact ih

theorem Kept.freeSets {d : Nat} {age : AgeKey} (h : Kept M K C s t) : Kept M K C s (t.freeSets d age) := h.modEng.noticeRelease

theorem Kept.settleTend {c x : Nat} (h : Kept M K C s t) : Kept M K C s (t.settleTend c x) := by
  unfold State.settleTend
  dsimp only
  split
  · unfold State.commitHasp
    exact (h.foldl (fun _ _ h => h.freeSets.modEng) _).modOther fun _ => by rfl
  · exact h

end

/-! ## Memory that a write-back or an undo changes -/

section
variable {K C : Prop} {s t : State}

theorem Kept.dramWrite {pa key : Nat} {d : Line} {mask : BitVec 64} (h : Kept False K C s t) : Kept False K C s (t.dramWrite pa key d mask) :=
  h.trans ⟨rfl, False.elim, fun _ => rfl, fun _ => .refl _⟩

theorem Kept.arrayWrite {va pa key : Nat} {d : Line} {mask : BitVec 64} (h : Kept False K C s t) :
    Kept False K C s (t.arrayWrite va pa key d mask) := by
  unfold State.arrayWrite
  split
  · exact h.modEng
  · exact h.dramWrite

theorem Kept.writeBack {die : Nat} {l : HeldLine} (h : Kept False K C s t) : Kept False K C s (t.writeBack die l) := by
  have h0 : Kept False K C s (if t.sramBad die l then t.sramScrub l.pa 64 else t) := by
    split
    · exact h.sramScrub
    · exact h
  have h2 {u : State} (h : Kept False K C s u) : Kept False K C s (if l.dirty = 0 then u else u.dramWrite l.pa l.key l.data l.dirty) := by
    split
    · exact h
    · exact h.dramWrite
  unfold State.writeBack
  dsimp only
  split
  · exact (h2 h0.modEng).poisonLine
  · exact h2 h0.modEng

theorem Kept.evict {d : Nat} {l : HeldLine} (h : Kept False K C s t) : Kept False K C s (t.evict d l) := by
  unfold State.evict
  dsimp only
  split
  · exact h.writeBack.nextSeq
  · exact h.writeBack.nextSeq.arbPut

theorem Kept.flushKey {slot : Nat} (h : Kept False K C s t) : Kept False K C s (t.flushKey slot) :=
  h.foldl (fun _ _ h => h.foldl (fun _ _ h => h.evict) _) _

theorem Kept.setKey {slot : Nat} {k : Option (BitVec 512)} (h : Kept False False C s t) : Kept False False C s (t.setKey slot k) :=
  h.flushKey.trans ⟨rfl, fun _ => rfl, False.elim, fun _ => .refl _⟩

theorem Kept.undoLog {d : Nat} {age : AgeKey} (h : Kept False K C s t) : Kept False K C s (t.undoLog d age) := by
  unfold State.undoLog
  refine Kept.modEng (Kept.foldl h (fun u l h => ?_) _)
  exact h.arrayWrite

theorem Kept.haspRoll {c x : Nat} {why : RollWhy} {w : Option (Nat × Nat × Nat)} (h : Kept False K C s t) :
    Kept False K C s (t.haspRoll c x why w) :=
  ((h.foldl (fun _ _ h => h.undoLog.freeSets) _).modOther fun _ => by rfl).modOther fun _ => by rfl

theorem Kept.stopHasp {c x : Nat} (h : Kept False K C s t) : Kept False K C s (t.stopHasp c x) := by
  unfold State.stopHasp
  dsimp only
  split
  · exact h.haspRoll.modOther fun _ => by rfl
  · exact h

theorem Kept.haltHasps {c : Nat} (h : Kept False K C s t) : Kept False K C s (t.haltHasps c) := by
  unfold State.haltHasps
  dsimp only
  split
  · exact h
  · refine h.foldl (fun u x h => ?_) _
    split
    · exact h
    · exact h.stopHasp

theorem Kept.stopMeadow {c : Nat} {why : StopWhy} (h : Kept False K C s t) : Kept False K C s (t.stopMeadow c why) := by
  unfold State.stopMeadow
  split
  · exact h.modRest fun _ => by rfl
  · refine Kept.haltHasps (h.modMdw fun m => ?_)
    dsimp only
    split
    · next x _ => exact (MdwKept.modOther m x (f := fun k => { k with sWait := none }) fun _ => rfl).rest (by rfl)
    · exact .of_ctxs rfl rfl

theorem Kept.endRegion {id : Nat} {why : StopWhy} {fin : EndInfo} (h : Kept False K C s t) : Kept False K C s (t.endRegion id why fin) := by
  unfold State.endRegion
  split
  · exact h
  · have hr : Kept False K C s (t.modRegion id fun r => { r with fin := r.fin.or (some fin) }) := h.of_eq rfl rfl rfl rfl
    refine hr.foldl (fun u c h => ?_) _
    split
    · exact h.stopMeadow
    · exact h

end
end Sys2Proof.Machine
end


section
/-! SUPPORT. The frame of each word's issue (O24): the shared meanings of S-words and heath words, then the words themselves. -/
namespace Sys2Proof.Machine

section
variable {M K C : Prop} {s t : State}

/-! ## Outcomes -/

theorem ResKept.next (h : Kept M K C s t) : ResKept M K C s (.next t) := by
  rintro u hu
  cases hu
  exact h

theorem ResKept.fault (f : Fault) : ResKept M K C s (.fault f) := by
  rintro u hu
  cases hu

/-- The word is held: it answers the state as it is. -/
theorem ResKept.held : ResKept M K C s (.next s) := .next (.refl s)

theorem ResKept.trap {cause : Nat} {tval : W64} (h : Kept M K C s t) : ResKept M K C s (trapRes t cause tval) := .next h.raise

theorem ResKept.ite {p : Prop} [Decidable p] {a b : Res} (ha : ResKept M K C s a) (hb : ResKept M K C s b) : ResKept M K C s (if p then a else b) := by
  split
  · exact ha
  · exact hb

theorem ResKept.sGuard {regs : List Nat} {enc : Option (Nat × W64)} {k : Res} (h : ResKept M K C s k) : ResKept M K C s (sGuard s regs enc k) := by
  unfold Machine.sGuard
  split
  · exact .held
  · split
    · exact .trap (.refl s)
    · split
      · exact .trap (.refl s)
      · exact h

theorem ResKept.hEnd {h st cause : Nat} (hk : Kept M K C s t) : ResKept M K C s (hEnd t h st cause) := .next hk.modHcp

/-! ## Words of the core (R94-R103) -/

theorem ResKept.sIssue (ic : BitVec 2) (regs : List Nat) (f : SCore → SCore) : ResKept M K C s (sIssue s ic regs f) :=
  .ite .held (.next (Kept.refl s).setCore)

theorem ResKept.sBranch (c : W32 → W32 → Bool) (ic : BitVec 2) (ra rb : BitVec 6) (off : BitVec 12) : ResKept M K C s (sBranch c ic ra rb off s) :=
  .ite .held (.next (Kept.refl s).setCore)

theorem ResKept.jal (ic : BitVec 2) (rd : BitVec 6) (imm : BitVec 18) : ResKept M K C s (execJal ic rd imm s) :=
  .ite .held (.next (Kept.refl s).setCore)

theorem ResKept.jalr (ic : BitVec 2) (rd ra : BitVec 6) (imm : BitVec 12) : ResKept M K C s (execJalr ic rd ra imm s) :=
  .ite .held (.ite (.trap (.refl s)) (.next (Kept.refl s).setCore))

theorem ResKept.loop (ic : BitVec 2) (ra rb : BitVec 6) (imm : BitVec 12) : ResKept M K C s (execLoop ic ra rb imm s) :=
  .ite (.trap (.refl s)) (.ite .held (.next (Kept.refl s).setCore))

theorem ResKept.qpush (ic q : BitVec 2) (ra : BitVec 5) : ResKept M K C s (execQpush ic q ra s) :=
  .ite (.trap (.refl s)) (.ite .held (.next ((Kept.refl s).setCore.modOther fun _ => by rfl)))

theorem ResKept.qTake (remove : Bool) (ic q : BitVec 2) (rd : BitVec 5) : ResKept M K C s (qTake remove ic rd q s) := by
  unfold Machine.qTake
  dsimp only
  split
  · exact .trap (.refl s)
  · split
    · exact .held
    · split
      · exact .held
      · refine .next ((Kept.refl s).modCtx fun k => ?_)
        split <;> exact ⟨rfl, fun _ => rfl⟩

theorem ResKept.waitg (ic : BitVec 2) (ra : BitVec 5) : ResKept M K C s (execWaitg ic ra s) :=
  .ite .held (.sIssue _ _ _)

theorem ResKept.exit (ic : BitVec 2) : ResKept M K C s (execExit ic s) := by
  unfold execExit
  dsimp only
  split
  · repeat' split
    · exact .trap (.refl s)
    · exact .held
    · exact .next ((Kept.refl s).setCore.modOther fun _ => by rfl)
  · exact .next (Kept.refl s).modHcp
  · exact .held

theorem ResKept.csrr (ic : BitVec 2) (rd : BitVec 5) (imm : BitVec 12) : ResKept M K C s (execCsrr ic rd imm s) := by
  unfold execCsrr
  split
  · exact .trap (.refl s)
  · exact .sIssue _ _ _

theorem ResKept.csrw (ic : BitVec 2) (ra : BitVec 5) (imm : BitVec 12) : ResKept M K C s (execCsrw ic ra imm s) := by
  unfold execCsrw
  dsimp only
  repeat' split
  · exact .trap (.refl s)
  · exact .trap (.refl s)
  · exact .trap (.refl s)
  · exact .held
  · exact .next ((Kept.refl s).setCore.modRest fun _ => by rfl)

/-! ## Loads and stores (R196, R199, R252) -/

theorem ResKept.hLoad (h bytes rd : Nat) (pair : Bool) (ic : BitVec 2) (ra : BitVec 5) (imm : BitVec 12) :
    ResKept M K C s (hLoad h bytes rd pair ic ra imm s) := by
  refine .ite (.next (Kept.refl s).modHcp) (.ite .held ?_)
  split
  · exact .next (Kept.refl s).modHcp
  · exact .next (Kept.refl s).nextSeq.freshIx.setCore.modHcp.arbHeath

theorem ResKept.sLoad (bytes rd : Nat) (pair : Bool) (ic : BitVec 2) (ra : BitVec 5) (imm : BitVec 12) :
    ResKept M K C s (sLoad bytes rd pair ic ra imm s) := by
  unfold Machine.sLoad
  split
  · exact .hLoad _ _ _ _ _ _ _
  · exact .held
  · refine .ite .held ?_
    split
    · exact .trap (.refl s)
    · exact .fault _
    · exact .ite (.trap (.refl s)) (.next (Kept.refl s).setCore.startLoad)

theorem ResKept.sStore (bytes : Nat) (data : SCore → Nat) (regs : List Nat) (ic : BitVec 2) (ra : BitVec 5) :
    ResKept M K C s (sStore bytes data regs ic ra s) := by
  unfold Machine.sStore
  dsimp only
  split
  · unfold hStore
    dsimp only
    repeat' split
    · exact .held
    · exact .next (Kept.refl s).modHcp
    · exact .next (Kept.refl s).nextSeq.freshIx.setCore.modHcp.arbHeath
  · exact .held
  · repeat' split
    · exact .held
    · exact .trap (.refl s)
    · exact .fault _
    · exact .next (Kept.refl s).setCore.startStore

theorem ResKept.lds (ic : BitVec 2) (rd ra : BitVec 6) (imm : BitVec 12) : ResKept M K C s (execLds ic rd ra imm s) := by
  unfold execLds
  dsimp only
  repeat' split
  · exact .held
  · exact .trap (.refl s)
  · exact .trap (.refl s)
  · exact .next (Kept.refl s).setCore.startSpadLoad

theorem ResKept.sts (ic : BitVec 2) (rd ra : BitVec 6) : ResKept M K C s (execSts ic rd ra s) := by
  unfold execSts
  dsimp only
  repeat' split
  · exact .held
  · exact .trap (.refl s)
  · exact .next ((Kept.refl s).setCore.modMdw fun m => .spadStoreNext ..)

/-! ## The meadow's tables (R201-R203) -/

theorem ResKept.tset (ic : BitVec 2) (ra : BitVec 5) (rb : BitVec 6) : ResKept M K C s (execTset ic ra rb s) :=
  .ite .held (.ite (.trap (.refl s)) (.next ((Kept.refl s).setCore.modRest fun _ => by rfl)))

theorem ResKept.tinv (ic : BitVec 2) (ra : BitVec 6) : ResKept M K C s (execTinv ic ra s) :=
  .ite .held (.ite (.trap (.refl s)) (.next ((Kept.refl s).setCore.modRest fun _ => by rfl)))

theorem ResKept.bdecl (ic : BitVec 2) (ra : BitVec 6) : ResKept M K C s (execBdecl ic ra s) :=
  .ite .held (.ite (.trap (.refl s)) (.next ((Kept.refl s).setCore.modRest fun _ => by rfl)))

theorem ResKept.bstateFull (ic : BitVec 2) (ra : BitVec 6) : ResKept M K C s (execBstateFull ic ra s) := by
  unfold execBstateFull
  dsimp only
  repeat' split
  · exact .held
  · exact .trap (.refl s)
  · exact .next ((Kept.refl s).setCore.modRest fun _ => by rfl)

theorem ResKept.bstateDrain (ic : BitVec 2) (ra : BitVec 6) : ResKept M K C s (execBstateDrain ic ra s) := by
  unfold execBstateDrain
  dsimp only
  repeat' split
  · exact .held
  · exact .trap (.refl s)
  · exact .trap (.refl s)
  · exact .next ((Kept.refl s).setCore.modRest fun _ => by rfl)

theorem ResKept.bquery (ic : BitVec 2) (rd ra : BitVec 6) : ResKept M K C s (execBquery ic rd ra s) := by
  refine .ite .held ?_
  split
  · exact .trap (.refl s)
  · exact .next (Kept.refl s).setCore

theorem ResKept.sbfw (ic : BitVec 2) (rd ra rb : BitVec 6) : ResKept M K C s (execSbfw ic rd ra rb s) :=
  .ite .held (.ite (.trap (.refl s)) (.ite (.trap (.refl s)) (.ite .held (.next ((Kept.refl s).setCore.modRest fun _ => by rfl)))))

/-! ## The stream engine's words (R207, R208) -/

theorem ResKept.sew (ic : BitVec 2) (n : BitVec 3) (ra : BitVec 5) : ResKept M K C s (execSew ic n ra s) := by
  unfold execSew
  exact .sGuard (.next ((Kept.refl s).setCore.modOther fun _ => by rfl))

theorem ResKept.sego (ic : BitVec 2) (sc : Scope) : ResKept M K C s (execSego ic sc s) := by
  unfold execSego
  refine .sGuard ?_
  split
  · exact .held
  · exact .next ((Kept.refl s).setCore.modOther fun _ => by rfl)

theorem ResKept.segoResume (ic : BitVec 2) (sc : Scope) : ResKept M K C s (execSegoResume ic sc s) := by
  refine .sGuard (.next ((Kept.refl s).setCore.modCtx fun k => ?_))
  repeat' split
  all_goals exact ⟨rfl, fun _ => rfl⟩

theorem ResKept.segoDrop (ic : BitVec 2) (sc : Scope) : ResKept M K C s (execSegoDrop ic sc s) := by
  refine .sGuard (.next ((Kept.refl s).setCore.modCtx fun k => ?_))
  repeat' split
  all_goals exact ⟨rfl, fun _ => rfl⟩

theorem ResKept.sepop (ic : BitVec 2) (rd : BitVec 5) : ResKept M K C s (execSepop ic rd s) := by
  unfold execSepop
  refine .sGuard ?_
  split
  · exact .held
  · exact .next ((Kept.refl s).modOther fun _ => by rfl)

theorem ResKept.sechain (ic : BitVec 2) (sc : Scope) (ra : BitVec 5) : ResKept M K C s (execSechain ic sc ra s) := by
  refine .sGuard ?_
  split
  · exact .held
  · exact .next ((Kept.refl s).setCore.modOther fun _ => by rfl)

theorem ResKept.rqpage (ic : BitVec 2) (ra : BitVec 5) (rb : BitVec 6) : ResKept M K C s (execRqpage ic ra rb s) := by
  refine .sGuard ?_
  dsimp only
  split
  · exact .trap (.refl s)
  · split
    · exact .held
    · have hs := (Kept.refl (M := M) (K := K) (C := C) s).setCore (k := (s.ctx s.curM s.curX).sc.advance ic s.clock)
      split
      · exact .next ((hs.modOther fun _ => by rfl).modCtx fun k => .pageAnswer ..)
      · exact .next (hs.modOther fun _ => by rfl).pageRequest

/-! ## Fences, atomics, semaphores, waits and barriers (R220, R231-R242) -/

theorem ResKept.fence (ic : BitVec 2) (un rc : Bool) (ord : BitVec 2) (sc : Scope) : ResKept M K C s (execFence ic un rc ord sc s) := by
  unfold execFence
  dsimp only
  split
  · exact .trap (.refl s)
  · split
    · split
      · exact .held
      · exact .sIssue _ _ _
    · split
      · exact .held
      · exact .sIssue _ _ _
    · exact .held

theorem ResKept.syncGo (align bytes : Nat) (want : Want) (slot rel : Bool) (op : Nat → SyncOp) (sc : Scope) (ic : BitVec 2) (ra : BitVec 5) :
    ResKept M K C s (syncGo align bytes want slot rel op sc ic ra s) := by
  unfold Machine.syncGo
  dsimp only
  split
  · exact .held
  · split
    · exact .trap (.refl s)
    · split
      · exact .trap (.refl s)
      · exact .fault _
      · split
        · exact .held
        · have hs := (Kept.refl (M := M) (K := K) (C := C) s).nextSeq.setCore (k := (s.ctx s.curM s.curX).sc.advance ic s.clock)
          split
          · exact .next (hs.send.modOther fun _ => by rfl)
          · exact .next hs.send

theorem ResKept.syncWait (ic : BitVec 2) (check : Option (Nat × W64)) (bytes : Nat) (want : Want) (va : Nat) (sc : Scope) (rel : Bool)
    (op : Nat → SyncOp) (ring : Option (Nat × Nat)) : ResKept M K C s (syncWait ic check bytes want va sc rel op ring s) := by
  unfold Machine.syncWait
  dsimp only
  split
  · split
    · exact .held
    · exact .next ((Kept.refl s).setCore.modOther fun _ => by rfl)
    · exact .next ((Kept.refl s).modOther fun _ => by rfl).raise
  · split
    · exact .trap (.refl s)
    · split
      · exact .trap (.refl s)
      · exact .fault _
      · split
        · exact .held
        · exact .next ((Kept.refl s).nextSeq.send.modOther fun _ => by rfl)

theorem ResKept.doAtom (op : Nat) (ret : Bool) (ic : BitVec 2) (sg wide : Bool) (sc : Scope) (ra : BitVec 5) (rb : BitVec 6) :
    ResKept M K C s (doAtom op ret ic sg wide sc ra rb s) := by
  unfold Machine.doAtom
  exact .sGuard (.syncGo _ _ _ _ _ _ _ _ _)

theorem ResKept.apop (ic : BitVec 2) (rd : BitVec 5) : ResKept M K C s (execApop ic rd s) := by
  unfold execApop
  refine .sGuard ?_
  split
  · exact .trap (.refl s)
  · split
    · exact .next ((Kept.refl s).modOther fun _ => by rfl).raise
    · exact .next ((Kept.refl s).modOther fun _ => by rfl)
    · exact .held

/-! ## User interrupts, launches and hasp words (R243-R247, R322-R334) -/

theorem ResKept.uien (ic : BitVec 2) (ra : BitVec 6) : ResKept M K C s (execUien ic ra s) := .sGuard (.next ((Kept.refl s).setCore.modRest fun _ => by rfl))

theorem ResKept.lnch (ic : BitVec 2) (rd : BitVec 6) (ra rb : BitVec 5) : ResKept M K C s (execLnch ic rd ra rb s) := by
  unfold execLnch
  dsimp only
  split
  · exact .held
  · refine .sGuard ?_
    split
    · exact .trap (.refl s)
    · exact .fault _
    · exact .trap (.refl s)
    · exact .fault _
    · split
      · exact .held
      · split
        · exact .trap (Kept.refl s).scrubParts
        · split
          · exact .next (Kept.refl s).scrubParts
          · exact .next (Kept.refl s).scrubParts.nextSeq.issueWait.send

theorem ResKept.hspdecl (ic : BitVec 2) (ra : BitVec 5) (rb : BitVec 6) : ResKept M K C s (execHspdecl ic ra rb s) := by
  unfold execHspdecl
  dsimp only
  split
  · exact .held
  · refine .sGuard ?_
    split
    · exact .trap (.refl s)
    · exact .fault _
    · split
      · exact .held
      · exact .next (Kept.refl s).nextSeq.issueWait.send

theorem ResKept.tbegin (ic : BitVec 2) (rd : BitVec 6) : ResKept M K C s (execTbegin ic rd s) := by
  unfold execTbegin
  exact .ite .held (.ite (.trap (.refl s)) (.ite (.ite .held (.next ((Kept.refl s).modOther fun _ => by rfl))) (.next ((Kept.refl s).modOther fun _ => by rfl))))

theorem ResKept.tend (ic : BitVec 2) : ResKept M K C s (execTend ic s) :=
  .ite (.trap (.refl s)) (.ite .held (.next (Kept.modOther ((Kept.refl s).foldl (fun _ _ h => h.modEng) _) fun _ => by rfl).settleTend))

/-! ## Draw, beat and system words (R164, R308, R309, R353, R374) -/

theorem ResKept.dtopo (ic : BitVec 2) (ra : BitVec 5) : ResKept M K C s (execDtopo ic ra s) := by
  unfold execDtopo
  dsimp only
  split
  · exact .held
  · refine .sGuard ?_
    split
    · exact .trap (.refl s)
    · exact .fault _
    · exact .next (Kept.refl s).dtopoRead

theorem ResKept.mdeq (ic : BitVec 2) (rd : BitVec 6) (ra rb : BitVec 5) : ResKept M K C s (execMdeq ic rd ra rb s) := by
  refine .sGuard ?_
  dsimp only
  split
  · exact .held
  · split
    · exact .next (Kept.refl s).setCore
    · exact .next ((Kept.refl s).nextSeq.setCore.modRest fun _ => by rfl)

theorem Kept.bdAnswer {d : Nat} {r : BeatReq} {a : Answer} (h : Kept M K C s t) : Kept M K C s (t.bdAnswer d r a) := by
  have hm : Kept M K C s (t.modMdw d fun m => { m with beatReqs := m.beatReqs.filter fun q => q.id != r.id }) := h.modRest fun _ => by rfl
  exact hm.of_eq rfl rfl rfl rfl

theorem Kept.bdVisit {d : Nat} {r : BeatReq} (h : Kept M K C s t) : Kept M K C s (t.bdVisit d r) := by
  unfold State.bdVisit
  split
  · exact h.bdAnswer
  · split
    · exact h.now
    · exact h

theorem ResKept.bdwait (ic : BitVec 2) (rd : BitVec 5) (ra rb : BitVec 6) : ResKept M K C s (execBdwait ic rd ra rb s) := by
  refine .sGuard ?_
  dsimp only
  split
  · split
    · exact .held
    · exact .next ((Kept.refl s).modOther fun _ => by rfl).setCore
    · exact .next ((Kept.refl s).modOther fun _ => by rfl).raise
  · split
    · exact .next (Kept.refl s).setCore
    · exact .next (((Kept.refl s).nextSeq.modOther fun _ => by rfl).modRest fun _ => by rfl).bdVisit

theorem ResKept.trapWord (ic : BitVec 2) (ra : BitVec 6) : ResKept M K C s (execTrap ic ra s) :=
  .ite .held (.next (Kept.refl s).addCause)

theorem ResKept.twld (ic : BitVec 2) (rd : BitVec 6) (ra : BitVec 5) (rb : BitVec 6) : ResKept M K C s (execTwld ic rd ra rb s) := by
  refine .sGuard ?_
  dsimp only
  split
  · exact .fault _
  · split
    · exact .trap (Kept.refl s).dramScrub
    · split
      · exact .next (((Kept.refl s).dramScrub.freshIx.modOther fun _ => by rfl).modOther fun _ => by rfl)
      · exact .next ((((Kept.refl s).dramScrub.freshIx.modOther fun _ => by rfl).modOther fun _ => by rfl).modRest fun _ => by rfl)

/-! ## Heath words (R261-R276) -/

theorem Kept.hPost {h slot : Nat} {inc : W32} {err : Option W32} (hk : Kept M K C s t) : Kept M K C s (t.hPost h slot inc err) := by
  unfold State.hPost
  split
  · exact hk
  · exact hk.nextSeq.freshIx.modEng

theorem Kept.finishCmd {h st d : Nat} {b : HBlock} (hk : Kept M K C s t) : Kept M K C s (t.finishCmd h b st d) := by
  unfold State.finishCmd
  dsimp only
  split
  · exact hk.modHcp.hPost
  · exact hk.modHcp

theorem Kept.scrubLists {h : Nat} {b : HBlock} (hk : Kept M K C s t) : Kept M K C s (t.scrubLists h b) := by
  unfold State.scrubLists
  extract_lets
  split
  · exact hk
  · exact hk.dramScrub

theorem Kept.endHrow {h : Nat} (hk : Kept M K C s t) : Kept M K C s (t.endHrow h) := by
  unfold State.endHrow
  split
  · exact hk
  · exact hk.modArb.modHcp

/-- A command is handed on: its tag's status and the list of commands change. -/
theorem Kept.handOn {i : Nat} {f : Hcp → Hcp} {cs : List HCmd} (hk : Kept M K C s t) : Kept M K C s { t.modHcp i f with hcmds := cs } :=
  hk.of_eq rfl rfl rfl rfl

theorem ResKept.hPush (func : Nat) (ic : BitVec 2) (ra : BitVec 5) : ResKept M K C s (hPush func ic ra s) := by
  unfold Machine.hPush
  dsimp only
  split
  · next h _ =>
    split
    · exact .held
    · split
      · exact .hEnd (.refl s)
      · split
        · exact .hEnd (.refl s)
        · split
          · exact .hEnd (Kept.refl s).dramScrub
          · split
            · exact .next (Kept.refl s).dramScrub.scrubLists
            · split
              · exact .next (Kept.refl s).dramScrub.scrubLists.setCore.finishCmd
              · split
                · exact .next (Kept.refl s).dramScrub.scrubLists
                · exact .next (Kept.handOn (Kept.refl s).dramScrub.scrubLists.setCore.nextSeq.freshIx)
  · exact .held

theorem ResKept.hrow (ic : BitVec 2) (ra : BitVec 5) (rb : BitVec 6) : ResKept M K C s (execHrow ic ra rb s) := by
  unfold execHrow
  dsimp only
  split
  · split
    · exact .held
    · split
      · exact .hEnd (.refl s)
      · split
        · exact .next (Kept.refl s).nextSeq.endHrow.arbPut.setCore.modHcp
        · exact .hEnd (.refl s)
        · exact .hEnd (.refl s)
  · exact .held

theorem ResKept.hfence (ic : BitVec 2) (sc : Scope) : ResKept M K C s (execHfence ic sc s) := by
  unfold execHfence
  repeat' split
  · exact .next (Kept.refl s).setCore
  · exact .held
  · exact .held

theorem ResKept.hwait (ic : BitVec 2) (ra : BitVec 6) : ResKept M K C s (execHwait ic ra s) := by
  unfold execHwait
  dsimp only
  repeat' split
  · exact .held
  · exact .hEnd (.refl s)
  · exact .held
  · exact .next (Kept.refl s).setCore
  · exact .held

theorem ResKept.hstat (ic : BitVec 2) (rd ra : BitVec 6) : ResKept M K C s (execHstat ic rd ra s) := by
  unfold execHstat
  dsimp only
  repeat' split
  · exact .held
  · exact .hEnd (.refl s)
  · exact .next (Kept.refl s).setCore
  · exact .held

theorem ResKept.doHpost (err : Bool) (ic : BitVec 2) (ra rb : BitVec 6) : ResKept M K C s (doHpost err ic ra rb s) := by
  unfold Machine.doHpost
  dsimp only
  split
  · split
    · exact .held
    · split
      · exact .hEnd (.refl s)
      · split
        · exact .held
        · exact .next (Kept.refl s).setCore.hPost
  · exact .held

end

/-! ## Words that put lines of memory back (R221, R300, R333, R363) -/

section
variable {K C : Prop} {s : State}

theorem ResKept.afence (ic : BitVec 2) (ra : BitVec 5) (sc : Scope) : ResKept False K C s (execAfence ic ra sc s) := by
  unfold execAfence
  refine .sGuard ?_
  dsimp only
  split
  · exact .trap (.refl s)
  · split
    · exact .held
    · exact .next (Kept.foldl (Kept.refl s) (fun _ _ h => h.foldl (fun _ _ h => h.evict) _) _).setCore

theorem ResKept.tabort (ic : BitVec 2) (ra : BitVec 6) : ResKept False K C s (execTabort ic ra s) :=
  .ite .held (.ite (.trap (.refl s)) (.ite (.trap (.refl s)) (.next (Kept.refl s).setCore.haspRoll)))

theorem ResKept.halt (ic : BitVec 2) (ra : BitVec 5) : ResKept False K C s (execHalt ic ra s) := by
  refine .sGuard ?_
  split
  · exact .held
  · exact .next (Kept.refl s).setCore.endRegion

theorem ResKept.ctxsv (ic : BitVec 2) (rd : BitVec 6) (ra : BitVec 5) : ResKept False K C s (execCtxsv ic rd ra s) := by
  unfold execCtxsv
  dsimp only
  split
  · exact .held
  · refine .sGuard ?_
    split
    · exact .trap (.refl s)
    · exact .fault _
    · split
      · exact .next (Kept.refl s).setCore
      · exact .next (Kept.refl s).nextSeq.issueWait.stopMeadow

theorem ResKept.ctxld (ic : BitVec 2) (rd : BitVec 6) (ra : BitVec 5) (rb : BitVec 6) : ResKept False K C s (execCtxld ic rd ra rb s) := by
  unfold execCtxld
  dsimp only
  split
  · exact .held
  · refine .sGuard ?_
    split
    · exact .trap (.refl s)
    · exact .fault _
    · split
      · exact .next (Kept.refl s).setCore
      · exact .next (Kept.refl s).nextSeq.issueWait.stopMeadow

theorem ResKept.keyld (ic : BitVec 2) (rd : BitVec 6) (ra : BitVec 5) (rb : BitVec 6) : ResKept False False C s (execKeyld ic rd ra rb s) := by
  refine .sGuard ?_
  dsimp only
  split
  · exact .trap (.refl s)
  · exact .fault _
  · split
    · exact .held
    · have hs (ps : List Part) : Kept False False C s (s.scrubParts ps).freshIx.2 := (Kept.refl s).scrubParts.freshIx
      repeat' split
      · exact .next ((hs _).modOther fun _ => by rfl)
      · exact .next ((hs _).modOther fun _ => by rfl)
      · exact .next ((hs _).setKey.modOther fun _ => by rfl)
      · exact .trap (Kept.refl s).scrubParts
      · exact .next ((hs _).modOther fun _ => by rfl)
      · exact .next ((hs _).modOther fun _ => by rfl)
      · exact .next ((hs _).setKey.modOther fun _ => by rfl)

end
end Sys2Proof.Machine
end


section
/-! SUPPORT. The start of a sweep (R116) in its parts: the order that the word takes over, the landing entries it takes, and the flight that
joins the meadow with the word's issue. -/
namespace Sys2Proof.Machine

/-- The order that the entries a V-word counts and the tile bits it waited on hand over has reached its context (R218). -/
def State.vReached (s : State) (c x op : Nat) (w : VWord) : State :=
  s.modMdw c fun m => m.modCtx x fun k => (k.vJoin s.gtc (vPops op w)).vTiles m (vTouched op w)

/-- VLD has started its loads, VLDS has taken its entries, whose identifiers it answers (R197, R200). -/
def State.vLanded (s : State) (c x op : Nat) (w : VWord) : State × List Nat :=
  let k := (s.mdw c).ctx x
  let s1 := if op = 0x70 then s.vStartLoads c x w (vMemAddrs k s.gtc op w) else s
  if op = 0x72 then s1.vTakeEntries c x w (if op = 0x72 ∨ op = 0x73 then vSpadAddrs k s.gtc op w else []) else (s1, [])

/-- The flight joins the meadow, and a word that rounds by coin takes its counter values. -/
def Meadow.addFlight (m : Meadow) (x op : Nat) (w : VWord) (f : VFlight) : Meadow :=
  let m1 := m.modCtx x fun k => if vRounds op w then { k with ctr := k.ctr + BitVec.ofNat 32 (vSteps w) } else k
  { m1 with flights := m1.flights ++ [f] }

theorem State.now_ite (s : State) (p : Prop) [Decidable p] (es : List Ev) : (if p then s.now es else s) = s.now (if p then es else []) := by
  split <;> rfl

theorem State.vStart_eq (s : State) (c x op : Nat) (ins : Instr) (w : VWord) :
    ∃ (f : VFlight) (busy : Nat) (es : List Ev), (f.ins = ins ∧ f.ctx = x ∧ f.t0 = s.gtc ∧ f.n = vSteps w ∧ f.step = 0 ∧ f.done = []) ∧
      s.vStart c x op ins w = (((s.vReached c x op w).vLanded c x op w).1.nextSeq.2.modMdw c fun m => (m.addFlight x op w f).vIssued x w.ic busy).now es := by
  unfold State.vStart State.vLanded
  extract_lets s0 m k n draw plan topo lat step mem spadAs as_ rel s1 k' s1'
  change ∃ (f : VFlight) (busy : Nat) (es : List Ev), _ ∧ _ = ((if op = 0x72 then s1.vTakeEntries c x w spadAs else (s1, [])).1.nextSeq.2.modMdw c _).now es
  generalize (if op = 0x72 then s1.vTakeEntries c x w spadAs else (s1, [])) = r
  obtain ⟨s2, ids⟩ := r
  refine ⟨_, _, _, ?_, State.now_ite ..⟩
  exact ⟨rfl, rfl, rfl, rfl, rfl, rfl⟩

end Sys2Proof.Machine
end


section
/-! SUPPORT. The frame of each word's issue (O24): V-words and M-words, whose issue may move the draw counter. -/
namespace Sys2Proof.Machine

section
variable {M K : Prop} {s t : State}

/-! ## V-words (R116, R132, R133) -/

theorem CtxKept.ite {C p : Prop} [Decidable p] {k a b : Ctx} (ha : CtxKept C k a) (hb : CtxKept C k b) : CtxKept C k (if p then a else b) := by
  split
  · exact ha
  · exact hb

theorem CtxKept.vJoin {C : Prop} (k : Ctx) (g : Nat) (pops : List (Nat × Nat)) : CtxKept C k (k.vJoin g pops) :=
  .foldl (fun _ _ => .foldl (fun _ _ => .joinReach ..) _ _) _ _

theorem CtxKept.vTiles {C : Prop} (k : Ctx) (m : Meadow) (rows : List Nat) : CtxKept C k (k.vTiles m rows) := .foldl (fun _ _ => .joinReach ..) _ _

theorem Kept.vReached {C : Prop} {c x op : Nat} {w : VWord} (h : Kept M K C s t) : Kept M K C s (t.vReached c x op w) :=
  h.modMdw fun m => .modCtx m x ((CtxKept.vJoin ..).trans (.vTiles ..))

theorem Kept.vTakeEntries {C : Prop} {c x : Nat} {w : VWord} {as_ : List Nat} (h : Kept M K C s t) : Kept M K C s (t.vTakeEntries c x w as_).1 := by
  unfold State.vTakeEntries
  dsimp only
  generalize as_.zipIdx = l
  suffices hl : ∀ r : State × List Nat, Kept M K C s r.1 → Kept M K C s (l.foldl _ r).1 from hl (t, []) h
  induction l with
  | nil => exact fun _ h => h
  | cons a l ih => exact fun r hr => ih _ (hr.nextSeq.modOther fun _ => by rfl)

theorem Kept.vLanded {C : Prop} {c x op : Nat} {w : VWord} (h : Kept M K C s t) : Kept M K C s (t.vLanded c x op w).1 := by
  have hl : Kept M K C s (if op = 0x70 then t.vStartLoads c x w (vMemAddrs ((t.mdw c).ctx x) t.gtc op w) else t) := by
    split
    · exact h.foldl (fun _ _ h => h.startLoad) _
    · exact h
  unfold State.vLanded
  dsimp only
  split
  · exact hl.vTakeEntries
  · exact hl

theorem MdwKept.addFlight (m : Meadow) (x op : Nat) (w : VWord) (f : VFlight) : MdwKept False m (m.addFlight x op w f) := by
  have hc : MdwKept False m (m.modCtx x fun k => if vRounds op w then { k with ctr := k.ctr + BitVec.ofNat 32 (vSteps w) } else k) := by
    refine .modCtx m x ?_
    split <;> exact ⟨rfl, False.elim⟩
  exact hc.rest (by rfl)

theorem Kept.vStart {c x op : Nat} {ins : Instr} {w : VWord} (h : Kept M K False s t) : Kept M K False s (t.vStart c x op ins w) := by
  obtain ⟨f, busy, es, -, he⟩ := t.vStart_eq c x op ins w
  rw [he]
  exact (h.vReached.vLanded.nextSeq.modMdw fun m => (MdwKept.addFlight ..).trans (.vIssued ..)).now

theorem ResKept.vGo (ins : Instr) : ResKept M K False s (vGo ins s) := by
  unfold Machine.vGo
  split
  · dsimp only
    split
    · exact .ite (.trap (.refl s)) (.trap (.refl s))
    · refine .ite .held ?_
      split
      · exact .next ((Kept.refl s).modMdw fun m => .vIssued ..)
      · exact .next ((Kept.refl s).modMdw fun m => (MdwKept.modOther m _ fun _ => by rfl).trans (.vIssued ..))
      · exact .next ((Kept.refl s).modMdw fun m => ((MdwKept.modCtx m _ (.vTiles ..)).trans (.setTile ..)).trans (.vIssued ..))
      · split
        · exact .trap (Kept.refl s).rowScrub
        · exact .trap (Kept.refl s).rowScrub.freshIx
        · exact .fault _
        · exact .next (Kept.refl s).rowScrub.vStart
  · exact .held

/-! ## Tile-step words (R134-R146, R152, R153) -/

theorem CtxKept.suspendWalk {C : Prop} (k : Ctx) (tw : TileWord) (i : Nat) (own : Bool) : CtxKept C k (k.suspendWalk tw i own) := by
  unfold Ctx.suspendWalk
  exact ⟨rfl, fun _ => rfl⟩

theorem Kept.tileTrap {C : Prop} {c x cause v low : Nat} {tw : TileWord} (h : Kept M K C s t) :
    Kept M K C s (t.tileTrap c x tw cause v low) := by
  have hk (u : State) (hu : Kept M K C s u) : Kept M K C s (u.modCtx c x fun k =>
      match tw.walk with
      | some w => (k.suspendWalk tw tw.next true).raiseM u.gtc (u.mdw c).mtc cause (stepTval cause v tw.next low) w.after
      | none => { k with tileWord := some { tw with running := false, stamped := false }, armed := none }.raiseM u.gtc (u.mdw c).mtc cause
          (stepTval cause v tw.next low) tw.pc) := by
    refine hu.modCtx fun k => ?_
    split
    · exact (CtxKept.suspendWalk ..).trans (.addCause ..)
    · exact CtxKept.trans ⟨rfl, fun _ => rfl⟩ (.addCause ..)
  unfold State.tileTrap
  dsimp only
  split
  · exact hk _ h.spadScrubs
  · exact hk _ h

theorem Kept.stepScrub {C : Prop} {c r : Nat} {q : TileStep} (h : Kept M K C s t) : Kept M K C s (t.stepScrub c q r) := by
  unfold State.stepScrub
  split
  · exact h
  · exact h.spadScrubs

theorem Kept.pushStep {C : Prop} {c : Nat} {q : TileStep} (h : Kept M K C s t) : Kept M K C s (t.pushStep c q) := by
  unfold State.pushStep
  exact h.nextSeq.stepScrub.modRest fun _ => by rfl

theorem Kept.issueStep {c x : Nat} {tw : TileWord} {p : StepPlan} (h : Kept M K False s t) : Kept M K False s (t.issueStep c x tw p) := by
  unfold State.issueStep
  refine Kept.modMdw (Kept.pushStep h.spadScrubs) fun m => ?_
  extract_lets m1
  have h1 : MdwKept False m m1 := by
    refine .modCtx m x ?_
    extract_lets k1 k2 k3 k4
    have hk1 : CtxKept False (m.ctx x) k1 := .joinReach ..
    have hk2 : CtxKept False k1 k2 := .ite ⟨rfl, False.elim⟩ (.refl k1)
    have hk3 : CtxKept False k2 k3 := .ite ⟨rfl, False.elim⟩ (.refl k2)
    exact ((hk1.trans hk2).trans hk3).trans (.ite ⟨rfl, False.elim⟩ ⟨rfl, False.elim⟩)
  split
  · exact h1.trans (.keepTurn ..)
  · exact h1.trans (.takeTurn ..)

theorem ResKept.stampedHead {c x i : Nat} {tw : TileWord} {p : StepPlan} : ResKept M K False s (s.stampedHead c x tw p i) := by
  unfold State.stampedHead
  refine .ite .held (.ite (.next (Kept.refl s).tileTrap) (.ite (.next ((Kept.refl s).modOther fun _ => by rfl)) (.ite (.next (Kept.refl s).tileTrap) ?_)))
  split
  · exact .next (Kept.refl s).tileTrap
  · exact .next (Kept.refl s).tileTrap
  · exact .next (Kept.refl s).issueStep

theorem ResKept.tileHead {c x : Nat} {tw : TileWord} {target : Option Nat} : ResKept M K False s (s.tileHead c x tw target) := by
  unfold State.tileHead
  dsimp only
  split
  · exact .stampedHead
  · refine .ite .held ?_
    split
    · exact .next (Kept.refl s).tileTrap
    · exact .held
    · exact .next (Kept.refl s).issueStep

theorem ResKept.mmaGo (ins : Instr) (w : MWord) : ResKept M K False s (mmaGo ins w s) := by
  unfold Machine.mmaGo
  dsimp only
  split
  · refine .ite .held ?_
    split
    · exact .next (Kept.refl s).tileTrap
    · split
      · exact .next (Kept.refl s).tileTrap
      · exact .tileHead
  · exact .held

theorem ResKept.walkGo (ins : Instr) (w : MWord) : ResKept M K False s (walkGo ins w s) := by
  unfold Machine.walkGo
  dsimp only
  split
  · split
    · exact .ite .held .tileHead
    · refine .ite .held (.ite (.next (Kept.refl s).tileTrap) (.ite .held ?_))
      split
      · split
        · exact .ite .held (.next (Kept.refl s).spadScrub.tileTrap)
        · exact .ite .held (.ite (.next (Kept.refl s).spadScrub.tileTrap) (.next ((Kept.refl s).modOther fun _ => by rfl)))
      · exact .tileHead
  · exact .held

theorem ResKept.resumeGo (ins : Instr) (w : MWord) : ResKept M K False s (resumeGo ins w s) := by
  unfold Machine.resumeGo
  dsimp only
  split
  · split
    · exact .ite .held .tileHead
    · refine .ite .held ?_
      split
      · exact .next ((Kept.refl s).modMdw fun m => .mAdvance ..)
      · exact .tileHead
  · exact .held

/-! ## Words of one cycle (R147, R150, R151, R154, R314, R315) -/

theorem ResKept.mTileWord {w : MWord} {tile : Bool} {busy : Meadow → Nat → Bool} {f : Meadow → Nat → State → Meadow}
    (hf : ∀ m x, MdwKept False m (f m x s)) : ResKept M K False s (mTileWord w tile busy f s) := by
  have hj (m : Meadow) (x : Nat) (t : Nat) :
      MdwKept False m (if tile then m.modCtx x fun k => k.joinReach .m (tgetD m.tileRel t {}) else m) := by
    split
    · exact .modCtx m x (.joinReach ..)
    · exact .refl m
  unfold Machine.mTileWord
  dsimp only
  split
  · exact .ite (.trap (.refl s)) (.ite .held (.next ((Kept.refl s).setMdw (((hj ..).trans (hf ..)).trans (.mAdvance ..)))))
  · exact .held

theorem ResKept.mzero (w : MWord) : ResKept M K False s (execMzero w s) :=
  .mTileWord fun _ _ => .foldl (fun _ _ => (MdwKept.putRow ..).trans (.setPoison ..)) _ _

theorem ResKept.mqpop (w : MWord) : ResKept M K False s (execMqpop w s) := by
  unfold execMqpop
  refine .mTileWord fun m x => .modCtx m x ?_
  split
  · exact .refl _
  · next e _ => exact (CtxKept.joinReach (m.ctx x) .m e.rel).trans ⟨rfl, fun _ => rfl⟩

theorem ResKept.mlook (w : MWord) : ResKept M K False s (execMlook w s) := .ite (.trap (.refl s)) (.mTileWord fun _ _ => .addLate ..)

/-! ## MLDB, MSTA, MDRAW and MBEAT (R148, R149, R167, R304) -/

theorem Kept.startMop {C : Prop} {c x : Nat} {ic : BitVec 2} {u : Option IssueUnit} {o : MOp} (h : Kept M K C s t) :
    Kept M K C s (t.startMop c x ic u o) := by
  unfold State.startMop
  refine Kept.modMdw h.nextSeq fun m => ?_
  extract_lets o1 o2 m1
  have h1 : MdwKept C m m1 := MdwKept.trans (.of_ctxs rfl rfl) (.mAdvance ..)
  split
  · exact h1.trans (.takeTurn ..)
  · exact h1

theorem ResKept.mldbSpad (w : MWord) : ResKept M K False s (execMldbSpad w s) := by
  unfold execMldbSpad
  dsimp only
  split
  · refine .ite .held (.ite (.trap (.refl s)) (.ite (.trap (.refl s)) (.ite .held ?_)))
    split
    · exact .trap (.refl s)
    · split
      · exact .trap (.refl s)
      · refine .ite .held ?_
        split
        · exact .trap (Kept.refl s).spadScrubs
        · exact .next (Kept.refl s).spadScrubs.startMop
  · exact .held

theorem ResKept.mldbAcc (w : MWord) : ResKept M K False s (execMldbAcc w s) := by
  unfold execMldbAcc
  dsimp only
  split
  · split
    · exact .ite (.trap (.refl s)) (.trap (.refl s))
    · refine .ite .held ?_
      split
      · refine .ite (.trap (.refl s)) ?_
        split
        · exact .trap (.refl s)
        · refine .ite .held ?_
          split
          · exact .trap (Kept.refl s).rowScrub
          · exact .next ((Kept.refl s).rowScrub.modMdw fun m => .modCtx m _ (.foldl (fun _ _ => .joinReach ..) _ _)).startMop
      · exact .trap (.refl s)
  · exact .held

theorem ResKept.msta (w : MWord) : ResKept M K False s (execMsta w s) := by
  unfold execMsta
  dsimp only
  split
  · refine .ite .held (.ite (.ite (.trap (.refl s)) (.trap (.refl s))) (.ite .held ?_))
    split
    · exact .trap (Kept.refl s).rowScrub
    · exact .next ((Kept.refl s).rowScrub.modMdw fun m => .modCtx m _ (.joinReach ..)).startMop
  · exact .held

theorem ResKept.mdraw (w : MWord) : ResKept M K False s (execMdraw w s) := by
  unfold execMdraw
  split
  · refine .ite .held (.ite (.trap (.refl s)) (.ite (.trap (.refl s)) (.ite .held (.ite (.trap (.refl s)) ?_))))
    split
    · exact .trap (.refl s)
    · refine .next (Kept.startMop ((Kept.refl s).rowScrub.modMdw fun m => .modCtx m _ ?_))
      exact (CtxKept.joinReach (m.ctx _) .m (tgetD m.tileRel w.tile.toNat {})).trans ⟨rfl, False.elim⟩
  · exact .held

theorem ResKept.mbeat (w : MWord) : ResKept M K False s (execMbeat w s) := by
  unfold execMbeat
  dsimp only
  split
  · next c x _ =>
    split
    · split
      · exact .trap (.refl s)
      · exact .trap (.refl s)
    · refine .ite .held ?_
      split
      · exact .trap (.refl s)
      · exact .trap (.refl s)
      · refine .ite .held ?_
        split
        · exact .trap (.refl s)
        · have hj := MdwKept.modCtx (C := False) (s.mdw c) x (f := fun k => k.joinReach .m (tgetD (s.mdw c).tileRel w.tile.toNat {})) (.joinReach ..)
          exact .next ((Kept.refl s).setMdw ((hj.rest (by rfl)).trans (.mAdvance ..)))
  · exact .held

end
end Sys2Proof.Machine
end


section
/-! SUPPORT. The frame of a word's issue (O24): every word, and the three that change special registers at issue. -/
namespace Sys2Proof.Machine

/-- Words that write lines of memory back, or undo what a hasp task has written. -/
def restoresMemory : Instr → Bool
  | .afence .. | .keyld .. | .tabort .. | .halt .. | .ctxsv .. | .ctxld .. => true
  | _ => false

def isKeyld : Instr → Bool
  | .keyld .. => true
  | _ => false

/-- Words that change special registers of their context at issue. -/
def writesSpecial : Instr → Bool
  | .eret _ | .uiret _ | .dseed .. => true
  | _ => false

theorem isKeyld_eq_false {i : Instr} (h : ∀ ic rd ra rb, i ≠ .keyld ic rd ra rb) : isKeyld i = false := by
  cases i
  case keyld => exact absurd rfl (h _ _ _ _)
  all_goals rfl

theorem restoresMemory_eq_false {i : Instr} (ha : ∀ ic ra sc, i ≠ .afence ic ra sc) (hk : ∀ ic rd ra rb, i ≠ .keyld ic rd ra rb)
    (ht : ∀ ic ra, i ≠ .tabort ic ra) (hh : ∀ ic ra, i ≠ .halt ic ra) (hs : ∀ ic rd ra, i ≠ .ctxsv ic rd ra)
    (hl : ∀ ic rd ra rb, i ≠ .ctxld ic rd ra rb) : restoresMemory i = false := by
  cases i
  case afence => exact absurd rfl (ha _ _ _)
  case keyld => exact absurd rfl (hk _ _ _ _)
  case tabort => exact absurd rfl (ht _ _)
  case halt => exact absurd rfl (hh _ _)
  case ctxsv => exact absurd rfl (hs _ _ _)
  case ctxld => exact absurd rfl (hl _ _ _ _)
  all_goals rfl

section
variable {s : State}

theorem ResKept.mono {M K C M' K' C' : Prop} {r : Res} (h : ResKept M K C s r) (hM : M' → M) (hK : K' → K) (hC : C' → C) : ResKept M' K' C' s r := by
  intro t ht
  obtain ⟨hg, hm, hk, hd⟩ := h t ht
  exact ⟨hg, fun a => hm (hM a), fun a => hk (hK a), fun c => ⟨(hd c).1, fun x => ⟨((hd c).2 x).1, fun a => ((hd c).2 x).2 (hC a)⟩⟩⟩

/-- Every M-word keeps the frame, but for the draw counter. -/
theorem exec_kept_of_mParts {M K : Prop} {i : Instr} {p : BitVec 8 × MWord} (h : mParts i = some p) : ResKept M K False s (exec i s) := by
  cases i <;> dsimp only [exec]
  case mma w | mmag w => exact .mmaGo _ w
  case mwalk w => exact .walkGo _ w
  case mwres w => exact .resumeGo _ w
  case mzero w => exact .mzero w
  case mqpop w => exact .mqpop w
  case mlook w => exact .mlook w
  case mldbSpad w => exact .mldbSpad w
  case mldbAcc w => exact .mldbAcc w
  case msta w => exact .msta w
  case mdraw w => exact .mdraw w
  case mbeat w => exact .mbeat w
  case mNop | mempty | mwait =>
    dsimp only [execMNop, execMempty, execMwait]
    exact .mTileWord fun m _ => .refl m
  case mtype | mbend =>
    dsimp only [execMtype, execMbend]
    exact .mTileWord fun _ _ => .of_ctxs rfl rfl
  case mfull =>
    dsimp only [execMfull]
    exact .mTileWord fun _ _ => .setTile ..
  case mexit | mset =>
    dsimp only [execMexit, execMset]
    exact .mTileWord fun m x => .modCtx m x ⟨rfl, fun _ => rfl⟩
  all_goals cases h

/-- Every S-word and heath word but ERET, UIRET and DSEED keeps the frame; memory and key slots have their own words. -/
theorem exec_kept_of_encodeS {C : Prop} {i : Instr} (h : (encodeS i).isSome = true) (hw : writesSpecial i = false) :
    ResKept (restoresMemory i = false) (isKeyld i = false) C s (exec i s) := by
  cases i <;> dsimp only [exec]
  case add | sub | and | or | xor | shl | shr | sra | mul | mulh | mulhu | div | divu | rem | remu | min | max | minu | maxu | seq | sne
      | slt | sltu | sge | sgeu =>
    dsimp only [execAdd, execSub, execAnd, execOr, execXor, execShl, execShr, execSra, execMul, execMulh, execMulhu, execDiv, execDivu
      , execRem, execRemu, execMin, execMax, execMinu, execMaxu, execSeq, execSne, execSlt, execSltu, execSge, execSgeu, sAlu]
    exact .sIssue _ _ _
  case addi | andi | ori | xori | shli | shri | srai | slti | sltiu | lih =>
    dsimp only [execAddi, execAndi, execOri, execXori, execShli, execShri, execSrai, execSlti, execSltiu, execLih, sAluImm]
    exact .sIssue _ _ _
  case addd | subd | shld | shrd | srad | adddi =>
    dsimp only [execAddd, execSubd, execShld, execShrd, execSrad, execAdddi, sPair]
    exact .sIssue _ _ _
  case gtcr | gap | tlook | nop | tage =>
    dsimp only [execGtcr, execGap, execTlook, execNop, execTage]
    exact .sIssue _ _ _
  case beq | bne | blt | bge | bltu | bgeu =>
    dsimp only [execBeq, execBne, execBlt, execBge, execBltu, execBgeu]
    exact .sBranch _ _ _ _ _
  case jal => exact .jal _ _ _
  case jalr => exact .jalr _ _ _ _
  case loop => exact .loop _ _ _ _
  case qpush => exact .qpush _ _ _
  case qpop | qpeek =>
    dsimp only [execQpop, execQpeek]
    exact .qTake _ _ _ _
  case waitg => exact .waitg _ _
  case exit => exact .exit _
  case csrr => exact .csrr _ _ _
  case csrw => exact .csrw _ _ _
  case ldb | ldh | ldw | ldd =>
    dsimp only [execLdb, execLdh, execLdw, execLdd]
    exact .sLoad _ _ _ _ _ _
  case stb | sth | stw | std =>
    dsimp only [execStb, execSth, execStw, execStd]
    exact .sStore _ _ _ _ _
  case lds => exact .lds _ _ _ _
  case sts => exact .sts _ _ _
  case tset => exact .tset _ _ _
  case tinv => exact .tinv _ _
  case bdecl => exact .bdecl _ _
  case bstateFull => exact .bstateFull _ _
  case bstateDrain => exact .bstateDrain _ _
  case bquery => exact .bquery _ _ _
  case sbfw => exact .sbfw _ _ _ _
  case sew => exact .sew _ _ _
  case sego => exact .sego _ _
  case segoResume => exact .segoResume _ _
  case segoDrop => exact .segoDrop _ _
  case sepop => exact .sepop _ _
  case sechain => exact .sechain _ _ _
  case rqpage => exact .rqpage _ _ _
  case fence => exact .fence _ _ _ _ _
  case atomAdd | atomAnd | atomOr | atomXor | atomMin | atomMax | atomSwap | redAdd | redAnd | redOr | redXor | redMin | redMax =>
    dsimp only [execAtomAdd, execAtomAnd, execAtomOr, execAtomXor, execAtomMin, execAtomMax, execAtomSwap, execRedAdd, execRedAnd, execRedOr
      , execRedXor, execRedMin, execRedMax]
    exact .doAtom _ _ _ _ _ _ _ _
  case acas | fredAdd | fredMin | fredMax | sems | bari | barv | bard | barx | bart =>
    dsimp only [execAcas, execFredAdd, execFredMin, execFredMax, execSems, execBari, execBarv, execBard, execBarx, execBart, doFred]
    exact .sGuard (.syncGo _ _ _ _ _ _ _ _ _)
  case semw | waitqData | waitqSpace | barw =>
    dsimp only [execSemw, execWaitqData, execWaitqSpace, execBarw, doWaitq]
    exact .sGuard (.syncWait _ _ _ _ _ _ _ _ _)
  case apop => exact .apop _ _
  case uien => exact .uien _ _
  case lnch => exact .lnch _ _ _ _
  case hspdecl => exact .hspdecl _ _ _
  case tbegin => exact .tbegin _ _
  case tend => exact .tend _
  case dtopo => exact .dtopo _ _
  case mdeq => exact .mdeq _ _ _ _
  case bdwait => exact .bdwait _ _ _ _
  case trap => exact .trapWord _ _
  case twld => exact .twld _ _ _ _
  case hgemv | hred | hland | hwalk | hscan | hcopy =>
    dsimp only [execHgemv, execHred, execHland, execHwalk, execHscan, execHcopy]
    exact .hPush _ _ _
  case hrow => exact .hrow _ _ _
  case hfence => exact .hfence _ _
  case hwait => exact .hwait _ _
  case hstat => exact .hstat _ _ _
  case hpost | hpostErr =>
    dsimp only [execHpost, execHpostErr]
    exact .doHpost _ _ _ _
  case afence => exact (ResKept.afence _ _ _).mono Bool.noConfusion id id
  case tabort => exact (ResKept.tabort _ _).mono Bool.noConfusion id id
  case halt => exact (ResKept.halt _ _).mono Bool.noConfusion id id
  case ctxsv => exact (ResKept.ctxsv _ _ _).mono Bool.noConfusion id id
  case ctxld => exact (ResKept.ctxld _ _ _ _).mono Bool.noConfusion id id
  case keyld => exact (ResKept.keyld _ _ _ _).mono Bool.noConfusion Bool.noConfusion id
  case eret | uiret | dseed => cases hw
  all_goals cases h

theorem exec_kept {i : Instr} (h : (encode i).isSome = true) (hw : writesSpecial i = false) :
    ResKept (restoresMemory i = false) (isKeyld i = false) (vParts i = none ∧ mParts i = none) s (exec i s) := by
  cases hv : vParts i with
  | some p =>
    rw [exec_eq_vGo hv]
    exact (ResKept.vGo i).mono id id fun h => nomatch h.1
  | none =>
    cases hm : mParts i with
    | some p => exact (exec_kept_of_mParts hm).mono id id fun h => nomatch h.2
    | none =>
      refine exec_kept_of_encodeS ?_ hw
      simp only [encode, encodeV, encodeM, hv, hm, Option.map_none] at h
      split at h
      · next hs => simp [hs]
      · cases h

/-! ## ERET, UIRET and DSEED (R166, R245, R375) -/

/-- The frame with contexts related by `R`. -/
structure KeptBut (R : Ctx → Ctx → Prop) (s t : State) : Prop where
  gtc : t.gtc = s.gtc
  mem : t.mem = s.mem
  keys : t.keys = s.keys
  controls : ∀ c, (t.mdw c).controls = (s.mdw c).controls
  ctx : ∀ c x, R (s.ctx c x) (t.ctx c x)

theorem Kept.but {R : Ctx → Ctx → Prop} {t : State} (hR : ∀ k j, CtxKept True k j → R k j) (h : Kept True True True s t) : KeptBut R s t :=
  ⟨h.gtc, h.mem trivial, h.keys trivial, fun c => (h.mdw c).1, fun c x => hR _ _ ((h.mdw c).2 x)⟩

theorem KeptBut.modCtx {R : Ctx → Ctx → Prop} {t : State} {c x : Nat} {f : Ctx → Ctx} (h : KeptBut R s t) (hf : ∀ k j, R k j → R k (f j)) :
    KeptBut R s (t.modCtx c x f) := by
  refine ⟨h.gtc, h.mem, h.keys, fun d => ?_, fun d y => ?_⟩
  · by_cases hd : d = c
    · subst hd
      rw [State.modCtx_mdw]
      exact h.controls d
    · rw [State.modCtx, State.modMdw_mdw_ne _ _ hd]
      exact h.controls d
  · by_cases hd : d = c
    · subst hd
      by_cases hy : y = x
      · subst hy
        rw [State.modCtx_ctx]
        exact hf _ _ (h.ctx d y)
      · have ho : (t.modCtx d x f).ctx d y = t.ctx d y := (onlyCtx_modCtx t d x f).ctxs y hy
        rw [ho]
        exact h.ctx d y
    · have ho : (t.modCtx c x f).mdw d = t.mdw d := (onlyCtx_modCtx t c x f).meadows d hd
      simp only [State.ctx, ho]
      exact h.ctx d y

/-- A guarded word keeps such a frame when its effect does. -/
theorem KeptBut.sGuard {R : Ctx → Ctx → Prop} (hR : ∀ k j, CtxKept True k j → R k j) {regs : List Nat} {enc : Option (Nat × W64)} {k : Res}
    (hk : ∀ t, k = .next t → KeptBut R s t) : ∀ t, sGuard s regs enc k = .next t → KeptBut R s t := by
  intro t ht
  unfold Machine.sGuard at ht
  split at ht
  · cases ht
    exact (Kept.refl s).but hR
  · split at ht
    · cases ht
      exact (Kept.refl s).raise.but hR
    · split at ht
      · cases ht
        exact (Kept.refl s).raise.but hR
      · exact hk t ht

/-- ERET leaves all special registers but TCAUSE and ISTAT. -/
def eretKeeps (k j : Ctx) : Prop :=
  (j.tval, j.tpc, j.uivec, j.preds, j.uistat, j.shadow, j.seed, j.ctr) = (k.tval, k.tpc, k.uivec, k.preds, k.uistat, k.shadow, k.seed, k.ctr)

theorem Ctx.leaveTrap_eretKeeps (k : Ctx) (ic : BitVec 2) (mtc : Nat) : eretKeeps k (k.leaveTrap ic mtc) := by
  unfold Ctx.leaveTrap
  dsimp only
  repeat' split
  all_goals rfl

theorem exec_eret_kept (ic : BitVec 2) (t : State) : exec (.eret ic) s = .next t → KeptBut eretKeeps s t := by
  have hR (k j : Ctx) (h : CtxKept True k j) : eretKeeps k j := by
    obtain ⟨hs, hc⟩ := h
    simp only [Ctx.special, Prod.mk.injEq] at hs
    obtain ⟨h1, h2, h3, h4, -, -, h5, h6, h7⟩ := hs
    simp only [eretKeeps, h1, h2, h3, h4, h5, h6, h7, hc trivial]
  refine KeptBut.sGuard hR (fun t ht => ?_) t
  dsimp only at ht
  split at ht
  · cases ht
    exact (Kept.refl s).raise.but hR
  · split at ht
    · cases ht
      exact (Kept.refl s).raise.but hR
    · cases ht
      refine ((Kept.refl s).but hR).modCtx fun k j h => ?_
      have hl : eretKeeps k (j.leaveTrap ic (s.mdw s.curM).mtc) := (Ctx.leaveTrap_eretKeeps ..).trans h
      split
      · exact hl
      · exact hl

/-- UIRET leaves all special registers but UISTAT and the shadows. -/
def uiretKeeps (k j : Ctx) : Prop :=
  (j.tval, j.tpc, j.uivec, j.preds, j.tcause, j.istat, j.seed, j.ctr) = (k.tval, k.tpc, k.uivec, k.preds, k.tcause, k.istat, k.seed, k.ctr)

theorem exec_uiret_kept (ic : BitVec 2) (t : State) : exec (.uiret ic) s = .next t → KeptBut uiretKeeps s t := by
  have hR (k j : Ctx) (h : CtxKept True k j) : uiretKeeps k j := by
    obtain ⟨hs, hc⟩ := h
    simp only [Ctx.special, Prod.mk.injEq] at hs
    obtain ⟨h1, h2, h3, h4, h5, h6, -, -, h7⟩ := hs
    simp only [uiretKeeps, h1, h2, h3, h4, h5, h6, h7, hc trivial]
  dsimp only [exec, execUiret]
  refine KeptBut.sGuard hR (fun t ht => ?_) t
  split at ht
  · cases ht
    exact (Kept.refl s).raise.but hR
  · split at ht
    · cases ht
      exact (Kept.refl s).raise.but hR
    · cases ht
      exact ((Kept.refl s).but hR).modCtx fun k j h => h

/-- DSEED leaves all special registers but the draw key and counter. -/
def dseedKeeps (k j : Ctx) : Prop :=
  (j.tval, j.tpc, j.uivec, j.preds, j.tcause, j.istat, j.uistat, j.shadow) =
    (k.tval, k.tpc, k.uivec, k.preds, k.tcause, k.istat, k.uistat, k.shadow)

theorem exec_dseed_kept (ic : BitVec 2) (ra : BitVec 5) (rb : BitVec 6) (t : State) : exec (.dseed ic ra rb) s = .next t → KeptBut dseedKeeps s t := by
  have hR (k j : Ctx) (h : CtxKept True k j) : dseedKeeps k j := by
    obtain ⟨hs, -⟩ := h
    simp only [Ctx.special, Prod.mk.injEq] at hs
    obtain ⟨h1, h2, h3, h4, h5, h6, h7, h8, -⟩ := hs
    simp only [dseedKeeps, h1, h2, h3, h4, h5, h6, h7, h8]
  dsimp only [exec, execDseed]
  refine KeptBut.sGuard hR (fun t ht => ?_) t
  cases ht
  exact ((Kept.refl s).setCore.but hR).modCtx fun k j h => h

end
end Sys2Proof.Machine

namespace Sys2Proof
open Sys2Proof.Machine

/-- What O24 lists of a meadow; LOOK is a field of MBPOL (R312). -/
theorem Machine.Meadow.controls_frame {m n : Meadow} (h : n.controls = m.controls) :
    n.tvec = m.tvec ∧ n.relmask = m.relmask ∧ n.window = m.window ∧ n.spad = m.spad ∧ n.sbf = m.sbf ∧ n.tags = m.tags ∧ n.bufs = m.bufs ∧
      n.topo = m.topo ∧ n.look = m.look ∧ n.ageLimit = m.ageLimit ∧ n.mbpol = m.mbpol ∧ n.beatLimit = m.beatLimit ∧ n.missCount = m.missCount ∧
      n.prio = m.prio ∧ n.emeter = m.emeter ∧ n.mtc = m.mtc := by
  simp only [Meadow.controls, Prod.mk.injEq] at h
  obtain ⟨h1, h2, h3, h4, h5, h6, h7, h8, h9, h10, h11, h12, h13, h14, h15⟩ := h
  exact ⟨h1, h2, h3, h4, h5, h6, h7, h8, by rw [Meadow.look, Meadow.look, h10], h9, h10, h11, h12, h13, h14, h15⟩

/-- Settles O24: every word but ERET, UIRET and DSEED keeps the whole frame, by the shared operations that it is made of; those three keep what
is not theirs to change. -/
theorem wordFrames : Obligations.WordFrames := by
  unfold Obligations.WordFrames
  intro s t i hi hex
  by_cases hw : writesSpecial i = true
  · cases i
    case eret ic =>
      obtain ⟨hg, hm, hk, hc, hx⟩ := exec_eret_kept ic t hex
      refine ⟨hg, fun _ => hk, fun _ _ _ _ _ _ a => congrArg (Memory.read · a) hm, fun c => Meadow.controls_frame (hc c),
        fun c x => ?_⟩
      have h := hx c x
      simp only [eretKeeps, Prod.mk.injEq] at h
      obtain ⟨h1, h2, h3, h4, h5, h6, h7, h8⟩ := h
      exact ⟨h1, h2, h3, h4, fun hne => absurd rfl (hne ic), fun _ => ⟨h5, h6⟩, fun _ => ⟨h7, fun _ _ => h8⟩⟩
    case uiret ic =>
      obtain ⟨hg, hm, hk, hc, hx⟩ := exec_uiret_kept ic t hex
      refine ⟨hg, fun _ => hk, fun _ _ _ _ _ _ a => congrArg (Memory.read · a) hm, fun c => Meadow.controls_frame (hc c),
        fun c x => ?_⟩
      have h := hx c x
      simp only [uiretKeeps, Prod.mk.injEq] at h
      obtain ⟨h1, h2, h3, h4, h5, h6, h7, h8⟩ := h
      exact ⟨h1, h2, h3, h4, fun _ => ⟨h5, h6⟩, fun hne => absurd rfl (hne ic), fun _ => ⟨h7, fun _ _ => h8⟩⟩
    case dseed ic p r =>
      obtain ⟨hg, hm, hk, hc, hx⟩ := exec_dseed_kept ic p r t hex
      refine ⟨hg, fun _ => hk, fun _ _ _ _ _ _ a => congrArg (Memory.read · a) hm, fun c => Meadow.controls_frame (hc c),
        fun c x => ?_⟩
      have h := hx c x
      simp only [dseedKeeps, Prod.mk.injEq] at h
      obtain ⟨h1, h2, h3, h4, h5, h6, h7, h8⟩ := h
      exact ⟨h1, h2, h3, h4, fun _ => ⟨h5, h6⟩, fun _ => ⟨h7, h8⟩, fun hne => absurd rfl (hne ic p r)⟩
    all_goals cases hw
  · obtain ⟨hg, hm, hk, hd⟩ := exec_kept hi (Bool.eq_false_iff.2 hw) t hex
    refine ⟨hg, fun hne => hk (isKeyld_eq_false hne), fun ha hkl hta hh hsv hld a =>
      congrArg (Memory.read · a) (hm (restoresMemory_eq_false ha hkl hta hh hsv hld)), fun c => ?_, fun c x => ?_⟩
    · exact Meadow.controls_frame (hd c).1
    · obtain ⟨h, hctr⟩ := (hd c).2 x
      simp only [Ctx.special, Prod.mk.injEq] at h
      obtain ⟨h1, h2, h3, h4, h5, h6, h7, h8, h9⟩ := h
      exact ⟨h1, h2, h3, h4, fun _ => ⟨h5, h6⟩, fun _ => ⟨h7, h8⟩, fun _ => ⟨h9, fun hv hm => hctr ⟨hv, hm⟩⟩⟩

end Sys2Proof
end


section
/-! SUPPORT. The issue of V-words (O27): what leads up to a sweep changes the order and the landing entries of its context alone, and the
issue itself moves the counter on. -/
namespace Sys2Proof.Machine

/-! ## The order taken over at issue (R115, R218) -/

theorem Ctx.foldl_joinReach_v {α : Type} (g : α → Reach) (l : List α) (k : Ctx) :
    ∃ r, l.foldl (fun k a => k.joinReach .v (g a)) k = { k with reachV := r } := by
  induction l generalizing k with
  | nil => exact ⟨k.reachV, rfl⟩
  | cons a l ih => exact ih (k.joinReach .v (g a))

theorem Ctx.vJoin_eq (k : Ctx) (g : Nat) (pops : List (Nat × Nat)) : ∃ r, k.vJoin g pops = { k with reachV := r } := by
  unfold Ctx.vJoin
  generalize [0, 1, 2, 3, 4, 5, 6, 7] = qs
  induction qs generalizing k with
  | nil => exact ⟨k.reachV, rfl⟩
  | cons q qs ih =>
    obtain ⟨r, hr⟩ := foldl_joinReach_v id (if q < 4 then (((k.queue64 q).ready g).take (countOf pops q)).map (·.rel)
      else (((k.queueRow q).ready g).take (countOf pops q)).map (·.rel)) k
    rw [List.foldl_cons]
    simp only [id] at hr
    rw [hr]
    exact ih _

theorem Ctx.vTiles_eq (k : Ctx) (m : Meadow) (rows : List Nat) : ∃ r, k.vTiles m rows = { k with reachV := r } := foldl_joinReach_v ..

theorem State.vReached_ctx (s : State) (c x op : Nat) (w : VWord) :
    ∃ r, (s.vReached c x op w).ctx c x = { s.ctx c x with reachV := r } := by
  obtain ⟨r, hr⟩ := Ctx.vJoin_eq (s.ctx c x) s.gtc (vPops op w)
  obtain ⟨r', hr'⟩ := Ctx.vTiles_eq { s.ctx c x with reachV := r } (s.mdw c) (vTouched op w)
  refine ⟨r', ?_⟩
  rw [State.vReached, State.ctx, State.modMdw_mdw, Meadow.modCtx_ctx, ← State.ctx, hr, hr']

/-! ## Landing entries -/

/-- What an issue keeps of the fields that its V-stream's word reads. -/
def Ctx.issuePart (k : Ctx) := (k.sc, k.preds, k.vpc)

/-- Only context x has changed, outside what a word reads of it, and it holds landing entries due in the further MTC cycles `l`. -/
structure Lands (s t : State) (c x : Nat) (l : List Nat) : Prop where
  only : OnlyCtx s t c x
  kept : (t.ctx c x).issuePart = (s.ctx c x).issuePart
  lams : ∃ es, (t.ctx c x).landing = (s.ctx c x).landing ++ es ∧ es.map (·.lam) = l

section
variable {s t u : State} {c x : Nat} {l l' : List Nat}

theorem Lands.of_eq (hm : t.meadows = s.meadows) (hk : t.keys = s.keys) (h : t.mem = s.mem) : Lands s t c x [] where
  only := onlyCtx_of_eq c x hm hk h
  kept := by simp only [State.ctx, State.mdw, hm]
  lams := ⟨[], by simp only [State.ctx, State.mdw, hm, List.append_nil], rfl⟩

theorem Lands.trans (h : Lands s t c x l) (g : Lands t u c x l') : Lands s u c x (l ++ l') := by
  obtain ⟨es, he, hl⟩ := h.lams
  obtain ⟨es', he', hl'⟩ := g.lams
  exact ⟨onlyCtx_trans h.only g.only, g.kept.trans h.kept, es ++ es', by rw [he', he, List.append_assoc], by rw [List.map_append, hl, hl']⟩

/-- What follows outside meadows, keys and memory. -/
theorem Lands.rest (h : Lands s t c x l) (hu : (u.meadows, u.keys, u.mem) = (t.meadows, t.keys, t.mem)) : Lands s u c x l := by
  simp only [Prod.mk.injEq] at hu
  obtain ⟨hm, hk, hmem⟩ := hu
  rw [← List.append_nil l]
  exact h.trans (.of_eq hm hk hmem)

theorem lands_addEntry (s : State) (c x : Nat) {e : LandEntry} {lam : Nat} (he : e.lam = lam) :
    Lands s (s.modCtx c x fun k => { k with landing := k.landing ++ [e] }) c x [lam] where
  only := onlyCtx_modCtx ..
  kept := by rw [State.modCtx_ctx]; rfl
  lams := ⟨[e], by rw [State.modCtx_ctx], by rw [← he]; rfl⟩

/-- A fold whose every step takes an entry, over a state carried in a larger value. -/
theorem lands_foldl {α β : Type} (p : β → State) (g : α → Nat) {f : β → α → β} (h : ∀ r a, Lands (p r) (p (f r a)) c x [g a]) (as : List α)
    (r : β) : Lands (p r) (p (as.foldl f r)) c x (as.map g) := by
  induction as generalizing r with
  | nil => exact .of_eq rfl rfl rfl
  | cons a as ih => exact (h r a).trans (ih _)

theorem lands_startLoad (s : State) (c x : Nat) (st : StreamId) (pc : W32) (lam bytes : Nat) (dest : LandDest) (ps : List Part) (hasp : Bool)
    (f : LandEntry → LandEntry) (hf : ∀ e, (f e).lam = e.lam) : Lands s (s.startLoad c x st pc lam bytes dest ps hasp f) c x [lam] := by
  have h3 (dl : Nat) : Lands s (State.arbEnter { s.nextSeq.2 with fresh := s.nextSeq.2.fresh + ps.length } s.nextSeq.1 .arrayRead dl ps) c x [] := by
    obtain ⟨hm, hk, hmem, -, -⟩ := arbEnter_frame { s.nextSeq.2 with fresh := s.nextSeq.2.fresh + ps.length } s.nextSeq.1 .arrayRead dl ps
    exact Lands.of_eq hm hk hmem
  unfold State.startLoad
  dsimp only
  split
  all_goals
    refine Lands.rest (Lands.trans (l := []) (l' := [lam]) (h3 _) (lands_addEntry _ c x ?_)) (by rfl)
    exact hf _

theorem map_zipIdx_snd {α β : Type} (l : List α) (g : Nat → β) : l.zipIdx.map (fun q => g q.2) = (List.range l.length).map g := by
  rw [List.range_eq_range', ← List.zipIdx_map_snd 0 l, List.map_map]
  rfl

/-- VLD takes an entry for each of its addresses (R197). -/
theorem lands_vStartLoads (s : State) (c x : Nat) (w : VWord) (as_ : List Nat) : Lands s (s.vStartLoads c x w as_) c x
    ((List.range as_.length).map fun j => (s.mdw c).mtc + j + opImmN w.src2 % 4096) := by
  have hl : ((s.mdw c).stepParts as_).length = as_.length := List.length_map ..
  rw [← hl, ← map_zipIdx_snd]
  unfold State.vStartLoads
  refine lands_foldl id (fun q : List Part × Nat => (s.mdw c).mtc + q.2 + opImmN w.src2 % 4096) (fun u q => ?_) _ s
  dsimp only [id]
  refine lands_startLoad _ _ _ _ _ _ _ _ _ _ _ ?_
  exact fun _ => rfl

/-- VLDS takes an entry for each of its steps (R200). -/
theorem lands_vTakeEntries (s : State) (c x : Nat) (w : VWord) (as_ : List Nat) : Lands s (s.vTakeEntries c x w as_).1 c x
    ((List.range as_.length).map fun j => (s.mdw c).mtc + j + opImmN w.src2 % 4096) := by
  rw [← map_zipIdx_snd]
  refine lands_foldl (Prod.fst : State × List Nat → State) (fun q => (s.mdw c).mtc + q.2 + opImmN w.src2 % 4096) (fun r q => ?_) as_.zipIdx (s, [])
  dsimp only
  refine Lands.trans (t := r.1.nextSeq.2) (l := []) (.of_eq rfl rfl rfl) (lands_addEntry _ c x ?_)
  rfl

/-! ## The issue itself -/

/-- What a meadow's contexts share is kept. -/
theorem onlyCtx_shared {α : Type} (h : OnlyCtx s t c x) (f : Meadow → α) (hf : ∀ m, f { m with ctxs := [] } = f m) :
    f (t.mdw c) = f (s.mdw c) := by rw [← hf, h.shared, hf]

theorem Meadow.takeTurn_ctx (m : Meadow) (u : IssueUnit) (x : Nat) (ic : BitVec 2) (busy : Nat) : (m.takeTurn u x ic busy).ctx x =
    { m.ctx x with readyRun := tdel (m.ctx x).readyRun (unitIx u), promoted := tdel (m.ctx x).promoted (unitIx u) } :=
  Meadow.modCtx_ctx m x fun k => { k with readyRun := tdel k.readyRun (unitIx u), promoted := tdel k.promoted (unitIx u) }

theorem Meadow.vIssued_ctx (m : Meadow) (x : Nat) (ic : BitVec 2) (busy : Nat) : ∃ r p, (m.vIssued x ic busy).ctx x =
    { m.ctx x with vpc := (m.ctx x).vpc + 12, vNextAt := m.mtc + icGap ic, readyRun := r, promoted := p } := by
  unfold Meadow.vIssued
  rw [Meadow.takeTurn_ctx, Meadow.modCtx_ctx]
  exact ⟨_, _, rfl⟩

theorem Meadow.vIssued_ctx_ne (m : Meadow) {x y : Nat} (ic : BitVec 2) (busy : Nat) (h : y ≠ x) : (m.vIssued x ic busy).ctx y = m.ctx y :=
  (Meadow.setCtx_ctx_ne _ _ h).trans (Meadow.setCtx_ctx_ne _ _ h)

/-- A word that went through `t`, where its meadow changed by `g` beside the issue, has issued. -/
theorem vIssued_of_modMdw {ic : BitVec 2} {busy : Nat} {g : Meadow → Meadow} (h : OnlyCtx s t c x)
    (hk : (t.ctx c x).issuePart = (s.ctx c x).issuePart) (hr : ∀ m, (g m).rows = m.rows) (hp : ∀ m, (g m).rowPoison = m.rowPoison)
    (hm : ∀ m, (g m).mtc = m.mtc) (hx : ∀ m, ((g m).ctx x).issuePart = (m.ctx x).issuePart) (hy : ∀ m y, y ≠ x → (g m).ctx y = m.ctx y) :
    VIssued s (t.modMdw c fun m => (g m).vIssued x ic busy) c x ic := by
  obtain ⟨rr, pr, hc⟩ := (g (t.mdw c)).vIssued_ctx x ic busy
  have hmdw : (t.modMdw c fun m => (g m).vIssued x ic busy).mdw c = (g (t.mdw c)).vIssued x ic busy := State.modMdw_mdw ..
  have hmtc : (t.mdw c).mtc = (s.mdw c).mtc := onlyCtx_shared h (·.mtc) fun _ => rfl
  have hkx := (hx (t.mdw c)).trans hk
  simp only [Ctx.issuePart, Prod.mk.injEq] at hkx
  obtain ⟨hsc, hpreds, hpc⟩ := hkx
  refine ⟨onlyMdw_trans (onlyMdw_of_ctx h) (onlyMdw_modMdw ..), fun y hne => ?_, ?_, ?_, ?_, fun v => ?_, fun v => ?_, fun p => ?_⟩
  · simp only [State.ctx, hmdw, Meadow.vIssued_ctx_ne _ _ _ hne, hy _ _ hne]
    exact h.ctxs y hne
  · simp only [State.ctx, hmdw, hc, hpc]
  · simp only [State.ctx, hmdw, hc, hm]
    rw [hmtc]
  · simp only [State.ctx, hmdw, hc, hsc]
  · rw [hmdw]
    exact congrArg (tgetD · v 0) ((hr _).trans (onlyCtx_shared h (·.rows) fun _ => rfl))
  · rw [hmdw]
    exact congrArg (List.contains · v) ((hp _).trans (onlyCtx_shared h (·.rowPoison) fun _ => rfl))
  · simp only [State.ctx, hmdw, hc, Ctx.pred, hpreds]

theorem vIssued_rest {ic : BitVec 2} (h : VIssued s t c x ic) (hu : (u.meadows, u.keys, u.mem) = (t.meadows, t.keys, t.mem)) : VIssued s u c x ic := by
  simp only [Prod.mk.injEq] at hu
  obtain ⟨hm, hk, hmem⟩ := hu
  obtain ⟨ho, hx, hpc, hn, hs, hr, hp, hpr⟩ := h
  have hd (d : Nat) : u.mdw d = t.mdw d := by simp only [State.mdw, hm]
  have hc (d y : Nat) : u.ctx d y = t.ctx d y := by simp only [State.ctx, hd]
  exact ⟨onlyMdw_trans ho ⟨fun d _ => hd d, hk, fun a => by rw [hmem]⟩, by simpa only [hc] using hx, by rw [hc, hpc], by rw [hc, hn]
    , by rw [hc, hs], by simpa only [hd] using hr, by simpa only [hd] using hp, by simpa only [hc] using hpr⟩

/-! ## The sweep's start (R116) -/

theorem State.vReached_lands (s : State) (c x op : Nat) (w : VWord) : Lands s (s.vReached c x op w) c x [] := by
  obtain ⟨r, hr⟩ := s.vReached_ctx c x op w
  refine ⟨?_, by rw [hr]; rfl, [], by rw [hr, List.append_nil], rfl⟩
  exact onlyCtx_modCtx s c x fun k => (k.vJoin s.gtc (vPops op w)).vTiles (s.mdw c) (vTouched op w)

/-- Entries that a word takes at its issue: VLD one for each address, VLDS one for each step (R197, R200). -/
def vEntryCount (k : Ctx) (g op : Nat) (w : VWord) : Nat :=
  if op = 0x70 then (vMemAddrs k g op w).length else if op = 0x72 then rowCount w.n else 0

theorem vSpadAddrs_length (k : Ctx) (g op : Nat) (w : VWord) : (vSpadAddrs k g op w).length = rowCount w.n := by
  rw [vSpadAddrs, List.length_map, List.length_range, vSteps]

theorem State.vLanded_lands (s : State) (c x op : Nat) (w : VWord) : Lands s (s.vLanded c x op w).1 c x
    ((List.range (vEntryCount (s.ctx c x) s.gtc op w)).map fun j => (s.mdw c).mtc + j + opImmN w.src2 % 4096) := by
  unfold State.vLanded vEntryCount
  dsimp only
  by_cases h0 : op = 0x70
  · subst h0
    exact lands_vStartLoads ..
  · by_cases h2 : op = 0x72
    · subst h2
      simp only [if_false, if_true, true_or, Nat.reduceEqDiff]
      rw [← vSpadAddrs_length ((s.mdw c).ctx x) s.gtc 0x72 w]
      exact lands_vTakeEntries ..
    · simp only [h0, h2, if_false]
      exact .of_eq rfl rfl rfl

/-- What leads up to the launch takes the word's landing entries and changes nothing else that the issue speaks of. -/
theorem State.vLead_lands (s : State) (c x op : Nat) (w : VWord) : Lands s ((s.vReached c x op w).vLanded c x op w).1.nextSeq.2 c x
    ((List.range (vEntryCount (s.ctx c x) s.gtc op w)).map fun j => (s.mdw c).mtc + j + opImmN w.src2 % 4096) := by
  obtain ⟨r, hr⟩ := s.vReached_ctx c x op w
  have h := (s.vReached_lands c x op w).trans ((s.vReached c x op w).vLanded_lands c x op w)
  have hcount : vEntryCount ((s.vReached c x op w).ctx c x) (s.vReached c x op w).gtc op w = vEntryCount (s.ctx c x) s.gtc op w := by
    rw [hr]
    rfl
  rw [hcount, onlyCtx_shared (s.vReached_lands c x op w).only (·.mtc) (fun _ => rfl), List.nil_append] at h
  exact h.rest rfl

theorem Meadow.addFlight_ctx (m : Meadow) (x op : Nat) (w : VWord) (f : VFlight) : ∃ n, (m.addFlight x op w f).ctx x = { m.ctx x with ctr := n } := by
  have h : (m.addFlight x op w f).ctx x = if vRounds op w then { m.ctx x with ctr := (m.ctx x).ctr + BitVec.ofNat 32 (vSteps w) } else m.ctx x :=
    Meadow.modCtx_ctx m x fun k => if vRounds op w then { k with ctr := k.ctr + BitVec.ofNat 32 (vSteps w) } else k
  rw [h]
  split
  · exact ⟨_, rfl⟩
  · exact ⟨_, rfl⟩

theorem State.vStart_issues (s : State) (c x op : Nat) (ins : Instr) (w : VWord) : ∃ f,
    VIssued s (s.vStart c x op ins w) c x w.ic ∧ ((s.vStart c x op ins w).mdw c).flights = (s.mdw c).flights ++ [f] ∧
    (f.ins = ins ∧ f.ctx = x ∧ f.t0 = s.gtc ∧ f.n = vSteps w ∧ f.step = 0 ∧ f.done = []) ∧
    ∃ es, ((s.vStart c x op ins w).ctx c x).landing = (s.ctx c x).landing ++ es ∧
      es.map (·.lam) = (List.range (vEntryCount (s.ctx c x) s.gtc op w)).map fun j => (s.mdw c).mtc + j + opImmN w.src2 % 4096 := by
  obtain ⟨f, busy, es, hf, he⟩ := s.vStart_eq c x op ins w
  have hl := s.vLead_lands c x op w
  generalize ((s.vReached c x op w).vLanded c x op w).1.nextSeq.2 = t at he hl
  have hm : ((t.modMdw c fun m => (m.addFlight x op w f).vIssued x w.ic busy).now es).mdw c =
    ((t.mdw c).addFlight x op w f).vIssued x w.ic busy := State.modMdw_mdw t c fun m => (m.addFlight x op w f).vIssued x w.ic busy
  obtain ⟨n, hn⟩ := (t.mdw c).addFlight_ctx x op w f
  obtain ⟨r, p, hc⟩ := ((t.mdw c).addFlight x op w f).vIssued_ctx x w.ic busy
  refine ⟨f, ?_, ?_, hf, ?_⟩
  · rw [he]
    refine vIssued_rest (t := t.modMdw c fun m => (m.addFlight x op w f).vIssued x w.ic busy) ?_ rfl
    refine vIssued_of_modMdw hl.only hl.kept (fun _ => rfl) (fun _ => rfl) (fun _ => rfl) (fun m => ?_) fun m y hy => ?_
    · obtain ⟨n, hn⟩ := m.addFlight_ctx x op w f
      rw [hn]
      rfl
    · exact Meadow.setCtx_ctx_ne _ _ hy
  · rw [he, hm]
    exact congrArg (· ++ [f]) (onlyCtx_shared hl.only (·.flights) fun _ => rfl)
  · rw [he, State.ctx, hm, hc, hn]
    exact hl.lams

/-! ## The forms of the words (R112) -/

/-- A word of the sweep class is none of V_NOP, VMARK and VEXIT. -/
theorem sweepWords_op {i : Instr} {op : BitVec 8} {w v : VWord} (hi : i ∈ sweepWords w) (hp : vParts i = some (op, v)) :
    v = w ∧ op ∉ [0x01#8, 0xF0, 0xFF] := by
  have h : ∃ o ∉ [0x01#8, 0xF0, 0xFF], vParts i = some (o, w) := by
    unfold sweepWords at hi
    fin_cases hi
    all_goals exact ⟨_, by decide, rfl⟩
  obtain ⟨o, hne, ho⟩ := h
  rw [hp] at ho
  cases ho
  exact ⟨rfl, hne⟩

theorem vForm_bare {op : Nat} (t : ElemType) (h1 : op ≠ 0x01) (h2 : op ≠ 0xF0) (h3 : op ≠ 0xFF) : (vForm op t).bare = false := by
  unfold vForm
  simp only [h1, h2, h3, if_false, apply_ite VForm.bare]
  simp only [VForm.bare, ite_self]

section
variable {op : BitVec 8} {w : VWord} {i : Instr}

/-- A ready word of the sweep class, without latent errors and its checks passed, starts its sweep. -/
theorem exec_sweep (h : VReady s c x i op w) (hf : (vForm op.toNat w.et).bare = false) (he : (s.mdw c).ecc = [])
    (hc : s.vCheck c x op.toNat w = .go) : exec i s = .next (s.vStart c x op.toNat i w) := by
  obtain ⟨hcur, hw, hg, hfree⟩ := h
  rw [exec_eq_vGo hw]
  unfold vGo
  simp only [hcur, hw, hg, hfree, State.rowScrub, he, if_true, hc]
  cases hv : vForm op.toNat w.et
  case nop | mark | exit => rw [hv] at hf; cases hf
  all_goals rfl

theorem exec_vNop (h : VReady s c x (.vNop w) op w) : exec (.vNop w) s = .next (s.modMdw c fun m => m.vIssued x w.ic 1) := by
  obtain ⟨hcur, hw, hg, hfree⟩ := h
  rw [exec_eq_vGo hw]
  unfold vGo
  simp only [hcur, hw, hg, hfree]
  cases hw
  rfl

theorem exec_vexit (h : VReady s c x (.vexit w) op w) : exec (.vexit w) s =
    .next (s.modMdw c fun m => (m.modCtx x fun k => { k with vRun := false }).vIssued x w.ic 1) := by
  obtain ⟨hcur, hw, hg, hfree⟩ := h
  rw [exec_eq_vGo hw]
  unfold vGo
  simp only [hcur, hw, hg, hfree]
  cases hw
  rfl

/-- What VMARK does beside its issue: it takes over the order of its tile's bit and sets it (R133). -/
def Meadow.vMark (m : Meadow) (x : Nat) (w : VWord) (r : Reach) : Meadow :=
  (m.modCtx x fun k => k.vTiles m [opRow w.dst 0]).setTile (opRow w.dst 0 / 128) (opImmN w.src1 == 1) r

theorem exec_vmark (hi : i = .vmarkFull w ∨ i = .vmarkEmpty w) (h : VReady s c x i op w) : exec i s =
    .next (s.modMdw c fun m => (m.vMark x w ((s.ctx c x).reachOf .v s.seq)).vIssued x w.ic 1) := by
  obtain ⟨hcur, hw, hg, hfree⟩ := h
  rw [exec_eq_vGo hw]
  unfold vGo
  simp only [hcur, hw, hg, hfree]
  rcases hi with rfl | rfl
  · cases hw
    rfl
  · cases hw
    rfl

theorem Meadow.setTile_tileFull (m : Meadow) (n : Nat) (full : Bool) (r : Reach) (k : Nat) :
    k ∈ (m.setTile n full r).tileFull ↔ if k = n then full = true else k ∈ m.tileFull := by
  unfold Meadow.setTile
  cases full <;> by_cases hk : k = n <;> simp [hk, mem_sortedInsert]

/-- A word whose effect at issue lies in its context alone, outside what its stream reads, has issued. -/
theorem vIssued_modMdw (s : State) {ic : BitVec 2} {busy : Nat} {g : Meadow → Meadow} (hr : ∀ m, (g m).rows = m.rows)
    (hp : ∀ m, (g m).rowPoison = m.rowPoison) (hm : ∀ m, (g m).mtc = m.mtc) (hx : ∀ m, ((g m).ctx x).issuePart = (m.ctx x).issuePart)
    (hy : ∀ m y, y ≠ x → (g m).ctx y = m.ctx y) : VIssued s (s.modMdw c fun m => (g m).vIssued x ic busy) c x ic :=
  vIssued_of_modMdw (onlyCtx_of_eq c x rfl rfl rfl) rfl hr hp hm hx hy

end

end
end Sys2Proof.Machine

namespace Sys2Proof
open Sys2Proof.Machine

/-- Settles O27: a sweep's start is the launch of one flight after the entries that the word takes; V_NOP, VMARK and VEXIT are the issue with
their own effect. -/
theorem vectorWordsIssue : Obligations.VectorWordsIssue := by
  unfold Obligations.VectorWordsIssue
  refine ⟨fun s c x op w i hi h he hc => ?_, fun s c x op w => ⟨fun h => ?_, fun i hi h => ?_, fun h => ?_⟩⟩
  · obtain ⟨-, hop⟩ := sweepWords_op hi h.word
    simp only [List.mem_cons, List.not_mem_nil, or_false, not_or] at hop
    obtain ⟨h1, h2, h3⟩ := hop
    have toNat_ne {n : BitVec 8} (hn : ¬op = n) : op.toNat ≠ n.toNat := fun e => hn (BitVec.eq_of_toNat_eq e)
    have hgo := exec_sweep h (vForm_bare w.et (toNat_ne h1) (toNat_ne h2) (toNat_ne h3)) he hc
    obtain ⟨f, hv, hfl, ⟨hins, hctx, ht0, hn, hstep, hdone⟩, es, hes, hlams⟩ := s.vStart_issues c x op.toNat i w
    refine ⟨_, f, hgo, hv, hfl, hins, hctx, ht0, hn, hstep, hdone, fun hop => ?_, fun h70 h72 => ?_⟩
    · rw [hes, List.map_append, hlams]
      rcases hop with rfl | rfl <;> rfl
    · have h0 : vEntryCount (s.ctx c x) s.gtc op.toNat w = 0 := by
        rw [vEntryCount, if_neg (show op.toNat ≠ 0x70 from toNat_ne h70), if_neg (show op.toNat ≠ 0x72 from toNat_ne h72)]
      rw [h0, List.range_zero, List.map_nil, List.map_eq_nil_iff] at hlams
      rw [hes, hlams, List.append_nil]
  · exact ⟨_, exec_vNop h, vIssued_modMdw (g := id) s (fun _ => rfl) (fun _ => rfl) (fun _ => rfl) (fun _ => rfl) fun _ _ _ => rfl,
      by rw [State.modMdw_mdw]; rfl, by rw [State.modMdw_mdw]; rfl⟩
  · simp only [List.mem_cons, List.not_mem_nil, or_false] at hi
    refine ⟨_, exec_vmark hi h, ?_, fun k => ?_⟩
    · refine vIssued_modMdw s (fun _ => rfl) (fun _ => rfl) (fun _ => rfl) (fun m => ?_) fun m y hy => Meadow.setCtx_ctx_ne _ _ hy
      obtain ⟨r, hr⟩ := (m.ctx x).vTiles_eq m [opRow w.dst 0]
      have hx : (m.vMark x w ((s.ctx c x).reachOf .v s.seq)).ctx x = (m.ctx x).vTiles m [opRow w.dst 0] :=
        Meadow.modCtx_ctx m x fun k => k.vTiles m [opRow w.dst 0]
      rw [hx, hr]
      rfl
    · rw [State.modMdw_mdw]
      refine (Meadow.setTile_tileFull _ _ _ ((s.ctx c x).reachOf .v s.seq) k).trans ?_
      rw [beq_iff_eq]
      rfl
  · refine ⟨_, exec_vexit h, ?_, ?_⟩
    · refine vIssued_modMdw s (fun _ => rfl) (fun _ => rfl) (fun _ => rfl) (fun m => ?_) fun m y hy => Meadow.setCtx_ctx_ne _ _ hy
      rw [Meadow.modCtx_ctx]
      rfl
    · obtain ⟨r, p, hc⟩ := ((s.mdw c).modCtx x fun k => { k with vRun := false }).vIssued_ctx x w.ic 1
      rw [State.ctx, State.modMdw_mdw, hc, Meadow.modCtx_ctx]

end Sys2Proof
end


section
/-! SUPPORT. A step that reads a cycle late in a flight of no cycles per step (O29). -/
namespace Sys2Proof.Machine

/-- PNOT of p1 into p2. -/
def notWord : VWord :=
  { ic := 1, et := .i32, pred := 0, sense := false, rm := .rne, n := 1, dst := .rows 2 0 false false, src1 := .rows 1 0 false false, src2 := .imm 0 }

/-- A flight of PNOT whose steps take no cycle each: from GTC 0 its only step reads in cycle 0, and its result is due in cycle 2. -/
def idleFlight : VFlight := { id := 0, ctx := 0, ins := .pnot notWord, pc := 0, t0 := 0, n := 1, c := 0, lat := 2 }

/-- Cycle 1, in which the step of that flight has not read yet. -/
def lateStep : State := { gtc := 1, meadows := [(0, { flights := [idleFlight] })] }

/-- The dues of the results that a step leaves in meadow 0's flight 0. -/
def duesAfter : Res → Option (List Nat)
  | .next t => ((t.mdw 0).flights.find? (·.id == 0)).map fun g => g.done.map (·.due)
  | _ => none

theorem lateStep_sweeping : Sweeping lateStep 0 idleFlight (.pnot notWord) where
  found := rfl
  word := rfl
  step := by decide
  reads := by decide
  fed := rfl
  fresh := rfl
  clean := fun _ => rfl

/-- The step is one cycle late, and yet its result is due in cycle 2. -/
theorem lateStep_dues : duesAfter (exec (.vectorSweepStep 0 0) lateStep) = some [2] := by decide

end Sys2Proof.Machine

namespace Sys2Proof
open Sys2Proof.Machine

/-- Refutes O29: the clause on a step's due cycle counts the cycles that its read was late, and a flight of zero cycles per step that started
in cycle 0 reaches its due cycle by a subtraction that stops at 0: PNOT read in cycle 1 is due in cycle 2, not in cycle 3. -/
theorem not_laneResults : ¬ Obligations.LaneResults := by
  unfold Obligations.LaneResults
  intro h
  obtain ⟨-, -, hlogic, -⟩ := h lateStep 0 idleFlight notWord 1 0 2 0 0 0 rfl
  obtain ⟨-, -, -, hnot⟩ := hlogic rfl (.inr rfl)
  obtain ⟨r, ⟨t, g, hexec, hfind, -, hdone, -, hdue, -⟩, -⟩ := hnot lateStep_sweeping
  have hdues := lateStep_dues
  rw [show idleFlight.id = 0 from rfl] at hexec hfind
  rw [hexec] at hdues
  simp only [duesAfter, hfind, hdone, Option.map_some, List.map_cons, List.map_nil, hdue] at hdues
  exact absurd hdues (by decide)

end Sys2Proof
end


section
/-! SUPPORT. A step of an integer form that reads a cycle late in a flight of no cycles per step (O28). -/
namespace Sys2Proof.Machine

/-- A flight of VNOT whose steps take no cycle each: from GTC 0 its only step reads in cycle 0, and its result is due in cycle 2. -/
def idleVnot : VFlight := { idleFlight with ins := .vnot notWord }

/-- Cycle 1, in which the step of that flight has not read yet. -/
def lateVnot : State := { gtc := 1, meadows := [(0, { flights := [idleVnot] })] }

theorem lateVnot_sweeping : Sweeping lateVnot 0 idleVnot (.vnot notWord) where
  found := rfl
  word := rfl
  step := by decide
  reads := by decide
  fed := rfl
  fresh := rfl
  clean := fun _ => rfl

/-- The dues that a step of meadow 0's flight 0 leaves, where its result is due as late as its read was. -/
theorem duesAfter_of_stepGives {s : State} {f : VFlight} {r : VResult} (h : StepGives s 0 f r) (hid : f.id = 0) :
    duesAfter (exec (.vectorSweepStep 0 0) s) = some [f.resAt f.step + (s.gtc - f.readAt f.step)] := by
  obtain ⟨t, g, hexec, hfind, -, hdone, -, hdue, -⟩ := h
  rw [hid] at hexec hfind
  simp only [hexec, duesAfter, hfind, hdone, Option.map_some, List.map_cons, List.map_nil, hdue]

/-- The step is one cycle late, and yet its result is due in cycle 2. -/
theorem lateVnot_dues : duesAfter (exec (.vectorSweepStep 0 0) lateVnot) = some [2] := by decide

end Sys2Proof.Machine

namespace Sys2Proof
open Sys2Proof.Machine

/-- Refutes O28: the due cycle of a step's result counts the cycles that its read was late, and a flight of zero cycles per step that started
in cycle 0 reaches its due cycle by a subtraction that stops at 0: VNOT read in cycle 1 is due in cycle 2, not in cycle 3. -/
theorem not_integerLaneResults : ¬ Obligations.IntegerLaneResults := by
  unfold Obligations.IntegerLaneResults
  rintro ⟨-, h⟩
  obtain ⟨-, -, -, hvnot, -⟩ := h lateVnot 0 idleVnot notWord 1 0 2 0 0 0 rfl rfl rfl rfl rfl
  obtain ⟨r, hgives, -⟩ := hvnot lateVnot_sweeping
  have hdue : (some [2] : Option (List Nat)) = some [idleVnot.resAt idleVnot.step + (lateVnot.gtc - idleVnot.readAt idleVnot.step)] :=
    lateVnot_dues.symm.trans (duesAfter_of_stepGives hgives rfl)
  exact absurd hdue (by decide)

end Sys2Proof
end

section
/-! SUPPORT. Scalar results over integers (O1, O2, O4, O5): what the operations on words give, as the word of an integer, and what the compares
say. -/
namespace Sys2Proof.Machine

/-! ## Words as integers -/

theorem ofInt_toNat {w : Nat} (a : BitVec w) : BitVec.ofInt w a.toNat = a := by
  rw [BitVec.ofInt_natCast, BitVec.ofNat_toNat, BitVec.setWidth_eq]

theorem toInt_eq_zero_iff {w : Nat} {a : BitVec w} : a.toInt = 0 ↔ a = 0 := by
  rw [← BitVec.toInt_inj, BitVec.ofNat_eq_ofNat, BitVec.toInt_zero]

theorem toNat_eq_zero_iff {w : Nat} {a : BitVec w} : a.toNat = 0 ↔ a = 0 := by
  rw [← BitVec.toNat_inj, BitVec.ofNat_eq_ofNat, BitVec.toNat_ofNat, Nat.zero_mod]

theorem ofInt_min (w : Nat) (i j : Int) : BitVec.ofInt w (min i j) = if i < j then BitVec.ofInt w i else BitVec.ofInt w j := by
  split
  case isTrue h => rw [min_eq_left h.le]
  case isFalse h => rw [min_eq_right (not_lt.1 h)]

theorem ofInt_max (w : Nat) (i j : Int) : BitVec.ofInt w (max i j) = if i < j then BitVec.ofInt w j else BitVec.ofInt w i := by
  split
  case isTrue h => rw [max_eq_right h.le]
  case isFalse h => rw [max_eq_left (not_lt.1 h)]

/-! ## Sums and products -/

theorem add_eq_ofInt {w : Nat} (a b : BitVec w) : a + b = BitVec.ofInt w (a.toNat + b.toNat) := by
  rw [BitVec.ofInt_add, ofInt_toNat, ofInt_toNat]

theorem add_signExtend_eq_ofInt {w n : Nat} (a : BitVec w) (imm : BitVec n) : a + imm.signExtend w = BitVec.ofInt w (a.toNat + imm.toInt) := by
  rw [BitVec.ofInt_add, ofInt_toNat, BitVec.signExtend]

theorem sub_eq_ofInt {w : Nat} (a b : BitVec w) : a - b = BitVec.ofInt w (a.toNat - b.toNat) := by
  rw [Int.sub_eq_add_neg, BitVec.ofInt_add, BitVec.ofInt_neg, ofInt_toNat, ofInt_toNat, BitVec.sub_eq_add_neg]

theorem mul_eq_ofInt {w : Nat} (a b : BitVec w) : a * b = BitVec.ofInt w (a.toNat * b.toNat) := by
  rw [BitVec.ofInt_mul, ofInt_toNat, ofInt_toNat]

theorem mulHighU_eq_ofInt (a b : W32) : mulHighU a b = BitVec.ofInt 32 (a.toNat * b.toNat / 2 ^ 32) := (BitVec.ofInt_natCast ..).symm

/-! ## Shifts by an unmasked amount (R97, R100) -/

theorem shlW_eq_ofInt {w : Nat} (a : BitVec w) (b : W32) :
    shlW a b = BitVec.ofInt w (if b.toNat < w then a.toNat * 2 ^ b.toNat else 0) := by
  unfold shlW
  split
  · refine BitVec.eq_of_toNat_eq ?_
    have hcast : (a.toNat * 2 ^ b.toNat : Int) = (a.toNat * 2 ^ b.toNat : Nat) := by push_cast; rfl
    rw [BitVec.toNat_shiftLeft, Nat.shiftLeft_eq, hcast, BitVec.ofInt_natCast, BitVec.toNat_ofNat]
  · rfl

theorem shrW_eq_ofInt {w : Nat} (a : BitVec w) (b : W32) :
    shrW a b = BitVec.ofInt w (if b.toNat < w then (a.toNat : Int) / 2 ^ b.toNat else 0) := by
  unfold shrW
  split
  · have hcast : (a.toNat : Int) / 2 ^ b.toNat = (a.toNat / 2 ^ b.toNat : Nat) := by push_cast; rfl
    rw [hcast, ← Nat.shiftRight_eq_div_pow, ← BitVec.toNat_ushiftRight, ofInt_toNat]
  · rfl

/-- Shifted by its whole width or more, a word leaves copies of its sign. -/
theorem toInt_div_two_pow_width {w : Nat} (a : BitVec w) : a.toInt / 2 ^ w = if 0 ≤ a.toInt then 0 else -1 := by
  have hlo := BitVec.two_mul_toInt_lt (x := a)
  have hhi := BitVec.le_two_mul_toInt (x := a)
  have hpos : (0 : Int) < 2 ^ w := by positivity
  split
  case isTrue h => exact Int.ediv_eq_zero_of_lt h (by omega)
  case isFalse h => exact (Int.ediv_emod_unique hpos).2 ⟨(by ring : a.toInt + 2 ^ w + 2 ^ w * -1 = a.toInt), by omega, by omega⟩ |>.1

theorem sraW_eq_ofInt {w : Nat} (a : BitVec w) (b : W32) :
    sraW a b = BitVec.ofInt w (if b.toNat < w then a.toInt / 2 ^ b.toNat else if 0 ≤ a.toInt then 0 else -1) := by
  rw [sraW, BitVec.sshiftRight, Int.shiftRight_eq_div_pow]
  split
  case isTrue h => rw [min_eq_left h.le]; push_cast; rfl
  case isFalse h => rw [min_eq_right (not_lt.1 h), ← toInt_div_two_pow_width]; push_cast; rfl

/-! ## Quotients and remainders (R76) -/

theorem divS_eq_ofInt (a b : W32) : divS a b = BitVec.ofInt 32 (quotient (-2 ^ 31) (2 ^ 31 - 1) a.toInt b.toInt) := by
  unfold divS quotient
  simp only [toInt_eq_zero_iff]
  split
  case isTrue =>
    split
    · rfl
    · next h0 =>
      have hne : a.toInt ≠ 0 := fun h => h0 (toInt_eq_zero_iff.1 h)
      by_cases hneg : a.toInt < 0
      · rw [if_pos hneg, if_neg (by omega)]; rfl
      · rw [if_neg hneg, if_pos (by omega)]; rfl
  case isFalse =>
    split
    case isTrue h => rw [h.1, h.2]; decide
    case isFalse h =>
      have hdiv : (a.sdiv b).toInt = a.toInt.tdiv b.toInt := BitVec.toInt_sdiv_of_ne_or_ne a b (by simpa [-not_and, not_and_or] using h)
      have hlo := BitVec.le_toInt (a.sdiv b)
      have hhi := BitVec.toInt_lt (x := a.sdiv b)
      rw [← hdiv, min_eq_right (by omega), max_eq_right (by omega), BitVec.ofInt_toInt]

theorem remS_eq_ofInt (a b : W32) : remS a b = BitVec.ofInt 32 (remainder a.toInt b.toInt) := by
  unfold remS remainder
  simp only [toInt_eq_zero_iff, ← Int.tmod_def]
  split
  · rw [BitVec.ofInt_toInt]
  · split
    case isTrue h => rw [h.1, h.2]; decide
    case isFalse => rw [← BitVec.toInt_srem, BitVec.ofInt_toInt]

theorem divU_eq_ofInt (a b : W32) : divU a b = BitVec.ofInt 32 (quotient 0 (2 ^ 32 - 1) a.toNat b.toNat) := by
  unfold divU quotient
  simp only [Int.natCast_eq_zero, toNat_eq_zero_iff]
  split
  case isTrue =>
    split
    · rfl
    · next h0 =>
      have hpos : 0 < a.toNat := Nat.pos_of_ne_zero fun h => h0 (toNat_eq_zero_iff.1 h)
      rw [if_pos (by omega)]; rfl
  case isFalse =>
    have hlt := (a / b).isLt
    rw [← Int.ofNat_tdiv, ← BitVec.toNat_udiv, min_eq_right (by omega), max_eq_right (by omega), ofInt_toNat]

theorem remU_eq_ofInt (a b : W32) : remU a b = BitVec.ofInt 32 (remainder a.toNat b.toNat) := by
  unfold remU remainder
  simp only [Int.natCast_eq_zero, toNat_eq_zero_iff, ← Int.tmod_def]
  split
  · rw [ofInt_toNat]
  · rw [← Int.ofNat_tmod, ← BitVec.toNat_umod, ofInt_toNat]

/-! ## Compares (R97, R101) -/

theorem ltS_iff {a b : W32} : ltS a b = true ↔ a.toInt < b.toInt := BitVec.slt_iff_toInt_lt
theorem ltU_iff {a b : W32} : ltU a b = true ↔ a.toNat < b.toNat := BitVec.ult_iff_lt
theorem not_ltS_iff {a b : W32} : (!ltS a b) = true ↔ b.toInt ≤ a.toInt := by rw [Bool.not_eq_true', ← Bool.not_eq_true, ltS_iff, not_lt]
theorem not_ltU_iff {a b : W32} : (!ltU a b) = true ↔ b.toNat ≤ a.toNat := by rw [Bool.not_eq_true', ← Bool.not_eq_true, ltU_iff, not_lt]
theorem beq_iff_toNat {a b : W32} : (a == b) = true ↔ a.toNat = b.toNat := by rw [beq_iff_eq, BitVec.toNat_inj]
theorem bne_iff_toNat {a b : W32} : (a != b) = true ↔ a.toNat ≠ b.toNat := by rw [bne_iff_ne, ne_eq, ne_eq, BitVec.toNat_inj]

theorem flag_eq_ofInt {c : Bool} {p : Prop} [Decidable p] (h : c = true ↔ p) : flag c = BitVec.ofInt 32 (if p then 1 else 0) := by
  simp only [flag, h]
  split <;> rfl

theorem flag_not_eq_ofInt {c : Bool} {p : Prop} [Decidable p] (h : c = true ↔ ¬p) : flag c = BitVec.ofInt 32 (if p then 0 else 1) := by
  rw [flag_eq_ofInt h, ite_not]

/-! ## The lesser and the greater of two words (R97) -/

theorem minS_eq_ofInt (a b : W32) : (if ltS a b then a else b) = BitVec.ofInt 32 (min a.toInt b.toInt) := by
  simp only [ofInt_min, BitVec.ofInt_toInt, ltS_iff]
theorem maxS_eq_ofInt (a b : W32) : (if ltS a b then b else a) = BitVec.ofInt 32 (max a.toInt b.toInt) := by
  simp only [ofInt_max, BitVec.ofInt_toInt, ltS_iff]
theorem minU_eq_ofInt (a b : W32) : (if ltU a b then a else b) = BitVec.ofInt 32 (min a.toNat b.toNat : Nat) := by
  simp only [Nat.cast_min, ofInt_min, ofInt_toNat, ltU_iff, Nat.cast_lt]
theorem maxU_eq_ofInt (a b : W32) : (if ltU a b then b else a) = BitVec.ofInt 32 (max a.toNat b.toNat : Nat) := by
  simp only [Nat.cast_max, ofInt_max, ofInt_toNat, ltU_iff, Nat.cast_lt]

/-! ## Bitwise operations -/

theorem and_eq_ofInt {w : Nat} (a b : BitVec w) : a &&& b = BitVec.ofInt w (a.toNat &&& b.toNat : Nat) := by rw [← BitVec.toNat_and, ofInt_toNat]
theorem or_eq_ofInt {w : Nat} (a b : BitVec w) : a ||| b = BitVec.ofInt w (a.toNat ||| b.toNat : Nat) := by rw [← BitVec.toNat_or, ofInt_toNat]
theorem xor_eq_ofInt {w : Nat} (a b : BitVec w) : a ^^^ b = BitVec.ofInt w (a.toNat ^^^ b.toNat : Nat) := by rw [← BitVec.toNat_xor, ofInt_toNat]

end Sys2Proof.Machine
end

section
/-! SUPPORT. S-words that the decoder refuses (O1, O2, O4): a func value that is not assigned, and words all of whose violations have one cause. -/
namespace Sys2Proof

/-- A word is refused with a cause. -/
def RefusedWith (w : W32) (k : RejCause) : Prop := ∃ r, decodeS w = .error r ∧ r.cause = k

theorem exists_worst_of_cause {k : RejCause} {l : List Reject} (hne : l ≠ []) (h : ∀ r ∈ l, r.cause = k) : ∃ r, worst l = some r ∧ r.cause = k := by
  induction l with
  | nil => exact absurd rfl hne
  | cons r rs ih =>
    rw [List.forall_mem_cons] at h
    rw [worst]
    cases hq : worst rs with
    | none => exact ⟨r, rfl, h.1⟩
    | some q =>
      have hrs : rs ≠ [] := by rintro rfl; cases hq
      obtain ⟨q', hq', hk⟩ := ih hrs h.2
      obtain rfl : q = q' := Option.some.inj (hq.symm.trans hq')
      dsimp only
      split
      · exact ⟨r, rfl, h.1⟩
      · exact ⟨q, rfl, hk⟩

theorem refusedWith_of_sViol {w : W32} {k : RejCause} (hne : sViol w ≠ []) (h : ∀ r ∈ sViol w, r.cause = k) : RefusedWith w k := by
  obtain ⟨r, hr, hk⟩ := exists_worst_of_cause hne h
  exact ⟨r, by simp only [decodeS, hr], hk⟩

/-- A reserved func value of a register-form major (R44, R45). -/
theorem refusedWith_resFunc {w : W32} (hshape : sShape (sMajor w).toNat (sFunc w).toNat = none) (hmajor : sRegMajor (sMajor w).toNat = true) :
    RefusedWith w .resFunc := by
  have hviol : sViol w = [⟨.resFunc, 5⟩] := by simp only [sViol, hshape, hmajor, if_true]
  exact refusedWith_of_sViol (by simp [hviol]) (by simp [hviol])

theorem mem_viol {c : Bool} {k : RejCause} {b : Nat} {r : Reject} (h : r ∈ viol c k b) : r.cause = k := by
  cases c
  · cases h
  · rw [List.mem_singleton.1 h]

/-- A field of a register form that takes any register or a pair can only break R29. -/
theorem cause_of_mem_fieldViol {u : FieldUse} (hu : u = .scalar ∨ u = .pair) {top : Nat} {v : BitVec 6} {r : Reject} (h : r ∈ fieldViol u top v) :
    r.cause = .resOperand := by
  rcases hu with rfl | rfl
  · cases h
  · exact mem_viol h

theorem fieldViol_pair_ne_nil {top : Nat} {v : BitVec 6} (h : v.toNat % 2 = 1) : fieldViol .pair top v ≠ [] := by simp [fieldViol, viol, h]

theorem sViol_of_shape {w : W32} {sh : SShape} (h : sShape (sMajor w).toNat (sFunc w).toNat = some sh) : sViol w = shapeViol sh w := by
  simp only [sViol, h]

/-- The violations of some register fields, each with its reading and the place of its top bit. -/
def fieldsViol (fs : List (FieldUse × Nat × BitVec 6)) : List Reject := fs.flatMap fun f => fieldViol f.1 f.2.1 f.2.2

/-- A word of registers and pairs, one of which is odd, breaks R29 and nothing else. -/
theorem refusedWith_odd_pair {w : W32} {fs : List (FieldUse × Nat × BitVec 6)} (hviol : sViol w = fieldsViol fs)
    (huse : ∀ f ∈ fs, f.1 = .scalar ∨ f.1 = .pair) (hodd : ∃ f ∈ fs, f.1 = .pair ∧ f.2.2.toNat % 2 = 1) : RefusedWith w .resOperand := by
  refine refusedWith_of_sViol (fun hnil => ?_) fun r hr => ?_
  · obtain ⟨⟨u, top, v⟩, hf, rfl, hv⟩ := hodd
    rw [hviol, fieldsViol, List.flatMap_eq_nil_iff] at hnil
    exact fieldViol_pair_ne_nil hv (hnil _ hf)
  · rw [hviol, fieldsViol, List.mem_flatMap] at hr
    obtain ⟨f, hf, hr⟩ := hr
    exact cause_of_mem_fieldViol (huse f hf) hr

theorem sViol_of_reg {w : W32} {d a b : FieldUse} (h : sShape (sMajor w).toNat (sFunc w).toNat = some (.reg d a b)) :
    sViol w = fieldsViol [(d, 23, sRd w), (a, 17, sRa w), (b, 11, sRb w)] := by
  simp [sViol_of_shape h, shapeViol, fieldsViol]

theorem sViol_of_imm {w : W32} {d a : FieldUse} (h : sShape (sMajor w).toNat (sFunc w).toNat = some (.imm d a .any)) :
    sViol w = fieldsViol [(d, 23, sRd w), (a, 17, sRa w)] := by
  simp [sViol_of_shape h, shapeViol, fieldsViol]

/-- A shift form whose amount does not fit (R98). -/
theorem refusedWith_shift {w : W32} (hshape : sShape (sMajor w).toNat (sFunc w).toNat = some (.imm .scalar .scalar .shift))
    (h : 32 ≤ (sImm12 w).toNat) : RefusedWith w .resOperand := by
  have hviol : sViol w = [⟨.resOperand, 11⟩] := by simp [sViol_of_shape hshape, shapeViol, fieldViol, viol, h]
  exact refusedWith_of_sViol (by simp [hviol]) (by simp [hviol])

/-! ## The shapes of the words (R43, R44) -/

theorem sShape_register_reserved {f : Nat} (h : 0x1D < f ∨ (0x12 < f ∧ f < 0x18)) : sShape 0x01 f = none := by
  rcases h with h | ⟨hlo, hhi⟩
  · obtain ⟨n, rfl⟩ := Nat.exists_eq_add_of_le' h
    rfl
  · interval_cases f <;> rfl

theorem sShape_pair_reserved {f : Nat} (h : 0x04 < f) : sShape 0x02 f = none := by
  obtain ⟨n, rfl⟩ := Nat.exists_eq_add_of_le' h
  rfl

theorem sShape_pair_pairs {f : Nat} (h : f < 2) : sShape 0x02 f = some (.reg .pair .pair .pair) := by interval_cases f <;> rfl

theorem sShape_pair_shift {f : Nat} (hlo : 2 ≤ f) (hhi : f ≤ 4) : sShape 0x02 f = some (.reg .pair .pair .scalar) := by interval_cases f <;> rfl

theorem sShape_imm_shift {m : Nat} (f : Nat) (hlo : 0x07 ≤ m) (hhi : m ≤ 0x09) : sShape m f = some (.imm .scalar .scalar .shift) := by
  interval_cases m <;> rfl

end Sys2Proof
end

section
/-! SUPPORT. The integer forms (O1, O2, O4): each word as the shared meaning of its form with its operation. -/
namespace Sys2Proof.Machine

/-- A word that waits for no register of a list waits for none of a part of it. -/
theorem held_of_subset {s : State} {l l' : List Nat} (h : s.held l = false) (hs : l' ⊆ l) : s.held l' = false := by
  unfold State.held at h ⊢
  split at h
  · rw [Bool.and_eq_false_iff] at h ⊢
    exact h.imp_right fun h => List.any_eq_false.2 fun r hr => List.any_eq_false.1 h r (hs hr)
  · exact List.any_eq_false.2 fun r hr => List.any_eq_false.1 h r (hs hr)
  · rfl

theorem held_nil (s : State) : s.held [] = false := by
  unfold State.held
  split <;> simp

section
variable {s : State} {ic : BitVec 2} {i : Instr}

/-- A register form gives what its operation does. -/
theorem givesReg_of_sAlu {lat : Nat} {f : W32 → W32 → W32} {rd ra rb : BitVec 6} {v : W32} (hc : s.cur ≠ .device)
    (hh : s.held [rd.toNat, ra.toNat, rb.toNat] = false) (hi : exec i s = sAlu lat f ic rd ra rb s)
    (hv : f (s.core.get ra.toNat) (s.core.get rb.toNat) = v) : givesReg s i ic lat rd.toNat v := by
  rw [givesReg, hi, ← hv]
  exact sAlu_gives hc hh

/-- An immediate form gives what its operation does. -/
theorem givesReg_of_sAluImm {f : W32 → W32} {rd ra : BitVec 6} {v : W32} (hc : s.cur ≠ .device) (hh : s.held [rd.toNat, ra.toNat] = false)
    (hi : exec i s = sAluImm f ic rd ra s) (hv : f (s.core.get ra.toNat) = v) : givesReg s i ic 1 rd.toNat v := by
  rw [givesReg, hi, ← hv]
  exact sAluImm_gives hc hh

/-- A pair form gives what its operation does. -/
theorem givesPair_of_sPair {f : W64 → W64} {regs : List Nat} {rd ra : BitVec 5} {v : W64} (hc : s.cur ≠ .device)
    (hh : s.held (pairRegs rd ++ pairRegs ra ++ regs) = false) (hi : exec i s = sPair f regs ic rd ra s)
    (hv : f (s.core.getD ra.toNat) = v) : givesPair s i ic 1 rd.toNat v := by
  rw [givesPair, hi, ← hv]
  exact sPair_gives hc hh

end

end Sys2Proof.Machine

namespace Sys2Proof

open Sys2Proof.Machine

/-- Settles O1: every register form is the shared meaning with its operation, and each operation is the word of its integer result. -/
theorem registerForms : Obligations.RegisterForms := by
  refine ⟨?results, ?reserved⟩
  case results =>
    intro s ic rd ra rb hc hh a b gives
    have alu {i : Instr} {lat : Nat} {v : Int} (f : W32 → W32 → W32) (hi : exec i s = sAlu lat f ic rd ra rb s)
        (hv : f a b = BitVec.ofInt 32 v) : gives i lat v := givesReg_of_sAlu hc hh hi hv
    refine ⟨?add, ?sub, ?and, ?or, ?xor, ?shl, ?shr, ?sra, ?mul, ?mulh, ?mulhu, ?div, ?rem, ?divu, ?remu, ?min, ?max, ?minu, ?maxu,
      ?seq, ?sne, ?slt, ?sge, ?sltu, ?sgeu⟩
    case add => exact alu (· + ·) rfl (add_eq_ofInt a b)
    case sub => exact alu (· - ·) rfl (sub_eq_ofInt a b)
    case and => exact alu (· &&& ·) rfl (and_eq_ofInt a b)
    case or => exact alu (· ||| ·) rfl (or_eq_ofInt a b)
    case xor => exact alu (· ^^^ ·) rfl (xor_eq_ofInt a b)
    case shl => exact alu shlW rfl (shlW_eq_ofInt a b)
    case shr => exact alu shrW rfl (shrW_eq_ofInt a b)
    case sra =>
      refine alu sraW rfl ((sraW_eq_ofInt a b).trans ?_)
      -- the word of -1 is the word of 0xFFFFFFFF
      split
      · rfl
      · split <;> rfl
    case mul => exact alu (· * ·) rfl (mul_eq_ofInt a b)
    case mulh => exact alu mulHigh rfl rfl
    case mulhu => exact alu mulHighU rfl (mulHighU_eq_ofInt a b)
    case div => exact alu divS rfl (divS_eq_ofInt a b)
    case rem => exact alu remS rfl (remS_eq_ofInt a b)
    case divu => exact alu divU rfl (divU_eq_ofInt a b)
    case remu => exact alu remU rfl (remU_eq_ofInt a b)
    case min => exact alu (fun a b => if ltS a b then a else b) rfl (minS_eq_ofInt a b)
    case max => exact alu (fun a b => if ltS a b then b else a) rfl (maxS_eq_ofInt a b)
    case minu => exact alu (fun a b => if ltU a b then a else b) rfl (minU_eq_ofInt a b)
    case maxu => exact alu (fun a b => if ltU a b then b else a) rfl (maxU_eq_ofInt a b)
    case seq => exact alu (fun a b => flag (a == b)) rfl (flag_eq_ofInt beq_iff_toNat)
    case sne => exact alu (fun a b => flag (a != b)) rfl (flag_not_eq_ofInt bne_iff_toNat)
    case slt => exact alu (fun a b => flag (ltS a b)) rfl (flag_eq_ofInt ltS_iff)
    case sge => exact alu (fun a b => flag (!ltS a b)) rfl (flag_eq_ofInt not_ltS_iff)
    case sltu => exact alu (fun a b => flag (ltU a b)) rfl (flag_eq_ofInt ltU_iff)
    case sgeu => exact alu (fun a b => flag (!ltU a b)) rfl (flag_eq_ofInt not_ltU_iff)
  case reserved =>
    intro w hmajor hfunc
    exact refusedWith_resFunc (by rw [hmajor, sShape_register_reserved hfunc]) (by rw [hmajor]; rfl)

/-- Settles O2: every immediate form is the shared meaning with its operation, whose operand is the word of the immediate; an amount of 32 or
more is the one violation of its word. -/
theorem immediateForms : Obligations.ImmediateForms := by
  refine ⟨?results, ?limit⟩
  case results =>
    intro s ic rd ra imm sh hc hh a gives
    have alu {i : Instr} {v : Int} (f : W32 → W32) (hi : exec i s = sAluImm f ic rd ra s) (hv : f a = BitVec.ofInt 32 v) : gives i v :=
      givesReg_of_sAluImm hc hh hi hv
    have himm : (imm.setWidth 32).toNat = imm.toNat := BitVec.toNat_setWidth_of_le (by decide)
    have hsh : (sh.setWidth 32).toNat = sh.toNat := BitVec.toNat_setWidth_of_le (by decide)
    have himmS : (imm.signExtend 32).toInt = imm.toInt := BitVec.toInt_signExtend_of_le (by decide)
    have himmU : ((imm.signExtend 32).toNat : Int) = imm.toInt % 2 ^ 32 := by
      rw [BitVec.signExtend, BitVec.toNat_ofInt]
      omega
    refine ⟨?addi, ?andi, ?ori, ?xori, ?shli, ?shri, ?srai, ?slti, ?sltiu⟩
    case addi => exact alu (· + imm.signExtend 32) rfl (add_signExtend_eq_ofInt a imm)
    case andi => exact alu (· &&& imm.setWidth 32) rfl (himm ▸ and_eq_ofInt a _)
    case ori => exact alu (· ||| imm.setWidth 32) rfl (himm ▸ or_eq_ofInt a _)
    case xori => exact alu (· ^^^ imm.setWidth 32) rfl (himm ▸ xor_eq_ofInt a _)
    case shli => exact alu (shlW · (sh.setWidth 32)) rfl (by rw [shlW_eq_ofInt, hsh, if_pos sh.isLt])
    case shri => exact alu (shrW · (sh.setWidth 32)) rfl (by rw [shrW_eq_ofInt, hsh, if_pos sh.isLt])
    case srai => exact alu (sraW · (sh.setWidth 32)) rfl (by rw [sraW_eq_ofInt, hsh, if_pos sh.isLt])
    case slti => exact alu (fun a => flag (ltS a (imm.signExtend 32))) rfl (flag_eq_ofInt (ltS_iff.trans (by rw [himmS])))
    case sltiu => exact alu (fun a => flag (ltU a (imm.signExtend 32))) rfl (flag_eq_ofInt (ltU_iff.trans (by rw [← himmU, Nat.cast_lt])))
  case limit =>
    intro w hlo hhi himm
    exact refusedWith_shift (sShape_imm_shift _ hlo hhi) himm

/-- Settles O4: every pair form is the shared meaning with its operation; its reserved func values have no shape, and the pair fields of the
others are the only fields that can break a rule. -/
theorem pairForms : Obligations.PairForms := by
  refine ⟨?results, ?reserved, ?odd, ?oddImm⟩
  case results =>
    intro s ic rd ra rp rb imm hc hhp hhr a b gives
    have pair {i : Instr} {v : Int} (f : W64 → W64) (regs : List Nat) (hh : s.held (pairRegs rd ++ pairRegs ra ++ regs) = false)
        (hi : exec i s = sPair f regs ic rd ra s) (hv : f a = BitVec.ofInt 64 v) : gives i v := givesPair_of_sPair hc hh hi hv
    refine ⟨?addd, ?subd, ?shld, ?shrd, ?srad, ?adddi⟩
    case addd => exact pair (· + s.core.getD rp.toNat) _ hhp rfl (add_eq_ofInt a _)
    case subd => exact pair (· - s.core.getD rp.toNat) _ hhp rfl (sub_eq_ofInt a _)
    case shld => exact pair (shlW · b) _ hhr rfl (shlW_eq_ofInt a b)
    case shrd => exact pair (shrW · b) _ hhr rfl (shrW_eq_ofInt a b)
    case srad => exact pair (sraW · b) _ hhr rfl (sraW_eq_ofInt a b)
    case adddi =>
      have hh : s.held (pairRegs rd ++ pairRegs ra ++ []) = false := held_of_subset hhr (by simp)
      exact pair (· + imm.signExtend 64) _ hh rfl (add_signExtend_eq_ofInt a imm)
  case reserved =>
    intro w hmajor hfunc
    exact refusedWith_resFunc (by rw [hmajor, sShape_pair_reserved hfunc]) (by rw [hmajor]; rfl)
  case odd =>
    intro w hmajor hfunc hodd
    by_cases h2 : (sFunc w).toNat < 2
    · exact refusedWith_odd_pair (sViol_of_reg (by rw [hmajor, sShape_pair_pairs h2])) (by simp) (by simpa [h2] using hodd)
    · exact refusedWith_odd_pair (sViol_of_reg (by rw [hmajor, sShape_pair_shift (by omega) hfunc])) (by simp) (by simpa [h2] using hodd)
  case oddImm =>
    intro w hmajor hodd
    exact refusedWith_odd_pair (sViol_of_imm (by rw [hmajor]; rfl)) (by simp) (by simpa using hodd)

end Sys2Proof
end

section
/-! SUPPORT. LIH (O3): its result, and a second LIH once the first one's result has been written. -/
namespace Sys2Proof.Machine

/-! ## The result (R99) -/

/-- A register shifted up by 18 bits under an immediate. -/
def upperValue (a : W32) (up : BitVec 18) : W32 := BitVec.ofNat 32 (a.toNat * 2 ^ 18 + up.toNat)

theorem shiftLeft_or_eq_upperValue (a : W32) (up : BitVec 18) : (a <<< 18) ||| up.setWidth 32 = upperValue a up := by
  refine BitVec.eq_of_toNat_eq ?_
  have hup : up.toNat % 2 ^ 32 = up.toNat := Nat.mod_eq_of_lt (Nat.lt_trans up.isLt (by decide))
  rw [upperValue, BitVec.toNat_or, BitVec.toNat_shiftLeft, BitVec.toNat_setWidth, BitVec.toNat_ofNat, ← Nat.or_mod_two_pow,
    ← Nat.shiftLeft_add_eq_or_of_lt up.isLt, Nat.shiftLeft_eq]

/-- Two values of LIH, the upper bits of a constant before the lower ones, make the constant. -/
theorem upperValue_upperValue (a x : W32) : upperValue (upperValue a ((x.extractLsb' 18 14).setWidth 18)) (x.extractLsb' 0 18) = x := by
  refine BitVec.eq_of_toNat_eq ?_
  have hx := x.isLt
  simp only [upperValue, BitVec.toNat_ofNat, BitVec.toNat_setWidth, BitVec.extractLsb'_toNat, Nat.shiftRight_eq_div_pow]
  omega

theorem exec_lih {s : State} {ic : BitVec 2} {rd : BitVec 6} (hh : s.held [rd.toNat] = false) (up : BitVec 18) :
    exec (.lih ic rd up) s =
      .next (s.setCore ((s.core.advance ic s.clock).push rd.toNat (s.clock + 1) (upperValue (s.core.get rd.toNat) up))) := by
  change sAluImm (fun a => (a <<< 18) ||| up.setWidth 32) ic rd rd s = _
  rw [sAluImm, sIssue_eq (held_of_subset hh (by simp)), shiftLeft_or_eq_upperValue]

theorem exec_lih_gives {s : State} {ic : BitVec 2} {rd : BitVec 6} (hc : s.cur ≠ .device) (hh : s.held [rd.toNat] = false) (up : BitVec 18) :
    givesReg s (.lih ic rd up) ic 1 rd.toNat (upperValue (s.core.get rd.toNat) up) :=
  ⟨_, exec_lih hh up, push_gives ic 1 _ _ hc⟩

/-! ## A core whose results have been written -/

/-- The one result in flight has been written in its cycle. -/
theorem SCore.settle_push {k : SCore} (hp : k.pend = []) {r : Nat} (h0 : r ≠ 0) (due : Nat) (v : W32) :
    ((k.push r due v).settle due).pend = [] ∧ ((k.push r due v).settle due).get r = v := by
  have hpush : (k.push r due v).pend = [⟨r, due, v, k.nextAt⟩] := by simp only [SCore.push, if_neg h0, hp, List.nil_append]
  have hsettle : (k.push r due v).settle due = ({ k.push r due v with pend := [] } : SCore).set r v := by simp [SCore.settle, hpush]
  rw [hsettle]
  exact ⟨SCore.set_pend .., SCore.get_set_self _ _ _ h0⟩

/-! ## A core written twice -/

theorem tput_tput {α : Type} (t : Tab α) (k : Nat) (u v : α) : tput (tput t k u) k v = tput t k v := by
  induction t with
  | nil => simp [tput]
  | cons c t ih =>
    obtain ⟨i, w⟩ := c
    simp only [tput]
    split
    · simp [tput]
    · split
      case isTrue => simp [tput]
      case isFalse hlt heq => simp only [tput, if_neg hlt, if_neg heq, ih]

theorem Meadow.modCtx_modCtx (m : Meadow) (x : Nat) (f g : Ctx → Ctx) : (m.modCtx x f).modCtx x g = m.modCtx x (g ∘ f) := by
  rw [Meadow.modCtx, Meadow.modCtx_ctx, Meadow.modCtx, Meadow.modCtx]
  simp only [Meadow.setCtx, tput_tput, Function.comp]

theorem State.modMdw_modMdw (s : State) (c : Nat) (f g : Meadow → Meadow) : (s.modMdw c f).modMdw c g = s.modMdw c (g ∘ f) := by
  rw [State.modMdw, State.modMdw_mdw, State.modMdw, State.modMdw]
  simp only [State.setMdw, tput_tput, Function.comp]

theorem State.modCtx_modCtx (s : State) (c x : Nat) (f g : Ctx → Ctx) : (s.modCtx c x f).modCtx c x g = s.modCtx c x (g ∘ f) := by
  rw [State.modCtx, State.modCtx, State.modMdw_modMdw, State.modCtx]
  exact congrArg (s.modMdw c) (funext fun m => Meadow.modCtx_modCtx m x f g)

@[simp] theorem State.setCore_setCore (s : State) (j k : SCore) : (s.setCore j).setCore k = s.setCore k := by
  cases hcur : s.cur with
  | stream c x st =>
    have hcur' : (s.setCore j).cur = .stream c x st := by rw [State.setCore_cur, hcur]
    rw [State.setCore_stream hcur', State.setCore_stream hcur, State.setCore_stream hcur, State.modCtx_modCtx]
    rfl
  | hcp h =>
    have hcur' : (s.setCore j).cur = .hcp h := by rw [State.setCore_cur, hcur]
    rw [State.setCore_hcp hcur', State.setCore_hcp hcur, State.setCore_hcp hcur]
    simp [State.modHcp, State.hcp, tput_tput]
  | device => simp [State.setCore, hcur]

@[simp] theorem State.setCore_clock (s : State) (k : SCore) : (s.setCore k).clock = s.clock := by
  unfold State.clock
  rw [State.setCore_cur]
  cases hcur : s.cur with
  | stream c x st => simp [State.setCore_stream hcur]
  | hcp h => simp [State.hcpCycle]
  | device => exact State.setCore_gtc ..

/-- A core with no result in flight waits for no more than the core in whose place it stands. -/
theorem held_setCore_of_pend_nil {s : State} {k : SCore} {regs : List Nat} (h : s.held regs = false) (hk : k.pend = []) :
    (s.setCore k).held regs = false := by
  have hbusy (r : Nat) : k.busy r = false := by simp [SCore.busy, hk]
  unfold State.held at h ⊢
  rw [State.setCore_cur]
  cases hcur : s.cur with
  | stream c x st =>
    simp only [hcur] at h
    simp only [State.setCore_stream hcur, State.modCtx_ctx, State.modCtx_mdw, Meadow.modCtx_timed, hbusy, Bool.false_or]
    rw [Bool.and_eq_false_iff] at h ⊢
    exact h.imp_right fun h => List.any_eq_false.2 fun r hr hl => List.any_eq_false.1 h r hr (by rw [Bool.or_eq_true]; exact .inr hl)
  | hcp n => simp [State.setCore_hcp hcur, hbusy]
  | device => rfl

end Sys2Proof.Machine

namespace Sys2Proof

open Sys2Proof.Machine

/-- Settles O3: the result of LIH is the register shifted under the immediate; the second LIH reads what the first has written, and shifts out
all that the register held before. -/
theorem upperImmediateForm : Obligations.UpperImmediateForm := by
  refine ⟨fun s ic rd up hc hh => exec_lih_gives hc hh up, ?_⟩
  intro s t u ic jc rd x hrd hc hpend hh hfirst hsecond d hd
  have h0 : rd.toNat ≠ 0 := fun h => hrd (toNat_eq_zero_iff.1 h)
  rw [exec_lih hh] at hfirst
  obtain rfl := Host.Outcome.next.inj hfirst
  rw [State.setCore_core s _ hc, State.setCore_setCore] at hsecond
  obtain ⟨hidle, hval⟩ := SCore.settle_push (k := s.core.advance ic s.clock) hpend h0 (s.clock + 1)
    (upperValue (s.core.get rd.toNat) ((x.extractLsb' 18 14).setWidth 18))
  generalize ((s.core.advance ic s.clock).push rd.toNat (s.clock + 1) _).settle (s.clock + 1) = k at hsecond hidle hval
  have hcore : (s.setCore k).core = k := State.setCore_core s k hc
  have hc' : (s.setCore k).cur ≠ .device := by rwa [State.setCore_cur]
  have hh' : (s.setCore k).held [rd.toNat] = false := held_setCore_of_pend_nil hh hidle
  obtain ⟨v, hv, hissued, hgets⟩ := exec_lih_gives (ic := jc) hc' hh' (x.extractLsb' 0 18)
  obtain rfl : v = u := Host.Outcome.next.inj (hv.symm.trans hsecond)
  have hclock : v.clock = (s.setCore k).clock := by rw [hissued.frame, State.setCore_clock]
  rw [hgets.after d (hclock ▸ hd) (by simp [noLater, hcore, hidle]), if_neg h0, hcore, hval, upperValue_upperValue]

end Sys2Proof
end

section
/-! SUPPORT. Transfers of control (O5) and the words of time (O6): where the counter goes, and when the next word may issue. -/
namespace Sys2Proof.Machine

/-! ## Targets (R101, R102) -/

/-- The target of a word offset, over integers. -/
theorem offTarget_eq_ofInt {n : Nat} (pc : W32) (off : BitVec n) : offTarget pc off = BitVec.ofInt 32 (pc.toNat + 4 * off.toInt) := by
  have hfour : BitVec.twoPow 32 2 = BitVec.ofInt 32 4 := by decide
  rw [offTarget, BitVec.shiftLeft_eq_mul_twoPow, BitVec.mul_comm, hfour, BitVec.signExtend, ← BitVec.ofInt_mul, BitVec.ofInt_add, ofInt_toNat]

/-- A word offset keeps the alignment of the counter. -/
theorem toNat_ofInt_add_four_mul_mod (pc : W32) (k : Int) (h : pc.toNat % 4 = 0) : (BitVec.ofInt 32 (pc.toNat + 4 * k)).toNat % 4 = 0 := by
  rw [BitVec.toNat_ofInt]
  omega

/-! ## The core of a transfer (R95) -/

@[simp] theorem SCore.branch_regs (k : SCore) (ic : BitVec 2) (t : Nat) (taken : Bool) (pc : W32) : (k.branch ic t taken pc).regs = k.regs := by
  cases taken <;> rfl
@[simp] theorem SCore.branch_pend (k : SCore) (ic : BitVec 2) (t : Nat) (taken : Bool) (pc : W32) : (k.branch ic t taken pc).pend = k.pend := by
  cases taken <;> rfl

section
variable {s : State} {ic : BitVec 2}

/-- A core that goes on where its branch leads has issued the word as a transfer when the branch is taken, and else as any word. -/
theorem issued_branch {j : SCore} {taken : Bool} {p : Prop} [Decidable p] {pc : W32} (hc : s.cur ≠ .device) (hp : taken = true ↔ p)
    (hpc : j.pc = (s.core.branch ic s.clock taken pc).pc) (hnext : j.nextAt = (s.core.branch ic s.clock taken pc).nextAt) :
    if p then Issued s (s.setCore j) pc (max (s.clock + 3) (s.clock + icGap ic))
    else Issued s (s.setCore j) (s.core.pc + 4) (s.clock + icGap ic) := by
  have h := issued_setCore s j hc
  rw [hpc, hnext] at h
  simp only [← hp]
  cases taken <;> exact h

/-- A compare-and-branch form transfers on its condition. -/
theorem transfers_of_sBranch {cond : W32 → W32 → Bool} {ra rb : BitVec 6} {off : BitVec 12} {i : Instr} {p : Prop} [Decidable p]
    (hc : s.cur ≠ .device) (hh : s.held [ra.toNat, rb.toNat] = false) (hi : exec i s = sBranch cond ic ra rb off s)
    (hp : cond (s.core.get ra.toNat) (s.core.get rb.toNat) = true ↔ p) : transfers s i ic p (s.core.pc.toNat + 4 * off.toInt) := by
  have hex : exec i s = .next (s.setCore (s.core.branch ic s.clock (cond (s.core.get ra.toNat) (s.core.get rb.toNat)) (offTarget s.core.pc off))) := by
    rw [hi, sBranch, hh, if_neg (by decide)]
  refine ⟨_, hex, regsSame_setCore hc (SCore.branch_regs ..) (SCore.branch_pend ..), ?_⟩
  rw [← offTarget_eq_ofInt]
  exact issued_branch hc hp rfl rfl

/-- A word that jumps and links. -/
theorem jump_push_gives (hc : s.cur ≠ .device) (pc : W32) (rd : Nat) (v : W32) :
    Issued s (s.setCore ((s.core.jump ic s.clock pc).push rd (s.clock + 1) v)) pc (max (s.clock + 3) (s.clock + icGap ic)) ∧
      RegGets s (s.setCore ((s.core.jump ic s.clock pc).push rd (s.clock + 1) v)) (s.clock + 1) rd v :=
  ⟨by simpa [SCore.jump] using issued_setCore s ((s.core.jump ic s.clock pc).push rd (s.clock + 1) v) hc,
    @regGets_setCore s (s.core.jump ic s.clock pc) hc rfl rfl _ _ _⟩

theorem exec_jal {rd : BitVec 6} {up : BitVec 18} (hh : s.held [rd.toNat] = false) :
    exec (.jal ic rd up) s =
      .next (s.setCore ((s.core.jump ic s.clock (offTarget s.core.pc up)).push rd.toNat (s.clock + 1) (s.core.pc + 4))) := by
  simp only [exec, execJal, hh, Bool.false_eq_true, if_false]

theorem exec_jalr_aligned {rd ra : BitVec 6} {imm : BitVec 12} (hh : s.held [rd.toNat, ra.toNat] = false)
    (h : (s.core.get ra.toNat + imm.signExtend 32).toNat % 4 = 0) :
    exec (.jalr ic rd ra imm) s =
      .next (s.setCore ((s.core.jump ic s.clock (s.core.get ra.toNat + imm.signExtend 32)).push rd.toNat (s.clock + 1) (s.core.pc + 4))) := by
  simp only [exec, execJalr, hh, h, ne_eq, not_true_eq_false, Bool.false_eq_true, if_false]

/-! ## LOOP (R103) -/

theorem exec_loop {ra rb : BitVec 6} {off : BitVec 12} (h0 : ra ≠ 0) (hh : s.held [ra.toNat, rb.toNat] = false) :
    exec (.loop ic ra rb off) s =
      .next (s.setCore ((s.core.branch ic s.clock (s.core.get ra.toNat - 1 != s.core.get rb.toNat) (offTarget s.core.pc off)).push ra.toNat
        (s.clock + 1) (s.core.get ra.toNat - 1))) := by
  simp only [exec, execLoop, h0, hh, Bool.false_eq_true, if_false]

theorem exec_loop_zero {rb : BitVec 6} {off : BitVec 12} : exec (.loop ic 0 rb off) s = trapRes s Cause.resOperand (bitTval 23) := by
  simp only [exec, execLoop, if_true]

/-! ## Time (R105-R107) -/

/-- A word whose core keeps its registers and its counter issues with no effect on any of them. -/
theorem sIssue_regsSame {i : Instr} {regs : List Nat} {f : SCore → SCore} (hc : s.cur ≠ .device) (hh : s.held regs = false)
    (hi : exec i s = sIssue s ic regs f) (hr : ∀ k, (f k).regs = k.regs) (hp : ∀ k, (f k).pend = k.pend) (hpc : ∀ k, (f k).pc = k.pc) :
    ∃ t, exec i s = .next t ∧ Issued s t (s.core.pc + 4) (f (s.core.advance ic s.clock)).nextAt ∧ regsSame s t := by
  have h := issued_setCore s (f (s.core.advance ic s.clock)) hc
  rw [hpc] at h
  exact ⟨_, hi.trans (sIssue_eq hh), h, regsSame_setCore hc (hr _) (hp _)⟩

theorem exec_gtcr_gives {rd : BitVec 5} (hc : s.cur ≠ .device) (hh : s.held (pairRegs rd) = false) :
    givesPair s (.gtcr ic rd) ic 1 rd.toNat s.gtcW := by
  have hex : exec (.gtcr ic rd) s = .next (s.setCore ((s.core.advance ic s.clock).pushD rd.toNat (s.clock + 1) s.gtcW)) := by
    change execGtcr ic rd s = _
    rw [execGtcr, sIssue_eq hh]
  exact ⟨_, hex, pushD_gives ic 1 _ _ hc⟩

theorem gtcW_toNat : s.gtcW.toNat = s.gtc % 2 ^ 64 := BitVec.toNat_ofNat ..

theorem exec_waitg_held {ra : BitVec 5} (h : s.gtc % 2 ^ 64 < (s.core.getD ra.toNat).toNat) : exec (.waitg ic ra) s = .next s := by
  simp only [exec, execWaitg, gtcW_toNat, h, if_true]

theorem exec_waitg_issues {ra : BitVec 5} (h : (s.core.getD ra.toNat).toNat ≤ s.gtc % 2 ^ 64) :
    exec (.waitg ic ra) s = sIssue s ic (pairRegs ra) id := by
  simp only [exec, execWaitg, gtcW_toNat, not_lt.2 h, if_false]

end

end Sys2Proof.Machine

namespace Sys2Proof

open Sys2Proof.Machine

/-- Settles O5: a branch goes where its condition leads, the jumps also link, and LOOP is a branch that also writes its counter; a cause raised
at the word leaves the core. -/
theorem controlTransfers : Obligations.ControlTransfers := by
  refine ⟨?branches, ?jumps, ?loop⟩
  case branches =>
    intro s ic ra rb off hc hh a b target
    have branch {i : Instr} {p : Prop} [Decidable p] (cond : W32 → W32 → Bool) (hi : exec i s = sBranch cond ic ra rb off s)
        (hp : cond a b = true ↔ p) : transfers s i ic p target := transfers_of_sBranch hc hh hi hp
    refine ⟨?beq, ?bne, ?blt, ?bge, ?bltu, ?bgeu⟩
    case beq => exact branch (· == ·) rfl beq_iff_toNat
    case bne => exact branch (· != ·) rfl bne_iff_toNat
    case blt => exact branch ltS rfl ltS_iff
    case bge => exact branch (fun a b => !ltS a b) rfl not_ltS_iff
    case bltu => exact branch ltU rfl ltU_iff
    case bgeu => exact branch (fun a b => !ltU a b) rfl not_ltU_iff
  case jumps =>
    intro s ic rd ra imm up hc hh hd far label reg
    have hlabel : offTarget s.core.pc up = label := offTarget_eq_ofInt ..
    have hreg : s.core.get ra.toNat + imm.signExtend 32 = reg := add_signExtend_eq_ofInt ..
    refine ⟨?jal, toNat_ofInt_add_four_mul_mod _ _, fun halign => ?jalr, fun c x hcur hfree halign => ?misaligned⟩
    case jal => exact ⟨_, exec_jal hd, hlabel ▸ jump_push_gives hc _ _ _⟩
    case jalr => exact ⟨_, exec_jalr_aligned hh (hreg ▸ halign), hreg ▸ jump_push_gives hc _ _ _⟩
    case misaligned =>
      have htrap : exec (.jalr ic rd ra imm) s = trapRes s Cause.fetchAlign (reg.setWidth 64) := by
        simp only [exec, execJalr, hh, hreg, if_pos halign, Bool.false_eq_true, if_false]
      obtain ⟨t, p, ht, honly, hsc, hp, hcause, -⟩ := raisesAtWord_of_trapRes hcur hfree htrap
      exact ⟨t, p, ht, honly, hsc, hp, hcause⟩
  case loop =>
    intro s ic ra rb off hc hh far c
    refine ⟨fun h0 => ?counts, fun g x h0 hcur hfree => ?zero⟩
    case counts =>
      refine ⟨_, exec_loop h0 hh, regGets_setCore hc (SCore.branch_regs ..) (SCore.branch_pend ..) _ _ _, ?_⟩
      rw [← offTarget_eq_ofInt]
      exact issued_branch hc bne_iff_ne (SCore.push_pc ..) (SCore.push_nextAt ..)
    case zero =>
      obtain ⟨t, p, ht, honly, hsc, hp, hcause, -⟩ := raisesAtWord_of_trapRes hcur hfree (h0 ▸ exec_loop_zero)
      exact ⟨t, p, ht, honly, hsc, hp, hcause⟩

/-- Settles O6: the words of time only issue, but for the pair of GTCR; WAITG does so from the cycle its operand names on. -/
theorem timeWords : Obligations.TimeWords := by
  intro s ic rd ra imm hc hd ha
  refine ⟨?gtcr, fun h => ?goes, exec_waitg_held, ?gap, ?nop⟩
  case gtcr => exact exec_gtcr_gives hc hd
  case goes => exact sIssue_regsSame hc ha (exec_waitg_issues h) (fun _ => rfl) (fun _ => rfl) fun _ => rfl
  case gap =>
    obtain ⟨t, ht, hissued, hsame⟩ := sIssue_regsSame (i := .gap ic imm) (f := fun k => { k with nextAt := max k.nextAt (s.clock + 1 + imm.toNat) })
      hc (held_nil s) rfl (fun _ => rfl) (fun _ => rfl) fun _ => rfl
    exact ⟨t, ht, hsame, hissued⟩
  case nop => exact sIssue_regsSame (f := id) hc (held_nil s) rfl (fun _ => rfl) (fun _ => rfl) fun _ => rfl

end Sys2Proof
end

section
/-! SUPPORT. Moves between the scalar core and queues, and EXIT (O7): queues after a push and a pop, and what each word leaves. -/
namespace Sys2Proof.Machine

/-! ## Queues after a push and a pop (R21, R22) -/

@[simp] theorem Ctx.push64_queue64 (k : Ctx) (q : Nat) (v : W64) (g : Nat) (r : Reach) :
    (k.push64 q v g r).queue64 q = (k.queue64 q).push v g r := tgetD_tput_self ..
theorem Ctx.push64_queue64_ne (k : Ctx) {q j : Nat} (v : W64) (g : Nat) (r : Reach) (h : j ≠ q) :
    (k.push64 q v g r).queue64 j = k.queue64 j := tgetD_tput_ne _ _ _ h
@[simp] theorem Ctx.pop64_queue64 (k : Ctx) (q g : Nat) : (k.pop64 q g).queue64 q = (k.queue64 q).pop g := tgetD_tput_self ..
theorem Ctx.pop64_queue64_ne (k : Ctx) {q j : Nat} (g : Nat) (h : j ≠ q) : (k.pop64 q g).queue64 j = k.queue64 j := tgetD_tput_ne _ _ _ h

theorem QReg.push_vals {w : Nat} (q : QReg w) (v : BitVec w) (g : Nat) (r : Reach) : (q.push v g r).items.map (·.val) = q.items.map (·.val) ++ [v] := by
  simp [QReg.push]

theorem QReg.pop_items {w : Nat} {q : QReg w} {it : QItem w} {rest : List (QItem w)} (h : q.items = it :: rest) (g : Nat) : (q.pop g).items = rest := by
  simp [QReg.pop, h]

/-- A head pushed in an earlier cycle is the first that may be taken. -/
theorem QReg.ready_of_items {w : Nat} {q : QReg w} {it : QItem w} {rest : List (QItem w)} {g : Nat} (h : q.items = it :: rest) (hg : it.at_ < g) :
    q.ready g = it :: rest.filter fun i => i.at_ < g := by
  rw [QReg.ready, h, List.filter_cons_of_pos (by simpa using hg)]

/-! ## The words (R104, R109) -/

section
variable {s : State} {c x : Nat} {ic : BitVec 2}

/-- The core of a stream whose context has been changed. -/
theorem State.modCtx_core {st : StreamId} (hcur : s.cur = .stream c x st) (f : Ctx → Ctx) : (s.modCtx c x f).core = (f (s.ctx c x)).sc := by
  rw [State.core_stream ((s.modCtx_cur c x f).trans hcur), State.modCtx_ctx]

/-- A change of the executing context under which its core only goes on issues the word with no effect on any register. -/
theorem modCtx_issues (hcur : s.cur = .stream c x .s) {f : Ctx → Ctx} (hf : (f (s.ctx c x)).sc = (s.ctx c x).sc.advance ic s.clock) :
    Advanced s (s.modCtx c x f) ic ∧ regsSame s (s.modCtx c x f) := by
  have hcore := (State.modCtx_core hcur f).trans hf
  rw [← State.core_stream hcur] at hcore
  exact ⟨advanced_core hcore rfl rfl, regsSame_core (by rw [hcore]; rfl) (by rw [hcore]; rfl)⟩

/-- A change of the executing context under which its core goes on with a pair result to come. -/
theorem modCtx_issues_pair (hcur : s.cur = .stream c x .s) {f : Ctx → Ctx} {p : Nat} {v : W64}
    (hf : (f (s.ctx c x)).sc = ((s.ctx c x).sc.advance ic s.clock).pushD p (s.clock + 1) v) :
    Advanced s (s.modCtx c x f) ic ∧ PairGets s (s.modCtx c x f) (s.clock + 1) p v := by
  have hcore := (State.modCtx_core hcur f).trans hf
  rw [← State.core_stream hcur] at hcore
  exact ⟨advanced_core hcore (SCore.pushD_pc ..) (SCore.pushD_nextAt ..), pairGets_core hcore rfl rfl⟩

/-- The context of a QPUSH once it has issued. -/
def Ctx.pushed (k : Ctx) (ic : BitVec 2) (mtc q : Nat) (v : W64) (g seq : Nat) : Ctx :=
  ({ k with sc := k.sc.advance ic mtc } : Ctx).push64 q v g (k.reachOf .s seq)

/-- The context that a queue entry has been read to, with the entry's order handed over. -/
def Ctx.qRead (k : Ctx) (ic : BitVec 2) (mtc p : Nat) (it : QItem 64) : Ctx :=
  ({ k with sc := (k.sc.advance ic mtc).pushD p (mtc + 1) it.val } : Ctx).joinReach .s it.rel

theorem exec_qpush {q : BitVec 2} {p : BitVec 5} (hr : Ready s c x (pairRegs p)) (hroom : 1 ≤ ((s.ctx c x).queue64 q.toNat).room s.gtc 16) :
    exec (.qpush ic q p) s = .next (s.modCtx c x fun k => k.pushed ic s.clock q.toNat ((s.ctx c x).sc.getD p.toNat) s.gtc s.seq) := by
  have hex : exec (.qpush ic q p) s = .next ((s.setCore ((s.ctx c x).sc.advance ic s.clock)).modCtx c x fun k =>
      k.push64 q.toNat ((s.ctx c x).sc.getD p.toNat) s.gtc ((s.ctx c x).reachOf .s s.seq)) := by
    simp only [exec, execQpush, State.curM_stream hr.cur, State.curX_stream hr.cur, hr.plain, hr.free, not_lt.2 hroom, decide_false, Bool.or_self,
      Bool.false_eq_true, if_false]
  rw [hex, State.setCore_stream hr.cur, State.modCtx_modCtx]
  rfl

theorem exec_qTake {remove : Bool} {q : BitVec 2} {p : BitVec 5} {it : QItem 64} {rest : List (QItem 64)} (hr : Ready s c x (pairRegs p))
    (hit : ((s.ctx c x).queue64 q.toNat).items = it :: rest) (hg : it.at_ < s.gtc) :
    qTake remove ic p q s = .next (s.modCtx c x fun k =>
      if remove then (k.qRead ic s.clock p.toNat it).pop64 q.toNat s.gtc else k.qRead ic s.clock p.toNat it) := by
  simp only [qTake, State.curM_stream hr.cur, State.curX_stream hr.cur, hr.plain, hr.free, QReg.ready_of_items hit hg, Bool.false_eq_true, if_false]
  rfl

theorem exec_exit_stream (hr : Ready s c x []) (hl : ∀ l ∈ (s.ctx c x).landing, l.stream ≠ .s) :
    exec (.exit ic) s = .next (s.modCtx c x fun k => { k with sc := k.sc.advance ic s.clock, sRun := false }) := by
  have hnone : (s.ctx c x).landing.any (fun l => l.stream == .s) = false := List.any_eq_false.2 fun l hm => by simpa using hl l hm
  have hex : exec (.exit ic) s = .next ((s.setCore ((s.ctx c x).sc.advance ic s.clock)).modCtx c x fun k => { k with sRun := false }) := by
    simp only [exec, execExit, hr.cur, hr.plain, hnone, Bool.false_eq_true, if_false]
  rw [hex, State.setCore_stream hr.cur, State.modCtx_modCtx]
  rfl

theorem exec_exit_hcp {h : Nat} (hcur : s.cur = .hcp h) : exec (.exit ic) s = .next (s.modHcp h fun t => t.stopWith 0 0) := by
  simp only [exec, execExit, hcur]

@[simp] theorem Ctx.pushed_sc (k : Ctx) (mtc q : Nat) (v : W64) (g seq : Nat) : (k.pushed ic mtc q v g seq).sc = k.sc.advance ic mtc := rfl
@[simp] theorem Ctx.pushed_queue64 (k : Ctx) (mtc q : Nat) (v : W64) (g seq : Nat) :
    (k.pushed ic mtc q v g seq).queue64 q = (k.queue64 q).push v g (k.reachOf .s seq) := Ctx.push64_queue64 ..
theorem Ctx.pushed_queue64_ne (k : Ctx) {q j : Nat} (mtc : Nat) (v : W64) (g seq : Nat) (h : j ≠ q) :
    (k.pushed ic mtc q v g seq).queue64 j = k.queue64 j := Ctx.push64_queue64_ne _ _ _ _ h
@[simp] theorem Ctx.qRead_sc (k : Ctx) (mtc p : Nat) (it : QItem 64) :
    (k.qRead ic mtc p it).sc = (k.sc.advance ic mtc).pushD p (mtc + 1) it.val := rfl
@[simp] theorem Ctx.qRead_q64 (k : Ctx) (mtc p : Nat) (it : QItem 64) : (k.qRead ic mtc p it).q64 = k.q64 := rfl
@[simp] theorem Ctx.qRead_queue64 (k : Ctx) (mtc p : Nat) (it : QItem 64) (q : Nat) : (k.qRead ic mtc p it).queue64 q = k.queue64 q := rfl

end

end Sys2Proof.Machine

namespace Sys2Proof

open Sys2Proof.Machine

/-- Settles O7: each queue word changes its own context, whose core goes on and whose one queue is pushed, popped or read; EXIT ends its
stream or its kernel. -/
theorem queueMovesAndExit : Obligations.QueueMovesAndExit := by
  refine ⟨?queues, ?exit⟩
  case queues =>
    intro s c x ic q p hr k old
    refine ⟨fun hroom => ?push, fun it rest hit hg => ⟨?pop, ?peek⟩⟩
    case push =>
      obtain ⟨hadv, hsame⟩ := modCtx_issues (ic := ic) hr.cur
        (f := fun k => k.pushed ic s.clock q.toNat ((s.ctx c x).sc.getD p.toNat) s.gtc s.seq) (Ctx.pushed_sc ..)
      refine ⟨_, exec_qpush hr hroom, hadv, hsame, onlyCtx_modCtx .., ?_, fun r hne => ?_⟩
      · rw [State.modCtx_ctx, Ctx.pushed_queue64, QReg.push_vals]
      · rw [State.modCtx_ctx, Ctx.pushed_queue64_ne _ _ _ _ _ hne]
    case pop =>
      obtain ⟨hadv, hgets⟩ := modCtx_issues_pair (ic := ic) hr.cur (p := p.toNat) (v := it.val)
        (f := fun k => (k.qRead ic s.clock p.toNat it).pop64 q.toNat s.gtc) (Ctx.qRead_sc ..)
      refine ⟨_, exec_qTake (remove := true) hr hit hg, hadv, hgets, onlyCtx_modCtx .., ?_, fun r hne => ?_⟩
      · rw [State.modCtx_ctx, if_pos rfl, Ctx.pop64_queue64, Ctx.qRead_queue64]
        exact QReg.pop_items hit _
      · rw [State.modCtx_ctx, if_pos rfl, Ctx.pop64_queue64_ne _ _ hne, Ctx.qRead_queue64]
    case peek =>
      obtain ⟨hadv, hgets⟩ := modCtx_issues_pair (ic := ic) hr.cur (p := p.toNat) (v := it.val)
        (f := fun k => k.qRead ic s.clock p.toNat it) (Ctx.qRead_sc ..)
      refine ⟨_, exec_qTake (remove := false) hr hit hg, hadv, hgets, onlyCtx_modCtx .., ?_⟩
      rw [State.modCtx_ctx, if_neg (by decide), Ctx.qRead_q64]
  case exit =>
    intro s ic
    refine ⟨fun c x hr hl => ?stream, fun h hcur hnone => ?hcp⟩
    case stream =>
      obtain ⟨hadv, hsame⟩ := modCtx_issues (ic := ic) hr.cur (f := fun k => { k with sc := k.sc.advance ic s.clock, sRun := false }) rfl
      exact ⟨_, exec_exit_stream hr hl, by rw [State.modCtx_ctx], hadv, hsame, onlyCtx_modCtx .., by rw [State.modCtx_ctx], by rw [State.modCtx_ctx]⟩
    case hcp =>
      refine ⟨_, exec_exit_hcp hcur, ?_, fun _ => rfl⟩
      rw [State.modHcp_hcp, Hcp.stopWith, hnone]

end Sys2Proof
end

section
/-! SUPPORT. The result of a sweep step (O30): which result an event delivers, and what a predicate, a queue entry and a row are after it. -/
namespace Sys2Proof.Machine

/-! ## The meadow after a result (R113, R116) -/

/-- A flight's own record is changed. -/
def Meadow.mapFlight (m : Meadow) (id : Nat) (h : VFlight → VFlight) : Meadow :=
  { m with flights := m.flights.map fun g => if g.id = id then h g else g }

@[simp] theorem Meadow.mapFlight_ctx (m : Meadow) (id : Nat) (h : VFlight → VFlight) (x : Nat) : (m.mapFlight id h).ctx x = m.ctx x := rfl
@[simp] theorem Meadow.mapFlight_row (m : Meadow) (id : Nat) (h : VFlight → VFlight) (v : Nat) : (m.mapFlight id h).row v = m.row v := rfl
@[simp] theorem Meadow.mapFlight_poisoned (m : Meadow) (id : Nat) (h : VFlight → VFlight) (v : Nat) :
    (m.mapFlight id h).poisoned v = m.poisoned v := rfl

/-- A flight no longer holds the result of a step. -/
def VFlight.without (g : VFlight) (step : Nat) : VFlight := { g with done := g.done.filter fun q => q.step != step }

/-- A context whose predicate p has taken the bits of a result's mask. -/
def Ctx.takePred (k : Ctx) (p : Nat) (r : VResult) (g : Nat) : Ctx :=
  (k.setPred p ((k.pred p &&& ~~~r.mask) ||| (r.row.setWidth 512 &&& r.mask))).notePred p r.mask g

/-- A context whose queue has taken a result: an entry of 64 bits or a row (R21). -/
def Ctx.takeEntry (k : Ctx) (q : Nat) (row : Row) (g : Nat) (rel : Reach) : Ctx :=
  if q < 4 then k.push64 q (row.setWidth 64) g rel else k.pushRow q row g rel

/-- A row of a result is written, noted in its flight; the poison bit is cleared where the mask covers all of the row. -/
def Meadow.takeRow (m : Meadow) (id v : Nat) (d : Row) (mask : Pred) : Meadow :=
  let m1 := m.mapFlight id fun g => { g with wrote := g.wrote ++ [(v, m.row v, m.poisoned v, d)] }
  if mask = BitVec.allOnes 512 then (m1.putRow v d mask).setPoison v false else m1.putRow v d mask

theorem Ctx.setPred_pred (k : Ctx) (p : Nat) (v : Pred) (j : Nat) : (k.setPred p v).pred j = if j = p ∧ j ≠ 0 then v else k.pred j := by
  by_cases hp : p = 0
  · have hno : ¬(j = p ∧ j ≠ 0) := by omega
    rw [if_neg hno, Ctx.setPred, if_pos hp]
  · rw [Ctx.setPred, if_neg hp]
    by_cases hj : j = p
    · rw [if_pos ⟨hj, hj ▸ hp⟩, hj, Ctx.pred, if_neg hp]
      exact tgetD_tputD_self ..
    · rw [if_neg fun h => hj h.1, Ctx.pred, Ctx.pred, tgetD_tputD_ne _ _ _ _ hj]

@[simp] theorem Ctx.notePred_pred (k : Ctx) (p : Nat) (mask : Pred) (g j : Nat) : (k.notePred p mask g).pred j = k.pred j := by
  unfold Ctx.notePred
  split <;> rfl

theorem Ctx.takePred_pred (k : Ctx) (p : Nat) (r : VResult) (g j : Nat) :
    (k.takePred p r g).pred j = if j = p ∧ j ≠ 0 then (k.pred j &&& ~~~r.mask) ||| (r.row.setWidth 512 &&& r.mask) else k.pred j := by
  rw [Ctx.takePred, Ctx.notePred_pred, Ctx.setPred_pred]
  split
  case isTrue h => rw [h.1]
  case isFalse => rfl

theorem Ctx.takeEntry_queue64 (k : Ctx) {q : Nat} (row : Row) (g : Nat) (rel : Reach) (h : q < 4) :
    ((k.takeEntry q row g rel).queue64 q).items.map (·.val) = (k.queue64 q).items.map (·.val) ++ [row.setWidth 64] := by
  rw [Ctx.takeEntry, if_pos h, Ctx.push64_queue64, QReg.push_vals]

theorem Ctx.takeEntry_queueRow (k : Ctx) {q : Nat} (row : Row) (g : Nat) (rel : Reach) (h : 4 ≤ q) :
    ((k.takeEntry q row g rel).queueRow q).items.map (·.val) = (k.queueRow q).items.map (·.val) ++ [row] := by
  have hpush : (k.pushRow q row g rel).queueRow q = (k.queueRow q).push row g rel := tgetD_tput_self ..
  rw [Ctx.takeEntry, if_neg (by omega), hpush, QReg.push_vals]

theorem Meadow.takeRow_row (m : Meadow) (id v : Nat) (d : Row) (mask : Pred) (u : Nat) :
    (m.takeRow id v d mask).row u = if u = v then d else m.row u := by
  unfold Meadow.takeRow
  split <;> simp only [Meadow.setPoison_row, Meadow.putRow_row, Meadow.mapFlight_row]

theorem Meadow.takeRow_poisoned (m : Meadow) (id v : Nat) (d : Row) (mask : Pred) (u : Nat) :
    (m.takeRow id v d mask).poisoned u = if u = v ∧ mask = BitVec.allOnes 512 then false else m.poisoned u := by
  unfold Meadow.takeRow
  by_cases h : mask = BitVec.allOnes 512 <;>
    simp only [h, if_true, if_false, and_true, and_false, Meadow.setPoison_false_poisoned, Meadow.putRow_poisoned, Meadow.mapFlight_poisoned]

theorem Meadow.takeRow_ctx (m : Meadow) (id v : Nat) (d : Row) (mask : Pred) (x : Nat) : (m.takeRow id v d mask).ctx x = m.ctx x := by
  have hctxs : (m.takeRow id v d mask).ctxs = m.ctxs := by
    unfold Meadow.takeRow
    split <;> exact Meadow.putRow_ctxs ..
  rw [Meadow.ctx, Meadow.ctx, hctxs]

/-! ## The row or the pair of rows of a result -/

/-- Both rows of a wide result are written, or the one row of another. -/
def Meadow.takeRows (m : Meadow) (id v : Nat) (r : VResult) : Meadow :=
  if r.wide then (m.takeRow id v r.row r.mask).takeRow id (v + 1) r.hi r.mask else m.takeRow id v r.row r.mask

theorem Meadow.takeRows_row (m : Meadow) (id v : Nat) (r : VResult) (u : Nat) :
    (m.takeRows id v r).row u = if r.wide = true ∧ u = v + 1 then r.hi else if u = v then r.row else m.row u := by
  cases hw : r.wide with
  | false => simp only [Meadow.takeRows, hw, Bool.false_eq_true, if_false, Meadow.takeRow_row, false_and]
  | true => simp only [Meadow.takeRows, hw, if_true, Meadow.takeRow_row, true_and]

theorem Meadow.takeRows_poisoned (m : Meadow) (id v : Nat) (r : VResult) (u : Nat) :
    (m.takeRows id v r).poisoned u =
      if (u = v ∨ (r.wide = true ∧ u = v + 1)) ∧ r.mask = BitVec.allOnes 512 then false else m.poisoned u := by
  cases hw : r.wide with
  | false => simp only [Meadow.takeRows, hw, Bool.false_eq_true, if_false, Meadow.takeRow_poisoned, false_and, or_false]
  | true =>
    simp only [Meadow.takeRows, hw, if_true, Meadow.takeRow_poisoned, true_and]
    by_cases hall : r.mask = BitVec.allOnes 512
    · simp only [hall, and_true, or_comm (a := u = v), ite_or]
    · simp only [hall, and_false, if_false]

theorem Meadow.takeRows_ctx (m : Meadow) (id v : Nat) (r : VResult) (x : Nat) : (m.takeRows id v r).ctx x = m.ctx x := by
  unfold Meadow.takeRows
  split <;> simp only [Meadow.takeRow_ctx]

/-! ## The event VECTOR_STEP_RESULT -/

theorem VFlight.word_of_vParts {f : VFlight} {op : BitVec 8} {w : VWord} (h : vParts f.ins = some (op, w)) : f.word = (op.toNat, w) := by
  rw [VFlight.word, h]

section
variable (s : State) (c : Nat) {f : VFlight} {r : VResult} {op : Nat} {w : VWord}

/-- A result that is a predicate, which its flight also records. -/
theorem stepResult_pred (hw : f.word = (op, w)) (hp : r.pred = true) : ∃ h : VFlight → VFlight,
    (s.stepResult c f r).mdw c = ((s.mdw c).mapFlight f.id h).modCtx f.ctx fun k => k.takePred (opRow w.dst r.step) r s.gtc := by
  simp only [State.stepResult, hw, State.modMdw_mdw, hp, if_true]
  exact ⟨_, rfl⟩

/-- A result whose destination is a queue. -/
theorem stepResult_queue {q : Nat} (hw : f.word = (op, w)) (hp : r.pred = false) (hq : opQueue? w.dst = some q) :
    (s.stepResult c f r).mdw c =
      ((s.mdw c).mapFlight f.id fun g => g.without r.step).modCtx f.ctx fun k => k.takeEntry q r.row s.gtc f.rel := by
  simp only [State.stepResult, hw, State.modMdw_mdw, hp, hq, Bool.false_eq_true, if_false]
  rfl

/-- A result whose destination is rows. -/
theorem stepResult_rows (hw : f.word = (op, w)) (hp : r.pred = false) (hq : opQueue? w.dst = none) :
    (s.stepResult c f r).mdw c = ((s.mdw c).mapFlight f.id fun g => g.without r.step).takeRows f.id (opRow w.dst r.step) r := by
  simp only [State.stepResult, hw, State.modMdw_mdw, hp, hq, Bool.false_eq_true, if_false]
  rfl

theorem onlyMdw_stepResult (f : VFlight) (r : VResult) : OnlyMdw s (s.stepResult c f r) c := by
  unfold State.stepResult
  exact onlyMdw_modMdw ..

/-- A result changes no context but its own flight's. -/
theorem stepResult_ctx_ne {y : Nat} (hw : f.word = (op, w)) (hy : y ≠ f.ctx) : (s.stepResult c f r).ctx c y = s.ctx c y := by
  rw [State.ctx]
  cases hp : r.pred with
  | true =>
    obtain ⟨h, hm⟩ := stepResult_pred s c hw hp
    rw [hm]
    exact Meadow.setCtx_ctx_ne _ _ hy
  | false =>
    cases hq : opQueue? w.dst with
    | some q =>
      rw [stepResult_queue s c hw hp hq]
      exact Meadow.setCtx_ctx_ne _ _ hy
    | none =>
      rw [stepResult_rows s c hw hp hq, Meadow.takeRows_ctx, Meadow.mapFlight_ctx]
      rfl

end

/-- The event delivers the first result of its step, once that is due and its queue has a slot. -/
theorem exec_vectorStepResult {s : State} {c id st : Nat} {f : VFlight} {r : VResult}
    (hf : (s.mdw c).flights.find? (·.id == id) = some f) (hr : f.done.find? (·.step == st) = some r) (hdue : r.due ≤ s.gtc)
    (hroom : f.roomFor ((s.mdw c).ctx f.ctx) s.gtc = true) : exec (.vectorStepResult c id st) s = .next (s.stepResult c f r) := by
  have hr' : f.done.find? (fun q => q.step == st && decide (q.due ≤ s.gtc)) = some r := by
    obtain ⟨hst, as, bs, hdone, has⟩ := List.find?_eq_some_iff_append.1 hr
    exact List.find?_eq_some_iff_append.2 ⟨by simp [hst, hdue], as, bs, hdone, fun a ha => by rw [Bool.not_and, has a ha, Bool.true_or]⟩
  simp only [exec, execVectorStepResult, hf, hr', hroom, if_true]

/-- The event leaves the state alone where it finds no flight, no due result or no slot. -/
theorem vectorStepResult_completes (c id st : Nat) : Completes (.vectorStepResult c id st) := by
  intro s
  simp only [exec, execVectorStepResult]
  split
  · exact ⟨_, rfl⟩
  · split
    · exact ⟨_, rfl⟩
    · split <;> exact ⟨_, rfl⟩

end Sys2Proof.Machine

namespace Sys2Proof
open Sys2Proof.Machine

/-- Settles O30: the event delivers the result it names, and the meadow after that differs, besides the flight's own record, in the predicate,
the queue entry or the rows that the result's kind and the word's destination select. -/
theorem stepResultsLand : Obligations.StepResultsLand := by
  refine ⟨vectorStepResult_completes, fun s c f r op w hparts hf hr hdue hroom => ?_⟩
  intro m v
  have hw := VFlight.word_of_vParts hparts
  refine ⟨_, exec_vectorStepResult hf hr hdue hroom, onlyMdw_stepResult .., fun y hy => stepResult_ctx_ne s c hw hy,
    fun hp => ?pred, fun hp hq => ?rows, fun q hp hq => ?queue⟩
  case pred =>
    obtain ⟨h, hm⟩ := stepResult_pred s c hw hp
    rw [State.ctx, hm, Meadow.modCtx_ctx, Meadow.mapFlight_ctx]
    exact ⟨fun u => rfl, Ctx.takePred_pred _ _ _ _⟩
  case rows =>
    rw [State.ctx, stepResult_rows s c hw hp hq]
    exact ⟨fun p => by rw [Meadow.takeRows_ctx, Meadow.mapFlight_ctx]; rfl, Meadow.takeRows_row _ _ _ _, Meadow.takeRows_poisoned _ _ _ _⟩
  case queue =>
    rw [State.ctx, stepResult_queue s c hw hp hq, Meadow.modCtx_ctx, Meadow.mapFlight_ctx]
    exact ⟨fun u => rfl, Ctx.takeEntry_queue64 _ _ _ _, Ctx.takeEntry_queueRow _ _ _ _⟩

end Sys2Proof
end

section
/-! SUPPORT. The issue of a tile step (O32, O34): reads of rows and scratchpad that hold no latent error, turns, and what the meadow is after a
word's next step has issued. -/
namespace Sys2Proof.Machine

/-! ## Reads without latent errors (R377, R378) -/

theorem State.rowScrub_clean {s : State} {c : Nat} (h : (s.mdw c).ecc = []) (rows : List Nat) : s.rowScrub c rows = s := if_pos h

theorem State.spadScrubs_clean {s : State} {c : Nat} (h : (s.mdw c).ecc = [] ∧ (s.mdw c).badWords = []) (x : Nat) (rs : List (Nat × Nat)) :
    rs.foldl (fun s r => s.spadScrub c x r.1 r.2) s = s := by
  induction rs with
  | nil => rfl
  | cons r rs ih =>
    have h1 : s.spadScrub c x r.1 r.2 = s := if_pos h
    rw [List.foldl_cons, h1, ih]

theorem Meadow.badWordIn_clean {m : Meadow} (h : m.ecc = [] ∧ m.badWords = []) (rs : List (Nat × Nat)) : m.badWordIn rs = none :=
  if_pos ⟨h.2, h.1⟩

/-! ## Turns (R292, R294) -/

/-- Meadow j is meadow m but for its issue units and for what context x records of its readiness. -/
structure Turned (m j : Meadow) (x : Nat) : Prop where
  rest : { j with units := [], ctxs := [] } = { m with units := [], ctxs := [] }
  ctxs : ∀ y, y ≠ x → j.ctx y = m.ctx y
  own : ∃ r p, j.ctx x = { m.ctx x with readyRun := r, promoted := p }

theorem Turned.refl (m : Meadow) (x : Nat) : Turned m m x := ⟨rfl, fun _ _ => rfl, _, _, rfl⟩

theorem Turned.takeTurn (m : Meadow) (u : IssueUnit) (x : Nat) (ic : BitVec 2) (busy : Nat) : Turned m (m.takeTurn u x ic busy) x :=
  ⟨rfl, fun _ hy => Meadow.setCtx_ctx_ne _ _ hy, _, _, Meadow.takeTurn_ctx ..⟩

theorem Turned.keepTurn (m : Meadow) (u : IssueUnit) (x busy : Nat) : Turned m (m.keepTurn u x busy) x :=
  ⟨rfl, fun _ hy => Meadow.setCtx_ctx_ne _ _ hy, _, _, Meadow.modCtx_ctx m x fun k => { k with readyRun := _, promoted := _ }⟩

/-- What neither units nor contexts hold is as in meadow m. -/
theorem Turned.eq {α : Type} {m j : Meadow} {x : Nat} (h : Turned m j x) (f : Meadow → α) (hf : ∀ m, f { m with units := [], ctxs := [] } = f m) :
    f j = f m := by rw [← hf, h.rest, hf]

theorem Turned.row {m j : Meadow} {x : Nat} (h : Turned m j x) (v : Nat) : j.row v = m.row v := h.eq (·.row v) fun _ => rfl

theorem Meadow.takeTurn_busy (m : Meadow) (u : IssueUnit) (x : Nat) (ic : BitVec 2) (busy : Nat) :
    ((m.takeTurn u x ic busy).unit u).busyUntil = busy := congrArg UnitSt.busyUntil (tgetD_tput_self _ _ _ _)

theorem Meadow.keepTurn_busy (m : Meadow) (u : IssueUnit) (x busy : Nat) : ((m.keepTurn u x busy).unit u).busyUntil = busy :=
  congrArg UnitSt.busyUntil (tgetD_tput_self _ _ _ _)

/-! ## A step's issue (R140, R145) -/

/-- Context k has become k' by the issue of the next step of its word in cycle g: the word goes on, or with its last step it has issued. -/
structure Stepped (tw : TileWord) (k k' : Ctx) (g nextAt : Nat) : Prop where
  sc : k'.sc = k.sc
  word : if tw.total ≤ tw.next + 1 then k'.tileWord = none ∧ k'.mpc = k.mpc + 24 ∧ k'.mNextAt = nextAt
    else k'.mpc = k.mpc ∧ ∃ u, k'.tileWord = some u ∧ u.running = true ∧ u.next = tw.next + 1 ∧ u.lastAt = g ∧ u.total = tw.total

/-- Issue control of an M-word. -/
def mIc (i : Instr) : BitVec 2 := match mParts i with | some (_, w) => w.ic | none => 0

theorem mIc_eq {i : Instr} {op : BitVec 8} {w : MWord} (h : mParts i = some (op, w)) : mIc i = w.ic := by rw [mIc, h]

/-- Step e is step `tw.next` of a word of context x, issued in cycle g as planned. -/
def TileStep.Of (e : TileStep) (x g : Nat) (tw : TileWord) (p : StepPlan) : Prop :=
  e.ctx = x ∧ e.at_ = g ∧ e.step = tw.next ∧ e.tile = p.tile ∧ e.overwrite = p.overwrite ∧ e.markFull = p.full ∧ e.rm = p.rm

theorem State.pushStep_clean {s : State} {c : Nat} (h : (s.mdw c).ecc = [] ∧ (s.mdw c).badWords = []) (t : TileStep) :
    s.pushStep c t = s.nextSeq.2.modMdw c fun m => { m with tileSteps := m.tileSteps ++ [TileStep.fetchRow { t with id := s.seq } m 0] } := by
  have h1 : s.nextSeq.2.stepScrub c { t with id := s.seq } 0 = s.nextSeq.2 := if_pos h
  rw [State.pushStep]
  exact congrArg (State.modMdw · c _) h1

/-- Meadow i, after a step of context x of meadow m: the array's turn stays with another context that holds it in a timed region (R142, R294),
or the step takes it. -/
def Meadow.stepTurn (m i : Meadow) (x : Nat) (ic : BitVec 2) (busy : Nat) : Meadow :=
  if m.timed && (m.unit .array).turn.any (· != x) then i.keepTurn .array x busy else i.takeTurn .array x ic busy

theorem Meadow.stepTurn_turned (m i : Meadow) (x : Nat) (ic : BitVec 2) (busy : Nat) : Turned i (m.stepTurn i x ic busy) x := by
  unfold Meadow.stepTurn
  split
  · exact .keepTurn ..
  · exact .takeTurn ..

theorem Meadow.stepTurn_busy (m i : Meadow) (x : Nat) (ic : BitVec 2) (busy : Nat) :
    ((m.stepTurn i x ic busy).unit .array).busyUntil = busy := by
  unfold Meadow.stepTurn
  split
  · exact keepTurn_busy ..
  · exact takeTurn_busy ..

/-- Without latent errors the issue of a step adds the step, changes its own context, and takes the array for 128 cycles. -/
theorem State.issueStep_eq {s : State} {c : Nat} (h : (s.mdw c).ecc = [] ∧ (s.mdw c).badWords = []) (x : Nat) (tw : TileWord) (p : StepPlan) :
    ∃ (e : TileStep) (f : Meadow → Ctx → Ctx) (ic : BitVec 2), e.Of x s.gtc tw p ∧
      (∀ m k, Stepped tw k (f m k) s.gtc (m.mtc + icGap (mIc tw.ins))) ∧
      s.issueStep c x tw p = (s.pushStep c e).modMdw c fun m => m.stepTurn (m.modCtx x (f m)) x ic (s.gtc + 128) := by
  unfold State.issueStep
  rw [State.spadScrubs_clean h]
  extract_lets s0 m k fresh tw' t last s1 ic
  have hw : tw'.next = tw.next ∧ tw'.total = tw.total ∧ tw'.ins = tw.ins := by
    simp only [tw']
    split <;> exact ⟨rfl, rfl, rfl⟩
  obtain ⟨hnext, htotal, hins⟩ := hw
  have hic : ic = mIc tw.ins := congrArg mIc hins
  refine ⟨_, _, _, ⟨rfl, rfl, hnext, rfl, rfl, rfl, rfl⟩, fun m k => ?_, rfl⟩
  extract_lets k1 k2 k3 k4
  have h2 : k2.sc = k.sc ∧ k2.mpc = k.mpc := by
    simp only [k2]
    split <;> exact ⟨rfl, rfl⟩
  have h4 : k4.sc = k.sc ∧ k4.mpc = k.mpc := by
    simp only [k4, k3]
    split <;> exact h2
  simp only [last, t, hnext, htotal]
  split
  case isTrue hl =>
    refine ⟨h4.1, ?_⟩
    rw [if_pos hl]
    exact ⟨rfl, congrArg (· + 24) h4.2, congrArg (m.mtc + icGap ·) hic⟩
  case isFalse hl =>
    refine ⟨h4.1, ?_⟩
    rw [if_neg hl]
    exact ⟨h4.2, _, rfl, rfl, rfl, rfl, rfl⟩

/-- The state after a step's issue: its step e, its context k', and a meadow that keeps everything else but the array's turn. -/
theorem State.issueStep_gives {s : State} {c : Nat} (h : (s.mdw c).ecc = [] ∧ (s.mdw c).badWords = []) (x : Nat) (tw : TileWord) (p : StepPlan) :
    ∃ (e : TileStep) (k' : Ctx), e.Of x s.gtc tw p ∧ Stepped tw (s.ctx c x) k' s.gtc ((s.mdw c).mtc + icGap (mIc tw.ins)) ∧
      OnlyMdw s (s.issueStep c x tw p) c ∧
      Turned (({ s.mdw c with tileSteps := (s.mdw c).tileSteps ++ [e] } : Meadow).setCtx x k') ((s.issueStep c x tw p).mdw c) x ∧
      (((s.issueStep c x tw p).mdw c).unit .array).busyUntil = s.gtc + 128 := by
  obtain ⟨e, f, ic, he, hf, ht⟩ := State.issueStep_eq h x tw p
  rw [State.pushStep_clean h] at ht
  let e1 : TileStep := TileStep.fetchRow { e with id := s.seq } (s.mdw c) 0
  let m1 : Meadow := { s.mdw c with tileSteps := (s.mdw c).tileSteps ++ [e1] }
  have hm : (s.issueStep c x tw p).mdw c = m1.stepTurn (m1.modCtx x (f m1)) x ic (s.gtc + 128) := by
    rw [ht, State.modMdw_mdw, State.modMdw_mdw]
    rfl
  rw [hm]
  refine ⟨e1, f m1 (s.ctx c x), he, hf m1 _, ?_, Meadow.stepTurn_turned .., Meadow.stepTurn_busy ..⟩
  rw [ht]
  exact onlyMdw_trans (t := s.nextSeq.2) ⟨fun _ _ => rfl, rfl, fun _ => rfl⟩ (onlyMdw_trans (onlyMdw_modMdw ..) (onlyMdw_modMdw ..))

/-- A word that issues step `tw.next` of a tile-step word, with the plan of that step, leaves what R140 and R145 say of a step's issue. -/
theorem stepIssues_of_exec {s : State} {i : Instr} {c x : Nat} {op : BitVec 8} {w : MWord} {tw : TileWord} (hw : mParts tw.ins = some (op, w))
    (h : (s.mdw c).ecc = [] ∧ (s.mdw c).badWords = []) (hi : exec i s = .next (s.issueStep c x tw (tw.plan (s.mdw c) tw.next))) :
    StepIssues s i c x w.ic tw := by
  unfold StepIssues
  intro p
  obtain ⟨e, k', ⟨hx, hat, hstep, htile, how, hfull, hrm⟩, ⟨hsc, hword⟩, honly, ht, hbusy⟩ := State.issueStep_gives h x tw p
  have hne (y : Nat) (hy : y ≠ x) : (s.issueStep c x tw p).ctx c y = s.ctx c y := (ht.ctxs y hy).trans (Meadow.setCtx_ctx_ne _ _ hy)
  obtain ⟨r, q, hown⟩ := ht.own
  rw [Meadow.setCtx_ctx] at hown
  have hk : (s.issueStep c x tw p).ctx c x = { k' with readyRun := r, promoted := q } := hown
  refine ⟨_, e, hi, honly, hne, ht.eq (·.tileSteps) fun _ => rfl, hx, hat, hstep, htile, how, hfull, hrm, hbusy, ht.row, ?_⟩
  rw [hk]
  rw [mIc_eq hw] at hword
  split
  case isTrue hl =>
    rw [if_pos hl] at hword
    obtain ⟨htw, hpc, hnext⟩ := hword
    exact ⟨⟨honly, hne, by rw [hk]; exact hpc, by rw [hk]; exact hnext, by rw [hk]; exact hsc⟩, htw⟩
  case isFalse hl =>
    rw [if_neg hl] at hword
    exact hword

/-! ## The word at the head of its stream -/

section
variable {s : State} {c x : Nat} {w : MWord} {tw : TileWord}

/-- The first step of a word, its checks passed, issues at the head of its stream (R140). -/
theorem tileHead_go (h : StepReady s c x tw) : s.tileHead c x tw none = .next (s.issueStep c x tw (tw.plan (s.mdw c) tw.next)) := by
  obtain ⟨hwaits, hfate, harray, -⟩ := h
  simp only [State.tileHead, harray, hwaits, Bool.and_false, Bool.or_self, Bool.false_eq_true, if_false]
  rw [State.ctx] at hfate
  rw [hfate]

/-- A later step of a word, its checks passed, issues in its own cycle (R140). -/
theorem plainStep_go (h : StepReady s c x tw) : s.plainStep c x tw = s.issueStep c x tw (tw.plan (s.mdw c) tw.next) := by
  obtain ⟨hwaits, hfate, harray, -⟩ := h
  simp only [State.plainStep, harray, hwaits, Bool.and_false, Bool.or_self, Bool.false_eq_true, if_false]
  rw [State.ctx] at hfate
  rw [hfate]

theorem stampTarget_unstamped (k : Ctx) (h : w.stampMode = .none) : stampTarget k w = none := by rw [stampTarget, h]

/-- An MMA or MMAG that is not under way, with its descriptors and grants. -/
theorem mmaGo_fresh {i : Instr} (hr : MReady s c x) (hs : w.stampMode = .none) (hn : (s.ctx c x).tileWord = none)
    (htw : tw = { ins := i, pc := (s.ctx c x).mpc, total := mmaGo.rowSteps w.steps, regs := mWordRegs (s.ctx c x) w, running := false })
    (hg : mUngranted (s.ctx c x) (some w.tile.toNat) tw.bregs = none) (hd : mmaDescBad w tw.regs = none) :
    mmaGo i w s = s.tileHead c x tw none := by
  subst htw
  rw [State.ctx] at hn hg hd
  simp only [mmaGo, hr.cur, hr.free, hn, hg, hd, stampTarget_unstamped _ hs, Bool.or_self, Bool.false_eq_true, if_false, State.ctx]

/-- An MWALK that is not under way, with a block that breaks no rule. -/
theorem walkGo_fresh {i : Instr} (hr : MReady s c x) (hs : w.stampMode = .none) (hn : (s.ctx c x).tileWord = none) (ha : s.arrayHeld c x = false)
    (hm : (s.mdw c).ecc = [] ∧ (s.mdw c).badWords = []) (h128 : ((s.ctx c x).mreg w.mx.toNat).toNat % 128 = 0)
    (h20 : ((s.ctx c x).mreg w.mx.toNat).toNat < 2 ^ 20)
    (hb : topbWorst ((s.mdw c).topbAt ((s.ctx c x).mreg w.mx.toNat).toNat) = none) :
    walkGo i w s = s.tileHead c x
      { ins := i, pc := (s.ctx c x).mpc, total := topbTotal ((s.mdw c).topbAt ((s.ctx c x).mreg w.mx.toNat).toNat), running := false,
        walk := some ⟨(s.mdw c).topbAt ((s.ctx c x).mreg w.mx.toNat).toNat, (s.ctx c x).mpc + 24⟩ } none := by
  have hfault : (s.mdw c).topbFault ((s.ctx c x).mreg w.mx.toNat).toNat ((s.mdw c).topbAt ((s.ctx c x).mreg w.mx.toNat).toNat) = none := by
    rw [Meadow.topbFault, hb, Meadow.badWordIn_clean hm]
    rfl
  have hplace : ¬(((s.ctx c x).mreg w.mx.toNat).toNat % 128 ≠ 0 ∨ 2 ^ 20 ≤ ((s.ctx c x).mreg w.mx.toNat).toNat) := by omega
  rw [State.ctx] at *
  simp only [walkGo, hr.cur, hr.free, hn, ha, hfault, hplace, stampTarget_unstamped _ hs, Option.bind_none, Option.filter_none, Option.isSome_none,
    Option.isNone_none, Bool.and_false, Bool.false_eq_true, if_false]

/-- An MWRES with nothing suspended only goes on. -/
theorem resumeGo_idle {i : Instr} (hr : MReady s c x) (hn : (s.ctx c x).tileWord = none) (hu : (s.ctx c x).suspended = none) :
    resumeGo i w s = .next (s.modMdw c fun m => m.mAdvance x w.ic) := by
  rw [State.ctx] at hn hu
  simp only [resumeGo, hr.cur, hr.free, hn, hu, Option.bind_none, Bool.false_eq_true, if_false]

/-- An MWRES takes up the suspended walk. -/
theorem resumeGo_walk {i : Instr} {u : TileWord} (hr : MReady s c x) (hs : w.stampMode = .none) (hn : (s.ctx c x).tileWord = none)
    (hu : (s.ctx c x).suspended = some u) :
    resumeGo i w s = s.tileHead c x { u with ins := i, pc := (s.ctx c x).mpc, byTrap := false } none := by
  rw [State.ctx] at *
  simp only [resumeGo, hr.cur, hr.free, hn, hu, stampTarget_unstamped _ hs, Option.bind_none, Bool.false_eq_true, if_false, ite_self]

end
end Sys2Proof.Machine

namespace Sys2Proof
open Sys2Proof.Machine

/-- Settles O32: each word comes to the head of its stream with the step its operands, block or suspended walk give, and that step issues. -/
theorem tileStepWords : Obligations.TileStepWords := by
  intro s c x w hr hs m k steps hn
  refine ⟨fun i hi => ?mma, ?walk, fun hu => ?idle, ?resume⟩
  case mma =>
    intro tw hg hd h
    have hgo : mmaGo i w s = s.tileHead c x tw none := mmaGo_fresh hr hs hn rfl hg hd
    simp only [List.mem_cons, List.not_mem_nil, or_false] at hi
    rcases hi with rfl | rfl
    · exact stepIssues_of_exec rfl h.clean (hgo.trans (tileHead_go h))
    · exact stepIssues_of_exec rfl h.clean (hgo.trans (tileHead_go h))
  case walk =>
    intro a topb tw h128 h20 hb h
    exact stepIssues_of_exec rfl h.clean ((walkGo_fresh hr hs hn h.array h.clean h128 h20 hb).trans (tileHead_go h))
  case idle => exact ⟨_, resumeGo_idle hr hn hu, mIssued_setMdw w.ic (.refl m x), fun v => by rw [State.modMdw_mdw, Meadow.mAdvance_row]⟩
  case resume =>
    intro u hu tw h
    exact stepIssues_of_exec rfl h.clean ((resumeGo_walk hr hs hn hu).trans (tileHead_go h))

end Sys2Proof
end

section
/-! SUPPORT. The result of an integer tile step (O34): lanes of a packed row, the four saturating group sums, and the rows that a step without
a scatter list writes. -/
namespace Sys2Proof.Machine

/-! ## Lanes (R39) -/

theorem packLanes_lane (w : Nat) (l : List Nat) (b : Nat) : packLanes w l / 2 ^ (w * b) % 2 ^ w = (l[b]?).getD 0 % 2 ^ w := by
  induction l generalizing b with
  | nil => simp [packLanes]
  | cons x xs ih =>
    cases b with
    | zero => simp [packLanes]
    | succ b =>
      have hx : x % 2 ^ w < 2 ^ w := Nat.mod_lt _ (Nat.two_pow_pos w)
      have hdiv : (x % 2 ^ w + 2 ^ w * packLanes w xs) / 2 ^ w = packLanes w xs := by
        rw [Nat.add_mul_div_left _ _ (Nat.two_pow_pos w), Nat.div_eq_of_lt hx, Nat.zero_add]
      rw [packLanes, Nat.mul_succ, Nat.add_comm (w * b), Nat.pow_add, ← Nat.div_div_eq_div_mul, hdiv, ih]
      rfl

theorem lanesOf_lane (w n r b : Nat) (h : b < n) : (lanesOf w n r)[b]? = some (r / 2 ^ (w * b) % 2 ^ w) := by
  induction n generalizing r b with
  | zero => omega
  | succ n ih =>
    cases b with
    | zero => simp [lanesOf]
    | succ b =>
      rw [lanesOf, List.getElem?_cons_succ, ih _ _ (by omega), Nat.div_div_eq_div_mul, ← Nat.pow_add, Nat.mul_succ, Nat.add_comm w]

theorem length_lanesOf (w n r : Nat) : (lanesOf w n r).length = n := by
  induction n generalizing r with
  | zero => rfl
  | succ n ih => rw [lanesOf, List.length_cons, ih]

theorem extractLsb'_ofNat {n lo len : Nat} (u : Nat) (h : lo + len ≤ n) :
    (BitVec.ofNat n u).extractLsb' lo len = BitVec.ofNat len (u / 2 ^ lo) := by
  refine BitVec.eq_of_getLsbD_eq fun i hi => ?_
  have hlt : lo + i < n := by omega
  simp only [BitVec.getLsbD_extractLsb', BitVec.getLsbD_ofNat, Nat.testBit_div_two_pow, hi, hlt, decide_true, Bool.true_and, Nat.add_comm i]

/-- Lane b of a row of 128 lanes. -/
theorem rowOf_lane (l : List Nat) {b : Nat} (h : b < 128) :
    (BitVec.ofNat 4096 (packLanes 32 l)).extractLsb' (32 * b) 32 = BitVec.ofNat 32 ((l[b]?).getD 0) := by
  rw [extractLsb'_ofNat _ (by omega)]
  refine BitVec.eq_of_toNat_eq ?_
  rw [BitVec.toNat_ofNat, BitVec.toNat_ofNat, packLanes_lane]

/-! ## Integers of 32 bits (R76) -/

theorem tyInt_i32 (v : BitVec 32) : tyInt .i32 v.toNat = v.toInt := by
  have hv : v.toNat % 2 ^ 32 = v.toNat := Nat.mod_eq_of_lt v.isLt
  simp only [tyInt, ElemType.signed, ElemType.width, sextN, BitVec.toInt_eq_toNat_cond, if_true, hv]
  by_cases h : 2 * v.toNat < 2 ^ 32
  · rw [if_pos (by omega), if_pos h]
  · rw [if_neg (by omega), if_neg h]
    rfl

/-- A value of 32 bits with sign, saturated. -/
def sat32 (v : Int) : Int := max (-2 ^ 31) (min (2 ^ 31 - 1) v)

theorem tyInt_tySat_i32 (v : Int) : tyInt .i32 (tySat .i32 v) = sat32 v := by
  simp only [tyInt, tySat, ElemType.signed, ElemType.width, sextN, wrapN, sat32, if_true]
  split <;> omega

theorem ofNat_wrapN (v : Int) : BitVec.ofNat 32 (wrapN v 32) = BitVec.ofInt 32 v := by
  refine BitVec.eq_of_toNat_eq ?_
  rw [wrapN, BitVec.toNat_ofNat, BitVec.toNat_ofInt]
  omega

/-! ## An element of an integer step (R135) -/

/-- Group g of an element's products, 64 to a group. -/
def groupSum (as bs : List Int) (g : Nat) : Int := (List.zipWith (· * ·) ((as.drop (64 * g)).take 64) ((bs.drop (64 * g)).take 64)).foldl (· + ·) 0

theorem intElem_eq (acc : Option Int) (as bs : List Int) (h : as.length = 256) : intElem acc as bs =
    sat32 (sat32 (sat32 (sat32 (acc.getD 0 + groupSum as bs 0) + groupSum as bs 1) + groupSum as bs 2) + groupSum as bs 3) := by
  have hr : List.range 4 = [0, 1, 2, 3] := rfl
  simp only [intElem, h, hr, List.foldl_cons, List.foldl_nil, tyInt_tySat_i32, Option.getD_some]
  rfl

/-- The integer formats of a tile step are 8 bits wide (R134). -/
theorem ElemType.width_of_stepClass_i8 (f : ElemType) : f.stepClass = some .i8 → f.width = 8 := by cases f <;> decide

/-- An integer step's A operand has 256 elements in a row. -/
theorem TileStep.length_ints {t : TileStep} (h : t.float = false) (a : Nat) : (t.a.ints a).length = 256 := by
  have hw : t.a.fmt.width = 8 := ElemType.width_of_stepClass_i8 _ (bne_eq_false_iff_eq.1 h)
  rw [TileOperand.ints, List.length_map, length_lanesOf, hw]

/-- The row of an integer step, over the lanes of an old row or none. -/
theorem TileStep.row_lane {t : TileStep} (h : t.float = false) (coord a : Nat) (old : Option (List Nat)) {b : Nat} (hb : b < 128) :
    BitVec.ofNat 32 (((t.row coord a old)[b]?).getD 0) =
      BitVec.ofInt 32 (intElem (old.map fun o => tyInt .i32 ((o[b]?).getD 0)) (t.a.ints a) (t.b.ints b)) := by
  simp only [TileStep.row, h, Bool.false_eq_true, if_false, List.getElem?_map, List.getElem?_range hb, Option.map_some, Option.getD_some, ofNat_wrapN]

/-! ## The rows written (R145, R146) -/

/-- Rows of a tile written whole, at some offsets. -/
def Meadow.putRows (m : Meadow) (n : Nat) (g : Nat → Row) (l : List Nat) : Meadow :=
  l.foldl (fun m a => m.putRow (128 * n + a) (g a) (BitVec.allOnes 512)) m

theorem Meadow.putRows_row (m : Meadow) (n : Nat) (g : Nat → Row) (l : List Nat) (v : Nat) :
    (m.putRows n g l).row v = if ∃ a ∈ l, v = 128 * n + a then g (v - 128 * n) else m.row v := by
  induction l generalizing m with
  | nil => simp [Meadow.putRows]
  | cons a l ih =>
    refine (ih _).trans ?_
    rw [Meadow.putRow_row]
    by_cases h : v = 128 * n + a
    · subst h
      simp only [List.mem_cons, exists_eq_or_imp, true_or, if_true, Nat.add_sub_cancel_left, ite_self]
    · simp only [List.mem_cons, exists_eq_or_imp, h, false_or, if_false]

theorem Meadow.putRow_tileFull (m : Meadow) (v : Nat) (r : Row) (mask : Pred) : (m.putRow v r mask).tileFull = m.tileFull := by
  rw [Meadow.putRow, Meadow.freshWords]
  split <;> rfl

theorem Meadow.putRows_tileFull (m : Meadow) (n : Nat) (g : Nat → Row) (l : List Nat) : (m.putRows n g l).tileFull = m.tileFull := by
  induction l generalizing m with
  | nil => rfl
  | cons a l ih => exact (ih _).trans (m.putRow_tileFull ..)

/-- A fold that writes each row when it first meets it, and meets each once: it writes the rows. -/
theorem foldl_firstWrites {m0 : Meadow} {n : Nat} {g : Nat → Row} {f : Meadow × List Nat → Nat → Meadow × List Nat} {l : List Nat}
    (hf : ∀ r, ∀ a ∈ l, r.1.poisoned (128 * n + a) = m0.poisoned (128 * n + a) → a ∉ r.2 →
      f r a = (r.1.putRow (128 * n + a) (g a) (BitVec.allOnes 512), a :: r.2))
    (hl : l.Nodup) {r : Meadow × List Nat} (hp : ∀ v, r.1.poisoned v = m0.poisoned v) (hr : ∀ a ∈ l, a ∉ r.2) :
    (l.foldl f r).1 = r.1.putRows n g l := by
  induction l generalizing r with
  | nil => rfl
  | cons a l ih =>
    obtain ⟨hal, hl⟩ := List.nodup_cons.1 hl
    rw [List.foldl_cons, hf r a (List.mem_cons_self ..) (hp _) (hr a (List.mem_cons_self ..))]
    refine ih (fun r b hb => hf r b (List.mem_cons_of_mem _ hb)) hl (fun v => ?_) fun b hb => ?_
    · rw [Meadow.putRow_poisoned, hp]
    · rw [List.mem_cons, not_or]
      exact ⟨fun h => hal (h ▸ hb), hr b (List.mem_cons_of_mem _ hb)⟩

/-- An integer step without a scatter list whose operands and tile are good. -/
structure PlainStep (m : Meadow) (t : TileStep) : Prop where
  int : t.float = false
  whole : t.scatter = []
  good : ∀ r, r < 128 → t.a.rowIsBad r = false ∧ t.b.rowIsBad r = false ∧ m.poisoned (128 * t.tile + r) = false

/-- The lanes that row a of a step adds to, none for an overwrite. -/
def TileStep.addsTo (t : TileStep) (m : Meadow) (a : Nat) : Option (List Nat) :=
  if t.overwrite then none else some (lanesOf 32 128 (m.row (128 * t.tile + a)).toNat)

/-- Such a step writes the 128 rows of its tile. -/
theorem stepWrite_plain {m : Meadow} {t : TileStep} (h : PlainStep m t) (coord : Nat) : m.stepWrite coord t =
    m.putRows t.tile (fun a => BitVec.ofNat 4096 (packLanes 32 (t.row coord a (t.addsTo m a)))) (List.range 128) := by
  have hb : (List.range 128).any t.b.rowIsBad = false :=
    List.any_eq_false.2 fun r hr => by rw [(h.good r (List.mem_range.1 hr)).2.1]; exact Bool.false_ne_true
  refine foldl_firstWrites (m0 := m) (fun r a ha hp hfresh => ?_) List.nodup_range (fun _ => rfl) (fun _ _ => List.not_mem_nil)
  obtain ⟨hbad, -, hpois⟩ := h.good a (List.mem_range.1 ha)
  have hdest : t.dest a = some a := if_pos h.whole
  have hfirst : r.2.contains a = false := by simpa using hfresh
  have hold : t.oldLanes m a = lanesOf 32 128 (m.row (128 * t.tile + a)).toNat := by
    simp only [TileStep.oldLanes, hpois, Bool.false_and, Bool.false_eq_true, if_false]
  simp only [hdest, hfirst, hold, hb, hbad, hp, hpois, h.int, TileStep.addsTo, Bool.not_false, Bool.true_and, Bool.or_self, Bool.and_false,
    Bool.false_eq_true, if_true, if_false]

/-- A step's whole result in a meadow: its rows, and the tile's bit when its word says so. -/
def Meadow.landStep (m : Meadow) (coord seq : Nat) (t : TileStep) : Meadow :=
  if t.markFull then (m.stepWrite coord t).setTile t.tile true (((m.stepWrite coord t).ctx t.ctx).reachOf .m seq) else m.stepWrite coord t

theorem Meadow.landStep_row (m : Meadow) (coord seq : Nat) (t : TileStep) (v : Nat) : (m.landStep coord seq t).row v = (m.stepWrite coord t).row v := by
  unfold Meadow.landStep
  split <;> rfl

theorem Meadow.mem_landStep_tileFull (m : Meadow) (coord seq : Nat) (t : TileStep) :
    t.tile ∈ (m.landStep coord seq t).tileFull ↔ t.markFull = true ∨ t.tile ∈ (m.stepWrite coord t).tileFull := by
  unfold Meadow.landStep
  split
  case isTrue h => simp only [h, true_or, Meadow.setTile, if_true, mem_sortedInsert]
  case isFalse h => simp only [h, Bool.false_eq_true, false_or]

section
variable {m : Meadow} {t : TileStep} (h : PlainStep m t) (coord : Nat)
include h

theorem stepWrite_row_other {v : Nat} (hv : v / 128 ≠ t.tile) : (m.stepWrite coord t).row v = m.row v := by
  rw [stepWrite_plain h, Meadow.putRows_row, if_neg (mt (exists_row_of_tile _ _).1 hv)]

/-- Element (a, b) of the tile after the step: the four group sums added to the old element or to 0, saturated after each. -/
theorem stepWrite_element {a b : Nat} (ha : a < 128) (hb : b < 128) :
    ((m.stepWrite coord t).row (128 * t.tile + a)).extractLsb' (32 * b) 32 =
      BitVec.ofInt 32 (sat32 (sat32 (sat32 (sat32 ((if t.overwrite then 0 else ((m.row (128 * t.tile + a)).extractLsb' (32 * b) 32).toInt) +
        groupSum (t.a.ints a) (t.b.ints b) 0) + groupSum (t.a.ints a) (t.b.ints b) 1) + groupSum (t.a.ints a) (t.b.ints b) 2) +
        groupSum (t.a.ints a) (t.b.ints b) 3)) := by
  have hold : (((t.addsTo m a).map fun o => tyInt .i32 ((o[b]?).getD 0)).getD 0) =
      if t.overwrite then 0 else ((m.row (128 * t.tile + a)).extractLsb' (32 * b) 32).toInt := by
    unfold TileStep.addsTo
    split
    · rfl
    · rw [← tyInt_i32, BitVec.extractLsb'_toNat, Nat.shiftRight_eq_div_pow, Option.map_some, lanesOf_lane _ _ _ _ hb, Option.getD_some,
        Option.getD_some]
  rw [stepWrite_plain h, Meadow.putRows_row, if_pos ⟨a, List.mem_range.2 ha, rfl⟩, Nat.add_sub_cancel_left, rowOf_lane _ hb,
    TileStep.row_lane h.int _ _ _ hb, intElem_eq _ _ _ (TileStep.length_ints h.int a), hold]

end

/-! ## The events -/

section
variable {s : State} {c : Nat}

theorem exec_tileStepIssue {x : Nat} {tw : TileWord} (hb : (s.mdw c).beat = none) (hf : (s.mdw c).frozen = false)
    (hst : (s.mdw c).dueWord s.gtc true = none) (hpl : (s.mdw c).dueWord s.gtc false = some (x, tw)) :
    exec (.tileStepIssue c) s = .next (s.plainStep c x tw) := by
  simp only [exec, execTileStepIssue, hb, hf, hst, hpl, Option.bind_none, Option.isSome_none, Bool.false_eq_true, if_false]

theorem exec_tileStepResult {t : TileStep} (hf : (s.mdw c).tileSteps.find? (·.id == t.id) = some t) (hg : s.gtc = t.at_ + 272)
    (he : (s.mdw c).ecc = []) : exec (.tileStepResult c t.id) s = .next (s.modMdw c fun m => m.landStep c s.seq t) := by
  simp only [exec, execTileStepResult, hf, hg, State.rowScrub_clean he, ne_eq, not_true, if_false]
  rfl

/-- TILE_STEP_ISSUE finds a beat's step, a word due or nothing to do, and each is a state. -/
theorem tileStepIssue_completes (c : Nat) : Completes (.tileStepIssue c) := by
  intro s
  simp only [exec, execTileStepIssue]
  split
  · exact ⟨_, rfl⟩
  · split
    · exact ⟨_, rfl⟩
    · split
      · exact ⟨_, rfl⟩
      · split <;> exact ⟨_, rfl⟩

/-- TILE_STEP_RESULT leaves the state alone where it finds no step, or one whose result is not due. -/
theorem tileStepResult_completes (c id : Nat) : Completes (.tileStepResult c id) := by
  intro s
  simp only [exec, execTileStepResult]
  split
  · exact ⟨_, rfl⟩
  · split <;> exact ⟨_, rfl⟩

end
end Sys2Proof.Machine

namespace Sys2Proof
open Sys2Proof.Machine

/-- Settles O34: a due step whose checks have passed issues as a word's first step does; an integer step's result is the rows it writes and the
tile's bit. -/
theorem tileStepEvents : Obligations.TileStepEvents := by
  refine ⟨tileStepIssue_completes, tileStepResult_completes, fun s c x => ⟨?issue, ?result⟩⟩
  case issue =>
    intro tw hb hf hst hpl _ h
    obtain ⟨e, k', ⟨hx, hat, hstep, -⟩, -, honly, ht, -⟩ := State.issueStep_gives h.clean x tw (tw.plan (s.mdw c) tw.next)
    exact ⟨_, e, (exec_tileStepIssue hb hf hst hpl).trans (congrArg _ (plainStep_go h)), honly, ht.eq (·.tileSteps) fun _ => rfl, hx, hat, hstep, ht.row⟩
  case result =>
    intro e hfind hg hecc hint hwhole _ hgood sat sum old
    have h : PlainStep (s.mdw c) e := ⟨hint, hwhole, hgood⟩
    refine ⟨_, exec_tileStepResult hfind hg hecc, onlyMdw_modMdw .., fun a b ha hb => ?_, fun v hv => ?_, ?_⟩
    · rw [State.modMdw_mdw, Meadow.landStep_row]
      exact stepWrite_element h c ha hb
    · rw [State.modMdw_mdw, Meadow.landStep_row, stepWrite_row_other h c hv]
    · rw [State.modMdw_mdw, Meadow.mem_landStep_tileFull, stepWrite_plain h, Meadow.putRows_tileFull]

end Sys2Proof
end

section
/-! SUPPORT. The start of an operation of the M-stream (O33): MLDB, MSTA and MDRAW join the meadow's operations with their words' issue. -/
namespace Sys2Proof.Machine

/-! ## An operation as it starts (R148, R149, R167) -/

theorem TileOperand.fetch_fmt (o : TileOperand) (m : Meadow) (sbf : Tab W32) (r : Nat) : (o.fetch m sbf r).fmt = o.fmt := by
  unfold TileOperand.fetch
  dsimp only
  split
  · rfl
  · split <;> rfl

theorem Meadow.srcOperand_fmt (m : Meadow) (f : ElemType) (o : MSource) (lo hi : W32) (g : Option W32) (t : Nat) :
    (m.srcOperand f o lo hi g t).fmt = f := by cases o <;> rfl

/-- Operation e is operation o started in cycle g, but for the rows it has read. -/
def MOp.Started (e o : MOp) (g : Nat) : Prop :=
  ∃ id q rows, e = { o with id := id, at_ := g, operand := q, rows := rows } ∧ q.map (·.fmt) = o.operand.map (·.fmt)

/-- An operation in the cycle of its start: the first of its rows has been read. -/
def MOp.begun (o : MOp) (id g : Nat) (m : Meadow) : MOp :=
  match o.operand with
  | some p => { o with id := id, at_ := g, operand := some (p.fetch m o.sbf 0) }
  | none => { o with id := id, at_ := g, rows := [(m.row o.row0, m.poisoned o.row0)] }

theorem MOp.begun_started (o : MOp) (id g : Nat) (m : Meadow) : (o.begun id g m).Started o g := by
  unfold MOp.begun
  split
  case h_1 p hp => exact ⟨id, _, _, rfl, by rw [hp, Option.map_some, Option.map_some, TileOperand.fetch_fmt]⟩
  case h_2 => exact ⟨id, _, _, rfl, rfl⟩

/-- The turn after an operation's start: MLDB and MSTA take the turn of their path, MDRAW takes none. -/
def Meadow.mopTurn (m : Meadow) (u : Option IssueUnit) (x : Nat) (ic : BitVec 2) (busy : Nat) : Meadow :=
  match u with
  | some u => m.takeTurn u x ic busy
  | none => m

theorem Meadow.mopTurn_turned (m : Meadow) (u : Option IssueUnit) (x : Nat) (ic : BitVec 2) (busy : Nat) : Turned m (m.mopTurn u x ic busy) x := by
  cases u with
  | none => exact .refl m x
  | some u => exact .takeTurn ..

/-- The state after an operation's start: the operation joins the others, its word has issued, and the rest of the meadow stays but for turns. -/
theorem State.startMop_gives (s : State) (c x : Nat) (ic : BitVec 2) (u : Option IssueUnit) (o : MOp) :
    ∃ e : MOp, e.Started o s.gtc ∧ OnlyMdw s (s.startMop c x ic u o) c ∧
      Turned (({ s.mdw c with mops := (s.mdw c).mops ++ [e] } : Meadow).mAdvance x ic) ((s.startMop c x ic u o).mdw c) x := by
  have ht : s.startMop c x ic u o = s.nextSeq.2.modMdw c fun m =>
      (({ m with mops := m.mops ++ [o.begun s.seq s.gtc m] } : Meadow).mAdvance x ic).mopTurn u x ic (s.gtc + o.count) := rfl
  rw [ht, State.modMdw_mdw]
  exact ⟨_, o.begun_started .., onlyMdw_trans (t := s.nextSeq.2) ⟨fun _ _ => rfl, rfl, fun _ => rfl⟩ (onlyMdw_modMdw ..), Meadow.mopTurn_turned ..⟩

/-- What leads up to an operation's start changes its own context alone, neither its M-stream's place nor its core. -/
structure MLed (s t : State) (c x : Nat) : Prop where
  only : OnlyCtx s t c x
  gtc : t.gtc = s.gtc
  mpc : (t.ctx c x).mpc = (s.ctx c x).mpc
  sc : (t.ctx c x).sc = (s.ctx c x).sc

theorem MLed.refl (s : State) (c x : Nat) : MLed s s c x := ⟨onlyCtx_of_eq c x rfl rfl rfl, rfl, rfl, rfl⟩

theorem MLed.modCtx (s : State) (c x : Nat) (f : Ctx → Ctx) (hp : ∀ k, (f k).mpc = k.mpc) (hs : ∀ k, (f k).sc = k.sc) :
    MLed s (s.modCtx c x f) c x :=
  ⟨onlyCtx_modCtx .., rfl, by rw [State.modCtx_ctx, hp], by rw [State.modCtx_ctx, hs]⟩

/-- Orders handed over to the M-stream leave its place and the core. -/
theorem Ctx.foldl_joinReach_m (l : List Reach) : (∀ k : Ctx, (l.foldl (fun k r => k.joinReach .m r) k).mpc = k.mpc) ∧
    ∀ k : Ctx, (l.foldl (fun k r => k.joinReach .m r) k).sc = k.sc := by
  induction l with
  | nil => exact ⟨fun _ => rfl, fun _ => rfl⟩
  | cons r l ih => exact ⟨fun k => (ih.1 _).trans (k.joinReach_mpc ..), fun k => (ih.2 _).trans (k.joinReach_sc ..)⟩

/-- A word that starts operation o after what leads up to it has issued, with the operation added. -/
theorem starts_of_exec {s t : State} {c x : Nat} {ic : BitVec 2} {i : Instr} {u : Option IssueUnit} {o : MOp} {p : MOp → Prop}
    (hi : exec i s = .next (t.startMop c x ic u o)) (h : MLed s t c x) (hx : o.ctx = x) (hins : o.ins = i)
    (hp : ∀ e : MOp, e.Started o s.gtc → p e) : ∃ t e, exec i s = .next t ∧ MIssued s t c x ic ∧
      (t.mdw c).mops = (s.mdw c).mops ++ [e] ∧ e.ctx = x ∧ e.at_ = s.gtc ∧ e.ins = i ∧ (∀ v, (t.mdw c).row v = (s.mdw c).row v) ∧ p e := by
  obtain ⟨hled, hgtc, hmpc, hsc⟩ := h
  obtain ⟨e, he, honly, ht⟩ := t.startMop_gives c x ic u o
  rw [hgtc] at he
  have hmops : (t.mdw c).mops = (s.mdw c).mops := onlyCtx_shared hled (·.mops) fun _ => rfl
  have hmtc : (t.mdw c).mtc = (s.mdw c).mtc := onlyCtx_shared hled (·.mtc) fun _ => rfl
  have hrow (v : Nat) : (t.mdw c).row v = (s.mdw c).row v := onlyCtx_shared hled (·.row v) fun _ => rfl
  obtain ⟨r, q, hown⟩ := ht.own
  rw [Meadow.mAdvance, Meadow.modCtx_ctx] at hown
  have hk : (t.startMop c x ic u o).ctx c x =
    { t.ctx c x with mpc := (t.ctx c x).mpc + 24, mNextAt := (t.mdw c).mtc + icGap ic, readyRun := r, promoted := q } := hown
  refine ⟨_, e, hi, ⟨onlyMdw_trans (onlyMdw_of_ctx hled) honly, fun y hy => ?_, ?_, ?_, ?_⟩, ?_, ?_, ?_, ?_, fun v => ?_, hp e he⟩
  · exact ((ht.ctxs y hy).trans (Meadow.setCtx_ctx_ne _ _ hy)).trans (hled.ctxs y hy)
  · rw [hk, hmpc]
  · rw [hk, hmtc]
  · rw [hk, hsc]
  · exact (ht.eq (·.mops) fun _ => rfl).trans (congrArg (· ++ [e]) hmops)
  · obtain ⟨id, q, rows, rfl, -⟩ := he
    exact hx
  · obtain ⟨id, q, rows, rfl, -⟩ := he
    rfl
  · obtain ⟨id, q, rows, rfl, -⟩ := he
    exact hins
  · exact (ht.row v).trans (hrow v)

/-! ## The words (R148, R149, R167) -/

section
variable {s : State} {c x : Nat} {w : MWord}

theorem exec_mldbSpad (hr : MReady s c x) (hm : (s.mdw c).ecc = [] ∧ (s.mdw c).badWords = []) {p : TileOperand}
    (hp : p = (s.mdw c).srcOperand w.fa w.srcA ((mWordRegs (s.ctx c x) w)[0]?.getD 0) ((mWordRegs (s.ctx c x) w)[1]?.getD 0) none 0)
    (hg : (s.ctx c x).bregGranted (MWord.breg w) = true)
    (hd : descBad ((mWordRegs (s.ctx c x) w)[0]?.getD 0) ((mWordRegs (s.ctx c x) w)[1]?.getD 0) = false)
    (hh : (s.mdw c).ldbHeld x s.gtc (MWord.breg w) = false) (hc : p.conflict (s.mdw c) = none)
    (hb : ∀ r ∈ p.allRanges (s.mdw c).sbf, (s.mdw c).bufFault .mread r.1 r.2 = none ∧ (s.mdw c).bufWait .mread r.1 r.2 = false) :
    exec (.mldbSpad w) s = .next (s.startMop c x w.ic (some .load)
      { id := 0, ctx := x, at_ := 0, ins := .mldbSpad w, pc := (s.ctx c x).mpc, regs := mWordRegs (s.ctx c x) w, sbf := (s.mdw c).sbf,
        operand := some p }) := by
  have hfault : (p.allRanges (s.mdw c).sbf).findSome? (fun r => (s.mdw c).bufFault .mread r.1 r.2) = none :=
    List.findSome?_eq_none_iff.2 fun r hr => (hb r hr).1
  have hwait : (p.allRanges (s.mdw c).sbf).any (fun r => (s.mdw c).bufWait .mread r.1 r.2) = false :=
    List.any_eq_false.2 fun r hr => by rw [(hb r hr).2]; exact Bool.false_ne_true
  have hbad : ldbBadWord (s.mdw c) w.fa (p.allRanges (s.mdw c).sbf) = none := by
    rw [ldbBadWord, Meadow.badWordIn_clean hm, ite_self]
  subst hp
  rw [State.ctx] at *
  simp only [exec, execMldbSpad, hr.cur, hr.free, hd, hg, hh, hc, hfault, hwait, hbad, State.spadScrubs_clean hm, Bool.not_true, Bool.false_eq_true,
    if_false]

theorem exec_mldbAcc {e : ElemType} (hr : MReady s c x) (hecc : (s.mdw c).ecc = [])
    (hg : mUngranted (s.ctx c x) (some w.tile.toNat) [MWord.breg w] = none) (hbusy : (s.mdw c).tileBusy x s.gtc w.tile.toNat = false)
    (hbeat : (s.mdw c).beatTile w.tile.toNat = false) (hok : ldbOk ((s.mdw c).tileTy w.tile.toNat) w.fa = true)
    (he : tileElem ((s.mdw c).tileTy w.tile.toNat) = some e) (hpast : 128 * w.tile.toNat + getField w.imm64 0 7 + ldbRows e w.fa ≤ 1024)
    (hall : ∀ j, j < 8 → (s.ctx c x).tileGranted j = true ∧ (s.mdw c).tileBusy x s.gtc j = false ∧ (s.mdw c).beatTile j = false)
    (hh : (s.mdw c).ldbHeld x s.gtc (MWord.breg w) = false) (hn : ∀ v, rowNaN5 e w.fa ((s.mdw c).row v, (s.mdw c).poisoned v) = false) :
    ∃ l : List Reach, exec (.mldbAcc w) s = .next ((s.modCtx c x fun k => l.foldl (fun k r => k.joinReach .m r) k).startMop c x w.ic (some .load)
      { id := 0, ctx := x, at_ := 0, ins := .mldbAcc w, pc := (s.ctx c x).mpc, count := ldbRows e w.fa, ty := (s.mdw c).tileTy w.tile.toNat }) := by
  let v0 := 128 * w.tile.toNat + getField w.imm64 0 7
  let tiles := (List.range 8).filter fun j => v0 < 128 * (j + 1) && 128 * j < v0 + ldbRows e w.fa
  have htiles (j : Nat) (hj : j ∈ tiles) := hall j (List.mem_range.1 (List.mem_filter.1 hj).1)
  have hgranted : tiles.find? (fun j => !(s.ctx c x).tileGranted j) = none :=
    List.find?_eq_none.2 fun j hj => by rw [(htiles j hj).1]; exact Bool.false_ne_true
  have hfree : tiles.any (fun j => (s.mdw c).tileBusy x s.gtc j || (s.mdw c).beatTile j) = false :=
    List.any_eq_false.2 fun j hj => by rw [(htiles j hj).2.1, (htiles j hj).2.2]; exact Bool.false_ne_true
  have hplain : ((List.range (ldbRows e w.fa)).map (v0 + ·)).find? (fun v => rowNaN5 e w.fa ((s.mdw c).row v, (s.mdw c).poisoned v)) = none :=
    List.find?_eq_none.2 fun v _ => by rw [hn]; exact Bool.false_ne_true
  have hfits : ldbPast (s.mdw c) w = false := by
    simp only [ldbPast, hok, he, decide_eq_false_iff_not, not_lt]
    exact hpast
  refine ⟨tiles.map fun j => tgetD (s.mdw c).tileRel j {}, ?_⟩
  simp only [List.foldl_map]
  rw [State.ctx] at *
  simp only [exec, execMldbAcc, hr.cur, hg, hbusy, hbeat, hok, he, hfits, hh, State.rowScrub_clean hecc, Bool.or_self, Bool.false_eq_true, if_false]
  simp only [tiles, v0] at hgranted hfree hplain
  simp only [hgranted, hfree, hplain, Bool.or_self, Bool.false_eq_true, if_false]
  rfl

theorem exec_msta (hr : MReady s c x) (hecc : (s.mdw c).ecc = []) (hg : (s.ctx c x).tileGranted w.tile.toNat = true)
    (hbusy : (s.mdw c).tileBusy x s.gtc w.tile.toNat = false) (hbeat : (s.mdw c).beat = none) (hd : ((s.mdw c).unit .drain).busyUntil ≤ s.gtc)
    (hc : (s.mdw c).staCheck w ((mWordRegs (s.ctx c x) w)[0]?.getD 0) ((mWordRegs (s.ctx c x) w)[1]?.getD 0) = none) :
    exec (.msta w) s = .next ((s.modCtx c x fun k => k.joinReach .m (tgetD (s.mdw c).tileRel w.tile.toNat {})).startMop c x w.ic (some .drain)
      { id := 0, ctx := x, at_ := 0, ins := .msta w, pc := (s.ctx c x).mpc, regs := mWordRegs (s.ctx c x) w, sbf := (s.mdw c).sbf,
        count := getField w.imm64 8 8, ty := (s.mdw c).tileTy w.tile.toNat }) := by
  have hdrain : decide (s.gtc < ((s.mdw c).unit .drain).busyUntil) = false := decide_eq_false (by omega)
  rw [State.ctx] at *
  simp only [exec, execMsta, hr.cur, hr.free, hg, hbusy, hbeat, hdrain, State.rowScrub_clean hecc, hc, Option.isSome_none, Bool.or_self,
    Bool.not_true, Bool.false_eq_true, if_false]
  rfl

theorem exec_mdraw (hr : MReady s c x) (hecc : (s.mdw c).ecc = []) (hg : (s.ctx c x).tileGranted w.tile.toNat = true)
    (hbusy : (s.mdw c).tileBusy x s.gtc w.tile.toNat = false) (hbeat : (s.mdw c).beatTile w.tile.toNat = false)
    (hl : listBad ((s.ctx c x).mreg w.mx.toNat) ((s.ctx c x).mreg (w.mx.toNat + 1)) = false) (hty : (s.mdw c).tileTy w.tile.toNat = .f32)
    (hb : (s.mdw c).bufFault .mwrite
      ((getField ((s.ctx c x).mreg w.mx.toNat) 0 20 + 2 * getField w.imm64 16 16) % 2 ^ 20) 2 = none) :
    exec (.mdraw w) s = .next
      ((s.modCtx c x fun k => { (k.joinReach .m (tgetD (s.mdw c).tileRel w.tile.toNat {})) with ctr := k.ctr + 1 }).startMop c x w.ic none
        { id := 0, ctx := x, at_ := 0, ins := .mdraw w, pc := (s.ctx c x).mpc, regs := [(s.ctx c x).mreg w.mx.toNat, (s.ctx c x).mreg w.my.toNat],
          count := getField w.imm64 8 8, k := (s.ctx c x).seed, c0 := (s.ctx c x).ctr }) := by
  rw [State.ctx] at *
  simp only [exec, execMdraw, hr.cur, hr.free, hl, hg, hbusy, hbeat, hty, hb, State.rowScrub_clean hecc, Bool.or_self, Bool.not_true,
    Bool.false_eq_true, ne_eq, not_true, if_false]
  rfl

end
end Sys2Proof.Machine

namespace Sys2Proof
open Sys2Proof.Machine

/-- Settles O33: with its checks passed each word is the start of one operation, after what its tiles' bits hand over and, for MDRAW, a step of
the draw counter. -/
theorem matrixTransferWords : Obligations.MatrixTransferWords := by
  intro s c x w hr hecc hbad m k n t0 row0 cnt regs starts
  have hrow0 : getField w.imm64 0 7 = row0 := by rw [getField_zero]; rfl
  have hcnt : getField w.imm64 8 8 = cnt := rfl
  have hslot : getField w.imm64 16 16 = (w.imm64 / 2 ^ 16 % 2 ^ 16).toNat := rfl
  refine ⟨?spad, ?acc, ?sta, ?draw⟩
  case spad =>
    intro p hg hd hh hc hb
    refine starts_of_exec (exec_mldbSpad hr ⟨hecc, hbad⟩ rfl hg hd hh hc hb) (.refl s c x) rfl rfl fun e he => ?_
    obtain ⟨id, q, rows, rfl, hq⟩ := he
    rw [Option.map_some, Meadow.srcOperand_fmt, Option.map_eq_some_iff] at hq
    exact ⟨rfl, hq⟩
  case acc =>
    intro e hg hbusy hbeat hok he hpast hall hh hn
    obtain ⟨l, hi⟩ := exec_mldbAcc hr hecc hg hbusy hbeat hok he (by rw [hrow0]; exact hpast) hall hh hn
    obtain ⟨hpc, hsc⟩ := Ctx.foldl_joinReach_m l
    refine starts_of_exec hi (.modCtx _ _ _ _ hpc hsc) rfl rfl fun e he => ?_
    obtain ⟨id, q, rows, rfl, -⟩ := he
    exact ⟨rfl, rfl⟩
  case sta =>
    intro hg hbusy hbeat hd hc
    refine starts_of_exec (exec_msta hr hecc hg hbusy hbeat hd hc) (.modCtx _ _ _ _ (fun _ => Ctx.joinReach_mpc ..) fun _ => Ctx.joinReach_sc ..)
      rfl rfl fun e he => ?_
    obtain ⟨id, q, rows, rfl, -⟩ := he
    exact ⟨hcnt, rfl, rfl⟩
  case draw =>
    intro hg hbusy hbeat hl hty hb
    rw [← hslot, ← getField_zero] at hb
    refine starts_of_exec (exec_mdraw hr hecc hg hbusy hbeat hl hty hb) (.modCtx _ _ _ _ (fun _ => Ctx.joinReach_mpc ..) fun _ => Ctx.joinReach_sc ..)
      rfl rfl fun e he => ?_
    obtain ⟨id, q, rows, rfl, -⟩ := he
    exact ⟨hcnt, rfl, rfl⟩

end Sys2Proof
end

section
/-! SUPPORT. Fences, the bank format word, DSEED and DTOPO (O13): the bytes that a line written back leaves in memory, and each word as the
change it makes. -/
namespace Sys2Proof.Machine

/-! ## Bytes of a line -/

theorem Memory.readN_lt (m : List Host.Cell) (a n : Nat) : Memory.readN m a n < 2 ^ (8 * n) := by
  induction n generalizing a with
  | zero => exact Nat.one_pos
  | succ n ih =>
    have hb : (Memory.read m a).toNat < 256 := BitVec.isLt _
    have hr := ih (a + 1)
    rw [Memory.readN, Nat.mul_succ, Nat.pow_add]
    omega

theorem Memory.toNat_ofNat_readN (m : List Host.Cell) (a n : Nat) : (BitVec.ofNat (8 * n) (Memory.readN m a n)).toNat = Memory.readN m a n := by
  rw [BitVec.toNat_ofNat, Nat.mod_eq_of_lt (Memory.readN_lt ..)]

theorem Memory.readN_byte (m : List Host.Cell) {a n i : Nat} (h : i < n) : Memory.readN m a n / 256 ^ i % 256 = (Memory.read m (a + i)).toNat := by
  induction n generalizing a i with
  | zero => omega
  | succ n ih =>
    have hb : (Memory.read m a).toNat < 256 := BitVec.isLt _
    rw [Memory.readN]
    cases i with
    | zero =>
      rw [Nat.pow_zero, Nat.div_one, Nat.add_mul_mod_self_left, Nat.mod_eq_of_lt hb]
      rfl
    | succ i =>
      have hdiv : ((Memory.read m a).toNat + 256 * Memory.readN m (a + 1) n) / 256 = Memory.readN m (a + 1) n := by omega
      rw [Nat.pow_succ', ← Nat.div_div_eq_div_mul, hdiv, ih (by omega), Nat.add_right_comm, Nat.add_assoc]

/-- The mask of bits that goes with a mask of bytes: 8 bits for each byte selected below n. -/
def byteBits (mask : BitVec 64) (n : Nat) : Nat :=
  (List.range n).foldl (fun a i => if mask.getLsbD i then a + 255 * 2 ^ (8 * i) else a) 0

theorem byteBits_succ (mask : BitVec 64) (n : Nat) :
    byteBits mask (n + 1) = if mask.getLsbD n then byteBits mask n + 255 * 2 ^ (8 * n) else byteBits mask n := by
  simp only [byteBits, List.range_succ, List.foldl_append, List.foldl_cons, List.foldl_nil]

theorem byteBits_lt (mask : BitVec 64) (n : Nat) : byteBits mask n < 2 ^ (8 * n) := by
  induction n with
  | zero => exact Nat.one_pos
  | succ n ih =>
    have hpow : 2 ^ (8 * (n + 1)) = 256 * 2 ^ (8 * n) := by rw [Nat.mul_succ, Nat.pow_add, Nat.mul_comm]
    rw [byteBits_succ, hpow]
    split <;> omega

theorem testBit_byteBits (mask : BitVec 64) (n i : Nat) : (byteBits mask n).testBit i = (decide (i < 8 * n) && mask.getLsbD (i / 8)) := by
  induction n with
  | zero => simp [byteBits]
  | succ n ih =>
    have hadd : (byteBits mask n + 255 * 2 ^ (8 * n)).testBit i = if i < 8 * n then (byteBits mask n).testBit i else decide (i - 8 * n < 8) := by
      rw [Nat.add_comm, Nat.mul_comm, Nat.testBit_two_pow_mul_add _ (byteBits_lt mask n), show 255 = 2 ^ 8 - 1 from rfl, Nat.testBit_two_pow_sub_one]
    have hnext : (byteBits mask (n + 1)).testBit i =
        if i < 8 * n then (byteBits mask n).testBit i else decide (i - 8 * n < 8) && mask.getLsbD n := by
      rw [byteBits_succ]
      by_cases hm : mask.getLsbD n = true
      · rw [if_pos hm, hadd, hm, Bool.and_true]
      · rw [if_neg hm, Bool.eq_false_of_not_eq_true hm, Bool.and_false]
        split
        · rfl
        · next hi => rw [ih, decide_eq_false hi, Bool.false_and]
    rw [hnext, ih]
    by_cases hi : i < 8 * n
    · simp [hi, show i < 8 * (n + 1) by omega]
    · by_cases hi' : i < 8 * (n + 1)
      · simp [hi, hi', show i - 8 * n < 8 by omega, show i / 8 = n by omega]
      · simp [hi, hi', show ¬ i - 8 * n < 8 by omega]

theorem getLsbD_mergeLine (old new : Line) (mask : BitVec 64) (i : Nat) :
    (mergeLine old new mask).getLsbD i = if mask.getLsbD (i / 8) then new.getLsbD i else old.getLsbD i := by
  by_cases hi : i < 512
  · have hm : (BitVec.ofNat 512 (byteBits mask 64)).getLsbD i = mask.getLsbD (i / 8) := by
      simp only [BitVec.getLsbD_ofNat, testBit_byteBits, hi, decide_true, Bool.true_and]
    have hmerge : mergeLine old new mask = (old &&& ~~~BitVec.ofNat 512 (byteBits mask 64)) ||| (new &&& BitVec.ofNat 512 (byteBits mask 64)) := rfl
    rw [hmerge, BitVec.getLsbD_or, BitVec.getLsbD_and, BitVec.getLsbD_and, BitVec.getLsbD_not, hm]
    cases mask.getLsbD (i / 8) <;> simp [hi]
  · rw [BitVec.getLsbD_of_ge _ i (not_lt.1 hi), BitVec.getLsbD_of_ge new i (not_lt.1 hi), BitVec.getLsbD_of_ge old i (not_lt.1 hi), ite_self]

/-- A byte of a merged line is the new line's where the mask selects it, and the old line's elsewhere. -/
theorem mergeLine_byte (old new : Line) (mask : BitVec 64) (i : Nat) :
    (mergeLine old new mask).toNat / 256 ^ i % 256 = if mask.getLsbD i then new.toNat / 256 ^ i % 256 else old.toNat / 256 ^ i % 256 := by
  have hbit (l : Line) (j : Nat) : (l.toNat / 256 ^ i % 256).testBit j = (decide (j < 8) && l.getLsbD (j + 8 * i)) := by
    rw [show 256 ^ i = 2 ^ (8 * i) by rw [Nat.pow_mul], show 256 = 2 ^ 8 from rfl, Nat.testBit_mod_two_pow, Nat.testBit_div_two_pow,
      BitVec.testBit_toNat]
  refine Nat.eq_of_testBit_eq fun j => ?_
  by_cases hj : j < 8
  · rw [hbit, getLsbD_mergeLine, show (j + 8 * i) / 8 = i by omega]
    split <;> simp only [hbit]
  · split <;> simp only [hbit, hj, decide_false, Bool.false_and]

/-! ## Lines written to memory (R221, R361) -/

section
variable {s t : State}

/-- A line that holds plain text under a key slot reads there as the bytes of memory. -/
theorem dramLine_of_plain {key pa : Nat} (hal : pa % 64 = 0) (hp : plainUnder s key pa 64) :
    s.dramLine pa key = BitVec.ofNat 512 (Memory.readN s.mem pa 64) := by
  obtain ⟨k, hk, hl⟩ := hp
  have hmem : pa / 64 ∈ lineNos pa 64 := by simp [lineNos, hal]
  have hpa : 64 * (pa / 64) = pa := by omega
  rcases hl _ hmem with h | h
  · simp only [State.dramLine, h, hpa]
  · simp only [State.dramLine, h, hk, hpa, if_true]

theorem dramWrite_mem {pa key : Nat} (hal : pa % 64 = 0) (d : Line) (mask : BitVec 64) :
    (s.dramWrite pa key d mask).mem = Memory.writeN s.mem pa 64 (mergeLine (s.dramLine pa key) d mask).toNat := by
  have hpa : 64 * (pa / 64) = pa := by omega
  simp only [State.dramWrite, hpa]

/-- A line written under a key slot whose text it holds changes the bytes selected, and no other. -/
theorem dramWrite_writesBytes {pa key : Nat} (hal : pa % 64 = 0) (hp : plainUnder s key pa 64) (d : Line) (mask : BitVec 64) :
    WritesBytes s (s.dramWrite pa key d mask) pa 64 d.toNat mask.toNat := by
  have hin {i : Nat} (hi : i < 64) : (Memory.read (s.dramWrite pa key d mask).mem (pa + i)).toNat =
      if mask.getLsbD i then d.toNat / 256 ^ i % 256 else (Memory.read s.mem (pa + i)).toNat := by
    have hold : (s.dramLine pa key).toNat / 256 ^ i % 256 = (Memory.read s.mem (pa + i)).toNat := by
      have hline : (BitVec.ofNat 512 (Memory.readN s.mem pa 64)).toNat = Memory.readN s.mem pa 64 := Memory.toNat_ofNat_readN s.mem pa 64
      rw [dramLine_of_plain hal hp, hline, Memory.readN_byte _ hi]
    rw [dramWrite_mem hal, Memory.read_writeN_in _ _ _ _ _ hi, BitVec.toNat_ofNat, ← hold]
    exact mergeLine_byte ..
  refine ⟨fun i hi hm => ?_, fun a ha => ?_⟩
  · rw [BitVec.testBit_toNat] at hm
    rw [hin hi, if_pos hm, Nat.pow_mul]
  · by_cases hr : a < pa ∨ pa + 64 ≤ a
    · rw [dramWrite_mem hal, Memory.read_writeN_out _ _ _ _ _ hr]
    · have hm : mask.getLsbD (a - pa) = false := by
        rw [← BitVec.testBit_toNat]
        exact ha.resolve_left (fun h => hr (.inl h)) |>.resolve_left fun h => hr (.inr h)
      have h := hin (i := a - pa) (by omega)
      rw [hm, show pa + (a - pa) = a by omega] at h
      exact BitVec.eq_of_toNat_eq h

/-- No byte selected and none changed. -/
theorem writesBytes_none (hm : memSame s t) (pa len v : Nat) : WritesBytes s t pa len v 0 :=
  ⟨fun i _ h => absurd (Nat.zero_testBit i ▸ h) Bool.false_ne_true, fun a _ => hm a⟩

/-! ## A line that leaves its engine (R221, R229) -/

theorem sramBad_of_clean (hc : s.memClean = true) (d : Nat) (h : HeldLine) : s.sramBad d h = false := by
  have hecc : ∀ l : Tab SyncEngine, (l.all fun e => e.2.ecc.isEmpty) = true → (tgetD l d {}).ecc = [] := by
    intro l hl
    induction l with
    | nil => rfl
    | cons e l ih =>
      obtain ⟨i, e⟩ := e
      rw [List.all_cons, Bool.and_eq_true] at hl
      by_cases hi : i = d
      · simpa [tgetD, tget, hi] using hl.1
      · simpa [tgetD, tget, hi] using ih hl.2
  rw [State.memClean, Bool.and_eq_true] at hc
  simp [State.sramBad, State.eng, hecc _ hc.2]

/-- An engine without the line h. -/
def State.dropLine (s : State) (d : Nat) (h : HeldLine) : State :=
  s.modEng d fun e => { e with lines := e.lines.filter fun g => !g.isLine h.va h.pa }

theorem writeBack_of_clean {d : Nat} {h : HeldLine} (hc : s.memClean = true) (hp : h.poison = false) :
    s.writeBack d h = if h.dirty = 0 then s.dropLine d h else (s.dropLine d h).dramWrite h.pa h.key h.data h.dirty := by
  simp only [State.writeBack, sramBad_of_clean hc, hp, Bool.or_self, Bool.false_eq_true, if_false]
  rfl

theorem arbPut_engines (pa : Nat) (r : ArbReq) (gran : Bool) : (s.arbPut pa r gran).engines = s.engines := by
  unfold State.arbPut
  split <;> rfl

/-- The slot that a write-back takes changes an arbiter only. -/
theorem evict_frame (d : Nat) (h : HeldLine) : SameCore (s.writeBack d h) (s.evict d h) ∧ (s.evict d h).engines = (s.writeBack d h).engines := by
  have hseq : SameCore (s.writeBack d h) (s.writeBack d h).nextSeq.2 := ⟨rfl, rfl, rfl, rfl, rfl⟩
  unfold State.evict
  dsimp only
  split
  · exact ⟨hseq, rfl⟩
  · exact ⟨hseq.trans (arbPut_frame ..), arbPut_engines ..⟩

section
variable {d : Nat} {h : HeldLine} (hc : s.memClean = true) (hp : h.poison = false)
include hc hp

theorem evict_meadows : (s.evict d h).meadows = s.meadows ∧ (s.evict d h).cur = s.cur := by
  obtain ⟨⟨hm, -, -, hcur, -⟩, -⟩ := evict_frame (s := s) d h
  rw [hm, hcur, writeBack_of_clean hc hp]
  split <;> exact ⟨rfl, rfl⟩

theorem evict_engines : (s.evict d h).engines = (s.dropLine d h).engines := by
  rw [(evict_frame d h).2, writeBack_of_clean hc hp]
  split <;> rfl

theorem evict_eng : (s.evict d h).eng d = { s.eng d with lines := (s.eng d).lines.filter fun g => !g.isLine h.va h.pa } := by
  rw [State.eng, evict_engines hc hp]
  exact State.modEng_eng ..

theorem evict_eng_ne {j : Nat} (hj : j ≠ d) : (s.evict d h).eng j = s.eng j := by
  rw [State.eng, evict_engines hc hp]
  exact tgetD_tput_ne _ _ _ hj

/-- The bytes written in the engine go to memory, and no other byte changes. -/
theorem evict_writesBytes (hal : h.pa % 64 = 0) (hpl : plainUnder s h.key h.pa 64) :
    WritesBytes s (s.evict d h) h.pa 64 h.data.toNat h.dirty.toNat := by
  obtain ⟨⟨-, -, hmem, -, -⟩, -⟩ := evict_frame (s := s) d h
  rw [writeBack_of_clean hc hp] at hmem
  by_cases h0 : h.dirty = 0
  · rw [if_pos h0] at hmem
    rw [h0]
    exact writesBytes_none (fun a => by rw [hmem]; rfl) ..
  · rw [if_neg h0] at hmem
    have hm : (s.evict d h).mem = (s.dramWrite h.pa h.key h.data h.dirty).mem := hmem
    rw [WritesBytes, hm]
    exact dramWrite_writesBytes hal hpl ..

end

/-! ## FENCE (R220) -/

section
variable {ic : BitVec 2} {un rc : Bool} {ord : BitVec 2} {sc : Scope}

theorem exec_fence_stream {c x : Nat} (hord : ord ≠ 0) (hcur : s.cur = .stream c x .s)
    (hun : s.unreleased c x ((s.ctx c x).reachOf .s s.seq) rc un sc = []) : exec (.fence ic un rc ord sc) s = sIssue s ic [] id := by
  change execFence ic un rc ord sc s = _
  simp only [execFence, hord, hcur, hun, List.isEmpty_nil, List.any_nil, Bool.not_true, Bool.and_false, Bool.or_self, Bool.false_eq_true, if_false]

theorem exec_fence_hcp {h : Nat} (hord : ord ≠ 0) (hcur : s.cur = .hcp h) (hst : (s.hcp h).stores = []) :
    exec (.fence ic un rc ord sc) s = sIssue s ic [] id := by
  change execFence ic un rc ord sc s = _
  simp only [execFence, hord, hcur, hst, List.isEmpty_nil, Bool.not_true, Bool.and_false, Bool.false_eq_true, if_false]

end

/-! ## AFENCE (R221) -/

theorem sGuard_of_ready {c x : Nat} {regs : List Nat} (hr : Ready s c x regs) (k : Res) : sGuard s regs none k = k := by
  simp only [sGuard, hr.free, State.curM_stream hr.cur, State.curX_stream hr.cur, hr.plain, Bool.false_eq_true, if_false]

/-- Both engines give up the lines they hold of the pages that share entry e's group. -/
def State.giveUpGroup (s : State) (m : Meadow) (e : Nat) : State :=
  [0, 1].foldl (fun s d => ((s.eng d).lines.filter fun h => inGroup m e h.va).foldl (fun s h => s.evict d h) s) s

theorem exec_afence {c x e o z : Nat} {ic : BitVec 2} {ra : BitVec 5} {sc : Scope} (hr : Ready s c x (pairRegs ra))
    (he : vaEntry ((s.ctx c x).sc.getD ra.toNat).toNat = some (e, o, z))
    (hun : s.unreleased c x ((s.ctx c x).reachOf .s s.seq) true true sc = []) :
    exec (.afence ic ra sc) s = .next ((s.giveUpGroup (s.mdw c) e).setCore (s.core.advance ic s.clock)) := by
  rw [State.core_stream hr.cur]
  rw [State.ctx] at *
  change execAfence ic ra sc s = _
  simp only [execAfence, State.curM_stream hr.cur, State.curX_stream hr.cur, sGuard_of_ready hr, he, hun, List.filter_nil, List.isEmpty_nil,
    Bool.not_true, Bool.false_eq_true, if_false]
  rfl

theorem giveUpGroup_of_no_lines (m : Meadow) (e : Nat) (h0 : (s.eng 0).lines = []) (h1 : (s.eng 1).lines = []) : s.giveUpGroup m e = s := by
  simp only [State.giveUpGroup, List.foldl_cons, List.foldl_nil, h0, h1, List.filter_nil]

theorem giveUpGroup_of_line {m : Meadow} {e d : Nat} {h : HeldLine} (hd : d < 2) (hl : (s.eng d).lines = [h])
    (hn : (s.eng (1 - d)).lines = []) (hg : inGroup m e h.va = true) (hc : s.memClean = true) (hp : h.poison = false) :
    s.giveUpGroup m e = s.evict d h := by
  have hone : [h].filter (fun h => inGroup m e h.va) = [h] := List.filter_cons_of_pos (p := fun h : HeldLine => inGroup m e h.va) hg
  obtain rfl | rfl : d = 0 ∨ d = 1 := by omega
  · have hn' : ((s.evict 0 h).eng 1).lines = [] := by rw [evict_eng_ne hc hp Nat.one_ne_zero]; exact hn
    simp only [State.giveUpGroup, List.foldl_cons, List.foldl_nil, hl, hone, hn', List.filter_nil]
  · have hn' : (s.eng 0).lines = [] := hn
    simp only [State.giveUpGroup, List.foldl_cons, List.foldl_nil, hl, hone, hn', List.filter_nil]

/-- Two states with the same meadows and the same agent at work have the same meadows after a change of its core. -/
theorem setCore_meadows_congr (hm : t.meadows = s.meadows) (hcur : t.cur = s.cur) (k : SCore) : (t.setCore k).meadows = (s.setCore k).meadows := by
  cases h : s.cur with
  | stream c x st =>
    rw [State.setCore_stream h, State.setCore_stream (hcur.trans h)]
    simp only [State.modCtx, State.modMdw, State.setMdw, State.mdw, hm]
  | hcp n =>
    rw [State.setCore_hcp h, State.setCore_hcp (hcur.trans h)]
    exact hm
  | device => simp only [State.setCore, hcur, h, hm]

/-! ## SBFW (R178, R203) -/

/-- A change of a meadow that leaves its contexts leaves the executing core. -/
theorem State.modMdw_core (s : State) (c : Nat) (f : Meadow → Meadow) (hf : ∀ m, (f m).ctxs = m.ctxs) : (s.modMdw c f).core = s.core := by
  have hctx (d x : Nat) : (s.modMdw c f).ctx d x = s.ctx d x := by
    by_cases hd : d = c
    · subst hd
      simp only [State.ctx, State.modMdw_mdw, Meadow.ctx, hf]
    · simp only [State.ctx, State.modMdw_mdw_ne s f hd]
  cases hcur : s.cur with
  | stream d x st => rw [State.core_stream hcur, State.core_stream (s := s.modMdw c f) hcur, hctx]
  | hcp h => simp only [State.core, hcur, State.modMdw_cur]; rfl
  | device => simp only [State.core, hcur, State.modMdw_cur]

/-- The meadow as SBFW leaves it: its core is j, and the new format word is a change to come. -/
def Meadow.sbfSent (m : Meadow) (x : Nat) (j : SCore) (g n : Nat) (v : W32) : Meadow :=
  (m.modCtx x fun k => { k with sc := j }).addLate g 5 (.sbf n v)

theorem exec_sbfw {c x : Nat} {ic : BitVec 2} {rd ra rb : BitVec 6} (hcur : s.cur = .stream c x .s)
    (hh : s.held [rd.toNat, ra.toNat, rb.toNat] = false) {n : Nat} (hra : ((s.ctx c x).sc.get ra.toNat).toNat = n) (hn : n < 16)
    (hv : ((s.ctx c x).sc.get rb.toNat).toNat / 2 ^ 12 % 8 ≠ 7) (hb : (s.mdw c).bankRead s.gtc n = false) :
    ∃ t j, exec (.sbfw ic rd ra rb) s = .next t ∧ t.core = j ∧ OnlyMdw s t c ∧
      j = (s.core.advance ic s.clock).push rd.toNat (s.clock + 1) (tgetD (s.mdw c).sbf n 0) ∧
      t.mdw c = (s.mdw c).sbfSent x j s.gtc n ((s.ctx c x).sc.get rb.toNat &&& 0x00FF700F#32) := by
  have hband : getField ((s.ctx c x).sc.get rb.toNat) 12 3 ≠ 7 := hv
  have hex : exec (.sbfw ic rd ra rb) s = .next ((s.setCore ((s.core.advance ic s.clock).push rd.toNat (s.clock + 1)
      (tgetD (s.mdw c).sbf n 0))).modMdw c fun m => m.addLate s.gtc 5 (.sbf n ((s.ctx c x).sc.get rb.toNat &&& 0x00FF700F#32))) := by
    change execSbfw ic rd ra rb s = _
    simp only [execSbfw, State.curM_stream hcur, State.core_stream hcur, hra, hh, not_le.2 hn, hband, hb, Bool.false_eq_true, if_false]
  refine ⟨_, _, hex, ?_, ?_, rfl, ?_⟩
  · rw [State.modMdw_core, State.setCore_core s _ (by simp [hcur])]
    exact fun _ => rfl
  · rw [State.setCore_stream hcur]
    exact onlyMdw_trans (onlyMdw_of_ctx (onlyCtx_modCtx ..)) (onlyMdw_modMdw ..)
  · rw [State.modMdw_mdw, State.setCore_stream hcur, State.modCtx_mdw]
    rfl

/-- After the cycle of an SBFW that finds no other change to come, its bank has the new format word. -/
theorem applyLate_sbfSent {m : Meadow} (hl : m.late = []) (x : Nat) (j : SCore) (g n : Nat) (v : W32) :
    tgetD ((m.sbfSent x j g n v).applyLate (g + 1)).sbf n 0 = v := by
  have hlate : (m.sbfSent x j g n v).late = [⟨g, 5, .sbf n v, 0⟩] := by
    change lateInsert m.late _ = _
    rw [hl]
    rfl
  rw [Meadow.applyLate_single hlate rfl]
  exact tgetD_tputD_self ..

/-! ## DSEED (R155, R166) -/

/-- The context of a DSEED once it has issued. -/
def Ctx.seeded (k : Ctx) (ic : BitVec 2) (mtc : Nat) (key : W64) (ctr : W32) : Ctx := { k with sc := k.sc.advance ic mtc, seed := key, ctr := ctr }

theorem exec_dseed {c x : Nat} {ic : BitVec 2} {p : BitVec 5} {rb : BitVec 6} (hr : Ready s c x (rb.toNat :: pairRegs p)) :
    exec (.dseed ic p rb) s = .next (s.modCtx c x fun k =>
      k.seeded ic s.clock ((s.ctx c x).sc.getD p.toNat) ((s.ctx c x).sc.get rb.toNat)) := by
  change execDseed ic p rb s = _
  simp only [execDseed, sGuard_of_ready hr, State.curM_stream hr.cur, State.curX_stream hr.cur, State.setCore_stream hr.cur,
    State.core_stream hr.cur, State.modCtx_modCtx]
  rfl

/-! ## DTOPO (R164) -/

/-- The reading of a table sets the context's reading; besides it only arbiters and the model's counters change. -/
theorem dtopoRead_frame (c x : Nat) (d : Dtopo) (n : Option Nat) (ps : List Part) :
    ∃ id doneAt, OnlyCtx s (s.dtopoRead c x d n ps) c x ∧ (s.dtopoRead c x d n ps).cur = s.cur ∧
      (s.dtopoRead c x d n ps).ctx c x = { s.ctx c x with dtopo := some { d with id := id, count := n, doneAt := doneAt } } := by
  obtain ⟨u, id, doneAt, hread, hm, hk, hmem, hcur, -⟩ :
      ∃ u id doneAt, s.dtopoRead c x d n ps = u.modCtx c x (fun k => { k with dtopo := some { d with id := id, count := n, doneAt := doneAt } }) ∧
        SameCore s u :=
    ⟨_, _, _, rfl, SameCore.trans (t := s.nextSeq.2.freshIx.2) ⟨rfl, rfl, rfl, rfl, rfl⟩ (arbEnter_frame ..)⟩
  rw [hread]
  exact ⟨id, doneAt, onlyCtx_trans (onlyCtx_of_eq c x hm hk hmem) (onlyCtx_modCtx ..), hcur,
    by rw [State.modCtx_ctx]; simp only [State.ctx, State.mdw, hm]⟩

theorem exec_dtopo {c x : Nat} {ic : BitVec 2} {p : BitVec 5} {ps : List Part} (hr : Ready s c x (pairRegs p)) (hd : (s.ctx c x).dtopo = none)
    (hal : ((s.ctx c x).sc.getD p.toNat).toNat % 64 = 0) (hacc : s.access (s.mdw c) .load [(((s.ctx c x).sc.getD p.toNat).toNat, 4)] = .ok ps) :
    exec (.dtopo ic p) s = .next
      (s.dtopoRead c x { pc := (s.ctx c x).sc.pc, ic := ic, addr := (s.ctx c x).sc.getD p.toNat, doneAt := 0 } none ps) := by
  rw [State.ctx] at *
  change execDtopo ic p s = _
  simp only [execDtopo, State.curM_stream hr.cur, State.curX_stream hr.cur, hd, Option.isSome_none, hal, hacc, resOp, ne_eq, not_true,
    decide_false, sGuard_of_ready hr, Bool.false_eq_true, if_false]

end
end Sys2Proof.Machine

namespace Sys2Proof

open Sys2Proof.Machine

/-- Settles O13: a fence with nothing to wait for only issues; AFENCE's one line leaves its engine as a line written to memory; SBFW leaves one
change to come, which after the cycle has written the register; DSEED and DTOPO change their own context. -/
theorem fencesFormatsDraws : Obligations.FencesFormatsDraws := by
  refine ⟨?fences, ?words⟩
  case fences =>
    intro s ic un rc ord sc ra hord
    refine ⟨fun c x hcur hh hun => ?stream, fun h hcur hh hst => ?hcp, fun c x e o z hr he hun h0 h1 => ?noLines,
      fun c x e o z d h hd hr he hun hl hn hal hg hp hc _ hpl => ?line⟩
    case stream => exact sIssue_regsSame (by simp [hcur]) hh (exec_fence_stream hord hcur hun) (fun _ => rfl) (fun _ => rfl) fun _ => rfl
    case hcp => exact sIssue_regsSame (by simp [hcur]) hh (exec_fence_hcp hord hcur hst) (fun _ => rfl) (fun _ => rfl) fun _ => rfl
    case noLines =>
      have hcur : s.cur ≠ .device := by simp [hr.cur]
      have hex := exec_afence (ic := ic) hr he hun
      rw [giveUpGroup_of_no_lines _ _ h0 h1] at hex
      exact ⟨_, hex, issued_setCore s (s.core.advance ic s.clock) hcur, regsSame_setCore hcur rfl rfl⟩
    case line =>
      have hex := exec_afence (ic := ic) hr he hun
      rw [giveUpGroup_of_line hd hl hn hg hc hp] at hex
      obtain ⟨hm, hcur⟩ := evict_meadows (d := d) hc hp
      have hcore := State.setCore_core (s.evict d h) (s.core.advance ic s.clock) (by simp [hcur, hr.cur])
      have hpa : h.pa % 64 = 0 := by
        simp only [HeldLine.isLine, Bool.and_eq_true, beq_iff_eq] at hal
        omega
      refine ⟨_, hex, advanced_core hcore rfl rfl, regsSame_core (by rw [hcore]; rfl) (by rw [hcore]; rfl), fun j hj => ?_, ?_, ?_⟩
      · rw [State.eng, State.setCore_engines]
        change ((s.evict d h).eng j).lines = []
        by_cases hjd : j = d
        · rw [hjd, evict_eng hc hp, hl]
          simp [hal]
        · rw [evict_eng_ne hc hp hjd, show j = 1 - d by omega, hn]
      · rw [hcore]
        exact setCore_meadows_congr hm hcur _
      · rw [WritesBytes, State.setCore_mem]
        exact evict_writesBytes hc hp hpa hpl
  case words =>
    intro s c x ic rd ra rb p m k n v
    refine ⟨fun hcur hh hn hv hb hl => ?sbfw, fun hr => ?dseed, fun ps hr hd hal hacc => ?dtopo⟩
    case sbfw =>
      obtain ⟨t, j, hex, hcore, honly, rfl, hm⟩ := exec_sbfw (ic := ic) (rd := rd) hcur hh rfl hn hv hb
      exact ⟨t, hex, advanced_core hcore (SCore.push_pc ..) (SCore.push_nextAt ..), regGets_core hcore rfl rfl, honly, by rw [hm]; rfl,
        by rw [hm]; exact applyLate_sbfSent hl ..⟩
    case dseed =>
      obtain ⟨hadv, hsame⟩ := modCtx_issues (ic := ic) hr.cur (f := fun k => k.seeded ic s.clock ((s.ctx c x).sc.getD p.toNat) v) rfl
      exact ⟨_, exec_dseed hr, hadv, hsame, onlyCtx_modCtx .., by rw [State.modCtx_ctx]; rfl, by rw [State.modCtx_ctx]; rfl⟩
    case dtopo =>
      obtain ⟨id, doneAt, honly, hcur, hctx⟩ := dtopoRead_frame (s := s) c x
        { pc := k.sc.pc, ic := ic, addr := k.sc.getD p.toNat, doneAt := 0 } none ps
      have hsc := congrArg Ctx.sc hctx
      have hcore := State.core_stream (hcur.trans hr.cur)
      rw [hctx, ← State.core_stream hr.cur] at hcore
      exact ⟨_, _, exec_dtopo hr hd hal hacc, regsSame_core (by rw [← hcore]; rfl) (by rw [← hcore]; rfl), honly, congrArg Ctx.dtopo hctx,
        rfl, rfl, rfl, rfl, hsc⟩

end Sys2Proof
end

section
/-! SUPPORT. Memory stays in canonical form (O55): the rules for a state and for a result, and the writes of DRAM, all of which go through
`Memory.writeN`. A function that leaves memory as it stands goes through `Kept` or through the equality of the two memories. -/
namespace Sys2Proof
open Sys2Proof.Machine
variable {s t : State}

theorem memorySafe.of_eq (h : memorySafe s) (e : t.mem = s.mem) : memorySafe t := by rwa [memorySafe, e]

theorem memorySafe.of_kept (h : memorySafe s) (hk : Kept True True False s t) : memorySafe t := h.of_eq (hk.mem trivial)

theorem memorySafe.of_fst {α : Type} {p : State × α} {a : α} (h : memorySafe p.1) (e : p = (t, a)) : memorySafe t := by
  cases e
  exact h

theorem memorySafe.of_snd {α : Type} {p : α × State} {a : α} (h : memorySafe p.2) (e : p = (a, t)) : memorySafe t := by
  cases e
  exact h

theorem memorySafe.foldl {α : Type} {f : State → α → State} (h : memorySafe s) (hf : ∀ u a, memorySafe u → memorySafe (f u a))
    (l : List α) : memorySafe (l.foldl f s) := by
  induction l generalizing s with
  | nil => exact h
  | cons a l ih => exact ih (hf s a h)

theorem memorySafe.foldl_fst {α β : Type} {f : State × β → α → State × β} {p : State × β} (h : memorySafe p.1)
    (hf : ∀ q a, memorySafe q.1 → memorySafe (f q a).1) (l : List α) : memorySafe (l.foldl f p).1 := by
  induction l generalizing p with
  | nil => exact h
  | cons a l ih => exact ih (hf p a h)

theorem memorySafe.ite {p : Prop} [Decidable p] (hs : memorySafe s) (ht : memorySafe t) : memorySafe (if p then s else t) := by
  split
  · exact hs
  · exact ht

/-- A result whose next state, if it has one, holds memory in canonical form. -/
def resSafe (r : Res) : Prop := ∀ t, r = .next t → memorySafe t

theorem resSafe.next (h : memorySafe s) : resSafe (.next s) := by
  rintro t ht
  cases ht
  exact h

theorem resSafe.fault (f : Fault) : resSafe (.fault f) := by
  rintro t ht
  cases ht

theorem resSafe.ite {p : Prop} [Decidable p] {a b : Res} (ha : resSafe a) (hb : resSafe b) : resSafe (if p then a else b) := by
  split
  · exact ha
  · exact hb

theorem resSafe.option {o : Option Nat} {a : Res} {b : Nat → Res} (ha : resSafe a) (hb : ∀ n, resSafe (b n)) :
    resSafe (match o with | none => a | some n => b n) := by
  cases o with
  | none => exact ha
  | some n => exact hb n

theorem resSafe.sGuard {regs : List Nat} {enc : Option (Nat × W64)} {k : Res} (h : memorySafe s) (hk : resSafe k) :
    resSafe (sGuard s regs enc k) := by
  have hr (cause : Nat) (tval : W64) : resSafe (trapRes s cause tval) := .next (h.of_kept (Kept.refl s).raise)
  unfold Machine.sGuard
  split
  · exact .next h
  · split
    · exact hr _ _
    · split
      · exact hr _ _
      · exact hk

theorem memorySafe.underKeys {id : Nat} {f : State → State} (h : memorySafe s) (hf : ∀ u, memorySafe u → memorySafe (f u)) :
    memorySafe (s.underKeys id f) := hf (s.issuedAt id) h

theorem memorySafe.dramWrite {pa key : Nat} {d : Line} {mask : BitVec 64} (h : memorySafe s) : memorySafe (s.dramWrite pa key d mask) :=
  Memory.writeN_wf h _ _ _

theorem memorySafe.arrayWrite {va pa key : Nat} {d : Line} {mask : BitVec 64} (h : memorySafe s) : memorySafe (s.arrayWrite va pa key d mask) := by
  unfold State.arrayWrite
  split
  · exact h
  · exact h.dramWrite

theorem memorySafe.writeRun {key fuel va pa len v mask : Nat} (h : memorySafe s) : memorySafe (s.writeRun key fuel va pa len v mask) := by
  induction fuel generalizing s va pa len v mask with
  | zero => exact h
  | succ fuel ih =>
    unfold State.writeRun
    split
    · exact h
    · refine ih ?_
      split
      · exact h
      · exact h.arrayWrite

theorem memorySafe.writeBack {die : Nat} {l : HeldLine} (h : memorySafe s) : memorySafe (s.writeBack die l) := by
  unfold State.writeBack
  extract_lets _ s0 s1 s2
  have hs0 : memorySafe s0 := .ite (h.of_kept (Kept.refl s).sramScrub) h
  have hs1 : memorySafe s1 := hs0
  have hs2 : memorySafe s2 := .ite hs1 hs1.dramWrite
  exact .ite hs2 hs2

theorem memorySafe.heathWrite {pa key : Nat} {d : Line} {mask : BitVec 64} (h : memorySafe s) : memorySafe (s.heathWrite pa key d mask) := by
  unfold State.heathWrite
  extract_lets s1
  have hs1 : memorySafe s1 := by
    dsimp only [s1]
    split
    · exact h.writeBack.dramWrite
    · exact h.dramWrite
  exact .ite hs1 hs1

theorem memorySafe.hWriteRun {key fuel pa len v mask : Nat} (h : memorySafe s) : memorySafe (s.hWriteRun key fuel pa len v mask) := by
  induction fuel generalizing s pa len v mask with
  | zero => exact h
  | succ fuel ih =>
    unfold State.hWriteRun
    split
    · exact h
    · refine ih ?_
      split
      · exact h
      · exact h.heathWrite

theorem memorySafe.setHost {m : List Host.Cell} (h : memorySafe s) : memorySafe { s with host := m } := h

theorem memorySafe.setSaved {m : List Saved} (h : memorySafe s) : memorySafe { s with saved := m } := h

theorem memorySafe.freshIx (h : memorySafe s) : memorySafe s.freshIx.2 := h

theorem memorySafe.nextSeq (h : memorySafe s) : memorySafe s.nextSeq.2 := h

end Sys2Proof
end

section
/-! SUPPORT. Memory stays in canonical form (O55): accesses, scrubs, stores and traps. -/
namespace Sys2Proof
open Sys2Proof.Machine
variable {s : State}

theorem memorySafe.setMdw {c : Nat} {m : Meadow} (h : memorySafe s) : memorySafe (s.setMdw c m) := h.of_eq rfl

theorem memorySafe.modMdw {c : Nat} {f : Meadow → Meadow} (h : memorySafe s) : memorySafe (s.modMdw c f) := h.setMdw

theorem memorySafe.modCtx {c x : Nat} {f : Ctx → Ctx} (h : memorySafe s) : memorySafe (s.modCtx c x f) := h.modMdw

theorem memorySafe.modHcp {i : Nat} {f : Hcp → Hcp} (h : memorySafe s) : memorySafe (s.modHcp i f) :=
  h.of_kept (Kept.refl s).modHcp

theorem memorySafe.modEng {d : Nat} {f : SyncEngine → SyncEngine} (h : memorySafe s) : memorySafe (s.modEng d f) :=
  h.of_kept (Kept.refl s).modEng

theorem memorySafe.modArb {p : Nat} {f : Arbiter → Arbiter} (h : memorySafe s) : memorySafe (s.modArb p f) :=
  h.of_kept (Kept.refl s).modArb

theorem memorySafe.later {es : List Ev} (h : memorySafe s) : memorySafe (s.later es) := h.of_eq rfl

theorem memorySafe.now {es : List Ev} (h : memorySafe s) : memorySafe (s.now es) :=
  h.of_kept (Kept.refl s).now

theorem memorySafe.setCore {k : SCore} (h : memorySafe s) : memorySafe (s.setCore k) :=
  h.of_kept (Kept.refl s).setCore

theorem memorySafe.raise {cause : Nat} {tval : W64} (h : memorySafe s) : memorySafe (s.raise cause tval) :=
  h.of_kept (Kept.refl s).raise

theorem memorySafe.raiseUnbound {c x cause : Nat} {tval : W64} (h : memorySafe s) : memorySafe (s.raiseUnbound c x cause tval) :=
  h.of_kept (Kept.refl s).raiseUnbound

theorem memorySafe.raiseAtLanding {c x : Nat} {st : StreamId} {pc : W32} {cause : Nat} {tval : W64} (h : memorySafe s) :
    memorySafe (s.raiseAtLanding c x st pc cause tval) := h.modCtx

theorem resSafe.trapRes {cause : Nat} {tval : W64} (h : memorySafe s) : resSafe (trapRes s cause tval) := .next h.raise

theorem memorySafe.logErr {log cause : Nat} {d1 : W64} (h : memorySafe s) : memorySafe (s.logErr log cause d1) :=
  h.of_kept (Kept.refl s).logErr

theorem memorySafe.logDie {cause addr c x : Nat} (h : memorySafe s) : memorySafe (s.logDie cause addr c x) := h.logErr

theorem memorySafe.logStack {cause pa hcoord : Nat} (h : memorySafe s) : memorySafe (s.logStack cause pa hcoord) := h.logErr

theorem memorySafe.logEngine {d cause pa coord x : Nat} (h : memorySafe s) : memorySafe (s.logEngine d cause pa coord x) := h.logErr

theorem memorySafe.setIrq {bit : Nat} (h : memorySafe s) : memorySafe (s.setIrq bit) := h.of_eq rfl

theorem memorySafe.clearIrq {v : W64} (h : memorySafe s) : memorySafe (s.clearIrq v) := h.of_eq rfl

theorem memorySafe.poisonLine {pa : Nat} (h : memorySafe s) : memorySafe (s.poisonLine pa) :=
  h.of_kept (Kept.refl s).poisonLine

theorem memorySafe.sramScrub {pa len : Nat} (h : memorySafe s) : memorySafe (s.sramScrub pa len) :=
  h.of_kept (Kept.refl s).sramScrub

theorem memorySafe.writeParts {ps : List Machine.Part} {v mask : Nat} (h : memorySafe s) : memorySafe (s.writeParts ps v mask) :=
  h.foldl (fun _ _ hu => hu.writeRun) _

theorem memorySafe.hWrite {key pa len v : Nat} (h : memorySafe s) : memorySafe (s.hWrite key pa len v) := h.hWriteRun

theorem memorySafe.dieScrub {pa len : Nat} (h : memorySafe s) : memorySafe (s.dieScrub pa len) :=
  h.of_kept (Kept.refl s).dieScrub

theorem memorySafe.dramScrub {pa len : Nat} (h : memorySafe s) : memorySafe (s.dramScrub pa len) :=
  h.of_kept (Kept.refl s).dramScrub

theorem memorySafe.scrubParts {ps : List Machine.Part} (h : memorySafe s) : memorySafe (s.scrubParts ps) :=
  h.of_kept (Kept.refl s).scrubParts

theorem memorySafe.arbPut {pa : Nat} {r : ArbReq} {gran : Bool} (h : memorySafe s) : memorySafe (s.arbPut pa r gran) :=
  h.of_kept (Kept.refl s).arbPut

theorem memorySafe.arbEnter {id : Nat} {kind : ArbKind} {deadline : Nat} {ps : List Machine.Part} {gran : Bool} (h : memorySafe s) :
    memorySafe (s.arbEnter id kind deadline ps gran) :=
  h.of_kept (Kept.refl s).arbEnter

theorem memorySafe.arbHeath {id hcp : Nat} {lim : Nat × Nat} {pa len : Nat} (h : memorySafe s) : memorySafe (s.arbHeath id hcp lim pa len) :=
  h.of_kept (Kept.refl s).arbHeath

theorem memorySafe.evict {d : Nat} {l : HeldLine} (h : memorySafe s) : memorySafe (s.evict d l) :=
  .ite (.of_eq (.writeBack h) rfl) (.arbPut (.of_eq (.writeBack h) rfl))

theorem memorySafe.recallRange {pa len : Nat} (h : memorySafe s) : memorySafe (s.recallRange pa len) := by
  unfold State.recallRange
  refine h.foldl (fun _ _ hu => ?_) _
  refine hu.foldl (fun _ _ hv => ?_) _
  exact .modEng (.arbPut (.of_eq hv rfl))

theorem memorySafe.endRecalls (h : memorySafe s) : memorySafe s.endRecalls := h.foldl (fun _ _ hu => hu.foldl (fun _ _ hv => hv.writeBack) _) _

theorem memorySafe.startStore {c x : Nat} {st : StreamId} {ps : List Machine.Part} {data : Row} {mask : Pred} {hasp : Bool} (h : memorySafe s) :
    memorySafe (s.startStore c x st ps data mask hasp) :=
  h.of_kept (Kept.refl s).startStore

theorem memorySafe.doStore {c x : Nat} {p : PendStore} (h : memorySafe s) : memorySafe (s.doStore c x p) :=
  (h.underKeys fun _ hu => hu.writeParts).modCtx

theorem memorySafe.drainStores {c x : Nat} (h : memorySafe s) : memorySafe (s.drainStores c x) :=
  h.foldl (fun _ _ hu => .ite hu.doStore (.ite hu.modCtx hu)) _

end Sys2Proof
end

section
/-! SUPPORT. Memory stays in canonical form (O55): vector steps and the words that write back. -/
namespace Sys2Proof
open Sys2Proof.Machine
variable {s : State}

theorem memorySafe.rowScrub {c : Nat} {rows : List Nat} (h : memorySafe s) : memorySafe (s.rowScrub c rows) :=
  h.of_kept (Kept.refl s).rowScrub

theorem memorySafe.spadScrub {c x a len : Nat} (h : memorySafe s) : memorySafe (s.spadScrub c x a len) :=
  h.of_kept (Kept.refl s).spadScrub

theorem memorySafe.stepPoison {c : Nat} {f : VFlight} {row : Option Nat} (h : memorySafe s) : memorySafe (s.stepPoison c f row) := by
  unfold State.stepPoison
  extract_lets s' q r
  have hs' : memorySafe s' := h.modMdw
  have hq : memorySafe q.2 := by
    dsimp only [q]
    exact hs'.freshIx
  have hr : memorySafe r.2 := by
    dsimp only [r]
    split
    · dsimp only
      exact hs'
    · dsimp only
      exact hq
  exact hr.raiseAtLanding

theorem memorySafe.sweepStep {c : Nat} {f : VFlight} (h : memorySafe s) : memorySafe (s.sweepStep c f) := by
  unfold State.sweepStep
  extract_lets
  dsimp -zeta only
  extract_lets _ _ _ _ _ _ _ _ _ _ bad _ _ _ _ s1
  have hs1 : memorySafe s1 := h.setMdw
  clear_value bad
  split
  · exact hs1.stepPoison
  · split
    · exact hs1.startStore
    · exact hs1.modMdw
    · exact hs1.modCtx
    · exact .ite hs1.now hs1

theorem memorySafe.stepResult {c : Nat} {f : VFlight} {r : VResult} (h : memorySafe s) : memorySafe (s.stepResult c f r) := h.modMdw

end Sys2Proof
end

section
/-! SUPPORT. Memory stays in canonical form (O55): heath commands and landings. -/
namespace Sys2Proof
open Sys2Proof.Machine
variable {s : State}

theorem memorySafe.hPut {t : Hcp} {pa len v : Nat} (h : memorySafe s) : memorySafe (s.hPut t pa len v) := .ite h.hWrite h.hWrite.hWrite

theorem memorySafe.issueWait {ic : BitVec 2} {rd id : Nat} (h : memorySafe s) : memorySafe (issueWait ic rd id s) :=
  h.of_kept (Kept.refl s).issueWait

theorem resSafe.afence {ic : BitVec 2} {ra : BitVec 5} {sc : Scope} (h : memorySafe s) : resSafe (execAfence ic ra sc s) := by
  unfold execAfence
  extract_lets
  split
  · exact .sGuard h (.trapRes h)
  · extract_lets _ s1
    have hs1 : memorySafe s1 := h.foldl (fun _ _ hu => hu.foldl (fun _ _ hv => hv.evict) _) _
    exact .sGuard h (.ite (.next h) (.next hs1.setCore))

theorem memorySafe.undoLog {d : Nat} {age : AgeKey} (h : memorySafe s) : memorySafe (s.undoLog d age) :=
  (h.foldl (fun _ _ hu => hu.arrayWrite) _).modEng

theorem memorySafe.noticeRelease {ws : List (Nat × Nat × Nat)} (h : memorySafe s) : memorySafe (s.noticeRelease ws) :=
  h.of_kept (Kept.refl s).noticeRelease

theorem memorySafe.freeSets {d : Nat} {age : AgeKey} (h : memorySafe s) : memorySafe (s.freeSets d age) :=
  h.of_kept (Kept.refl s).freeSets

theorem memorySafe.haspUndo {c x : Nat} (h : memorySafe s) : memorySafe (s.haspUndo c x) := (h.foldl (fun _ _ hu => hu.undoLog.freeSets) _).modCtx

theorem memorySafe.haspRoll {c x : Nat} {why : RollWhy} {waitSet : Option (Nat × Nat × Nat)} (h : memorySafe s) :
    memorySafe (s.haspRoll c x why waitSet) := h.haspUndo.modCtx

theorem memorySafe.settleTend {c x : Nat} (h : memorySafe s) : memorySafe (s.settleTend c x) :=
  h.of_kept (Kept.refl s).settleTend

theorem resSafe.tabort {ic : BitVec 2} {ra : BitVec 6} (h : memorySafe s) : resSafe (execTabort ic ra s) :=
  .ite (.next h) (.ite (.trapRes h) (.ite (.trapRes h) (.next (.haspRoll (.setCore h)))))

theorem memorySafe.finishCmd {hcp : Nat} {b : HBlock} {status detail : Nat} (h : memorySafe s) : memorySafe (s.finishCmd hcp b status detail) :=
  h.of_kept (Kept.refl s).finishCmd

theorem memorySafe.endHrow {i : Nat} (h : memorySafe s) : memorySafe (s.endHrow i) :=
  h.of_kept (Kept.refl s).endHrow

theorem memorySafe.logKeys {t : Hcp} {lines : List Nat} (h : memorySafe s) : memorySafe (s.logKeys t lines) :=
  h.foldl (fun _ _ hu => .ite hu.logStack hu) _

theorem memorySafe.woundPa {pa : Nat} (h : memorySafe s) : memorySafe (s.woundPa pa) := by
  unfold State.woundPa
  split
  · exact .ite h h.haspRoll
  · exact h

theorem memorySafe.woundRange {pa len : Nat} (h : memorySafe s) : memorySafe (s.woundRange pa len) := .ite h (h.foldl (fun _ _ hu => hu.woundPa) _)

theorem memorySafe.modCmd {id : Nat} {f : HCmd → HCmd} (h : memorySafe s) : memorySafe (s.modCmd id f) := h.of_eq rfl

theorem memorySafe.readLine {id pa : Nat} (h : memorySafe s) : memorySafe (s.readLine id pa) := by
  unfold State.readLine
  extract_lets s1
  have hs1 : memorySafe s1 := h.dramScrub
  split
  · exact h
  · extract_lets
    exact hs1.modCmd

theorem memorySafe.modLanding {cmd : Nat} {f : Landing → Landing} (h : memorySafe s) : memorySafe (s.modLanding cmd f) := h.of_eq rfl

theorem memorySafe.landWrite {l : Landing} {line : Nat} (h : memorySafe s) : memorySafe (s.landWrite l line) := h.arbHeath.modLanding

theorem memorySafe.landConflict {l : Landing} {line : Nat} (h : memorySafe s) : memorySafe (s.landConflict l line) := by
  unfold State.landConflict
  extract_lets s1 s2
  have hs1 : memorySafe s1 := .ite h h.logStack
  have hs2 : memorySafe s2 := hs1.modLanding
  split
  · exact hs2
  · exact hs2.modHcp.foldl (fun _ _ hu => hu.modEng) _

theorem memorySafe.landTouch {pa : Nat} (h : memorySafe s) : memorySafe (s.landTouch pa) := h.foldl (fun _ _ hu => .ite hu.landConflict hu) _

theorem memorySafe.landLine {l : Landing} {line : Nat} (h : memorySafe s) : memorySafe (s.landLine l line) :=
  .ite h (.ite h.landConflict.woundPa.recallRange (.ite h h.woundPa.hPut.modLanding))

theorem memorySafe.landFlush {l : Landing} (h : memorySafe s) : memorySafe (s.landFlush l) := h.foldl (fun _ _ hu => hu.woundPa.hPut) _

theorem memorySafe.landStep (h : memorySafe s) : memorySafe s.landStep := by
  unfold State.landStep
  refine h.foldl (fun _ _ hu => ?_) _
  refine hu.foldl (fun _ _ hv => ?_) _
  split
  · exact hv.landLine
  · exact hv

theorem memorySafe.landTake {l : Landing} {c : Contrib} (h : memorySafe s) : memorySafe (s.landTake l c) :=
  .ite h.modLanding (.ite h.modLanding.landWrite h.modLanding)

theorem memorySafe.landCheck {cmd : Nat} (h : memorySafe s) : memorySafe (s.landCheck cmd) := by
  unfold State.landCheck
  split
  · exact h
  · exact .ite h.modCmd h

theorem resSafe.landingContribution {p : FavexPacket} (h : memorySafe s) : resSafe (execLandingContribution p s) := by
  unfold execLandingContribution
  extract_lets _ drop
  have hdrop : memorySafe drop := h.logStack
  split
  · exact .next h
  · split
    · exact .next hdrop
    · split
      · exact .next hdrop
      · extract_lets s1
        have hs1 : memorySafe s1 := by
          dsimp only [s1]
          refine h.foldl (fun _ _ hv => ?_) _
          split
          · exact hv.logStack
          · split
            · exact hv
            · exact hv.landTake
        exact .ite (.next hdrop) (.next hs1.landCheck)

theorem memorySafe.arm {c : HCmd} (h : memorySafe s) : memorySafe (s.arm c) := by
  unfold State.arm
  extract_lets _ s1 _ s2
  have hs1 : memorySafe s1 := h.of_eq rfl
  have hs2 : memorySafe s2 := by
    dsimp only [s2]
    split
    · exact hs1
    · refine hs1.foldl (fun _ _ hv => ?_) _
      split
      · exact hv
      · exact hv.landTake
  exact hs2.landCheck

theorem resSafe.heathCommandStart {id : Nat} (h : memorySafe s) : resSafe (execHeathCommandStart id s) := by
  unfold execHeathCommandStart
  split
  · exact .next h
  · extract_lets
    exact .ite (.next h) (.next (.ite (.arm (.ite (.modHcp (.modHcp (.modCmd (.of_eq h rfl)))) (.modCmd (.of_eq h rfl)))) (.ite (.modHcp
      (.modHcp (.modCmd (.of_eq h rfl)))) (.modCmd (.of_eq h rfl)))))

theorem memorySafe.runCmd {c : HCmd} (h : memorySafe s) : memorySafe (s.runCmd c).1 := by
  have hw (l : List (Nat × Nat)) (v : Nat × Nat → Nat) (t : Hcp) :
      memorySafe (l.foldl (fun u o => (u.woundRange o.1 o.2).hPut t o.1 o.2 (v o)) s) := h.foldl (fun _ _ hu => hu.woundRange.hPut) l
  exact ((hw ..).foldl (fun _ _ hu => hu.poisonLine) _).logKeys

theorem memorySafe.runLand {l : Landing} (h : memorySafe s) : memorySafe (s.runLand l).1 := .ite h.modLanding (h.of_eq rfl)

theorem memorySafe.feedCmd {c : HCmd} (h : memorySafe s) : memorySafe (s.feedCmd c) := by
  unfold State.feedCmd
  split
  · exact h
  · exact .ite h (.modCmd (.ite (.readLine h) (.arbHeath h)))

theorem memorySafe.enterWrites {c : HCmd} (h : memorySafe s) : memorySafe (s.enterWrites c) := (h.foldl (fun _ _ hu => hu.arbHeath) _).modCmd

theorem resSafe.heathCommandComplete {id : Nat} (h : memorySafe s) : resSafe (execHeathCommandComplete id s) := by
  unfold execHeathCommandComplete
  extract_lets land
  split
  · exact .next h
  · next c _ =>
    have hr : memorySafe (match land with | some l => s.runLand l | none => s.runCmd c).1 := by
      clear_value land
      split
      · exact h.runLand
      · exact h.runCmd
    have hw : memorySafe ((HBlock.mk c.block).writes.foldl (fun s r => (s.woundRange r.1 r.2).recallRange r.1 r.2) s) :=
      h.foldl (fun _ _ hu => hu.woundRange.recallRange) _
    exact .ite (.next h) (.ite (.next h.enterWrites) (.ite (.next h) (.ite (.next hw) (.next (.finishCmd (.of_eq hr rfl))))))

theorem resSafe.hcpLoadArrival {i : Nat} (h : memorySafe s) : resSafe (execHcpLoadArrival i s) := by
  unfold execHcpLoadArrival
  split
  · exact .next h
  · extract_lets _ s1
    have hs1 : memorySafe s1 := h.dramScrub
    exact .ite (.next h) (.next hs1.logKeys.modHcp)

theorem memorySafe.hDrain {i : Nat} (h : memorySafe s) : memorySafe (s.hDrain i) := by
  unfold State.hDrain
  refine h.foldl (fun _ _ hu => ?_) _
  extract_lets _ part
  clear_value part
  split
  · exact .ite hu (.ite hu.woundRange.recallRange ((hu.woundRange.underKeys fun _ hv => hv.hWrite).logKeys).modHcp)
  · exact hu

theorem memorySafe.unpin (h : memorySafe s) : memorySafe s.unpin := h.of_eq rfl

theorem memorySafe.hFinish {i : Nat} (h : memorySafe s) : memorySafe (s.hFinish i) := by
  unfold State.hFinish
  extract_lets
  split
  · exact h
  · extract_lets _ s1 s3 u
    have hs1 : memorySafe s1 := .ite h.woundRange.hWrite h
    have hs3 : memorySafe s3 := hs1.endHrow.modHcp
    have hu : memorySafe u := hs3.unpin
    exact .ite h (.ite h.woundRange.recallRange (hu.of_eq rfl))

theorem memorySafe.hcpCycleOf {i : Nat} (h : memorySafe s) : memorySafe (s.hcpCycleOf i) := h.modHcp.hDrain.hFinish

end Sys2Proof
end

section
/-! SUPPORT. Memory stays in canonical form (O55): tile walks, beats and their events. -/
namespace Sys2Proof
open Sys2Proof.Machine
variable {s : State}

theorem memorySafe.tileTrap {c x : Nat} {tw : TileWord} {cause v low : Nat} (h : memorySafe s) : memorySafe (s.tileTrap c x tw cause v low) :=
  .modCtx (.ite (.foldl h (fun _ _ hu => .spadScrub hu) _) h)

theorem memorySafe.stepScrub {c : Nat} {t : TileStep} {r : Nat} (h : memorySafe s) : memorySafe (s.stepScrub c t r) :=
  h.of_kept (Kept.refl s).stepScrub

theorem memorySafe.pushStep {c : Nat} {t : TileStep} (h : memorySafe s) : memorySafe (s.pushStep c t) :=
  h.of_kept (Kept.refl s).pushStep

theorem memorySafe.issueStep {c x : Nat} {tw0 : TileWord} {p : StepPlan} (h : memorySafe s) : memorySafe (s.issueStep c x tw0 p) :=
  ((h.foldl (fun _ _ hu => hu.spadScrub) _).pushStep).modMdw

theorem memorySafe.mdeqApply {t : Nat} {r : BeatReq} (h : memorySafe s) : memorySafe (s.mdeqApply t r) := .modCtx (.ite h (.modMdw h))

theorem memorySafe.bdAnswer {t : Nat} {r : BeatReq} {a : Answer} (h : memorySafe s) : memorySafe (s.bdAnswer t r a) :=
  h.of_kept (Kept.refl s).bdAnswer

theorem memorySafe.bdVisit {t : Nat} {r : BeatReq} (h : memorySafe s) : memorySafe (s.bdVisit t r) :=
  h.of_kept (Kept.refl s).bdVisit

theorem resSafe.bdwaitLimitExpiry {mdw id : Nat} (h : memorySafe s) : resSafe (execBdwaitLimitExpiry mdw id s) := by
  unfold execBdwaitLimitExpiry
  split
  · exact .next h
  · extract_lets
    exact .ite (.next h) (.next h.bdAnswer)

theorem memorySafe.beatPorts {t : Nat} (h : memorySafe s) : memorySafe (s.beatPorts t) := by
  unfold State.beatPorts
  extract_lets s'
  have hs' : memorySafe s' := .ite h.modMdw h
  exact .ite hs' ((hs'.foldl (fun _ _ hu => hu.mdeqApply) _).modMdw)

theorem memorySafe.beatWaits {t : Nat} (h : memorySafe s) : memorySafe (s.beatWaits t) := h.foldl (fun _ _ hu => hu.bdVisit) _

theorem memorySafe.beatFail {c : Nat} {b : BeatRun} {cause : Nat} {tval : W64} (h : memorySafe s) : memorySafe (s.beatFail c b cause tval) :=
  h.modMdw.raiseUnbound

theorem resSafe.beatSlotStart {mdw : Nat} (h : memorySafe s) : resSafe (execBeatSlotStart mdw s) := by
  unfold execBeatSlotStart
  extract_lets
  split
  · exact .next h
  · extract_lets
    split
    · exact .next h
    · split
      · exact .next h.beatFail
      · split
        · exact .ite (.next h.modMdw) (.next h.modMdw.now)
        · split
          · exact .next h.modMdw
          · exact .ite (.next h.modMdw) (.next h.modMdw.now)
          · exact .next h.modMdw.beatFail

theorem memorySafe.beatStep {c : Nat} (h : memorySafe s) : memorySafe (s.beatStep c) := by
  unfold State.beatStep
  extract_lets
  split
  · exact h
  · extract_lets
    split
    · exact h
    · extract_lets _ s1
      have hs1 : memorySafe s1 := h.pushStep
      split
      · exact h
      · split
        · exact h.beatFail
        · exact hs1.modMdw

theorem resSafe.beatDrain {mdw row : Nat} (h : memorySafe s) : resSafe (execBeatDrain mdw row s) := by
  unfold execBeatDrain
  split
  · exact .next h
  · extract_lets
    split
    · exact .next h
    · exact .next h.rowScrub.modMdw

theorem memorySafe.drainWrite {c : Nat} {b : BeatRun} {q : BeatDrain} {i : Nat} {r : Row × Bool} (h : memorySafe s) :
    memorySafe (s.drainWrite c b q i r) := by
  unfold State.drainWrite
  extract_lets
  split
  · exact h.beatFail
  · split
    · exact .beatFail (.of_eq h rfl)
    · split
      · exact h.beatFail
      · exact .ite h.beatFail h.modMdw

theorem memorySafe.drainRow {c : Nat} {q : BeatDrain} (h : memorySafe s) : memorySafe (s.drainRow c q) := by
  unfold State.drainRow
  extract_lets
  split
  · exact h
  · split
    · exact h.drainWrite
    · exact h

theorem resSafe.beatRunEnd {mdw : Nat} (h : memorySafe s) : resSafe (execBeatRunEnd mdw s) := by
  unfold execBeatRunEnd
  extract_lets
  split
  · exact .next h
  · exact .ite (.next h) (.next h.setMdw)

theorem memorySafe.stampedStep {c x : Nat} {t : TileWord} (h : memorySafe s) : memorySafe (s.stampedStep c x t) := by
  unfold State.stampedStep
  extract_lets _ _ _ miss
  have hmiss : memorySafe miss := h.tileTrap
  split
  · exact hmiss
  · split
    · exact h.tileTrap
    · exact hmiss
    · exact h.issueStep

theorem memorySafe.plainStep {c x : Nat} {t : TileWord} (h : memorySafe s) : memorySafe (s.plainStep c x t) := by
  unfold State.plainStep
  extract_lets
  split
  · exact h
  · split
    · exact h.tileTrap
    · exact h
    · exact h.issueStep

theorem resSafe.tileStepIssue {mdw : Nat} (h : memorySafe s) : resSafe (execTileStepIssue mdw s) := by
  unfold execTileStepIssue
  extract_lets
  split
  · exact .next h.beatStep
  · split
    · exact .next h
    · split
      · exact .next h.stampedStep
      · split
        · exact .next h.plainStep
        · exact .next h

theorem resSafe.tileStepResult {mdw id : Nat} (h : memorySafe s) : resSafe (execTileStepResult mdw id s) := by
  unfold execTileStepResult
  split
  · exact .next h
  · extract_lets _ s1
    have hs1 : memorySafe s1 := h.rowScrub
    exact .ite (.next h) (.next hs1.modMdw)

theorem resSafe.mldbComplete {mdw id : Nat} (h : memorySafe s) : resSafe (execMldbComplete mdw id s) := by
  unfold execMldbComplete
  extract_lets s1
  have hs1 : memorySafe s1 := h.modMdw
  split
  · exact .next h
  · split
    · exact .next hs1.raiseAtLanding
    · exact .next hs1.modMdw

theorem resSafe.mstaComplete {mdw id : Nat} (h : memorySafe s) : resSafe (execMstaComplete mdw id s) := by
  unfold execMstaComplete
  split
  · exact .next h
  · exact .next h.modMdw

theorem resSafe.mdrawComplete {mdw id : Nat} (h : memorySafe s) : resSafe (execMdrawComplete mdw id s) := by
  unfold execMdrawComplete
  split
  · exact .next h
  · extract_lets
    exact .next h.modMdw

theorem memorySafe.stepRow {c : Nat} {t : TileStep} (h : memorySafe s) : memorySafe (s.stepRow c t) := .ite h h.stepScrub.modMdw

theorem memorySafe.mopRow {c : Nat} {o : MOp} (h : memorySafe s) : memorySafe (s.mopRow c o) := by
  unfold State.mopRow
  extract_lets _ s0 s1
  have hs0 : memorySafe s0 := by
    dsimp only [s0]
    split
    · exact h.foldl (fun _ _ hv => hv.spadScrub) _
    · exact h
  have hs1 : memorySafe s1 := .ite hs0.modMdw h
  exact .ite hs1.modMdw hs1

theorem memorySafe.consume {c : Nat} (h : memorySafe s) : memorySafe (s.consume c) :=
  .foldl (.ite h (.modMdw h)) (fun _ _ hu => .ite (.modMdw hu) hu) _

theorem memorySafe.matrixCycle {c : Nat} (h : memorySafe s) : memorySafe (s.matrixCycle c) := by
  unfold State.matrixCycle
  extract_lets _ _ s1 s2 s3 s4
  have hs1 : memorySafe s1 := h.setMdw
  have hs2 : memorySafe s2 := hs1.foldl (fun _ _ hu => hu.stepRow) _
  have hs3 : memorySafe s3 := hs2.foldl (fun _ _ hu => hu.mopRow) _
  have hs4 : memorySafe s4 := by
    dsimp only [s4]
    split
    · exact hs3.foldl (fun _ _ hv => hv.drainRow) _
    · exact hs3
  exact .ite hs4 hs4.consume

end Sys2Proof
end

section
/-! SUPPORT. Memory stays in canonical form (O55): keys, saved images and regions. -/
namespace Sys2Proof
open Sys2Proof.Machine
variable {s : State}

theorem memorySafe.flushKey {slot : Nat} (h : memorySafe s) : memorySafe (s.flushKey slot) :=
  h.foldl (fun _ _ hu => hu.foldl (fun _ _ hv => hv.evict) _) _

theorem memorySafe.setKey {slot : Nat} {k : Option (BitVec 512)} (h : memorySafe s) : memorySafe (s.setKey slot k) := h.flushKey.of_eq rfl

theorem resSafe.keyld {ic : BitVec 2} {rd : BitVec 6} {ra : BitVec 5} {rb : BitVec 6} (h : memorySafe s) : resSafe (execKeyld ic rd ra rb s) := by
  refine .sGuard h ?_
  dsimp only
  split
  · exact .trapRes h
  · exact .fault _
  · split
    · exact .next h
    · have hp : ∀ ps, memorySafe (s.scrubParts ps).freshIx.2 := fun _ => h.scrubParts.freshIx
      repeat' split
      · exact .next (hp _).modCtx
      · exact .next (hp _).modCtx
      · exact .next (hp _).setKey.modCtx
      · exact .trapRes h.scrubParts
      · exact .next (hp _).modCtx
      · exact .next (hp _).modCtx
      · exact .next (hp _).setKey.modCtx

theorem memorySafe.prqWrite {e : BitVec 256} (h : memorySafe s) (ht : s.prqWrite e = some t) : memorySafe t := by
  unfold State.prqWrite at ht
  dsimp only at ht
  split at ht
  · cases ht
  · cases ht
    exact h.of_eq rfl

theorem memorySafe.prqPush {e : BitVec 256} (h : memorySafe s) : memorySafe (s.prqPush e) :=
  h.of_kept (Kept.refl s).prqPush

theorem memorySafe.prqFlush (h : memorySafe s) : memorySafe s.prqFlush := by
  unfold State.prqFlush
  split
  · exact h
  · split
    · next s1 hw => exact (h.prqWrite hw).of_eq rfl
    · exact h

theorem memorySafe.pageRequest {image entry va : Nat} {who : Option Asker} (h : memorySafe s) : memorySafe (s.pageRequest image entry va who) :=
  h.of_kept (Kept.refl s).pageRequest

theorem memorySafe.stopHasp {c x : Nat} (h : memorySafe s) : memorySafe (s.stopHasp c x) := .ite h.haspRoll.modCtx h

theorem memorySafe.haltHasps {c : Nat} (h : memorySafe s) : memorySafe (s.haltHasps c) := .ite h (h.foldl (fun _ _ hu => .ite hu hu.stopHasp) _)

theorem memorySafe.stopMeadow {c : Nat} {why : StopWhy} (h : memorySafe s) : memorySafe (s.stopMeadow c why) := by
  unfold State.stopMeadow
  extract_lets _ s1
  have hs1 : memorySafe s1 := by
    dsimp only [s1]
    exact h.modMdw
  split
  · exact h.modMdw
  · exact hs1.haltHasps

theorem memorySafe.vWrite {m : Meadow} {va : Nat} {d : Line} (h : memorySafe s) : memorySafe (s.vWrite m va d) := h.writeParts

theorem memorySafe.scrubWords {c : Nat} {x : Option Nat} {words : List Nat} (h : memorySafe s) : memorySafe (s.scrubWords c x words) := by
  unfold State.scrubWords
  extract_lets bad
  have hb {u : State} {w : Nat} (hu : memorySafe u) : memorySafe (bad u w) := by
    dsimp only [bad]
    split
    · exact .ite hu.logDie.raiseUnbound hu.logDie
    · exact hu.logDie
  refine h.foldl (fun _ _ hu => ?_) _
  dsimp only
  split
  · exact hu.modMdw.logDie
  · exact hb hu.modMdw
  · exact .ite (hb hu) hu

theorem memorySafe.saveScrub {c : Nat} (h : memorySafe s) : memorySafe (s.saveScrub c) := .ite h h.rowScrub.scrubWords

theorem memorySafe.saveImage {c : Nat} {m : Meadow} {area rcb : Nat} {chkpt : Bool} (h : memorySafe s) :
    memorySafe (s.saveImage c m area rcb chkpt) := by
  unfold State.saveImage
  extract_lets
  dsimp -zeta only
  extract_lets _ s2
  have hs2 : memorySafe s2 := by
    dsimp only [s2]
    refine h.freshIx.foldl (fun _ _ hv => ?_) _
    split
    · exact hv.vWrite
    · exact hv
  exact hs2.setSaved

theorem memorySafe.scrubImage {m : Meadow} {area : Nat} (h : memorySafe s) : memorySafe (s.scrubImage m area) :=
  .ite h (h.dramScrub.foldl (fun _ _ hu => hu.scrubParts) _)

theorem memorySafe.modRegion {id : Nat} {f : Region → Region} (h : memorySafe s) : memorySafe (s.modRegion id f) := h.of_eq rfl

theorem memorySafe.endRegion {id : Nat} {why : StopWhy} {fin : EndInfo} (h : memorySafe s) : memorySafe (s.endRegion id why fin) := by
  unfold State.endRegion
  extract_lets s1
  have hs1 : memorySafe s1 := h.modRegion
  split
  · exact h
  · exact hs1.foldl (fun _ _ hu => .ite hu.stopMeadow hu) _

theorem resSafe.halt {ic : BitVec 2} {ra : BitVec 5} (h : memorySafe s) : resSafe (execHalt ic ra s) := by
  unfold execHalt
  extract_lets
  split
  · exact .sGuard h (.next h)
  · exact .sGuard h (.next h.setCore.endRegion)

theorem memorySafe.startSave {ic : BitVec 2} {rd : Nat} {why : StopWhy} (h : memorySafe s) : memorySafe (s.startSave ic rd why) :=
  .stopMeadow (.issueWait (.of_eq h rfl))

theorem resSafe.ctxsv {ic : BitVec 2} {rd : BitVec 6} {ra : BitVec 5} (h : memorySafe s) : resSafe (execCtxsv ic rd ra s) := by
  unfold execCtxsv
  extract_lets
  split
  · exact .next h
  · split
    · exact .sGuard h (.trapRes h)
    · exact .sGuard h (.fault _)
    · exact .sGuard h (.ite (.next h.setCore) (.next h.startSave))

theorem resSafe.ctxld {ic : BitVec 2} {rd : BitVec 6} {ra : BitVec 5} {rb : BitVec 6} (h : memorySafe s) : resSafe (execCtxld ic rd ra rb s) := by
  unfold execCtxld
  extract_lets
  split
  · exact .next h
  · split
    · exact .sGuard h (.trapRes h)
    · exact .sGuard h (.fault _)
    · split
      · exact .sGuard h (.next h.setCore)
      · exact .sGuard h (.next h.startSave)

theorem memorySafe.finishSave {c x rd : Nat} {img : W64} (h : memorySafe s) : memorySafe (s.finishSave c x rd img) := by
  unfold State.finishSave
  extract_lets s' _ _ _ _ _ s1
  have hs' : memorySafe s' := h.saveScrub
  have hs1 : memorySafe s1 := hs'.saveImage
  exact hs1.modMdw

theorem memorySafe.finishLoad {c : Nat} {img : W64} (h : memorySafe s) : memorySafe (s.finishLoad c img) := h.scrubImage.setMdw

end Sys2Proof
end

section
/-! SUPPORT. Memory stays in canonical form (O55): synchronisation, hasps and loads. -/
namespace Sys2Proof
open Sys2Proof.Machine
variable {s : State}

theorem memorySafe.makeRoom {d : Nat} (h : memorySafe s) : memorySafe (s.makeRoom d) := by
  unfold State.makeRoom
  extract_lets
  split
  · exact h
  · split
    · exact h.evict
    · exact h

theorem memorySafe.reachLine {d va pa key : Nat} (h : memorySafe s) : memorySafe (s.reachLine d va pa key) := by
  unfold State.reachLine
  extract_lets s1
  have hs1 : memorySafe s1 := h.makeRoom.dieScrub
  split
  · extract_lets
    exact .modEng (.ite (.sramScrub h) h)
  · exact .ite h hs1.modEng.landTouch

theorem memorySafe.setLine {d va pa o n : Nat} {v : Line} (h : memorySafe s) : memorySafe (s.setLine d va pa o n v) := h.modEng

theorem memorySafe.fetchLines {d : Nat} (h : memorySafe s) : memorySafe (s.fetchLines d) := h.foldl (fun _ _ hu => .ite hu.arbPut.modEng hu) _

theorem memorySafe.reply {d : Nat} {r : SyncReq} {a : SyncAns} (h : memorySafe s) : memorySafe (s.reply d r a) := h.of_eq rfl

theorem memorySafe.meetsPoison {d : Nat} {r : SyncReq} (h : memorySafe s) : memorySafe (s.meetsPoison d r) := by
  unfold State.meetsPoison
  split
  · exact h.reply
  · exact h.reply
  · exact h.reply
  · exact h.reply
  · exact h.logEngine

theorem memorySafe.ringAppend {d : Nat} {r : SyncReq} {rec_ : Line} (h : memorySafe s) : memorySafe (s.ringAppend d r rec_) := by
  unfold State.ringAppend
  extract_lets
  split
  · exact h.reply
  · split
    · exact h.reply
    · split
      · exact h.reply
      · exact h.reply
      · extract_lets s1
        have hs1 : memorySafe s1 := h.writeParts.setLine
        exact hs1.reply

theorem memorySafe.declare {d : Nat} {r : SyncReq} {w : W32} (h : memorySafe s) : memorySafe (s.declare d r w) := by
  unfold State.declare
  extract_lets _ s1
  have hs1 : memorySafe s1 := by
    dsimp only [s1]
    exact h.modEng
  split
  · exact h.reply
  · exact hs1.reply

theorem memorySafe.applyOp {d : Nat} {r : SyncReq} (h : memorySafe s) : memorySafe (s.applyOp d r) := by
  unfold State.applyOp
  extract_lets
  split
  · extract_lets _ _ s1
    have hs1 : memorySafe s1 := .ite h.setLine h.setLine
    split
    · exact hs1.reply
    · exact hs1
  · extract_lets
    exact .reply (.ite (.ite (.setLine h) (.setLine h)) h)
  · exact .ite h.setLine h.setLine
  · exact .ite h.setLine h.setLine
  · extract_lets
    exact .ite h.setLine h.setLine
  · exact .ite h.setLine h.setLine
  · exact .ite (.reply (.ite (.setLine h) (.setLine h))) (.reply h)
  · exact .ite (.ite h.setLine h.setLine) h.logEngine
  · exact .ite (.ite h.setLine h.setLine) h.logEngine
  · exact h.ringAppend
  · exact h.declare
  · exact h
  · exact h
  · exact h

theorem memorySafe.applyReq {d : Nat} {r : SyncReq} (h : memorySafe s) : memorySafe (s.applyReq d r) := by
  unfold State.applyReq
  extract_lets s0 s1 s2 s3 s3'
  have hs0 : memorySafe s0 := .modEng (.of_eq h rfl)
  have hs1 : memorySafe s1 := hs0.underKeys fun _ hu => hu.reachLine
  have hs2 : memorySafe s2 := .ite hs1.woundPa hs1
  have hs3 : memorySafe s3 := .ite hs2.meetsPoison hs2
  have hs3' : memorySafe s3' := hs2.applyOp
  split
  · exact h
  · split
    · exact hs0.declare
    · exact .ite hs3.modEng (.ite hs2.meetsPoison (.ite hs3'.modEng hs3'))

theorem memorySafe.barrierCheck {d : Nat} {q : Nat × Nat × Nat} (h : memorySafe s) : memorySafe (s.barrierCheck d q) := by
  unfold State.barrierCheck
  extract_lets s1
  have hs1 : memorySafe s1 := h.reachLine
  split
  · exact hs1.modEng
  · split
    · exact hs1
    · split
      · exact hs1.setLine.modEng
      · exact hs1

theorem memorySafe.endWait {d : Nat} {r : SyncReq} {a : Answer} (h : memorySafe s) : memorySafe (s.endWait d r a) := h.modEng.reply

theorem memorySafe.judgeWait {d : Nat} {r : SyncReq} (h : memorySafe s) : memorySafe (s.judgeWait d r) := by
  unfold State.judgeWait
  extract_lets s1
  have hs1 : memorySafe s1 := h.reachLine
  split
  · exact hs1.endWait
  · exact hs1.endWait
  · exact .ite hs1.now hs1

theorem resSafe.syncRequestApply {die : Nat} (h : memorySafe s) : resSafe (execSyncRequestApply die s) := by
  unfold execSyncRequestApply
  extract_lets _ _ s1 _ s2 s3
  have hs1 : memorySafe s1 := h.fetchLines.foldl (fun _ _ hu => hu.applyReq) _
  have hs2 : memorySafe s2 := hs1.modEng
  have hs3 : memorySafe s3 := hs2.foldl (fun _ _ hu => hu.barrierCheck) _
  exact .next (hs3.foldl (fun _ _ hu => hu.judgeWait) _)

theorem resSafe.boundedWaitExpiry {die id : Nat} (h : memorySafe s) : resSafe (execBoundedWaitExpiry die id s) := by
  unfold execBoundedWaitExpiry
  split
  · exact .next h
  · extract_lets
    exact .next h.endWait

theorem resSafe.syncAnswerArrival {mdw ctx id : Nat} (h : memorySafe s) : resSafe (execSyncAnswerArrival mdw ctx id s) := by
  unfold execSyncAnswerArrival
  extract_lets _ wait
  clear_value wait
  split
  · exact .next h
  · extract_lets s1
    have hs1 : memorySafe s1 := h.of_eq rfl
    split
    · exact .next hs1.modCtx
    · exact .next hs1.modCtx
    · cases wait with
      | none => exact .next hs1
      | some w => exact .ite (.next hs1) (.ite (.ite (.next h) (.next hs1.modCtx)) (.next hs1.modCtx))

theorem resSafe.userInterruptEntry {mdw ctx : Nat} (h : memorySafe s) : resSafe (execUserInterruptEntry mdw ctx s) :=
  .ite (.next h.modCtx) (.next h.modCtx.modCtx)

theorem memorySafe.dtopoRead {c x : Nat} {d : Dtopo} {count : Option Nat} {ps : List Machine.Part} (h : memorySafe s) :
    memorySafe (s.dtopoRead c x d count ps) :=
  h.of_kept (Kept.refl s).dtopoRead

theorem memorySafe.raiseS {c x cause : Nat} {tval : W64} (h : memorySafe s) : memorySafe (s.raiseS c x cause tval) := h.modCtx

theorem resSafe.sWordResult {a : Agent} (h : memorySafe s) : resSafe (execSWordResult a s) := by
  unfold execSWordResult
  split
  · exact .next (.ite h h.modCtx)
  · exact .next h.modHcp
  · exact .next h

theorem resSafe.vectorSweepStep {mdw fl : Nat} (h : memorySafe s) : resSafe (execVectorSweepStep mdw fl s) := by
  unfold execVectorSweepStep
  extract_lets
  split
  · exact .next h
  · exact .ite (.next h.sweepStep) (.next h)

theorem resSafe.vectorStepResult {mdw fl st : Nat} (h : memorySafe s) : resSafe (execVectorStepResult mdw fl st s) := by
  unfold execVectorStepResult
  extract_lets
  split
  · exact .next h
  · split
    · exact .next h
    · exact .ite (.next h.stepResult) (.next h)

theorem memorySafe.takeData {c x : Nat} {e : LandEntry} (h : memorySafe s) : memorySafe (s.takeData c x e) := h.scrubParts.modCtx

theorem resSafe.loadDataArrival {mdw ctx id : Nat} (h : memorySafe s) : resSafe (execLoadDataArrival mdw ctx id s) := by
  unfold execLoadDataArrival
  split
  · exact .next h
  · exact .ite (.next h.takeData) (.next h)

theorem resSafe.dtopoData {c x : Nat} {d : Dtopo} {ps : List Machine.Part} (h : memorySafe s) : resSafe (s.dtopoData c x d ps) := by
  unfold State.dtopoData
  extract_lets _ done
  have hdone : memorySafe done := h.modCtx
  clear_value done
  refine .ite (.next hdone.raiseS) (.option (.ite (.next hdone.raiseS) ?_) fun n => ?_)
  · split
    · exact .next hdone.raiseS
    · exact .fault _
    · exact .next h.dtopoRead
  · generalize topoCheck _ = parents
    cases parents with
    | error v => exact .next hdone.raiseS
    | ok t => exact .next hdone.modMdw

theorem resSafe.dtopoComplete {mdw ctx : Nat} (h : memorySafe s) : resSafe (execDtopoComplete mdw ctx s) := by
  unfold execDtopoComplete
  split
  · exact .next h
  · split
    · exact .next h.modCtx.raiseS
    · exact .fault _
    · exact .ite (.dtopoData (.scrubParts h)) (.next h)

theorem resSafe.loadLanding {mdw ctx id : Nat} (h : memorySafe s) : resSafe (execLoadLanding mdw ctx id s) := by
  unfold execLoadLanding
  extract_lets
  split
  · exact .next h
  · extract_lets
    split
    · exact .next h
    · split
      · extract_lets s1
        have hs1 : memorySafe s1 := h.modCtx
        exact .next (.ite hs1.raiseAtLanding hs1)
      · exact .ite (.next h.modMdw) (.ite (.next h.modCtx.raiseAtLanding) (.next h.modMdw))
      · exact .ite (.next (.ite h.modMdw h)) (.ite (.next h.modCtx.raiseAtLanding) (.ite (.next h) (.next h.modCtx)))

theorem memorySafe.portReads {c : Nat} (h : memorySafe s) : memorySafe (s.portReads c) := h.modMdw.foldl (fun _ _ hu => hu.spadScrub.modCtx) _

theorem resSafe.lateLandingFreeze {mdw : Nat} (h : memorySafe s) : resSafe (execLateLandingFreeze mdw s) := .next h.modMdw

theorem memorySafe.holdLines {c : Nat} {t : HaspSet} (h : memorySafe s) : memorySafe (s.holdLines c t) := by
  unfold State.holdLines
  refine h.foldl (fun _ _ hu => ?_) _
  extract_lets
  split
  · exact hu.reachLine
  · exact hu

theorem memorySafe.touchSet {c x : Nat} {age : AgeKey} {d region ident : Nat} (h : memorySafe s) :
    memorySafe (s.touchSet c x age d region ident).1 := by
  unfold State.touchSet
  extract_lets
  split
  · dsimp only
    exact h
  · split
    · dsimp only
      exact h.modEng.holdLines
    · split
      · dsimp only
        exact h
      · split
        · dsimp only
          exact h
        · split
          · dsimp only
            exact h
          · dsimp only
            exact h.haspRoll.modEng.holdLines

theorem memorySafe.touchAll {c x : Nat} {age : AgeKey} {l : List (Nat × HaspSet)} (h : memorySafe s) : memorySafe (s.touchAll c x age l).1 := by
  induction l generalizing s with
  | nil => exact h
  | cons p l ih =>
    unfold State.touchAll
    split
    · next ht => exact ih (.of_fst h.touchSet ht)
    · exact h.touchSet

theorem memorySafe.recordLines {age : AgeKey} {region : Nat} {l : List (Nat × Nat × Nat)} (h : memorySafe s)
    (ht : s.recordLines age region l = some t) : memorySafe t := by
  induction l generalizing s with
  | nil =>
    cases ht
    exact h
  | cons p l ih =>
    unfold State.recordLines at ht
    extract_lets at ht
    split at ht
    · exact ih h ht
    · split at ht
      · cases ht
      · exact ih h.reachLine.modEng ht

theorem memorySafe.touchLoad {c x : Nat} {e : LandEntry} (h : memorySafe s) : memorySafe (s.touchLoad c x e) := by
  unfold State.touchLoad
  extract_lets
  split
  · next ht => exact (memorySafe.of_fst h.touchAll ht).takeData
  · next ht => exact .of_fst h.touchAll ht
  · next ht => exact (memorySafe.of_fst h.touchAll ht).haspRoll

theorem memorySafe.touchStore {c x : Nat} {p : PendStore} (h : memorySafe s) : memorySafe (s.touchStore c x p) := by
  unfold State.touchStore
  extract_lets
  split
  · exact h.haspRoll.modCtx
  · split
    · next ht => exact .of_fst h.touchAll ht
    · next ht => exact (memorySafe.of_fst h.touchAll ht).haspRoll
    · next ht =>
      have h1 := memorySafe.of_fst h.touchAll ht
      split
      · exact h1.haspRoll
      · next hr => exact (h1.recordLines hr).doStore

theorem resSafe.haspTouch {die id : Nat} (h : memorySafe s) : resSafe (execHaspTouch die id s) := by
  unfold execHaspTouch
  split
  · exact .ite (.next h.touchLoad) (.next h)
  · split
    · exact .ite (.next h.touchStore) (.next h)
    · exact .next h

theorem resSafe.haspRollback {mdw ctx : Nat} (h : memorySafe s) : resSafe (execHaspRollback mdw ctx s) := by
  unfold execHaspRollback
  extract_lets
  split
  · exact .next h
  · exact .ite (.next h) (.next h.modCtx)

theorem memorySafe.ownerRequest {c : Nat} {tval : W64} (h : memorySafe s) : memorySafe (s.ownerRequest c tval) := by
  unfold State.ownerRequest
  split
  · exact h.pageRequest
  · exact h

theorem resSafe.trapEntry {mdw ctx : Nat} (h : memorySafe s) : resSafe (execTrapEntry mdw ctx s) := by
  unfold execTrapEntry
  extract_lets
  split
  · exact .next h
  · extract_lets s1 s2
    have hs1 : memorySafe s1 := .ite h.ownerRequest h
    have hs2 : memorySafe s2 := .ite hs1.haspUndo hs1
    exact .ite (.next h) (.ite (.next hs1.modCtx.now) (.next hs2.modCtx))

end Sys2Proof
end

section
/-! SUPPORT. Memory stays in canonical form (O55): the stream engine. -/
namespace Sys2Proof
open Sys2Proof.Machine
variable {s : State}

theorem memorySafe.seHalt {c x : Nat} {r : SERun} {status : Nat} (h : memorySafe s) : memorySafe (s.seHalt c x r status) := h.modCtx

theorem memorySafe.seWindow {c x : Nat} {r : SERun} {cause : Nat} {tval : W64} (h : memorySafe s) : memorySafe (s.seWindow c x r cause tval) :=
  h.seHalt.raiseUnbound

theorem resSafe.seStart {c x : Nat} {ops : Nat → Bool} (h : memorySafe s) : resSafe (seStart c x ops s) := by
  unfold Machine.seStart
  split
  · exact .next h
  · exact .ite (.next h) (.ite (.next (.seHalt (.modCtx (.of_eq h rfl)))) (.next (.modCtx (.modCtx (.of_eq h rfl)))))

theorem resSafe.sePattern {mdw ctx : Nat} (h : memorySafe s) : resSafe (execSePattern mdw ctx s) := .seStart h

theorem resSafe.seGather {mdw ctx : Nat} (h : memorySafe s) : resSafe (execSeGather mdw ctx s) := .seStart h

theorem resSafe.seScatter {mdw ctx : Nat} (h : memorySafe s) : resSafe (execSeScatter mdw ctx s) := .seStart h

theorem resSafe.seSync {mdw ctx : Nat} (h : memorySafe s) : resSafe (execSeSync mdw ctx s) := .seStart h

theorem resSafe.seChainFetch {mdw ctx : Nat} (h : memorySafe s) : resSafe (execSeChainFetch mdw ctx s) := by
  unfold execSeChainFetch
  extract_lets
  split
  · exact .next h
  · extract_lets
    split
    · exact .next h
    · split
      · exact .next h.modCtx.seWindow
      · exact .fault _
      · extract_lets s1
        have hs1 : memorySafe s1 := h.scrubParts
        exact .ite (.next h) (.ite (.next (.seHalt (.modCtx hs1))) (.next (.modCtx (.arbEnter (.of_eq hs1 rfl)))))

/-- What a granule leaves keeps memory in canonical form. -/
def granSafe : Gran → Prop
  | .ok s .. | .poison s => memorySafe s
  | _ => True

theorem memorySafe.seSpadRead {c x : Nat} {rs : List (Nat × Nat)} (h : memorySafe s) (ht : s.seSpadRead c x rs = .ok t) : memorySafe t := by
  unfold State.seSpadRead at ht
  extract_lets at ht
  split at ht
  · cases ht
  · split at ht
    · cases ht
    · cases ht
      exact h.setMdw.foldl (fun _ _ hu => hu.spadScrub) _

/-- A read that gives no bytes changes nothing. -/
theorem granSafe_of_seSpadRead {c x : Nat} {rs : List (Nat × Nat)} {g : Gran} (he : s.seSpadRead c x rs = .error g) : granSafe g := by
  unfold State.seSpadRead at he
  extract_lets at he
  split at he
  · cases he
    trivial
  · split at he
    · cases he
      trivial
    · cases he

theorem memorySafe.granRead {c x a n : Nat} {sp : Bool} {v : Nat × Nat} (h : memorySafe s) (ht : s.granRead c x sp a n = .ok (t, v)) :
    memorySafe t := by
  unfold State.granRead at ht
  extract_lets at ht
  split at ht
  · split at ht
    · cases ht
    · next hr =>
      cases ht
      exact h.seSpadRead hr
  · split at ht
    · cases ht
    · cases ht
    · split at ht
      · cases ht
      · cases ht
        exact h.scrubParts

theorem granSafe_of_granRead {c x a n : Nat} {sp : Bool} {g : Gran} (he : s.granRead c x sp a n = .error g) : granSafe g := by
  unfold State.granRead at he
  extract_lets at he
  split at he
  · split at he
    · next hr =>
      cases he
      exact granSafe_of_seSpadRead hr
    · cases he
  · split at he
    · cases he
      trivial
    · cases he
      trivial
    · split at he
      · cases he
        trivial
      · cases he

theorem granSafe_of_fillFate {m : Meadow} {rs : List (Nat × Nat)} {g : Gran} (hg : granSafe g) : granSafe ((m.fillFate rs).getD g) := by
  unfold Meadow.fillFate
  split
  · trivial
  · split
    · trivial
    · exact hg

theorem granSafe_granWrite {c x a n v : Nat} {sp : Bool} (h : memorySafe s) : granSafe (s.granWrite c x sp a n v) := by
  unfold State.granWrite
  extract_lets
  split
  · exact granSafe_of_fillFate h.modMdw
  · split
    · trivial
    · trivial
    · split
      · trivial
      · exact h.writeParts

theorem granSafe_granConvert {c x src dst : Nat} {r : SERun} {zero : Bool} (h : memorySafe s) : granSafe (s.granConvert c x r src dst zero) := by
  unfold State.granConvert
  extract_lets
  split
  · next he => exact granSafe_of_seSpadRead he
  · next hr =>
    have h1 := h.seSpadRead hr
    refine granSafe_of_fillFate ?_
    extract_lets
    split
    · exact h1
    · exact h1.setMdw

theorem granSafe_granule {c x : Nat} {r : SERun} (h : memorySafe s) : granSafe (s.granule c x r) := by
  unfold State.granule
  split
  · exact h
  · split
    · trivial
    · split
      · exact granSafe_granConvert h
      · extract_lets
        split
        · exact granSafe_granWrite h
        · split
          · next he => exact granSafe_of_granRead he
          · next hr =>
            have h1 := h.granRead hr
            split
            · exact h1
            · exact granSafe_granWrite h1

theorem memorySafe.seIndex {c x : Nat} {r q : SERun} (h : memorySafe s) (ht : s.seIndex c x r = .ok (t, q)) : memorySafe t := by
  unfold State.seIndex at ht
  split at ht
  · cases ht
    exact h
  · split at ht
    · cases ht
    · extract_lets at ht
      split at ht
      · cases ht
      · next hr =>
        cases ht
        exact h.seSpadRead hr

theorem granSafe_of_seIndex {c x : Nat} {r : SERun} {g : Gran} (he : s.seIndex c x r = .error g) : granSafe g := by
  unfold State.seIndex at he
  split at he
  · cases he
  · split at he
    · cases he
      trivial
    · extract_lets at he
      split at he
      · next hr =>
        cases he
        exact granSafe_of_seSpadRead hr
      · cases he

theorem memorySafe.seEnter {c : Nat} {r : SERun} (h : memorySafe s) : memorySafe (s.seEnter c r).1 := by
  unfold State.seEnter
  split
  · exact h
  · exact h.nextSeq.arbEnter.arbEnter

theorem memorySafe.setRun {c x : Nat} {r : SERun} (h : memorySafe s) : memorySafe (s.setRun c x r) := h.modCtx

theorem resSafe.seGranuleMove {mdw ctx : Nat} (h : memorySafe s) : resSafe (execSeGranuleMove mdw ctx s) := by
  unfold execSeGranuleMove
  split
  · exact .next h
  · split
    · exact .next h
    · extract_lets stop
      have hstop {u : State} {r : SERun} {g : Gran} (hu : memorySafe u) (hg : granSafe g) : resSafe (stop u r g) := by
        cases g with
        | wait => exact .next hu.setRun
        | halt st => exact .next hu.seHalt
        | poison s1 => exact .next (memorySafe.seHalt hg)
        | window cause tval => exact .next hu.seWindow
        | gone pa => exact .fault _
        | ok s1 n nibs bufs => exact .next (memorySafe.freshIx hg).modMdw.setRun
      split
      · next he => exact hstop h (granSafe_of_seIndex he)
      · next s1 r1 hr =>
        have hq : memorySafe (s1.seEnter mdw r1).1 := (h.seIndex hr).seEnter
        exact .ite (hstop (g := .wait) hq trivial) (hstop hq (granSafe_granule hq))

theorem resSafe.bufferDrainEmpty {mdw buf : Nat} (h : memorySafe s) : resSafe (execBufferDrainEmpty mdw buf s) := by
  unfold execBufferDrainEmpty
  extract_lets
  split
  · exact .next h
  · exact .ite (.next h.modMdw) (.next h)

theorem resSafe.seCommandComplete {mdw ctx : Nat} (h : memorySafe s) : resSafe (execSeCommandComplete mdw ctx s) := by
  unfold execSeCommandComplete
  extract_lets
  split
  · exact .next h
  · extract_lets
    exact .ite (.next h) (.ite (.next h.modCtx) (.next h.setMdw))

end Sys2Proof
end

section
/-! SUPPORT. Memory stays in canonical form (O55): launches, tasks and progress. -/
namespace Sys2Proof
open Sys2Proof.Machine
variable {s : State}

theorem memorySafe.entryScrub {m : Meadow} {va n : Nat} (h : memorySafe s) : memorySafe (s.entryScrub m va n) := by
  unfold State.entryScrub
  refine h.foldl (fun _ _ hu => ?_) _
  split
  · exact hu.dramScrub
  · exact hu

theorem memorySafe.qScrub {m : Meadow} {va n : Nat} (h : memorySafe s) : memorySafe (s.qScrub m va n) := by
  unfold State.qScrub
  split
  · exact h
  · split
    · exact h.entryScrub.scrubParts
    · exact h.entryScrub

theorem memorySafe.scrubChain {m : Meadow} {fuel va : Nat} (h : memorySafe s) : memorySafe (s.scrubChain m fuel va) := by
  induction fuel generalizing s va with
  | zero => exact h
  | succ fuel ih =>
    unfold State.scrubChain
    extract_lets s1
    have hs1 : memorySafe s1 := h.qScrub
    split
    · exact .ite hs1 (ih hs1)
    · exact hs1

theorem memorySafe.scrubPlan {m : Meadow} {rcb : Nat} (h : memorySafe s) : memorySafe (s.scrubPlan m rcb) := by
  unfold State.scrubPlan
  extract_lets s1
  have hs1 : memorySafe s1 := h.scrubChain
  split
  · extract_lets _ s2
    have hs2 : memorySafe s2 := hs1.dramScrub.foldl (fun _ _ hu => hu.scrubChain) _
    exact hs2.qScrub.foldl (fun _ _ hu => hu.qScrub) _
  · exact hs1

theorem memorySafe.scrubKernel {m : Meadow} {nkb : Nat} (h : memorySafe s) : memorySafe (s.scrubKernel m nkb) := by
  unfold State.scrubKernel
  extract_lets s1
  have hs1 : memorySafe s1 := h.qScrub
  split
  · exact hs1
  · extract_lets
    refine hs1.foldl (fun _ _ hu => ?_) _
    extract_lets _ s1'
    have hs1' : memorySafe s1' := hu.qScrub
    split
    · exact hs1'.entryScrub
    · exact hs1'

theorem memorySafe.takeSlot {m : Meadow} {q slot : Nat} (h : memorySafe s) : memorySafe (s.takeSlot m q slot) := by
  unfold State.takeSlot
  extract_lets s0
  have hs0 : memorySafe s0 := h.of_eq rfl
  split
  · exact hs0.of_eq rfl
  · split
    · exact .writeParts (.of_eq hs0 rfl)
    · exact hs0.of_eq rfl

theorem memorySafe.nextGens {c : Nat} (h : memorySafe s) : memorySafe (s.nextGens c) := by
  unfold State.nextGens
  refine h.foldl (fun _ _ hu => ?_) _
  extract_lets
  exact .modCtx (.of_eq hu rfl)

theorem memorySafe.resumeMeadow {r : Region} {rank c : Nat} (h : memorySafe s) : memorySafe (s.resumeMeadow r rank c) := h.scrubImage.setMdw.setMdw

theorem memorySafe.placeMeadow {r : Region} {rank c : Nat} (h : memorySafe s) : memorySafe (s.placeMeadow r rank c) :=
  .nextGens (.ite (.resumeMeadow (.scrubImage h)) (.setMdw (.scrubImage h)))

theorem memorySafe.placeRegion {l : Launch} {p : Plan} (h : memorySafe s) : memorySafe (s.placeRegion l p) := by
  unfold State.placeRegion
  extract_lets
  dsimp -zeta only
  extract_lets _ _ s1
  have hs1 : memorySafe s1 := h.nextSeq.of_eq rfl
  exact hs1.foldl (fun _ _ hu => hu.placeMeadow) _

theorem memorySafe.askPreempt {r : Region} (h : memorySafe s) : memorySafe (s.askPreempt r) := h.foldl (fun _ _ hu => .ite hu.stopMeadow hu) _

theorem memorySafe.claim {q slot : Nat} {p : Plan} (h : memorySafe s) : memorySafe (s.claim q slot p) := by
  unfold State.claim
  extract_lets _ _ s1
  have hs1 : memorySafe s1 := h.of_eq rfl
  exact .ite h (hs1.foldl (fun _ _ hu => hu.askPreempt) _)

theorem memorySafe.repin (h : memorySafe s) : memorySafe s.repin := h.foldl (fun _ _ hu => hu.modEng) _

theorem memorySafe.startHcp {m : Meadow} {l : Launch} {p : KPlan} {k i : Nat} (h : memorySafe s) : memorySafe (s.startHcp m l p k i) := h.modHcp

theorem memorySafe.startKernel {m : Meadow} {l : Launch} {p : KPlan} (h : memorySafe s) : memorySafe (s.startKernel m l p) := by
  unfold State.startKernel
  extract_lets _ _ s1 s2
  have hs1 : memorySafe s1 := h.of_eq rfl
  have hs2 : memorySafe s2 := hs1.foldl (fun _ _ hu => hu.startHcp) _
  exact (hs2.foldl (fun _ _ hu => hu.reachLine) _).repin

theorem memorySafe.scrubQueue {q : Nat} {batch : Option Nat} {slot : Nat} (h : memorySafe s) : memorySafe (s.scrubQueue q batch slot) := by
  unfold State.scrubQueue
  extract_lets _ s1 s2
  have hs1 : memorySafe s1 := h.qScrub
  have hs2 : memorySafe s2 := by
    dsimp only [s2]
    split
    · exact hs1.foldl (fun _ _ hv => hv.qScrub) _
    · exact hs1
  split
  · exact h
  · split
    · exact hs2
    · split
      · exact hs2.scrubPlan
      · exact hs2.scrubKernel
      · exact hs2.foldl (fun _ _ hu => hu.qScrub) _

theorem resSafe.launchRecordStart {q slot : Nat} (h : memorySafe s) : resSafe (execLaunchRecordStart q slot s) := by
  unfold execLaunchRecordStart
  extract_lets s'
  have hs' : memorySafe s' := h.scrubQueue
  split
  · exact .next hs'
  · split
    · exact .next hs'
    · split
      · exact .next hs'
      · dsimp -zeta only
        extract_lets _ _ s1
        have hs1 : memorySafe s1 := hs'.nextSeq.takeSlot
        split
        · exact .next (.now (.of_eq hs1 rfl))
        · exact .next (hs1.of_eq rfl)
        · exact .ite (.next hs') (.next hs'.nextSeq.takeSlot.startKernel)
        · exact .ite (.next hs') (.ite (.ite (.next hs'.nextSeq.takeSlot.placeRegion) (.next hs')) (.next hs'.claim))

theorem memorySafe.scrubRings {c : Nat} (h : memorySafe s) : memorySafe (s.scrubRings c) := by
  unfold State.scrubRings
  extract_lets
  split
  · exact h
  · refine h.foldl (fun _ _ hu => ?_) _
    split
    · exact hu.scrubParts
    · exact hu

theorem memorySafe.launchPost {m : Meadow} {l : Launch} (h : memorySafe s) : memorySafe (s.launchPost m l) := by
  unfold State.launchPost
  split
  · exact h
  · split
    · exact .modEng (.of_eq h rfl)
    · exact h

theorem memorySafe.settleLq {q : Nat} (h : memorySafe s) : memorySafe (s.settleLq q) := by
  unfold State.settleLq
  extract_lets
  split
  · exact .ite h (h.of_eq rfl)
  · exact h

theorem memorySafe.undeclareAll {region : Nat} (h : memorySafe s) : memorySafe (s.undeclareAll region) :=
  h.foldl (fun _ _ hu => hu.modEng.noticeRelease) _

theorem memorySafe.dropRegion {r : Region} (h : memorySafe s) : memorySafe (s.dropRegion r) :=
  ((h.foldl (fun _ _ hu => .ite hu.modMdw hu) _).undeclareAll).of_eq rfl

theorem resSafe.launchCompletion {id : Nat} (h : memorySafe s) : resSafe (execLaunchCompletion id s) := by
  unfold execLaunchCompletion
  split
  · exact .next h
  · extract_lets _ _ reg t g s1 s2 s3 _ s4
    have ht : memorySafe t := by
      dsimp only [t]
      split
      · exact h.writeParts
      · exact h
    have hs1 : memorySafe s1 := .ite (.setIrq (.of_eq ht rfl)) h
    have hs2 : memorySafe s2 := hs1.launchPost
    have hs3 : memorySafe s3 := by
      dsimp only [s3]
      clear_value reg
      split
      · exact hs2.dropRegion
      · exact hs2
    have hs4 : memorySafe s4 := hs3.of_eq rfl
    clear_value s4
    exact .ite (.next h) (.next (.settleLq (.ite hs4.repin hs4)))

theorem memorySafe.ringPut {c : Nat} {sp : Bool} {addr off v : Nat} (h : memorySafe s) : memorySafe (s.ringPut c sp addr off v) := by
  unfold State.ringPut
  extract_lets
  split
  · exact h.setMdw
  · split
    · exact h.writeParts
    · exact h

theorem resSafe.taskStart {mdw ctx stage : Nat} (h : memorySafe s) : resSafe (execTaskStart mdw ctx stage s) := by
  unfold execTaskStart
  extract_lets
  split
  · exact .next h
  · split
    · exact .next h
    · extract_lets
      exact .ite (.next h) (.next h.setMdw)

theorem memorySafe.freeItem {c i : Nat} {g : Stage} {item : Nat} (h : memorySafe s) : memorySafe (s.freeItem c i g item) := by
  unfold State.freeItem
  extract_lets
  dsimp -zeta only
  extract_lets s1
  have hs1 : memorySafe s1 := h.setMdw
  split
  · exact hs1.ringPut
  · exact hs1

theorem memorySafe.commitSlot {c i : Nat} {g : Stage} {slot : Nat} (h : memorySafe s) : memorySafe (s.commitSlot c i g slot) := by
  unfold State.commitSlot
  extract_lets
  dsimp -zeta only
  extract_lets s1
  have hs1 : memorySafe s1 := h.setMdw
  split
  · exact hs1.ringPut
  · exact hs1

theorem resSafe.taskEnd {mdw ctx : Nat} (h : memorySafe s) : resSafe (execTaskEnd mdw ctx s) := by
  unfold execTaskEnd
  split
  · exact .next h
  · split
    · extract_lets s1
      have hs1 : memorySafe s1 := by
        dsimp only [s1]
        exact h.modMdw
      split
      · exact .next h
      · extract_lets s2
        have hs2 : memorySafe s2 := by
          dsimp only [s2]
          split
          · exact hs1.freeItem
          · exact hs1
        split
        · exact .next hs2.commitSlot
        · exact .next hs2
    · exact .next h

theorem resSafe.contextPromotion {mdw ctx : Nat} {u : IssueUnit} (h : memorySafe s) : resSafe (execContextPromotion mdw ctx u s) :=
  .ite (.next h) (.next h.modCtx)

theorem resSafe.turnTimeout {mdw : Nat} {u : IssueUnit} (h : memorySafe s) : resSafe (execTurnTimeout mdw u s) := by
  unfold execTurnTimeout
  extract_lets
  split
  · exact .next h
  · exact .ite (.next h.setMdw) (.next h)

theorem memorySafe.charge {launch : Nat} {path : List Nat} {n : Nat} (h : memorySafe s) : memorySafe (s.charge launch path n) := h.of_eq rfl

theorem memorySafe.chargeAll (h : memorySafe s) : memorySafe s.chargeAll := by
  unfold State.chargeAll
  extract_lets s1
  have hs1 : memorySafe s1 := by
    dsimp only [s1]
    refine h.foldl (fun _ _ hv => ?_) _
    split
    · exact hv
    · exact hv.charge.modMdw
  exact hs1.foldl (fun _ _ hu => .ite hu hu.charge.modHcp) _

theorem memorySafe.dropUnder {node : Nat} (h : memorySafe s) : memorySafe (s.dropUnder node) := by
  unfold State.dropUnder
  extract_lets s0 s1 s2
  have hs0 : memorySafe s0 := by
    dsimp only [s0]
    exact h.of_eq rfl
  have hs1 : memorySafe s1 := hs0.setIrq
  have hs2 : memorySafe s2 := hs1.foldl (fun _ _ hu => hu.foldl (fun _ _ hv => .ite hv.modMdw hv) _) _
  exact hs2.foldl (fun _ _ hu => hu.modHcp) _

theorem resSafe.energyCharge (h : memorySafe s) : resSafe (execEnergyCharge s) :=
  .ite (.next h) (.next (h.chargeAll.foldl (fun _ _ hu => hu.dropUnder) _))

theorem resSafe.powerCompare (h : memorySafe s) : resSafe (execPowerCompare s) := by
  unfold execPowerCompare
  extract_lets
  exact .ite (.next h) (.ite (.next (h.of_eq rfl)) (.ite (.ite (.next (h.of_eq rfl)) (.next (h.of_eq rfl))) (.next (h.of_eq rfl))))

theorem resSafe.savePreempted {c : Nat} {r : Region} (h : memorySafe s) : resSafe (s.savePreempted c r) := by
  unfold State.savePreempted
  extract_lets _ _ s0 s1
  have hs0 : memorySafe s0 := h.saveScrub
  have hs1 : memorySafe s1 := hs0.saveImage.modMdw
  split
  · exact .next h.modMdw.now
  · exact .fault _
  · exact .next hs1.modRegion

theorem resSafe.preemption {mdw : Nat} (h : memorySafe s) : resSafe (execPreemption mdw s) := by
  unfold execPreemption
  extract_lets
  split
  · exact .next h.askPreempt
  · exact .next h
  · extract_lets
    split
    · exact .next h
    · split
      · split
        · exact .savePreempted h
        · exact .next h.modMdw
      · exact .next h.modMdw
      · exact .next h.modMdw
      · split
        · exact .next h.modMdw.now
        · exact .fault _
        · exact .next (.ite h.finishSave.stopMeadow h.finishSave)
      · exact .ite (.next h) (.next (.ite h.finishLoad.stopMeadow h.finishLoad))

theorem resSafe.preemptStuck {mdw : Nat} (h : memorySafe s) : resSafe (execPreemptStuck mdw s) := .ite (.next h) (.next h.setMdw.now)

theorem resSafe.resumption {region : Nat} (h : memorySafe s) : resSafe (execResumption region s) := by
  unfold execResumption
  extract_lets s1
  have hs1 : memorySafe s1 := h.modRegion
  split
  · exact .next h
  · exact .ite (.next h) (.next (hs1.foldl (fun _ _ hu => hu.resumeMeadow) _))

theorem memorySafe.disarm {i : Nat} (h : memorySafe s) : memorySafe (s.disarm i) := by
  unfold State.disarm
  extract_lets s'
  have hs' : memorySafe s' := h.foldl (fun _ _ hu => hu.landFlush) _
  refine hs'.foldl (fun _ _ hu => ?_) _
  exact .finishCmd (.of_eq hu rfl)

theorem memorySafe.stopUnder {info : EndInfo} {r : Region} (h : memorySafe s) : memorySafe (s.stopUnder info r) := by
  unfold State.stopUnder
  extract_lets s0 s1
  have hs0 : memorySafe s0 := h.foldl (fun _ _ hu => .ite (hu.foldl (fun _ _ hv => hv.stopHasp) _) hu) _
  have hs1 : memorySafe s1 := hs0.endRegion.undeclareAll
  exact hs1.foldl (fun _ _ hu => .ite hu.nextGens.modMdw hu) _

theorem memorySafe.killKernel {info : EndInfo} {l : Launch} (h : memorySafe s) : memorySafe (s.killKernel info l) := by
  unfold State.killKernel
  extract_lets s1
  have hs1 : memorySafe s1 := h.of_eq rfl
  exact hs1.foldl (fun _ _ hu => .ite hu.modHcp.disarm hu) _

theorem resSafe.faultDomainStop {node cause : Nat} {fctx fval : W64} {killed : Bool} (h : memorySafe s) :
    resSafe (execFaultDomainStop node cause fctx fval killed s) := by
  unfold execFaultDomainStop
  extract_lets _ s1 s2
  have hs1 : memorySafe s1 := h.foldl (fun _ _ hu => hu.stopUnder) _
  have hs2 : memorySafe s2 := hs1.foldl (fun _ _ hu => hu.killKernel) _
  exact .ite (.next h) (.next (.setIrq (.of_eq hs2 rfl)))

theorem resSafe.faultDomainStopClear {node : Nat} (h : memorySafe s) : resSafe (execFaultDomainStopClear node s) := .next (h.of_eq rfl)

end Sys2Proof
end

section
/-! SUPPORT. Memory stays in canonical form (O55): arbiters, isolation and the host. -/
namespace Sys2Proof
open Sys2Proof.Machine
variable {s : State}

theorem memorySafe.neighbour {pc : Nat} {a : W32} (h : memorySafe s) : memorySafe (s.neighbour pc a).2 := by
  unfold State.neighbour
  extract_lets
  split
  · exact h
  · exact h.freshIx

theorem memorySafe.beginLease {pc : Nat} {r : ArbReq} {slot : Nat} (h : memorySafe s) : memorySafe (s.beginLease pc r slot) := h.modArb

theorem memorySafe.stopLease {pc bank : Nat} (h : memorySafe s) : memorySafe (s.stopLease pc bank) := .ite h h.modArb.modHcp

theorem memorySafe.arbDrop {pc : Nat} {r : ArbReq} (h : memorySafe s) : memorySafe (s.arbDrop pc r) := h.modArb

theorem memorySafe.column {pc slot : Nat} {r : ArbReq} (h : memorySafe s) : memorySafe (s.column pc slot r) :=
  .arbDrop (.modArb (.ite (.beginLease h) h))

theorem memorySafe.rowCmd {pc slot : Nat} {r : ArbReq} (h : memorySafe s) : memorySafe (s.rowCmd pc slot r) := by
  unfold State.rowCmd
  extract_lets _ s1 s2 s3
  have hs1 : memorySafe s1 := h.modArb
  have hs2 : memorySafe s2 := .ite hs1.beginLease hs1
  have hs3 : memorySafe s3 := .ite hs2.arbDrop hs2
  clear_value s3
  split
  · exact h.stopLease.modArb.arbDrop
  · split
    · exact h.beginLease.arbDrop
    · split
      · next hn => exact .of_snd hs3.neighbour hn
      · next hn => exact (memorySafe.of_snd hs3.neighbour hn).nextSeq.modArb

theorem memorySafe.served {r : ArbReq} (h : memorySafe s) : memorySafe (s.served r) := .ite h.readLine h

theorem memorySafe.beginSlot {pc slot : Nat} (h : memorySafe s) : memorySafe (s.beginSlot pc slot) := (h.foldl (fun _ _ hu => hu.stopLease) _).modArb

theorem resSafe.arbiterSlot {pc : Nat} (h : memorySafe s) : resSafe (execArbiterSlot pc s) := by
  unfold execArbiterSlot
  extract_lets _ s0 _ _ s1 _ col s2 row
  have hs0 : memorySafe s0 := h.beginSlot
  have hs1 : memorySafe s1 := hs0.of_eq rfl
  have hs2 : memorySafe s2 := by
    dsimp only [s2]
    clear_value col
    split
    · exact hs1.column.served
    · exact hs1
  clear_value row
  refine .next ?_
  split
  · exact hs2.rowCmd
  · exact hs2

theorem resSafe.activatePromotion {pc id : Nat} (h : memorySafe s) : resSafe (execActivatePromotion pc id s) := .next h.modArb

theorem resSafe.leaseExpiry {pc bank : Nat} (h : memorySafe s) : resSafe (execLeaseExpiry pc bank s) := .ite (.next h.stopLease) (.next h)

theorem resSafe.refreshDue {pc bank : Nat} (h : memorySafe s) : resSafe (execRefreshDue pc bank s) := .next (.modArb (.stopLease (.of_eq h rfl)))

theorem memorySafe.flip {image i : Nat} {f : W64 → W64} {now : Bool} (h : memorySafe s) : memorySafe (s.flip image i f now) :=
  h.dramScrub.hWrite.of_eq rfl

theorem memorySafe.deliver {a : Asker} {status value : Nat} (h : memorySafe s) : memorySafe (s.deliver a status value) := by
  unfold State.deliver
  extract_lets
  split
  · exact h.modCtx
  · split
    · exact h
    · exact h.of_eq rfl

theorem memorySafe.settlePage {image i : Nat} (h : memorySafe s) : memorySafe (s.settlePage image i) := by
  unfold State.settlePage
  extract_lets s1
  have hs1 : memorySafe s1 := h.flip
  split
  · exact h
  · split
    · exact h
    · split
      · exact hs1.of_eq rfl
      · split
        · exact h
        · extract_lets s1'
          have hs1' : memorySafe s1' := h.of_eq rfl
          exact hs1'.prqPush

theorem memorySafe.answerAll {q : PageReq} {status value : Nat} (h : memorySafe s) : memorySafe (s.answerAll q status value) := by
  unfold State.answerAll
  extract_lets s1
  have hs1 : memorySafe s1 := h.of_eq rfl
  exact (hs1.foldl (fun _ _ hu => hu.deliver) _).settlePage

theorem memorySafe.hostAnswer {seq status frame : Nat} (h : memorySafe s) : memorySafe (s.hostAnswer seq status frame) := by
  unfold State.hostAnswer
  split
  · exact h
  · exact .ite h.answerAll (.ite h.answerAll (.ite h.answerAll h.flip.answerAll))

theorem resSafe.hrqAnswer {seq : Nat} {status frame : W64} (h : memorySafe s) : resSafe (execHrqAnswer seq status frame s) := .next h.hostAnswer

theorem memorySafe.hostReclaim {image entry : Nat} (h : memorySafe s) : memorySafe (s.hostReclaim image entry) := by
  unfold State.hostReclaim
  split
  · exact h
  · have h2 (wait : Bool) : memorySafe (if wait then s.nextSeq.2 else s.nextSeq.2.flip image entry eGiven) := .ite h.nextSeq h.nextSeq.flip
    exact (h2 _).of_eq rfl

theorem resSafe.hrqReclaim {image : W64} {entry : Nat} (h : memorySafe s) : resSafe (execHrqReclaim image entry s) := .next h.hostReclaim

theorem resSafe.reclaimComplete {id : Nat} (h : memorySafe s) : resSafe (execReclaimComplete id s) := by
  unfold execReclaimComplete
  split
  · exact .next h
  · dsimp -zeta only
    extract_lets s1 s2
    have hs1 : memorySafe s1 := h.foldl (fun _ _ hu => hu.foldl (fun _ _ hv => hv.evict) _) _
    have hs2 : memorySafe s2 := hs1.of_eq rfl
    clear_value s2
    exact .ite (.next h) (.next hs2.prqPush.settlePage)

theorem resSafe.pageRequestTimeout {seq : Nat} (h : memorySafe s) : resSafe (execPageRequestTimeout seq s) := by
  unfold execPageRequestTimeout
  split
  · exact .next h
  · exact .ite (.next h) (.next h.answerAll)

theorem memorySafe.hrqEntry {a : Nat} (h : memorySafe s) : memorySafe (s.hrqEntry a) := by
  unfold State.hrqEntry
  extract_lets
  split
  · exact h.hostAnswer
  · exact h.hostReclaim
  · exact h

theorem resSafe.hrqdb {v : W64} (h : memorySafe s) : resSafe (execHrqdb v s) := by
  unfold execHrqdb
  extract_lets _ s1 s2
  have hs1 : memorySafe s1 := h.of_eq rfl
  have hs2 : memorySafe s2 := hs1.foldl (fun _ _ hu => hu.hrqEntry) _
  exact .ite (.next h) (.ite (.next hs1) (.next hs2.setHost))

theorem memorySafe.raiseLevel {src lvl : Nat} (h : memorySafe s) : memorySafe (s.raiseLevel src lvl) := by
  unfold State.raiseLevel
  extract_lets s1 s2 s3
  have hs1 : memorySafe s1 := h.of_eq rfl
  have hs2 : memorySafe s2 := .ite hs1.logErr hs1
  have hs3 : memorySafe s3 := hs2.of_eq rfl
  exact .ite hs2 (.ite (.now (.ite (.of_eq hs3 rfl) (.of_eq hs3 rfl))) (.ite (.of_eq hs3 rfl) (.of_eq hs3 rfl)))

theorem memorySafe.alarm {a : AlarmSource} (h : memorySafe s) : memorySafe (s.alarm a) := h.raiseLevel

theorem resSafe.alarmRaise {src : AlarmSource} (h : memorySafe s) : resSafe (execAlarmRaise src s) := .next h.alarm

theorem memorySafe.erase (h : memorySafe s) : memorySafe s.erase := h.of_eq rfl

theorem resSafe.secstat {v : W64} (h : memorySafe s) : resSafe (execSecstat v s) := .ite (.next (h.of_eq rfl)) (.next (h.of_eq rfl))

theorem resSafe.seccfg {v : W64} (h : memorySafe s) : resSafe (execSeccfg v s) := .ite (.next h) (.next (h.of_eq rfl))

theorem resSafe.debugAccess {cert : Nat} (h : memorySafe s) : resSafe (execDebugAccess cert s) :=
  .ite (.next (.alarm (.of_eq h rfl))) (.ite (.next h) (.next (.alarm h)))

theorem resSafe.firmwareUpdate {image : Nat} (h : memorySafe s) : resSafe (execFirmwareUpdate image s) := .ite (.next (h.of_eq rfl)) (.next h.alarm)

theorem resSafe.attestationReport {nonce : BitVec 256} (h : memorySafe s) : resSafe (execAttestationReport nonce s) := by
  unfold execAttestationReport
  split
  · exact .next h
  · exact .ite (.next h.alarm) (.next (h.of_eq rfl))

theorem resSafe.ibufParity {mdw ctx : Nat} {st : StreamId} (h : memorySafe s) : resSafe (execIbufParity mdw ctx st s) := by
  unfold execIbufParity
  extract_lets _ _ _ _ _ _ _ s1 s2
  have hs1 : memorySafe s1 := h.logDie.modCtx
  have hs2 : memorySafe s2 := hs1.logDie
  exact .ite (.next (.now (.of_eq hs2 rfl))) (.ite (.next (.modCtx hs1)) (.next hs1))

theorem memorySafe.ringLq (h : memorySafe s) : memorySafe s.ringLq := h.now

theorem memorySafe.holdLq {q : Nat} {v : W64} (h : memorySafe s) : memorySafe (s.holdLq q v) := h.of_eq rfl

theorem memorySafe.commitLq {q : Nat} {v : W64} (h : memorySafe s) : memorySafe (s.commitLq q v) := .settleLq (.of_eq h rfl)

theorem resSafe.lqdb {v : W64} (h : memorySafe s) : resSafe (execLqdb v s) := .ite (.next h) (.next h.ringLq)

theorem resSafe.lqregh {q : Nat} {v : W64} (h : memorySafe s) : resSafe (execLqregh q v s) := .ite (.next h) (.next h.holdLq)

theorem resSafe.lqregl {q : Nat} {v : W64} (h : memorySafe s) : resSafe (execLqregl q v s) := .ite (.next h) (.next h.commitLq)

theorem resSafe.mcirq {v : W64} (h : memorySafe s) : resSafe (execMcirq v s) := .next h.clearIrq

theorem memorySafe.setBootcfg {v : W64} (h : memorySafe s) : memorySafe (s.setBootcfg v) := .ite h (h.of_eq rfl)

theorem resSafe.bootcfg {v : W64} (h : memorySafe s) : resSafe (execBootcfg v s) := .ite (.next h) (.next h.setBootcfg)

theorem resSafe.nrctl {stack : Nat} {v : W64} (h : memorySafe s) : resSafe (execNrctl stack v s) :=
  .ite (.next h) (.next (.ite (h.of_eq rfl) (h.of_eq rfl)))

theorem resSafe.registerWrite {byM : Bool} {off : Nat} {v : W64} (h : memorySafe s) : resSafe (execRegisterWrite byM off v s) := by
  unfold execRegisterWrite
  exact .ite (.next h) (.ite (.next h.setBootcfg) (.ite (.next h.commitLq) (.ite (.next h.holdLq) (.ite (.next h.ringLq) (.ite (.next
    (.ite h (h.of_eq rfl))) (.ite (.next (.ite h (h.of_eq rfl))) (.ite (.next (.ite h (h.of_eq rfl))) (.ite (.next (.ite h
    (h.of_eq rfl))) (.ite (.next (h.of_eq rfl)) (.ite (.next (h.of_eq rfl)) (.ite (.next (.ite (h.of_eq rfl) h)) (.ite (.next
    (h.of_eq rfl)) (.ite (.next (h.of_eq rfl)) (.ite (.next (h.of_eq rfl)) (.ite (.next (.ite (h.of_eq rfl) h)) (.next h))))))))))))))))

theorem resSafe.apertureAccess {write : Bool} {off : W64} {size : Nat} {data : BitVec 512} (h : memorySafe s) :
    resSafe (execApertureAccess write off size data s) := by
  unfold execApertureAccess
  extract_lets _ _ _ u s1
  have hu : memorySafe u := h.woundRange.hWrite
  have hs1 : memorySafe s1 := h.dramScrub
  exact .ite (.next h) (.ite (.next (h.of_eq rfl)) (.ite (.next (hu.of_eq rfl)) (.next (hs1.of_eq rfl))))

theorem resSafe.favexPortFailure {port : Nat} (h : memorySafe s) : resSafe (execFavexPortFailure port s) := by
  unfold execFavexPortFailure
  extract_lets u
  have hu : memorySafe u := h.logErr
  exact .next (hu.of_eq rfl)

theorem memorySafe.startGtc {g : Nat} (h : memorySafe s) : memorySafe (s.startGtc g) := h.of_eq rfl

theorem resSafe.gtcSyncFlit {port : Nat} {v d : W64} (h : memorySafe s) : resSafe (execGtcSyncFlit port v d s) := .ite (.next h.startGtc) (.next h)

theorem resSafe.powerOnReset (h : memorySafe s) : resSafe (execPowerOnReset s) := .next (h.of_eq rfl)

theorem memorySafe.zeroCompute (h : memorySafe s) : memorySafe s.zeroCompute := Memory.filter_wf h _

theorem memorySafe.bootWork (h : memorySafe s) : memorySafe s.bootWork := by
  unfold State.bootWork
  split
  · exact h.of_eq rfl
  · split
    · exact .ite h h.alarm
    · dsimp -zeta only
      extract_lets s2
      have hs2 : memorySafe s2 := h.freshIx.of_eq rfl
      split
      · exact .ite h h.alarm
      · split
        · exact hs2.of_eq rfl
        · exact hs2.alarm
        · exact hs2.alarm
        · exact .alarm (.of_eq hs2 rfl)
  · exact h.of_eq rfl
  · exact memorySafe.zeroCompute (.of_eq h rfl)
  · have h6 : memorySafe { s with bootStep := 6 } := h
    exact .ite (h6.foldl (fun _ _ hu => hu.settleLq) _) (.ite h h.startGtc)
  · exact h

theorem memorySafe.bootCycle (h : memorySafe s) : memorySafe s.bootCycle := by
  unfold State.bootCycle
  extract_lets
  split
  · exact h
  · dsimp -zeta only
    extract_lets s2
    have hs2 : memorySafe s2 := h.freshIx.bootWork
    exact .ite (.ite hs2 (hs2.of_eq rfl)) h.freshIx

end Sys2Proof
end

section
/-! SUPPORT. Memory stays in canonical form (O55): generation. -/
namespace Sys2Proof
open Sys2Proof.Machine
variable {s : State}

theorem memorySafe.seqPut {i off n v : Nat} (h : memorySafe s) : memorySafe (s.seqPut i off n v) := h.of_eq rfl

theorem memorySafe.setSeqState {i st : Nat} (h : memorySafe s) : memorySafe (s.setSeqState i st) := h.seqPut

theorem memorySafe.genWrite {va n v : Nat} (h : memorySafe s) : memorySafe (s.genWrite va n v) := by
  unfold State.genWrite
  split
  · exact h.writeParts
  · exact h

theorem memorySafe.genPut {d : Line} {desc n v : Nat} (h : memorySafe s) : memorySafe (s.genPut d desc n v) := by
  unfold State.genPut
  split
  · exact h.writeParts.writeParts
  · exact h

theorem memorySafe.append {ring tok pos : Nat} (h : memorySafe s) : memorySafe (s.append ring tok pos) := by
  unfold State.append
  split
  · exact h
  · extract_lets
    exact .ite h h.genPut

theorem memorySafe.takeReq {r : GenReq} (h : memorySafe s) : memorySafe (s.takeReq r) := by
  unfold State.takeReq
  split
  · extract_lets free
    clear_value free
    cases free with
    | none => exact h.append
    | some i => exact .ite h.append h.seqPut.setSeqState
  · split
    · exact h.setSeqState
    · exact h

theorem memorySafe.ringReqs (h : memorySafe s) : memorySafe s.ringReqs.2 := by
  unfold State.ringReqs
  split
  · dsimp only
    exact h
  · extract_lets
    split
    · dsimp only
      exact h
    · dsimp only
      exact h.genWrite

theorem memorySafe.takeReqs (h : memorySafe s) : memorySafe s.takeReqs.1 := by
  unfold State.takeReqs
  extract_lets q s1
  have hs1 : memorySafe s1 := h.ringReqs.of_eq rfl
  exact hs1.foldl_fst (fun _ _ hu => hu.takeReq) _

theorem memorySafe.hostAsk {r : GenReq} (h : memorySafe s) : memorySafe (s.hostAsk r) := by
  unfold State.hostAsk
  extract_lets _ wait
  have hwait : memorySafe wait := h.of_eq rfl
  split
  · exact .ite hwait h.genPut
  · exact hwait

theorem resSafe.sequenceAdd {image : BitVec 1024} (h : memorySafe s) : resSafe (execSequenceAdd image s) := .next h.hostAsk

theorem resSafe.sequenceCancel {seqid : BitVec 32} (h : memorySafe s) : resSafe (execSequenceCancel seqid s) := .next h.hostAsk

theorem memorySafe.ringBatch (h : memorySafe s) : memorySafe s.ringBatch := by
  unfold State.ringBatch
  extract_lets
  split
  · exact h
  · exact .ite h h.genPut

theorem memorySafe.putArgs (h : memorySafe s) : memorySafe s.putArgs := h.foldl (fun _ _ hu => hu.genWrite) _

theorem memorySafe.genScrub (h : memorySafe s) : memorySafe s.genScrub := .ite h (h.foldl (fun _ _ hu => hu.qScrub) _)

theorem resSafe.genIterationIssue (h : memorySafe s) : resSafe (execGenIterationIssue s) := by
  unfold execGenIterationIssue
  extract_lets s1 _ _ s2 s3 s4
  have hs1 : memorySafe s1 := h.genScrub.takeReqs
  have hs2 : memorySafe s2 := hs1.genWrite
  have hs3 : memorySafe s3 := hs2.foldl (fun _ _ hu => hu.genWrite) _
  have hs4 : memorySafe s4 := hs3.putArgs.ringBatch
  exact .ite (.next h) (.ite (.next hs1) (.next (.now (.of_eq hs4 rfl))))

theorem memorySafe.commitToks {e : Nat} {t : Nat → Nat} {l : List Nat} (h : memorySafe s) : memorySafe (s.commitToks e t l) := by
  induction l generalizing s with
  | nil => exact h
  | cons j l ih =>
    unfold State.commitToks
    extract_lets _ s1
    have hs1 : memorySafe s1 := h.append.seqPut.seqPut
    exact .ite h.setSeqState (.ite hs1.setSeqState (ih hs1))

theorem memorySafe.commitRow {i e : Nat} (h : memorySafe s) : memorySafe (s.commitRow i e) := by
  unfold State.commitRow
  extract_lets _ _ _ _ _ _ s1 s2
  have hs1 : memorySafe s1 := h.commitToks
  have hs2 : memorySafe s2 := hs1.foldl (fun _ _ hu => hu.seqPut) _
  exact .ite h (.ite h.setSeqState.append (.ite hs2.append.setSeqState hs2))

theorem memorySafe.relaunch (h : memorySafe s) : memorySafe s.relaunch := .ite (.now (.of_eq (.ringBatch h) rfl)) (.of_eq h rfl)

theorem resSafe.genCommit (h : memorySafe s) : resSafe (execGenCommit s) := by
  unfold execGenCommit
  extract_lets s0
  have h1 : memorySafe s0.takeReqs.1 := h.genScrub.clearIrq.takeReqs
  clear_value s0
  split
  · exact .next h
  · split
    · exact .next (.ite h.relaunch h)
    · split
      · exact .next h
      · dsimp -zeta only
        extract_lets _ _ _ s2
        have hs2 : memorySafe s2 := h1.foldl (fun _ _ hu => .ite hu hu.commitRow) _
        clear_value s2
        exact .ite (.next (.relaunch (.of_eq h1 rfl))) (.next (hs2.of_eq rfl))

end Sys2Proof
end

section
/-! SUPPORT. Memory stays in canonical form (O55): the cycle and the step. -/
namespace Sys2Proof
open Sys2Proof.Machine
variable {s : State}

theorem memorySafe.scrubFetch {a : Agent} (h : memorySafe s) : memorySafe (s.scrubFetch a) := by
  unfold State.scrubFetch
  split
  · exact h
  · split
    · split
      · exact h.scrubParts
      · exact h
    · extract_lets
      split
      · exact h.dramScrub
      · exact h
    · exact h

/-- Words that change memory when they issue: the rest of the words leave it as it stands. -/
theorem resSafe.restoring {i : Instr} (h : memorySafe s) (hr : restoresMemory i = true) : resSafe (exec i s) := by
  cases i
  case afence => exact .afence h
  case keyld => exact .keyld h
  case tabort => exact .tabort h
  case halt => exact .halt h
  case ctxsv => exact .ctxsv h
  case ctxld => exact .ctxld h
  all_goals cases hr

theorem resSafe.special {i : Instr} (h : memorySafe s) (hw : writesSpecial i = true) : resSafe (exec i s) := by
  intro t ht
  cases i
  case eret => exact h.of_eq (exec_eret_kept _ _ ht).mem
  case uiret => exact h.of_eq (exec_uiret_kept _ _ ht).mem
  case dseed => exact h.of_eq (exec_dseed_kept _ _ _ _ ht).mem
  all_goals cases hw

theorem resSafe.sWord {i : Instr} (h : memorySafe s) (hi : (encodeS i).isSome = true) : resSafe (exec i s) := by
  cases hr : restoresMemory i with
  | true => exact .restoring h hr
  | false =>
    cases hw : writesSpecial i with
    | true => exact .special h hw
    | false => exact fun t ht => h.of_eq ((exec_kept_of_encodeS (C := False) hi hw t ht).mem hr)

theorem resSafe.vWord {i : Instr} {p : BitVec 8 × VWord} (h : memorySafe s) (hv : vParts i = some p) : resSafe (exec i s) := by
  rw [exec_eq_vGo hv]
  exact fun t ht => h.of_kept (ResKept.vGo i t ht)

theorem resSafe.mWord {i : Instr} {p : BitVec 8 × MWord} (h : memorySafe s) (hm : mParts i = some p) : resSafe (exec i s) :=
  fun t ht => h.of_kept (exec_kept_of_mParts hm t ht)

theorem resSafe.event {i : Instr} (h : memorySafe s) (hi : ((encodeS i).isSome || (vParts i).isSome || (mParts i).isSome) = false) :
    resSafe (exec i s) := by
  cases i
  case sWordResult => exact .sWordResult h
  case vectorSweepStep => exact .vectorSweepStep h
  case vectorStepResult => exact .vectorStepResult h
  case loadDataArrival => exact .loadDataArrival h
  case loadLanding => exact .loadLanding h
  case lateLandingFreeze => exact .lateLandingFreeze h
  case tileStepIssue => exact .tileStepIssue h
  case tileStepResult => exact .tileStepResult h
  case mldbComplete => exact .mldbComplete h
  case mstaComplete => exact .mstaComplete h
  case mdrawComplete => exact .mdrawComplete h
  case dtopoComplete => exact .dtopoComplete h
  case bufferDrainEmpty => exact .bufferDrainEmpty h
  case sePattern => exact .sePattern h
  case seGather => exact .seGather h
  case seScatter => exact .seScatter h
  case seSync => exact .seSync h
  case seGranuleMove => exact .seGranuleMove h
  case seCommandComplete => exact .seCommandComplete h
  case seChainFetch => exact .seChainFetch h
  case userInterruptEntry => exact .userInterruptEntry h
  case syncRequestApply => exact .syncRequestApply h
  case syncAnswerArrival => exact .syncAnswerArrival h
  case boundedWaitExpiry => exact .boundedWaitExpiry h
  case bdwaitLimitExpiry => exact .bdwaitLimitExpiry h
  case heathCommandStart => exact .heathCommandStart h
  case heathCommandComplete => exact .heathCommandComplete h
  case arbiterSlot => exact .arbiterSlot h
  case activatePromotion => exact .activatePromotion h
  case leaseExpiry => exact .leaseExpiry h
  case refreshDue => exact .refreshDue h
  case landingContribution => exact .landingContribution h
  case gtcSyncFlit => exact .gtcSyncFlit h
  case favexPortFailure => exact .favexPortFailure h
  case lqdb v => exact .lqdb (v := v) h
  case launchRecordStart => exact .launchRecordStart h
  case launchCompletion => exact .launchCompletion h
  case taskStart => exact .taskStart h
  case taskEnd => exact .taskEnd h
  case contextPromotion => exact .contextPromotion h
  case turnTimeout => exact .turnTimeout h
  case energyCharge => exact .energyCharge h
  case powerCompare => exact .powerCompare h
  case preemption => exact .preemption h
  case preemptStuck => exact .preemptStuck h
  case resumption => exact .resumption h
  case beatSlotStart => exact .beatSlotStart h
  case beatDrain => exact .beatDrain h
  case beatRunEnd => exact .beatRunEnd h
  case haspTouch => exact .haspTouch h
  case haspRollback => exact .haspRollback h
  case trapEntry => exact .trapEntry h
  case faultDomainStop => exact .faultDomainStop h
  case ibufParity => exact .ibufParity h
  case hrqdb => exact .hrqdb h
  case hrqAnswer => exact .hrqAnswer h
  case hrqReclaim => exact .hrqReclaim h
  case reclaimComplete => exact .reclaimComplete h
  case pageRequestTimeout => exact .pageRequestTimeout h
  case apertureAccess => exact .apertureAccess h
  case bootcfg => exact .bootcfg h
  case lqregh => exact .lqregh h
  case lqregl => exact .lqregl h
  case mcirq => exact .mcirq h
  case secstat => exact .secstat h
  case seccfg => exact .seccfg h
  case nrctl => exact .nrctl h
  case registerWrite => exact .registerWrite h
  case alarmRaise => exact .alarmRaise h
  case debugAccess => exact .debugAccess h
  case firmwareUpdate => exact .firmwareUpdate h
  case attestationReport => exact .attestationReport h
  case powerOnReset => exact .powerOnReset h
  case genIterationIssue => exact .genIterationIssue h
  case genCommit => exact .genCommit h
  case sequenceAdd => exact .sequenceAdd h
  case sequenceCancel => exact .sequenceCancel h
  case hcpLoadArrival => exact .hcpLoadArrival h
  case faultDomainStopClear => exact .faultDomainStopClear h
  all_goals cases hi

theorem resSafe.exec {i : Instr} (h : memorySafe s) : resSafe (exec i s) := by
  cases hs : encodeS i with
  | some w => exact .sWord h (by simp [hs])
  | none =>
    cases hv : vParts i with
    | some p => exact .vWord h hv
    | none =>
      cases hm : mParts i with
      | some p => exact .mWord h hm
      | none => exact .event h (by simp [hs, hv, hm])

theorem resSafe.runSlot {a : Agent} (h : memorySafe s) : resSafe (runSlot a s) := by
  unfold Machine.runSlot
  extract_lets s'
  have hs' : memorySafe s' := h.scrubFetch
  refine .ite (.next h) ?_
  split
  · exact .ite (.exec hs') (.next hs')
  · exact .next hs'.raise
  · split
    · exact .next hs'.modHcp
    · exact .next hs'
  · exact .fault _

theorem resSafe.runEv {e : Ev} (h : memorySafe s) : resSafe (runEv e s) := by
  unfold Machine.runEv
  split
  · exact .sWordResult h
  · exact .vectorSweepStep h
  · exact .vectorStepResult h
  · exact .loadDataArrival h
  · exact .loadLanding h
  · exact .lateLandingFreeze h
  · exact .tileStepIssue h
  · exact .tileStepResult h
  · exact .mldbComplete h
  · exact .mstaComplete h
  · exact .mdrawComplete h
  · exact .dtopoComplete h
  · exact .bufferDrainEmpty h
  · exact .sePattern h
  · exact .seGather h
  · exact .seScatter h
  · exact .seSync h
  · exact .seGranuleMove h
  · exact .seCommandComplete h
  · exact .seChainFetch h
  · exact .userInterruptEntry h
  · exact .syncRequestApply h
  · exact .syncAnswerArrival h
  · exact .boundedWaitExpiry h
  · exact .bdwaitLimitExpiry h
  · exact .heathCommandStart h
  · exact .heathCommandComplete h
  · exact .arbiterSlot h
  · exact .activatePromotion h
  · exact .leaseExpiry h
  · exact .refreshDue h
  · exact .launchRecordStart h
  · exact .launchCompletion h
  · exact .taskStart h
  · exact .taskEnd h
  · exact .contextPromotion h
  · exact .turnTimeout h
  · exact .energyCharge h
  · exact .powerCompare h
  · exact .preemption h
  · exact .preemptStuck h
  · exact .resumption h
  · exact .beatSlotStart h
  · exact .beatDrain h
  · exact .beatRunEnd h
  · exact .haspTouch h
  · exact .haspRollback h
  · exact .trapEntry h
  · exact .faultDomainStop h
  · exact .reclaimComplete h
  · exact .pageRequestTimeout h
  · exact .genIterationIssue h
  · exact .genCommit h
  · exact .hcpLoadArrival h

theorem resSafe.runAct {a : Act} (h : memorySafe s) : resSafe (runAct a s) := by
  unfold Machine.runAct
  split
  · exact .runEv (.of_eq h rfl)
  · exact .exec (.of_eq h rfl)
  · exact .runSlot (.of_eq h rfl)

theorem memorySafe.clockMeadow {c : Nat} (h : memorySafe s) : memorySafe (s.clockMeadow c) := h.freshIx.modMdw.haltHasps

theorem memorySafe.settleMeadow {c : Nat} (h : memorySafe s) : memorySafe (s.settleMeadow c) := by
  unfold State.settleMeadow
  extract_lets s1
  have hs1 : memorySafe s1 := h.foldl (fun _ _ hu => hu.drainStores.settleTend.modCtx) _
  exact hs1.matrixCycle

theorem memorySafe.meterHcp {i : Nat} (h : memorySafe s) : memorySafe (s.meterHcp i) := .modHcp (.of_eq h rfl)

theorem memorySafe.refreshes {p : Nat} (h : memorySafe s) : memorySafe (s.refreshes p).1 := h.of_eq rfl

theorem memorySafe.takeInputs (h : memorySafe s) : memorySafe s.takeInputs := h.of_eq rfl

theorem memorySafe.dramCycle (h : memorySafe s) : memorySafe s.dramCycle := (h.endRecalls.foldl (fun _ _ hu => hu.feedCmd) _).landStep

theorem memorySafe.eraseDue (h : memorySafe s) : memorySafe s.eraseDue := by
  unfold State.eraseDue
  split
  · exact .ite h.erase h
  · exact h

theorem memorySafe.phaseClock (h : memorySafe s) : memorySafe s.phaseClock := by
  unfold State.phaseClock
  extract_lets s1 s2 s3 s4 s5 s6 s7 r s8
  have hs1 : memorySafe s1 := h
  have hs2 : memorySafe s2 := hs1.bootCycle
  have hs3 : memorySafe s3 := hs2.foldl (fun _ _ hu => hu.clockMeadow) _
  have hs4 : memorySafe s4 := hs3.foldl (fun _ _ hu => hu.settleMeadow) _
  have hs5 : memorySafe s5 := (hs4.foldl (fun _ _ hu => hu.meterHcp) _).prqFlush
  have hs6 : memorySafe s6 := memorySafe.dramCycle (.ite (hs5.foldl (fun _ _ hu => hu.hcpCycleOf) _) hs5)
  have hs7 : memorySafe s7 := hs6.eraseDue
  clear_value s7
  have hr : memorySafe r.1 := by
    refine memorySafe.foldl_fst (p := (s7, [])) hs7 (fun _ i hu => ?_) _
    exact hu.refreshes (p := i)
  have hs8 : memorySafe s8 := hr.takeInputs.later.later
  clear_value s8
  exact .ite hs1.eraseDue.bootCycle.takeInputs (hs8.of_eq rfl)

theorem memorySafe.phaseArrive (h : memorySafe s) : memorySafe s.phaseArrive := by
  unfold State.phaseArrive
  extract_lets s' u
  have hs' : memorySafe s' := h.foldl (fun _ _ hu => hu.scrubRings) _
  have hu : memorySafe u := hs'.later
  exact hu.of_eq rfl

theorem memorySafe.phaseFreeze (h : memorySafe s) : memorySafe s.phaseFreeze := by
  unfold State.phaseFreeze
  extract_lets u
  have hu : memorySafe u := h.later
  exact hu.of_eq rfl

theorem memorySafe.phaseResult (h : memorySafe s) : memorySafe s.phaseResult := by
  unfold State.phaseResult
  extract_lets s1 u
  have hs1 : memorySafe s1 := h.foldl (fun _ _ hu => hu.beatPorts) _
  have hu : memorySafe u := hs1.later
  exact hu.of_eq rfl

theorem memorySafe.slots {as_ : List Agent} (h : memorySafe s) : memorySafe (s.slots as_) := h.of_eq rfl

theorem memorySafe.phaseScalar (h : memorySafe s) : memorySafe s.phaseScalar := by
  unfold State.phaseScalar
  extract_lets s' _ s1 u
  have hs' : memorySafe s' := h.foldl (fun _ _ hu => hu.beatWaits) _
  have hs1 : memorySafe s1 := hs'.foldl (fun _ _ hu => hu.modCtx) _
  have hu : memorySafe u := hs1.slots
  exact hu.of_eq rfl

theorem memorySafe.planUnit {c : Nat} {u : IssueUnit} (h : memorySafe s) : memorySafe (s.planUnit c u) := by
  unfold State.planUnit
  extract_lets _ _ s1
  have hs1 : memorySafe s1 := h.setMdw
  split
  · exact h
  · split
    · exact hs1.slots
    · exact hs1

theorem memorySafe.phaseVector (h : memorySafe s) : memorySafe s.phaseVector := (h.later.foldl (fun _ _ hu => hu.planUnit) _).of_eq rfl

theorem memorySafe.mdwMatrix {c : Nat} (h : memorySafe s) : memorySafe (s.mdwMatrix c) := by
  unfold State.mdwMatrix
  extract_lets s1 s2 s3
  have hs1 : memorySafe s1 := h.of_eq rfl
  have hs2 : memorySafe s2 := hs1.later
  have hs3 : memorySafe s3 := hs2.foldl (fun _ _ hu => hu.planUnit) _
  exact hs3.slots.later

theorem memorySafe.phaseMatrix (h : memorySafe s) : memorySafe s.phaseMatrix := (h.foldl (fun _ _ hu => hu.mdwMatrix) _).of_eq rfl

theorem memorySafe.phaseEngine (h : memorySafe s) : memorySafe s.phaseEngine := by
  unfold State.phaseEngine
  extract_lets s' u
  have hs' : memorySafe s' := h.foldl (fun _ _ hu => hu.portReads) _
  have hu : memorySafe u := hs'.later.slots
  exact hu.of_eq rfl

theorem memorySafe.phaseEnd (h : memorySafe s) : memorySafe s.phaseEnd := by
  unfold State.phaseEnd
  extract_lets u
  have hu : memorySafe u := h.later
  exact hu.of_eq rfl

theorem memorySafe.tick (h : memorySafe s) : memorySafe s.tick := by
  unfold State.tick
  split
  · exact h.phaseClock
  · exact h.phaseArrive
  · exact h.phaseFreeze
  · exact h.phaseResult
  · exact h.phaseScalar
  · exact h.phaseVector
  · exact h.phaseMatrix
  · exact h.phaseEngine
  · exact h.phaseEnd

theorem resSafe.step (h : memorySafe s) : resSafe (step s) := by
  unfold Machine.step
  split
  · exact .next h.tick
  · exact .runAct (.of_eq h rfl)

/-- Settles O55: every part of a cycle, every event and every word keeps the canonical form, and what writes DRAM goes through
`Memory.writeN` or drops cells. -/
theorem stepKeepsMemoryCanonical : Obligations.StepKeepsMemoryCanonical := by
  unfold Obligations.StepKeepsMemoryCanonical
  exact fun s t h ht => resSafe.step h t ht

end Sys2Proof
end

section
/-! SUPPORT. Changes to come and the scratchpad (O10, O11, O41): a change alone, the bytes that a write leaves, and a range that no declared
buffer covers. -/
namespace Sys2Proof.Machine

/-! ## One change to come (R176) -/

theorem Meadow.addLate_late {m : Meadow} (hl : m.late = []) (g rank : Nat) (op : LateOp) (own : Nat) :
    (m.addLate g rank op own).late = [⟨g, rank, op, own⟩] := by
  change lateInsert m.late _ = _
  rw [hl]
  rfl

/-- A change put alone into the changes to come is made after its cycle, when it passes its write ports. -/
theorem Meadow.applyLate_of_take {m : Meadow} {l : Late} {us : PortUse} (hl : m.late = [l]) (ht : PortUse.take [] l = some us) :
    m.applyLate (l.at_ + 1) = ({ m with late := [] } : Meadow).apply l.at_ l.op := by
  have hlt : l.at_ < l.at_ + 1 := Nat.lt_succ_self _
  have hge : ¬ l.at_ + 1 ≤ l.at_ := Nat.not_succ_le_self _
  simp only [Meadow.applyLate, hl, List.filter_cons, List.filter_nil, hlt, hge, decide_true, decide_false, if_true, Bool.false_eq_true, if_false,
    portSplit, ht, List.foldl_cons, List.foldl_nil, List.foldr_nil]

/-- A change of a later cycle waits. -/
theorem Meadow.applyLate_of_later {m : Meadow} {l : Late} {g : Nat} (hl : m.late = [l]) (hg : g ≤ l.at_) : m.applyLate g = m := by
  have hlt : ¬ l.at_ < g := Nat.not_lt.2 hg
  simp only [Meadow.applyLate, hl, List.filter_cons, List.filter_nil, hlt, hg, decide_true, decide_false, if_true, Bool.false_eq_true, if_false,
    portSplit, List.foldl_nil, List.foldr_nil]
  rw [← hl]

/-- A write of at most 512 bytes passes free ports. -/
theorem PortUse.take_spad (g rank own : Nat) (a : Nat) {len : Nat} (d : Row) (mask : Pred) (hlen : len ≤ 512) :
    ∃ us, PortUse.take [] ⟨g, rank, .spad a len d mask, own⟩ = some us := by
  simp only [PortUse.take, LateOp.ports]
  by_cases hn : min len (2 ^ 16 - a % 2 ^ 16) < len
  · have hsum : min len (2 ^ 16 - a % 2 ^ 16) + (len - min len (2 ^ 16 - a % 2 ^ 16)) ≤ 512 := by omega
    simp only [hn, if_true, List.foldl_cons, List.foldl_nil, Option.bind_some, List.find?_nil, List.find?_cons]
    cases bankOf a == bankOf (a + min len (2 ^ 16 - a % 2 ^ 16)) with
    | false => exact ⟨_, rfl⟩
    | true => exact ⟨_, if_pos ⟨rfl, hsum⟩⟩
  · simp only [hn, if_false, List.foldl_cons, List.foldl_nil, Option.bind_some, List.find?_nil]
    exact ⟨_, rfl⟩

/-! ## Bytes of the scratchpad -/

theorem toNat_ofNat_byte {w v k : Nat} (h : k + 8 ≤ w) : (BitVec.ofNat w v).toNat / 2 ^ k % 2 ^ 8 = v / 2 ^ k % 2 ^ 8 := by
  refine Nat.eq_of_testBit_eq fun j => ?_
  rw [BitVec.toNat_ofNat, Nat.testBit_mod_two_pow, Nat.testBit_mod_two_pow, Nat.testBit_div_two_pow, Nat.testBit_div_two_pow,
    Nat.testBit_mod_two_pow]
  by_cases hj : j < 8
  · have hlt : j + k < w := by omega
    simp [hlt]
  · simp [hj]

theorem read_spadWrite_out (m : List Host.Cell) (a n v mask b : Nat) (ha : a + n ≤ 2 ^ 20) (hb : b < a ∨ a + n ≤ b) :
    Memory.read (spadWrite m a n v mask) b = Memory.read m b := by
  induction n generalizing m a v mask with
  | zero => rfl
  | succ n ih =>
    rw [spadWrite, ih _ _ _ _ (by omega) (by omega)]
    split
    · exact Memory.read_write_ne m _ (by rw [Nat.mod_eq_of_lt (by omega)]; omega)
    · rfl

theorem read_spadWrite_in (m : List Host.Cell) (a n v mask i : Nat) (ha : a + n ≤ 2 ^ 20) (hi : i < n) (hm : mask.testBit i = true) :
    Memory.read (spadWrite m a n v mask) (a + i) = BitVec.ofNat 8 (v / 2 ^ (8 * i)) := by
  induction n generalizing m a v mask i with
  | zero => omega
  | succ n ih =>
    rw [spadWrite]
    cases i with
    | zero =>
      have h1 : mask % 2 = 1 := by simpa [Nat.testBit_zero] using hm
      rw [read_spadWrite_out _ _ _ _ _ _ (by omega) (by omega), if_pos h1, Nat.mod_eq_of_lt (by omega), Nat.add_zero, Memory.read_write_self]
      simp
    | succ i =>
      rw [show a + (i + 1) = a + 1 + i by omega, ih _ _ _ _ _ (by omega) (by omega) (by rwa [Nat.testBit_succ] at hm), Nat.div_div_eq_div_mul,
        show 256 = 2 ^ 8 by rfl, ← Nat.pow_add, show 8 + 8 * i = 8 * (i + 1) by omega]

theorem spadRead_byte (m : List Host.Cell) (a n i : Nat) (ha : a + n ≤ 2 ^ 20) (hi : i < n) :
    spadRead m a n / 2 ^ (8 * i) % 256 = (Memory.read m (a + i)).toNat := by
  induction n generalizing a i with
  | zero => omega
  | succ n ih =>
    have hb : (Memory.read m a).toNat < 256 := BitVec.isLt _
    have hmod : a % 2 ^ 20 = a := Nat.mod_eq_of_lt (by omega)
    rw [spadRead, hmod]
    cases i with
    | zero =>
      change _ = (Memory.read m a).toNat
      rw [Nat.mul_zero, Nat.pow_zero, Nat.div_one]
      omega
    | succ i =>
      rw [show 8 * (i + 1) = 8 + 8 * i by omega, Nat.pow_add, ← Nat.div_div_eq_div_mul, show a + (i + 1) = a + 1 + i by omega,
        ← ih (a + 1) i (by omega) (by omega)]
      congr 2
      omega

/-! ## Ranges outside declared buffers (R183) -/

theorem Meadow.bufsOf_of_no_bufs {m : Meadow} (h : m.bufs = []) (a len : Nat) : m.bufsOf a len = [] := by
  simp [Meadow.bufsOf, Meadow.bufAt, h]

theorem Meadow.bufFault_of_bufsOf {m : Meadow} {a len : Nat} (h : m.bufsOf a len = []) (u : BufUse) : m.bufFault u a len = none := by
  simp [Meadow.bufFault, h]

theorem Meadow.bufWait_of_bufsOf {m : Meadow} {a len : Nat} (h : m.bufsOf a len = []) (u : BufUse) : m.bufWait u a len = false := by
  simp [Meadow.bufWait, h]

theorem Meadow.bufWritten_of_bufsOf {m : Meadow} {a len : Nat} (h : m.bufsOf a len = []) (g : Nat) : m.bufWritten g a len = m := by
  simp [Meadow.bufWritten, h]

theorem Meadow.spadStore_of_bufsOf {m : Meadow} {a len : Nat} (h : m.bufsOf a len = []) (g rank : Nat) (d : Row) (mask : Pred) (own : Nat) :
    m.spadStore g rank a len d mask own = m.addLate g rank (.spad a len d mask) own :=
  Meadow.bufWritten_of_bufsOf (m := m.addLate g rank (.spad a len d mask) own) h g

theorem Meadow.spadStoreNext_of_bufsOf {m : Meadow} {a len : Nat} (h : m.bufsOf a len = []) (g rank : Nat) (d : Row) (mask : Pred) (own : Nat) :
    m.spadStoreNext g rank a len d mask own = m.addLate (g + 1) rank (.spad a len d mask) own :=
  Meadow.bufWritten_of_bufsOf (m := m.addLate (g + 1) rank (.spad a len d mask) own) h g

/-! ## A write alone -/

section
variable {m : Meadow} {g rank own a len : Nat} {d : Row} {mask : Pred}

theorem Meadow.applyLate_spad (hl : m.late = [⟨g, rank, .spad a len d mask, own⟩]) (hlen : len ≤ 512) :
    (m.applyLate (g + 1)).spad = spadWrite m.spad a len d.toNat mask.toNat := by
  obtain ⟨us, ht⟩ := PortUse.take_spad g rank own a d mask hlen
  rw [Meadow.applyLate_of_take hl ht]
  rfl

end

end Sys2Proof.Machine
end

section
/-! SUPPORT. LDS and STS (O10): each word as the change it makes, and the read port that a load waits for. -/
namespace Sys2Proof.Machine

/-- An aligned word that no declared buffer covers meets no buffer. -/
theorem Meadow.bufsOf_word {m : Meadow} {a : Nat} (ha : a < 2 ^ 20) (h4 : a % 4 = 0)
    (h : ∀ b ∈ m.bufs, a / 4096 < b.2.first ∨ b.2.first + b.2.count ≤ a / 4096) : m.bufsOf a 4 = [] := by
  have hat : m.bufAt a = none := by
    rw [Meadow.bufAt, List.find?_eq_none]
    intro b hb
    have := h b hb
    simp only [Bool.and_eq_true, decide_eq_true_eq]
    omega
  have hone : (a % 4096 + 4 + 4095) / 4096 = 1 := by omega
  have hmod : a % 1048576 = a := Nat.mod_eq_of_lt ha
  simp [Meadow.bufsOf, hone, hmod, hat]

theorem Meadow.spadCheck_word {m : Meadow} {a : Nat} (h4 : a % 4 = 0) (hb : m.bufsOf a 4 = []) (u : BufUse) : m.spadCheck u a 4 4 = none := by
  rw [Meadow.spadCheck, if_neg (by simp [h4]), Meadow.bufFault_of_bufsOf hb]
  rfl

theorem Meadow.spadBadMask_of_no_bad {m : Meadow} (h : m.badWords = []) (a len : Nat) : m.spadBadMask a len = 0 := by
  rw [Meadow.spadBadMask, if_pos h]

theorem State.spadScrub_of_clean {s : State} {c : Nat} (he : (s.mdw c).ecc = []) (hb : (s.mdw c).badWords = []) (x a len : Nat) :
    s.spadScrub c x a len = s := by
  rw [State.spadScrub, if_pos ⟨he, hb⟩]

/-! ## LDS -/

section
variable {s : State} {c x : Nat} {ic : BitVec 2} {rd ra : BitVec 6} {imm : BitVec 12}

/-- The landing entry that LDS takes. -/
def ldsEntry (s : State) (c x : Nat) (ic : BitVec 2) (rd : BitVec 6) (imm : BitVec 12) (a : Nat) : LandEntry :=
  { id := s.seq, stream := .s, pc := (s.ctx c x).sc.pc, lam := (s.mdw c).mtc + imm.toNat, arriveAt := notYet, dest := .scalar rd.toNat false false
    bytes := 4, parts := [], spad := some a, at_ := s.gtc, port := true, ord := ((s.ctx c x).sc.advance ic (s.mdw c).mtc).nextAt }

/-- LDS issues and takes a landing entry. -/
def ldsSent (s : State) (c x : Nat) (ic : BitVec 2) (rd : BitVec 6) (imm : BitVec 12) (a : Nat) : State :=
  (s.nextSeq.2.modCtx c x fun k => { k with sc := (s.ctx c x).sc.advance ic (s.mdw c).mtc }).modCtx c x fun k =>
    { k with landing := k.landing ++ [ldsEntry s c x ic rd imm a] }

theorem exec_lds {a : Nat} (hcur : s.cur = .stream c x .s) (hh : s.held [rd.toNat, ra.toNat] = false)
    (ha : ((s.ctx c x).sc.get ra.toNat).toNat % 2 ^ 20 = a) (h4 : a % 4 = 0) (hb : (s.mdw c).bufsOf a 4 = [])
    (hl : (s.ctx c x).landing.length < 64) : exec (.lds ic rd ra imm) s = .next (ldsSent s c x ic rd imm a) := by
  have hfree : ¬ (s.ctx c x).landFree < 1 := by
    rw [Ctx.landFree]
    omega
  change execLds ic rd ra imm s = _
  simp only [execLds, State.curM_stream hcur, State.curX_stream hcur, ha, hh, Meadow.spadCheck_word h4 hb, hfree, State.setCore_stream hcur,
    State.clock_stream hcur, Bool.false_eq_true, if_false]
  rfl

theorem ldsSent_onlyCtx (a : Nat) : OnlyCtx s (ldsSent s c x ic rd imm a) c x :=
  onlyCtx_trans (onlyCtx_of_eq (t := s.nextSeq.2) c x rfl rfl rfl) (onlyCtx_trans (onlyCtx_modCtx ..) (onlyCtx_modCtx ..))

theorem ldsSent_ctx (a : Nat) : (ldsSent s c x ic rd imm a).ctx c x =
    { s.ctx c x with sc := (s.ctx c x).sc.advance ic (s.mdw c).mtc, landing := (s.ctx c x).landing ++ [ldsEntry s c x ic rd imm a] } := by
  rw [ldsSent, State.modCtx_ctx, State.modCtx_ctx]
  rfl

theorem ldsSent_landing (a : Nat) : ((ldsSent s c x ic rd imm a).ctx c x).landing = (s.ctx c x).landing ++ [ldsEntry s c x ic rd imm a] :=
  congrArg Ctx.landing (ldsSent_ctx a)

theorem ldsSent_core (hcur : s.cur = .stream c x .s) (a : Nat) :
    (ldsSent s c x ic rd imm a).core = (s.ctx c x).sc.advance ic (s.mdw c).mtc :=
  (State.core_stream (s := ldsSent s c x ic rd imm a) hcur).trans (congrArg Ctx.sc (ldsSent_ctx a))

end

/-! ## The read port (R176) -/

theorem mergeRow_all (old new : Row) : mergeRow old new (BitVec.allOnes 512) = new := if_pos rfl

theorem flatMap_ctxs_single {α : Type} {x : Nat} (hx : x < 4) (f : Nat → List α) (h : ∀ y, y < 4 → y ≠ x → f y = []) :
    [0, 1, 2, 3].flatMap f = f x := by
  interval_cases x <;> simp [h]

/-- The one load that waits for a read port is given its bytes in this cycle. -/
theorem portReads_single {t : State} {c x a : Nat} {e : LandEntry} {rest : List LandEntry} (hx : x < 4) (hecc : (t.mdw c).ecc = [])
    (hbad : (t.mdw c).badWords = []) (hl : (t.ctx c x).landing = rest ++ [e]) (hrest : ∀ l ∈ rest, l.port = false)
    (hother : ∀ y, y < 4 → y ≠ x → ∀ l ∈ (t.ctx c y).landing, l.port = false) (hs : e.stream = .s) (hp : e.port = true) (ha : e.spad = some a)
    (hm : e.mask = none) :
    { e with port := false, arriveAt := t.gtc + 3, data := BitVec.ofNat 4096 (spadRead (t.mdw c).spad a e.bytes), bad := 0 } ∈
      ((t.portReads c).ctx c x).landing := by
  have hnone (st : StreamId) (l : List LandEntry) (h : ∀ e ∈ l, e.port = false) : l.filter (fun e => e.port && e.stream == st) = [] := by
    rw [List.filter_eq_nil_iff]
    intro e he
    simp [h e he]
  have hwait (st : StreamId) :
      ([0, 1, 2, 3].flatMap fun y => (((t.mdw c).ctx y).landing.filter fun e => e.port && e.stream == st).map fun e => (y, e)) =
      if e.stream == st then [(x, e)] else [] := by
    have hother' (y : Nat) (hy : y < 4) (hne : y ≠ x) :
        ((((t.mdw c).ctx y).landing.filter fun e => e.port && e.stream == st).map fun e => (y, e)) = [] := by
      have h : ((t.mdw c).ctx y).landing.filter (fun e => e.port && e.stream == st) = [] := hnone st _ (hother y hy hne)
      rw [h, List.map_nil]
    rw [flatMap_ctxs_single hx _ hother']
    change ((t.ctx c x).landing.filter _).map _ = _
    rw [hl, List.filter_append, hnone st _ hrest, List.nil_append]
    cases hst : e.stream == st <;> simp [hp, hst]
  have hs1 : (e.stream == StreamId.s) = true := by rw [hs]; rfl
  have hv1 : (e.stream == StreamId.v) = false := by rw [hs]; rfl
  have hecc' (ps : Tab Nat) : ((t.modMdw c fun m => { m with ports := ps, seBytes := 0 }).mdw c).ecc = [] := by rw [State.modMdw_mdw]; exact hecc
  have hbad' (ps : Tab Nat) : ((t.modMdw c fun m => { m with ports := ps, seBytes := 0 }).mdw c).badWords = [] := by rw [State.modMdw_mdw]; exact hbad
  unfold State.portReads
  simp only [hwait, hs1, hv1, if_true, Bool.false_eq_true, if_false, List.append_nil, List.foldl_cons, List.foldl_nil, List.any_nil, List.filter_nil,
    List.map_cons, List.map_nil, ha, Option.getD_some, State.spadScrub_of_clean (hecc' _) (hbad' _), State.modCtx_ctx, Ctx.modLanding]
  refine List.mem_map.2 ⟨e, ?_, ?_⟩
  · have hctx (ps : Tab Nat) : (t.modMdw c fun m => { m with ports := ps, seBytes := 0 }).ctx c x = t.ctx c x := by
      rw [State.ctx, State.modMdw_mdw]
      rfl
    rw [hctx, hl]
    exact List.mem_append_right _ (List.mem_singleton_self e)
  · have hspad (ps : Tab Nat) : ((t.modMdw c fun m => { m with ports := ps, seBytes := 0 }).mdw c).spad = (t.mdw c).spad := by
      rw [State.modMdw_mdw]
    rw [if_pos rfl, Meadow.spadBadMask_of_no_bad (hbad' _), hspad, hm, Option.getD_none, mergeRow_all, State.modMdw_gtc,
      BitVec.ofNat_eq_ofNat, ha]

/-! ## STS -/

section
variable {s : State} {c x a : Nat} {ic : BitVec 2} {rd ra : BitVec 6}

/-- STS issues; its bytes are written in the next cycle. -/
def stsSent (s : State) (c x : Nat) (ic : BitVec 2) (a : Nat) (v : W32) : State :=
  (s.modCtx c x fun k => { k with sc := (s.ctx c x).sc.advance ic (s.mdw c).mtc }).modMdw c fun m =>
    m.addLate (s.gtc + 1) 0 (.spad a 4 (v.setWidth 4096) 15#512) x

theorem exec_sts (hcur : s.cur = .stream c x .s) (hh : s.held [rd.toNat, ra.toNat] = false)
    (ha : ((s.ctx c x).sc.get ra.toNat).toNat % 2 ^ 20 = a) (h4 : a % 4 = 0) (hb : (s.mdw c).bufsOf a 4 = []) :
    exec (.sts ic rd ra) s = .next (stsSent s c x ic a ((s.ctx c x).sc.get rd.toNat)) := by
  have hlater : ((s.modCtx c x fun k => { k with sc := (s.ctx c x).sc.advance ic (s.mdw c).mtc }).modMdw c fun m =>
      m.spadStoreNext s.gtc 0 a 4 (((s.ctx c x).sc.get rd.toNat).setWidth 4096) 15#512 x) = stsSent s c x ic a ((s.ctx c x).sc.get rd.toNat) := by
    have hb' (f : Ctx → Ctx) : ((s.mdw c).modCtx x f).bufsOf a 4 = [] := hb
    rw [stsSent, State.modMdw, State.modMdw, State.modCtx_mdw, Meadow.spadStoreNext_of_bufsOf (hb' _)]
  change execSts ic rd ra s = _
  simp only [execSts, State.core_stream hcur, State.curM_stream hcur, State.curX_stream hcur, ha, hh, Meadow.spadCheck_word h4 hb,
    State.setCore_stream hcur, State.clock_stream hcur, Bool.false_eq_true, if_false, hlater]

theorem stsSent_onlyMdw (v : W32) : OnlyMdw s (stsSent s c x ic a v) c :=
  onlyMdw_trans (onlyMdw_of_ctx (onlyCtx_modCtx ..)) (onlyMdw_modMdw ..)

theorem stsSent_core (hcur : s.cur = .stream c x .s) (v : W32) : (stsSent s c x ic a v).core = (s.ctx c x).sc.advance ic (s.mdw c).mtc := by
  rw [State.core_stream (s := stsSent s c x ic a v) hcur, stsSent, State.ctx, State.modMdw_mdw]
  change ((State.modCtx ..).ctx c x).sc = _
  rw [State.modCtx_ctx]

/-- The change that STS leaves, where none was to come. -/
theorem stsSent_late (hl : (s.mdw c).late = []) (v : W32) :
    ((stsSent s c x ic a v).mdw c).late = [⟨s.gtc + 1, 0, .spad a 4 (v.setWidth 4096) 15#512, x⟩] := by
  rw [stsSent, State.modMdw_mdw, State.modCtx_mdw]
  exact Meadow.addLate_late hl ..

theorem stsSent_spad (v : W32) : ((stsSent s c x ic a v).mdw c).spad = (s.mdw c).spad := by
  rw [stsSent, State.modMdw_mdw, State.modCtx_mdw]
  rfl

/-- In the cycle after STS the scratchpad is as it was. -/
theorem stsSent_next (hl : (s.mdw c).late = []) (v : W32) : (((stsSent s c x ic a v).mdw c).applyLate (s.gtc + 1)).spad = (s.mdw c).spad := by
  rw [Meadow.applyLate_of_later (stsSent_late hl v) (Nat.le_refl _), stsSent_spad]

/-- In the second cycle after STS the four bytes are written. -/
theorem stsSent_after (hl : (s.mdw c).late = []) (v : W32) :
    (((stsSent s c x ic a v).mdw c).applyLate (s.gtc + 2)).spad = spadWrite (s.mdw c).spad a 4 (v.setWidth 4096).toNat (15#512).toNat := by
  rw [← stsSent_spad (s := s) (c := c) (x := x) (ic := ic) (a := a) v]
  exact Meadow.applyLate_spad (stsSent_late hl v) (by decide)

end

end Sys2Proof.Machine
end

section
namespace Sys2Proof

open Sys2Proof.Machine

/-- Settles O10: LDS leaves a landing entry that its bank's read port serves with the bytes of the cycle; STS leaves one change to come, of a
later cycle. -/
theorem scratchpadWords : Obligations.ScratchpadWords := by
  unfold Obligations.ScratchpadWords
  intro s c x ic rd ra imm hcur hh m k a hecc hbad hlate h4 hbufs
  have ha : a < 2 ^ 20 := Nat.mod_lt _ (by decide)
  have hb : m.bufsOf a 4 = [] := Meadow.bufsOf_word ha h4 hbufs
  have hcore := State.core_stream hcur
  have hclock := State.clock_stream hcur
  refine ⟨fun hl => ?lds, ?sts⟩
  case lds =>
    have hsc := ldsSent_core (ic := ic) (rd := rd) (imm := imm) hcur a
    have hland := ldsSent_landing (s := s) (c := c) (x := x) (ic := ic) (rd := rd) (imm := imm) a
    have honly := ldsSent_onlyCtx (s := s) (c := c) (x := x) (ic := ic) (rd := rd) (imm := imm) a
    refine ⟨_, ldsEntry s c x ic rd imm a, exec_lds (a := a) hcur hh rfl h4 hb hl, advanced_core hsc (by rw [hcore]; rfl) (by rw [hclock]; rfl),
      regsSame_core (by rw [hsc, hcore]; rfl) (by rw [hsc, hcore]; rfl), honly, hland, rfl, rfl, rfl, rfl, rfl, fun hx hports => ?_⟩
    have hother (y : Nat) (hy : y < 4) (hne : y ≠ x) : ∀ l ∈ ((ldsSent s c x ic rd imm a).ctx c y).landing, l.port = false := by
      rw [honly.ctxs y hne]
      exact fun l hlm => (hports y hy l hlm).1
    have hshared {α : Type} (f : Meadow → α) (hf : ∀ n : Meadow, f n = f { n with ctxs := [] }) : f ((ldsSent s c x ic rd imm a).mdw c) = f m := by
      rw [hf, honly.shared, ← hf]
    refine ⟨_, portReads_single hx ((hshared (·.ecc) fun _ => rfl).trans hecc) ((hshared (·.badWords) fun _ => rfl).trans hbad) hland
      (fun l hlm => (hports x hx l hlm).1) hother rfl rfl rfl rfl, rfl, rfl, rfl, rfl, fun i hi => ?_⟩
    have hspad : ((ldsSent s c x ic rd imm a).mdw c).spad = m.spad := hshared (·.spad) fun _ => rfl
    refine BitVec.eq_of_toNat_eq ?_
    rw [hspad, ← spadRead_byte m.spad a 4 i (by omega) hi, BitVec.extractLsb'_toNat, Nat.shiftRight_eq_div_pow]
    exact toNat_ofNat_byte (by omega)
  case sts =>
    have hsc := stsSent_core (ic := ic) (a := a) hcur (k.sc.get rd.toNat)
    refine ⟨stsSent s c x ic a (k.sc.get rd.toNat), exec_sts hcur hh rfl h4 hb, advanced_core hsc (by rw [hcore]; rfl) (by rw [hclock]; rfl),
      regsSame_core (by rw [hsc, hcore]; rfl) (by rw [hsc, hcore]; rfl), stsSent_onlyMdw _, fun b => ?_, fun i hi => ?_, fun b hout => ?_⟩
    · rw [stsSent_next hlate]
    · have hon : (15#512).toNat.testBit i = true := by
        rw [BitVec.testBit_toNat, BitVec.getLsbD_ofNat]
        interval_cases i <;> rfl
      rw [stsSent_after hlate, read_spadWrite_in _ _ _ _ _ _ (by omega) hi hon]
      refine BitVec.eq_of_toNat_eq ?_
      rw [BitVec.toNat_ofNat, BitVec.extractLsb'_toNat, Nat.shiftRight_eq_div_pow, BitVec.toNat_setWidth_of_le (by decide)]
    · rw [stsSent_after hlate]
      exact read_spadWrite_out _ _ _ _ _ _ (by omega) hout

end Sys2Proof
end

section
/-! SUPPORT. The tag table and the buffers' words (O11): each word as the change it leaves to come, and what the change does to its slot. -/
namespace Sys2Proof.Machine

/-! ## A word that leaves one change to come -/

section
variable {s : State} {c x : Nat} {ic : BitVec 2}

/-- The meadow when the S-stream of a context has issued its word. -/
def Meadow.issuedS (m : Meadow) (x : Nat) (ic : BitVec 2) : Meadow := m.modCtx x fun k => { k with sc := (m.ctx x).sc.advance ic m.mtc }


/-- An S-word issues and leaves a change that is made after its cycle. -/
def lateSent (s : State) (c x : Nat) (ic : BitVec 2) (rank : Nat) (op : LateOp) : State :=
  (s.modCtx c x fun k => { k with sc := (s.ctx c x).sc.advance ic (s.mdw c).mtc }).modMdw c fun m => m.addLate s.gtc rank op

theorem lateSent_eq (hcur : s.cur = .stream c x .s) (rank : Nat) (op : LateOp) :
    ((s.setCore (s.core.advance ic s.clock)).modMdw s.curM fun m => m.addLate s.gtc rank op) = lateSent s c x ic rank op := by
  rw [State.setCore_stream hcur, State.core_stream hcur, State.clock_stream hcur, State.curM_stream hcur, lateSent]

theorem lateSent_mdw (rank : Nat) (op : LateOp) : (lateSent s c x ic rank op).mdw c =
    ((s.mdw c).issuedS x ic).addLate s.gtc rank op := by
  rw [lateSent, State.modMdw_mdw, State.modCtx_mdw]
  rfl

theorem lateSent_core (hcur : s.cur = .stream c x .s) (rank : Nat) (op : LateOp) :
    (lateSent s c x ic rank op).core = (s.ctx c x).sc.advance ic (s.mdw c).mtc := by
  rw [State.core_stream (s := lateSent s c x ic rank op) hcur, State.ctx, lateSent_mdw]
  change (((s.mdw c).issuedS x ic).ctx x).sc = _
  rw [Meadow.issuedS, Meadow.modCtx_ctx]
  rfl

theorem lateSent_issues (hcur : s.cur = .stream c x .s) (rank : Nat) (op : LateOp) :
    Advanced s (lateSent s c x ic rank op) ic ∧ regsSame s (lateSent s c x ic rank op) ∧ OnlyMdw s (lateSent s c x ic rank op) c := by
  have hcore := lateSent_core (ic := ic) hcur rank op
  have hcore0 := State.core_stream hcur
  exact ⟨advanced_core hcore (by rw [hcore0]; rfl) (by rw [State.clock_stream hcur]; rfl),
    regsSame_core (by rw [hcore, hcore0]; rfl) (by rw [hcore, hcore0]; rfl),
    onlyMdw_trans (onlyMdw_of_ctx (onlyCtx_modCtx ..)) (onlyMdw_modMdw ..)⟩

/-- The change is made after the cycle, on a meadow that had none to come. -/
theorem lateSent_applyLate (hl : (s.mdw c).late = []) {op : LateOp} (hp : op.ports = []) (rank : Nat) :
    ((lateSent s c x ic rank op).mdw c).applyLate (s.gtc + 1) = ((s.mdw c).issuedS x ic).apply s.gtc op := by
  have hlate : ((s.mdw c).issuedS x ic).late = [] := hl
  rw [lateSent_mdw, Meadow.applyLate_single (Meadow.addLate_late hlate ..) hp]
  congr 1
  rw [← hlate]
  rfl

end

/-! ## Each word -/

section
variable {s : State} {c x : Nat} {ic : BitVec 2} {rd r : BitVec 6} {p : BitVec 5}

theorem tlook_gives (hcur : s.cur = .stream c x .s) (hh : s.held (rd.toNat :: pairRegs p) = false) :
    givesReg s (.tlook ic rd p) ic 2 rd.toNat (tagLook (s.mdw c).tags ((s.ctx c x).sc.getD p.toNat)) := by
  have hex : exec (.tlook ic rd p) s = .next (s.setCore ((s.core.advance ic s.clock).push rd.toNat (s.clock + 2)
      (tagLook (s.mdw c).tags ((s.ctx c x).sc.getD p.toNat)))) := by
    change execTlook ic rd p s = _
    rw [execTlook, sIssue_eq hh, State.curM_stream hcur, State.core_stream hcur]
  exact ⟨_, hex, push_gives ic 2 rd.toNat _ (by simp [hcur])⟩

theorem exec_tset (hcur : s.cur = .stream c x .s) (hh : s.held (r.toNat :: pairRegs p) = false)
    (hs : ((s.ctx c x).sc.get r.toNat).toNat < 256) : exec (.tset ic p r) s =
      .next (lateSent s c x ic 5 (.tag ((s.ctx c x).sc.get r.toNat).toNat ((s.ctx c x).sc.getD p.toNat &&& tagMask))) := by
  have hslot : ¬ 256 ≤ ((s.ctx c x).sc.get r.toNat).toNat := Nat.not_le.2 hs
  rw [← lateSent_eq hcur]
  change execTset ic p r s = _
  simp only [execTset, hh, State.core_stream hcur, hslot, Bool.false_eq_true, if_false]

theorem exec_tinv (hcur : s.cur = .stream c x .s) (hh : s.held [r.toNat] = false) (hs : ((s.ctx c x).sc.get r.toNat).toNat < 256) :
    exec (.tinv ic r) s = .next (lateSent s c x ic 5 (.tagInv ((s.ctx c x).sc.get r.toNat).toNat)) := by
  have hslot : ¬ 256 ≤ ((s.ctx c x).sc.get r.toNat).toNat := Nat.not_le.2 hs
  rw [← lateSent_eq hcur]
  change execTinv ic r s = _
  simp only [execTinv, hh, State.core_stream hcur, hslot, Bool.false_eq_true, if_false]

theorem exec_bdecl (hcur : s.cur = .stream c x .s) (hh : s.held [r.toNat] = false)
    (hd : (s.mdw c).declBad ((s.ctx c x).sc.get r.toNat) = false) :
    exec (.bdecl ic r) s = .next (lateSent s c x ic 16 (.bdecl ((s.ctx c x).sc.get r.toNat))) := by
  rw [← lateSent_eq hcur]
  change execBdecl ic r s = _
  simp only [execBdecl, hh, State.core_stream hcur, State.curM_stream hcur, hd, Bool.false_eq_true, if_false]

theorem exec_bstateFull {b : Nat} {u : Buf} (hcur : s.cur = .stream c x .s) (hh : s.held [r.toNat] = false)
    (hb : getField ((s.ctx c x).sc.get r.toNat) 0 5 = b) (hu : tget (s.mdw c).bufs b = some u) :
    exec (.bstateFull ic r) s = .next (lateSent s c x ic BufEv.full.rank (.buf b .full)) := by
  rw [← lateSent_eq hcur]
  change execBstateFull ic r s = _
  simp only [execBstateFull, hh, State.core_stream hcur, State.curM_stream hcur, hb, hu, Bool.false_eq_true, if_false]

theorem exec_bstateDrain {b : Nat} {u : Buf} (hcur : s.cur = .stream c x .s) (hh : s.held [r.toNat] = false)
    (hb : getField ((s.ctx c x).sc.get r.toNat) 0 5 = b) (hu : tget (s.mdw c).bufs b = some u) (ho : u.once = false) (hs : u.state = .full) :
    exec (.bstateDrain ic r) s = .next (lateSent s c x ic BufEv.drain.rank (.buf b .drain)) := by
  have hok : ¬ (u.once = true ∨ u.state ≠ .full) := by simp [ho, hs]
  rw [← lateSent_eq hcur]
  change execBstateDrain ic r s = _
  simp only [execBstateDrain, hh, State.core_stream hcur, State.curM_stream hcur, hb, hu, hok, Bool.false_eq_true, if_false]

theorem bquery_gives {b : Nat} {u : Buf} (hcur : s.cur = .stream c x .s) (hh : s.held [rd.toNat, r.toNat] = false)
    (hb : getField ((s.ctx c x).sc.get r.toNat) 0 5 = b) (hu : tget (s.mdw c).bufs b = some u) :
    givesReg s (.bquery ic rd r) ic 1 rd.toNat
      (BitVec.ofNat 32 (u.state.code + u.nread % 256 * 2 ^ 8 + (if u.once then 2 ^ 16 else 0) + 2 ^ 31)) := by
  refine ⟨_, ?_, push_gives ic 1 rd.toNat _ (by simp [hcur])⟩
  change execBquery ic rd r s = _
  simp only [execBquery, hh, State.core_stream hcur, State.curM_stream hcur, hb, hu, Bool.false_eq_true, if_false]
  rfl

end

/-! ## What the changes do -/

theorem getLsbD_tagInv (v : W64) (i : Nat) (hi : i < 64) : (v &&& 0x3FFFFFFFFFFFFFFF#64).getLsbD i = (decide (i < 62) && v.getLsbD i) := by
  have hm : (0x3FFFFFFFFFFFFFFF#64).getLsbD i = decide (i < 62) := by
    rw [BitVec.getLsbD_ofNat, show 0x3FFFFFFFFFFFFFFF = 2 ^ 62 - 1 by rfl, Nat.testBit_two_pow_sub_one]
    simp only [hi, decide_true, Bool.true_and]
  rw [BitVec.getLsbD_and, hm, Bool.and_comm]

theorem Meadow.bufEvent_bufs {m : Meadow} {b : Nat} {u : Buf} (hu : tget m.bufs b = some u) (g : Nat) (ev : BufEv) :
    tget (m.bufEvent b g ev).bufs b = some (u.event g ev) := by
  rw [Meadow.bufEvent, hu]
  exact tget_tput_self ..

/-- The buffer that a declaration word declares (R202). -/
def declared (w : W32) : Buf :=
  { first := getField w 0 8, count := getField w 8 8 + 1, readers := getField w 16 8, once := getField w 16 8 != 0, state := .empty }

theorem Meadow.declare_bufs {m : Meadow} {w : W32} (h : w.getLsbD 31 = false) :
    tget (m.declare w).bufs (getField w 24 5) = some (declared w) := by
  rw [Meadow.declare, h]
  exact tget_tput_self ..

theorem Meadow.declare_removes {m : Meadow} {w : W32} (h : w.getLsbD 31 = true) : tget (m.declare w).bufs (getField w 24 5) = none := by
  rw [Meadow.declare, h]
  exact tget_tdel_self ..

theorem Buf.event_full {u : Buf} (h : u.state = .filling ∨ u.state = .empty) (g : Nat) : u.event g .full = { u with state := .full, nread := 0 } :=
  if_pos h

theorem Buf.event_drain {u : Buf} (hs : u.state = .full) (hr : u.readers = 0) (g : Nat) :
    u.event g .drain = { u with state := .draining, enterDrain := g } := if_pos ⟨hs, hr⟩

end Sys2Proof.Machine
end

section
namespace Sys2Proof

open Sys2Proof.Machine

/-- Settles O11: TLOOK and BQUERY give a register; the other words each leave one change to come, which after the cycle has set its slot or its
buffer and nothing else of the table. -/
theorem tagAndBufferWords : Obligations.TagAndBufferWords := by
  unfold Obligations.TagAndBufferWords
  refine ⟨?tags, ?bufs⟩
  case tags =>
    intro s c x ic rd r p hcur m k va slot
    refine ⟨fun hh => tlook_gives hcur hh, fun hh hs hl => ?tset, fun hh hs hl => ?tinv⟩
    case tset =>
      obtain ⟨hadv, hregs, honly⟩ := lateSent_issues (ic := ic) hcur 5 (.tag slot (va &&& tagMask))
      refine ⟨_, exec_tset hcur hh hs, hadv, hregs, honly, by rw [lateSent_mdw]; rfl, ?_, fun i hi => ?_⟩ <;> rw [lateSent_applyLate hl rfl]
      · exact tgetD_tputD_self ..
      · exact tgetD_tputD_ne _ _ _ _ hi
    case tinv =>
      obtain ⟨hadv, hregs, honly⟩ := lateSent_issues (ic := ic) hcur 5 (.tagInv slot)
      refine ⟨_, exec_tinv hcur hh hs, hadv, hregs, honly, by rw [lateSent_mdw]; rfl, fun i hi => ?_, fun i hi => ?_⟩ <;>
        rw [lateSent_applyLate hl rfl]
      · rw [← getLsbD_tagInv _ i hi]
        exact congrArg (BitVec.getLsbD · i) (tgetD_tputD_self ..)
      · exact tgetD_tputD_ne _ _ _ _ hi
  case bufs =>
    intro s c x ic rd ra hcur hq hh m w b id
    have hb : getField w 0 5 = b := by simp [getField, b]
    refine ⟨fun hd hw hl => ?declare, fun hd hw hl => ?remove,
      fun u hu => ⟨fun hl hs => ?full, fun hl ho hr hs => ?drain, bquery_gives hcur hq hb hu⟩⟩
    case declare =>
      obtain ⟨hadv, hregs, honly⟩ := lateSent_issues (ic := ic) hcur 16 (.bdecl w)
      refine ⟨_, exec_bdecl hcur hh hd, hadv, hregs, honly, by rw [lateSent_mdw]; rfl, ?_⟩
      rw [lateSent_applyLate hl rfl]
      refine ⟨declared w, Meadow.declare_bufs hw, ?_, rfl, rfl, ?_, rfl, rfl⟩
      · simp [declared, getField]
      · simp [declared, getField, bne, beq_eq_decide]
    case remove =>
      obtain ⟨hadv, hregs, honly⟩ := lateSent_issues (ic := ic) hcur 16 (.bdecl w)
      refine ⟨_, exec_bdecl hcur hh hd, hadv, hregs, honly, by rw [lateSent_mdw]; rfl, ?_⟩
      rw [lateSent_applyLate hl rfl]
      exact Meadow.declare_removes hw
    case full =>
      obtain ⟨hadv, hregs, honly⟩ := lateSent_issues (ic := ic) hcur BufEv.full.rank (.buf b .full)
      refine ⟨_, exec_bstateFull hcur hh hb hu, hadv, hregs, honly, by rw [lateSent_mdw]; rfl, ?_⟩
      rw [lateSent_applyLate hl rfl, ← Buf.event_full hs s.gtc]
      exact Meadow.bufEvent_bufs (m := m.issuedS x ic) hu ..
    case drain =>
      obtain ⟨hadv, hregs, honly⟩ := lateSent_issues (ic := ic) hcur BufEv.drain.rank (.buf b .drain)
      refine ⟨_, exec_bstateDrain hcur hh hb hu ho hs, hadv, hregs, honly, by rw [lateSent_mdw]; rfl, ?_⟩
      rw [lateSent_applyLate hl rfl, ← Buf.event_drain hs hr]
      exact Meadow.bufEvent_bufs (m := m.issuedS x ic) hu ..

end Sys2Proof
end

section
/-! SUPPORT. The stream engine's events (O41): each event as the one state that it leaves, under hypotheses on the state. -/
namespace Sys2Proof.Machine

/-! ## Starting (R206, R207) -/

section
variable {s : State} {c x : Nat} {r : SERun} {ops : Nat → Bool}

theorem seStart_completes (c x : Nat) (ops : Nat → Bool) (s : State) : ∃ t, seStart c x ops s = .next t := by
  unfold seStart
  split
  case h_1 => exact ⟨_, rfl⟩
  case h_2 =>
    split
    case isTrue => exact ⟨_, rfl⟩
    case isFalse =>
      dsimp only
      split
      · exact ⟨_, rfl⟩
      · exact ⟨_, rfl⟩

theorem execSeCommandComplete_completes (c x : Nat) (s : State) : ∃ t, execSeCommandComplete c x s = .next t := by
  unfold execSeCommandComplete
  dsimp only
  split
  case h_1 => exact ⟨_, rfl⟩
  case h_2 =>
    split
    case isTrue => exact ⟨_, rfl⟩
    case isFalse =>
      split
      · exact ⟨_, rfl⟩
      · exact ⟨_, rfl⟩

/-- A command that is not taken up owes no result entry. -/
theorem SEState.head_owe {e : SEState} {q : SERun × Reach × Scope} (h : e.head = some q) : q.1.owe = [] := by
  unfold SEState.head at h
  split at h
  case h_1 r _ =>
    split at h
    case isTrue => cases h
    case isFalse hn =>
      obtain rfl := Option.some.inj h
      by_contra howe
      exact hn (by simp [howe])
  case h_2 =>
    split at h
    case h_1 =>
      split at h
      case isTrue => cases h
      case isFalse =>
        obtain rfl := Option.some.inj h
        rfl
    case h_2 => cases h

theorem seStartable_owe (h : s.seStartable c x = some r) : r.owe = [] := by
  unfold State.seStartable at h
  dsimp only at h
  split at h
  case isTrue => cases h
  case isFalse =>
    split at h
    case h_1 => cases h
    case h_2 hd =>
      split at h
      case isTrue =>
        obtain rfl := Option.some.inj h
        exact SEState.head_owe hd
      case isFalse => cases h

/-- The head command leaves the queue. -/
def seTaken (s : State) (c x : Nat) : State :=
  s.freshIx.2.modCtx c x fun k => { k with se := { k.se with queue := if k.se.run.isSome then k.se.queue else k.se.queue.drop 1 } }

theorem seTaken_onlyCtx (s : State) (c x : Nat) : OnlyCtx s (seTaken s c x) c x :=
  onlyCtx_trans (onlyCtx_of_eq (t := s.freshIx.2) c x rfl rfl rfl) (onlyCtx_modCtx ..)

theorem seTaken_results (s : State) (c x : Nat) :
    ((seTaken s c x).ctx c x).se.results = (s.ctx c x).se.results ∧ ((seTaken s c x).ctx c x).se.claims = (s.ctx c x).se.claims := by
  rw [seTaken, State.modCtx_ctx]
  exact ⟨rfl, rfl⟩

/-- The head command as it starts. -/
def SERun.go (r : SERun) (s : State) (c : Nat) : SERun :=
  { r with started := true, req := none, readyAt := s.gtc + 1 + s.seLatency c r + Config.granuleTime s.freshIx.1 }

theorem seStart_good (h : s.seStartable c x = some r) (hop : ops r.op = true) (hb : r.bad = false) :
    seStart c x ops s = .next ((seTaken s c x).modCtx c x fun k => { k with se := { k.se with run := some (r.go s c) } }) := by
  simp only [seStart, h, hop, hb, Bool.not_true, Bool.false_eq_true, if_false]
  rfl

theorem seStart_bad (h : s.seStartable c x = some r) (hop : ops r.op = true) (hb : r.bad = true) :
    seStart c x ops s = .next ((seTaken s c x).seHalt c x { r with started := true } 1) := by
  simp only [seStart, h, hop, hb, Bool.not_true, Bool.false_eq_true, if_false, if_true]
  rfl

/-- A command that owes its one entry and finds room pushes it. -/
theorem Ctx.seSettle_one {k : Ctx} {v : W64} (hr : k.se.run = some r) (howe : r.owe = [(v, false)]) (hroom : k.se.room = true) (hd : r.done = false) :
    k.seSettle = { k with se := { k.se with results := k.se.results ++ [v], run := some { r with owe := [] } } } := by
  simp only [Ctx.seSettle, hr, howe, hroom, hd, Bool.not_true, Bool.false_and, Bool.false_eq_true, if_false]

/-- A command that owed nothing and asks for no notification, as it halts. -/
def SERun.halting (r : SERun) (status : Nat) : SERun :=
  { r with halted := some status, req := none, owe := [(seResult r.tag status r.moved, false)] }

theorem seHalt_eq {status : Nat} (howe : r.owe = []) (hn : (r.w 0).getLsbD 59 = false) : s.seHalt c x r status =
    s.modCtx c x fun k => ({ k with se := { k.se with run := some (r.halting status) } } : Ctx).seSettle := by
  rw [State.seHalt, howe, hn]
  rfl

/-- Such a command pushes its entry at once where there is room. -/
theorem seHalt_ctx {status : Nat} (howe : r.owe = []) (hn : (r.w 0).getLsbD 59 = false) (hd : r.done = false)
    (hroom : (s.ctx c x).se.results.length + (s.ctx c x).se.claims < 16) :
    ((s.seHalt c x r status).ctx c x).se.run = some { r.halting status with owe := [] } ∧
      ((s.seHalt c x r status).ctx c x).se.results = (s.ctx c x).se.results ++ [seResult r.tag status r.moved] := by
  have hsettle : ({ s.ctx c x with se := { (s.ctx c x).se with run := some (r.halting status) } } : Ctx).seSettle =
      { s.ctx c x with se := { (s.ctx c x).se with
        results := (s.ctx c x).se.results ++ [seResult r.tag status r.moved], run := some { r.halting status with owe := [] } } } :=
    Ctx.seSettle_one rfl rfl (decide_eq_true hroom) hd
  rw [seHalt_eq howe hn, State.modCtx_ctx, hsettle]
  exact ⟨rfl, rfl⟩

theorem seStart_starts (h : s.seStartable c x = some r) (hop : ops r.op = true) (hb : r.bad = false) :
    ∃ t u, seStart c x ops s = .next t ∧ OnlyCtx s t c x ∧ (t.ctx c x).se.run = some u ∧ u.started = true ∧ u.halted = r.halted ∧
      u.d = r.d ∧ u.moved = r.moved ∧ s.gtc < u.readyAt ∧ (t.ctx c x).se.results = (s.ctx c x).se.results := by
  refine ⟨_, r.go s c, seStart_good h hop hb, onlyCtx_trans (seTaken_onlyCtx ..) (onlyCtx_modCtx ..), ?_, rfl, rfl, rfl, rfl, ?_, ?_⟩
  · rw [State.modCtx_ctx]
  · change s.gtc < s.gtc + 1 + _ + _
    omega
  · rw [State.modCtx_ctx]
    exact (seTaken_results s c x).1

theorem seStart_halts (h : s.seStartable c x = some r) (hop : ops r.op = true) (hb : r.bad = true)
    (hroom : (s.ctx c x).se.results.length + (s.ctx c x).se.claims < 16) (hn : (r.w 0).getLsbD 59 = false) (hd : r.done = false) :
    ∃ t u, seStart c x ops s = .next t ∧ OnlyCtx s t c x ∧ (t.ctx c x).se.run = some u ∧ u.halted = some 1 ∧
      (t.ctx c x).se.results = (s.ctx c x).se.results ++ [seResult r.tag 1 r.moved] := by
  obtain ⟨hres, hclaims⟩ := seTaken_results s c x
  have howe : r.owe = [] := seStartable_owe h
  obtain ⟨hrun, hresults⟩ := seHalt_ctx (s := seTaken s c x) (c := c) (x := x) (r := { r with started := true }) (status := 1)
    howe hn hd (by rw [hres, hclaims]; exact hroom)
  refine ⟨_, _, seStart_bad h hop hb, onlyCtx_trans (seTaken_onlyCtx ..) (onlyCtx_modCtx ..), hrun, rfl, ?_⟩
  rw [hresults, hres]
  rfl

end

/-! ## Chains (R210) -/

section
variable {s : State} {c x : Nat} {q : SECmd} {rest : List SECmd} {a : W64} {ps : List Part}

/-- The entry that a chain's fetch has read. -/
def SERun.fetched (s : State) (c : Nat) (ps : List Part) : SERun :=
  { d := (List.range 8).map fun i => BitVec.ofNat 64 ((s.readParts ps).1 / 2 ^ (64 * i)), chain := true, req := some s.seq
    readyAt := s.gtc + s.partsLatency (c / 256) ps }

/-- The chain's entry becomes the head command, and its read enters the arbiters. -/
def chainFetched (s : State) (c x : Nat) (rest : List SECmd) (ps : List Part) : State :=
  (s.nextSeq.2.arbEnter s.seq .arrayRead notYet ps).modCtx c x fun k => { k with se := { k.se with queue := rest, run := some (.fetched s c ps) } }

theorem exec_seChainFetch (hrun : (s.ctx c x).se.run = none) (hq : (s.ctx c x).se.queue = q :: rest) (ha : q.chain = some a)
    (hown : (s.ctx c x).se.owedNotify = []) (hrel : s.released c x q.rel q.scope = true) (hmem : s.memClean = true)
    (hacc : s.access (s.mdw c) .seRead [(a.toNat, 64)] = .ok ps) (hok : (s.readParts ps).2.1 = 0)
    (hnear : s.nearby c x { id := s.seq, stream := .s, load := true, parts := partKeys ps } = false) :
    exec (.seChainFetch c x) s = .next (chainFetched s c x rest ps) := by
  have hnext : (s.ctx c x).se.fetchNext = some (a, q.rel, q.scope, rest) := by
    simp only [SEState.fetchNext, hrun, hq, ha, Option.map_some]
  have hscrub : s.scrubParts ps = s := if_pos hmem
  change execSeChainFetch c x s = _
  unfold execSeChainFetch
  simp only [State.ctx] at hnext hown
  simp only [hnext, hown, hrel, hacc, hnear, hscrub, hok, ne_eq, not_true_eq_false, decide_false, Bool.not_true, Bool.or_self, Bool.false_eq_true,
    if_false]
  rfl

theorem chainFetched_onlyCtx (s : State) (c x : Nat) (rest : List SECmd) (ps : List Part) : OnlyCtx s (chainFetched s c x rest ps) c x := by
  obtain ⟨hm, hk, hmem, -, -⟩ := arbEnter_frame s.nextSeq.2 s.seq .arrayRead notYet ps
  exact onlyCtx_trans (onlyCtx_of_eq c x hm hk hmem) (onlyCtx_modCtx ..)

end

/-! ## Completion (R206, R208) -/

section
variable {s : State} {c x : Nat} {r : SERun}

/-- Events of buffers put into the changes to come change nothing else. -/
theorem Meadow.foldl_addLate (bs : List Nat) (g rank : Nat) (op : Nat → LateOp) (m : Meadow) :
    ∃ l, bs.foldl (fun (m : Meadow) b => m.addLate g rank (op b)) m = { m with late := l } := by
  induction bs generalizing m with
  | nil => exact ⟨m.late, rfl⟩
  | cons b bs ih => exact ih (m.addLate g rank (op b))

/-- The ring counter that a command posts to, as the post leaves it (R206). -/
def SERun.post (r : SERun) (t : Tab (BitVec 16)) : BitVec 16 :=
  if (r.w 6).getLsbD 31 then tgetD t (getField (r.w 6) 16 6) 0 + (r.w 6).extractLsb' 0 16 else tgetD t (getField (r.w 6) 16 6) 0

/-- The meadow after a command's post. -/
def Meadow.sePosted (m : Meadow) (r : SERun) : Meadow :=
  if (r.w 6).getLsbD 31 then { m with ring := tputD m.ring (getField (r.w 6) 16 6) (r.post m.ring) 0 } else m

/-- The meadow after the LAST event of a command's buffers. -/
def Meadow.seLast (m : Meadow) (g : Nat) (r : SERun) : Meadow :=
  if (r.w 0).getLsbD 58 then r.bufs.foldl (fun (m : Meadow) b => m.addLate g BufEv.last.rank (.buf b .last)) m else m

theorem Meadow.seLast_keeps (m : Meadow) (g : Nat) (r : SERun) : (m.seLast g r).ring = m.ring ∧ (m.seLast g r).ctxs = m.ctxs := by
  unfold Meadow.seLast
  split
  case isTrue =>
    obtain ⟨l, hl⟩ := Meadow.foldl_addLate r.bufs g BufEv.last.rank (.buf · .last) m
    rw [hl]
    exact ⟨rfl, rfl⟩
  case isFalse => exact ⟨rfl, rfl⟩

theorem Meadow.sePosted_ctxs (m : Meadow) (r : SERun) : (m.sePosted r).ctxs = m.ctxs := by
  unfold Meadow.sePosted
  split <;> rfl

theorem Meadow.sePosted_ring (m : Meadow) (r : SERun) (p : Nat) : tgetD (m.sePosted r).ring p 0 =
    if (r.w 6).getLsbD 31 = true ∧ p = (r.w 6).toNat / 2 ^ 16 % 64 then tgetD m.ring p 0 + (r.w 6).setWidth 16 else tgetD m.ring p 0 := by
  have hlow : (r.w 6).extractLsb' 0 16 = (r.w 6).setWidth 16 := BitVec.setWidth_eq_extractLsb' (by decide) |>.symm
  by_cases h : (r.w 6).getLsbD 31 = true
  · have hpost : (m.sePosted r).ring = tputD m.ring (getField (r.w 6) 16 6) (tgetD m.ring (getField (r.w 6) 16 6) 0 + (r.w 6).setWidth 16) 0 := by
      rw [Meadow.sePosted, if_pos h, SERun.post, if_pos h, hlow]
    rw [hpost]
    by_cases hp : p = getField (r.w 6) 16 6
    · rw [if_pos ⟨h, hp⟩, hp, tgetD_tputD_self]
    · rw [if_neg fun hc => hp hc.2, tgetD_tputD_ne _ _ _ _ hp]
  · rw [if_neg fun hc => h hc.1, Meadow.sePosted, if_neg h]

/-- What is left of a context's stream engine when its command completes. -/
def SEState.completed (e : SEState) (r : SERun) : SEState :=
  { e with
    run := none
    results := if (r.w 0).getLsbD 57 then e.results ++ [seResult r.tag 0 r.moved] else e.results
    queue := if r.chain && r.next != 0 then { d := [], chain := some r.next, scope := .pkg, rel := {} } :: e.queue else e.queue }

/-- The state that a completed command leaves. -/
def seCompleted (s : State) (c x : Nat) (r : SERun) : State :=
  s.setMdw c ((((s.mdw c).sePosted r).seLast s.gtc r).modCtx x fun k => { k with se := k.se.completed r })

theorem exec_seCommandComplete (hrun : (s.ctx c x).se.run = some r) (hfin : (s.mdw c).seFinish x s.gtc = true) (howe : r.owe = []) (hop : r.op ≠ 15)
    (hn : (r.w 0).getLsbD 59 = false) : exec (.seCommandComplete c x) s = .next (seCompleted s c x r) := by
  change execSeCommandComplete c x s = _
  unfold execSeCommandComplete
  simp only [State.ctx] at hrun
  simp only [hrun, hfin, howe, bne_self_eq_false, Bool.not_true, Bool.false_eq_true, if_false, hn, hop]
  rfl

theorem seCompleted_mdw (s : State) (c x : Nat) (r : SERun) : (seCompleted s c x r).mdw c =
    (((s.mdw c).sePosted r).seLast s.gtc r).modCtx x fun k => { k with se := k.se.completed r } := State.setMdw_mdw ..

theorem seCompleted_onlyMdw (s : State) (c x : Nat) (r : SERun) : OnlyMdw s (seCompleted s c x r) c :=
  ⟨fun _ hd => State.setMdw_mdw_ne _ _ hd, rfl, fun _ => rfl⟩

theorem Meadow.ctx_of_ctxs {m n : Meadow} (h : m.ctxs = n.ctxs) (x : Nat) : m.ctx x = n.ctx x := by
  rw [Meadow.ctx, h, Meadow.ctx]

theorem seCompleted_ctxs (s : State) (c : Nat) (r : SERun) :
    (((s.mdw c).sePosted r).seLast s.gtc r).ctxs = (s.mdw c).ctxs :=
  ((((s.mdw c).sePosted r).seLast_keeps s.gtc r).2).trans ((s.mdw c).sePosted_ctxs r)

theorem seCompleted_ctx_ne (s : State) {c x y : Nat} (r : SERun) (h : y ≠ x) : (seCompleted s c x r).ctx c y = s.ctx c y := by
  rw [State.ctx, seCompleted_mdw, Meadow.modCtx, Meadow.setCtx_ctx_ne _ _ h, Meadow.ctx_of_ctxs (seCompleted_ctxs s c r)]
  rfl

theorem seCompleted_se (s : State) (c x : Nat) (r : SERun) : ((seCompleted s c x r).ctx c x).se = (s.ctx c x).se.completed r := by
  rw [State.ctx, seCompleted_mdw, Meadow.modCtx_ctx, Meadow.ctx_of_ctxs (seCompleted_ctxs s c r)]
  rfl

theorem seCompleted_ring (s : State) (c x : Nat) (r : SERun) : ((seCompleted s c x r).mdw c).ring = ((s.mdw c).sePosted r).ring := by
  rw [seCompleted_mdw]
  exact (((s.mdw c).sePosted r).seLast_keeps s.gtc r).1

end

/-! ## One granule from memory to the scratchpad (R206, R176) -/

section
variable {s : State} {c x n v d : Nat} {r : SERun} {ps : List Part}

theorem nearby_of_no_stores (h : ∀ y, y < 4 → (s.ctx c y).stores = []) (a : OpenAcc) : s.nearby c x a = false := by
  simp [State.nearby, h]

theorem seIndex_pattern (hop : r.op = 0) : s.seIndex c x r = .ok (s, r) := by
  simp [State.seIndex, SERun.listed, hop]

theorem seEnter_entered (h : r.req ≠ none) : s.seEnter c r = (s, r) := by
  rw [State.seEnter, if_pos (Option.isSome_iff_ne_none.2 h)]

theorem granRead_memory {a : Nat} (hstores : ∀ y, y < 4 → (s.ctx c y).stores = []) (hmem : s.memClean = true)
    (hacc : s.access (s.mdw c) .seRead [(a, n)] = .ok ps) (hok : (s.readParts ps).2.1 = 0) :
    s.granRead c x false a n = .ok (s, (s.readParts ps).1, 0) := by
  have hscrub : s.scrubParts ps = s := if_pos hmem
  simp only [State.granRead, hacc, nearby_of_no_stores hstores, hscrub, hok, Bool.false_eq_true, if_false]

/-- The scratchpad takes a granule's bytes after the cycle. -/
def granStored (s : State) (c x d n v : Nat) : State :=
  s.modMdw c fun m => m.addLate s.gtc 3 (.spad d n (BitVec.ofNat 4096 v) (byteMask n)) x

theorem granWrite_scratchpad {a : Nat} (hb : (s.mdw c).bufs = []) :
    s.granWrite c x true a n v = .ok (granStored s c x (a % 2 ^ 20) n v) n (0, 0) [] := by
  have hbufs (b len : Nat) := Meadow.bufsOf_of_no_bufs hb b len
  have hfate : (s.mdw c).fillFate [(a % 2 ^ 20, n)] = none := by
    simp [Meadow.fillFate, Meadow.bufFault_of_bufsOf (hbufs _ _), Meadow.bufWait_of_bufsOf (hbufs _ _)]
  have hids : (s.mdw c).bufIds [(a % 2 ^ 20, n)] = [] := by simp [Meadow.bufIds, hbufs]
  have hstore : (s.modMdw c fun m => m.spadStore s.gtc 3 (a % 2 ^ 20) n (BitVec.ofNat 4096 v) (byteMask n) x) =
      granStored s c x (a % 2 ^ 20) n v := by
    rw [granStored, State.modMdw, State.modMdw, Meadow.spadStore_of_bufsOf (hbufs _ _)]
  simp only [State.granWrite, if_true, hfate, hids, hstore, Option.getD_none]

theorem granule_to_scratchpad {src dst : Nat} (hop : r.op = 0) (hs : r.srcSp = false) (hd : r.dstSp = true)
    (hsrc : (rowAddr (r.w 1) r.sstride r.row + r.unit) % 2 ^ 64 = src) (hdst : (rowAddr (r.w 2) r.dstride r.row + r.unit) % 2 ^ 64 % 2 ^ 20 = dst)
    (hn : min 64 (r.len - r.unit) = n) (hstores : ∀ y, y < 4 → (s.ctx c y).stores = []) (hmem : s.memClean = true) (hb : (s.mdw c).bufs = [])
    (hacc : s.access (s.mdw c) .seRead [(src, n)] = .ok ps) (hok : (s.readParts ps).2.1 = 0) :
    s.granule c x r = .ok (granStored s c x dst n (s.readParts ps).1) n (0, 0) [] := by
  subst hsrc hdst hn
  have hl : r.listed = false := by simp [SERun.listed, hop]
  have hskip : r.skip = false := by simp [SERun.skip, hl]
  have hread : r.srcRow = rowAddr (r.w 1) r.sstride r.row := by rw [SERun.srcRow, if_neg (by simp [hop])]
  have hwrite : r.dstRow = rowAddr (r.w 2) r.dstride r.row := by rw [SERun.dstRow, if_neg (by simp [hop])]
  simp only [State.granule, hl, hskip, hs, hd, hread, hwrite, Bool.false_and, Bool.or_self, Bool.false_eq_true, if_false,
    granRead_memory hstores hmem hacc hok, ne_eq, not_true_eq_false, granWrite_scratchpad hb]

/-- The state that a granule leaves: its bytes to come, the meadow's turn and bytes of the cycle, and the command that has gone on. -/
def granMoved (s : State) (c x d n v : Nat) (u : SERun) : State :=
  (((granStored s c x d n v).freshIx.2.modMdw c fun m => { m with seTurn := (x + 1) % 4, seBytes := m.seBytes + 64 }).setRun c x u)

/-- A command that a granule of bytes has moved on. -/
def SERun.goneOn (r : SERun) (n readyAt : Nat) : SERun := { r.moveBy n (0, 0) [] with readyAt := readyAt }

theorem SERun.goneOn_moved (r : SERun) (n readyAt : Nat) : (r.goneOn n readyAt).moved = r.moved + n ∧ (r.goneOn n readyAt).req = none := by
  unfold SERun.goneOn SERun.moveBy
  dsimp only
  split
  · exact ⟨rfl, rfl⟩
  · exact ⟨rfl, rfl⟩

theorem exec_seGranuleMove (hrun : (s.ctx c x).se.run = some r) (hmov : r.moving s.gtc = true) (hown : (s.ctx c x).se.owedNotify = [])
    (hbytes : (s.mdw c).seBytes < 512) (hreq : r.req ≠ none) (hserved : s.seServed r = true) (hop : r.op = 0)
    (hg : s.granule c x r = .ok (granStored s c x d n v) n (0, 0) []) : exec (.seGranuleMove c x) s =
      .next (granMoved s c x d n v (r.goneOn n (s.gtc + Config.granuleTime s.fresh))) := by
  have hroom : ¬ 512 ≤ (s.mdw c).seBytes := Nat.not_le.2 hbytes
  change execSeGranuleMove c x s = _
  simp only [execSeGranuleMove, hrun, hmov, hown, hroom, seIndex_pattern hop, seEnter_entered hreq, hserved, hg, bne_self_eq_false, decide_false,
    Bool.not_true, Bool.or_self, Bool.false_eq_true, if_false]
  rfl

theorem granMoved_onlyMdw (u : SERun) : OnlyMdw s (granMoved s c x d n v u) c :=
  onlyMdw_trans (t := granStored s c x d n v) (onlyMdw_modMdw ..) <|
    onlyMdw_trans (t := (granStored s c x d n v).freshIx.2) ⟨fun _ _ => rfl, rfl, fun _ => rfl⟩ <|
    onlyMdw_trans (onlyMdw_modMdw ..) (onlyMdw_of_ctx (onlyCtx_modCtx ..))

theorem granMoved_mdw (u : SERun) : (granMoved s c x d n v u).mdw c =
    ({ (s.mdw c).addLate s.gtc 3 (.spad d n (BitVec.ofNat 4096 v) (byteMask n)) x with seTurn := (x + 1) % 4, seBytes := (s.mdw c).seBytes + 64 } :
      Meadow).modCtx x fun k => { k with se := { k.se with run := some u } } := by
  rw [granMoved, State.setRun, State.modCtx_mdw, State.modMdw_mdw]
  change ({ (granStored s c x d n v).mdw c with seTurn := _, seBytes := ((granStored s c x d n v).mdw c).seBytes + 64 } : Meadow).modCtx x _ = _
  rw [granStored, State.modMdw_mdw]
  rfl

theorem granMoved_ctx (u : SERun) : (granMoved s c x d n v u).ctx c x = { s.ctx c x with se := { (s.ctx c x).se with run := some u } } := by
  rw [State.ctx, granMoved_mdw, Meadow.modCtx_ctx]
  rfl

theorem granMoved_late (hl : (s.mdw c).late = []) (u : SERun) :
    ((granMoved s c x d n v u).mdw c).late = [⟨s.gtc, 3, .spad d n (BitVec.ofNat 4096 v) (byteMask n), x⟩] := by
  rw [granMoved_mdw]
  exact Meadow.addLate_late hl ..

theorem granMoved_spad (u : SERun) : ((granMoved s c x d n v u).mdw c).spad = (s.mdw c).spad := by
  rw [granMoved_mdw]
  rfl

/-- After the cycle the granule's bytes are written. -/
theorem granMoved_after (hl : (s.mdw c).late = []) (hn : n ≤ 64) (u : SERun) : (((granMoved s c x d n v u).mdw c).applyLate (s.gtc + 1)).spad =
    spadWrite (s.mdw c).spad d n (BitVec.ofNat 4096 v).toNat (byteMask n).toNat := by
  rw [Meadow.applyLate_spad (granMoved_late hl u) (by omega), granMoved_spad]

theorem testBit_byteMask {i : Nat} (hi : i < n) (hn : n ≤ 512) : (byteMask n).toNat.testBit i = true := by
  rw [byteMask, BitVec.testBit_toNat, BitVec.getLsbD_ofNat, Nat.testBit_two_pow_sub_one]
  have hlt : i < 512 := by omega
  simp [hi, hlt]

end

end Sys2Proof.Machine
end

section
namespace Sys2Proof

open Sys2Proof.Machine

/-- Settles O41: each event leaves one state, which the lemmas above give; of a granule it leaves one change to come, made after its cycle. -/
theorem streamEngineEvents : Obligations.StreamEngineEvents := by
  unfold Obligations.StreamEngineEvents
  refine ⟨?completes, fun s c x => ⟨?start, ?fetch, ?complete⟩, ?granule⟩
  case completes =>
    intro c x i hi
    simp only [List.mem_cons, List.not_mem_nil, or_false] at hi
    obtain rfl | rfl | rfl | rfl | rfl := hi
    · exact seStart_completes c x fun o => o != 1 && o != 2 && o != 15
    · exact seStart_completes c x (· == 1)
    · exact seStart_completes c x (· == 2)
    · exact seStart_completes c x (· == 15)
    · exact execSeCommandComplete_completes c x
  case start =>
    intro r h f hf hop
    simp only [List.mem_cons, List.not_mem_nil, or_false] at hf
    obtain rfl | rfl | rfl | rfl := hf
    · obtain ⟨h1, h2, h15⟩ := hop
      have hops : (r.op != 1 && r.op != 2 && r.op != 15) = true := by simp [h1, h2, h15]
      exact ⟨seStart_starts (ops := fun o => o != 1 && o != 2 && o != 15) h hops, seStart_halts (ops := fun o => o != 1 && o != 2 && o != 15) h hops⟩
    · exact ⟨seStart_starts (ops := (· == 1)) h (beq_iff_eq.2 hop), seStart_halts (ops := (· == 1)) h (beq_iff_eq.2 hop)⟩
    · exact ⟨seStart_starts (ops := (· == 2)) h (beq_iff_eq.2 hop), seStart_halts (ops := (· == 2)) h (beq_iff_eq.2 hop)⟩
    · exact ⟨seStart_starts (ops := (· == 15)) h (beq_iff_eq.2 hop), seStart_halts (ops := (· == 15)) h (beq_iff_eq.2 hop)⟩
  case fetch =>
    intro q rest a ps hrun hq ha hown hrel hmem hacc hok hnear
    have hse : ((chainFetched s c x rest ps).ctx c x).se = { ((s.nextSeq.2.arbEnter s.seq .arrayRead notYet ps).ctx c x).se with
        queue := rest, run := some (.fetched s c ps) } := by rw [chainFetched, State.modCtx_ctx]
    exact ⟨_, .fetched s c ps, exec_seChainFetch hrun hq ha hown hrel hmem hacc hok hnear, chainFetched_onlyCtx .., by rw [hse], by rw [hse],
      rfl, rfl, rfl, Option.some_ne_none _, Nat.le_add_right .., rfl⟩
  case complete =>
    intro r hrun hfin howe hop hn
    refine ⟨_, exec_seCommandComplete hrun hfin howe hop hn, seCompleted_onlyMdw .., fun y hy => seCompleted_ctx_ne s r hy, ?_, ?_, fun p => ?_⟩
    · rw [seCompleted_se]
      rfl
    · rw [seCompleted_se]
      change (if _ then _ else _) = _
      split
      · rfl
      · exact (List.append_nil _).symm
    · rw [seCompleted_ring]
      exact Meadow.sePosted_ring ..
  case granule =>
    intro s c x r ps m k src dst n hrun hmov hown hbytes hreq hserved hstores hop hs hd hmem hlate hb hn hdst hacc hok
    have hg : s.granule c x r = .ok (granStored s c x dst n (s.readParts ps).1) n (0, 0) [] :=
      granule_to_scratchpad hop hs hd rfl rfl rfl hstores hmem hb hacc hok
    have h64 : n ≤ 64 := Nat.min_le_left ..
    obtain ⟨hmoved, hnoReq⟩ := r.goneOn_moved n (s.gtc + Config.granuleTime s.fresh)
    refine ⟨_, exec_seGranuleMove hrun hmov hown hbytes hreq hserved hop hg, granMoved_onlyMdw _, granMoved_spad _, by rw [granMoved_ctx]; rfl,
      fun j hj => ?_, fun a ha => ?_, by rw [granMoved_mdw]; rfl, _, congrArg (·.se.run) (granMoved_ctx _), hmoved, hnoReq⟩
    · rw [granMoved_after hlate h64, read_spadWrite_in _ _ _ _ _ _ hdst hj (testBit_byteMask hj (by omega))]
      refine BitVec.eq_of_toNat_eq ?_
      rw [BitVec.toNat_ofNat, BitVec.toNat_ofNat (w := 8)]
      exact toNat_ofNat_byte (by omega)
    · rw [granMoved_after hlate h64]
      exact read_spadWrite_out _ _ _ _ _ _ hdst ha

end Sys2Proof
end

section
/-! SUPPORT. Words that change one context, or one heath command processor, beside the arbiters and the model's own counters: what such a word
leaves, said once. -/
namespace Sys2Proof.Machine

/-! ## States with the same core after a change of one part -/

section
variable {s t u : State} {c x h : Nat}

theorem SameCore.mdw (e : SameCore s t) (d : Nat) : t.mdw d = s.mdw d := by
  obtain ⟨hm, -, -, -, -⟩ := e
  rw [State.mdw, hm, State.mdw]

theorem SameCore.ctx (e : SameCore s t) (d y : Nat) : t.ctx d y = s.ctx d y := by rw [State.ctx, e.mdw, State.ctx]

theorem SameCore.hcp (e : SameCore s t) (i : Nat) : t.hcp i = s.hcp i := by
  obtain ⟨-, -, -, -, hh⟩ := e
  rw [State.hcp, hh, State.hcp]

theorem SameCore.cur (e : SameCore s t) : t.cur = s.cur := by
  obtain ⟨-, -, -, hcur, -⟩ := e
  exact hcur

theorem SameCore.keeps_mem (e : SameCore s t) : memSame s t := by
  obtain ⟨-, -, hmem, -, -⟩ := e
  exact fun a => by rw [hmem]

theorem SameCore.onlyCtx (e : SameCore s t) (c x : Nat) : OnlyCtx s t c x := by
  obtain ⟨hm, hk, hmem, -, -⟩ := e
  exact onlyCtx_of_eq c x hm hk hmem

/-- A change of a context is given by its value at that context. -/
theorem State.modCtx_congr {f g : Ctx → Ctx} (e : f (s.ctx c x) = g (s.ctx c x)) : s.modCtx c x f = s.modCtx c x g :=
  congrArg (fun k => s.setMdw c ((s.mdw c).setCtx x k)) e

theorem State.modHcp_modHcp (s : State) (h : Nat) (f g : Hcp → Hcp) : (s.modHcp h f).modHcp h g = s.modHcp h (g ∘ f) := by
  rw [State.modHcp, State.modHcp_hcp]
  simp only [State.modHcp, tput_tput, Function.comp]

theorem SameCore.modCtx (e : SameCore s t) (f : Ctx → Ctx) : SameCore (s.modCtx c x f) (t.modCtx c x f) := by
  obtain ⟨hm, hk, hmem, hcur, hh⟩ := e
  exact ⟨by simp only [State.modCtx, State.modMdw, State.setMdw, State.mdw, hm], hk, hmem, hcur, hh⟩

theorem SameCore.modHcp (e : SameCore s t) (f : Hcp → Hcp) : SameCore (s.modHcp h f) (t.modHcp h f) := by
  obtain ⟨hm, hk, hmem, hcur, hh⟩ := e
  exact ⟨hm, hk, hmem, hcur, by simp only [State.modHcp, State.hcp, hh]⟩

/-- Two changes of a context, one after the other. -/
theorem SameCore.modCtx_trans {f g : Ctx → Ctx} (e : SameCore (s.modCtx c x f) t) (e' : SameCore (t.modCtx c x g) u) :
    SameCore (s.modCtx c x (g ∘ f)) u := by
  rw [← State.modCtx_modCtx]
  exact (e.modCtx g).trans e'

/-- A change of the executing context after one of its core. -/
theorem SameCore.after_setCore {st : StreamId} {k : SCore} {f : Ctx → Ctx} (hcur : s.cur = .stream c x st)
    (e : SameCore ((s.setCore k).modCtx c x f) t) : SameCore (s.modCtx c x (f ∘ fun j => { j with sc := k })) t := by
  rwa [State.setCore_stream hcur, State.modCtx_modCtx] at e

/-! ## The word issues -/

/-- A word that changes its context, whose core only goes on, has issued and changed nothing else. -/
theorem SameCore.issues {ic : BitVec 2} {f : Ctx → Ctx} (e : SameCore (s.modCtx c x f) t) (hcur : s.cur = .stream c x .s)
    (hf : (f (s.ctx c x)).sc = (s.ctx c x).sc.advance ic s.clock) :
    Advanced s t ic ∧ regsSame s t ∧ OnlyCtx s t c x ∧ t.ctx c x = f (s.ctx c x) := by
  have hctx : t.ctx c x = f (s.ctx c x) := (e.ctx c x).trans (State.modCtx_ctx ..)
  have hcore : t.core = s.core.advance ic s.clock := by
    rw [State.core_stream (e.cur.trans hcur), hctx, hf, State.core_stream hcur]
  exact ⟨advanced_core hcore rfl rfl, regsSame_core (by rw [hcore]; rfl) (by rw [hcore]; rfl),
    onlyCtx_trans (onlyCtx_modCtx ..) (e.onlyCtx c x), hctx⟩

/-- The same of a word of a heath command processor. -/
theorem SameCore.issues_hcp {ic : BitVec 2} {f : Hcp → Hcp} (e : SameCore (s.modHcp h f) t) (hcur : s.cur = .hcp h)
    (hf : (f (s.hcp h)).sc = (s.hcp h).sc.advance ic s.clock) :
    Advanced s t ic ∧ regsSame s t ∧ memSame s t ∧ t.hcp h = f (s.hcp h) := by
  have hhcp : t.hcp h = f (s.hcp h) := (e.hcp h).trans (State.modHcp_hcp ..)
  have hcore : t.core = s.core.advance ic s.clock := by
    simp only [State.core, e.cur.trans hcur, hcur, hhcp, hf]
  exact ⟨advanced_core hcore rfl rfl, regsSame_core (by rw [hcore]; rfl) (by rw [hcore]; rfl), e.keeps_mem, hhcp⟩

end

end Sys2Proof.Machine
end

section
/-! SUPPORT. Scalar loads and stores (O9): the landing entry, the pending stores or the load of a heath command processor that each word leaves,
and the bytes that a pending store of one part writes. -/
namespace Sys2Proof.Machine

/-! ## A load takes a landing entry (R190, R196) -/

section
variable {s : State} {c x : Nat}

/-- A context with one more landing entry. -/
def Ctx.addLanding (k : Ctx) (e : LandEntry) : Ctx := { k with landing := k.landing ++ [e] }

theorem startLoad_frame (s : State) (c x : Nat) (st : StreamId) (pc : W32) (lam bytes : Nat) (dest : LandDest) (ps : List Part) (hasp : Bool)
    (f : LandEntry → LandEntry) : ∃ e : LandEntry,
      SameCore (s.modCtx c x fun k => k.addLanding (f e)) (s.startLoad c x st pc lam bytes dest ps hasp f) ∧
        e.stream = st ∧ e.pc = pc ∧ e.lam = lam ∧ e.bytes = bytes ∧ e.dest = dest ∧ e.parts = ps := by
  have hs (dl : Nat) : SameCore s (State.arbEnter { s.nextSeq.2 with fresh := s.nextSeq.2.fresh + ps.length } s.seq .arrayRead dl ps) :=
    SameCore.trans (t := { s.nextSeq.2 with fresh := s.nextSeq.2.fresh + ps.length }) ⟨rfl, rfl, rfl, rfl, rfl⟩ (arbEnter_frame ..)
  unfold State.startLoad
  dsimp only
  split
  · exact ⟨_, ((hs _).modCtx _).trans ⟨rfl, rfl, rfl, rfl, rfl⟩, rfl, rfl, rfl, rfl, rfl, rfl⟩
  · exact ⟨_, (hs _).modCtx _, rfl, rfl, rfl, rfl, rfl, rfl⟩

theorem sLoad_stream {bytes rd : Nat} {pair : Bool} {ic : BitVec 2} {ra : BitVec 5} {imm : BitVec 12} {ps : List Part}
    (hcur : s.cur = .stream c x .s) (hh : s.held (pairRegs ra ++ if pair then [rd, rd + 1] else [rd]) = false)
    (hacc : s.access (s.mdw c) .load [(((s.ctx c x).sc.getD ra.toNat).toNat, bytes)] = .ok ps) (hl : (s.ctx c x).landing.length < 64) :
    ∃ t : State, sLoad bytes rd pair ic ra imm s = .next t ∧ Advanced s t ic ∧ regsSame s t ∧ OnlyCtx s t c x ∧
      ∃ e : LandEntry, (t.ctx c x).landing = (s.ctx c x).landing ++ [e] ∧ e.stream = .s ∧ e.pc = (s.ctx c x).sc.pc ∧
        e.lam = (s.mdw c).mtc + imm.toNat ∧ e.bytes = bytes ∧ e.dest = .scalar rd pair true ∧ e.parts = ps := by
  have hfree : ¬ (s.ctx c x).landFree < 1 := by
    rw [Ctx.landFree]
    omega
  obtain ⟨e, hframe, he⟩ := startLoad_frame (s.setCore ((s.ctx c x).sc.advance ic s.clock)) c x .s (s.ctx c x).sc.pc
    ((s.mdw c).mtc + imm.toNat) bytes (.scalar rd pair true) ps ((s.ctx c x).hasp.state == .active)
    fun e => { e with ord := ((s.ctx c x).sc.advance ic (s.mdw c).mtc).nextAt }
  obtain ⟨hadv, hsame, honly, hctx⟩ := (hframe.after_setCore hcur).issues (ic := ic) hcur rfl
  refine ⟨_, ?_, hadv, hsame, honly, _, congrArg Ctx.landing hctx, he⟩
  rw [State.ctx] at *
  simp only [sLoad, hcur, hh, hacc, hfree, Bool.false_eq_true, if_false]

end

/-! ## A store waits to be performed (R196, R213, R216) -/

section
variable {s : State} {c x : Nat}

/-- A context with more stores that wait. -/
def Ctx.addStores (k : Ctx) (qs : List PendStore) : Ctx := { k with stores := k.stores ++ qs }

/-- A pending store of a stream with these bytes and this mask. -/
def PendStore.Holds (q : PendStore) (st : StreamId) (data : Row) (mask : Pred) : Prop := q.stream = st ∧ q.data = data ∧ q.mask = mask

theorem startStore1_frame (s : State) (c x : Nat) (st : StreamId) (ps : List Part) (data : Row) (mask : Pred) (hasp : Bool) :
    ∃ q : PendStore, SameCore (s.modCtx c x fun k => k.addStores [q]) (s.startStore1 c x st ps data mask hasp) ∧ q.parts = ps ∧
      q.Holds st data mask := by
  have hs : SameCore s (s.nextSeq.2.freshIx.2.arbEnter s.seq .arrayWrite 0 ps) :=
    SameCore.trans (t := s.nextSeq.2.freshIx.2) ⟨rfl, rfl, rfl, rfl, rfl⟩ (arbEnter_frame ..)
  obtain ⟨q, hq, hparts, hholds⟩ : ∃ q : PendStore, s.startStore1 c x st ps data mask hasp =
      (s.nextSeq.2.freshIx.2.arbEnter s.seq .arrayWrite 0 ps).modCtx c x (fun k => k.addStores [q]) ∧ q.parts = ps ∧ q.Holds st data mask :=
    ⟨_, State.modCtx_congr rfl, rfl, rfl, rfl, rfl⟩
  rw [hq]
  exact ⟨q, hs.modCtx _, hparts, hholds⟩

/-- The stores of an access's parts, each by itself, wait in their order. -/
theorem startStores_frame (c x : Nat) (st : StreamId) (data : Row) (mask : Pred) (p : Part) (rest : List Part) (s : State) :
    ∃ qs : List PendStore, SameCore (s.modCtx c x fun k => k.addStores qs)
        ((p :: rest).foldl (fun s p => s.startStore1 c x st [p] data mask false) s) ∧
      qs.flatMap (·.parts) = p :: rest ∧ ∀ q ∈ qs, q.Holds st data mask := by
  obtain ⟨q, hq, hparts, hholds⟩ := startStore1_frame s c x st [p] data mask false
  induction rest generalizing p s q with
  | nil => exact ⟨[q], hq, by simp [hparts], by simpa using hholds⟩
  | cons r rest ih =>
    obtain ⟨q', hq', hparts', hholds'⟩ := startStore1_frame (s.startStore1 c x st [p] data mask false) c x st [r] data mask false
    obtain ⟨qs, hqs, hflat, hall⟩ := ih r _ q' hq' hparts' hholds'
    refine ⟨q :: qs, ?_, by simp [hparts, hflat], List.forall_mem_cons.2 ⟨hholds, hall⟩⟩
    have hk : (fun k : Ctx => k.addStores (q :: qs)) = (fun k => k.addStores qs) ∘ fun k => k.addStores [q] := by
      funext k
      simp only [Function.comp, Ctx.addStores, List.append_assoc, List.singleton_append]
    rw [hk]
    exact hq.modCtx_trans hqs

theorem startStore_frame (s : State) (c x : Nat) (st : StreamId) (ps : List Part) (data : Row) (mask : Pred) (hasp : Bool) :
    ∃ qs : List PendStore, SameCore (s.modCtx c x fun k => k.addStores qs) (s.startStore c x st ps data mask hasp) ∧
      qs.flatMap (·.parts) = ps ∧ ∀ q ∈ qs, q.Holds st data mask := by
  unfold State.startStore
  split
  case h_1 => exact startStores_frame ..
  case h_2 =>
    obtain ⟨q, hq, hparts, hholds⟩ := startStore1_frame s c x st ps data mask hasp
    exact ⟨[q], hq, by simp [hparts], by simpa using hholds⟩

theorem sStore_stream {bytes : Nat} {v : SCore → Nat} {regs : List Nat} {ic : BitVec 2} {ra : BitVec 5} {ps : List Part}
    (hcur : s.cur = .stream c x .s) (hh : s.held (pairRegs ra ++ regs) = false)
    (hacc : s.access (s.mdw c) .store [(((s.ctx c x).sc.getD ra.toNat).toNat, bytes)] = .ok ps) :
    ∃ t : State, sStore bytes v regs ic ra s = .next t ∧ Advanced s t ic ∧ regsSame s t ∧ OnlyCtx s t c x ∧
      ∃ qs : List PendStore, (t.ctx c x).stores = (s.ctx c x).stores ++ qs ∧ qs.flatMap (·.parts) = ps ∧
        ∀ p ∈ qs, p.Holds .s (BitVec.ofNat 4096 (v (s.ctx c x).sc)) (byteMask bytes) := by
  obtain ⟨qs, hframe, hqs⟩ := startStore_frame (s.setCore ((s.ctx c x).sc.advance ic s.clock)) c x .s ps
    (BitVec.ofNat 4096 (v (s.ctx c x).sc)) (byteMask bytes) ((s.ctx c x).hasp.state == .active)
  obtain ⟨hadv, hsame, honly, hctx⟩ := (hframe.after_setCore hcur).issues (ic := ic) hcur rfl
  refine ⟨_, ?_, hadv, hsame, honly, qs, congrArg Ctx.stores hctx, hqs⟩
  rw [State.ctx] at *
  simp only [sStore, hcur, hh, hacc, Bool.false_eq_true, if_false]

end

/-! ## Loads and stores of a heath command processor (R252) -/

section
variable {s : State} {h bytes key : Nat} {ic : BitVec 2} {ra : BitVec 5}

theorem arbHeath_frame (s : State) (id hcp : Nat) (lim : Nat × Nat) (pa len : Nat) : SameCore s (s.arbHeath id hcp lim pa len) := by
  refine sameCore_foldl _ (fun s l => ?_) _ s
  split
  · exact .refl s
  · exact arbPut_frame ..

theorem hcpLoadLatency_ticks_pos (h pc : Nat) : 0 < hcpTicksOf (hcpLoadLatency h pc) := by
  have hlat : 60 ≤ hcpLoadLatency h pc := by
    unfold hcpLoadLatency
    split
    · exact le_rfl
    · split <;> decide
  unfold hcpTicksOf
  omega

/-- A processor that has issued a load and waits for it. -/
def Hcp.loading (t : Hcp) (ic : BitVec 2) (cycle : Nat) (l : HLoad) : Hcp := { t with sc := t.sc.advance ic cycle, load := some l }

/-- A processor that has issued a store. -/
def Hcp.storing (t : Hcp) (ic : BitVec 2) (cycle : Nat) (p : PendStore) : Hcp := { t with sc := t.sc.advance ic cycle, stores := t.stores ++ [p] }

/-- The load that a processor's word starts. -/
def hcpLoad (s : State) (h bytes rd : Nat) (pair : Bool) (pa key : Nat) : HLoad :=
  { id := s.seq, rd := rd, pair := pair, bytes := bytes, pa := pa, key := key
    at_ := s.gtc + hcpTicksOf (hcpLoadLatency h ((placeOf pa).map (·.pc) |>.getD h)) + Config.excess s.fresh }

/-- The store that a processor's word leaves. -/
def hcpStore (s : State) (bytes v pa key : Nat) : PendStore :=
  { id := s.seq, stream := .s, parts := [{ off := 0, len := bytes, va := pa, pa := pa, key := key, kind := 0, res := true }]
    data := BitVec.ofNat 4096 v, mask := byteMask bytes, due := s.gtc + Config.storeDelay s.fresh }

/-- A processor's word takes its number and its free value, and its requests enter the arbiters. -/
theorem arbHeath_modHcp_frame (s : State) (h id pa len : Nat) (lim : Nat × Nat) (f : Hcp → Hcp) :
    SameCore (s.modHcp h f) ((s.nextSeq.2.freshIx.2.modHcp h f).arbHeath id h lim pa len) :=
  SameCore.trans (t := s.nextSeq.2.freshIx.2.modHcp h f) ⟨rfl, rfl, rfl, rfl, rfl⟩ (arbHeath_frame ..)

section
variable {pa : Nat} (hcur : s.cur = .hcp h) (hpa : ((s.hcp h).sc.getD ra.toNat).toNat % 2 ^ 48 = pa)
include hcur hpa

theorem sLoad_hcp {rd : Nat} {pair : Bool} (hh : s.held (pairRegs ra ++ if pair then [rd, rd + 1] else [rd]) = false)
    (hchk : (s.hcp h).check pa bytes = .ok key) :
    ∃ t : State, sLoad bytes rd pair ic ra 0 s = .next t ∧ Advanced s t ic ∧ regsSame s t ∧ memSame s t ∧
      ∃ l : HLoad, (t.hcp h).load = some l ∧ l.rd = rd ∧ l.pair = pair ∧ l.bytes = bytes ∧ l.pa = pa ∧ l.key = key ∧ s.gtc < l.at_ := by
  have hex : sLoad bytes rd pair ic ra 0 s = .next ((s.nextSeq.2.freshIx.2.modHcp h fun u =>
      (u.loading ic s.clock (hcpLoad s h bytes rd pair pa key))).arbHeath s.seq h ((s.hcp h).cols, 2 * (s.hcp h).ns) pa bytes) := by
    have hcore := State.setCore_hcp (s := s.nextSeq.2.freshIx.2) hcur ((s.hcp h).sc.advance ic s.clock)
    simp only [sLoad, hcur, hLoad, hh, hpa, hchk, ne_eq, not_true_eq_false, Bool.false_eq_true, if_false, hcore, State.modHcp_modHcp]
    rfl
  obtain ⟨hadv, hsame, hmem, hhcp⟩ := (arbHeath_modHcp_frame s h s.seq pa bytes ((s.hcp h).cols, 2 * (s.hcp h).ns) fun u =>
    u.loading ic s.clock (hcpLoad s h bytes rd pair pa key)).issues_hcp (ic := ic) hcur rfl
  have hpos := hcpLoadLatency_ticks_pos h ((placeOf pa).map (·.pc) |>.getD h)
  have hlater : s.gtc < (hcpLoad s h bytes rd pair pa key).at_ := by
    rw [hcpLoad]
    dsimp only
    omega
  exact ⟨_, hex, hadv, hsame, hmem, _, congrArg Hcp.load hhcp, rfl, rfl, rfl, rfl, rfl, hlater⟩

theorem sStore_hcp {v : SCore → Nat} {regs : List Nat} (hh : s.held (pairRegs ra ++ regs) = false)
    (hchk : (s.hcp h).check pa bytes = .ok key) :
    ∃ t : State, sStore bytes v regs ic ra s = .next t ∧ Advanced s t ic ∧ regsSame s t ∧ memSame s t ∧
      ∃ p : PendStore, (t.hcp h).stores = (s.hcp h).stores ++ [p] ∧ p.data = BitVec.ofNat 4096 (v (s.hcp h).sc) ∧ p.mask = byteMask bytes ∧
        p.parts.map (fun q => (q.pa, q.len, q.key)) = [(pa, bytes, key)] := by
  have hex : sStore bytes v regs ic ra s = .next ((s.nextSeq.2.freshIx.2.modHcp h fun u =>
      u.storing ic s.clock (hcpStore s bytes (v (s.hcp h).sc) pa key)).arbHeath s.seq h ((s.hcp h).cols, 2 * (s.hcp h).ns) pa bytes) := by
    have hcore := State.setCore_hcp (s := s.nextSeq.2.freshIx.2) hcur ((s.hcp h).sc.advance ic s.clock)
    simp only [sStore, hcur, hStore, hh, hpa, hchk, Bool.false_eq_true, if_false, hcore, State.modHcp_modHcp]
    rfl
  obtain ⟨hadv, hsame, hmem, hhcp⟩ := (arbHeath_modHcp_frame s h s.seq pa bytes ((s.hcp h).cols, 2 * (s.hcp h).ns) fun u =>
    u.storing ic s.clock (hcpStore s bytes (v (s.hcp h).sc) pa key)).issues_hcp (ic := ic) hcur rfl
  exact ⟨_, hex, hadv, hsame, hmem, _, congrArg Hcp.stores hhcp, rfl, rfl, rfl⟩

end

end

/-! ## A pending store is performed (R174, R213) -/

section
variable {s t u : State} {key pa len : Nat}

/-- Bytes written at the front of a range and then behind it are the bytes of the whole range. -/
theorem writesBytes_append {n m v mask : Nat} (h : WritesBytes s t pa n v mask)
    (g : WritesBytes t u (pa + n) m (v / 2 ^ (8 * n)) (mask / 2 ^ n)) : WritesBytes s u pa (n + m) v mask := by
  obtain ⟨hin, hout⟩ := h
  obtain ⟨gin, gout⟩ := g
  refine ⟨fun i hi hm => ?_, fun a ha => ?_⟩
  · by_cases hn : i < n
    · rw [gout _ (.inl (by omega)), hin i hn hm]
    · have hbit : (mask / 2 ^ n).testBit (i - n) = true := by
        rw [Nat.testBit_div_two_pow, Nat.sub_add_cancel (not_lt.1 hn), hm]
      have hbyte := gin (i - n) (by omega) hbit
      rw [Nat.div_div_eq_div_mul, ← Nat.pow_add] at hbyte
      rw [show pa + i = pa + n + (i - n) by omega, hbyte, show 8 * n + 8 * (i - n) = 8 * i by omega]
  · by_cases hn : a < pa + n
    · rw [gout a (.inl hn), hout a (ha.imp_right fun h => h.imp_left fun h => by omega)]
    · rw [gout a ?_, hout a (.inr (.inl (not_lt.1 hn)))]
      rcases ha with ha | ha | ha
      · omega
      · exact .inr (.inl (by omega))
      · refine .inr (.inr ?_)
        rw [Nat.testBit_div_two_pow, show a - (pa + n) + n = a - pa by omega, ha]

/-- Bytes of a line, from its byte o on, are bytes of the line. -/
theorem writesBytes_of_line {l o n v mask : Nat} (hn : o + n ≤ 64)
    (h : WritesBytes s t l 64 (v % 2 ^ (8 * n) * 2 ^ (8 * o)) (mask % 2 ^ n * 2 ^ o)) : WritesBytes s t (l + o) n v mask := by
  obtain ⟨hin, hout⟩ := h
  have hbit (j : Nat) (ho : o ≤ j) : (mask % 2 ^ n * 2 ^ o).testBit j = (decide (j - o < n) && mask.testBit (j - o)) := by
    rw [Nat.testBit_mul_two_pow, Nat.testBit_mod_two_pow, decide_eq_true ho, Bool.true_and]
  refine ⟨fun i hi hm => ?_, fun a ha => ?_⟩
  · have hbyte := hin (o + i) (by omega) (by rw [hbit _ (by omega), Nat.add_sub_cancel_left, hm, decide_eq_true hi, Bool.true_and])
    have hsplit : 2 ^ (8 * n) = 2 ^ (8 * i) * 2 ^ (8 * (n - i)) := by rw [← Nat.pow_add, ← Nat.mul_add, Nat.add_sub_cancel' hi.le]
    have hdvd : 256 ∣ 2 ^ (8 * (n - i)) := pow_dvd_pow 2 (by omega : 8 ≤ 8 * (n - i))
    rw [Nat.add_assoc, hbyte, Nat.mul_comm, Nat.mul_add, Nat.pow_add, Nat.mul_div_mul_left _ _ (Nat.two_pow_pos _), hsplit,
      Nat.mod_mul_right_div_self, Nat.mod_mod_of_dvd _ hdvd]
  · by_cases hl : a < l ∨ l + 64 ≤ a
    · exact hout a (by omega)
    · refine hout a (.inr (.inr ?_))
      by_cases ho : o ≤ a - l
      · rw [hbit _ ho]
        rcases ha with ha | ha | ha
        · omega
        · rw [decide_eq_false (by omega), Bool.false_and]
        · rw [show a - l - o = a - (l + o) by omega, ha, Bool.and_false]
      · rw [Nat.testBit_mul_two_pow, decide_eq_false ho, Bool.false_and]

/-- A line and its key slot: nothing but the line's number counts. -/
theorem dramWrite_lineStart (pa key : Nat) (d : Line) (mask : BitVec 64) :
    s.dramWrite pa key d mask = s.dramWrite (64 * (pa / 64)) key d mask := by
  have hl : 64 * (pa / 64) / 64 = pa / 64 := Nat.mul_div_cancel_left _ (by decide)
  simp only [State.dramWrite, State.dramLine, hl]

theorem lineNos_lineStart (l : Nat) : lineNos (64 * l) 64 = [l] := by
  simp [lineNos]

theorem mem_lineNos_first (h : len ≠ 0) : pa / 64 ∈ lineNos pa len := by
  rw [lineNos, if_neg h]
  exact List.mem_map.2 ⟨0, List.mem_range.2 (by omega), Nat.add_zero _⟩

/-- The lines of what is left of a range are lines of the range. -/
theorem mem_lineNos_rest {n l : Nat} (h : l ∈ lineNos (pa + n) (len - n)) (hn : n < len) : l ∈ lineNos pa len := by
  rw [lineNos, if_neg (by omega)] at h ⊢
  obtain ⟨i, hi, rfl⟩ := List.mem_map.1 h
  rw [List.mem_range] at hi
  exact List.mem_map.2 ⟨(pa + n) / 64 + i - pa / 64, List.mem_range.2 (by omega), by omega⟩

/-- The first line of a range holds plain text where the range does. -/
theorem plainUnder_line (hp : plainUnder s key pa len) (h : len ≠ 0) : plainUnder s key (64 * (pa / 64)) 64 := by
  obtain ⟨k, hk, hl⟩ := hp
  refine ⟨k, hk, fun l hm => ?_⟩
  rw [lineNos_lineStart, List.mem_singleton] at hm
  exact hm ▸ hl _ (mem_lineNos_first h)

/-- What is left of a range holds plain text where the range does. -/
theorem plainUnder_rest (hp : plainUnder s key pa len) (n : Nat) : plainUnder s key (pa + n) (len - n) := by
  obtain ⟨k, hk, hl⟩ := hp
  refine ⟨k, hk, fun l hm => ?_⟩
  by_cases hn : n < len
  · exact hl l (mem_lineNos_rest hm hn)
  · rw [lineNos, if_pos (by omega)] at hm
    cases hm

/-- A line written under a key slot leaves the lines that hold plain text under it. -/
theorem plainUnder_dramWrite {a n : Nat} (d : Line) (mask : BitVec 64) (hp : plainUnder s key a n) :
    plainUnder (s.dramWrite pa key d mask) key a n := by
  obtain ⟨k, hk, hl⟩ := hp
  refine ⟨k, hk, fun l hm => ?_⟩
  have hline : (s.dramWrite pa key d mask).lineKey = tput s.lineKey (pa / 64) k := by simp only [State.dramWrite, hk, Option.getD_some]
  rw [hline]
  by_cases he : l = pa / 64
  · exact .inr (he ▸ tget_tput_self ..)
  · rw [tget_tput_ne _ _ he]
    exact hl l hm

theorem homeDie_lt (va : Nat) : homeDie va < 2 := Nat.mod_lt _ (by decide)

/-- No engine holds a line: an array access goes to DRAM. -/
theorem arrayWrite_of_no_lines (h0 : (s.eng 0).lines = []) (h1 : (s.eng 1).lines = []) (va pa key : Nat) (d : Line) (mask : BitVec 64) :
    s.arrayWrite va pa key d mask = s.dramWrite pa key d mask := by
  have hnone : s.heldAt va pa = none := by
    have hlt := homeDie_lt va
    rw [State.heldAt]
    obtain hd | hd : homeDie va = 0 ∨ homeDie va = 1 := by omega
    · rw [hd, h0]
      rfl
    · rw [hd, h1]
      rfl
  rw [State.arrayWrite, hnone]

/-- Low bits of a number, placed within a word. -/
theorem toNat_ofNat_placed {w n o : Nat} (v : Nat) (h : n + o ≤ w) : (BitVec.ofNat w (v % 2 ^ n * 2 ^ o)).toNat = v % 2 ^ n * 2 ^ o := by
  rw [BitVec.toNat_ofNat]
  refine Nat.mod_eq_of_lt ?_
  calc
    _ < 2 ^ n * 2 ^ o := Nat.mul_lt_mul_of_pos_right (Nat.mod_lt _ (Nat.two_pow_pos _)) (Nat.two_pow_pos _)
    _ ≤ 2 ^ w := by rw [← Nat.pow_add]; exact Nat.pow_le_pow_right (by decide) h

/-- The first line of a run, as its n bytes leave it. -/
def State.putLine (s : State) (key va pa n v mask : Nat) : State :=
  if BitVec.ofNat 64 (mask % 2 ^ n * 2 ^ (pa % 64)) = 0 then s
  else s.arrayWrite va pa key (BitVec.ofNat 512 (v % 2 ^ (8 * n) * 2 ^ (8 * (pa % 64)))) (BitVec.ofNat 64 (mask % 2 ^ n * 2 ^ (pa % 64)))

theorem writeRun_succ {n : Nat} (hn : min len (64 - pa % 64) = n) (hz : len ≠ 0) (fuel va v mask : Nat) :
    s.writeRun key (fuel + 1) va pa len v mask =
      (s.putLine key va pa n v mask).writeRun key fuel (va + n) (pa + n) (len - n) (v / 2 ^ (8 * n)) (mask / 2 ^ n) := by
  subst hn
  rw [State.writeRun, if_neg hz]
  rfl

section
variable (h0 : (s.eng 0).lines = []) (h1 : (s.eng 1).lines = []) (va n v mask : Nat)
include h0 h1

theorem putLine_cases : s.putLine key va pa n v mask = s ∨ ∃ d m, s.putLine key va pa n v mask = s.dramWrite pa key d m := by
  unfold State.putLine
  split
  · exact .inl rfl
  · exact .inr ⟨_, _, arrayWrite_of_no_lines h0 h1 ..⟩

theorem putLine_engines : (s.putLine key va pa n v mask).engines = s.engines := by
  obtain h | ⟨d, m, h⟩ := putLine_cases (key := key) (pa := pa) h0 h1 va n v mask
  · rw [h]
  · rw [h]
    rfl

theorem putLine_plain {a k : Nat} (hp : plainUnder s key a k) : plainUnder (s.putLine key va pa n v mask) key a k := by
  obtain h | ⟨d, m, h⟩ := putLine_cases (key := key) (pa := pa) h0 h1 va n v mask
  · rw [h]
    exact hp
  · rw [h]
    exact plainUnder_dramWrite d m hp

theorem putLine_writesBytes (hp : plainUnder s key (64 * (pa / 64)) 64) (hn : pa % 64 + n ≤ 64) :
    WritesBytes s (s.putLine key va pa n v mask) pa n v mask := by
  have hdata : (BitVec.ofNat 512 (v % 2 ^ (8 * n) * 2 ^ (8 * (pa % 64)))).toNat = v % 2 ^ (8 * n) * 2 ^ (8 * (pa % 64)) :=
    toNat_ofNat_placed v (by omega)
  have hmask : (BitVec.ofNat 64 (mask % 2 ^ n * 2 ^ (pa % 64))).toNat = mask % 2 ^ n * 2 ^ (pa % 64) := toNat_ofNat_placed mask (by omega)
  have hline : WritesBytes s (s.putLine key va pa n v mask) (64 * (pa / 64)) 64 (v % 2 ^ (8 * n) * 2 ^ (8 * (pa % 64)))
      (mask % 2 ^ n * 2 ^ (pa % 64)) := by
    rw [State.putLine]
    split
    case isTrue hz =>
      have hzero : mask % 2 ^ n * 2 ^ (pa % 64) = 0 := hmask ▸ congrArg BitVec.toNat hz
      rw [hzero]
      exact writesBytes_none (fun _ => rfl) ..
    case isFalse =>
      rw [arrayWrite_of_no_lines h0 h1, dramWrite_lineStart]
      have hwrite := dramWrite_writesBytes (Nat.mul_mod_right 64 (pa / 64)) hp (BitVec.ofNat 512 (v % 2 ^ (8 * n) * 2 ^ (8 * (pa % 64))))
        (BitVec.ofNat 64 (mask % 2 ^ n * 2 ^ (pa % 64)))
      rwa [hdata, hmask] at hwrite
  have hpart := writesBytes_of_line hn hline
  rwa [Nat.div_add_mod] at hpart

end

/-- A run of bytes on lines that no engine holds and that are plain text changes the bytes of the run that the mask selects. -/
theorem writeRun_writesBytes (key fuel : Nat) (s : State) (va pa len v mask : Nat) (h0 : (s.eng 0).lines = []) (h1 : (s.eng 1).lines = [])
    (hp : plainUnder s key pa len) (hf : len = 0 ∨ pa % 64 + len ≤ 64 * fuel) :
    WritesBytes s (s.writeRun key fuel va pa len v mask) pa len v mask := by
  have hnone (s : State) (pa v mask : Nat) : WritesBytes s s pa 0 v mask := ⟨fun i hi => absurd hi (Nat.not_lt_zero i), fun _ _ => rfl⟩
  induction fuel generalizing s va pa len v mask with
  | zero =>
    obtain rfl : len = 0 := by omega
    exact hnone ..
  | succ fuel ih =>
    by_cases hz : len = 0
    · subst hz
      exact hnone ..
    · obtain ⟨n, hn⟩ : ∃ n, min len (64 - pa % 64) = n := ⟨_, rfl⟩
      have heng (d : Nat) : (s.putLine key va pa n v mask).eng d = s.eng d := by
        rw [State.eng, putLine_engines h0 h1, State.eng]
      have hfirst := putLine_writesBytes h0 h1 va n v mask (plainUnder_line hp hz) (by omega)
      have htail := ih (s.putLine key va pa n v mask) (va + n) (pa + n) (len - n) (v / 2 ^ (8 * n)) (mask / 2 ^ n) (by rw [heng, h0])
        (by rw [heng, h1]) (putLine_plain h0 h1 va n v mask (plainUnder_rest hp n)) (by omega)
      have hboth := writesBytes_append hfirst htail
      rwa [← writeRun_succ hn hz, Nat.add_sub_cancel' (by omega)] at hboth

theorem doStore_of_plain {c x : Nat} {p : PendStore} {q : Part} (hparts : p.parts = [q]) (hold : s.oldKeys = [])
    (h0 : (s.eng 0).lines = []) (h1 : (s.eng 1).lines = []) (hp : plainUnder s q.key q.pa q.len) :
    WritesBytes s (s.doStore c x p) q.pa q.len (p.data.toNat / 2 ^ (8 * q.off)) (p.mask.toNat / 2 ^ q.off) := by
  have hmem : (s.doStore c x p).mem = (s.writeRun q.key (q.len / 64 + 2) q.va q.pa q.len (p.data.toNat / 2 ^ (8 * q.off))
      (p.mask.toNat / 2 ^ q.off)).mem := by
    rw [State.doStore, State.modCtx_mem, State.underKeys, issuedAt_of_unchanged _ hold, hparts]
    rfl
  rw [WritesBytes, hmem]
  exact writeRun_writesBytes _ _ _ _ _ _ _ _ h0 h1 hp (by omega)

theorem doStore_stores (s : State) (c x : Nat) (p : PendStore) :
    ((s.doStore c x p).ctx c x).stores = (s.ctx c x).stores.filter fun r => r.id != p.id := by
  have hctx : (s.underKeys p.id fun s => s.writeParts p.parts p.data.toNat p.mask.toNat).ctx c x = s.ctx c x := by
    have hm : (s.underKeys p.id fun s => s.writeParts p.parts p.data.toNat p.mask.toNat).meadows = s.meadows := writeParts_meadows ..
    rw [State.ctx, State.mdw, hm, State.ctx, State.mdw]
  rw [State.doStore, State.modCtx_ctx, hctx]

end

end Sys2Proof.Machine

namespace Sys2Proof

open Sys2Proof.Machine

/-- Settles O9: a stream's load leaves one landing entry, and its store leaves pending stores of the access's parts; on a heath command processor
each leaves its own record; and a pending store of one part is performed as a run of bytes, line by line. -/
theorem scalarMemoryWords : Obligations.ScalarMemoryWords := by
  unfold Obligations.ScalarMemoryWords
  refine ⟨?loads, ?hcpLoads, ?stores, ?performed⟩
  case loads =>
    intro s c x ic rd pd ra imm ps hcur k m a lands
    exact ⟨sLoad_stream hcur, sLoad_stream hcur, sLoad_stream hcur, sLoad_stream hcur⟩
  case hcpLoads =>
    intro s h ic rd pd ra key hcur t0 pa loads
    exact ⟨sLoad_hcp hcur rfl, sLoad_hcp hcur rfl, sLoad_hcp hcur rfl, sLoad_hcp hcur rfl⟩
  case stores =>
    intro s ic rd pd ra stores
    have hboth (i : Instr) (bytes : Nat) (regs : List Nat) (v : SCore → Nat) (hi : exec i s = sStore bytes v regs ic ra s) :
        stores i bytes regs v := by
      simp only [stores, hi]
      exact ⟨fun c x ps hcur => sStore_stream hcur, fun h key hcur => sStore_hcp hcur rfl⟩
    exact ⟨hboth (.stb ic rd ra) 1 [rd.toNat] (fun k => (k.get rd.toNat).toNat) rfl,
      hboth (.sth ic rd ra) 2 [rd.toNat] (fun k => (k.get rd.toNat).toNat) rfl,
      hboth (.stw ic rd ra) 4 [rd.toNat] (fun k => (k.get rd.toNat).toNat) rfl,
      hboth (.std ic pd ra) 8 (pairRegs pd) (fun k => (k.getD pd.toNat).toNat) rfl⟩
  case performed =>
    intro s c x p q hparts _ hold _ hp h0 h1
    exact ⟨doStore_of_plain hparts hold h0 h1 hp, doStore_stores s c x p⟩

end Sys2Proof
end

section
/-! SUPPORT. The words of the stream engine (O12): each word as the change it makes to its context. -/
namespace Sys2Proof.Machine

/-! ## The stream engine's words (R204, R207, R208, R210) -/

/-- A context whose S-word has issued and changed the stream engine's state. -/
def Ctx.seWord (k : Ctx) (ic : BitVec 2) (mtc : Nat) (g : SEState → SEState) : Ctx := { k with sc := k.sc.advance ic mtc, se := g k.se }

/-- A context whose SEPOP has issued with a result entry to come in its pair. -/
def Ctx.sePopped (k : Ctx) (ic : BitVec 2) (mtc p : Nat) (v : W64) (rest : List W64) : Ctx :=
  { k with sc := (k.sc.advance ic mtc).pushD p (mtc + 1) v, se := { k.se with results := rest } }

section
variable {s : State} {c x : Nat} {ic : BitVec 2} {i : Instr}

/-- A word that issues and changes its stream engine's state completes. -/
theorem seWord_completes {g : SEState → SEState} (hcur : s.cur = .stream c x .s)
    (hex : exec i s = .next (s.modCtx c x fun k => k.seWord ic s.clock g)) :
    ∃ t, exec i s = .next t ∧ Advanced s t ic ∧ regsSame s t ∧ OnlyCtx s t c x ∧ (t.ctx c x).se = g (s.ctx c x).se := by
  obtain ⟨hadv, hsame, honly, hctx⟩ := (SameCore.refl (s.modCtx c x fun k => k.seWord ic s.clock g)).issues hcur rfl
  exact ⟨_, hex, hadv, hsame, honly, congrArg Ctx.se hctx⟩

theorem exec_sew {n : BitVec 3} {p : BitVec 5} (hr : Ready s c x (pairRegs p)) : exec (.sew ic n p) s =
    .next (s.modCtx c x fun k => k.seWord ic s.clock fun e =>
      { e with shadow := tputD e.shadow n.toNat ((s.ctx c x).sc.getD p.toNat) 0 }) := by
  change execSew ic n p s = _
  simp only [execSew, sGuard_of_ready hr, State.curM_stream hr.cur, State.curX_stream hr.cur, State.setCore_stream hr.cur,
    State.core_stream hr.cur, State.modCtx_modCtx]
  rfl

/-- The descriptor of the shadow registers. -/
def SEState.descriptor (e : SEState) : List W64 := (List.range 8).map fun i => tgetD e.shadow i 0

theorem exec_sego {sc : Scope} (hr : Ready s c x []) (hu : (s.ctx c x).se.used < 16) : exec (.sego ic sc) s =
    .next (s.modCtx c x fun k => k.seWord ic s.clock fun e => { e with queue := e.queue ++
      [{ d := (s.ctx c x).se.descriptor, scope := sc, rel := (s.ctx c x).reachOf .s s.seq }] }) := by
  change execSego ic sc s = _
  simp only [execSego, sGuard_of_ready hr, State.curM_stream hr.cur, State.curX_stream hr.cur, State.setCore_stream hr.cur, not_le.2 hu,
    if_false, State.modCtx_modCtx]
  rfl

theorem exec_segoResume {sc : Scope} {r : SERun} (hr : Ready s c x []) (hrun : (s.ctx c x).se.run = some r) (hh : r.halted ≠ none)
    (hd : r.done = false) : exec (.segoResume ic sc) s =
    .next (s.modCtx c x fun k => k.seWord ic s.clock fun e => { e with run := some { r with halted := none, started := false } }) := by
  change execSegoResume ic sc s = _
  simp only [execSegoResume, sGuard_of_ready hr, State.curM_stream hr.cur, State.curX_stream hr.cur, State.setCore_stream hr.cur,
    State.core_stream hr.cur, State.modCtx_modCtx]
  refine congrArg Host.Outcome.next (State.modCtx_congr ?_)
  simp only [Function.comp, hrun, Option.isSome_iff_ne_none.2 hh, hd, Bool.not_false, and_self, if_true]
  rfl

theorem exec_segoDrop {sc : Scope} {r : SERun} (hr : Ready s c x []) (hrun : (s.ctx c x).se.run = some r) (hh : r.halted ≠ none)
    (hd : r.done = false) : exec (.segoDrop ic sc) s =
    .next (s.modCtx c x fun k => k.seWord ic s.clock fun e =>
      { e with run := some { r with done := true, owe := r.owe ++ [(seResult r.tag 5 r.moved, false)] } }) := by
  change execSegoDrop ic sc s = _
  simp only [execSegoDrop, sGuard_of_ready hr, State.curM_stream hr.cur, State.curX_stream hr.cur, State.setCore_stream hr.cur,
    State.core_stream hr.cur, State.modCtx_modCtx]
  refine congrArg Host.Outcome.next (State.modCtx_congr ?_)
  simp only [Function.comp, hrun, Option.isSome_iff_ne_none.2 hh, hd, Bool.not_false, and_self, if_true]
  rfl

theorem exec_sepop {p : BitVec 5} {v : W64} {rest : List W64} (hr : Ready s c x (pairRegs p)) (hres : (s.ctx c x).se.results = v :: rest) :
    exec (.sepop ic p) s = .next (s.modCtx c x fun k => k.sePopped ic s.clock p.toNat v rest) := by
  change execSepop ic p s = _
  simp only [execSepop, sGuard_of_ready hr, State.curM_stream hr.cur, State.curX_stream hr.cur, hres]
  rfl

theorem exec_sechain {sc : Scope} {p : BitVec 5} (hr : Ready s c x (pairRegs p)) (hal : ((s.ctx c x).sc.getD p.toNat).toNat % 64 = 0)
    (hu : (s.ctx c x).se.used < 16) : exec (.sechain ic sc p) s =
    .next (s.modCtx c x fun k => k.seWord ic s.clock fun e => { e with queue := e.queue ++
      [{ d := [], chain := some ((s.ctx c x).sc.getD p.toNat), scope := sc, rel := (s.ctx c x).reachOf .s s.seq }] }) := by
  change execSechain ic sc p s = _
  simp only [execSechain, State.curM_stream hr.cur, State.curX_stream hr.cur, hal, resOp, ne_eq, not_true_eq_false, decide_false,
    Bool.false_eq_true, if_false, sGuard_of_ready hr, State.setCore_stream hr.cur, not_le.2 hu, State.modCtx_modCtx]
  rfl

end

/-! ## Page requests (R211, R355, R357) -/

section
variable {s : State} {c x : Nat}

theorem prqPush_frame (s : State) (v : BitVec 256) : SameCore s (s.prqPush v) ∧ (s.prqPush v).pageReqs = s.pageReqs := by
  unfold State.prqPush State.prqWrite
  dsimp only
  split
  case isTrue => exact ⟨⟨rfl, rfl, rfl, rfl, rfl⟩, rfl⟩
  case isFalse =>
    split
    · exact ⟨⟨rfl, rfl, rfl, rfl, rfl⟩, rfl⟩
    · exact ⟨⟨rfl, rfl, rfl, rfl, rfl⟩, rfl⟩

theorem pageRequest_frame (s : State) (image entry va : Nat) (who : Option Asker) : SameCore s (s.pageRequest image entry va who) := by
  unfold State.pageRequest
  split
  case h_1 => exact ⟨rfl, rfl, rfl, rfl, rfl⟩
  case h_2 =>
    split
    · exact ⟨rfl, rfl, rfl, rfl, rfl⟩
    · refine SameCore.trans ?_ (prqPush_frame ..).1
      exact ⟨rfl, rfl, rfl, rfl, rfl⟩

/-- Who asks for a page is listed in a request for it, whether it is new or was there. -/
theorem pageRequest_asks (s : State) (image entry va : Nat) (a : Asker) :
    ∃ r ∈ (s.pageRequest image entry va (some a)).pageReqs, r.image = image ∧ r.entry = entry ∧ a ∈ r.askers := by
  unfold State.pageRequest
  split
  case h_1 q hq =>
    have hfor := List.find?_some hq
    simp only [decide_eq_true_eq] at hfor
    exact ⟨_, List.mem_map.2 ⟨q, List.mem_of_find?_eq_some hq, if_pos rfl⟩, hfor.1, hfor.2,
      List.mem_append_right _ (List.mem_singleton_self a)⟩
  case h_2 =>
    split
    case isTrue => exact ⟨_, List.mem_append_right _ (List.mem_singleton_self _), rfl, rfl, List.mem_singleton_self a⟩
    case isFalse =>
      dsimp only
      rw [(prqPush_frame ..).2]
      exact ⟨_, List.mem_append_right _ (List.mem_singleton_self _), rfl, rfl, List.mem_singleton_self a⟩

/-- A notification changes neither the results nor the claims. -/
theorem Ctx.notify_se (k : Ctx) (tag : BitVec 16) : (k.notify tag).sc = k.sc ∧ (k.notify tag).se.results = k.se.results ∧
    (k.notify tag).se.claims = k.se.claims := by
  unfold Ctx.notify
  split
  · exact ⟨rfl, rfl, rfl⟩
  · exact ⟨rfl, rfl, rfl⟩

/-- The answer to a page request takes one claim and pushes one result. -/
theorem Ctx.pageAnswer_se (k : Ctx) (tag : BitVec 16) (notify : Bool) (status value : Nat) :
    (k.pageAnswer tag notify status value).sc = k.sc ∧
      (k.pageAnswer tag notify status value).se.results = k.se.results ++ [seResult tag status value] ∧
      (k.pageAnswer tag notify status value).se.claims = k.se.claims - 1 := by
  unfold Ctx.pageAnswer
  dsimp only
  split
  · exact Ctx.notify_se ..
  · exact ⟨rfl, rfl, rfl⟩

/-- A context whose RQPAGE has issued and claimed a result slot. -/
def Ctx.claimed (k : Ctx) (ic : BitVec 2) (mtc : Nat) : Ctx := k.seWord ic mtc fun e => { e with claims := e.claims + 1 }

/-- Who asks by an RQPAGE whose operand is w. -/
def rqAsker (s : State) (c x : Nat) (w : W32) : Asker :=
  { coord := c, ctx := x, gen := (s.ctx c x).gen, tagc := w.extractLsb' 16 16, notify := w.getLsbD 0 }

variable {ic : BitVec 2} {ra : BitVec 5} {rb : BitVec 6} {e o z : Nat}

theorem exec_rqpage (hr : Ready s c x (rb.toNat :: pairRegs ra)) (he : vaEntry ((s.ctx c x).sc.getD ra.toNat).toNat = some (e, o, z))
    (hw : ((s.ctx c x).sc.get rb.toNat).toNat / 2 % 2 ^ 15 = 0) (hroom : (s.ctx c x).se.results.length + (s.ctx c x).se.claims < 16) :
    exec (.rqpage ic ra rb) s = if eRes (tgetD (s.mdw c).window e 0) then
        .next (s.modCtx c x fun k => (k.claimed ic s.clock).pageAnswer (((s.ctx c x).sc.get rb.toNat).extractLsb' 16 16)
          (((s.ctx c x).sc.get rb.toNat).getLsbD 0) 0 0)
      else .next ((s.modCtx c x fun k => k.claimed ic s.clock).pageRequest ((s.mdw c).imageOf e) e ((s.ctx c x).sc.getD ra.toNat).toNat
        (some (rqAsker s c x ((s.ctx c x).sc.get rb.toNat)))) := by
  have hw' : getField ((s.ctx c x).sc.get rb.toNat) 1 15 = 0 := hw
  have hctx : (s.mdw c).ctx x = s.ctx c x := rfl
  change execRqpage ic ra rb s = _
  simp only [execRqpage, State.curM_stream hr.cur, State.curX_stream hr.cur, hctx, hw', resOp, ne_eq, not_true_eq_false, decide_false,
    Bool.false_eq_true, if_false, sGuard_of_ready hr, he, not_le.2 hroom, State.setCore_stream hr.cur, State.modCtx_modCtx]
  rfl

/-- The result entry of a page that is resident: the tag, with status and value 0. -/
theorem seResult_resident (w : W32) : seResult (w.extractLsb' 16 16) 0 0 = BitVec.ofNat 64 (w.toNat / 2 ^ 16 % 2 ^ 16 * 2 ^ 48) := by
  rw [seResult, BitVec.extractLsb'_toNat, Nat.shiftRight_eq_div_pow, Nat.zero_mul, Nat.zero_mod, Nat.add_zero]

end

end Sys2Proof.Machine

namespace Sys2Proof

open Sys2Proof.Machine

/-- Settles O12: each word changes its own context's stream engine, whose state after it the lemmas above give; RQPAGE of a page that is not
resident also leaves a request that lists its context. -/
theorem streamEngineWords : Obligations.StreamEngineWords := by
  unfold Obligations.StreamEngineWords
  refine ⟨?engine, ?page⟩
  case engine =>
    intro s c x ic n p sc hr hh k se v
    have hcur : s.cur = .stream c x .s := hr.cur
    have hbare : Ready s c x [] := ⟨hcur, hh, hr.plain⟩
    refine ⟨?sew, fun hu => ?sego, fun r hrun hhalt hdone => ⟨?resume, ?drop⟩, fun e rest hres => ?sepop, fun hal hu => ?sechain⟩
    case sew =>
      obtain ⟨t, hex, hadv, hsame, honly, hse⟩ := seWord_completes hcur (exec_sew (ic := ic) (n := n) hr)
      refine ⟨t, hex, hadv, hsame, honly, ?_, fun i hi => ?_, ?_⟩
      · rw [hse]
        exact tgetD_tputD_self ..
      · rw [hse]
        exact tgetD_tputD_ne _ _ _ _ hi
      · rw [hse]
    case sego =>
      obtain ⟨t, hex, hadv, hsame, honly, hse⟩ := seWord_completes hcur (exec_sego (ic := ic) (sc := sc) hbare hu)
      exact ⟨t, hex, hadv, hsame, honly, _, congrArg SEState.queue hse, rfl, rfl⟩
    case resume => exact seWord_completes hcur (exec_segoResume hbare hrun hhalt hdone)
    case drop => exact seWord_completes hcur (exec_segoDrop hbare hrun hhalt hdone)
    case sepop =>
      obtain ⟨hadv, hgets⟩ := modCtx_issues_pair (ic := ic) hcur (p := p.toNat) (v := e) (f := fun k => k.sePopped ic s.clock p.toNat e rest) rfl
      exact ⟨_, exec_sepop hr hres, hadv, hgets, onlyCtx_modCtx .., congrArg Ctx.se (State.modCtx_ctx ..)⟩
    case sechain =>
      obtain ⟨t, hex, hadv, hsame, honly, hse⟩ := seWord_completes hcur (exec_sechain (ic := ic) (sc := sc) hr hal hu)
      exact ⟨t, hex, hadv, hsame, honly, _, congrArg SEState.queue hse, rfl⟩
  case page =>
    intro s c x ic ra rb e o z hr k w he hw hroom
    have hex := exec_rqpage (ic := ic) hr he hw hroom
    refine ⟨fun hres => ?resident, fun hres => ?asked⟩
    case resident =>
      obtain ⟨hsc, hresults, hclaims⟩ := (k.claimed ic s.clock).pageAnswer_se (w.extractLsb' 16 16) (w.getLsbD 0) 0 0
      obtain ⟨hadv, hsame, honly, hctx⟩ := (SameCore.refl (s.modCtx c x fun k =>
        (k.claimed ic s.clock).pageAnswer (w.extractLsb' 16 16) (w.getLsbD 0) 0 0)).issues hr.cur (ic := ic) hsc
      rw [if_pos hres] at hex
      refine ⟨_, hex, hadv, hsame, honly, ?_, ?_⟩
      · rw [hctx, hresults, seResult_resident]
        rfl
      · rw [hctx, hclaims]
        exact Nat.add_sub_cancel ..
    case asked =>
      obtain ⟨hadv, hsame, honly, hctx⟩ := (pageRequest_frame (s.modCtx c x fun k => k.claimed ic s.clock) ((s.mdw c).imageOf e) e
        (k.sc.getD ra.toNat).toNat (some (rqAsker s c x w))).issues hr.cur (ic := ic) rfl
      obtain ⟨r, hr', himage, hentry, hasker⟩ := pageRequest_asks (s.modCtx c x fun k => k.claimed ic s.clock) ((s.mdw c).imageOf e) e
        (k.sc.getD ra.toNat).toNat (rqAsker s c x w)
      rw [hres] at hex
      exact ⟨_, hex, hadv, hsame, honly, by rw [hctx]; rfl, by rw [hctx]; rfl, r, hr', himage, hentry, _, hasker, rfl, rfl, rfl⟩

end Sys2Proof
end

section
/-! SUPPORT. Requests to a sync engine (O14, O15, O17): the one request that a word sends to the home engine of its line, and what the words
that send it and go on, and those that stay for its answer, leave of their context. -/
namespace Sys2Proof.Machine

/-! ## The request (R228, R396) -/

section
variable {s t u v : State} {c x : Nat} {p : Part} {r : SyncReq}

theorem State.modEng_eng_ne (s : State) {d j : Nat} (f : SyncEngine → SyncEngine) (h : j ≠ d) : (s.modEng d f).eng j = s.eng j :=
  tgetD_tput_ne _ _ _ h

theorem State.eng_congr (h : t.engines = s.engines) (d : Nat) : t.eng d = s.eng d := by rw [State.eng, h, State.eng]

/-- A request sent in one state is sent in another with the same engines in the same cycle. -/
theorem sends_congr (h : Sends s t p c x r) (hs : u.engines = s.engines) (hg : u.gtc = s.gtc) (ht : v.engines = t.engines) :
    Sends u v p c x r where
  reqs := by rw [State.eng_congr ht, State.eng_congr hs, h.reqs]
  lines := fun d => by rw [State.eng_congr ht, State.eng_congr hs, h.lines]
  other := fun d hd => by rw [State.eng_congr ht, State.eng_congr hs, h.other d hd]
  place := h.place
  sender := h.sender
  later := hg ▸ h.later

theorem transit_pos (die home : Nat) : 0 < transit die home := by
  unfold transit
  split <;> decide

/-- An engine with a request more. -/
def SyncEngine.take (e : SyncEngine) (r : SyncReq) : SyncEngine := { e with reqs := e.reqs ++ [r] }

/-- A request as it leaves context x of meadow c. -/
def State.sentReq (s : State) (c x id : Nat) (op : SyncOp) (p : Part) (sc : Scope) (rel : Option Reach) (ring : List Part) : SyncReq :=
  { id := id, op := op, va := p.va, pa := p.pa, key := p.key, scope := sc, coord := c, ctx := x, region := (s.mdw c).region.getD 0, kind := p.kind,
    reach := (s.ctx c x).reachOf .s id, rel := rel, ring := ring, at_ := s.gtc + transit (c / 256) (homeDie p.va) + Config.excess s.fresh }

theorem send_eq (s : State) (c x id : Nat) (op : SyncOp) (p : Part) (sc : Scope) (rel : Option Reach) (ring : List Part) :
    s.send c x id op p sc rel ring = s.freshIx.2.modEng (homeDie p.va) fun e => e.take (s.sentReq c x id op p sc rel ring) := rfl

/-- A request with its identifier, operation and release leaves for the home engine of its line, and no meadow, key, byte or core changes. -/
theorem send_gives (s : State) (c x id : Nat) (op : SyncOp) (p : Part) (sc : Scope) (rel : Option Reach) (ring : List Part) :
    ∃ r, SameCore s (s.send c x id op p sc rel ring) ∧ Sends s (s.send c x id op p sc rel ring) p c x r ∧ r.id = id ∧ r.op = op ∧ r.rel = rel := by
  rw [send_eq]
  refine ⟨_, ⟨rfl, rfl, rfl, rfl, rfl⟩, ⟨congrArg SyncEngine.reqs (State.modEng_eng ..), fun d => ?lines, fun d hd => State.modEng_eng_ne _ _ hd,
    ⟨rfl, rfl, rfl⟩, ⟨rfl, rfl, rfl⟩, ?later⟩, rfl, rfl, rfl⟩
  case lines =>
    by_cases hd : d = homeDie p.va
    · rw [hd, State.modEng_eng]
      rfl
    · rw [State.modEng_eng_ne _ _ hd]
      rfl
  case later =>
    have := transit_pos (c / 256) (homeDie p.va)
    simp only [State.sentReq]
    omega

end

/-! ## Words that send a request and go on (R231, R234, R236, R241) -/

/-- A context whose word has issued. -/
def Ctx.goneOn (k : Ctx) (ic : BitVec 2) (mtc : Nat) : Ctx := { k with sc := k.sc.advance ic mtc }

/-- A context whose return queue has an entry more. -/
def Ctx.addSlot (k : Ctx) (id : Nat) : Ctx := { k with arq := k.arq ++ [{ id := id }] }

/-- The word i issues, its one request r is sent to the engine of part p with an operation that may name it, and its context's return queue
takes an entry for it where the word has a slot. -/
def GoesOn (s : State) (i : Instr) (c x : Nat) (ic : BitVec 2) (p : Part) (op : Nat → SyncOp) (slot rel : Bool) : Prop :=
  ∃ t r, exec i s = .next t ∧ Advanced s t ic ∧ regsSame s t ∧ OnlyCtx s t c x ∧ Sends s t p c x r ∧ r.op = op r.id ∧
    (rel = true → r.rel ≠ none) ∧ (t.ctx c x).arq = if slot then (s.ctx c x).arq ++ [{ id := r.id }] else (s.ctx c x).arq

section
variable {s : State} {c x : Nat} {ic : BitVec 2} {i : Instr} {p : Part} {ps : List Part}

theorem setCore_advance (hcur : s.cur = .stream c x .s) :
    s.nextSeq.2.setCore ((s.ctx c x).sc.advance ic s.clock) = s.nextSeq.2.modCtx c x fun k => k.goneOn ic s.clock := by
  rw [State.setCore_stream (s := s.nextSeq.2) hcur]
  exact State.modCtx_congr rfl

theorem sameCore_nextSeq (s : State) : SameCore s s.nextSeq.2 := ⟨rfl, rfl, rfl, rfl, rfl⟩

theorem goesOn_of_syncGo {align bytes : Nat} {want : Want} {slot rel : Bool} {op : Nat → SyncOp} {sc : Scope} {ra : BitVec 5}
    (hcur : s.cur = .stream c x .s) (hi : exec i s = syncGo align bytes want slot rel op sc ic ra s)
    (hroom : slot = true → (s.ctx c x).arq.length < 32) (hal : ((s.ctx c x).sc.getD ra.toNat).toNat % align = 0)
    (hacc : s.access (s.mdw c) want [(((s.ctx c x).sc.getD ra.toNat).toNat, bytes)] = .ok (p :: ps)) :
    GoesOn s i c x ic p op slot rel := by
  obtain ⟨r, hsame, hsends, hid, hop, hrel⟩ := send_gives (s.nextSeq.2.modCtx c x fun k => k.goneOn ic s.clock) c x s.seq (op s.seq) p sc
    (if rel then some ((s.ctx c x).reachOf .s s.seq) else none) []
  have hsent := ((sameCore_nextSeq s).modCtx (c := c) (x := x) fun k => k.goneOn ic s.clock).trans hsame
  have hrel' : rel = true → r.rel ≠ none := fun h => by rw [hrel, if_pos h]; simp
  simp only [syncGo, State.curM_stream hcur, State.curX_stream hcur, hal, hacc, ne_eq, not_true_eq_false, if_false, setCore_advance hcur] at hi
  cases slot with
  | false =>
    obtain ⟨hadv, hregs, honly, hctx⟩ := hsent.issues (ic := ic) hcur rfl
    have harq := congrArg Ctx.arq hctx
    exact ⟨_, r, hi, hadv, hregs, honly, sends_congr hsends rfl rfl rfl, by rw [hop, hid], hrel', harq⟩
  | true =>
    obtain ⟨hadv, hregs, honly, hctx⟩ := (hsent.modCtx_trans (.refl (State.modCtx _ c x fun k => k.addSlot s.seq))).issues (ic := ic) hcur rfl
    rw [decide_eq_false (not_le.2 (hroom rfl))] at hi
    refine ⟨_, r, hi, hadv, hregs, honly, sends_congr hsends rfl rfl rfl, by rw [hop, hid], hrel', ?_⟩
    rw [hid]
    exact congrArg Ctx.arq hctx

/-! ## Atomics and reductions (R231-R234) -/

/-- A word that no register keeps and that its task does not refuse has its meaning behind the guard. -/
theorem exec_of_sGuard {regs : List Nat} {k : Res} (hr : Ready s c x regs) (hi : exec i s = sGuard s regs none k) : exec i s = k := by
  rw [hi, sGuard_of_ready hr]

/-- The ATOM words with the numbers of their operations. -/
def atomWords (ic : BitVec 2) (sg wide : Bool) (sc : Scope) (ra : BitVec 5) (rb : BitVec 6) : List (Instr × Nat) :=
  [(.atomAdd ic sg wide sc ra rb, 0), (.atomAnd ic sg wide sc ra rb, 1), (.atomOr ic sg wide sc ra rb, 2), (.atomXor ic sg wide sc ra rb, 3),
   (.atomMin ic sg wide sc ra rb, 4), (.atomMax ic sg wide sc ra rb, 5), (.atomSwap ic sg wide sc ra rb, 6)]

/-- The RED words with the numbers of their operations. -/
def redWords (ic : BitVec 2) (sg wide : Bool) (sc : Scope) (ra : BitVec 5) (rb : BitVec 6) : List (Instr × Nat) :=
  [(.redAdd ic sg wide sc ra rb, 0), (.redAnd ic sg wide sc ra rb, 1), (.redOr ic sg wide sc ra rb, 2), (.redXor ic sg wide sc ra rb, 3),
   (.redMin ic sg wide sc ra rb, 4), (.redMax ic sg wide sc ra rb, 5)]

/-- The FRED words with the numbers of their operations. -/
def fredWords (ic : BitVec 2) (ty : FredType) (sc : Scope) (ra : BitVec 5) (rb : BitVec 6) : List (Instr × Nat) :=
  [(.fredAdd ic ty sc ra rb, 0), (.fredMin ic ty sc ra rb, 4), (.fredMax ic ty sc ra rb, 5)]

section
variable {sg wide : Bool} {sc : Scope} {ty : FredType} {ra rd : BitVec 5} {rb : BitVec 6} {f : Instr × Nat}

theorem exec_atomWord (hf : f ∈ atomWords ic sg wide sc ra rb) : exec f.1 s = doAtom f.2 true ic sg wide sc ra rb s := by
  fin_cases hf <;> rfl

theorem exec_redWord (hf : f ∈ redWords ic sg wide sc ra rb) : exec f.1 s = doAtom f.2 false ic sg wide sc ra rb s := by
  fin_cases hf <;> rfl

theorem exec_fredWord (hf : f ∈ fredWords ic ty sc ra rb) : exec f.1 s = doFred f.2 ic ty sc ra rb s := by
  fin_cases hf <;> rfl

theorem goesOn_of_doAtom {op : Nat} {ret : Bool} (hr : Ready s c x (atomUses wide ra rb)) (hi : exec i s = doAtom op ret ic sg wide sc ra rb s)
    (hroom : ret = true → (s.ctx c x).arq.length < 32) (hal : ((s.ctx c x).sc.getD ra.toNat).toNat % (if wide then 8 else 4) = 0)
    (hacc : s.access (s.mdw c) .atomic [(((s.ctx c x).sc.getD ra.toNat).toNat, if wide then 8 else 4)] = .ok (p :: ps)) :
    GoesOn s i c x ic p (fun id => .atom op sg wide (atomArg (s.ctx c x).sc wide rb) (if ret then some id else none)) ret false := by
  rw [← State.core_stream hr.cur]
  exact goesOn_of_syncGo hr.cur (exec_of_sGuard (regs := atomRegs wide ra rb) hr hi) hroom hal hacc

/-- ACAS sends its compare and its new operand, a register each, or a pair each when the word is wide. -/
theorem goesOn_acas (hr : Ready s c x (pairRegs ra ++ if wide then [rb.toNat, rb.toNat + 1, rb.toNat + 2, rb.toNat + 3] else [rb.toNat, rb.toNat + 1]))
    (hroom : (s.ctx c x).arq.length < 32) (hal : ((s.ctx c x).sc.getD ra.toNat).toNat % (if wide then 8 else 4) = 0)
    (hacc : s.access (s.mdw c) .atomic [(((s.ctx c x).sc.getD ra.toNat).toNat, if wide then 8 else 4)] = .ok (p :: ps)) :
    GoesOn s (.acas ic sg wide sc ra rb) c x ic p (fun id => .cas wide
      (if wide then (s.ctx c x).sc.getD (rb.toNat / 2) else ((s.ctx c x).sc.get rb.toNat).setWidth 64)
      (if wide then (s.ctx c x).sc.getD (rb.toNat / 2 + 1) else ((s.ctx c x).sc.get (rb.toNat + 1)).setWidth 64) id) true false := by
  rw [← State.core_stream hr.cur]
  exact goesOn_of_syncGo hr.cur (exec_of_sGuard hr rfl) (fun _ => hroom) hal hacc

theorem goesOn_of_doFred {op : Nat} (hr : Ready s c x (pairRegs ra ++ [rb.toNat])) (hi : exec i s = doFred op ic ty sc ra rb s)
    (hal : ((s.ctx c x).sc.getD ra.toNat).toNat % 4 = 0)
    (hacc : s.access (s.mdw c) .atomic [(((s.ctx c x).sc.getD ra.toNat).toNat, 4)] = .ok (p :: ps)) :
    GoesOn s i c x ic p (fun _ => .fred op ty ((s.ctx c x).sc.get rb.toNat)) false false := by
  rw [← State.core_stream hr.cur]
  exact goesOn_of_syncGo hr.cur (exec_of_sGuard hr hi) nofun hal hacc

/-- A context whose APOP has taken the head's value and left the rest of the return queue. -/
def Ctx.arqPopped (k : Ctx) (ic : BitVec 2) (mtc p : Nat) (v : W64) (rest : List ArqSlot) : Ctx :=
  { k with arq := rest, sc := (k.sc.advance ic mtc).pushD p (mtc + 1) v }

theorem exec_apop {id : Nat} {v tval : W64} {rest : List ArqSlot} (hr : Ready s c x (pairRegs rd))
    (harq : (s.ctx c x).arq = { id := id, val := some v, mark := none, tval := tval } :: rest) :
    exec (.apop ic rd) s = .next (s.modCtx c x fun k => k.arqPopped ic s.clock rd.toNat v rest) := by
  change execApop ic rd s = _
  simp only [execApop, State.curM_stream hr.cur, State.curX_stream hr.cur, harq, sGuard_of_ready hr]
  exact congrArg Host.Outcome.next (State.modCtx_congr rfl)

end

end

end Sys2Proof.Machine

namespace Sys2Proof

open Sys2Proof.Machine

/-- Settles O14: each word but APOP is one request that is sent while the S-stream goes on, as goesOn_of_syncGo says once for all of them. -/
theorem atomicWords : Obligations.AtomicWords := by
  unfold Obligations.AtomicWords
  refine ⟨?atomics, ?others⟩
  case atomics =>
    intro s c x ic sg wide sc ra rb p ps hr k n va v hal hacc
    refine ⟨fun hroom f hf => ?atom, fun f hf => ?red⟩
    case atom =>
      obtain ⟨t, r, hex, hadv, hregs, honly, hsends, hop, -, harq⟩ :=
        goesOn_of_doAtom hr (exec_atomWord (s := s) (f := f) hf) (fun _ => hroom) hal hacc
      exact ⟨t, r, hex, hadv, hregs, honly, hsends, hop, harq⟩
    case red =>
      obtain ⟨t, r, hex, hadv, hregs, honly, hsends, hop, -, harq⟩ := goesOn_of_doAtom hr (exec_redWord (s := s) (f := f) hf) nofun hal hacc
      exact ⟨t, r, hex, hadv, hregs, honly, hsends, hop, harq⟩
  case others =>
    intro s c x ic sg wide sc ty ra rd rb p ps k n va b
    refine ⟨fun hr hal hacc hroom => ?acas, fun hr hal hacc f hf => ?fred, fun i v tval rest hr harq => ?apop⟩
    case acas =>
      obtain ⟨t, r, hex, hadv, hregs, honly, hsends, hop, -, harq⟩ := goesOn_acas hr hroom hal hacc
      exact ⟨t, r, hex, hadv, hregs, honly, hsends, harq, hop⟩
    case fred =>
      obtain ⟨t, r, hex, hadv, hregs, honly, hsends, hop, -, harq⟩ := goesOn_of_doFred hr (exec_fredWord (s := s) (f := f) hf) hal hacc
      exact ⟨t, r, hex, hadv, hregs, honly, hsends, hop, harq⟩
    case apop =>
      obtain ⟨hadv, hgets⟩ := modCtx_issues_pair (ic := ic) hr.cur (p := rd.toNat) (v := v)
        (f := fun k => k.arqPopped ic s.clock rd.toNat v rest) rfl
      exact ⟨_, exec_apop hr harq, hadv, hgets, onlyCtx_modCtx .., congrArg Ctx.arq (State.modCtx_ctx ..)⟩

end Sys2Proof
end

section
/-! SUPPORT. Semaphores, barriers, launches and declarations (O15, O17): words that hold their S-stream for the answer to their request. -/
namespace Sys2Proof.Machine

section
variable {s t : State} {c x : Nat} {ic : BitVec 2} {i : Instr} {p : Part} {ps : List Part}

/-- A word that changes its context, whose core stays, changes nothing else. -/
theorem SameCore.stays {f : Ctx → Ctx} (e : SameCore (s.modCtx c x f) t) (hcur : s.cur = .stream c x .s) (hf : (f (s.ctx c x)).sc = (s.ctx c x).sc) :
    regsSame s t ∧ OnlyCtx s t c x ∧ t.ctx c x = f (s.ctx c x) := by
  have hctx : t.ctx c x = f (s.ctx c x) := (e.ctx c x).trans (State.modCtx_ctx ..)
  have hcore : t.core = s.core := by rw [State.core_stream (e.cur.trans hcur), hctx, hf, State.core_stream hcur]
  exact ⟨regsSame_core (by rw [hcore]) (by rw [hcore]), onlyCtx_trans (onlyCtx_modCtx ..) (e.onlyCtx c x), hctx⟩

/-! ## Words that wait for an answer (R237, R239, R241) -/

/-- A context whose S-stream waits for an answer, or for none. -/
def Ctx.waitsFor (k : Ctx) (w : Option SWait) : Ctx := { k with sWait := w }

/-- The word i sends its one request r to the engine of part p, with an operation that may name it, and its context waits for the answer. -/
def Holds (s : State) (i : Instr) (c x : Nat) (p : Part) (op : Nat → SyncOp) (rel : Bool) (wait : Nat → SWait) : Prop :=
  ∃ t r, exec i s = .next t ∧ regsSame s t ∧ OnlyCtx s t c x ∧ Sends s t p c x r ∧ r.op = op r.id ∧ (rel = true → r.rel ≠ none) ∧
    t.ctx c x = (s.ctx c x).waitsFor (some (wait r.id))

/-- Any state with the core and the engines that a request and the wait for it leave is one in which the word holds. -/
theorem holds_of_sent {u : State} {op : Nat → SyncOp} {rel : Bool} {sc : Scope} {reach : Reach} {ring : List Part} {wait : Nat → SWait}
    (hcur : s.cur = .stream c x .s) (he : u.engines = s.engines) (hg : u.gtc = s.gtc) (hi : exec i s = .next t)
    (hcore : SameCore (s.modCtx c x fun k => k.waitsFor (some (wait s.seq))) t)
    (heng : t.engines = (u.send c x s.seq (op s.seq) p sc (if rel then some reach else none) ring).engines) :
    Holds s i c x p op rel wait := by
  obtain ⟨r, -, hsends, hid, hop, hrel⟩ := send_gives u c x s.seq (op s.seq) p sc (if rel then some reach else none) ring
  obtain ⟨hregs, honly, hctx⟩ := hcore.stays hcur rfl
  refine ⟨t, r, hi, hregs, honly, sends_congr hsends he.symm hg.symm heng, by rw [hop, hid], fun h => ?_, by rw [hctx, hid]⟩
  rw [hrel, if_pos h]
  exact Option.some_ne_none _

section
variable {bytes va : Nat} {want : Want} {sc : Scope} {op : Nat → SyncOp}

theorem holds_of_syncWait (hcur : s.cur = .stream c x .s) (hi : exec i s = syncWait ic none bytes want va sc false op none s)
    (hn : (s.ctx c x).sWait = none) (hacc : s.access (s.mdw c) want [(va, bytes)] = .ok (p :: ps)) :
    Holds s i c x p op false fun id => { id := id, pc := (s.ctx c x).sc.pc } := by
  simp only [syncWait, State.curM_stream hcur, State.curX_stream hcur, hn, hacc] at hi
  refine holds_of_sent (u := s.nextSeq.2) (reach := {}) hcur rfl rfl hi ?_ rfl
  obtain ⟨r, hsame, -⟩ := send_gives s.nextSeq.2 c x s.seq (op s.seq) p sc none []
  exact ((sameCore_nextSeq s).trans hsame).modCtx _

theorem issues_of_syncWait {check : Option (Nat × W64)} {w : SWait} {v : W64} (hcur : s.cur = .stream c x .s)
    (hi : exec i s = syncWait ic check bytes want va sc false op none s) (hw : (s.ctx c x).sWait = some w) (ha : w.answer = some (.ok v)) :
    ∃ t, exec i s = .next t ∧ Advanced s t ic ∧ regsSame s t ∧ OnlyCtx s t c x ∧ (t.ctx c x).sWait = none := by
  simp only [syncWait, State.curM_stream hcur, State.curX_stream hcur, hw, ha] at hi
  have hframe := SameCore.refl ((s.setCore ((s.ctx c x).sc.advance ic s.clock)).modCtx c x fun k => k.waitsFor none)
  obtain ⟨hadv, hregs, honly, hctx⟩ := (hframe.after_setCore hcur).issues (ic := ic) hcur rfl
  exact ⟨_, hi, hadv, hregs, honly, congrArg Ctx.sWait hctx⟩

/-- A waiting word at an aligned address sends its request and stays, and issues once its answer is there. -/
def WaitsAligned (s : State) (i : Instr) (c x : Nat) (ic : BitVec 2) (ps : List Part) (p : Part) (va align bytes : Nat) (want : Want) (op : Nat → SyncOp) : Prop :=
  ((s.ctx c x).sWait = none → va % align = 0 → s.access (s.mdw c) want [(va, bytes)] = .ok (p :: ps) →
    ∃ t r, exec i s = .next t ∧ regsSame s t ∧ OnlyCtx s t c x ∧ Sends s t p c x r ∧ r.op = op r.id ∧ (t.ctx c x).sc = (s.ctx c x).sc ∧
      (t.ctx c x).sWait = some { id := r.id, pc := (s.ctx c x).sc.pc }) ∧
  (∀ w u, (s.ctx c x).sWait = some w → w.answer = some (.ok u) → va % align = 0 →
    ∃ t, exec i s = .next t ∧ Advanced s t ic ∧ regsSame s t ∧ OnlyCtx s t c x ∧ (t.ctx c x).sWait = none)

theorem waitsAligned_of_syncWait {align : Nat} (hcur : s.cur = .stream c x .s)
    (hi : va % align = 0 → exec i s = syncWait ic none bytes want va sc false op none s) : WaitsAligned s i c x ic ps p va align bytes want op := by
  refine ⟨fun hn hal hacc => ?_, fun w u hw ha hal => issues_of_syncWait hcur (hi hal) hw ha⟩
  obtain ⟨t, r, hex, hregs, honly, hsends, hop, -, hctx⟩ := holds_of_syncWait hcur (hi hal) hn hacc
  exact ⟨t, r, hex, hregs, honly, hsends, hop, by rw [hctx]; rfl, by rw [hctx]; rfl⟩

theorem alignCheck_of_aligned {va n : Nat} (h : va % n = 0) : alignCheck va n = none := if_neg (not_not.2 h)

/-- A field that breaks nothing raises no RES_OPERAND. -/
theorem resOp_of_not {q : Prop} [Decidable q] (h : ¬ q) (bit : Nat) : resOp (decide q) bit = none := by
  rw [resOp, decide_eq_false h]
  rfl

end

/-! ## The words (R236-R241) -/

section
variable {sc : Scope} {ra : BitVec 5} {rb : BitVec 6}

/-- A semaphore post or a barrier word with an operand register. -/
theorem goesOn_of_operand {align : Nat} {rel : Bool} {op : W32 → SyncOp} (hr : Ready s c x (pairRegs ra ++ [rb.toNat]))
    (hi : exec i s = sGuard s (pairRegs ra ++ [rb.toNat]) none
      (syncGo align align .atomic false rel (fun _ => op (s.core.get rb.toNat)) sc ic ra s))
    (hal : ((s.ctx c x).sc.getD ra.toNat).toNat % align = 0)
    (hacc : s.access (s.mdw c) .atomic [(((s.ctx c x).sc.getD ra.toNat).toNat, align)] = .ok (p :: ps)) :
    GoesOn s i c x ic p (fun _ => op ((s.ctx c x).sc.get rb.toNat)) false rel := by
  rw [← State.core_stream hr.cur]
  exact goesOn_of_syncGo hr.cur (exec_of_sGuard hr hi) nofun hal hacc

/-- BARV and BARD: an arrival, with a slot of the return queue for the phase. -/
theorem goesOn_of_arrival {drop : Bool} (hr : Ready s c x (pairRegs ra))
    (hi : exec i s = sGuard s (pairRegs ra) none (syncGo 64 64 .atomic true true (fun id => .barv drop id) sc ic ra s))
    (hroom : (s.ctx c x).arq.length < 32) (hal : ((s.ctx c x).sc.getD ra.toNat).toNat % 64 = 0)
    (hacc : s.access (s.mdw c) .atomic [(((s.ctx c x).sc.getD ra.toNat).toNat, 64)] = .ok (p :: ps)) :
    GoesOn s i c x ic p (fun id => .barv drop id) true true :=
  goesOn_of_syncGo hr.cur (exec_of_sGuard hr hi) (fun _ => hroom) hal hacc

theorem exec_bari_eq (h0 : 0 < (s.core.get rb.toNat).toNat) (h1 : (s.core.get rb.toNat).toNat < 65536) :
    exec (.bari ic sc ra rb) s = sGuard s (pairRegs ra ++ [rb.toNat]) none
      (syncGo 64 64 .atomic false false (fun _ => .bari ((s.core.get rb.toNat).setWidth 16)) sc ic ra s) := by
  have hlegal : ¬ (s.core.get rb.toNat = 0 ∨ 65535 < (s.core.get rb.toNat).toNat) := by
    rintro (h | h)
    · rw [h] at h0
      exact absurd h0 (by decide)
    · omega
  change execBari ic sc ra rb s = _
  rw [execBari, resOp_of_not hlegal]

variable {rc : BitVec 5}

theorem exec_semw_eq (hr : Ready s c x (pairRegs ra ++ pairRegs rc)) (hal : ((s.ctx c x).sc.getD ra.toNat).toNat % 4 = 0) :
    exec (.semw ic sc ra rc) s = syncWait ic none 4 { read := true, resident := true } ((s.ctx c x).sc.getD ra.toNat).toNat sc false
      (fun id => .semw ((s.ctx c x).sc.get (2 * rc.toNat)) ((s.ctx c x).sc.get (2 * rc.toNat + 1)).toNat id) none s := by
  change execSemw ic sc ra rc s = _
  rw [execSemw, sGuard_of_ready hr, State.core_stream hr.cur, alignCheck_of_aligned hal]

theorem exec_barw_eq (hr : Ready s c x (pairRegs ra ++ pairRegs rc)) (hal : ((s.ctx c x).sc.getD ra.toNat).toNat % 64 = 0) :
    exec (.barw ic sc ra rc) s = syncWait ic none 64 .atomic ((s.ctx c x).sc.getD ra.toNat).toNat sc false
      (fun id => .barw ((s.ctx c x).sc.get (2 * rc.toNat)) ((s.ctx c x).sc.get (2 * rc.toNat + 1)).toNat id) none s := by
  change execBarw ic sc ra rc s = _
  rw [execBarw, sGuard_of_ready hr, State.core_stream hr.cur, alignCheck_of_aligned hal]

theorem doWaitq_eq {space : Bool} (hr : Ready s c x (pairRegs ra ++ pairRegs rc)) (h0 : 0 < ((s.ctx c x).sc.get (2 * rc.toNat)).toNat)
    (h1 : ((s.ctx c x).sc.get (2 * rc.toNat)).toNat ≤ 2 ^ 23) (hal : ((s.ctx c x).sc.getD ra.toNat).toNat % 64 = 0) :
    doWaitq space ic sc ra rc s = syncWait ic none 64 { read := true, resident := true } ((s.ctx c x).sc.getD ra.toNat).toNat sc false
      (fun id => .waitq space ((s.ctx c x).sc.get (2 * rc.toNat)).toNat ((s.ctx c x).sc.get (2 * rc.toNat + 1)).toNat id) none s := by
  rw [doWaitq, State.core_stream hr.cur, resOp_of_not (by omega), resOp_of_not (by omega)]
  exact sGuard_of_ready hr _

end

/-! ## LNCH and HSPDECL (R247, R322) -/

/-- How the context of a word that has issued with its request numbered `id` waits for what s[rd] becomes. -/
def Ctx.issuedWait (k : Ctx) (ic : BitVec 2) (rd id : Nat) : SWait := { id := id, pc := k.sc.pc, issued := true, rd := rd, ic := ic }

theorem issueWait_eq (hcur : s.cur = .stream c x .s) (rd : Nat) :
    issueWait ic rd s.seq s.nextSeq.2 = s.nextSeq.2.modCtx c x fun k => k.waitsFor (some ((s.ctx c x).issuedWait ic rd s.seq)) := by
  rw [issueWait, State.curM_stream (s := s.nextSeq.2) hcur, State.curX_stream (s := s.nextSeq.2) hcur]
  exact State.modCtx_congr rfl

/-- A word that has issued with its request sent holds its stream for the answer. -/
theorem holds_of_issueWait {rd : Nat} {op : Nat → SyncOp} {rel : Bool} {sc : Scope} {reach : Reach} (hcur : s.cur = .stream c x .s)
    (hi : exec i s = .next ((issueWait ic rd s.seq s.nextSeq.2).send c x s.seq (op s.seq) p sc (if rel then some reach else none) [])) :
    Holds s i c x p op rel ((s.ctx c x).issuedWait ic rd) := by
  obtain ⟨r, hsame, -⟩ := send_gives (issueWait ic rd s.seq s.nextSeq.2) c x s.seq (op s.seq) p sc (if rel then some reach else none) []
  refine holds_of_sent (u := issueWait ic rd s.seq s.nextSeq.2) hcur rfl rfl hi ?_ rfl
  refine SameCore.trans ?_ hsame
  rw [issueWait_eq hcur]
  exact (sameCore_nextSeq s).modCtx _

section
variable {ra rb : BitVec 5} {rd rw : BitVec 6} {ip : List Part}

theorem holds_lnch (hr : Ready s c x (rd.toNat :: pairRegs ra ++ pairRegs rb)) (hn : (s.ctx c x).sWait = none)
    (ha : ((s.ctx c x).sc.getD ra.toNat).toNat % 64 = 0) (hring : ((s.ctx c x).sc.getD rb.toNat).toNat % 64 = 0)
    (himg : s.access (s.mdw c) { read := true, resident := true } [(((s.ctx c x).sc.getD ra.toNat).toNat, 64)] = .ok ip)
    (hacc : s.access (s.mdw c) .atomic [(((s.ctx c x).sc.getD rb.toNat).toNat, 64)] = .ok (p :: ps))
    (hown : s.ownReadWaits c x ip = false) (hclean : s.memClean = true) (hpoison : (s.readParts ip).2.1 = 0) :
    Holds s (.lnch ic rd ra rb) c x p (fun id => .lnch (BitVec.ofNat 512 (s.readParts ip).1) id) true ((s.ctx c x).issuedWait ic rd.toNat) := by
  have hscrub : s.scrubParts ip = s := if_pos hclean
  refine holds_of_issueWait (sc := .pkg) (reach := (s.ctx c x).reachOf .s s.seq) hr.cur ?_
  rw [State.ctx] at *
  change execLnch ic rd ra rb s = _
  simp only [execLnch, State.curM_stream hr.cur, State.curX_stream hr.cur, hn, resOp_of_not (not_not.2 ha), resOp_of_not (not_not.2 hring),
    Option.or_none, sGuard_of_ready hr, himg, hacc, hown, hscrub, hpoison, Option.isSome_none, Bool.false_eq_true, ne_eq, not_true_eq_false, if_false]
  rfl

theorem holds_hspdecl (hr : Ready s c x (rw.toNat :: pairRegs ra)) (hn : (s.ctx c x).sWait = none)
    (ha : ((s.ctx c x).sc.getD ra.toNat).toNat % 64 = 0) (hres : getField ((s.ctx c x).sc.get rw.toNat) 28 3 = 0)
    (hacc : s.access (s.mdw c) { read := true, write := true, resident := true } [(((s.ctx c x).sc.getD ra.toNat).toNat,
      if ((s.ctx c x).sc.get rw.toNat).getLsbD 31 then 64 else 64 * (getField ((s.ctx c x).sc.get rw.toNat) 0 16 + 1))] = .ok (p :: ps)) :
    Holds s (.hspdecl ic ra rw) c x p (fun id => .hspdecl ((s.ctx c x).sc.get rw.toNat) id) false ((s.ctx c x).issuedWait ic 0) := by
  refine holds_of_issueWait (sc := .pkg) (reach := {}) hr.cur ?_
  rw [State.ctx] at *
  change execHspdecl ic ra rw s = _
  simp only [execHspdecl, State.curM_stream hr.cur, State.curX_stream hr.cur, hn, resOp_of_not (not_not.2 ha), resOp_of_not (not_not.2 hres),
    Option.or_none, sGuard_of_ready hr, hacc, Option.isSome_none, Bool.false_eq_true, if_false]
  rfl

end

end

end Sys2Proof.Machine

namespace Sys2Proof

open Sys2Proof.Machine

/-- Settles O15: each word that posts is a request that is sent while the S-stream goes on, and each word that waits is one that is sent while
it stays. -/
theorem semaphoreAndBarrierWords : Obligations.SemaphoreAndBarrierWords := by
  unfold Obligations.SemaphoreAndBarrierWords
  refine ⟨?posts, ?waits⟩
  case posts =>
    intro s c x ic sc ra rb p ps hr hra k va v
    have hv : s.core.get rb.toNat = v := by rw [State.core_stream hr.cur]
    refine ⟨fun hal hacc => ?sems, fun hal hacc => ⟨fun h0 h1 => ?bari, ?barx, ?bart, fun hroom => ⟨?barv, ?bard⟩⟩⟩
    case sems =>
      obtain ⟨t, r, hex, hadv, hregs, honly, hsends, hop, hrel, -⟩ := goesOn_of_operand (i := .sems ic sc ra rb) (op := .sems) hr rfl hal hacc
      exact ⟨t, r, hex, hadv, hregs, honly, hsends, hop, hrel rfl⟩
    case bari =>
      obtain ⟨t, r, hex, hadv, hregs, honly, hsends, hop, -, -⟩ :=
        goesOn_of_operand (op := fun w => .bari (w.setWidth 16)) hr (exec_bari_eq (hv ▸ h0) (hv ▸ h1)) hal hacc
      exact ⟨t, r, hex, hadv, hregs, honly, hsends, hop⟩
    case barx =>
      obtain ⟨t, r, hex, hadv, hregs, honly, hsends, hop, -, -⟩ := goesOn_of_operand (i := .barx ic sc ra rb) (op := .barx) hr rfl hal hacc
      exact ⟨t, r, hex, hadv, hregs, honly, hsends, hop⟩
    case bart =>
      obtain ⟨t, r, hex, hadv, hregs, honly, hsends, hop, -, -⟩ := goesOn_of_operand (i := .bart ic sc ra rb) (op := .bart) hr rfl hal hacc
      exact ⟨t, r, hex, hadv, hregs, honly, hsends, hop⟩
    case barv =>
      obtain ⟨t, r, hex, hadv, hregs, honly, hsends, hop, -, harq⟩ := goesOn_of_arrival (i := .barv ic sc ra) hra rfl hroom hal hacc
      exact ⟨t, r, hex, hadv, hregs, honly, hsends, hop, harq⟩
    case bard =>
      obtain ⟨t, r, hex, hadv, hregs, honly, hsends, hop, -, harq⟩ := goesOn_of_arrival (i := .bard ic sc ra) hra rfl hroom hal hacc
      exact ⟨t, r, hex, hadv, hregs, honly, hsends, hop, harq⟩
  case waits =>
    intro s c x ic sc ra rb p ps hr k va v limit waits
    exact ⟨waitsAligned_of_syncWait hr.cur (exec_semw_eq hr), waitsAligned_of_syncWait hr.cur (exec_barw_eq hr), fun h0 h1 =>
      ⟨waitsAligned_of_syncWait hr.cur (doWaitq_eq hr h0 h1), waitsAligned_of_syncWait hr.cur (doWaitq_eq hr h0 h1)⟩⟩

/-- Settles O17: both words are requests that are sent while their context waits for what their register becomes. -/
theorem launchAndDeclareWords : Obligations.LaunchAndDeclareWords := by
  unfold Obligations.LaunchAndDeclareWords
  intro s c x ic rd ra rb rw ip p ps k a ring w hn
  refine ⟨fun hr ha hring himg hacc hown hclean hpoison => ?lnch, fun hr ha hres hacc => ?hspdecl⟩
  case lnch =>
    obtain ⟨t, r, hex, hregs, honly, hsends, hop, hrel, hctx⟩ := holds_lnch (ic := ic) hr hn ha hring himg hacc hown hclean hpoison
    exact ⟨t, r, hex, hregs, honly, hsends, hop, hrel rfl, congrArg Ctx.sWait hctx⟩
  case hspdecl =>
    have hfield : getField w 0 16 = w.toNat % 2 ^ 16 := getField_zero w 16
    obtain ⟨t, r, hex, hregs, honly, hsends, hop, -, hctx⟩ := holds_hspdecl (ic := ic) hr hn ha hres (hfield ▸ hacc)
    exact ⟨t, r, hex, hregs, honly, hsends, hop, congrArg Ctx.sWait hctx⟩

end Sys2Proof
end

section
/-! SUPPORT. User interrupts (O16): fields of UISTAT, and the exchange of s56 to s63 with their shadow copies. -/
namespace Sys2Proof.Machine

/-! ## Bits of a word with a field replaced -/

theorem getLsbD_setField {n : Nat} (v : BitVec n) (lo len u : Nat) {i : Nat} (hi : i < n) :
    (setField v lo len u).getLsbD i = if lo ≤ i ∧ i < lo + len then u.testBit (i - lo) else v.getLsbD i := by
  have hmask : (BitVec.ofNat n ((2 ^ len - 1) * 2 ^ lo)).getLsbD i = decide (lo ≤ i ∧ i < lo + len) := by
    rw [BitVec.getLsbD_ofNat, decide_eq_true hi, Bool.true_and, Nat.testBit_mul_two_pow, Nat.testBit_two_pow_sub_one, Bool.decide_and]
    by_cases h : lo ≤ i
    · simp only [h, decide_true, Bool.true_and]
      exact decide_eq_decide.2 (by omega)
    · simp [h]
  have hnew : (BitVec.ofNat n (u % 2 ^ len * 2 ^ lo)).getLsbD i = (decide (lo ≤ i ∧ i < lo + len) && u.testBit (i - lo)) := by
    rw [BitVec.getLsbD_ofNat, decide_eq_true hi, Bool.true_and, Nat.testBit_mul_two_pow, Nat.testBit_mod_two_pow, Bool.decide_and, Bool.and_assoc]
    by_cases h : lo ≤ i
    · simp only [h, decide_true, Bool.true_and]
      exact congrArg (· && _) (decide_eq_decide.2 (by omega))
    · simp [h]
  rw [setField, BitVec.getLsbD_or, BitVec.getLsbD_and, BitVec.getLsbD_not, hmask, hnew, decide_eq_true hi]
  by_cases h : lo ≤ i ∧ i < lo + len <;> simp [h]

/-- A part of a word that is the field replaced is its new value. -/
theorem extractLsb'_setField {n : Nat} (v : BitVec n) {lo len : Nat} (u : BitVec len) (h : lo + len ≤ n) :
    (setField v lo len u.toNat).extractLsb' lo len = u := by
  refine BitVec.eq_of_getLsbD_eq fun i hi => ?_
  rw [BitVec.getLsbD_extractLsb', decide_eq_true hi, Bool.true_and, getLsbD_setField _ _ _ _ (by omega), if_pos (by omega), Nat.add_sub_cancel_left]
  rfl

/-- A part of a word outside the field replaced stays. -/
theorem extractLsb'_setField_ne {n : Nat} (v : BitVec n) {lo len l k : Nat} (u : Nat) (h : l + k ≤ n) (hd : l + k ≤ lo ∨ lo + len ≤ l) :
    (setField v lo len u).extractLsb' l k = v.extractLsb' l k := by
  refine BitVec.eq_of_getLsbD_eq fun i hi => ?_
  rw [BitVec.getLsbD_extractLsb', BitVec.getLsbD_extractLsb', getLsbD_setField _ _ _ _ (by omega), if_neg (by omega)]

/-! ## The exchange of registers (R244, R245) -/

/-- Registers from 56 on after n of them have been set. -/
theorem get_foldl_set (k : SCore) (g : Nat → W32) (n i : Nat) :
    ((List.range n).foldl (fun c i => c.set (56 + i) (g i)) k).get (56 + i) = if i < n then g i else k.get (56 + i) := by
  induction n with
  | zero => rfl
  | succ n ih =>
    rw [List.range_succ, List.foldl_append, List.foldl_cons, List.foldl_nil]
    by_cases h : i = n
    · rw [h, SCore.get_set_self _ _ _ (by omega), if_pos (Nat.lt_succ_self n)]
    · rw [SCore.get_set_ne _ _ (by omega), ih]
      exact if_congr (by omega) rfl rfl

theorem get_foldl_set_below (k : SCore) (g : Nat → W32) (n : Nat) {r : Nat} (hr : r < 56) :
    ((List.range n).foldl (fun c i => c.set (56 + i) (g i)) k).get r = k.get r := by
  induction n with
  | zero => rfl
  | succ n ih => rw [List.range_succ, List.foldl_append, List.foldl_cons, List.foldl_nil, SCore.get_set_ne _ _ (by omega), ih]

theorem tgetD_foldl_tputD (t : Tab W32) (g : Nat → W32) (n i : Nat) :
    tgetD ((List.range n).foldl (fun t i => tputD t i (g i) 0) t) i 0 = if i < n then g i else tgetD t i 0 := by
  induction n with
  | zero => rfl
  | succ n ih =>
    rw [List.range_succ, List.foldl_append, List.foldl_cons, List.foldl_nil]
    by_cases h : i = n
    · rw [h, tgetD_tputD_self, if_pos (Nat.lt_succ_self n)]
    · rw [tgetD_tputD_ne _ _ _ _ h, ih]
      exact if_congr (by omega) rfl rfl

/-- From k to j, s56 to s63 and their shadow copies have changed places, and no register below them has changed. -/
structure Swapped (k j : Ctx) : Prop where
  regs : ∀ i, i < 8 → j.sc.get (56 + i) = tgetD k.shadow i 0
  shadow : ∀ i, i < 8 → tgetD j.shadow i 0 = k.sc.get (56 + i)
  below : ∀ r, r < 56 → j.sc.get r = k.sc.get r

theorem Ctx.swapShadow_sc (k : Ctx) :
    k.swapShadow.sc = (List.range 8).foldl (fun c i => c.set (56 + i) (tgetD k.shadow i 0)) k.sc := rfl

theorem Ctx.swapShadow_shadow (k : Ctx) :
    k.swapShadow.shadow = (List.range 8).foldl (fun t i => tputD t i (k.sc.get (56 + i)) 0) k.shadow := rfl

theorem swapped_swapShadow (k : Ctx) : Swapped k k.swapShadow where
  regs := fun i hi => by rw [Ctx.swapShadow_sc, get_foldl_set k.sc fun i => tgetD k.shadow i 0, if_pos hi]
  shadow := fun i hi => by rw [Ctx.swapShadow_shadow, tgetD_foldl_tputD k.shadow fun i => k.sc.get (56 + i), if_pos hi]
  below := fun _ hr => by rw [Ctx.swapShadow_sc, get_foldl_set_below k.sc (fun i => tgetD k.shadow i 0) 8 hr]

/-- What is written beside registers and shadow copies does not matter. -/
theorem Swapped.of_regs {k j l : Ctx} (h : Swapped k j) (hr : l.sc.regs = j.sc.regs) (hs : l.shadow = j.shadow) : Swapped k l where
  regs := fun i hi => by rw [← h.regs i hi, SCore.get, hr, SCore.get]
  shadow := fun i hi => by rw [hs, h.shadow i hi]
  below := fun r hb => by rw [← h.below r hb, SCore.get, hr, SCore.get]

/-! ## UIEN and UIRET (R243, R245) -/

section
variable {s : State} {c x : Nat} {ic : BitVec 2}

theorem exec_uien {ra : BitVec 6} (hr : Ready s c x [ra.toNat]) (hv : ((s.ctx c x).sc.get ra.toNat).toNat < 2) :
    exec (.uien ic ra) s = .next (lateSent s c x ic 5 (.uien x (((s.ctx c x).sc.get ra.toNat).getLsbD 0))) := by
  rw [← lateSent_eq hr.cur]
  change execUien ic ra s = _
  rw [execUien, State.core_stream hr.cur, resOp_of_not (by omega), sGuard_of_ready hr, State.curX_stream hr.cur]

theorem lateSent_ctx (rank : Nat) (op : LateOp) :
    (lateSent s c x ic rank op).ctx c x = (s.ctx c x).goneOn ic (s.mdw c).mtc := by
  rw [State.ctx, lateSent_mdw]
  change ((s.mdw c).issuedS x ic).ctx x = _
  rw [Meadow.issuedS, Meadow.modCtx_ctx]
  rfl

/-- EN as the change of UIEN leaves it. -/
theorem apply_uien (m : Meadow) (g : Nat) (en : Bool) : (((m.apply g (.uien x en)).ctx x).uistat).getLsbD 0 = en := by
  rw [Meadow.apply, Meadow.modCtx_ctx, getLsbD_setField _ _ _ _ (by decide), if_pos (by decide)]
  cases en <;> rfl

theorem getLsbD_zero_of_lt_two {v : W32} (h : v.toNat < 2) : v.getLsbD 0 = decide (v.toNat = 1) := by
  rw [BitVec.getLsbD, Nat.testBit_zero, Nat.mod_eq_of_lt h]

/-- The context of a handler that has returned to the interrupted word. -/
def Ctx.leaveUi (k : Ctx) (ic : BitVec 2) (mtc : Nat) : Ctx :=
  { k.swapShadow with uistat := setField k.uistat 2 1 0, sc := k.swapShadow.sc.jump ic mtc (k.uistat.extractLsb' 32 32) }

theorem exec_uiret (hr : Ready s c x []) (hin : (s.ctx c x).uistat.getLsbD 2 = true) (hal : ((s.ctx c x).uistat.extractLsb' 32 32).toNat % 4 = 0) :
    exec (.uiret ic) s = .next (s.modCtx c x fun k => k.leaveUi ic s.clock) := by
  change execUiret ic s = _
  simp only [execUiret, State.curM_stream hr.cur, State.curX_stream hr.cur, sGuard_of_ready hr, hin, hal, ne_eq, not_true_eq_false,
    Bool.true_eq_false, if_false]
  exact congrArg Host.Outcome.next (State.modCtx_congr rfl)

theorem Ctx.leaveUi_swapped (k : Ctx) (mtc : Nat) : Swapped k (k.leaveUi ic mtc) := (swapped_swapShadow k).of_regs rfl rfl

theorem Ctx.leaveUi_uistat (k : Ctx) (mtc : Nat) : (k.leaveUi ic mtc).uistat.getLsbD 2 = false := by
  change (setField k.uistat 2 1 0).getLsbD 2 = false
  rw [getLsbD_setField _ _ _ _ (by decide), if_pos (by decide)]
  rfl

/-! ## The entry (R244) -/

/-- UISTAT of a handler that has been entered from a counter with a tag. -/
def uistatEntered (v : W64) (pc : W32) (tag : BitVec 16) : W64 := setField (setField (setField v 32 32 pc.toNat) 16 16 tag.toNat) 2 1 1

theorem uistatEntered_pc (v : W64) (pc : W32) (tag : BitVec 16) : (uistatEntered v pc tag).extractLsb' 32 32 = pc := by
  rw [uistatEntered, extractLsb'_setField_ne _ _ (by decide) (by decide), extractLsb'_setField_ne _ _ (by decide) (by decide),
    extractLsb'_setField _ _ (by decide)]

theorem uistatEntered_tag (v : W64) (pc : W32) (tag : BitVec 16) : (uistatEntered v pc tag).extractLsb' 16 16 = tag := by
  rw [uistatEntered, extractLsb'_setField_ne _ _ (by decide) (by decide), extractLsb'_setField _ _ (by decide)]

theorem uistatEntered_active (v : W64) (pc : W32) (tag : BitVec 16) : (uistatEntered v pc tag).getLsbD 2 = true := by
  rw [uistatEntered, getLsbD_setField _ _ _ _ (by decide), if_pos (by decide)]
  rfl

theorem uistatEntered_enabled (v : W64) (pc : W32) (tag : BitVec 16) : (uistatEntered v pc tag).getLsbD 0 = v.getLsbD 0 := by
  rw [uistatEntered, getLsbD_setField _ _ _ _ (by decide), if_neg (by decide), getLsbD_setField _ _ _ _ (by decide), if_neg (by decide),
    getLsbD_setField _ _ _ _ (by decide), if_neg (by decide)]

theorem Ctx.enterUi_swapped {k : Ctx} {tag : BitVec 16} {rest : List (BitVec 16)} (h : k.notif = tag :: rest) (mtc : Nat) :
    Swapped k (k.enterUi mtc) := by
  rw [Ctx.enterUi, h]
  exact (swapped_swapShadow k).of_regs rfl rfl

theorem Ctx.enterUi_gives {k : Ctx} {tag : BitVec 16} {rest : List (BitVec 16)} (h : k.notif = tag :: rest) (mtc : Nat) :
    (k.enterUi mtc).notif = rest ∧ (k.enterUi mtc).sc.pc = (k.uivec.extractLsb' 0 32 &&& 0xFFFFFFFC#32) ∧
      (k.enterUi mtc).uistat = uistatEntered k.uistat k.sc.pc tag := by
  rw [Ctx.enterUi, h]
  exact ⟨rfl, rfl, rfl⟩

/-- A context that has been looked at for the entry. -/
def Ctx.uiSeen (k : Ctx) : Ctx := { k with uiNow := false }

theorem userInterruptEntry_completes (c x : Nat) : Completes (.userInterruptEntry c x) := by
  intro s
  change ∃ t, execUserInterruptEntry c x s = .next t
  unfold execUserInterruptEntry
  dsimp only
  split
  · exact ⟨_, rfl⟩
  · exact ⟨_, rfl⟩

theorem exec_userInterruptEntry (hdue : (s.ctx c x).uiDue = true) (hnext : (s.ctx c x).sc.nextAt ≤ (s.mdw c).mtc) :
    exec (.userInterruptEntry c x) s = .next (s.modCtx c x fun k => (k.enterUi (s.mdw c).mtc).uiSeen) := by
  have hex : exec (.userInterruptEntry c x) s = .next ((s.modCtx c x fun k => k.enterUi (s.mdw c).mtc).modCtx c x fun k => k.uiSeen) := by
    rw [State.ctx] at *
    change execUserInterruptEntry c x s = _
    simp only [execUserInterruptEntry, hdue, not_lt.2 hnext, decide_false, Bool.not_true, Bool.or_self, Bool.false_eq_true, if_false]
    rfl
  rw [hex, State.modCtx_modCtx]
  rfl

/-- An entry is due only with EN set. -/
theorem Ctx.enabled_of_uiDue {k : Ctx} (h : k.uiDue = true) : k.uistat.getLsbD 0 = true := by
  simp only [Ctx.uiDue, Bool.and_eq_true] at h
  tauto

end

end Sys2Proof.Machine

namespace Sys2Proof

open Sys2Proof.Machine

/-- Settles O16: UIEN leaves one change to come, and UIRET and the entry both exchange the registers with their shadow copies. -/
theorem userInterrupts : Obligations.UserInterrupts := by
  unfold Obligations.UserInterrupts
  refine ⟨userInterruptEntry_completes, fun s c x ic ra => ⟨fun hr hv hl => ?uien, fun hr hin hal => ?uiret⟩,
    fun s c x tag rest hn hdue hnext => ?entry⟩
  case uien =>
    obtain ⟨hadv, hregs, honly⟩ := lateSent_issues (ic := ic) hr.cur 5 (.uien x (((s.ctx c x).sc.get ra.toNat).getLsbD 0))
    refine ⟨_, exec_uien hr hv, hadv, hregs, honly, ?_, ?_⟩
    · rw [lateSent_ctx]
      rfl
    · rw [lateSent_applyLate hl rfl, apply_uien]
      exact getLsbD_zero_of_lt_two hv
  case uiret =>
    have hswap := Ctx.leaveUi_swapped (ic := ic) (s.ctx c x) s.clock
    refine ⟨_, exec_uiret hr hin hal, onlyCtx_modCtx .., ?_⟩
    rw [State.modCtx_ctx]
    exact ⟨Ctx.leaveUi_uistat .., rfl, fun i hi => ⟨hswap.regs i hi, hswap.shadow i hi⟩, hswap.below⟩
  case entry =>
    have hswap := Ctx.enterUi_swapped hn (s.mdw c).mtc
    obtain ⟨hnotif, hpc, hui⟩ := Ctx.enterUi_gives hn (s.mdw c).mtc
    refine ⟨_, exec_userInterruptEntry hdue hnext, onlyCtx_modCtx .., ?_⟩
    simp only [State.modCtx_ctx]
    refine ⟨hnotif, hpc, ?_, ?_, ?_, ?_, fun i hi => ⟨hswap.regs i hi, hswap.shadow i hi⟩, hswap.below⟩
    · exact (congrArg _ hui).trans (uistatEntered_pc ..)
    · exact (congrArg _ hui).trans (uistatEntered_tag ..)
    · exact (congrArg (BitVec.getLsbD · 2) hui).trans (uistatEntered_active ..)
    · exact (congrArg (BitVec.getLsbD · 0) hui).trans ((uistatEntered_enabled ..).trans (Ctx.enabled_of_uiDue hdue))

end Sys2Proof
end

section
/-! SUPPORT. One request at a sync engine (O39): the line that the engine holds for it, the bytes that its operation leaves there, and the
answer it gets. -/
namespace Sys2Proof.Machine

/-! ## Bytes of a line -/

theorem lineGet_linePut (v : Line) {o n : Nat} (u : Nat) (h : o + n ≤ 64) : lineGet (linePut v o n u) o n = u % 2 ^ (8 * n) :=
  getField_setField v (8 * o) (8 * n) u (by omega)

theorem lineGet_linePut_ne (v : Line) {o n l k : Nat} (u : Nat) (h : l + k ≤ 64) (hd : l + k ≤ o ∨ o + n ≤ l) :
    lineGet (linePut v o n u) l k = lineGet v l k := by
  have hpart := congrArg BitVec.toNat (extractLsb'_setField_ne (n := 512) v (lo := 8 * o) (len := 8 * n) (l := 8 * l) (k := 8 * k) u (by omega)
    (by omega))
  rwa [BitVec.extractLsb'_toNat, BitVec.extractLsb'_toNat, Nat.shiftRight_eq_div_pow, Nat.shiftRight_eq_div_pow] at hpart

theorem lineGet_lt (v : Line) (o n : Nat) : lineGet v o n < 2 ^ (8 * n) := Nat.mod_lt _ (Nat.two_pow_pos _)

/-! ## The value of an ATOM or RED (R232) -/

/-- A number of w bits as an integer, signed or not. -/
def atomInt (sg : Bool) (w u : Nat) : Int := if sg = true ∧ 2 ^ (w - 1) ≤ u then u - 2 ^ w else u

/-- The values of R232 over integers, of the old value and the operand. -/
def atomValue (f : Nat) (sg : Bool) (w old y : Nat) : Nat :=
  match f with
  | 0 => (old + y) % 2 ^ w
  | 1 => old &&& y
  | 2 => old ||| y
  | 3 => old ^^^ y
  | 4 => if atomInt sg w old < atomInt sg w y then old else y
  | 5 => if atomInt sg w old < atomInt sg w y then y else old
  | _ => y

theorem atomInt_signed {w u : Nat} (h : u < 2 ^ w) : atomInt true w u = sextN u w := by
  rw [atomInt, sextN, Nat.mod_eq_of_lt h]
  by_cases hu : u < 2 ^ (w - 1)
  · rw [if_pos hu, if_neg fun hle => absurd hle.2 (not_le.2 hu)]
  · rw [if_neg hu, if_pos ⟨rfl, not_lt.1 hu⟩]

theorem atomInt_unsigned (w u : Nat) : atomInt false w u = u := if_neg fun h => Bool.false_ne_true h.1

/-- The order by which MIN and MAX choose. -/
theorem atomLess_eq (sg : Bool) {w old y : Nat} (ho : old < 2 ^ w) (hy : y < 2 ^ w) :
    (if sg then decide (sextN old w < sextN y w) else decide (old < y)) = decide (atomInt sg w old < atomInt sg w y) := by
  cases sg with
  | true => rw [atomInt_signed ho, atomInt_signed hy, if_pos rfl]
  | false =>
    rw [atomInt_unsigned, atomInt_unsigned, if_neg Bool.false_ne_true]
    exact decide_eq_decide.2 Int.ofNat_lt.symm

theorem atomNew_eq (f : Nat) (sg : Bool) {w old y : Nat} (ho : old < 2 ^ w) (hy : y < 2 ^ w) :
    atomNew f sg w old y = atomValue f sg w old y := by
  have hless := atomLess_eq sg ho hy
  unfold atomNew
  rw [hless]
  rcases f with _ | _ | _ | _ | _ | _ | f
  case succ.succ.succ.succ.zero => simp only [atomValue, decide_eq_true_eq]
  case succ.succ.succ.succ.succ.zero => simp only [atomValue, decide_eq_true_eq]
  all_goals rfl

theorem atomValue_lt (f : Nat) (sg : Bool) {w old y : Nat} (ho : old < 2 ^ w) (hy : y < 2 ^ w) : atomValue f sg w old y < 2 ^ w := by
  rcases f with _ | _ | _ | _ | _ | _ | f
  case zero => exact Nat.mod_lt _ (Nat.two_pow_pos _)
  case succ.zero => exact Nat.and_lt_two_pow _ hy
  case succ.succ.zero => exact Nat.or_lt_two_pow ho hy
  case succ.succ.succ.zero => exact Nat.xor_lt_two_pow ho hy
  case succ.succ.succ.succ.zero =>
    rw [atomValue]
    split <;> assumption
  case succ.succ.succ.succ.succ.zero =>
    rw [atomValue]
    split <;> assumption
  case succ.succ.succ.succ.succ.succ => exact hy

/-! ## An engine with one line (R229, R230) -/

/-- From s to t, memory and the meadows stay, the answers `ans` have been sent, and engine d has no request and no wait left, and line g alone. -/
structure OneHeld (s t : State) (d : Nat) (g : HeldLine) (ans : List AnsMsg) : Prop where
  gtc : t.gtc = s.gtc
  meadows : t.meadows = s.meadows
  mem : t.mem = s.mem
  answers : t.answers = s.answers ++ ans
  reqs : (t.eng d).reqs = []
  waiters : (t.eng d).waiters = []
  again : (t.eng d).again = []
  lines : (t.eng d).lines = [g]

section
variable {s t : State} {d : Nat} {g h : HeldLine} {r : SyncReq} {ans : List AnsMsg} {va pa : Nat}

theorem State.modEng_congr {f k : SyncEngine → SyncEngine} (e : f (s.eng d) = k (s.eng d)) : s.modEng d f = s.modEng d k := by
  rw [State.modEng, e, State.modEng]

/-- A held line without an error is reached as it stands. -/
theorem reachLine_of_held (hl : (s.eng d).lines = [h]) (he : (s.eng d).ecc = []) (hline : h.isLine va pa = true) (key : Nat) :
    s.reachLine d va pa key = s.modEng d fun e => { e with lines := [h] } := by
  have hbad : s.sramBad d h = false := by rw [State.sramBad, he]; rfl
  have hfind : (s.eng d).lines.find? (fun h => h.isLine va pa) = some h := by rw [hl, List.find?_cons, hline]
  rw [State.reachLine, hfind]
  simp only [hbad, Bool.false_eq_true, if_false, Bool.or_false]
  refine State.modEng_congr ?_
  rw [hl]
  simp only [List.filter_cons, hline, Bool.not_true, Bool.false_eq_true, if_false, List.filter_nil, List.nil_append]

theorem OneHeld.lineData (h : OneHeld s t d g ans) (hline : g.isLine va pa = true) : t.lineData d va pa = (g.data, g.poison) := by
  have hfind : (t.eng d).lines.find? (fun h => h.isLine va pa) = some g := by rw [h.lines, List.find?_cons, hline]
  rw [State.lineData, hfind]

/-- A line with other bytes, of which n from offset o on are dirty. -/
def HeldLine.written (g : HeldLine) (o n : Nat) (v : Line) : HeldLine := { g with data := v, dirty := g.dirty ||| lineMask o n }

theorem OneHeld.setLine (h : OneHeld s t d g ans) (hline : g.isLine va pa = true) (o n : Nat) (v : Line) :
    OneHeld s (t.setLine d va pa o n v) d (g.written o n v) ans where
  gtc := h.gtc
  meadows := h.meadows
  mem := h.mem
  answers := h.answers
  reqs := by rw [State.setLine, State.modEng_eng]; exact h.reqs
  waiters := by rw [State.setLine, State.modEng_eng]; exact h.waiters
  again := by rw [State.setLine, State.modEng_eng]; exact h.again
  lines := by
    rw [State.setLine, State.modEng_eng]
    simp only [h.lines, List.map_cons, List.map_nil, hline, if_true]
    rfl

/-- The answer a to request r, as engine d sends it. -/
def State.answerTo (s : State) (d : Nat) (r : SyncReq) (a : SyncAns) : AnsMsg :=
  { id := r.id, coord := r.coord, ctx := r.ctx, ans := a, at_ := s.gtc + transit (r.coord / 256) d + Config.excess s.fresh }

theorem reply_eq (s : State) (d : Nat) (r : SyncReq) (a : SyncAns) :
    s.reply d r a = { s with fresh := s.fresh + 1, answers := s.answers ++ [s.answerTo d r a] } := rfl

theorem OneHeld.reply (h : OneHeld s t d g []) (r : SyncReq) (a : SyncAns) : OneHeld s (t.reply d r a) d g [t.answerTo d r a] where
  gtc := h.gtc
  meadows := h.meadows
  mem := h.mem
  answers := by rw [reply_eq]; exact congrArg (· ++ _) (h.answers.trans (List.append_nil _))
  reqs := h.reqs
  waiters := h.waiters
  again := h.again
  lines := h.lines

/-! ## A cycle with one request (R230) -/

/-- The operations that act on a word of their line. -/
def SyncOp.onWord : SyncOp → Bool | .atom .. | .cas .. | .fred .. | .sems _ => true | _ => false

/-- The request has been taken from its engine, and the landing that it posts for is over. -/
def State.reqTaken (s : State) (d id : Nat) : State :=
  ({ s with landings := s.landings.filter fun l => l.post != some id } : State).modEng d fun e => { e with reqs := e.reqs.filter fun q => q.id ≠ id }

/-- The request has been taken, and its line reached. -/
def State.opReached (s : State) (d : Nat) (r : SyncReq) : State :=
  (s.reqTaken d r.id).underKeys r.id fun s => s.reachLine d r.va r.pa r.key

/-- Engine d holds line h alone, without an error, and request r for it is all that it has to do, and may be applied now. -/
structure OneRequest (s : State) (d : Nat) (r : SyncReq) (h : HeldLine) : Prop where
  reqs : (s.eng d).reqs = [r]
  again : (s.eng d).again = []
  waiters : (s.eng d).waiters = []
  ecc : (s.eng d).ecc = []
  lines : (s.eng d).lines = [h]
  line : h.isLine r.va r.pa = true
  sound : h.poison = false
  ready : s.reqReady d r = true
  array : r.heath = false

theorem OneRequest.reached (h1 : OneRequest s d r h) : OneHeld s (s.opReached d r) d h [] := by
  have heng : ((s.reqTaken d r.id).issuedAt r.id).eng d = { s.eng d with reqs := (s.eng d).reqs.filter fun q => q.id ≠ r.id } := by
    change (s.reqTaken d r.id).eng d = _
    rw [State.reqTaken, State.modEng_eng]
    rfl
  have hreach := reachLine_of_held (s := (s.reqTaken d r.id).issuedAt r.id) (h := h) (by rw [heng]; exact h1.lines) (by rw [heng]; exact h1.ecc)
    h1.line r.key
  have hself : (s.opReached d r).eng d = { s.eng d with reqs := (s.eng d).reqs.filter (fun q => q.id ≠ r.id), lines := [h] } := by
    change (((s.reqTaken d r.id).issuedAt r.id).reachLine d r.va r.pa r.key).eng d = _
    rw [hreach, State.modEng_eng, heng]
  have hsame : (s.opReached d r).gtc = s.gtc ∧ (s.opReached d r).meadows = s.meadows ∧ (s.opReached d r).mem = s.mem ∧
      (s.opReached d r).answers = s.answers := by
    rw [State.opReached, State.underKeys, hreach]
    exact ⟨rfl, rfl, rfl, rfl⟩
  obtain ⟨hgtc, hmeadows, hmem, hanswers⟩ := hsame
  refine ⟨hgtc, hmeadows, hmem, by rw [hanswers, List.append_nil], ?_, ?_, ?_, ?_⟩
  · rw [hself, h1.reqs]
    simp
  · rw [hself]
    exact h1.waiters
  · rw [hself]
    exact h1.again
  · rw [hself]

/-- A request that may be applied now has arrived, and its line need not be fetched. -/
theorem reqReady_arrived (hr : s.reqReady d r = true) : r.at_ ≤ s.gtc ∧ s.wantsFetch d r = false := by
  simp only [State.reqReady, Bool.and_eq_true, decide_eq_true_eq, Bool.not_eq_true'] at hr
  tauto

/-- An operation on a word of a held line acts on the line that its request has reached. -/
theorem OneRequest.applyReq (h1 : OneRequest s d r h) (hop : r.op.onWord = true) : s.applyReq d r = (s.opReached d r).applyOp d r := by
  have hdata := h1.reached.lineData h1.line
  rw [h1.sound] at hdata
  have hwait : r.op.isWait = false ∧ r.op.isBarrier = false ∧ ∀ w i, r.op ≠ .hspdecl w i := by
    cases ho : r.op <;> simp_all [SyncOp.onWord, SyncOp.isWait, SyncOp.isBarrier]
  obtain ⟨hwait, hbar, hdecl⟩ := hwait
  simp only [State.applyReq, h1.ready, h1.array, Bool.not_true, Bool.false_eq_true, if_false]
  change (if r.op.isWait = true then _ else if ((s.opReached d r).lineData d r.va r.pa).2 = true then _ else _) = _
  rw [hwait, hdata, hbar]
  rfl

/-- A cycle of an engine with one request applies it, and nothing else. -/
theorem OneRequest.exec (h1 : OneRequest s d r h) (hop : r.op.onWord = true)
    (ht : OneHeld s ((s.opReached d r).applyOp d r) d g ans) : ∃ t, exec (.syncRequestApply d) s = .next t ∧ OneHeld s t d g ans := by
  obtain ⟨hat, hfetch⟩ := reqReady_arrived h1.ready
  have hstay : s.fetchLines d = s := by
    rw [State.fetchLines, h1.reqs, List.foldl_cons, List.foldl_nil, hfetch]
    rfl
  have hrun : Machine.exec (.syncRequestApply d) s =
      .next ((s.applyReq d r).modEng d fun e => { e with again := [] }) := by
    change execSyncRequestApply d s = _
    have hdone : (((s.applyReq d r).modEng d fun e => { e with again := [] }).eng d).waiters = [] := by
      rw [h1.applyReq hop, State.modEng_eng]
      exact ht.waiters
    have hagain : ((s.applyReq d r).eng d).again = [] := by
      rw [h1.applyReq hop]
      exact ht.again
    simp only [execSyncRequestApply, hstay, h1.reqs, h1.again, List.filter_cons, hat, decide_true, if_true, List.filter_nil,
      List.foldl_cons, List.foldl_nil, reqInsert, hagain, List.nil_append, hdone]
  refine ⟨_, hrun, ?_⟩
  rw [h1.applyReq hop]
  exact
    { gtc := ht.gtc
      meadows := ht.meadows
      mem := ht.mem
      answers := ht.answers
      reqs := by rw [State.modEng_eng]; exact ht.reqs
      waiters := by rw [State.modEng_eng]; exact ht.waiters
      again := by rw [State.modEng_eng]
      lines := by rw [State.modEng_eng]; exact ht.lines }

/-! ## The line and the answer that a request leaves -/

/-- Line g is line h with value v in its n bytes from offset o on. -/
structure WordIs (g h : HeldLine) (o n v : Nat) : Prop where
  va : g.va = h.va
  pa : g.pa = h.pa
  sound : g.poison = false
  value : lineGet g.data o n = v
  others : ∀ j, j < 64 → j < o ∨ o + n ≤ j → lineGet g.data j 1 = lineGet h.data j 1

theorem wordIs_self (hp : h.poison = false) (o n : Nat) : WordIs h h o n (lineGet h.data o n) :=
  ⟨rfl, rfl, hp, rfl, fun _ _ _ => rfl⟩

theorem wordIs_written (hp : h.poison = false) {o n : Nat} (hon : o + n ≤ 64) (x : Nat) :
    WordIs (h.written o n (linePut h.data o n x)) h o n (x % 2 ^ (8 * n)) :=
  ⟨rfl, rfl, hp, lineGet_linePut h.data x hon, fun j hj hout => lineGet_linePut_ne h.data x (by omega) (by omega)⟩

/-- The engine's cycle leaves value v in the n bytes of request r's address, and gives the answers `ans` to its context. -/
def LeavesWord (s : State) (d : Nat) (r : SyncReq) (h : HeldLine) (n v : Nat) (ans : List SyncAns) : Prop :=
  ∃ t, exec (.syncRequestApply d) s = .next t ∧ (t.eng d).reqs = [] ∧ memSame s t ∧
    t.meadows = s.meadows ∧ (∃ g, (t.eng d).lines = [g] ∧ g.va = h.va ∧ g.pa = h.pa ∧ g.poison = false ∧ lineGet g.data (r.pa % 64) n = v ∧
      ∀ j, j < 64 → j < r.pa % 64 ∨ r.pa % 64 + n ≤ j → lineGet g.data j 1 = lineGet h.data j 1) ∧
    ∃ as_, t.answers = s.answers ++ as_ ∧ as_.map (·.ans) = ans ∧ ∀ a ∈ as_, a.coord = r.coord ∧ a.ctx = r.ctx ∧ s.gtc ≤ a.at_

/-- An answer to request r. -/
def SyncReq.answered (r : SyncReq) (gtc : Nat) (a : AnsMsg) : Prop := a.coord = r.coord ∧ a.ctx = r.ctx ∧ gtc ≤ a.at_

theorem OneRequest.leaves {n v : Nat} {as_ : List AnsMsg} (h1 : OneRequest s d r h) (hop : r.op.onWord = true)
    (ht : OneHeld s ((s.opReached d r).applyOp d r) d g as_) (hg : WordIs g h (r.pa % 64) n v) (ha : ∀ a ∈ as_, r.answered s.gtc a) :
    LeavesWord s d r h n v (as_.map (·.ans)) := by
  obtain ⟨t, hrun, hone⟩ := h1.exec hop ht
  exact ⟨t, hrun, hone.reqs, fun a => congrArg (Memory.read · a) hone.mem, hone.meadows,
    ⟨g, hone.lines, hg.va, hg.pa, hg.sound, hg.value, hg.others⟩, as_, hone.answers, rfl, ha⟩

theorem OneHeld.answered (ht : OneHeld s t d g ans) (r : SyncReq) (a : SyncAns) : ∀ b ∈ [t.answerTo d r a], r.answered s.gtc b := by
  intro b hb
  obtain rfl := List.mem_singleton.1 hb
  exact ⟨rfl, rfl, by rw [State.answerTo, ht.gtc, Nat.add_assoc]; exact Nat.le_add_right _ _⟩

/-- The bytes of a word, or of a double word. -/
def wordBytes (wide : Bool) : Nat := if wide then 8 else 4

/-- An aligned word of 4 or 8 bytes lies within its line. -/
theorem wordFits (wide : Bool) {p : Nat} (hal : p % 64 % wordBytes wide = 0) : p % 64 + wordBytes wide ≤ 64 := by
  cases wide
  · change p % 64 % 4 = 0 at hal
    change p % 64 + 4 ≤ 64
    omega
  · change p % 64 % 8 = 0 at hal
    change p % 64 + 8 ≤ 64
    omega

/-! ## The operations (R231 to R233, R236) -/

/-- The line after an ATOM or RED, and its answer. -/
theorem applyOp_atom {f : Nat} {sg wide : Bool} {x : W64} {slot : Option Nat} (hr : r.op = .atom f sg wide x slot) {v : Line}
    (hv : (t.lineData d r.va r.pa).1 = v) :
    let old := lineGet v (r.pa % 64) (wordBytes wide)
    let u := t.setLine d r.va r.pa (r.pa % 64) (wordBytes wide)
      (linePut v (r.pa % 64) (wordBytes wide) (atomNew f sg (8 * wordBytes wide) old (x.toNat % 2 ^ (8 * wordBytes wide))))
    t.applyOp d r = slot.elim u fun i => u.reply d r (.slot i (BitVec.ofNat 64 old)) := by
  subst hv
  simp only [State.applyOp, hr]
  cases slot <;> rfl

theorem applyOp_cas {wide : Bool} {cmp new : W64} {i : Nat} (hr : r.op = .cas wide cmp new i) {v : Line} (hv : (t.lineData d r.va r.pa).1 = v) :
    let old := lineGet v (r.pa % 64) (wordBytes wide)
    t.applyOp d r = (if old = cmp.toNat % 2 ^ (8 * wordBytes wide) then
      t.setLine d r.va r.pa (r.pa % 64) (wordBytes wide) (linePut v (r.pa % 64) (wordBytes wide) new.toNat) else t).reply d r
        (.slot i (BitVec.ofNat 64 old)) := by
  subst hv
  simp only [State.applyOp, hr]
  rfl

theorem applyOp_sems {x : W32} (hr : r.op = .sems x) {v : Line} (hv : (t.lineData d r.va r.pa).1 = v) :
    t.applyOp d r = t.setLine d r.va r.pa (r.pa % 64) 4 (linePut v (r.pa % 64) 4 (lineGet v (r.pa % 64) 4 + x.toNat)) := by
  subst hv
  simp only [State.applyOp, hr]
  rfl

theorem OneRequest.data (h1 : OneRequest s d r h) : ((s.opReached d r).lineData d r.va r.pa).1 = h.data := by
  rw [h1.reached.lineData h1.line]

theorem OneRequest.atom (h1 : OneRequest s d r h) {f : Nat} {sg wide : Bool} {x : W64} {slot : Option Nat} (hr : r.op = .atom f sg wide x slot)
    (hal : r.pa % 64 % wordBytes wide = 0) :
    let old := lineGet h.data (r.pa % 64) (wordBytes wide)
    LeavesWord s d r h (wordBytes wide) (atomValue f sg (8 * wordBytes wide) old (x.toNat % 2 ^ (8 * wordBytes wide)))
      (slot.elim [] fun i => [.slot i (BitVec.ofNat 64 old)]) := by
  intro old
  have hop : r.op.onWord = true := by rw [hr]; rfl
  have hold : old < 2 ^ (8 * wordBytes wide) := lineGet_lt h.data (r.pa % 64) (wordBytes wide)
  have hy : x.toNat % 2 ^ (8 * wordBytes wide) < 2 ^ (8 * wordBytes wide) := Nat.mod_lt _ (Nat.two_pow_pos _)
  have hword := wordIs_written h1.sound (wordFits wide hal) (atomValue f sg (8 * wordBytes wide) old (x.toNat % 2 ^ (8 * wordBytes wide)))
  rw [Nat.mod_eq_of_lt (atomValue_lt f sg hold hy)] at hword
  have happly := applyOp_atom (t := s.opReached d r) hr h1.data
  simp only [] at happly
  rw [atomNew_eq f sg hold hy] at happly
  have hput := h1.reached.setLine h1.line (r.pa % 64) (wordBytes wide) (linePut h.data (r.pa % 64) (wordBytes wide)
    (atomValue f sg (8 * wordBytes wide) old (x.toNat % 2 ^ (8 * wordBytes wide))))
  cases slot with
  | none => exact h1.leaves hop (happly ▸ hput) hword fun a ha => absurd ha List.not_mem_nil
  | some i => exact h1.leaves hop (happly ▸ hput.reply r _) hword (hput.answered r _)

theorem OneRequest.cas (h1 : OneRequest s d r h) {wide : Bool} {cmp new : W64} {i : Nat} (hr : r.op = .cas wide cmp new i)
    (hal : r.pa % 64 % wordBytes wide = 0) :
    let old := lineGet h.data (r.pa % 64) (wordBytes wide)
    LeavesWord s d r h (wordBytes wide)
      (if old = cmp.toNat % 2 ^ (8 * wordBytes wide) then new.toNat % 2 ^ (8 * wordBytes wide) else old) [.slot i (BitVec.ofNat 64 old)] := by
  intro old
  have hop : r.op.onWord = true := by rw [hr]; rfl
  have happly := applyOp_cas (t := s.opReached d r) hr h1.data
  simp only [] at happly
  by_cases heq : old = cmp.toNat % 2 ^ (8 * wordBytes wide)
  · rw [if_pos heq] at happly ⊢
    have hput := h1.reached.setLine h1.line (r.pa % 64) (wordBytes wide) (linePut h.data (r.pa % 64) (wordBytes wide) new.toNat)
    exact h1.leaves hop (happly ▸ hput.reply r _) (wordIs_written h1.sound (wordFits wide hal) new.toNat) (hput.answered r _)
  · rw [if_neg heq] at happly ⊢
    exact h1.leaves hop (happly ▸ h1.reached.reply r _) (wordIs_self h1.sound (r.pa % 64) (wordBytes wide)) (h1.reached.answered r _)

theorem OneRequest.sems (h1 : OneRequest s d r h) {x : W32} (hr : r.op = .sems x) (hal : r.pa % 64 % 4 = 0) :
    LeavesWord s d r h 4 ((lineGet h.data (r.pa % 64) 4 + x.toNat) % 2 ^ 32) [] := by
  have hput := h1.reached.setLine h1.line (r.pa % 64) 4 (linePut h.data (r.pa % 64) 4 (lineGet h.data (r.pa % 64) 4 + x.toNat))
  exact h1.leaves (by rw [hr]; rfl) (applyOp_sems (t := s.opReached d r) hr h1.data ▸ hput)
    (wordIs_written h1.sound (wordFits false hal) (lineGet h.data (r.pa % 64) 4 + x.toNat)) fun a ha => absurd ha List.not_mem_nil

theorem completes_syncRequestApply (d : Nat) : Completes (.syncRequestApply d) := fun _ => ⟨_, rfl⟩

end

end Sys2Proof.Machine

namespace Sys2Proof
open Sys2Proof.Machine

/-- Settles O39: the request reaches the one line that its engine holds, and its operation puts the value of R232 there. -/
theorem syncRequestApplied : Obligations.SyncRequestApplied := by
  unfold Obligations.SyncRequestApplied
  refine ⟨completes_syncRequestApply, fun s d r h hreqs hagain hwaiters hecc hlines hline hsound hready hheath => ?_⟩
  have h1 : OneRequest s d r h := ⟨hreqs, hagain, hwaiters, hecc, hlines, hline, hsound, hready, hheath⟩
  refine ⟨fun f sg wide x slot hr hal => ?_, fun wide cmp new i hr hal => h1.cas hr hal, fun x hr hal => h1.sems hr hal⟩
  cases slot with
  | none => exact h1.atom hr hal
  | some i => exact h1.atom hr hal

end Sys2Proof

end

section
/-! SUPPORT. Answers of the sync engines (O40): what an answer changes in its context, and the end of a wait that has lapsed. -/
namespace Sys2Proof.Machine

/-! ## A result that is due -/

/-- Of the results that are due, the one pushed last stands. -/
theorem SCore.get_settle_push (k : SCore) {r due t : Nat} (v : W32) (h0 : r ≠ 0) (hd : due ≤ t) : ((k.push r due v).settle t).get r = v := by
  have hpush : (k.push r due v).pend = k.pend ++ [⟨r, due, v, k.nextAt⟩] := by rw [SCore.push, if_neg h0]
  have hlast : (k.pend ++ [(⟨r, due, v, k.nextAt⟩ : PendReg)]).filter (fun p => decide (p.due ≤ t)) =
      (k.pend.filter fun p => decide (p.due ≤ t)) ++ [⟨r, due, v, k.nextAt⟩] := by
    rw [List.filter_append, List.filter_cons, if_pos (decide_eq_true hd), List.filter_nil]
  rw [SCore.settle, hpush, hlast, List.foldl_append]
  exact SCore.get_set_self _ _ _ h0

/-! ## The arrival of an answer (R234, R396) -/

/-- The answer has left the engine's list. -/
def State.answerTaken (s : State) (a : AnsMsg) : State := { s with answers := s.answers.filter fun b => b ≠ a }

/-- The answer that arrives at a context in this cycle under an id. -/
def State.arriving (s : State) (c x id : Nat) : Option AnsMsg :=
  s.answers.find? fun a => a.id == id && a.coord == c && a.ctx == x && decide (a.at_ ≤ s.gtc)

section
variable {s : State} {c x : Nat} {a : AnsMsg} {w : SWait}

theorem completes_syncAnswerArrival (c x id : Nat) : Completes (.syncAnswerArrival c x id) := by
  intro s
  change ∃ t, execSyncAnswerArrival c x id s = .next t
  unfold execSyncAnswerArrival
  split
  · exact ⟨_, rfl⟩
  · dsimp only
    split
    · exact ⟨_, rfl⟩
    · exact ⟨_, rfl⟩
    · split
      · exact ⟨_, rfl⟩
      · split
        · exact ⟨_, rfl⟩
        · split
          · split <;> exact ⟨_, rfl⟩
          · exact ⟨_, rfl⟩

theorem exec_arrival_slot {i : Nat} {v : W64} (h : s.arriving c x a.id = some a) (ha : a.ans = .slot i v) :
    exec (.syncAnswerArrival c x a.id) s = .next ((s.answerTaken a).modCtx c x fun k =>
      { k with arq := k.arq.map fun e => if e.id = i then { e with val := some v } else e }) := by
  change execSyncAnswerArrival c x a.id s = _
  rw [State.arriving] at h
  simp only [execSyncAnswerArrival, h, ha]
  rfl

theorem exec_arrival_mark {i n : Nat} {v : W64} (h : s.arriving c x a.id = some a) (ha : a.ans = .mark i n v) :
    exec (.syncAnswerArrival c x a.id) s = .next ((s.answerTaken a).modCtx c x fun k =>
      { k with arq := k.arq.map fun e => if e.id = i then { e with mark := some n, tval := v } else e }) := by
  change execSyncAnswerArrival c x a.id s = _
  rw [State.arriving] at h
  simp only [execSyncAnswerArrival, h, ha]
  rfl

/-- A word that waits for its issue keeps its answer. -/
theorem exec_arrival_kept {v : Answer} (h : s.arriving c x a.id = some a) (ha : a.ans = .wait w.id v) (hw : (s.ctx c x).sWait = some w)
    (hi : w.issued = false) :
    exec (.syncAnswerArrival c x a.id) s = .next ((s.answerTaken a).modCtx c x fun k => { k with sWait := some { w with answer := some v } }) := by
  change execSyncAnswerArrival c x a.id s = _
  rw [State.arriving] at h
  rw [State.ctx] at hw
  simp only [execSyncAnswerArrival, h, ha, hw, hi, ne_eq, not_true_eq_false, Bool.false_eq_true, if_false]
  rfl

/-- A word that has issued is over with its answer, unless its meadow is frozen. -/
theorem exec_arrival_over {v : Answer} (h : s.arriving c x a.id = some a) (ha : a.ans = .wait w.id v) (hw : (s.ctx c x).sWait = some w)
    (hi : w.issued = true) (hf : (s.mdw c).frozen = false) :
    exec (.syncAnswerArrival c x a.id) s = .next ((s.answerTaken a).modCtx c x fun k => k.finishWait w (s.mdw c).mtc s.gtc v) := by
  change execSyncAnswerArrival c x a.id s = _
  rw [State.arriving] at h
  rw [State.ctx] at hw
  simp only [execSyncAnswerArrival, h, ha, hw, hi, hf, ne_eq, not_true_eq_false, Bool.false_eq_true, if_false, if_true]
  rfl

/-- An answer changes its context alone. -/
theorem arrives {i : Instr} {f : Ctx → Ctx} (he : exec i s = .next ((s.answerTaken a).modCtx c x f)) :
    ∃ t, exec i s = .next t ∧ OnlyCtx s t c x ∧ t.ctx c x = f (s.ctx c x) :=
  ⟨_, he, onlyCtx_trans (onlyCtx_of_eq (t := s.answerTaken a) c x rfl rfl rfl) (onlyCtx_modCtx ..), State.modCtx_ctx ..⟩

/-! ## The word whose wait is over (R234, R396) -/

theorem Ctx.finishWait_ok (k : Ctx) (w : SWait) (mtc g : Nat) (v : W64) (h0 : w.rd ≠ 0) :
    (k.finishWait w mtc g (.ok v)).sWait = none ∧ (k.finishWait w mtc g (.ok v)).sc.pc = k.sc.pc + 4 ∧
      ((k.finishWait w mtc g (.ok v)).sc.settle (mtc + 1)).get w.rd = v.setWidth 32 :=
  ⟨rfl, SCore.push_pc .., SCore.get_settle_push _ _ h0 le_rfl⟩

theorem Ctx.finishWait_trap {k : Ctx} (hk : k.trap = none) (w : SWait) (mtc g n : Nat) (v : W64) :
    (k.finishWait w mtc g (.trap n v)).sWait = none ∧ (k.finishWait w mtc g (.trap n v)).sc = k.sc ∧
      ∃ p, (k.finishWait w mtc g (.trap n v)).trap = some p ∧ p.cause = n ∧ p.tval = v ∧ p.tpc = w.pc ∧ p.sepc = .atWord := by
  rw [Ctx.finishWait, Ctx.addCause_of_none (k := { k with sWait := none }) hk]
  exact ⟨rfl, rfl, _, rfl, rfl, rfl, rfl, rfl⟩

end

/-! ## A wait that has lapsed (R237, R239, R241) -/

section
variable {s : State} {d : Nat} {r : SyncReq} {h : HeldLine}

theorem completes_boundedWaitExpiry (d id : Nat) : Completes (.boundedWaitExpiry d id) := by
  intro s
  change ∃ t, execBoundedWaitExpiry d id s = .next t
  unfold execBoundedWaitExpiry
  split <;> exact ⟨_, rfl⟩

theorem exec_boundedWaitExpiry (hr : (s.eng d).waiters.find? (fun q => q.id == r.id) = some r) :
    exec (.boundedWaitExpiry d r.id) s =
      .next (s.endWait d r (.trap (r.expiry (s.lineData d r.va r.pa).1).1 (r.expiry (s.lineData d r.va r.pa).1).2)) := by
  change execBoundedWaitExpiry d r.id s = _
  rw [execBoundedWaitExpiry, hr]

theorem endWait_waiters (s : State) (d : Nat) (r : SyncReq) (a : Answer) : ∀ q ∈ ((s.endWait d r a).eng d).waiters, q.id ≠ r.id := by
  intro q hq
  change q ∈ ((s.modEng d fun e => { e with waiters := e.waiters.filter fun q => q.id ≠ r.id }).eng d).waiters at hq
  rw [State.modEng_eng] at hq
  exact of_decide_eq_true (List.mem_filter.1 hq).2

/-- The wait r is over: its engine answers a cause, and memory and the meadows stay. -/
theorem expires {cause tval : Nat} (hr : (s.eng d).waiters.find? (fun q => q.id == r.id) = some r) (hl : (s.eng d).lines = [h])
    (hline : h.isLine r.va r.pa = true) (he : r.expiry h.data = (cause, BitVec.ofNat 64 tval)) :
    ∃ t a, exec (.boundedWaitExpiry d r.id) s = .next t ∧ (∀ q ∈ (t.eng d).waiters, q.id ≠ r.id) ∧ memSame s t ∧ t.meadows = s.meadows ∧
      t.answers = s.answers ++ [a] ∧ a.coord = r.coord ∧ a.ctx = r.ctx ∧ a.ans = .wait r.id (.trap cause (BitVec.ofNat 64 tval)) := by
  have hdata : s.lineData d r.va r.pa = (h.data, h.poison) := by
    have hfind : (s.eng d).lines.find? (fun h => h.isLine r.va r.pa) = some h := by rw [hl, List.find?_cons, hline]
    rw [State.lineData, hfind]
  have hrun := exec_boundedWaitExpiry hr
  rw [hdata, he] at hrun
  exact ⟨_, _, hrun, endWait_waiters s d r _, fun _ => rfl, rfl, rfl, rfl, rfl, rfl⟩

end

end Sys2Proof.Machine

namespace Sys2Proof
open Sys2Proof.Machine

/-- Settles O40: each kind of answer changes its context alone, and a wait that has lapsed answers the cause of its word. -/
theorem syncAnswers : Obligations.SyncAnswers := by
  unfold Obligations.SyncAnswers
  refine ⟨completes_syncAnswerArrival, completes_boundedWaitExpiry, fun s c x a ha => ?_, fun s d r h hr hl hline => ?_⟩
  · refine ⟨fun i v hv => ?_, fun i n v hv => ?_, fun w v hv hw hi => ?_, fun w v hv hw hi hf h0 => ?_, fun w n v hv hw hi hf ht => ?_⟩
    · obtain ⟨t, he, honly, hk⟩ := arrives (exec_arrival_slot ha hv)
      exact ⟨t, he, honly, hk ▸ ⟨rfl, rfl⟩⟩
    · obtain ⟨t, he, honly, hk⟩ := arrives (exec_arrival_mark ha hv)
      exact ⟨t, he, honly, hk ▸ ⟨rfl, rfl⟩⟩
    · obtain ⟨t, he, honly, hk⟩ := arrives (exec_arrival_kept ha hv hw hi)
      exact ⟨t, he, honly, hk ▸ ⟨rfl, rfl⟩⟩
    · obtain ⟨t, he, honly, hk⟩ := arrives (exec_arrival_over ha hv hw hi hf)
      exact ⟨t, he, honly, hk ▸ Ctx.finishWait_ok _ w _ _ v h0⟩
    · obtain ⟨t, he, honly, hk⟩ := arrives (exec_arrival_over ha hv hw hi hf)
      exact ⟨t, he, honly, hk ▸ Ctx.finishWait_trap ht w _ _ n v⟩
  · refine ⟨fun g l i hop => expires hr hl hline ?_, fun b k l i hop => expires hr hl hline ?_, fun g l i hop => expires hr hl hline ?_⟩ <;>
      rw [SyncReq.expiry, hop]

end Sys2Proof

end

section
/-! SUPPORT. Launch records and launches (O44): what stays of the machine's service of its launches while lines are scrubbed, written and
reached, and then the start of a record and the completion of a launch. -/
namespace Sys2Proof.Machine

/-! ## What the machine serves -/

/-- From s to t the launches, the regions, the region of each meadow, and the HCPs that run, stay. -/
structure SameService (s t : State) : Prop where
  launches : t.launches = s.launches
  regions : t.regions = s.regions
  serves : ∀ c, (t.mdw c).region = (s.mdw c).region
  running : ∀ h, (t.hcp h).running = (s.hcp h).running

section
variable {s t u : State}

theorem SameService.refl (s : State) : SameService s s := ⟨rfl, rfl, fun _ => rfl, fun _ => rfl⟩

theorem SameService.trans (h : SameService s t) (g : SameService t u) : SameService s u :=
  ⟨g.launches.trans h.launches, g.regions.trans h.regions, fun c => (g.serves c).trans (h.serves c), fun i => (g.running i).trans (h.running i)⟩

/-- A step outside the launches, the regions, the meadows and the HCPs. -/
theorem SameService.of_eq (h : SameService s t)
    (e : (u.launches, u.regions, u.meadows, u.hcps) = (t.launches, t.regions, t.meadows, t.hcps)) : SameService s u := by
  obtain ⟨hl, hr, hm, hh⟩ : u.launches = t.launches ∧ u.regions = t.regions ∧ u.meadows = t.meadows ∧ u.hcps = t.hcps := by
    simpa only [Prod.mk.injEq] using e
  exact h.trans ⟨hl, hr, fun c => by rw [State.mdw, hm, State.mdw], fun i => by rw [State.hcp, hh, State.hcp]⟩

theorem SameService.foldl {α : Type} {f : State → α → State} (h : SameService s t) (hf : ∀ u a, SameService s u → SameService s (f u a)) (l : List α) :
    SameService s (l.foldl f t) := by
  induction l generalizing t with
  | nil => exact h
  | cons a l ih => exact ih (hf t a h)

theorem SameService.ite {p : Prop} [Decidable p] (ht : SameService s t) (hu : SameService s u) : SameService s (if p then t else u) := by
  split
  · exact ht
  · exact hu

theorem SameService.setMdw {c : Nat} {m : Meadow} (h : SameService s t) (hm : m.region = (t.mdw c).region) : SameService s (t.setMdw c m) := by
  refine h.trans ⟨rfl, rfl, fun d => ?_, fun _ => rfl⟩
  by_cases hd : d = c
  · rw [hd, State.setMdw_mdw, hm]
  · rw [State.setMdw_mdw_ne _ _ hd]

theorem SameService.modCtx {c x : Nat} {f : Ctx → Ctx} (h : SameService s t) : SameService s (t.modCtx c x f) := h.setMdw rfl

theorem SameService.modHcp {i : Nat} {f : Hcp → Hcp} (h : SameService s t) (hf : ∀ k, (f k).running = k.running) : SameService s (t.modHcp i f) := by
  refine h.trans ⟨rfl, rfl, fun _ => rfl, fun j => ?_⟩
  by_cases hj : j = i
  · rw [hj, State.modHcp_hcp, hf]
  · rw [State.modHcp_hcp_ne _ _ hj]

theorem SameService.modEng {d : Nat} {f : SyncEngine → SyncEngine} (h : SameService s t) : SameService s (t.modEng d f) := h.of_eq rfl
theorem SameService.logErr {log cause : Nat} {d : W64} (h : SameService s t) : SameService s (t.logErr log cause d) := h.of_eq rfl
theorem SameService.poisonLine {pa : Nat} (h : SameService s t) : SameService s (t.poisonLine pa) := h.of_eq rfl

/-! ## Scrubs and writes -/

theorem SameService.sramScrub {pa len : Nat} (h : SameService s t) : SameService s (t.sramScrub pa len) :=
  h.foldl (fun _ _ hu => hu.foldl (fun _ _ hv => hv.modEng.logErr) _) _

theorem SameService.dieScrub {pa len : Nat} (h : SameService s t) : SameService s (t.dieScrub pa len) := by
  refine h.foldl (fun u e hu => ?_) _
  have hd : SameService s { u with dramErr := tdel u.dramErr e.1 } := hu.of_eq rfl
  exact .ite hd.logErr hd.poisonLine.logErr

theorem SameService.dramScrub {pa len : Nat} (h : SameService s t) : SameService s (t.dramScrub pa len) :=
  h.foldl (fun _ _ hu => .ite hu.sramScrub hu.dieScrub) _

theorem SameService.scrubParts {ps : List Part} (h : SameService s t) : SameService s (t.scrubParts ps) :=
  .ite h (h.foldl (fun _ _ hu => .ite (hu.foldl (fun _ _ hv => .ite hv.sramScrub hv.dieScrub) _) hu) _)

theorem SameService.scrubImage {m : Meadow} {area : Nat} (h : SameService s t) : SameService s (t.scrubImage m area) :=
  .ite h (h.dramScrub.foldl (fun _ _ hu => hu.scrubParts) _)

theorem SameService.dramWrite {pa key : Nat} {d : Line} {mask : BitVec 64} (h : SameService s t) : SameService s (t.dramWrite pa key d mask) :=
  h.of_eq rfl

theorem SameService.arrayWrite {va pa key : Nat} {d : Line} {mask : BitVec 64} (h : SameService s t) :
    SameService s (t.arrayWrite va pa key d mask) := by
  unfold State.arrayWrite
  split
  · exact h.modEng
  · exact h.dramWrite

theorem SameService.writeRun {key fuel va pa len v mask : Nat} (h : SameService s t) : SameService s (t.writeRun key fuel va pa len v mask) := by
  induction fuel generalizing t va pa len v mask with
  | zero => exact h
  | succ fuel ih =>
    unfold State.writeRun
    exact .ite h (ih (.ite h h.arrayWrite))

theorem SameService.writeParts {ps : List Part} {v mask : Nat} (h : SameService s t) : SameService s (t.writeParts ps v mask) :=
  h.foldl (fun _ _ hu => hu.writeRun) _

/-! ## Lines reached at an engine (R229, R379) -/

theorem SameService.arbPut {pa : Nat} {r : ArbReq} {gran : Bool} (h : SameService s t) : SameService s (t.arbPut pa r gran) := by
  unfold State.arbPut
  split
  · exact h
  · exact h.of_eq rfl

theorem SameService.writeBack {d : Nat} {l : HeldLine} (h : SameService s t) : SameService s (t.writeBack d l) := by
  have hs := SameService.modEng (d := d) (f := fun e => { e with lines := e.lines.filter fun g => !g.isLine l.va l.pa })
    (.ite (p := t.sramBad d l = true) (h.sramScrub (pa := l.pa) (len := 64)) h)
  have hw := SameService.ite (p := l.dirty = 0) hs (hs.dramWrite (pa := l.pa) (key := l.key) (d := l.data) (mask := l.dirty))
  exact .ite hw.poisonLine hw

theorem SameService.evict {d : Nat} {l : HeldLine} (h : SameService s t) : SameService s (t.evict d l) := by
  have hw : SameService s (t.writeBack d l).nextSeq.2 := h.writeBack.of_eq rfl
  exact .ite hw hw.arbPut

theorem SameService.makeRoom {d : Nat} (h : SameService s t) : SameService s (t.makeRoom d) := by
  unfold State.makeRoom
  dsimp only
  split
  · exact h
  · split
    · exact h.evict
    · exact h

theorem SameService.landConflict {l : Landing} {line : Nat} (h : SameService s t) : SameService s (t.landConflict l line) := by
  unfold State.landConflict
  extract_lets s1 s2
  have hs1 : SameService s s1 := .ite h h.logErr
  have hs2 : SameService s s2 := hs1.of_eq rfl
  split
  · exact hs2
  · refine (hs2.modHcp fun k => ?_).foldl (fun _ _ hu => hu.modEng) _
    change (if _ then _ else k : Hcp).running = k.running
    split <;> rfl

theorem SameService.landTouch {pa : Nat} (h : SameService s t) : SameService s (t.landTouch pa) :=
  h.foldl (fun _ _ hu => .ite hu.landConflict hu) _

theorem SameService.reachLine {d va pa key : Nat} (h : SameService s t) : SameService s (t.reachLine d va pa key) := by
  unfold State.reachLine
  extract_lets s1
  have hs1 : SameService s s1 := h.makeRoom.dieScrub
  split
  · extract_lets
    exact .modEng (.ite h.sramScrub h)
  · exact .ite h hs1.modEng.landTouch

theorem SameService.repin (h : SameService s t) : SameService s t.repin := h.foldl (fun _ _ hu => hu.modEng) _

/-! ## The ends of a launch and of a region -/

theorem SameService.launchPost {m : Meadow} {l : Launch} (h : SameService s t) : SameService s (t.launchPost m l) := by
  unfold State.launchPost
  split
  · exact h
  · split
    · exact .modEng (h.of_eq rfl)
    · exact h

theorem SameService.settleLq {q : Nat} (h : SameService s t) : SameService s (t.settleLq q) := by
  unfold State.settleLq
  extract_lets
  split
  · exact .ite h (h.of_eq rfl)
  · exact h

theorem SameService.noticeRelease {ws : List (Nat × Nat × Nat)} (h : SameService s t) : SameService s (t.noticeRelease ws) := by
  unfold State.noticeRelease
  split
  · exact h
  · refine h.trans ⟨rfl, rfl, fun c => ?_, fun _ => rfl⟩
    rw [State.mdw, State.mdw]
    induction t.meadows with
    | nil => rfl
    | cons a l ih =>
      simp only [List.map_cons, tgetD, tget] at ih ⊢
      split
      · rfl
      · exact ih

theorem SameService.undeclareAll {region : Nat} (h : SameService s t) : SameService s (t.undeclareAll region) :=
  h.foldl (fun _ _ hu => hu.modEng.noticeRelease) _

theorem SameService.nextGens {c : Nat} (h : SameService s t) : SameService s (t.nextGens c) := by
  unfold State.nextGens
  refine h.foldl (fun _ _ hu => ?_) _
  extract_lets
  exact .modCtx (.of_eq hu rfl)

end

/-! ## A record that starts (R285, R286) -/

theorem takeSlot_meadows (s : State) (m : Meadow) (q slot : Nat) : (s.takeSlot m q slot).meadows = s.meadows := by
  unfold State.takeSlot
  dsimp only
  split
  · rfl
  · split
    · exact writeParts_meadows ..
    · rfl

/-- The state with the record taken from its queue. -/
def State.recordTaken (s : State) (q slot : Nat) : State := s.nextSeq.2.takeSlot (s.queueView q) q slot
/-- The launch that the record becomes now. -/
def State.newLaunch (s : State) (q slot : Nat) (d : Line) : Launch := launchOf q slot s.nextSeq.1 s.gtc d

theorem recordTaken_mdw (s : State) (q slot c : Nat) : (s.recordTaken q slot).mdw c = s.mdw c :=
  congrArg (fun t => tgetD t c ({} : Meadow)) (takeSlot_meadows s.nextSeq.2 _ q slot)

/-- Record d of a queue's slot may start. -/
structure MayStart (s : State) (q slot : Nat) (d : Line) : Prop where
  clean : s.memClean = true
  enabled : (s.lqOf q).en = true
  unheld : (slotBatch slot).map (·.1) = none → (s.lqOf q).pending = none
  found : (s.openRecords (s.queueView q) q ((slotBatch slot).map (·.1))).find? (fun p => decide (p.1 = slot)) = some (slot, d)
  first : firstOfRcb (s.openRecords (s.queueView q) q ((slotBatch slot).map (·.1))) slot d = true
  after : s.afterMet (s.queueView q) d = true

/-- The record is a launch that has its end, and completes in this cycle. -/
def State.recordRefused (s : State) (q slot : Nat) (d : Line) (e : EndInfo) : State :=
  ({ s.recordTaken q slot with
    launches := (s.recordTaken q slot).launches ++ [{ s.newLaunch q slot d with fin := some e }] } : State).now [.launchCompletion s.nextSeq.1]

/-- What becomes of a record d that may start, by what it is found to be. -/
def State.startAs (s : State) (q slot : Nat) (d : Line) : Verdict → Res
  | .refuse e => .next (s.recordRefused q slot d e)
  | .batch n => .next { s.recordTaken q slot with
      launches := (s.recordTaken q slot).launches ++ [{ s.newLaunch q slot d with todo := s.batchList (s.queueView q) (recRcb d) n }] }
  | .kernel p => if p.hcps.any s.hcpBusy then .next s
    else .next ((s.recordTaken q slot).startKernel (s.queueView q) (s.newLaunch q slot d) p)
  | .region p =>
    if s.claimedAbove p.prio p.plist then .next s
    else if p.plist.all s.meadowFree then
      (if s.beatRoom p then .next ((s.recordTaken q slot).placeRegion (s.newLaunch q slot d) p) else .next s)
    else .next (s.claim q slot p)

section
variable {s : State} {q slot : Nat} {d : Line}

theorem MayStart.exec (h : MayStart s q slot d) : exec (.launchRecordStart q slot) s =
    s.startAs q slot d (s.judgeRecord (s.queueView q) ((slotBatch slot).map (·.1)).isSome d) := by
  change execLaunchRecordStart q slot s = _
  have hscrub : s.scrubQueue q ((slotBatch slot).map (·.1)) slot = s := if_pos h.clean
  have hopen : (!(s.lqOf q).en || (((slotBatch slot).map (·.1)).isNone && (s.lqOf q).pending.isSome)) = false := by
    rw [h.enabled]
    cases hb : (slotBatch slot).map (·.1) with
    | none => rw [h.unheld hb]; rfl
    | some b => rfl
  simp only [execLaunchRecordStart, hscrub, hopen, h.found, h.first, h.after, Bool.not_true, Bool.or_self, Bool.false_eq_true, if_false]
  rfl

/-- A refused record is a launch with its end, which completes in this cycle. -/
theorem MayStart.refuse (h : MayStart s q slot d) {e : EndInfo}
    (hj : s.judgeRecord (s.queueView q) ((slotBatch slot).map (·.1)).isSome d = .refuse e) :
    ∃ t l, Machine.exec (.launchRecordStart q slot) s = .next t ∧ l ∈ t.launches ∧ l.queue = q ∧ l.slot = slot ∧ l.fin = some e ∧
      (∀ c, t.mdw c = s.mdw c) ∧ Act.ev (.launchCompletion l.id) ∈ t.agenda :=
  ⟨s.recordRefused q slot d e, { s.newLaunch q slot d with fin := some e }, by rw [h.exec, hj]; rfl,
    List.mem_append_right _ (List.mem_singleton.2 rfl), rfl, rfl, rfl, recordTaken_mdw s q slot, List.mem_cons_self⟩

end

/-! ## A region that is placed (R9, R287) -/

/-- From s to t the regions stay, meadow c serves region g now, and every other meadow serves what it did. -/
structure PlacedAt (s t : State) (c g : Nat) : Prop where
  regions : t.regions = s.regions
  here : (t.mdw c).region = some g
  others : ∀ b, b ≠ c → (t.mdw b).region = (s.mdw b).region

section
variable {s t u : State} {c g : Nat}

theorem SameService.placedAt (h : SameService s t) (g1 : PlacedAt t u c g) : PlacedAt s u c g :=
  ⟨g1.regions.trans h.regions, g1.here, fun b hb => (g1.others b hb).trans (h.serves b)⟩

theorem PlacedAt.sameService (h : PlacedAt s t c g) (g1 : SameService t u) : PlacedAt s u c g :=
  ⟨g1.regions.trans h.regions, (g1.serves c).trans h.here, fun b hb => (g1.serves b).trans (h.others b hb)⟩

theorem placedAt_setMdw (s : State) {m : Meadow} (hm : m.region = some g) : PlacedAt s (s.setMdw c m) c g :=
  ⟨rfl, by rw [State.setMdw_mdw, hm], fun b hb => by rw [State.setMdw_mdw_ne _ _ hb]⟩

end

theorem loadImage_region (s : State) (c area : Nat) : (s.loadImage c area).region = (s.mdw c).region := rfl

theorem modCtxs_region (f : Nat → Ctx → Ctx) (l : List Nat) (m : Meadow) :
    (l.foldl (fun m x => m.modCtx x (f x)) m).region = m.region := by
  induction l generalizing m with
  | nil => rfl
  | cons x l ih => exact ih _

theorem placedAt_resumeMeadow (s : State) (r : Region) (rank c : Nat) : PlacedAt s (s.resumeMeadow r rank c) c r.id := by
  unfold State.resumeMeadow
  extract_lets s0 s1 m base
  have hscrub : SameService s s0 := .scrubImage (.refl s)
  have hnew : PlacedAt s0 s1 c r.id := placedAt_setMdw s0 (m := s0.newMeadow r rank c) rfl
  have hload : m.region = (s1.mdw c).region := loadImage_region s1 c (areaOf r.area rank)
  exact (hscrub.placedAt hnew).sameService (.setMdw (.refl s1) ((modCtxs_region _ _ m).trans hload))

theorem placedAt_placeMeadow (s : State) (r : Region) (rank c : Nat) : PlacedAt s (s.placeMeadow r rank c) c r.id := by
  have hscrub : SameService s (s.scrubImage (s.newMeadow r rank c) (areaOf r.area rank)) := .scrubImage (.refl s)
  unfold State.placeMeadow
  extract_lets area s0 m s1
  refine (hscrub.placedAt ?_).sameService (.nextGens (.refl _))
  by_cases hv : s0.areaValid m area = true
  · rw [show s1 = s0.resumeMeadow r rank c from if_pos hv]
    exact placedAt_resumeMeadow s0 r rank c
  · rw [show s1 = s0.setMdw c (if s0.areaInit m area then s0.withInit m m area else m) from if_neg hv]
    refine placedAt_setMdw s0 ?_
    split <;> rfl

/-- From s to t the regions stay, the listed meadows serve region g now, and every other meadow serves what it did. -/
structure PlacedOn (s t : State) (cs : List Nat) (g : Nat) : Prop where
  regions : t.regions = s.regions
  here : ∀ c ∈ cs, (t.mdw c).region = some g
  others : ∀ c, c ∉ cs → (t.mdw c).region = (s.mdw c).region

theorem placedOn_foldl (r : Region) (cs : List (Nat × Nat)) (s : State) :
    PlacedOn s (cs.foldl (fun s c => s.placeMeadow r c.2 c.1) s) (cs.map (·.1)) r.id := by
  induction cs generalizing s with
  | nil => exact ⟨rfl, fun c hc => absurd hc List.not_mem_nil, fun _ _ => rfl⟩
  | cons a cs ih =>
    have hone := placedAt_placeMeadow s r a.2 a.1
    have hrest := ih (s.placeMeadow r a.2 a.1)
    refine ⟨hrest.regions.trans hone.regions, fun c hc => ?_, fun c hc => ?_⟩
    · by_cases hin : c ∈ cs.map (·.1)
      · exact hrest.here c hin
      · obtain rfl : c = a.1 := (List.mem_cons.1 hc).resolve_right hin
        exact (hrest.others _ hin).trans hone.here
    · rw [List.map_cons, List.mem_cons, not_or] at hc
      obtain ⟨hne, hnot⟩ := hc
      exact (hrest.others c hnot).trans (hone.others c hne)

/-- A placed region is in the machine's list, and its meadows, no others, serve it. -/
theorem placeRegion_places (s : State) (l : Launch) (p : Plan) :
    ∃ r ∈ (s.placeRegion l p).regions, r.rcb = p.region.va ∧ r.plist = p.plist ∧ r.eff = p.prio ∧
      (∀ c ∈ p.plist, ((s.placeRegion l p).mdw c).region = some r.id) ∧
      ∀ c, c ∉ p.plist → ((s.placeRegion l p).mdw c).region = (s.mdw c).region := by
  unfold State.placeRegion
  extract_lets
  dsimp -zeta only
  extract_lets r l1 s1
  have hplaced := placedOn_foldl r p.plist.zipIdx s1
  rw [List.zipIdx_map_fst] at hplaced
  exact ⟨r, by rw [hplaced.regions]; exact List.mem_append_right _ (List.mem_singleton.2 rfl), rfl, rfl, rfl, hplaced.here, hplaced.others⟩

theorem MayStart.region {s : State} {q slot : Nat} {d : Line} {p : Plan} (h : MayStart s q slot d)
    (hj : s.judgeRecord (s.queueView q) ((slotBatch slot).map (·.1)).isSome d = .region p) (hclaim : s.claimedAbove p.prio p.plist = false)
    (hfree : p.plist.all s.meadowFree = true) (hroom : s.beatRoom p = true) :
    Machine.exec (.launchRecordStart q slot) s = .next ((s.recordTaken q slot).placeRegion (s.newLaunch q slot d) p) := by
  rw [h.exec, hj, State.startAs, hclaim, hfree, hroom]
  rfl

/-! ## A kernel that starts (R250, R251) -/

theorem startHcps_launches (m : Meadow) (l : Launch) (p : KPlan) (hs : List (Nat × Nat)) (s : State) :
    (hs.foldl (fun s h => s.startHcp m l p h.2 h.1) s).launches = s.launches := by
  induction hs generalizing s with
  | nil => rfl
  | cons a hs ih => exact ih _

theorem startHcp_running (s : State) (m : Meadow) (l : Launch) (p : KPlan) (k i : Nat) : ((s.startHcp m l p k i).hcp i).running = true := by
  unfold State.startHcp
  extract_lets
  rw [State.modHcp_hcp]

theorem startHcp_hcp_ne (s : State) (m : Meadow) (l : Launch) (p : KPlan) (k : Nat) {i j : Nat} (h : j ≠ i) :
    (s.startHcp m l p k i).hcp j = s.hcp j := State.modHcp_hcp_ne _ _ h

/-- HCPs that start run, and those that ran go on. -/
theorem startHcps_running (m : Meadow) (l : Launch) (p : KPlan) (hs : List (Nat × Nat)) (s : State) {h : Nat}
    (hh : h ∈ hs.map (·.1) ∨ (s.hcp h).running = true) : ((hs.foldl (fun s h => s.startHcp m l p h.2 h.1) s).hcp h).running = true := by
  induction hs generalizing s with
  | nil => exact hh.resolve_left List.not_mem_nil
  | cons a hs ih =>
    refine ih _ ?_
    by_cases ha : h = a.1
    · right
      rw [ha]
      exact startHcp_running ..
    · rw [startHcp_hcp_ne _ _ _ _ _ ha]
      exact hh.imp_left fun hm => (List.mem_cons.1 hm).resolve_left ha

theorem startKernel_runs (s : State) (m : Meadow) (l : Launch) (p : KPlan) :
    ∃ k ∈ (s.startKernel m l p).launches, k.hcps = p.hcps ∧ ∀ h ∈ p.hcps, ((s.startKernel m l p).hcp h).running = true := by
  unfold State.startKernel
  extract_lets entries l1 s1 s2
  have hreach : SameService s2 (p.posts.foldl (fun s q => s.reachLine (homeDie q.2.1) q.2.1 q.2.2.1 q.2.2.2) s2).repin :=
    ((SameService.refl s2).foldl (fun _ _ hu => hu.reachLine) _).repin
  refine ⟨l1, ?_, rfl, fun h hh => ?_⟩
  · rw [hreach.launches, show s2.launches = s1.launches from startHcps_launches ..]
    exact List.mem_append_right _ (List.mem_singleton.2 rfl)
  · rw [hreach.running]
    refine startHcps_running m l1 p p.hcps.zipIdx s1 (.inl ?_)
    rwa [List.zipIdx_map_fst]

theorem MayStart.kernel {s : State} {q slot : Nat} {d : Line} {p : KPlan} (h : MayStart s q slot d)
    (hj : s.judgeRecord (s.queueView q) ((slotBatch slot).map (·.1)).isSome d = .kernel p) (hidle : ∀ i ∈ p.hcps, s.hcpBusy i = false) :
    Machine.exec (.launchRecordStart q slot) s =
      .next ((s.recordTaken q slot).startKernel (s.queueView q) (s.newLaunch q slot d) p) := by
  have hany : p.hcps.any s.hcpBusy = false := List.any_eq_false.2 fun i hi => by rw [hidle i hi]; exact Bool.false_ne_true
  rw [h.exec, hj, State.startAs, hany]
  rfl

/-! ## A launch that completes (R288, R291) -/

/-- From s to t region r is over: it is in no list, and its meadows are free. -/
structure RegionOver (s t : State) (r : Region) : Prop where
  gone : ∀ g ∈ t.regions, g.id ≠ r.id
  freed : ∀ c ∈ r.plist, (s.mdw c).region = some r.id → (t.mdw c).region = none

section
variable {s t u : State} {r : Region}

theorem SameService.regionOver (h : SameService s t) (g : RegionOver t u r) : RegionOver s u r :=
  ⟨g.gone, fun c hc hr => g.freed c hc ((h.serves c).trans hr)⟩

theorem RegionOver.sameService (h : RegionOver s t r) (hr : u.regions = t.regions) (hm : ∀ c, (u.mdw c).region = (t.mdw c).region) :
    RegionOver s u r :=
  ⟨fun g hg => h.gone g (hr ▸ hg), fun c hc hs => (hm c).trans (h.freed c hc hs)⟩

/-- Meadow c is free if it serves the region with this id. -/
def State.freedOf (s : State) (id c : Nat) : State := if (s.mdw c).region = some id then s.modMdw c Meadow.release else s

theorem freedOf_self {id c : Nat} (h : (s.mdw c).region = some id) : ((s.freedOf id c).mdw c).region = none := by
  rw [State.freedOf, if_pos h, State.modMdw_mdw]
  rfl

theorem freedOf_ne (id : Nat) {a c : Nat} (h : c ≠ a) : (s.freedOf id a).mdw c = s.mdw c := by
  unfold State.freedOf
  split
  · exact State.modMdw_mdw_ne _ _ h
  · rfl

theorem freedOf_none {id a c : Nat} (h : (s.mdw c).region = none) : ((s.freedOf id a).mdw c).region = none := by
  by_cases hc : c = a
  · have hstay : s.freedOf id a = s := if_neg (by rw [← hc, h]; exact nofun)
    rw [hstay, h]
  · rw [freedOf_ne id hc, h]

/-- A meadow is free once its region has been dropped from it, and a free one stays free. -/
theorem freedOf_foldl (id : Nat) (cs : List Nat) (s : State) {c : Nat} (hc : (s.mdw c).region = none ∨ c ∈ cs ∧ (s.mdw c).region = some id) :
    ((cs.foldl (fun s c => if (s.mdw c).region = some id then s.modMdw c Meadow.release else s) s).mdw c).region = none := by
  induction cs generalizing s with
  | nil => exact hc.resolve_right fun h => absurd h.1 List.not_mem_nil
  | cons a cs ih =>
    refine ih (s.freedOf id a) ?_
    rcases hc with hnone | ⟨hin, hserves⟩
    · exact .inl (freedOf_none hnone)
    · by_cases hca : c = a
      · exact .inl (hca ▸ freedOf_self (hca ▸ hserves))
      · rw [freedOf_ne id hca]
        exact .inr ⟨(List.mem_cons.1 hin).resolve_left hca, hserves⟩

theorem regionOver_dropRegion (s : State) (r : Region) : RegionOver s (s.dropRegion r) r := by
  unfold State.dropRegion
  extract_lets s1 s2
  have hund : SameService s1 s2 := .undeclareAll (.refl s1)
  have hfreed : ∀ c ∈ r.plist, (s.mdw c).region = some r.id → (s1.mdw c).region = none :=
    fun c hc hr => freedOf_foldl r.id r.plist s (.inr ⟨hc, hr⟩)
  clear_value s1 s2
  exact ⟨fun g hg => by simpa using (List.mem_filter.1 hg).2, fun c hc hr => (hund.serves c).trans (hfreed c hc hr)⟩

theorem launchCompletion_ends {l : Launch} (hl : s.launches.find? (fun k => decide (k.id = l.id)) = some l) (hd : s.launchDone l = true) :
    ∃ t, exec (.launchCompletion l.id) s = .next t ∧ (∀ k ∈ t.launches, k.id ≠ l.id) ∧
      ∀ r, s.regions.find? (fun r => decide (r.launch = l.id)) = some r → RegionOver s t r := by
  change ∃ t, execLaunchCompletion l.id s = .next t ∧ _
  unfold execLaunchCompletion
  rw [hl]
  dsimp -zeta only
  rw [hd]
  simp -zeta only [Bool.not_true, Bool.false_eq_true, if_false]
  extract_lets e m reg u g s1 s2 s3 note s4
  have hs2 : SameService s s2 := by
    have hu : SameService s u := by
      dsimp only [u]
      split
      · exact .writeParts (.refl s)
      · exact .refl s
    exact .launchPost (.ite (hu.of_eq rfl) (.refl s))
  have hs4 : SameService s4 ((if l.kind = 2 then s4.repin else s4).settleLq l.queue) := .settleLq (.ite (.repin (.refl s4)) (.refl s4))
  refine ⟨_, rfl, fun k hk => ?_, fun r hr => ?_⟩
  · rw [hs4.launches] at hk
    obtain ⟨k0, hk0, rfl⟩ := List.mem_map.1 hk
    have hne : k0.id ≠ l.id := by simpa using (List.mem_filter.1 hk0).2
    change (ite _ _ k0 : Launch).id ≠ l.id
    split <;> exact hne
  · have hs3 : s3 = s2.dropRegion r := by
      change (match reg with | some r => s2.dropRegion r | none => s2) = _
      rw [show reg = some r from hr]
    have hover : RegionOver s s3 r := hs3 ▸ hs2.regionOver (regionOver_dropRegion s2 r)
    exact (hover.sameService (u := s4) rfl fun _ => rfl).sameService hs4.regions hs4.serves

end

/-! ## Both events go on -/

/-- A result that is a next state. -/
def Res.goesOn (r : Res) : Prop := ∃ t, r = .next t

theorem goesOn_next (s : State) : Res.goesOn (.next s) := ⟨s, rfl⟩

theorem goesOn_ite {p : Prop} [Decidable p] {a b : Res} (ha : Res.goesOn a) (hb : Res.goesOn b) : Res.goesOn (if p then a else b) := by
  split
  · exact ha
  · exact hb

theorem completes_launchRecordStart (q slot : Nat) : Completes (.launchRecordStart q slot) := by
  intro s
  change Res.goesOn (execLaunchRecordStart q slot s)
  unfold execLaunchRecordStart
  extract_lets s1 _ _
  refine goesOn_ite (goesOn_next s1) ?_
  extract_lets
  split
  · exact goesOn_next s1
  · refine goesOn_ite (goesOn_next s1) ?_
    dsimp -zeta only
    split
    · exact goesOn_next _
    · exact goesOn_next _
    · exact goesOn_ite (goesOn_next s1) (goesOn_next _)
    · exact goesOn_ite (goesOn_next s1) (goesOn_ite (goesOn_ite (goesOn_next _) (goesOn_next s1)) (goesOn_next _))

theorem completes_launchCompletion (id : Nat) : Completes (.launchCompletion id) := by
  intro s
  change Res.goesOn (execLaunchCompletion id s)
  unfold execLaunchCompletion
  split
  · exact goesOn_next s
  · exact goesOn_ite (goesOn_next s) (goesOn_next _)

end Sys2Proof.Machine

namespace Sys2Proof
open Sys2Proof.Machine

/-- Settles O44: a record that may start is what its checks find it to be, and a launch that is done leaves nothing of its region. -/
theorem launchEvents : Obligations.LaunchEvents := by
  unfold Obligations.LaunchEvents
  refine ⟨completes_launchRecordStart, completes_launchCompletion, fun s q slot d => ⟨fun hclean hen hheld hfound hfirst hafter => ?_, fun l hl hd => ?_⟩⟩
  · have hmay : MayStart s q slot d := ⟨hclean, hen, hheld, hfound, hfirst, hafter⟩
    refine ⟨fun e hj => hmay.refuse hj, fun p hj hclaim hfree hroom => ?_, fun p hj hidle => ?_⟩
    · obtain ⟨r, hr, hrcb, hplist, heff, hhere, hothers⟩ := placeRegion_places (s.recordTaken q slot) (s.newLaunch q slot d) p
      exact ⟨_, r, hmay.region hj hclaim hfree hroom, hr, hrcb, hplist, heff, hhere,
        fun c hc => (hothers c hc).trans (congrArg Meadow.region (recordTaken_mdw s q slot c))⟩
    · obtain ⟨l, hl, hhcps, hruns⟩ := startKernel_runs (s.recordTaken q slot) (s.queueView q) (s.newLaunch q slot d) p
      exact ⟨_, l, hmay.kernel hj hidle, hl, hhcps, hruns⟩
  · obtain ⟨t, he, hgone, hover⟩ := launchCompletion_ends hl hd
    exact ⟨t, he, hgone, fun r hr => ⟨(hover r hr).gone, (hover r hr).freed⟩⟩

end Sys2Proof

end

section
/-! SUPPORT. Traps (O19, O20): what ERET gives back of a context, and what trap entry leaves in TCAUSE; and the reset state's memory (O54). -/
namespace Sys2Proof.Machine

section
variable {s : State} {c x : Nat} {k : Ctx} {ic : BitVec 2} {mtc : Nat}

/-! ## TRAP and ERET (R374, R375) -/

/-- The context as ERET leaves it, before a skipped word is discarded. -/
def Ctx.backFrom (k : Ctx) (ic : BitVec 2) (mtc : Nat) : Ctx :=
  { k.setPl (getField k.tcause 12 2) with
    tcause := k.tcause &&& ~~~(BitVec.ofNat 64 (2 ^ 14 + 2 ^ 15 + 2 ^ 16 + 127 * 2 ^ 17))
    sc := k.sc.jump ic mtc (k.tcause.extractLsb' 32 32)
    sRun := !k.sOver
    sOver := false
    suspended := k.suspended.map fun t => { t with byTrap := false }
    vNextAt := max k.vNextAt (mtc + 1)
    mNextAt := max k.mNextAt (mtc + 1) }

/-- Beside the counters of a skipped word and its walk, ERET leaves the same context whatever it skips. -/
theorem Ctx.leaveTrap_eq (k : Ctx) (ic : BitVec 2) (mtc : Nat) : ∃ v m su tw,
    k.leaveTrap ic mtc = { k.backFrom ic mtc with vpc := v, mpc := m, suspended := su, tileWord := tw } := by
  unfold Ctx.leaveTrap
  extract_lets st skip sepc k1 k2
  split
  · exact ⟨_, _, _, _, rfl⟩
  · split
    · split
      · split <;> exact ⟨_, _, _, _, rfl⟩
      · exact ⟨_, _, _, _, rfl⟩
    · exact ⟨_, _, _, _, rfl⟩

theorem Ctx.leaveTrap_noSkip (h : (k.tcause.getLsbD 15 && !k.trapIssued) = false) : k.leaveTrap ic mtc = k.backFrom ic mtc := by
  unfold Ctx.leaveTrap
  simp only [h, Bool.false_and, Bool.false_eq_true, if_false]
  rfl

theorem Ctx.leaveTrap_skipV (h : (k.tcause.getLsbD 15 && !k.trapIssued) = true) (hst : getField k.tcause 8 2 = 1) :
    k.leaveTrap ic mtc = { k.backFrom ic mtc with vpc := k.vpc + 12 } := by
  unfold Ctx.leaveTrap
  simp only [h, hst, decide_true, Bool.and_self, if_true]
  rfl

/-- The cause that TRAP leaves with its context. -/
def State.softTrap (s : State) (c x : Nat) (ra : BitVec 6) : TrapPend :=
  { cause := Cause.softTrap, tval := ((s.ctx c x).sc.get ra.toNat).setWidth 64, tpc := (s.ctx c x).sc.pc, stream := some .s,
    sepc := .afterWord, at_ := s.gtc, mtc := (s.mdw c).mtc }

theorem trap_leaves {ra : BitVec 6} (hcur : s.cur = .stream c x .s) (hheld : s.held [ra.toNat] = false) (htrap : (s.ctx c x).trap = none) :
    exec (.trap ic ra) s = .next (s.modCtx c x fun _ => { s.ctx c x with trap := some (s.softTrap c x ra) }) := by
  change execTrap ic ra s = _
  simp only [execTrap, hheld, State.curM_stream hcur, State.curX_stream hcur, Bool.false_eq_true, if_false]
  exact congrArg Host.Outcome.next (congrArg (s.setMdw c) (congrArg ((s.mdw c).setCtx x) (Ctx.addCause_of_none htrap _ _)))

theorem eret_leaves (hr : Ready s c x []) (hpl : (s.ctx c x).pl ≠ 0) (hact : (s.ctx c x).tcause.getLsbD 14 = true)
    (hunb : (s.ctx c x).unbound = []) (hal : ((s.ctx c x).tcause.extractLsb' 32 32).toNat % 4 = 0) :
    exec (.eret ic) s = .next (s.modCtx c x fun _ => (s.ctx c x).leaveTrap ic (s.mdw c).mtc) := by
  change execEret ic s = _
  have hpriv : privU s = none := by simp only [privU, State.curM_stream hr.cur, State.curX_stream hr.cur, if_neg hpl]
  simp only [execEret, hpriv, sGuard_of_ready hr, State.curM_stream hr.cur, State.curX_stream hr.cur, Ctx.active, hact, hal, Bool.not_true,
    Bool.false_eq_true, if_false, ne_eq, not_true_eq_false]
  refine congrArg Host.Outcome.next (congrArg (s.setMdw c) (congrArg ((s.mdw c).setCtx x) ?_))
  obtain ⟨v, m, su, tw, he⟩ := Ctx.leaveTrap_eq (s.ctx c x) ic (s.mdw c).mtc
  have hu : ((s.ctx c x).leaveTrap ic (s.mdw c).mtc).unbound = [] := by rw [he]; exact hunb
  change (((s.mdw c).ctx x).leaveTrap ic (s.mdw c).mtc).unbound = [] at hu
  beta_reduce
  rw [hu]
  rfl

/-- The counters after ERET: only a V-word that is to be skipped and has not issued moves VPC. -/
theorem Ctx.leaveTrap_counters_noSkip (h : k.tcause.getLsbD 15 = false) : (k.leaveTrap ic mtc).vpc = k.vpc ∧ (k.leaveTrap ic mtc).mpc = k.mpc := by
  rw [Ctx.leaveTrap_noSkip (by rw [h]; rfl)]
  exact ⟨rfl, rfl⟩

theorem Ctx.leaveTrap_counters_skipV (h : k.tcause.getLsbD 15 = true) (hst : getField k.tcause 8 2 = 1) :
    (k.leaveTrap ic mtc).vpc = (if k.trapIssued = true then k.vpc else k.vpc + 12) ∧ (k.leaveTrap ic mtc).mpc = k.mpc := by
  cases hi : k.trapIssued with
  | true =>
    rw [Ctx.leaveTrap_noSkip (by rw [h, hi]; rfl)]
    exact ⟨rfl, rfl⟩
  | false =>
    rw [Ctx.leaveTrap_skipV (by rw [h, hi]; rfl) hst]
    exact ⟨rfl, rfl⟩

/-! ## Trap entry (R372, R373) -/

theorem streamCode_lt (st : Option StreamId) : streamCode st < 4 := by
  rcases st with _ | (_ | _ | _) <;> decide

theorem toNat_tcauseWord (sepc : W32) (p : TrapPend) {ppl : Nat} (hp : ppl < 4) : (tcauseWord sepc p ppl).toNat =
    sepc.toNat * 2 ^ 32 + (p.cause2.getD 0) % 128 * 2 ^ 17 + (if p.cause2.isSome then 2 ^ 16 else 0) + 2 ^ 14 + ppl * 2 ^ 12 +
      streamCode p.stream * 2 ^ 8 + p.cause % 128 := by
  have hs := sepc.isLt
  have hst := streamCode_lt p.stream
  have hm : (if p.cause2.isSome then 2 ^ 16 else 0) ≤ 2 ^ 16 := by split <;> decide
  rw [tcauseWord, BitVec.toNat_ofNat, Nat.mod_eq_of_lt]
  omega

/-- The fields of TCAUSE as trap entry writes them. -/
theorem tcauseWord_fields (sepc : W32) (p : TrapPend) {ppl : Nat} (hp : ppl < 4) (hc : p.cause < 128) :
    let w := tcauseWord sepc p ppl
    w.toNat % 128 = p.cause ∧ w.toNat / 2 ^ 8 % 4 = streamCode p.stream ∧ w.toNat / 2 ^ 12 % 4 = ppl ∧ w.getLsbD 14 = true ∧
      w.getLsbD 15 = false ∧ w.getLsbD 16 = p.cause2.isSome ∧ w.extractLsb' 32 32 = sepc := by
  have hw := toNat_tcauseWord sepc p hp
  have hst := streamCode_lt p.stream
  have hm : ((if p.cause2.isSome then 2 ^ 16 else 0) = if p.cause2.isSome then 65536 else 0) := rfl
  rw [hm] at hw
  intro w
  change w.toNat = _ at hw
  refine ⟨?_, ?_, ?_, ?_, ?_, ?_, ?_⟩
  · split at hw <;> omega
  · split at hw <;> omega
  · split at hw <;> omega
  · rw [BitVec.getLsbD, Nat.testBit_eq_decide_div_mod_eq, decide_eq_true_eq]
    split at hw <;> omega
  · rw [BitVec.getLsbD, Nat.testBit_eq_decide_div_mod_eq, decide_eq_false_iff_not]
    split at hw <;> omega
  · rw [BitVec.getLsbD, Nat.testBit_eq_decide_div_mod_eq]
    cases hsome : p.cause2.isSome with
    | true => rw [hsome, if_pos rfl] at hw; exact decide_eq_true (by omega)
    | false => rw [hsome, if_neg Bool.false_ne_true] at hw; exact decide_eq_false (by omega)
  · refine BitVec.eq_of_toNat_eq ?_
    have hs := sepc.isLt
    rw [BitVec.extractLsb'_toNat, Nat.shiftRight_eq_div_pow]
    split at hw <;> omega

theorem completes_trapEntry (a b : Nat) : Completes (.trapEntry a b) := by
  intro s
  change ∃ t, execTrapEntry a b s = .next t
  unfold execTrapEntry
  extract_lets m k
  split
  · exact ⟨_, rfl⟩
  · split
    · exact ⟨_, rfl⟩
    · extract_lets s1 s2
      split <;> exact ⟨_, rfl⟩

@[simp] theorem State.now_ctx (s : State) (es : List Ev) (c x : Nat) : (s.now es).ctx c x = s.ctx c x := rfl

theorem Ctx.takeTrap_plain (p : TrapPend) (tvec : W32) (h : k.hasp.state ≠ .active) :
    k.takeTrap p tvec mtc = ({ k with sWait := none } : Ctx).enterTrap p tvec mtc := by
  unfold Ctx.takeTrap
  extract_lets k0
  split
  · contradiction
  · contradiction
  · contradiction
  · rfl

theorem Meadow.not_halted {m : Meadow} (h : m.stopping = none) (g : Nat) : m.halted g = false := by
  simp [Meadow.halted, h]

/-- What TRAP_ENTRY does with a cause other than OWNER once all words of its context have completed. -/
theorem trapEntry_quiet {p : TrapPend} (ht : (s.ctx c x).trap = some p) (hstop : (s.mdw c).stopping = none) (hat : p.at_ ≤ s.gtc)
    (hq : s.trapQuiet c x = true) (hown : p.cause ≠ Cause.owner) : exec (.trapEntry c x) s =
      if (s.ctx c x).active || (s.mdw c).tvec == 0 then
        .next ((s.modCtx c x fun k => { k with trap := none }).now [.faultDomainStop (s.domainOf c) p.cause (ctxid c x) p.tval false])
      else .next ((if (s.ctx c x).hasp.state = .active ∧ (s.ctx c x).hasp.roll = none then s.haspUndo c x else s).modCtx c x
        fun k => k.takeTrap p (s.mdw c).tvec (s.mdw c).mtc) := by
  have htrap : ((s.mdw c).ctx x).trap = some p := ht
  change execTrapEntry c x s = _
  unfold execTrapEntry
  simp only [htrap, Meadow.not_halted hstop, Nat.not_lt.2 hat, hq, hown, decide_false, Bool.not_true, Bool.or_self, Bool.false_eq_true, if_false]
  rfl

end

end Sys2Proof.Machine

namespace Sys2Proof
open Sys2Proof.Machine

/-- Settles O54: no byte of the reset state's memory is listed. -/
theorem resetMemoryCanonical : Obligations.ResetMemoryCanonical := by
  unfold Obligations.ResetMemoryCanonical memorySafe
  exact ⟨List.Pairwise.nil, nofun⟩

/-- Settles O19: TRAP only leaves its cause, and ERET gives the context back as it was trapped. -/
theorem trapAndReturn : Obligations.TrapAndReturn := by
  unfold Obligations.TrapAndReturn
  refine ⟨fun s c x ic ra hcur hheld htrap => ?_, fun s c x ic hr hpl hact hunb htrap hal => ?_⟩
  · refine ⟨_, _, trap_leaves hcur hheld htrap, onlyCtx_modCtx s c x _, by rw [State.modCtx_ctx], rfl, rfl, rfl, rfl, by rw [State.modCtx_ctx], fun hplain => ?_⟩
    rw [Ctx.sepcOf, if_neg hplain]
    rfl
  · intro k tc
    obtain ⟨v, m, su, tw, he⟩ := Ctx.leaveTrap_eq k ic (s.mdw c).mtc
    refine ⟨_, eret_leaves hr hpl hact hunb hal, onlyCtx_modCtx s c x _, ?_⟩
    have hctx : (s.modCtx c x fun _ => (s.ctx c x).leaveTrap ic (s.mdw c).mtc).ctx c x = k.leaveTrap ic (s.mdw c).mtc := State.modCtx_ctx ..
    have hsc : (k.leaveTrap ic (s.mdw c).mtc).sc = k.sc.jump ic (s.mdw c).mtc (k.tcause.extractLsb' 32 32) := by rw [he]; rfl
    have hregs : regsSame s (s.modCtx c x fun _ => (s.ctx c x).leaveTrap ic (s.mdw c).mtc) := by
      have hcore : State.core (s.modCtx c x fun _ => (s.ctx c x).leaveTrap ic (s.mdw c).mtc) = _ := (State.modCtx_core hr.cur _).trans hsc
      refine regsSame_core ?_ ?_ <;> rw [hcore, State.core_stream hr.cur] <;> rfl
    intro j
    have hj : j = k.leaveTrap ic (s.mdw c).mtc := hctx
    clear_value j
    subst hj
    refine ⟨by rw [hsc]; rfl, ?_, hregs, ?_, by rw [he]; rfl, by rw [he]; rfl, by rw [he]; rfl,
      Ctx.leaveTrap_counters_noSkip, Ctx.leaveTrap_counters_skipV⟩
    · rw [hsc, State.clock_stream hr.cur]
      rfl
    · rw [he]
      exact (getField_setField _ _ _ _ (by decide)).trans (Nat.mod_mod _ _)

/-- Settles O20: a context whose words have completed enters its handler with TCAUSE as R372 has it, or stops its fault domain. -/
theorem trapEntry : Obligations.TrapEntry := by
  unfold Obligations.TrapEntry
  refine ⟨completes_trapEntry, fun s c x p => ?_⟩
  intro m k htrap hstop hat hquiet hcause hown
  have hexec := trapEntry_quiet htrap hstop hat hquiet hown
  refine ⟨fun hact htv hplain => ?_, fun hno => ?_⟩
  · have hgo : ((s.ctx c x).active || (s.mdw c).tvec == 0) = false := by
      rw [show (s.ctx c x).active = false from hact, Bool.false_or]
      exact beq_eq_false_iff_ne.2 htv
    rw [hgo, if_neg Bool.false_ne_true, if_neg fun h => hplain h.1] at hexec
    refine ⟨_, hexec, onlyCtx_modCtx s c x _, ?_⟩
    have hctx : (s.modCtx c x fun k => k.takeTrap p (s.mdw c).tvec (s.mdw c).mtc).ctx c x = ({ k with sWait := none } : Ctx).enterTrap p m.tvec m.mtc :=
      (State.modCtx_ctx ..).trans (Ctx.takeTrap_plain p _ hplain)
    intro j
    have hj : j = ({ k with sWait := none } : Ctx).enterTrap p m.tvec m.mtc := hctx
    clear_value j
    subst hj
    have hpl4 : k.pl < 4 := Nat.mod_lt _ (by decide)
    obtain ⟨hcode, hst, hppl, h14, h15, h16, hsepc⟩ := tcauseWord_fields (k.sepcOf p) p hpl4 hcause
    exact ⟨rfl, getField_setField _ _ _ _ (by decide), h14, rfl, rfl, Nat.le_max_left _ _, rfl, rfl, hcode, hst, hppl, h15, h16, hsepc,
      rfl, rfl, rfl, rfl, rfl, rfl, rfl⟩
  · have hstops : ((s.ctx c x).active || (s.mdw c).tvec == 0) = true := by
      rw [Bool.or_eq_true, beq_iff_eq]
      exact hno
    rw [hstops, if_pos rfl] at hexec
    refine ⟨_, hexec, onlyCtx_trans (onlyCtx_modCtx s c x _) (onlyCtx_of_eq c x rfl rfl rfl), ?_, ?_, rfl⟩
    · rw [State.now_ctx, State.modCtx_ctx]
    · rw [State.now_ctx, State.modCtx_ctx]
      rfl

end Sys2Proof

end

section
/-! SUPPORT. An arbiter's slot (O43): a read that is marked as an HROW is activated again instead of leaving. -/
namespace Sys2Proof.Machine

/-! ## A read that stays (R253, R255, R258) -/

theorem coinOf_lt (k : W64) (site : Nat) (c : W32) : coinOf k site c < 2 ^ 24 :=
  Nat.div_lt_of_lt_mul (BitVec.isLt _)

/-- Past the bound, DRAM timing holds no command back. -/
theorem dramHolds_past {slot : Nat} (ix : Nat) {r : ArbReq} (h : r.enq + Config.dramBound ≤ slot) : dramHolds slot ix r = false := by
  rw [dramHolds, decide_eq_false (Nat.not_lt.2 h), Bool.and_false]

/-- A read of row 0 of bank 0 with the mark of an HROW, which asks for no column command. -/
def rowRead : ArbReq := { id := 0, kind := .arrayRead, hrow := true }

/-- The arbiter of pseudo-channel 0 holds that read alone, row 0 is open, its slot count is past the bound of DRAM timing, and every activate
is followed by a refresh of the rows beside it. -/
def rowReadState : State :=
  { State.reset with
    arbiters := [(0, { queue := [rowRead], banks := [(0, { openRow := some 0 })], slot := Config.dramBound })]
    nrctl := [(0, 0x100)] }

theorem rowReadState_slot : max ((rowReadState.arb 0).slot + 1) rowReadState.slotFrom = Config.dramBound + 1 := by
  change max (Config.dramBound + 1) 1 = _
  omega

/-- Every coin refreshes the neighbours where NRCTL draws at rate 1. -/
theorem rowReadState_neighbour {s : State} (h : s.nrctl = rowReadState.nrctl) (a : W32) : s.neighbour 0 a = (true, s) := by
  have hnr : s.nrOf (0 / 64) = 0x100 := by
    rw [State.nrOf, h]
    rfl
  unfold State.neighbour
  rw [hnr]
  exact congrArg (·, s) (decide_eq_true (coinOf_lt _ _ _))

/-- The state as the slot of a number finds it. -/
def rowReadState.at (slot : Nat) : State :=
  { rowReadState with
    arbiters := [(0, { queue := [rowRead], banks := [(0, { openRow := some 0 })], slot := slot })]
    fresh := rowReadState.fresh + 2 }

/-- The row bus takes the read as an activate, and puts the refresh of its neighbours into the queue. -/
theorem rowReadState_rowCmd (slot : Nat) : (((rowReadState.at slot).rowCmd 0 slot rowRead).arb 0).queue ≠ [] := by
  unfold State.rowCmd
  rw [if_neg (by decide), if_neg (by exact Bool.false_ne_true)]
  extract_lets n s1 s2 s3
  rw [rowReadState_neighbour (s := s3) rfl]
  exact List.cons_ne_nil _ _

theorem rowReadState_slot_queue : ∃ t, exec (.arbiterSlot 0) rowReadState = .next t ∧ (t.arb 0).queue ≠ [] := by
  have hfree : ∀ ix, dramHolds (Config.dramBound + 1) ix rowRead = false := fun ix =>
    dramHolds_past ix (by rw [show rowRead.enq = 0 from rfl]; omega)
  change ∃ t, execArbiterSlot 0 rowReadState = .next t ∧ _
  unfold execArbiterSlot
  rw [rowReadState_slot]
  generalize Config.dramBound + 1 = slot at hfree ⊢
  extract_lets sl s0 a n s1 ready col s2 row
  have hready : ∀ k, ready k = [rowRead] := by
    intro k
    change (([(rowRead, 0)] : List (ArbReq × Nat)).filter fun r => a.overdue slot r.1 || !dramHolds slot (rowReadState.fresh + k * n + r.2) r.1).map (·.1) = _
    simp [hfree]
  have hcol : col = none := by
    change bestOf _ ((ready 0).filter _) = none
    rw [hready]
    rfl
  have hs2 : s2 = rowReadState.at slot := by
    change (match col with | some r => (s1.column 0 slot r).served r | none => s1) = _
    rw [hcol]
    rfl
  have hrow : row = some rowRead := by
    change bestOf _ ((ready 1).filter fun r => (s2.arb 0).queue.contains r && (s2.arb 0).rowOk r) = _
    rw [hready, hs2]
    rfl
  refine ⟨_, rfl, ?_⟩
  rw [hrow, hs2]
  exact rowReadState_rowCmd slot

end Sys2Proof.Machine

namespace Sys2Proof
open Sys2Proof.Machine

/-- Refutes O43: a lone array read of the open row that is marked as an HROW takes no column command; the row bus activates its row, and the
refresh of the rows beside it stays in the queue. -/
theorem not_arbiterEvents : ¬ Obligations.ArbiterEvents := by
  unfold Obligations.ArbiterEvents
  rintro ⟨-, -, h⟩
  obtain ⟨⟨t, he, -, -, -, -, hleaves⟩, -⟩ := h rowReadState 0
  obtain ⟨u, hu, hne⟩ := rowReadState_slot_queue
  obtain rfl : u = t := Host.Outcome.next.inj (hu.symm.trans he)
  have hpast : rowRead.enq + Config.dramBound ≤ max ((rowReadState.arb 0).slot + 1) rowReadState.slotFrom := by
    rw [rowReadState_slot, show rowRead.enq = 0 from rfl]
    omega
  have hq := hleaves rowRead rfl rfl rfl rfl rfl
  rw [dramHolds_past _ hpast, if_neg Bool.false_ne_true] at hq
  exact hne hq

end Sys2Proof

end

section
/-! SUPPORT. Energy and power (O46): what a charge adds to a launch, and the compare's three outcomes. -/
namespace Sys2Proof.Machine

section
variable {s : State}

theorem completes_energyCharge : Completes .energyCharge := by
  intro s
  change Res.goesOn (execEnergyCharge s)
  unfold execEnergyCharge
  exact goesOn_ite (goesOn_next s) (goesOn_next _)

theorem completes_powerCompare : Completes .powerCompare := by
  intro s
  change Res.goesOn (execPowerCompare s)
  unfold execPowerCompare
  exact goesOn_ite (goesOn_next s) (goesOn_ite (goesOn_next _) (goesOn_ite (goesOn_ite (goesOn_next _) (goesOn_next _)) (goesOn_next _)))

/-- One meadow that serves a region, and nothing else that uses energy: its meter's gain goes to the region's launch. -/
theorem chargeAll_one {c : Nat} {m : Meadow} {r : Region} (hh : s.hcps = []) (hm : s.meadows = [(c, m)]) (hr : s.regionOf c = some r) :
    s.chargeAll = (s.charge r.launch r.path (gained m.emeter m.charged)).modMdw c fun m => { m with charged := m.emeter } := by
  unfold State.chargeAll
  rw [hm]
  simp only [List.foldl_cons, List.foldl_nil, hr]
  change List.foldl _ _ s.hcps = _
  rw [hh]
  rfl

theorem energyCharge_one {c : Nat} {m : Meadow} {r : Region} (hg : s.gtc % 4096 = 0) (hh : s.hcps = []) (hn : s.nodes = [])
    (hm : s.meadows = [(c, m)]) (hr : s.regionOf c = some r) : exec .energyCharge s =
      .next ((s.charge r.launch r.path (gained m.emeter m.charged)).modMdw c fun m => { m with charged := m.emeter }) := by
  change execEnergyCharge s = _
  unfold execEnergyCharge
  rw [if_neg (not_not.2 hg), chargeAll_one hh hm hr]
  dsimp only [State.charge, State.modMdw, State.setMdw]
  rw [hn]
  rfl

/-- What POWER_COMPARE does in its cycle: the threshold rises above the limit, and falls at the tenth compare in a row below 95% of it. -/
theorem powerCompare_due (hg : s.gtc % 14000 = 0) : exec .powerCompare s = .next { s with
    fresh := s.fresh + 1, power := Config.power s.fresh
    thresh := if s.pwrlim.toNat < Config.power s.fresh then min 7 (s.thresh + 1)
      else if 100 * Config.power s.fresh < 95 * s.pwrlim.toNat ∧ 9 ≤ s.below then s.thresh - 1 else s.thresh
    below := if 100 * Config.power s.fresh < 95 * s.pwrlim.toNat ∧ s.below < 9 then s.below + 1 else 0 } := by
  change execPowerCompare s = _
  unfold execPowerCompare
  rw [if_neg (not_not.2 hg)]
  dsimp only [State.freshIx]
  by_cases hover : s.pwrlim.toNat < Config.power s.fresh
  · have hlow : ¬ 100 * Config.power s.fresh < 95 * s.pwrlim.toNat := by omega
    simp only [hover, hlow, if_true, false_and, if_false]
  · by_cases hlow : 100 * Config.power s.fresh < 95 * s.pwrlim.toNat
    · by_cases hten : 9 ≤ s.below
      · simp only [hover, hlow, hten, Nat.not_lt.2 hten, if_true, and_true, and_false, if_false]
      · simp only [hover, hlow, hten, Nat.not_le.1 hten, if_true, and_true, and_false, if_false]
    · simp only [hover, hlow, false_and, if_false]

end

end Sys2Proof.Machine

namespace Sys2Proof
open Sys2Proof.Machine

/-- Settles O46: the charge of one meadow, and the compare by the measured power. -/
theorem powerEvents : Obligations.PowerEvents := by
  unfold Obligations.PowerEvents
  refine ⟨fun i hi => ?_, fun s => ⟨fun hg => if_pos hg, fun hg hh hn c m r hm hr => ?_, fun hg => if_pos hg, fun hg => ?_⟩⟩
  · simp only [List.mem_cons, List.not_mem_nil, or_false] at hi
    rcases hi with rfl | rfl
    · exact completes_energyCharge
    · exact completes_powerCompare
  · have hmdw : (s.charge r.launch r.path (gained m.emeter m.charged)).mdw c = m := by
      change tgetD s.meadows c {} = m
      rw [hm]
      simp [tgetD, tget]
    refine ⟨_, energyCharge_one hg hh hn hm hr, fun _ => rfl, ?_, fun l hl hid => ⟨l.use (gained m.emeter m.charged), ?_, rfl, rfl⟩⟩
    · rw [State.modMdw_mdw, hmdw]
    · exact List.mem_map.2 ⟨l, hl, if_pos hid⟩
  · refine ⟨_, powerCompare_due hg, fun _ => rfl, rfl, fun hover => if_pos hover, fun hle hhigh => ⟨?_, ?_⟩, fun hlow hb => ⟨?_, ?_⟩, fun hlow hb => ?_⟩
    · exact (if_neg (Nat.not_lt.2 hle)).trans (if_neg fun h => absurd h.1 (Nat.not_lt.2 hhigh))
    · exact if_neg fun h => absurd h.1 (Nat.not_lt.2 hhigh)
    · exact (if_neg (by omega)).trans (if_neg fun h => absurd h.2 (Nat.not_le.2 hb))
    · exact if_pos ⟨hlow, hb⟩
    · exact (if_neg (by omega)).trans (if_pos ⟨hlow, hb⟩)

end Sys2Proof

end

section
/-! SUPPORT. Heath words (O25, O26): a package without latent errors, the command that a block hands on, posts, and the explicit lease. -/
namespace Sys2Proof.Machine

section
variable {s : State}

/-! ## No latent error (R257, R379) -/

theorem eng_ecc_of_clean (hc : s.memClean = true) (d : Nat) : (s.eng d).ecc = [] := by
  have hbad (l : Nat) : (s.eng d).ecc.contains l = false := by
    have h := sramBad_of_clean hc d { va := 0, pa := 64 * l, key := 0, data := 0 }
    rwa [State.sramBad, Nat.mul_div_cancel_left _ (by decide)] at h
  cases he : (s.eng d).ecc with
  | nil => rfl
  | cons l ls =>
    have h := hbad l
    rw [he] at h
    simp at h

theorem dramErr_of_clean (hc : s.memClean = true) : s.dramErr = [] := by
  rw [State.memClean, Bool.and_eq_true] at hc
  exact List.isEmpty_iff.1 hc.1

theorem sramScrub_of_clean (hc : s.memClean = true) (pa len : Nat) : s.sramScrub pa len = s := by
  unfold State.sramScrub
  simp only [List.foldl_cons, List.foldl_nil, eng_ecc_of_clean hc, List.filter_nil]

theorem dieScrub_of_clean (hc : s.memClean = true) (pa len : Nat) : s.dieScrub pa len = s := by
  unfold State.dieScrub
  rw [dramErr_of_clean hc]
  rfl

/-- Without a latent error a reader's scrub changes nothing. -/
theorem dramScrub_of_clean (hc : s.memClean = true) (pa len : Nat) : s.dramScrub pa len = s := by
  unfold State.dramScrub
  induction lineNos pa len with
  | nil => rfl
  | cons l ls ih =>
    rw [List.foldl_cons, sramScrub_of_clean hc, dieScrub_of_clean hc, ite_self]
    exact ih

theorem scrubParts_of_clean (hc : s.memClean = true) (ps : List Part) : s.scrubParts ps = s := by
  rw [State.scrubParts, if_pos hc]

theorem scrubLists_of_clean (hc : s.memClean = true) (h : Nat) (b : HBlock) : s.scrubLists h b = s := by
  unfold State.scrubLists
  exact if_pos (.inl hc)

/-! ## Posts (R265, R276) -/

theorem hPost_frame (h slot : Nat) (inc : W32) (err : Option W32) : SameCore s (s.hPost h slot inc err) := by
  unfold State.hPost
  split <;> exact ⟨rfl, rfl, rfl, rfl, rfl⟩

theorem hPost_hcmds (h slot : Nat) (inc : W32) (err : Option W32) : (s.hPost h slot inc err).hcmds = s.hcmds := by
  unfold State.hPost
  split <;> rfl

/-- An HCP with a tag's status written, and its failure counted. -/
def Hcp.tagDone (t : Hcp) (b : HBlock) (status detail : Nat) : Hcp :=
  { t with
    status := tput t.status b.tag (BitVec.ofNat 32 (status * 2 ^ 16 + min detail 65535))
    failed := if status = 0 then t.failed else min 65535 (t.failed + 1) }

theorem finishCmd_frame (h : Nat) (b : HBlock) (status detail : Nat) :
    SameCore (s.modHcp h fun t => t.tagDone b status detail) (s.finishCmd h b status detail) ∧ (s.finishCmd h b status detail).hcmds = s.hcmds := by
  unfold State.finishCmd
  extract_lets s1
  split
  · exact ⟨hPost_frame .., hPost_hcmds ..⟩
  · exact ⟨.refl _, rfl⟩

end

/-! ## Engine command words (R262, R263) -/

/-- The block that a command word reads. -/
def State.blockAt (s : State) (key pa : Nat) : HBlock := ⟨(List.range 8).map fun i => BitVec.ofNat 64 ((s.hRead key pa 64).1 / 2 ^ (64 * i))⟩

/-- The command that a word builds of a block, before it is handed on. -/
def HBlock.cmd (b : HBlock) (h func : Nat) : HCmd := { id := 0, hcp := h, func := func, block := b.w, engines := b.engines, readyAt := 0 }

/-- What an engine command word finds when it neither waits nor stops its kernel: an aligned block in a listed page, free of poison, for a tag
that is not running, and room in the queues. -/
structure PushReady (s : State) (h func : Nat) (ra : BitVec 5) (key : Nat) : Prop where
  cur : s.cur = .hcp h
  free : s.held (pairRegs ra) = false
  clean : s.memClean = true
  aligned : ((s.hcp h).sc.getD ra.toNat).toNat % 2 ^ 48 % 64 = 0
  listed : (s.hcp h).check (((s.hcp h).sc.getD ra.toNat).toNat % 2 ^ 48) 64 = .ok key
  whole : (s.hRead key (((s.hcp h).sc.getD ra.toNat).toNat % 2 ^ 48) 64).2 = 0
  idle : (tgetD (s.hcp h).status (s.blockAt key (((s.hcp h).sc.getD ra.toNat).toNat % 2 ^ 48)).tag 0).getLsbD 31 = false
  room : s.queueFull ((s.blockAt key (((s.hcp h).sc.getD ra.toNat).toNat % 2 ^ 48)).cmd h func) = false

/-- The state in which a command word has handed its command on. -/
def State.handOn (s : State) (h func : Nat) (ic : BitVec 2) (b : HBlock) (l : List Nat) : State :=
  let go := s.setCore ((s.hcp h).sc.advance ic s.clock)
  { go.nextSeq.2.freshIx.2.modHcp h (fun t => { t with status := tput t.status b.tag 0x80000000 }) with
    hcmds := s.hcmds ++ [{ b.cmd h func with
      id := go.seq, readyAt := s.hcpCycle + 4 + Config.excess go.fresh, vbuf := l.map (BitVec.ofNat 64 ·),
      lim := ((s.hcp h).cols, 2 * (s.hcp h).ns) }] }

theorem handOn_frame {s : State} {h : Nat} (hcur : s.cur = .hcp h) (func : Nat) (ic : BitVec 2) (b : HBlock) (l : List Nat) :
    SameCore (s.modHcp h fun t => { t with sc := (s.hcp h).sc.advance ic s.clock, status := tput t.status b.tag 0x80000000 }) (s.handOn h func ic b l) := by
  unfold State.handOn
  rw [State.setCore_hcp hcur]
  refine ⟨rfl, rfl, rfl, rfl, ?_⟩
  change tput (tput s.hcps h _) h _ = tput s.hcps h _
  rw [tput_tput]
  exact congrArg (fun q : Hcp => tput s.hcps h { q with status := tput q.status b.tag 0x80000000 })
    (State.modHcp_hcp s h fun t => { t with sc := (s.hcp h).sc.advance ic s.clock })

section
variable {s : State} {h func key : Nat} {ra : BitVec 5} {ic : BitVec 2} {b : HBlock}

theorem hPush_of_ready (hr : PushReady s h func ra key) (hb : s.blockAt key (((s.hcp h).sc.getD ra.toNat).toNat % 2 ^ 48) = b) :
    hPush func ic ra s = match s.hCheck h func b with
      | .error (st, d) => .next ((s.setCore ((s.hcp h).sc.advance ic s.clock)).finishCmd h b st d)
      | .ok l =>
        if (s.hcp h).effClass < s.thresh ∨ (s.hcp h).stores ≠ [] then .next s
        else
          .next (s.handOn h func ic b l) := by
  subst hb
  obtain ⟨hcur, hfree, hclean, hal, hchk, hwhole, hidle, hroom⟩ := hr
  unfold hPush
  simp only [hcur, hfree, hal, hchk, ne_eq, not_true_eq_false, Bool.false_eq_true, if_false, dramScrub_of_clean hclean, hwhole, scrubLists_of_clean hclean]
  change (if (tgetD (s.hcp h).status (s.blockAt key _).tag 0).getLsbD 31 || s.queueFull ((s.blockAt key _).cmd h func) then _ else _) = _
  rw [hidle, hroom, Bool.or_self, if_neg Bool.false_ne_true]
  rfl

/-- A block that passes is handed on, and its tag runs. -/
theorem hPush_hands (hr : PushReady s h func ra key) (hb : s.blockAt key (((s.hcp h).sc.getD ra.toNat).toNat % 2 ^ 48) = b) {l : List Nat}
    (hok : s.hCheck h func b = .ok l) (hclass : s.thresh ≤ (s.hcp h).effClass) (hst : (s.hcp h).stores = []) :
    ∃ (t : State) (c : HCmd), hPush func ic ra s = .next t ∧ Advanced s t ic ∧ regsSame s t ∧ memSame s t ∧ t.hcmds = s.hcmds ++ [c] ∧
      c.hcp = h ∧ c.func = func ∧ c.block = b.w ∧ c.engines = b.engines ∧ c.started = false ∧ tgetD (t.hcp h).status b.tag 0 = 0x80000000#32 := by
  have hgo : ¬ ((s.hcp h).effClass < s.thresh ∨ (s.hcp h).stores ≠ []) := fun hw => hw.elim (not_lt.2 hclass) fun hne => hne hst
  have hex := hPush_of_ready (ic := ic) hr hb
  rw [hok] at hex
  dsimp only at hex
  rw [if_neg hgo] at hex
  obtain ⟨hadv, hregs, hmem, hhcp⟩ := (handOn_frame hr.cur func ic b l).issues_hcp (ic := ic) hr.cur rfl
  refine ⟨_, _, hex, hadv, hregs, hmem, rfl, rfl, rfl, rfl, rfl, rfl, ?_⟩
  rw [hhcp]
  exact tgetD_tput_self ..

theorem hPush_rejects (hr : PushReady s h func ra key) (hb : s.blockAt key (((s.hcp h).sc.getD ra.toNat).toNat % 2 ^ 48) = b) {st d : Nat}
    (hbad : s.hCheck h func b = .error (st, d)) :
    ∃ t : State, hPush func ic ra s = .next t ∧ Advanced s t ic ∧ regsSame s t ∧ memSame s t ∧ t.hcmds = s.hcmds ∧
      tgetD (t.hcp h).status b.tag 0 = BitVec.ofNat 32 (st * 2 ^ 16 + min d 65535) := by
  have hex := hPush_of_ready (ic := ic) hr hb
  rw [hbad, State.setCore_hcp hr.cur] at hex
  obtain ⟨hsame, hcmds⟩ := finishCmd_frame (s := s.modHcp h fun t => { t with sc := (s.hcp h).sc.advance ic s.clock }) h b st d
  rw [State.modHcp_modHcp] at hsame
  obtain ⟨hadv, hregs, hmem, hhcp⟩ := hsame.issues_hcp (ic := ic) hr.cur rfl
  refine ⟨_, hex, hadv, hregs, hmem, hcmds, ?_⟩
  rw [hhcp]
  exact tgetD_tput_self ..

end

/-! ## HROW, HFENCE, HWAIT, HSTAT, HPOST (R273-R276) -/

section
variable {s : State} {h : Nat} {ic : BitVec 2}

theorem State.core_hcp (hcur : s.cur = .hcp h) : s.core = (s.hcp h).sc := by simp only [State.core, hcur]

theorem cur_ne_device (hcur : s.cur = .hcp h) : s.cur ≠ .device := by rw [hcur]; exact nofun

theorem endHrow_keeps (s : State) (h : Nat) : (s.endHrow h).mem = s.mem ∧ (s.endHrow h).cur = s.cur := by
  unfold State.endHrow
  split <;> exact ⟨rfl, rfl⟩

/-- A request for a byte of DRAM stands in the queue of its arbiter, at its bank and row. -/
theorem arbPut_queued {pa : Nat} {p : Place} (hp : placeOf pa = some p) (r : ArbReq) :
    { r with bank := p.group * 4 + p.bank, row := p.row, line := pa / 64, sub := none, enq := s.slotNow, ord := s.seq } ∈
      ((s.arbPut pa r).arb p.pc).queue := by
  unfold State.arbPut
  rw [hp]
  dsimp only
  rw [State.modArb_arb]
  exact List.mem_append_right _ List.mem_cons_self

/-- HROW takes its request to the arbiter and leaves its row and limits with its HCP. -/
def State.hrowTaken (s : State) (h : Nat) (ic : BitVec 2) (pa cols ns : Nat) (p : Place) : State :=
  (((s.nextSeq.2.endHrow h).arbPut pa { id := s.seq, kind := .heath, hcp := h, lim := (cols, 2 * ns), hrow := true }).setCore
    ((s.hcp h).sc.advance ic s.clock)).modHcp h fun t => { t with cols := cols, ns := ns, lease := some (p.bankIx, p.row) }

theorem hrowTaken_hcp (hcur : s.cur = .hcp h) (pa cols ns : Nat) (p : Place) :
    (s.hrowTaken h ic pa cols ns p).cur = .hcp h ∧ (s.hrowTaken h ic pa cols ns p).mem = s.mem ∧
    ((s.hrowTaken h ic pa cols ns p).hcp h).sc = (s.hcp h).sc.advance ic s.clock ∧ ((s.hrowTaken h ic pa cols ns p).hcp h).cols = cols ∧
    ((s.hrowTaken h ic pa cols ns p).hcp h).ns = ns ∧ ((s.hrowTaken h ic pa cols ns p).hcp h).lease = some (p.bankIx, p.row) := by
  obtain ⟨hmem, hc⟩ := endHrow_keeps s.nextSeq.2 h
  obtain ⟨-, -, amem, acur, -⟩ :=
    arbPut_frame (s.nextSeq.2.endHrow h) pa { id := s.seq, kind := .heath, hcp := h, lim := (cols, 2 * ns), hrow := true } false
  have hcur' := (acur.trans hc).trans hcur
  unfold State.hrowTaken
  rw [State.setCore_hcp hcur', State.modHcp_modHcp, State.modHcp_hcp]
  exact ⟨hcur', amem.trans hmem, rfl, rfl, rfl, rfl⟩

theorem hrowTaken_queued {pa cols ns : Nat} {p : Place} (hp : placeOf pa = some p) :
    ∃ r ∈ ((s.hrowTaken h ic pa cols ns p).arb p.pc).queue, r.kind = .heath ∧ r.hcp = h ∧ r.hrow = true ∧ r.bank = p.bankIx ∧ r.row = p.row ∧
      r.lim = (cols, 2 * ns) := by
  have hq := arbPut_queued (s := s.nextSeq.2.endHrow h) hp { id := s.seq, kind := .heath, hcp := h, lim := (cols, 2 * ns), hrow := true }
  have harb : (s.hrowTaken h ic pa cols ns p).arbiters =
      ((s.nextSeq.2.endHrow h).arbPut pa { id := s.seq, kind := .heath, hcp := h, lim := (cols, 2 * ns), hrow := true }).arbiters := State.setCore_arbiters ..
  rw [State.arb, ← harb] at hq
  exact ⟨_, hq, rfl, rfl, rfl, rfl, rfl, rfl⟩

theorem hrow_takes {ra : BitVec 5} {rb : BitVec 6} {p : Place} (hcur : s.cur = .hcp h) (hfree : s.held (rb.toNat :: pairRegs ra) = false)
    (hlow : 1 ≤ getField ((s.hcp h).sc.get rb.toNat) 0 7) (hhigh : getField ((s.hcp h).sc.get rb.toNat) 0 7 ≤ 64)
    (hz : getField ((s.hcp h).sc.get rb.toNat) 7 9 = 0) (hns : 1 ≤ getField ((s.hcp h).sc.get rb.toNat) 16 10)
    (hns' : getField ((s.hcp h).sc.get rb.toNat) 16 10 ≤ 512) (hz' : getField ((s.hcp h).sc.get rb.toNat) 26 6 = 0)
    (hchk : (⟨((s.hcp h).sc.getD ra.toNat).toNat % 2 ^ 48, 1, .own, true⟩ : HRange).check h (s.hcp h) = none)
    (hp : placeOf (((s.hcp h).sc.getD ra.toNat).toNat % 2 ^ 48) = some p) :
    exec (.hrow ic ra rb) s = .next (s.hrowTaken h ic (((s.hcp h).sc.getD ra.toNat).toNat % 2 ^ 48) (getField ((s.hcp h).sc.get rb.toNat) 0 7)
      (getField ((s.hcp h).sc.get rb.toNat) 16 10) p) := by
  change execHrow ic ra rb s = _
  simp only [execHrow, hcur, hfree, hz, hz', hchk, hp, Nat.one_le_iff_ne_zero.1 hlow, Nat.one_le_iff_ne_zero.1 hns, not_lt.2 hhigh, not_lt.2 hns',
    ne_eq, not_true_eq_false, or_self, Bool.false_eq_true, if_false]
  rfl

/-- A word that only lets its HCP go on. -/
theorem hcp_goesOn (hcur : s.cur = .hcp h) :
    Issued s (s.setCore (s.core.advance ic s.clock)) (s.core.pc + 4) (s.clock + icGap ic) ∧ regsSame s (s.setCore (s.core.advance ic s.clock)) :=
  ⟨issued_setCore s _ (cur_ne_device hcur), regsSame_setCore (cur_ne_device hcur) rfl rfl⟩

theorem hfence_goesOn (hcur : s.cur = .hcp h) (sc : Scope) (hcmds : ∀ c ∈ s.hcmds, c.hcp ≠ h) (hst : (s.hcp h).stores = []) :
    exec (.hfence ic sc) s = .next (s.setCore (s.core.advance ic s.clock)) := by
  change execHfence ic sc s = _
  have hq : s.hQuiet h = true := by
    rw [State.hQuiet, hst, List.isEmpty_nil, Bool.and_true, List.all_eq_true]
    exact fun c hc => bne_iff_ne.2 (hcmds c hc)
  simp only [execHfence, hcur, hq, if_true]

theorem hwait_goesOn {ra : BitVec 6} (hcur : s.cur = .hcp h) (hfree : s.held [ra.toNat] = false)
    (hlt : ((s.hcp h).sc.get ra.toNat).toNat < 2 ^ 16)
    (hidle : ∀ i, i < 16 → ((s.hcp h).sc.get ra.toNat).toNat.testBit i = true → (tgetD (s.hcp h).status i 0).getLsbD 31 = false) :
    exec (.hwait ic ra) s = .next (s.setCore (s.core.advance ic s.clock)) := by
  change execHwait ic ra s = _
  have hnone : ((List.range 16).any fun i => ((s.hcp h).sc.get ra.toNat).getLsbD i && (tgetD (s.hcp h).status i 0).getLsbD 31) = false := by
    refine List.any_eq_false.2 fun i hi hb => ?_
    rw [Bool.and_eq_true] at hb
    rw [hidle i (List.mem_range.1 hi) hb.1] at hb
    exact Bool.false_ne_true hb.2
  simp only [execHwait, hcur, hfree, hnone, not_le.2 hlt, Bool.false_eq_true, if_false, State.core_hcp hcur]

theorem hstat_reads {rd ra : BitVec 6} (hcur : s.cur = .hcp h) (hfree : s.held [rd.toNat, ra.toNat] = false)
    (hlt : ((s.hcp h).sc.get ra.toNat).toNat < 16) :
    givesReg s (.hstat ic rd ra) ic 1 rd.toNat (tgetD (s.hcp h).status ((s.hcp h).sc.get ra.toNat).toNat 0) := by
  refine ⟨_, ?_, push_gives ic 1 rd.toNat _ (cur_ne_device hcur)⟩
  change execHstat ic rd ra s = _
  simp only [execHstat, hcur, hfree, not_le.2 hlt, Bool.false_eq_true, if_false, State.core_hcp hcur]

/-- A post to a declared slot is one request to the home engine of its address. -/
theorem hPost_request {slot va pa key : Nat} (inc : W32) (err : Option W32) (hslot : tget (s.hcp h).posts slot = some (va, pa, key)) :
    ∃ r : SyncReq, ((s.hPost h slot inc err).eng (homeDie va)).reqs = (s.eng (homeDie va)).reqs ++ [r] ∧ r.va = va ∧ r.pa = pa ∧ r.key = key ∧
      r.heath = true ∧ r.op = .hpost inc err := by
  unfold State.hPost
  rw [hslot]
  exact ⟨_, congrArg SyncEngine.reqs (State.modEng_eng ..), rfl, rfl, rfl, rfl, rfl⟩

theorem hpost_sends {err : Bool} {ra rb : BitVec 6} {va pa key : Nat} (hcur : s.cur = .hcp h) (hfree : s.held [ra.toNat, rb.toNat] = false)
    (hlt : ((s.hcp h).sc.get ra.toNat).toNat < 8) (hslot : tget (s.hcp h).posts ((s.hcp h).sc.get ra.toNat).toNat = some (va, pa, key))
    (hst : (s.hcp h).stores = []) :
    ∃ (t : State) (r : SyncReq), doHpost err ic ra rb s = .next t ∧ Advanced s t ic ∧ regsSame s t ∧ memSame s t ∧
      (t.eng (homeDie va)).reqs = (s.eng (homeDie va)).reqs ++ [r] ∧ r.va = va ∧ r.pa = pa ∧ r.key = key ∧ r.heath = true ∧
      r.op = .hpost ((s.hcp h).sc.get rb.toNat) (if err then some ((s.hcp h).errWord 5) else none) := by
  have hex : doHpost err ic ra rb s = .next ((s.modHcp h fun t => { t with sc := (s.hcp h).sc.advance ic s.clock }).hPost h
      ((s.hcp h).sc.get ra.toNat).toNat ((s.hcp h).sc.get rb.toNat) (if err then some ((s.hcp h).errWord 5) else none)) := by
    have hle : ¬ 7 < ((s.hcp h).sc.get ra.toNat).toNat := by omega
    simp only [doHpost, hcur, hfree, hle, hslot, hst, Option.isNone_some, ne_eq, not_true_eq_false, or_self, Bool.false_eq_true, if_false,
      State.setCore_hcp hcur]
  obtain ⟨hadv, hregs, hmem, -⟩ := (hPost_frame (s := s.modHcp h fun t => { t with sc := (s.hcp h).sc.advance ic s.clock }) h
    ((s.hcp h).sc.get ra.toNat).toNat ((s.hcp h).sc.get rb.toNat) (if err then some ((s.hcp h).errWord 5) else none)).issues_hcp (ic := ic) hcur rfl
  have hslot' : tget ((s.modHcp h fun t => { t with sc := (s.hcp h).sc.advance ic s.clock }).hcp h).posts ((s.hcp h).sc.get ra.toNat).toNat =
      some (va, pa, key) := by rw [State.modHcp_hcp]; exact hslot
  obtain ⟨r, hr⟩ := hPost_request ((s.hcp h).sc.get rb.toNat) (if err then some ((s.hcp h).errWord 5) else none) hslot'
  exact ⟨_, r, hex, hadv, hregs, hmem, hr⟩

end

end Sys2Proof.Machine

namespace Sys2Proof
open Sys2Proof.Machine

/-- Settles O25: the six words differ in the number of their function only. -/
theorem engineCommandWords : Obligations.EngineCommandWords := by
  unfold Obligations.EngineCommandWords
  intro s h ic ra key hcur hfree hclean t0 pa v b hal hchk hwhole hidle f hf hroom
  have hready : PushReady s h f.2 ra key := ⟨hcur, hfree, hclean, hal, hchk, hwhole, hidle, hroom⟩
  have hex : exec f.1 s = hPush f.2 ic ra s := by
    simp only [List.mem_cons, List.not_mem_nil, or_false] at hf
    rcases hf with rfl | rfl | rfl | rfl | rfl | rfl <;> rfl
  rw [hex]
  exact ⟨fun l hok hclass hst => hPush_hands hready rfl hok hclass hst, fun st d hbad => hPush_rejects hready rfl hbad⟩

/-- Settles O26: each word as the change it makes to its HCP, its arbiter or an engine. -/
theorem heathControlWords : Obligations.HeathControlWords := by
  unfold Obligations.HeathControlWords
  intro s h ic rd ra rb p sc hcur t0 a pa w
  refine ⟨fun pl hfree hlow hhigh hz hns hns' hz' hchk hp => ?_, fun hcmds hst => ?_, fun hfree hlt hidle => ?_, fun hfree hlt => ?_,
    fun va pp key hfree hlt hslot hst f hf => ?_⟩
  · have hw32 : w < 2 ^ 32 := BitVec.isLt _
    have hfield : ∀ lo len, getField ((s.hcp h).sc.get rb.toNat) lo len = w / 2 ^ lo % 2 ^ len := fun _ _ => rfl
    have hcols : getField ((s.hcp h).sc.get rb.toNat) 0 7 = w % 2 ^ 7 := by rw [hfield, pow_zero, Nat.div_one]
    have hex := hrow_takes (ic := ic) hcur hfree (hcols ▸ hlow) (hcols ▸ hhigh) hz hns hns' (by rw [hfield, hz', Nat.zero_mod]) hchk hp
    rw [hcols] at hex
    change exec (.hrow ic p rb) s = .next (s.hrowTaken h ic pa (w % 2 ^ 7) (w / 2 ^ 16 % 2 ^ 10) pl) at hex
    obtain ⟨tcur, tmem, tsc, tcols, tns, tlease⟩ := hrowTaken_hcp (ic := ic) hcur pa (w % 2 ^ 7) (w / 2 ^ 16 % 2 ^ 10) pl
    have tcore := (State.core_hcp tcur).trans tsc
    rw [← State.core_hcp hcur] at tcore
    exact ⟨_, hex, advanced_core tcore rfl rfl, regsSame_core (by rw [tcore]; rfl) (by rw [tcore]; rfl), fun b => by rw [tmem], tlease,
      tcols, tns, hrowTaken_queued hp⟩
  · exact ⟨_, hfence_goesOn hcur sc hcmds hst, hcp_goesOn hcur⟩
  · exact ⟨_, hwait_goesOn hcur hfree hlt hidle, hcp_goesOn hcur⟩
  · exact hstat_reads hcur hfree hlt
  · simp only [List.mem_cons, List.not_mem_nil, or_false] at hf
    rcases hf with rfl | rfl
    · exact hpost_sends (err := false) hcur hfree hlt hslot hst
    · exact hpost_sends (err := true) hcur hfree hlt hslot hst

end Sys2Proof

end

section
/-! SUPPORT. What accesses to lines leave alone, and what reading them depends on; the generation loop (O52). -/
namespace Sys2Proof.Machine

/-! ## States that differ in lines only -/

/-- Beside lines in memory and in the engines, the arbiters' queues, the logs and the sequence numbers, nothing differs. -/
def OnlyLines (s t : State) : Prop :=
  t = { s with engines := t.engines, mem := t.mem, poisoned := t.poisoned, dramErr := t.dramErr, lineKey := t.lineKey, arbiters := t.arbiters,
               logs := t.logs, msix := t.msix, seq := t.seq }

section
variable {s t u : State}

theorem OnlyLines.refl (s : State) : OnlyLines s s := rfl

theorem OnlyLines.trans (h : OnlyLines s t) (g : OnlyLines t u) : OnlyLines s u := by
  unfold OnlyLines at h g
  rw [h] at g
  exact g

theorem OnlyLines.foldl {α : Type} {f : State → α → State} (h : OnlyLines s t) (hf : ∀ u a, OnlyLines s u → OnlyLines s (f u a)) (l : List α) :
    OnlyLines s (l.foldl f t) := by
  induction l generalizing t with
  | nil => exact h
  | cons a l ih => exact ih (hf t a h)

theorem OnlyLines.ite {p : Prop} [Decidable p] (ht : OnlyLines s t) (hu : OnlyLines s u) : OnlyLines s (if p then t else u) := by
  split
  · exact ht
  · exact hu

theorem OnlyLines.modEng {d : Nat} {f : SyncEngine → SyncEngine} (h : OnlyLines s t) : OnlyLines s (t.modEng d f) := h.trans rfl
theorem OnlyLines.logErr {log cause : Nat} {d : W64} (h : OnlyLines s t) : OnlyLines s (t.logErr log cause d) := h.trans rfl
theorem OnlyLines.poisonLine {pa : Nat} (h : OnlyLines s t) : OnlyLines s (t.poisonLine pa) := h.trans rfl
theorem OnlyLines.dramWrite {pa key : Nat} {d : Line} {mask : BitVec 64} (h : OnlyLines s t) : OnlyLines s (t.dramWrite pa key d mask) := h.trans rfl
theorem OnlyLines.nextSeq (h : OnlyLines s t) : OnlyLines s t.nextSeq.2 := h.trans rfl

theorem OnlyLines.sramScrub {pa len : Nat} (h : OnlyLines s t) : OnlyLines s (t.sramScrub pa len) :=
  h.foldl (fun _ _ hu => hu.foldl (fun _ _ hv => hv.modEng.logErr) _) _

theorem OnlyLines.dieScrub {pa len : Nat} (h : OnlyLines s t) : OnlyLines s (t.dieScrub pa len) := by
  refine h.foldl (fun u e hu => ?_) _
  have hd : OnlyLines s { u with dramErr := tdel u.dramErr e.1 } := hu.trans rfl
  exact .ite hd.logErr hd.poisonLine.logErr

theorem OnlyLines.dramScrub {pa len : Nat} (h : OnlyLines s t) : OnlyLines s (t.dramScrub pa len) :=
  h.foldl (fun _ _ hu => .ite hu.sramScrub hu.dieScrub) _

theorem OnlyLines.scrubParts {ps : List Part} (h : OnlyLines s t) : OnlyLines s (t.scrubParts ps) :=
  .ite h (h.foldl (fun _ _ hu => .ite (hu.foldl (fun _ _ hv => .ite hv.sramScrub hv.dieScrub) _) hu) _)

theorem OnlyLines.arrayWrite {va pa key : Nat} {d : Line} {mask : BitVec 64} (h : OnlyLines s t) : OnlyLines s (t.arrayWrite va pa key d mask) := by
  unfold State.arrayWrite
  split
  · exact h.modEng
  · exact h.dramWrite

theorem OnlyLines.writeRun {key fuel va pa len v mask : Nat} (h : OnlyLines s t) : OnlyLines s (t.writeRun key fuel va pa len v mask) := by
  induction fuel generalizing t va pa len v mask with
  | zero => exact h
  | succ fuel ih =>
    unfold State.writeRun
    exact .ite h (ih (.ite h h.arrayWrite))

theorem OnlyLines.writeParts {ps : List Part} {v mask : Nat} (h : OnlyLines s t) : OnlyLines s (t.writeParts ps v mask) :=
  h.foldl (fun _ _ hu => hu.writeRun) _

theorem OnlyLines.writeBack {d : Nat} {l : HeldLine} (h : OnlyLines s t) : OnlyLines s (t.writeBack d l) := by
  have hs := OnlyLines.modEng (d := d) (f := fun e => { e with lines := e.lines.filter fun g => !g.isLine l.va l.pa })
    (.ite (p := t.sramBad d l = true) (h.sramScrub (pa := l.pa) (len := 64)) h)
  have hw := OnlyLines.ite (p := l.dirty = 0) hs (hs.dramWrite (pa := l.pa) (key := l.key) (d := l.data) (mask := l.dirty))
  exact .ite hw.poisonLine hw

theorem OnlyLines.arbPut {pa : Nat} {r : ArbReq} {gran : Bool} (h : OnlyLines s t) : OnlyLines s (t.arbPut pa r gran) := by
  unfold State.arbPut
  split
  · exact h
  · exact h.trans rfl

theorem OnlyLines.evict {d : Nat} {l : HeldLine} (h : OnlyLines s t) : OnlyLines s (t.evict d l) := by
  have hw : OnlyLines s (t.writeBack d l).nextSeq.2 := h.writeBack.nextSeq
  exact .ite hw hw.arbPut

theorem OnlyLines.heathWrite {pa key : Nat} {d : Line} {mask : BitVec 64} (h : OnlyLines s t) : OnlyLines s (t.heathWrite pa key d mask) := by
  unfold State.heathWrite
  split
  · exact .ite h.writeBack.dramWrite.poisonLine h.writeBack.dramWrite
  · exact .ite h.dramWrite.poisonLine h.dramWrite

theorem OnlyLines.hWriteRun {key fuel pa len v mask : Nat} (h : OnlyLines s t) : OnlyLines s (t.hWriteRun key fuel pa len v mask) := by
  induction fuel generalizing t pa len v mask with
  | zero => exact h
  | succ fuel ih =>
    unfold State.hWriteRun
    exact .ite h (ih (.ite h h.heathWrite))

theorem OnlyLines.hWrite {key pa len v : Nat} (h : OnlyLines s t) : OnlyLines s (t.hWrite key pa len v) := h.hWriteRun

theorem OnlyLines.gtc (h : OnlyLines s t) : t.gtc = s.gtc := by rw [h]
theorem OnlyLines.meadows (h : OnlyLines s t) : t.meadows = s.meadows := by rw [h]
theorem OnlyLines.keys (h : OnlyLines s t) : t.keys = s.keys := by rw [h]
theorem OnlyLines.hcps (h : OnlyLines s t) : t.hcps = s.hcps := by rw [h]
theorem OnlyLines.gen (h : OnlyLines s t) : t.gen = s.gen := by rw [h]
theorem OnlyLines.tcm (h : OnlyLines s t) : t.tcm = s.tcm := by rw [h]
theorem OnlyLines.mcirq (h : OnlyLines s t) : t.mcirq = s.mcirq := by rw [h]
theorem OnlyLines.reclaims (h : OnlyLines s t) : t.reclaims = s.reclaims := by rw [h]
theorem OnlyLines.pageReqs (h : OnlyLines s t) : t.pageReqs = s.pageReqs := by rw [h]

/-! ## What reading a line depends on -/

/-- The lines of memory and of the engines, and the keys they are read under, are the same. -/
def SameLines (s t : State) : Prop :=
  (t.engines, t.mem, t.poisoned, t.dramErr, t.lineKey, t.keys) = (s.engines, s.mem, s.poisoned, s.dramErr, s.lineKey, s.keys)

theorem SameLines.fields (h : SameLines s t) :
    t.engines = s.engines ∧ t.mem = s.mem ∧ t.poisoned = s.poisoned ∧ t.dramErr = s.dramErr ∧ t.lineKey = s.lineKey ∧ t.keys = s.keys := by
  simpa only [SameLines, Prod.mk.injEq] using h

theorem SameLines.arrayLine (h : SameLines s t) (va pa key : Nat) : t.arrayLine va pa key = s.arrayLine va pa key := by
  obtain ⟨he, hm, hp, hd, hl, hk⟩ := h.fields
  simp only [State.arrayLine, State.heldAt, State.eng, State.sramBad, State.dramLine, State.linePoison, he, hm, hp, hd, hl, hk]

theorem SameLines.heathLine (h : SameLines s t) (pa key : Nat) : t.heathLine pa key = s.heathLine pa key := by
  obtain ⟨he, hm, hp, hd, hl, hk⟩ := h.fields
  simp only [State.heathLine, State.heldPa, State.eng, State.sramBad, State.dramLine, State.linePoison, he, hm, hp, hd, hl, hk]

theorem SameLines.readRun (h : SameLines s t) (key fuel va pa len : Nat) : t.readRun key fuel va pa len = s.readRun key fuel va pa len := by
  induction fuel generalizing va pa len with
  | zero => rfl
  | succ fuel ih => simp only [State.readRun, ih, h.arrayLine]

theorem SameLines.readParts (h : SameLines s t) (ps : List Part) : t.readParts ps = s.readParts ps := by
  simp only [State.readParts, h.readRun]

theorem SameLines.hReadRun (h : SameLines s t) (key fuel pa len : Nat) : t.hReadRun key fuel pa len = s.hReadRun key fuel pa len := by
  induction fuel generalizing pa len with
  | zero => rfl
  | succ fuel ih => simp only [State.hReadRun, ih, h.heathLine]

theorem SameLines.hRead (h : SameLines s t) (key pa len : Nat) : t.hRead key pa len = s.hRead key pa len := h.hReadRun ..

end

end Sys2Proof.Machine

end

section
/-! SUPPORT. The generation loop (O52): what its steps keep of the loop's own state, and requests through the ring. -/
namespace Sys2Proof.Machine

section
variable {s t u : State}

/-! ## Reads through the launch queue's window -/

theorem SameLines.windowOf (h : SameLines s t) (pa : Nat) : t.windowOf pa = s.windowOf pa := by
  have hline : t.heathLine = s.heathLine := funext fun a => funext fun k => h.heathLine a k
  rw [State.windowOf, hline, State.windowOf]

theorem SameLines.access (h : SameLines s t) (hb : t.bootcfg = s.bootcfg) (m : Meadow) (w : Want) (as_ : List (Nat × Nat)) :
    t.access m w as_ = s.access m w as_ := by
  obtain ⟨-, -, -, -, -, hk⟩ := h.fields
  have hbacked : t.backed = s.backed := by
    unfold State.backed State.pcc
    rw [hb]
  unfold State.access State.unbackedPart
  rw [hk, hbacked]

theorem SameLines.qRead (h : SameLines s t) (hb : t.bootcfg = s.bootcfg) (m : Meadow) (va n : Nat) : t.qRead m va n = s.qRead m va n := by
  simp only [State.qRead, h.access hb, h.readParts]

theorem clearIrq_qRead (v : W64) (va n : Nat) : (s.clearIrq v).qRead (s.clearIrq v).genView va n = s.qRead s.genView va n := by
  have hl : SameLines s (s.clearIrq v) := rfl
  have hv : (s.clearIrq v).genView = s.genView := by
    change (s.clearIrq v).viewOf _ = s.viewOf _
    rw [State.viewOf, hl.windowOf]
    rfl
  rw [hl.qRead rfl, hv]

/-! ## The loop's own state (R340-R346) -/

/-- The loop's state and the completion interrupts are as before; the sequence table and the lines may differ. -/
def SameLoop (s t : State) : Prop := t.gen = s.gen ∧ t.mcirq = s.mcirq

theorem SameLoop.refl (s : State) : SameLoop s s := ⟨rfl, rfl⟩
theorem SameLoop.trans (h : SameLoop s t) (g : SameLoop t u) : SameLoop s u := ⟨g.1.trans h.1, g.2.trans h.2⟩
theorem OnlyLines.sameLoop (h : OnlyLines s t) : SameLoop s t := ⟨h.gen, h.mcirq⟩

theorem SameLoop.seqPut {i off n v : Nat} (h : SameLoop s t) : SameLoop s (t.seqPut i off n v) := h
theorem SameLoop.setSeqState {i st : Nat} (h : SameLoop s t) : SameLoop s (t.setSeqState i st) := by
  unfold State.setSeqState
  exact h.seqPut

theorem SameLoop.foldl {α : Type} {f : State → α → State} (h : SameLoop s t) (hf : ∀ u a, SameLoop s u → SameLoop s (f u a)) (l : List α) :
    SameLoop s (l.foldl f t) := by
  induction l generalizing t with
  | nil => exact h
  | cons a l ih => exact ih (hf t a h)

theorem OnlyLines.genWrite {va n v : Nat} (h : OnlyLines s t) : OnlyLines s (t.genWrite va n v) := by
  unfold State.genWrite
  split
  · exact h.writeParts
  · exact h

theorem OnlyLines.genPut {d : Line} {desc n v : Nat} (h : OnlyLines s t) : OnlyLines s (t.genPut d desc n v) := by
  unfold State.genPut
  split
  · exact h.writeParts.writeParts
  · exact h

theorem OnlyLines.append {ring tok pos : Nat} (h : OnlyLines s t) : OnlyLines s (t.append ring tok pos) := by
  unfold State.append
  split
  · exact h
  · exact .ite h h.genPut

theorem OnlyLines.putArgs (h : OnlyLines s t) : OnlyLines s t.putArgs := h.foldl (fun _ _ hu => hu.genWrite) _

theorem OnlyLines.ringBatch (h : OnlyLines s t) : OnlyLines s t.ringBatch := by
  unfold State.ringBatch
  extract_lets m desc
  split
  · exact h
  · exact .ite h h.genPut

theorem SameLoop.append {ring tok pos : Nat} (h : SameLoop s t) : SameLoop s (t.append ring tok pos) := h.trans (OnlyLines.append (.refl t)).sameLoop

theorem SameLoop.commitToks {e : Nat} {tok : Nat → Nat} {js : List Nat} (h : SameLoop s t) : SameLoop s (t.commitToks e tok js) := by
  induction js generalizing t with
  | nil => exact h
  | cons j js ih =>
    unfold State.commitToks
    extract_lets pos s1
    have h1 : SameLoop s s1 := h.append.seqPut.seqPut
    split
    · exact h.setSeqState
    · split
      · exact h1.setSeqState
      · exact ih h1

theorem SameLoop.commitRow {i e : Nat} (h : SameLoop s t) : SameLoop s (t.commitRow i e) := by
  unfold State.commitRow
  split
  · exact h
  · extract_lets n ring bad tok tk m s1 s2
    have h2 : SameLoop s s2 := (h.commitToks (e := e)).foldl (fun _ _ hu => hu.seqPut) _
    split
    · exact h.setSeqState.append
    · split
      · exact h2.append.setSeqState
      · exact h2

/-! ## Requests (R346) -/

theorem takeReqs_none (hring : s.reqRing = none) (hreqs : s.gen.reqs = []) : s.takeReqs = (s, []) := by
  have hq : s.ringReqs = ([], s) := by rw [State.ringReqs, hring]
  rw [State.takeReqs, hq, hreqs]
  change ({ s with gen := { s.gen with reqs := [] } }, []) = (s, [])
  rw [← hreqs]

theorem clearIrq_reqRing (v : W64) : (s.clearIrq v).reqRing = s.reqRing := by
  have h := clearIrq_qRead (s := s) v s.gen.ringAddr 64
  unfold State.reqRing
  rw [show (s.clearIrq v).gen = s.gen from rfl, h]

theorem genScrub_of_clean (hc : s.memClean = true) : s.genScrub = s := if_pos hc

/-- A request that goes to its slot of the ring. -/
theorem hostAsk_rings {r : GenReq} {d : Line} {e tl : List Part} (hd : s.reqRing = some d) (hr : s.gen.reqs = [])
    (hroom : ringOcc d ≠ lineGet d 8 3) (hslot : s.genSlot d s.gen.ringAddr 256 = some (e, tl)) :
    s.hostAsk r = (s.writeParts e r.bytes (2 ^ 256 - 1)).writeParts tl ((lineGet d 4 3 + 1) % 2 ^ 24) 15 := by
  simp only [State.hostAsk, hd, hr, hroom, hslot, ne_eq, not_true_eq_false, Option.isNone_some, Bool.false_eq_true, or_self, if_false, State.genPut]

theorem hostAsk_waits {r : GenReq}
    (h : s.reqRing = none ∨ s.gen.reqs ≠ [] ∨ ∃ d, s.reqRing = some d ∧ (lineGet d 8 3 = ringOcc d ∨ s.genSlot d s.gen.ringAddr 256 = none)) :
    s.hostAsk r = { s with gen := { s.gen with reqs := s.gen.reqs ++ [r] } } := by
  unfold State.hostAsk
  cases hd : s.reqRing with
  | none => rfl
  | some d =>
    refine if_pos ?_
    rcases h with h | h | ⟨e, he, hfull | hslot⟩
    · rw [hd] at h
      cases h
    · exact .inl h
    · cases hd.symm.trans he
      exact .inr (.inl hfull.symm)
    · cases hd.symm.trans he
      exact .inr (.inr (by rw [hslot]; rfl))

/-! ## Issue and commit (R341-R344) -/

/-- An iteration that has been issued is in flight with its rows, and the table and the count are as they were. -/
theorem genIssue_rows (hidle : s.gen.inFlight = false) (hroom : s.genRoom = true) (hc : s.memClean = true) (hring : s.reqRing = none)
    (hreqs : s.gen.reqs = []) (hrows : s.genRows ≠ []) :
    ∃ t, exec .genIterationIssue s = .next t ∧ t.gen.inFlight = true ∧ t.gen.rows = s.genRows ∧ t.gen.done = false ∧ t.tcm = s.tcm ∧
      t.gen.iter = s.gen.iter := by
  change ∃ t, execGenIterationIssue s = .next t ∧ _
  unfold execGenIterationIssue
  rw [hidle, hroom, genScrub_of_clean hc, takeReqs_none hring hreqs, if_neg (by decide)]
  extract_lets s1 rows g s2 s3 s4
  have hr : s.genRows = rows := rfl
  clear_value rows
  rw [hr] at hrows ⊢
  rw [if_neg hrows]
  have h2 : OnlyLines s s2 := OnlyLines.genWrite (.refl s)
  have h4 : OnlyLines s s4 := (h2.foldl (fun _ _ hu => hu.genWrite) _).putArgs.ringBatch
  have hiter : s4.gen.iter = s.gen.iter := congrArg GenLoop.iter h4.gen
  exact ⟨_, rfl, rfl, rfl, rfl, h4.tcm, hiter⟩

theorem genIssue_none (hidle : s.gen.inFlight = false) (hroom : s.genRoom = true) (hc : s.memClean = true) (hring : s.reqRing = none)
    (hreqs : s.gen.reqs = []) (hrows : s.genRows = []) : exec .genIterationIssue s = .next s := by
  change execGenIterationIssue s = .next s
  unfold execGenIterationIssue
  rw [hidle, hroom, genScrub_of_clean hc, takeReqs_none hring hreqs, if_neg (by decide)]
  extract_lets s1 rows
  rw [if_pos (show rows = [] from hrows)]

theorem genIssue_waits (h : s.gen.inFlight = true ∨ s.genRoom = false) : exec .genIterationIssue s = .next s := by
  refine if_pos ?_
  rcases h with h | h
  · rw [h, Bool.true_or]
  · rw [h, Bool.not_false, Bool.or_true]

theorem genCommit_waits
    (h : s.gen.inFlight = false ∨ s.gen.retry = true ∧ s.genRoom = false ∨ s.gen.retry = false ∧ s.gen.done = false) :
    exec .genCommit s = .next s := by
  change execGenCommit s = .next s
  unfold execGenCommit
  cases hf : s.gen.inFlight with
  | false => rfl
  | true =>
    rcases h with h | ⟨hr, hroom⟩ | ⟨hr, hd⟩
    · rw [hf] at h
      cases h
    · rw [hr, hroom]
      rfl
    · rw [hr, State.genDue, hd]
      rfl

theorem clearIrq_clear (v : W64) {i : Nat} (hv : v.getLsbD i = true) (h : s.mcirqSet.getLsbD i = false) : (s.clearIrq v).mcirq.getLsbD i = false := by
  simp [State.clearIrq, hv, h, -BitVec.getLsbD_eq_getElem]

theorem getLsbD_twoPow64 {i : Nat} (h : i < 64) : (BitVec.ofNat 64 (2 ^ i)).getLsbD i = true := by
  rw [BitVec.getLsbD_ofNat, Nat.testBit_two_pow_self, decide_eq_true h, Bool.and_self]

theorem genCommit_ends (hf : s.gen.inFlight = true) (hretry : s.gen.retry = false) (hdone : s.gen.done = true) (hc : s.memClean = true)
    (hring : s.reqRing = none) (hreqs : s.gen.reqs = []) (hst : s.qRead s.genView s.gen.crecAddr 1 = some 0) :
    ∃ t, exec .genCommit s = .next t ∧ t.gen.inFlight = false ∧ t.gen.rows = [] ∧ t.gen.iter = s.gen.iter + 1 ∧
      (s.mcirqSet.getLsbD (s.gen.queue % 16) = false → t.mcirq.getLsbD (s.gen.queue % 16) = false) ∧ (s.gen.rows = [] → t.tcm = s.tcm ∧ memSame s t) := by
  change ∃ t, execGenCommit s = .next t ∧ _
  unfold execGenCommit
  rw [hf, hretry, State.genDue, hdone, genScrub_of_clean hc]
  generalize hs0 : s.clearIrq (BitVec.ofNat 64 (2 ^ (s.gen.queue % 16))) = s0
  have hstatus : (s0.qRead s0.genView s0.gen.crecAddr 1).getD 0 = 0 := by
    rw [← hs0, clearIrq_qRead, show (s.clearIrq (BitVec.ofNat 64 (2 ^ (s.gen.queue % 16)))).gen.crecAddr = s.gen.crecAddr from rfl, hst]
    rfl
  have htake : s0.takeReqs = (s0, []) := by
    rw [← hs0]
    exact takeReqs_none ((clearIrq_reqRing _).trans hring) hreqs
  rw [if_neg (by decide), if_neg (by decide), if_neg (by decide)]
  extract_lets s0'
  rw [show s0'.takeReqs = (s0, []) from htake]
  dsimp -zeta only
  extract_lets dead status src s2
  rw [if_neg (not_not.2 (show status = 0 from hstatus))]
  have h2 : SameLoop s0 s2 := (SameLoop.refl s0).foldl (fun u r hu => by
    split
    · exact hu
    · exact hu.commitRow) _
  refine ⟨_, rfl, rfl, rfl, ?_, fun hset => ?_, fun hrows => ?_⟩
  · change s2.gen.iter + 1 = _
    rw [h2.1, ← hs0]
    rfl
  · change s2.mcirq.getLsbD _ = false
    rw [h2.2, ← hs0]
    exact clearIrq_clear _ (getLsbD_twoPow64 (by omega)) hset
  · have hs2 : s2 = s0 := by
      change (List.zipIdx s0.gen.rows).foldl _ s0 = s0
      rw [show s0.gen.rows = [] by rw [← hs0]; exact hrows]
      rfl
    change s2.tcm = s.tcm ∧ ∀ a, Memory.read s2.mem a = Memory.read s.mem a
    rw [hs2, ← hs0]
    exact ⟨rfl, fun _ => rfl⟩

theorem completes_genIterationIssue : Completes .genIterationIssue := by
  intro s
  change Res.goesOn (execGenIterationIssue s)
  unfold execGenIterationIssue
  exact goesOn_ite (goesOn_next s) (goesOn_ite (goesOn_next _) (goesOn_next _))

theorem completes_genCommit : Completes .genCommit := by
  intro s
  change Res.goesOn (execGenCommit s)
  unfold execGenCommit
  exact goesOn_ite (goesOn_next s) (goesOn_ite (goesOn_next _) (goesOn_ite (goesOn_next s) (goesOn_ite (goesOn_next _) (goesOn_next _))))

end

end Sys2Proof.Machine

namespace Sys2Proof
open Sys2Proof.Machine

/-- Settles O52: requests go to the ring or wait, and an iteration's issue and commit change the loop's state as stated. -/
theorem generationEvents : Obligations.GenerationEvents := by
  unfold Obligations.GenerationEvents
  refine ⟨fun i hi => ?_, fun image s => ⟨_, rfl⟩, fun id s => ⟨_, rfl⟩, fun s => ⟨fun i r hir => ?_, genIssue_waits, fun hidle hroom hc hring hreqs hrows => ?_,
    genIssue_rows, genCommit_waits, genCommit_ends⟩⟩
  · simp only [List.mem_cons, List.not_mem_nil, or_false] at hi
    rcases hi with rfl | rfl
    · exact completes_genIterationIssue
    · exact completes_genCommit
  · have hex : exec i s = .next (s.hostAsk r) := by
      rcases hir with ⟨img, rfl, rfl⟩ | ⟨n, rfl, rfl⟩ <;> rfl
    rw [hex]
    refine ⟨fun d e tl hd hr hroom hslot => ?_, fun h => congrArg Host.Outcome.next (hostAsk_waits h)⟩
    have h : OnlyLines s ((s.writeParts e r.bytes (2 ^ 256 - 1)).writeParts tl ((d.toNat / 2 ^ 32 % 2 ^ 24 + 1) % 2 ^ 24) 15) :=
      ((OnlyLines.refl s).writeParts).writeParts
    exact ⟨_, congrArg Host.Outcome.next (hostAsk_rings hd hr (Ne.symm hroom) hslot), rfl, h.gen, h.tcm, h.gtc, h.meadows⟩
  · exact ⟨s, genIssue_none hidle hroom hc hring hreqs hrows, fun _ => rfl, hidle, rfl⟩

end Sys2Proof

end

section
/-! SUPPORT. Links (O51): a packet's four lines at an armed landing, a doorbell's examinations, and what a log entry leaves. -/
namespace Sys2Proof.Machine

/-! ## Log entries -/

/-- An entry appended to a log is its last. -/
theorem logErr_last (s : State) (log cause : Nat) (d : W64) :
    ∃ e, (tgetD (s.logErr log cause d).logs log {}).entries.getLast? = some e ∧ e.cause = cause := by
  have hlast (es : List LogEntry) (e : LogEntry) : (es ++ [e]).getLast? = some e := by simp
  refine ⟨⟨cause, s.gtcW, d⟩, ?_, rfl⟩
  unfold State.logErr
  extract_lets l e l'
  change (tgetD (tput s.logs log l') log {}).entries.getLast? = _
  rw [tgetD_tput_self]
  dsimp only [l']
  split <;> exact hlast _ _

theorem logStack_only (s : State) (cause pa hcoord : Nat) :
    s.logStack cause pa hcoord = { s with logs := (s.logStack cause pa hcoord).logs, msix := (s.logStack cause pa hcoord).msix } := rfl

/-! ## Requests to arbiters leave landings alone -/

theorem OnlyLines.arbHeath {s t : State} {id hcp pa len : Nat} {lim : Nat × Nat} (h : OnlyLines s t) : OnlyLines s (t.arbHeath id hcp lim pa len) :=
  h.foldl (fun _ _ hu => .ite hu hu.arbPut) _

/-! ## A packet at an armed landing (R268, R269) -/

/-- Line `j` of a packet, as the landing takes it. -/
def contribOf (p : FavexPacket) (j : Nat) : Contrib := ⟨p.rank.toNat, p.line.toNat + j, p.payload.extractLsb' (512 * j) 512, p.poison.getLsbD j⟩

/-- The landing l takes line `j` of a packet: DST has it, and its rank has not sent it yet. -/
def Landing.takes (l : Landing) (p : FavexPacket) (j : Nat) : Prop :=
  p.line.toNat + j < l.lines ∧ ∀ g ∈ l.got, ¬ (g.rank = p.rank.toNat ∧ g.line = p.line.toNat + j)

/-- The landing l is k once the first `n` lines of a packet have come. -/
structure Landed (l : Landing) (p : FavexPacket) (n : Nat) (k : Landing) : Prop where
  cmd : k.cmd = l.cmd
  block : k.block = l.block
  written : k.written = l.written
  got : ∀ g, g ∈ k.got ↔ g ∈ l.got ∨ ∃ i, i < n ∧ l.takes p i ∧ g = contribOf p i
  count : ∀ i, n ≤ i → k.got.filter (fun g => g.line = p.line.toNat + i) = l.got.filter fun g => g.line = p.line.toNat + i
  todo : ∀ i, i < n → l.takes p i → (l.got.filter fun g => g.line = p.line.toNat + i).length + 1 = l.ranks → p.line.toNat + i ∈ k.todo
  dups : (∀ i, i < n → ¬ l.takes p i) → p.line.toNat + n ≤ l.lines → k.dups = l.dups + n

section
variable {l k : Landing} {p : FavexPacket} {n : Nat}

theorem Landed.zero (l : Landing) (p : FavexPacket) : Landed l p 0 l where
  cmd := rfl
  block := rfl
  written := rfl
  got := fun g => by simp
  count := fun _ _ => rfl
  todo := fun i hi => absurd hi (Nat.not_lt_zero i)
  dups := fun _ _ => rfl

theorem Landed.ranks (h : Landed l p n k) : k.ranks = l.ranks := by rw [Landing.ranks, Landing.b, h.block, Landing.ranks, Landing.b]

/-- A line behind those that have come is there already only if the landing had it before. -/
theorem Landed.has_iff (h : Landed l p n k) :
    (k.got.any fun g => decide (g.rank = (contribOf p n).rank ∧ g.line = (contribOf p n).line)) = true ↔
      ∃ g ∈ l.got, g.rank = p.rank.toNat ∧ g.line = p.line.toNat + n := by
  rw [List.any_eq_true]
  refine ⟨fun ⟨g, hg, hm⟩ => ?_, fun ⟨g, hg, hm⟩ => ⟨g, (h.got g).2 (.inl hg), decide_eq_true hm⟩⟩
  rcases (h.got g).1 hg with hg | ⟨i, hi, -, rfl⟩
  · exact ⟨g, hg, of_decide_eq_true hm⟩
  · have hline : p.line.toNat + i = p.line.toNat + n := (of_decide_eq_true hm).2
    omega

theorem exists_lt_succ_takes {g : Contrib} (hno : ¬ l.takes p n) :
    (∃ i, i < n + 1 ∧ l.takes p i ∧ g = contribOf p i) ↔ ∃ i, i < n ∧ l.takes p i ∧ g = contribOf p i := by
  refine ⟨fun ⟨i, hi, ht, hg⟩ => ⟨i, ?_, ht, hg⟩, fun ⟨i, hi, ht, hg⟩ => ⟨i, by omega, ht, hg⟩⟩
  rcases Nat.lt_succ_iff_lt_or_eq.1 hi with hi | rfl
  · exact hi
  · exact absurd ht hno

/-- A line that the landing does not take changes at most the count of duplicates. -/
theorem Landed.skip (h : Landed l p n k) (hno : ¬ l.takes p n) {d : Nat} (hd : p.line.toNat + n < l.lines → d = k.dups + 1) :
    Landed l p (n + 1) { k with dups := d } where
  cmd := h.cmd
  block := h.block
  written := h.written
  got := fun g => (h.got g).trans (or_congr_right (exists_lt_succ_takes hno).symm)
  count := fun i hi => h.count i (by omega)
  todo := fun i hi ht => by
    rcases Nat.lt_succ_iff_lt_or_eq.1 hi with hi | rfl
    · exact h.todo i hi ht
    · exact absurd ht hno
  dups := fun hall hle => by
    have hk := h.dups (fun i hi => hall i (by omega)) (by omega)
    exact (hd (by omega)).trans (by omega)

/-- A line that the landing takes. -/
theorem Landed.take (h : Landed l p n k) (ht : l.takes p n) {k' : Landing} (hcmd : k'.cmd = k.cmd) (hblock : k'.block = k.block)
    (hwr : k'.written = k.written) (hgot : k'.got = k.got ++ [contribOf p n]) (htodo : ∀ i ∈ k.todo, i ∈ k'.todo)
    (hall : (l.got.filter fun g => g.line = p.line.toNat + n).length + 1 = l.ranks → p.line.toNat + n ∈ k'.todo) : Landed l p (n + 1) k' where
  cmd := hcmd.trans h.cmd
  block := hblock.trans h.block
  written := hwr.trans h.written
  got := fun g => by
    rw [hgot, List.mem_append, h.got, or_assoc, List.mem_singleton]
    refine or_congr_right ⟨fun hg => ?_, fun ⟨i, hi, hti, hg⟩ => ?_⟩
    · rcases hg with ⟨i, hi, hti, hg⟩ | hg
      · exact ⟨i, by omega, hti, hg⟩
      · exact ⟨n, by omega, ht, hg⟩
    · rcases Nat.lt_succ_iff_lt_or_eq.1 hi with hi | rfl
      · exact .inl ⟨i, hi, hti, hg⟩
      · exact .inr hg
  count := fun i hi => by
    have hne : ¬ (contribOf p n).line = p.line.toNat + i := by
      change ¬ p.line.toNat + n = p.line.toNat + i
      omega
    rw [hgot, List.filter_append, h.count i (by omega), List.filter_cons_of_neg (by simpa using hne), List.filter_nil, List.append_nil]
  todo := fun i hi hti hc => by
    rcases Nat.lt_succ_iff_lt_or_eq.1 hi with hi | rfl
    · exact htodo _ (h.todo i hi hti hc)
    · exact hall hc
  dups := fun hno _ => absurd ht (hno n (by omega))

end

/-- The landings hold the one landing that l has become, and memory and the meadows are as they were. -/
def AtLanding (s : State) (l : Landing) (p : FavexPacket) (n : Nat) (t : State) : Prop :=
  (∃ k, t.landings = [k] ∧ Landed l p n k) ∧ memSame s t ∧ t.meadows = s.meadows

section
variable {s t : State} {l : Landing} {p : FavexPacket} {n : Nat}

theorem OnlyLines.landings (h : OnlyLines s t) : t.landings = s.landings := by rw [h]

theorem modLanding_one {q : Landing} (h : t.landings = [q]) (f : Landing → Landing) : (t.modLanding q.cmd f).landings = [f q] := by
  rw [State.modLanding, h]
  simp

/-- The landing of a command stands alone when it takes a line of a packet. -/
theorem landTake_step {k : Landing} (hk : t.landings = [k]) (h : Landed l p n k) (hmem : memSame s t) (hm : t.meadows = s.meadows)
    (hin : p.line.toNat + n < l.lines) : AtLanding s l p (n + 1) (t.landTake k (contribOf p n)) := by
  unfold State.landTake
  have hhas := h.has_iff
  by_cases hany : (k.got.any fun g => decide (g.rank = (contribOf p n).rank ∧ g.line = (contribOf p n).line)) = true
  · have hno : ¬ l.takes p n := fun ht => by
      obtain ⟨g, hg, he⟩ := hhas.1 hany
      exact ht.2 g hg he
    rw [if_pos hany]
    exact ⟨⟨_, modLanding_one hk _, h.skip hno fun _ => rfl⟩, hmem, hm⟩
  · have ht : l.takes p n := ⟨hin, fun g hg he => hany (hhas.2 ⟨g, hg, he⟩)⟩
    rw [if_neg hany]
    extract_lets l1 s1 all
    have hs1 : s1.landings = [l1] := modLanding_one hk _
    have hcount : ((l1.got.filter fun g => g.line = p.line.toNat + n).length = l1.ranks) ↔
        (l.got.filter fun g => g.line = p.line.toNat + n).length + 1 = l.ranks := by
      have hl1 : l1.got.filter (fun g => g.line = p.line.toNat + n) = l.got.filter (fun g => g.line = p.line.toNat + n) ++ [contribOf p n] := by
        change (k.got ++ [contribOf p n]).filter _ = _
        rw [List.filter_append, h.count n le_rfl, List.filter_cons_of_pos (by simp [contribOf]), List.filter_nil]
      rw [hl1, List.length_append, List.length_singleton, show l1.ranks = l.ranks from h.ranks]
    by_cases hall : all
    · rw [if_pos hall]
      let s2 := s1.arbHeath l1.cmd l1.hcp (((s1.hcmds.find? fun c => c.id = l1.cmd).map (·.lim)).getD (64, 1024)) (l1.lineAt (contribOf p n).line) 64
      have hland : s2.landings = [l1] := (OnlyLines.arbHeath (.refl s1)).landings.trans hs1
      have hsame : SameCore s1 s2 := arbHeath_frame ..
      refine ⟨⟨_, modLanding_one hland _, h.take ht rfl rfl rfl rfl (fun i hi => ?_) fun _ => ?_⟩, fun a => (hsame.keeps_mem a).trans (hmem a), hsame.1.trans hm⟩
      · exact (mem_sortedInsert ..).2 (.inr hi)
      · exact (mem_sortedInsert ..).2 (.inl rfl)
    · rw [if_neg hall]
      exact ⟨⟨l1, hs1, h.take ht rfl rfl rfl rfl (fun _ hi => hi) fun hc => absurd (hcount.2 hc) hall⟩, hmem, hm⟩

/-- What line `j` of a packet does to the armed landing. -/
def State.landPart (s : State) (l : Landing) (p : FavexPacket) (j : Nat) : State :=
  if l.lines ≤ p.line.toNat + j then s.logStack Cause.pktDrop (l.b.f 8 0 64 + 64 * (p.line.toNat + j)) (4 * p.dheath.toNat)
  else match s.landings.find? fun q => q.cmd = l.cmd with
    | none => s
    | some q => s.landTake q (contribOf p j)

theorem landPart_step (h : AtLanding s l p n t) : AtLanding s l p (n + 1) (t.landPart l p n) := by
  obtain ⟨⟨k, hk, hl⟩, hmem, hm⟩ := h
  unfold State.landPart
  by_cases hin : l.lines ≤ p.line.toNat + n
  · have hno : ¬ l.takes p n := fun ht => absurd ht.1 (not_lt.2 hin)
    rw [if_pos hin]
    exact ⟨⟨k, hk, hl.skip hno fun hlt => absurd hlt (not_lt.2 hin)⟩, hmem, hm⟩
  · have hfind : t.landings.find? (fun q => decide (q.cmd = l.cmd)) = some k := by rw [hk, List.find?_cons_of_pos (by simpa using hl.cmd)]
    rw [if_neg hin, hfind]
    exact landTake_step hk hl hmem hm (not_le.1 hin)

theorem landCheck_only (s : State) (cmd : Nat) : s.landCheck cmd = { s with hcmds := (s.landCheck cmd).hcmds } := by
  unfold State.landCheck
  split
  · rfl
  · split <;> rfl

/-- A packet of a rank below RANKS for the one armed landing of its HCP and LID. -/
theorem packet_lands (htype : p.type = 1) (hpkg : p.dpkg.toNat = s.fvxaddr.toNat % 2 ^ 12) (hl : s.landings = [l]) (hhcp : l.hcp = p.dheath.toNat)
    (hlid : l.b.f 0x10 56 8 = p.lid.toNat) (hpost : l.post = none) (hrank : p.rank.toNat < l.ranks) :
    ∃ t, exec (.landingContribution p) s = .next t ∧ AtLanding s l p 4 t := by
  have hfind : s.landings.find? (fun l => decide (l.hcp = p.dheath.toNat ∧ l.b.f 0x10 56 8 = p.lid.toNat ∧ l.post = none)) = some l := by
    rw [hl]
    exact List.find?_cons_of_pos (decide_eq_true ⟨hhcp, hlid, hpost⟩)
  have hpkg' : p.dpkg.toNat = getField s.fvxaddr 0 12 := by rw [getField, pow_zero, Nat.div_one, hpkg]
  have hex : exec (.landingContribution p) s = .next (((((s.landPart l p 0).landPart l p 1).landPart l p 2).landPart l p 3).landCheck l.cmd) := by
    change execLandingContribution p s = _
    unfold execLandingContribution
    rw [htype, if_neg (by decide), if_neg (not_or.2 ⟨not_not.2 rfl, not_not.2 hpkg'⟩), hfind]
    dsimp -zeta only
    rw [if_neg (not_le.2 hrank)]
    rfl
  have hzero : AtLanding s l p 0 s := ⟨⟨l, hl, .zero l p⟩, fun _ => rfl, rfl⟩
  obtain ⟨hk, hmem, hm⟩ := landPart_step (landPart_step (landPart_step (landPart_step hzero)))
  refine ⟨_, hex, ?_⟩
  rw [landCheck_only]
  exact ⟨hk, hmem, hm⟩

/-- A packet that no armed landing waits for. -/
theorem packet_drops (h2 : p.type ≠ 2) (h : p.type ≠ 1 ∨ p.dpkg.toNat ≠ s.fvxaddr.toNat % 2 ^ 12 ∨
      ∀ l ∈ s.landings, l.hcp ≠ p.dheath.toNat ∨ l.b.f 0x10 56 8 ≠ p.lid.toNat ∨ l.post ≠ none) :
    exec (.landingContribution p) s = .next (s.logStack Cause.pktDrop 0 (4 * p.dheath.toNat)) := by
  change execLandingContribution p s = _
  unfold execLandingContribution
  rw [if_neg h2]
  by_cases hhere : p.type ≠ 1 ∨ p.dpkg.toNat ≠ getField s.fvxaddr 0 12
  · rw [if_pos hhere]
  · have hnone : s.landings.find? (fun l => decide (l.hcp = p.dheath.toNat ∧ l.b.f 0x10 56 8 = p.lid.toNat ∧ l.post = none)) = none := by
      refine List.find?_eq_none.2 fun l hl hm => ?_
      obtain ⟨hhcp, hlid, hpost⟩ := of_decide_eq_true hm
      rw [getField, pow_zero, Nat.div_one] at hhere
      rcases h with h | h | h
      · exact hhere (.inl h)
      · exact hhere (.inr h)
      · exact (h l hl).elim (· hhcp) fun h => h.elim (· hlid) (· hpost)
    rw [if_neg hhere, hnone]

theorem completes_landingContribution (p : FavexPacket) : Completes (.landingContribution p) := by
  intro s
  change Res.goesOn (execLandingContribution p s)
  unfold execLandingContribution
  extract_lets hcp drop
  refine goesOn_ite (goesOn_next s) (goesOn_ite (goesOn_next _) ?_)
  split
  · exact goesOn_next _
  · exact goesOn_ite (goesOn_next _) (goesOn_next _)

end

/-! ## Doorbells (R285, R343) -/

section
variable {s : State}

theorem mem_insertClass (a b : Nat × Ev) (l : List (Nat × Ev)) : b ∈ insertClass a l ↔ b = a ∨ b ∈ l := by
  induction l with
  | nil => exact List.mem_cons
  | cons c l ih =>
    rw [insertClass]
    split
    · exact List.mem_cons
    · rw [List.mem_cons, ih, List.mem_cons, or_left_comm]

theorem mem_foldl_insertClass (b : Nat × Ev) (l acc : List (Nat × Ev)) : b ∈ l.foldl (fun l a => insertClass a l) acc ↔ b ∈ l ∨ b ∈ acc := by
  induction l generalizing acc with
  | nil => simp
  | cons a l ih => rw [List.foldl_cons, ih, mem_insertClass, List.mem_cons, or_assoc, or_left_comm]

theorem tget_mem {α : Type} {t : Tab α} {k : Nat} {v : α} (h : tget t k = some v) : (k, v) ∈ t := by
  induction t with
  | nil => cases h
  | cons e t ih =>
    obtain ⟨i, w⟩ := e
    rw [tget] at h
    split at h
    · next hi =>
      cases h
      exact hi ▸ List.mem_cons_self
    · exact List.mem_cons_of_mem _ (ih h)

/-- Every open record of an enabled queue is examined. -/
theorem lookAll_open {q : Nat} (hen : (s.lqOf q).en = true) {r : Nat × Line} (hr : r ∈ s.openRecords (s.queueView q) q none) :
    Ev.launchRecordStart q r.1 ∈ s.lookAll := by
  have hq : q ∈ s.lq.filterMap fun q => if q.2.lo.getLsbD 0 then some q.1 else none := by
    rw [State.lqOf, tgetD] at hen
    cases hg : tget s.lq q with
    | none =>
      rw [hg] at hen
      cases hen
    | some v =>
      rw [hg] at hen
      exact List.mem_filterMap.2 ⟨(q, v), tget_mem hg, if_pos hen⟩
  have hlook : (s.recordClass q r.1, Ev.launchRecordStart q r.1) ∈ s.queueLooks q := by
    rw [State.queueLooks, hen]
    exact List.mem_flatMap.2 ⟨none, List.mem_cons_self, List.mem_map.2 ⟨r, hr, rfl⟩⟩
  exact List.mem_map.2 ⟨_, (mem_foldl_insertClass _ _ _).2 (.inl (List.mem_flatMap.2 ⟨q, hq, hlook⟩)), rfl⟩

theorem lookAll_idle (h : ∀ q ∈ s.lq, q.2.en = false) : s.lookAll = [] := by
  have hnone : (s.lq.filterMap fun q => if q.2.lo.getLsbD 0 then some q.1 else none) = [] := by
    refine List.filterMap_eq_nil_iff.2 fun q hq => if_neg ?_
    rw [show q.2.lo.getLsbD 0 = false from h q hq]
    exact Bool.false_ne_true
  rw [State.lookAll, hnone]
  rfl

theorem exec_lqdb {v : W64} {i : Instr} (h : WritesWindow s (.lqdb v) 0x200 v i) : exec i s = .next s.ringLq := by
  rcases h with ⟨hoff, rfl⟩ | ⟨byM, hoff, rfl⟩
  · change execLqdb v s = _
    rw [execLqdb, hoff]
    rfl
  · change execRegisterWrite byM 0x200 v s = _
    rw [execRegisterWrite, hoff]
    rfl

/-! ## Clocks and ports (R384, R392) -/

theorem gtcSyncFlit_starts {port : Nat} {v d : W64} (hboot : s.bootStep = 5) (hrun : s.gtcRunning = false) (hvalid : s.fvxsync.getLsbD 4 = true)
    (hport : s.fvxsync.toNat % 16 = port) (hfail : port ∉ s.portFailed) : exec (.gtcSyncFlit port v d) s = .next (s.startGtc (v + d).toNat) := by
  change execGtcSyncFlit port v d s = _
  have hfield : getField s.fvxsync 0 4 = port := by
    rw [getField, pow_zero, Nat.div_one]
    exact hport
  unfold execGtcSyncFlit
  rw [if_pos ⟨hboot, hrun, hvalid, hfield, by simpa using hfail⟩]

theorem completes_gtcSyncFlit (port : Nat) (v d : W64) : Completes (.gtcSyncFlit port v d) :=
  fun s => goesOn_ite (goesOn_next (s.startGtc (v + d).toNat)) (goesOn_next s)

theorem completes_lqdb (v : W64) : Completes (.lqdb v) := fun s => goesOn_ite (goesOn_next s) (goesOn_next s.ringLq)

end

end Sys2Proof.Machine

namespace Sys2Proof
open Sys2Proof.Machine

/-- Settles O51: packets line by line, doorbells queue by queue, and the other link events as the change they make. -/
theorem linkEvents : Obligations.LinkEvents := by
  unfold Obligations.LinkEvents
  refine ⟨completes_landingContribution, completes_gtcSyncFlit, fun port s => ⟨_, rfl⟩, completes_lqdb, fun s => ⟨_, rfl⟩, fun s => ⟨fun port => ?_,
    fun port v d hboot hrun hvalid hport hfail => ?_, fun p h => if_pos h, fun p h2 h => ?_, fun p l htype hpkg hl hhcp hlid hpost hrank => ?_,
    fun v i hi => ⟨fun hidle => ?_, ?_⟩, ?_⟩⟩
  · exact ⟨_, rfl, (mem_sortedInsert ..).2 (.inl rfl), fun p hp => (mem_sortedInsert ..).trans ⟨fun h => h.resolve_left hp, .inr⟩, fun _ => rfl, rfl⟩
  · exact ⟨_, gtcSyncFlit_starts hboot hrun hvalid hport hfail, BitVec.toNat_add v d, rfl, rfl⟩
  · obtain ⟨e, he⟩ := logErr_last s (2 + 4 * p.dheath.toNat / 256) Cause.pktDrop
      (BitVec.ofNat 64 (0 / 64 * 64 % 2 ^ 48 * 2 ^ 16 + 4 * p.dheath.toNat % 2 ^ 11 * 2 ^ 5))
    exact ⟨_, packet_drops h2 h, logStack_only .., _, e, he⟩
  · intro takes
    have htakes : ∀ i, takes i ↔ i < 4 ∧ l.takes p i := fun i => Iff.rfl
    obtain ⟨t, hex, ⟨k, hk, hland⟩, hmem, hm⟩ := packet_lands htype hpkg hl hhcp hlid hpost hrank
    refine ⟨t, k, hex, hmem, hm, hk, hland.cmd, hland.block, hland.written, fun g => (hland.got g).trans (or_congr_right ?_),
      fun i hi hc => hland.todo i hi.1 hi.2 hc, fun hno hle => hland.dups (fun i hi ht => hno i ⟨hi, ht⟩) hle⟩
    exact exists_congr fun i => ⟨fun ⟨hi, ht, hg⟩ => ⟨⟨hi, ht⟩, hg⟩, fun ⟨⟨hi, ht⟩, hg⟩ => ⟨hi, ht, hg⟩⟩
  · rw [exec_lqdb hi, State.ringLq, lookAll_idle hidle]
    rfl
  · exact ⟨_, exec_lqdb hi, rfl, fun a ha => List.mem_append_right _ ha,
      fun q hen r hr => List.mem_append_left _ (List.mem_map.2 ⟨_, lookAll_open hen hr, rfl⟩)⟩
  · exact ⟨_, rfl, rfl, rfl, rfl, rfl, rfl, rfl, rfl, rfl, rfl, rfl, rfl, rfl⟩

end Sys2Proof

end

section
/-! SUPPORT. Heath accesses by physical address (O42, O48, O49): the bytes of lines under a key slot, what a run of bytes written leaves of
them and of memory, and what a read gives. -/
namespace Sys2Proof.Machine

section
variable {s t : State} {key pa len a : Nat}

/-! ## Bytes of lines under a key slot (R361) -/

theorem Memory.readN_congr {m m' : List Host.Cell} {n : Nat} (h : ∀ i, i < n → Memory.read m (a + i) = Memory.read m' (a + i)) :
    Memory.readN m a n = Memory.readN m' a n := by
  induction n generalizing a with
  | zero => rfl
  | succ n ih =>
    have h0 : Memory.read m a = Memory.read m' a := h 0 (Nat.succ_pos n)
    rw [Memory.readN, Memory.readN, h0, ih fun i hi => by rw [Nat.add_assoc, Nat.add_comm 1 i]; exact h (i + 1) (by omega)]

/-- A byte of DRAM as it reads under a key slot. -/
def State.lineByte (s : State) (key a : Nat) : Nat := (s.dramLine a key).toNat / 256 ^ (a % 64) % 256

theorem dramLine_of_line {b : Nat} (h : b / 64 = a / 64) : s.dramLine b key = s.dramLine a key := by
  simp only [State.dramLine, h]

/-- A line that holds plain text under the slot reads as memory. -/
theorem lineByte_plain {k : BitVec 512} (hk : tget s.keys key = some k) (hl : tget s.lineKey (a / 64) = none ∨ tget s.lineKey (a / 64) = some k) :
    s.lineByte key a = (Memory.read s.mem a).toNat := by
  have hline : s.dramLine a key = BitVec.ofNat (8 * 64) (Memory.readN s.mem (64 * (a / 64)) 64) := by
    rcases hl with hl | hl
    · simp only [State.dramLine, hl]
    · simp only [State.dramLine, hl, hk, if_true]
  rw [State.lineByte, hline, Memory.toNat_ofNat_readN, Memory.readN_byte _ (Nat.mod_lt _ (by decide)), Nat.div_add_mod]

/-- A line reads as before where its bytes, its key and the slot are as before. -/
theorem lineByte_congr (hk : t.keys = s.keys) (hl : tget t.lineKey (a / 64) = tget s.lineKey (a / 64))
    (hm : ∀ b, b / 64 = a / 64 → Memory.read t.mem b = Memory.read s.mem b) : t.lineByte key a = s.lineByte key a := by
  have hline : Memory.readN t.mem (64 * (a / 64)) 64 = Memory.readN s.mem (64 * (a / 64)) 64 := Memory.readN_congr fun i hi => hm _ (by omega)
  simp only [State.lineByte, State.dramLine, hk, hl, hline]

/-! ## A line written under a loaded slot -/

theorem dramWrite_lineKey {k : BitVec 512} (hk : tget s.keys key = some k) (d : Line) (mask : BitVec 64) :
    (s.dramWrite pa key d mask).lineKey = tput s.lineKey (pa / 64) k := by simp only [State.dramWrite, hk, Option.getD_some]

theorem dramWrite_read_out (d : Line) (mask : BitVec 64) (h : a / 64 ≠ pa / 64) :
    Memory.read (s.dramWrite pa key d mask).mem a = Memory.read s.mem a :=
  Memory.read_writeN_out _ _ _ _ _ (by omega)

/-- After a line has been written, its bytes read as those selected and the others as before; other lines read as before. -/
theorem dramWrite_lineByte {k : BitVec 512} (hk : tget s.keys key = some k) (d : Line) (mask : BitVec 64) :
    (s.dramWrite pa key d mask).lineByte key a =
      if a / 64 = pa / 64 ∧ mask.getLsbD (a % 64) = true then d.toNat / 256 ^ (a % 64) % 256 else s.lineByte key a := by
  by_cases hl : a / 64 = pa / 64
  · have hin : Memory.read (s.dramWrite pa key d mask).mem (64 * (pa / 64) + a % 64) =
        BitVec.ofNat 8 ((mergeLine (s.dramLine pa key) d mask).toNat / 256 ^ (a % 64)) :=
      Memory.read_writeN_in _ _ _ _ _ (Nat.mod_lt _ (by decide))
    have hplain : (s.dramWrite pa key d mask).lineByte key a = (mergeLine (s.dramLine pa key) d mask).toNat / 256 ^ (a % 64) % 256 := by
      have hkey : tget (s.dramWrite pa key d mask).lineKey (a / 64) = some k := by rw [dramWrite_lineKey hk, hl, tget_tput_self]
      have ha : 64 * (pa / 64) + a % 64 = a := by omega
      rw [lineByte_plain (s := s.dramWrite pa key d mask) hk (.inr hkey), ← ha, hin, BitVec.toNat_ofNat, ha]
    rw [hplain, mergeLine_byte, dramLine_of_line hl.symm]
    by_cases hm : mask.getLsbD (a % 64) = true
    · rw [if_pos hm, if_pos ⟨hl, hm⟩]
    · rw [if_neg hm, if_neg fun h => hm h.2, State.lineByte]
  · have hkey : tget (s.dramWrite pa key d mask).lineKey (a / 64) = tget s.lineKey (a / 64) := by
      rw [dramWrite_lineKey hk]
      exact tget_tput_ne _ _ hl
    have hmem : ∀ b, b / 64 = a / 64 → Memory.read (s.dramWrite pa key d mask).mem b = Memory.read s.mem b :=
      fun b hb => dramWrite_read_out d mask fun e => hl (hb.symm.trans e)
    rw [if_neg fun h => hl h.1]
    exact lineByte_congr rfl hkey hmem

/-! ## Lines that no engine holds (R256, R362) -/

/-- No engine holds a line of the range. -/
def State.rangeFree (s : State) (pa len : Nat) : Prop := ∀ a, pa ≤ a → a < pa + len → s.heldPa a = none

theorem heldPa_of_engines (he : t.engines = s.engines) (pa : Nat) : t.heldPa pa = s.heldPa pa := by
  simp only [State.heldPa, State.eng, he]

theorem rangeFree_of_engines (he : t.engines = s.engines) (h : s.rangeFree pa len) : t.rangeFree pa len :=
  fun a h1 h2 => (heldPa_of_engines he a).trans (h a h1 h2)

theorem rangeFree_of_heldIn (h : s.heldIn pa len = false) : s.rangeFree pa len := by
  intro a h1 h2
  have hnone : ∀ d, d = 0 ∨ d = 1 → ((s.eng d).lines.find? fun l => decide (l.pa = a / 64 * 64)) = none := by
    intro d hd
    refine List.find?_eq_none.2 fun l hl hpa => ?_
    have hat : l.pa = a / 64 * 64 := of_decide_eq_true hpa
    refine Bool.false_ne_true (h.symm.trans (List.any_eq_true.2 ⟨d, by simpa using hd, List.any_eq_true.2 ⟨l, hl, ?_⟩⟩))
    rw [Bool.and_eq_true, decide_eq_true_eq, decide_eq_true_eq]
    omega
  rw [State.heldPa, hnone 0 (.inl rfl), hnone 1 (.inr rfl)]
  rfl

theorem rangeFree_of_no_lines (h0 : (s.eng 0).lines = []) (h1 : (s.eng 1).lines = []) : s.rangeFree pa len := by
  intro a _ _
  rw [State.heldPa, h0, h1]
  rfl

theorem heathWrite_free {k : BitVec 512} (hk : tget s.keys key = some k) (hf : s.heldPa pa = none) (d : Line) (mask : BitVec 64) :
    s.heathWrite pa key d mask = s.dramWrite pa key d mask := by
  unfold State.heathWrite
  rw [hf, if_neg fun h => by rw [hk] at h; cases h.1]

theorem heathLine_free {k : BitVec 512} (hk : tget s.keys key = some k) (hf : s.heldPa pa = none) :
    s.heathLine pa key = (s.dramLine pa key, s.linePoison pa) := by
  unfold State.heathLine
  rw [hf, hk]
  rfl

/-! ## A run of bytes written -/

/-- What bytes written to free lines under a loaded slot change: the bytes selected, as the slot reads them, and no byte of another line. -/
structure RunWritten (s t : State) (key pa len v mask : Nat) : Prop where
  engines : t.engines = s.engines
  keys : t.keys = s.keys
  bytes : ∀ a, t.lineByte key a = if pa ≤ a ∧ a < pa + len ∧ mask.testBit (a - pa) = true then v / 256 ^ (a - pa) % 256 else s.lineByte key a
  lineKey : ∀ k l, tget s.keys key = some k → tget t.lineKey l = tget s.lineKey l ∨ tget t.lineKey l = some k
  out : ∀ a, len = 0 ∨ a / 64 < pa / 64 ∨ (pa + len - 1) / 64 < a / 64 → Memory.read t.mem a = Memory.read s.mem a

theorem RunWritten.refl (s : State) (key pa v mask : Nat) : RunWritten s s key pa 0 v mask where
  engines := rfl
  keys := rfl
  bytes := fun a => by rw [if_neg (by omega)]
  lineKey := fun _ _ _ => .inl rfl
  out := fun _ _ => rfl

theorem heldPa_of_line {b : Nat} (h : b / 64 = a / 64) : s.heldPa b = s.heldPa a := by
  simp only [State.heldPa, h]

/-- A byte of a number's low n bytes, moved up by o bytes. -/
theorem byte_placed (v o : Nat) {n i : Nat} (hi : i < n) : v % 2 ^ (8 * n) * 2 ^ (8 * o) / 256 ^ (o + i) % 256 = v / 256 ^ i % 256 := by
  have h8 (k : Nat) : 256 ^ k = 2 ^ (8 * k) := (Nat.pow_mul 2 8 k).symm
  have hn : 2 ^ (8 * n) = 2 ^ (8 * i) * 2 ^ (8 * (n - i)) := by rw [← Nat.pow_add, ← Nat.mul_add, Nat.add_sub_cancel' hi.le]
  have hdvd : 256 ∣ 2 ^ (8 * (n - i)) := pow_dvd_pow 2 (by omega : 8 ≤ 8 * (n - i))
  rw [h8, h8, Nat.mul_add, Nat.pow_add, Nat.mul_comm, Nat.mul_div_mul_left _ _ (Nat.two_pow_pos _), hn, Nat.mod_mul_right_div_self,
    Nat.mod_mod_of_dvd _ hdvd]

/-- A bit of a mask's low n bits, moved up by o bits. -/
theorem bit_placed (mask o n j : Nat) : (BitVec.ofNat 64 (mask % 2 ^ n * 2 ^ o)).getLsbD j =
    (decide (j < 64) && (decide (o ≤ j) && (decide (j - o < n) && mask.testBit (j - o)))) := by
  rw [BitVec.getLsbD_ofNat, Nat.testBit_mul_two_pow, Nat.testBit_mod_two_pow]

/-- The first line of a run. -/
def State.hPutLine (s : State) (key pa n v mask : Nat) : State :=
  if BitVec.ofNat 64 (mask % 2 ^ n * 2 ^ (pa % 64)) = 0 then s
  else s.heathWrite pa key (BitVec.ofNat 512 (v % 2 ^ (8 * n) * 2 ^ (8 * (pa % 64)))) (BitVec.ofNat 64 (mask % 2 ^ n * 2 ^ (pa % 64)))

theorem hWriteRun_succ {n : Nat} (hn : min len (64 - pa % 64) = n) (hz : len ≠ 0) (fuel v mask : Nat) :
    s.hWriteRun key (fuel + 1) pa len v mask =
      (s.hPutLine key pa n v mask).hWriteRun key fuel (pa + n) (len - n) (v / 2 ^ (8 * n)) (mask / 2 ^ n) := by
  subst hn
  rw [State.hWriteRun, if_neg hz]
  rfl

theorem hPutLine_written {k : BitVec 512} (hk : tget s.keys key = some k) (hf : s.heldPa pa = none) {n : Nat} (hn : pa % 64 + n ≤ 64)
    (v mask : Nat) : RunWritten s (s.hPutLine key pa n v mask) key pa n v mask := by
  have hsel (a : Nat) : (a / 64 = pa / 64 ∧ (BitVec.ofNat 64 (mask % 2 ^ n * 2 ^ (pa % 64))).getLsbD (a % 64) = true) ↔
      pa ≤ a ∧ a < pa + n ∧ mask.testBit (a - pa) = true := by
    simp only [bit_placed, Bool.and_eq_true, decide_eq_true_eq]
    refine ⟨fun ⟨hl, _, ho, hlt, hm⟩ => ?_, fun ⟨h1, h2, hm⟩ => ?_⟩
    · have ha : a % 64 - pa % 64 = a - pa := by omega
      rw [ha] at hm
      exact ⟨by omega, by omega, hm⟩
    · have ha : a % 64 - pa % 64 = a - pa := by omega
      rw [ha]
      exact ⟨by omega, by omega, by omega, by omega, hm⟩
  unfold State.hPutLine
  by_cases hz : BitVec.ofNat 64 (mask % 2 ^ n * 2 ^ (pa % 64)) = 0
  · rw [if_pos hz]
    refine ⟨rfl, rfl, fun a => ?_, fun _ _ _ => .inl rfl, fun _ _ => rfl⟩
    rw [if_neg]
    intro hin
    have h := ((hsel a).2 hin).2
    rw [hz] at h
    simp at h
  · rw [if_neg hz, heathWrite_free hk hf]
    refine ⟨rfl, rfl, fun a => ?_, fun k' l hk' => ?_, fun a ha => ?_⟩
    · rw [dramWrite_lineByte hk]
      by_cases hin : pa ≤ a ∧ a < pa + n ∧ mask.testBit (a - pa) = true
      · have ha : a % 64 = pa % 64 + (a - pa) := by
          have h := ((hsel a).2 hin).1
          omega
        rw [if_pos ((hsel a).2 hin), if_pos hin, toNat_ofNat_placed _ (by omega), ha]
        exact byte_placed v (pa % 64) (by omega)
      · rw [if_neg fun h => hin ((hsel a).1 h), if_neg hin]
    · cases hk.symm.trans hk'
      rw [dramWrite_lineKey hk]
      by_cases hl : l = pa / 64
      · exact .inr (hl ▸ tget_tput_self ..)
      · exact .inl (tget_tput_ne _ _ hl)
    · refine dramWrite_read_out _ _ fun he => ?_
      have hn0 : n ≠ 0 := by
        rintro rfl
        exact hz (by simp [Nat.mod_one])
      omega

theorem RunWritten.append {u : State} {n m v mask : Nat} (h : RunWritten s t key pa n v mask)
    (g : RunWritten t u key (pa + n) m (v / 2 ^ (8 * n)) (mask / 2 ^ n)) : RunWritten s u key pa (n + m) v mask where
  engines := g.engines.trans h.engines
  keys := g.keys.trans h.keys
  bytes := fun a => by
    have h256 : v / 2 ^ (8 * n) = v / 256 ^ n := by rw [Nat.pow_mul]
    rw [g.bytes, h.bytes, h256, Nat.div_div_eq_div_mul, ← Nat.pow_add, Nat.testBit_div_two_pow]
    by_cases hlow : a < pa + n
    · rw [if_neg (by omega)]
      exact if_congr ⟨fun ⟨h1, _, h3⟩ => ⟨h1, by omega, h3⟩, fun ⟨h1, _, h3⟩ => ⟨h1, hlow, h3⟩⟩ rfl rfl
    · rw [if_neg (c := pa ≤ a ∧ a < pa + n ∧ _) (by omega), show a - (pa + n) + n = a - pa by omega, show n + (a - (pa + n)) = a - pa by omega]
      exact if_congr ⟨fun ⟨_, h2, h3⟩ => ⟨by omega, by omega, h3⟩, fun ⟨_, h2, h3⟩ => ⟨by omega, by omega, h3⟩⟩ rfl rfl
  lineKey := fun k l hk => by
    rcases g.lineKey k l (by rw [h.keys]; exact hk) with hg | hg
    · rw [hg]
      exact h.lineKey k l hk
    · exact .inr hg
  out := fun a ha => by
    rw [g.out a (by omega), h.out a (by omega)]

theorem hWriteRun_written {k : BitVec 512} {fuel : Nat} (hk : tget s.keys key = some k) (hf : s.rangeFree pa len)
    (hfuel : len = 0 ∨ (pa % 64 + len + 63) / 64 ≤ fuel) (v mask : Nat) : RunWritten s (s.hWriteRun key fuel pa len v mask) key pa len v mask := by
  induction fuel generalizing s pa len v mask with
  | zero =>
    obtain rfl : len = 0 := by omega
    exact .refl ..
  | succ fuel ih =>
    by_cases hz : len = 0
    · rw [State.hWriteRun, if_pos hz, hz]
      exact .refl ..
    · generalize hn : min len (64 - pa % 64) = n
      rw [hWriteRun_succ hn hz]
      have hline := hPutLine_written (n := n) hk (hf pa le_rfl (by omega)) (by omega) v mask
      have hrest := ih (s := s.hPutLine key pa n v mask) (pa := pa + n) (len := len - n) (by rw [hline.keys]; exact hk)
        (fun a h1 h2 => (heldPa_of_engines hline.engines a).trans (hf a (by omega) (by omega))) (by omega) (v / 2 ^ (8 * n)) (mask / 2 ^ n)
      have h := hline.append hrest
      rwa [show n + (len - n) = len by omega] at h

/-- A write to free lines under a loaded slot. -/
theorem hWrite_written {k : BitVec 512} (hk : tget s.keys key = some k) (hf : s.rangeFree pa len) (v : Nat) :
    RunWritten s (s.hWrite key pa len v) key pa len v (2 ^ len - 1) := hWriteRun_written hk hf (.inr (by omega)) v _

/-- Where the range holds plain text under the slot, the bytes written are memory's, and no other byte of memory changes. -/
theorem RunWritten.writesBytes {v mask : Nat} (h : RunWritten s t key pa len v mask) (hp : plainUnder s key pa len) :
    WritesBytes s t pa len v mask := by
  obtain ⟨k, hk, hl⟩ := hp
  have hplain : ∀ a, pa / 64 ≤ a / 64 → a / 64 ≤ (pa + len - 1) / 64 → len ≠ 0 →
      (t.lineByte key a = (Memory.read t.mem a).toNat ∧ s.lineByte key a = (Memory.read s.mem a).toNat) := by
    intro a h1 h2 hz
    have hin : a / 64 ∈ lineNos pa len := by
      rw [lineNos, if_neg hz]
      exact List.mem_map.2 ⟨a / 64 - pa / 64, List.mem_range.2 (by omega), by omega⟩
    have hs := hl _ hin
    refine ⟨lineByte_plain (by rw [h.keys]; exact hk) ?_, lineByte_plain hk hs⟩
    rcases h.lineKey k (a / 64) hk with ht | ht
    · rw [ht]
      exact hs
    · exact .inr ht
  refine ⟨fun i hi hm => ?_, fun a ha => ?_⟩
  · have hb := h.bytes (pa + i)
    rw [if_pos ⟨by omega, by omega, by rw [Nat.add_sub_cancel_left]; exact hm⟩, Nat.add_sub_cancel_left] at hb
    rw [← (hplain (pa + i) (by omega) (by omega) (by omega)).1, hb, Nat.pow_mul]
  · by_cases hin : len ≠ 0 ∧ pa / 64 ≤ a / 64 ∧ a / 64 ≤ (pa + len - 1) / 64
    · obtain ⟨ht, hs⟩ := hplain a hin.2.1 hin.2.2 hin.1
      have hb := h.bytes a
      rw [if_neg (fun hc => ?_), ht, hs] at hb
      · exact BitVec.eq_of_toNat_eq hb
      · rcases ha with ha | ha | ha
        · omega
        · omega
        · rw [ha] at hc
          cases hc.2.2
    · exact h.out a (by omega)

/-- One byte read from a free line under a loaded slot. -/
theorem hRead_byte {k : BitVec 512} (hk : tget s.keys key = some k) (hf : s.heldPa a = none) : (s.hRead key a 1).1 = s.lineByte key a := by
  have hone : min 1 (64 - a % 64) = 1 := by omega
  change (s.hReadRun key 2 a 1).1 = _
  rw [State.hReadRun, if_neg Nat.one_ne_zero]
  dsimp only
  rw [hone, heathLine_free hk hf, State.hReadRun, if_pos rfl, Nat.pow_mul]
  rfl

end

end Sys2Proof.Machine

end

section
/-! SUPPORT. The management window and the aperture (O48). -/
namespace Sys2Proof.Machine

section
variable {s : State} {v : W64} {q : Nat} {i : Instr}

/-! ## Fields -/

theorem getField_setField_ne {n : Nat} (v : BitVec n) {lo len lo' len' : Nat} (u : Nat) (h : lo' + len' ≤ lo ∨ lo + len ≤ lo') :
    getField (setField v lo len u) lo' len' = getField v lo' len' := by
  refine Nat.eq_of_testBit_eq fun j => ?_
  rw [testBit_getField, testBit_getField]
  by_cases hj : j < len'
  · by_cases hn : lo' + j < n
    · rw [getLsbD_setField _ _ _ _ hn, if_neg (by omega)]
    · rw [BitVec.getLsbD_of_ge _ _ (not_lt.1 hn), BitVec.getLsbD_of_ge _ _ (not_lt.1 hn)]
  · rw [decide_eq_false hj, Bool.false_and, Bool.false_and]

/-- The bits of a 64-bit word from one place on. -/
theorem getField_top (v : W64) (lo : Nat) : getField v lo (64 - lo) = v.toNat / 2 ^ lo := by
  refine Nat.mod_eq_of_lt (Nat.div_lt_of_lt_mul ?_)
  rw [← Nat.pow_add]
  exact v.isLt.trans_le (Nat.pow_le_pow_right (by decide) (by omega))

/-! ## Launch queues (R343, R389) -/

/-- The high half of a queue's registration is held. -/
theorem exec_lqregh (hq : q < 16) (h : WritesWindow s (.lqregh q v) (0x108 + 16 * q) v i) : exec i s = .next (s.holdLq q v) := by
  rcases h with ⟨hoff, rfl⟩ | ⟨byM, hoff, rfl⟩
  · change execLqregh q v s = _
    rw [execLqregh, hoff, if_neg (not_or.2 ⟨not_le.2 hq, Bool.false_ne_true⟩)]
  · change execRegisterWrite byM (0x108 + 16 * q) v s = _
    have hix : (0x108 + 16 * q - 0x100) / 16 = q := by omega
    rw [execRegisterWrite, hoff, if_neg Bool.false_ne_true, if_neg (by omega), if_neg (by omega), if_pos (by omega), hix]

theorem exec_lqregl (hq : q < 16) (h : WritesWindow s (.lqregl q v) (0x100 + 16 * q) v i) : exec i s = .next (s.commitLq q v) := by
  rcases h with ⟨hoff, rfl⟩ | ⟨byM, hoff, rfl⟩
  · change execLqregl q v s = _
    rw [execLqregl, hoff, if_neg (not_or.2 ⟨not_le.2 hq, Bool.false_ne_true⟩)]
  · change execRegisterWrite byM (0x100 + 16 * q) v s = _
    have hix : (0x100 + 16 * q - 0x100) / 16 = q := by omega
    rw [execRegisterWrite, hoff, if_neg Bool.false_ne_true, if_neg (by omega), if_pos (by omega), hix]

theorem lqOf_put (q : Nat) (l : LqReg) (cl : List Claim) : State.lqOf { s with lq := tput s.lq q l, claims := cl } q = l := tgetD_tput_self ..

/-- The registration that a write of the low half waits with. -/
def LqReg.waiting (l : LqReg) (v : W64) : LqReg :=
  { l with pending := some (v &&& 0xFFFFFFFFFFFFFFC3#64, l.heldHi.getD ((l.pending.map (·.2)).getD l.hi)), heldHi := none }

theorem commitLq_idle (hidle : ∀ l ∈ s.launches, l.queue ≠ q) (hen : v.getLsbD 0 = true → 6 ≤ s.bootStep) : s.commitLq q v =
    { s with
      lq := tput s.lq q { lo := v &&& 0xFFFFFFFFFFFFFFC3#64, hi := (s.lqOf q).heldHi.getD (((s.lqOf q).pending.map (·.2)).getD (s.lqOf q).hi) }
      claims := s.claims.filter fun c => c.queue != q } := by
  have hnone : s.launches.any (fun k => k.queue == q) = false := List.any_eq_false.2 fun l hl h => hidle l hl (beq_iff_eq.1 h)
  have hlo : ((v &&& 0xFFFFFFFFFFFFFFC3#64).getLsbD 0 && decide (s.bootStep < 6)) = false := by
    rw [BitVec.getLsbD_and]
    cases hv : v.getLsbD 0 with
    | false => rfl
    | true => rw [decide_eq_false (not_lt.2 (hen hv)), Bool.and_false]
  have hself : State.lqOf { s with lq := tput s.lq q ((s.lqOf q).waiting v) } q = (s.lqOf q).waiting v := tgetD_tput_self ..
  change State.settleLq { s with lq := tput s.lq q ((s.lqOf q).waiting v) } q = _
  unfold State.settleLq
  rw [hself]
  dsimp only [LqReg.waiting]
  rw [hnone, hlo, Bool.or_self, if_neg Bool.false_ne_true, tput_tput]

theorem commitLq_busy {l : Launch} (hl : l ∈ s.launches) (hq : l.queue = q) :
    s.commitLq q v = { s with lq := tput s.lq q ((s.lqOf q).waiting v) } := by
  have hany : s.launches.any (fun k => k.queue == q) = true := List.any_eq_true.2 ⟨l, hl, beq_iff_eq.2 hq⟩
  have hself : State.lqOf { s with lq := tput s.lq q ((s.lqOf q).waiting v) } q = (s.lqOf q).waiting v := tgetD_tput_self ..
  change State.settleLq { s with lq := tput s.lq q ((s.lqOf q).waiting v) } q = _
  unfold State.settleLq
  rw [hself]
  dsimp only [LqReg.waiting]
  rw [hany, Bool.true_or, if_pos rfl]

/-! ## Boot configuration (R388) -/

theorem exec_bootcfg (h : WritesWindow s (.bootcfg v) 0x08 v i) : exec i s = .next (s.setBootcfg v) := by
  rcases h with ⟨hoff, rfl⟩ | ⟨byM, hoff, rfl⟩
  · change execBootcfg v s = _
    rw [execBootcfg, hoff, if_neg Bool.false_ne_true]
  · change execRegisterWrite byM 0x08 v s = _
    rw [execRegisterWrite, hoff]
    rfl

/-- The number of ports that a write of BOOTCFG lists. -/
theorem portCount_field (v : W64) : portCount (getField v 24 8) = ((List.range 8).filter fun i => v.getLsbD (24 + i)).length := by
  refine congrArg List.length (List.filter_congr fun i hi => ?_)
  rw [← Nat.testBit_eq_decide_div_mod_eq, testBit_getField, decide_eq_true (List.mem_range.1 hi), Bool.true_and]

theorem portsOk_field (v : W64) : portsOk (getField v 24 8) = true ↔
    (let ports := ((List.range 8).filter fun i => v.getLsbD (24 + i)).length
     (ports = 1 ∨ ports = 2 ∨ ports = 4 ∨ ports = 8) ∧ (v.getLsbD 24 = false ∨ Config.hostCxl = true)) := by
  have heven : (getField v 24 8 % 2 == 0) = true ↔ v.getLsbD 24 = false := by
    have h : (getField v 24 8).testBit 0 = v.getLsbD 24 := testBit_getField v 24 8 0
    rw [Nat.testBit_zero] at h
    rw [beq_iff_eq, ← h, decide_eq_false_iff_not]
    omega
  rw [portsOk, portCount_field, Bool.and_eq_true, Bool.or_eq_true, heven]
  refine and_congr_left' ?_
  simp

/-- BOOTCFG with the fields that a write before boot step 5 always takes, and PCC up to 512. -/
def bootcfgPages (b v : W64) : W64 :=
  let b0 := setField (setField b 32 1 (getField v 32 1)) 0 10 (getField v 0 10)
  if getField v 10 10 ≤ 512 then setField b0 10 10 (getField v 10 10) else b0

/-- BOOTCFG as a write before boot step 5 leaves it. -/
def bootcfgOf (b v : W64) : W64 :=
  if portsOk (getField v 24 8) then setField (setField (bootcfgPages b v) 24 8 (getField v 24 8)) 20 4 (portCount (getField v 24 8))
  else bootcfgPages b v

theorem setBootcfg_early (h : s.bootStep < 5) : s.setBootcfg v = { s with bootcfg := bootcfgOf s.bootcfg v } := by
  unfold State.setBootcfg
  rw [if_neg (not_le.2 h)]
  rfl

section
variable (b : W64) {lo len : Nat}

/-- PORTS and W apart, nothing hangs on the list of ports. -/
theorem bootcfgOf_outside (h : lo + len ≤ 20 ∨ 32 ≤ lo) : getField (bootcfgOf b v) lo len = getField (bootcfgPages b v) lo len := by
  unfold bootcfgOf
  split
  · rw [getField_setField_ne _ _ (by omega), getField_setField_ne _ _ (by omega)]
  · rfl

theorem bootcfgPages_outside (h : lo + len ≤ 10 ∨ 20 ≤ lo) :
    getField (bootcfgPages b v) lo len = getField (setField (setField b 32 1 (getField v 32 1)) 0 10 (getField v 0 10)) lo len := by
  unfold bootcfgPages
  extract_lets b0
  split
  · exact getField_setField_ne _ _ (by omega)
  · rfl

theorem bootcfgOf_low : getField (bootcfgOf b v) 0 10 = getField v 0 10 := by
  rw [bootcfgOf_outside b (by omega), bootcfgPages_outside b (by omega), getField_setField _ _ _ _ (by decide)]
  exact Nat.mod_mod _ _

theorem bootcfgOf_mode : getField (bootcfgOf b v) 32 1 = getField v 32 1 := by
  rw [bootcfgOf_outside b (by omega), bootcfgPages_outside b (by omega), getField_setField_ne _ _ (by omega), getField_setField _ _ _ _ (by decide)]
  exact Nat.mod_mod _ _

theorem bootcfgOf_top : getField (bootcfgOf b v) 33 31 = getField b 33 31 := by
  rw [bootcfgOf_outside b (by omega), bootcfgPages_outside b (by omega), getField_setField_ne _ _ (by omega), getField_setField_ne _ _ (by omega)]

theorem bootcfgOf_pcc (h : getField v 10 10 ≤ 512) : getField (bootcfgOf b v) 10 10 = getField v 10 10 := by
  rw [bootcfgOf_outside b (by omega), bootcfgPages, if_pos h, getField_setField _ _ _ _ (by decide)]
  exact Nat.mod_mod _ _

theorem bootcfgOf_pcc_past (h : 512 < getField v 10 10) : getField (bootcfgOf b v) 10 10 = getField b 10 10 := by
  rw [bootcfgOf_outside b (by omega), bootcfgPages, if_neg (not_le.2 h), getField_setField_ne _ _ (by omega), getField_setField_ne _ _ (by omega)]

theorem portCount_le (p : Nat) : portCount p ≤ 8 := (List.length_filter_le ..).trans (List.length_range ..).le

theorem bootcfgOf_ports (h : portsOk (getField v 24 8) = true) :
    getField (bootcfgOf b v) 24 8 = getField v 24 8 ∧ getField (bootcfgOf b v) 20 4 = portCount (getField v 24 8) := by
  have hle := portCount_le (getField v 24 8)
  rw [bootcfgOf, if_pos h]
  refine ⟨?_, ?_⟩
  · rw [getField_setField_ne _ _ (by omega), getField_setField _ _ _ _ (by decide)]
    exact Nat.mod_mod _ _
  · rw [getField_setField _ _ _ _ (by decide)]
    exact Nat.mod_eq_of_lt (by omega)

theorem bootcfgOf_ports_kept (h : ¬ portsOk (getField v 24 8) = true) : getField (bootcfgOf b v) 20 12 = getField b 20 12 := by
  rw [bootcfgOf, if_neg h, bootcfgPages_outside b (by omega), getField_setField_ne _ _ (by omega), getField_setField_ne _ _ (by omega)]

end

/-! ## Other registers (R258, R297, R343, R388) -/

theorem clearIrq_bit (j : Nat) : (s.clearIrq v).mcirq.getLsbD j = (s.mcirq.getLsbD j && (!v.getLsbD j || s.mcirqSet.getLsbD j)) := by
  by_cases hj : j < 64
  · simp [State.clearIrq, hj, -BitVec.getLsbD_eq_getElem]
  · rw [BitVec.getLsbD_of_ge _ _ (not_lt.1 hj), BitVec.getLsbD_of_ge s.mcirq _ (not_lt.1 hj), Bool.false_and]

/-- NRCTL of a stack as a write leaves it. -/
def nrctlOf (old v : W64) : W64 :=
  setField (if 6 ≤ getField v 0 4 ∧ getField v 0 4 ≤ 12 then setField old 0 4 (getField v 0 4) else old) 8 1 (getField v 8 1)

theorem nrctl_writes {n : Nat} (hn : n < 8) : ∃ t, exec (.nrctl n v) s = .next t ∧ t = { s with nrctl := t.nrctl, arbiters := t.arbiters } ∧
    t.nrctl = tput s.nrctl n (nrctlOf (s.nrOf n) v) ∧ (v.getLsbD 8 = false → t.arbiters = s.arbiters) := by
  change ∃ t, execNrctl n v s = .next t ∧ _
  unfold execNrctl
  rw [if_neg (not_le.2 hn)]
  cases hv : v.getLsbD 8 with
  | true => exact ⟨_, rfl, rfl, rfl, nofun⟩
  | false => exact ⟨_, rfl, rfl, rfl, fun _ => rfl⟩

theorem nrctlOf_seeded (old : W64) : (nrctlOf old v).getLsbD 8 = v.getLsbD 8 := by
  have h := testBit_getField v 8 1 0
  rw [nrctlOf, getLsbD_setField _ _ _ _ (by decide), if_pos (by decide), Nat.sub_self, h]
  exact Bool.true_and _

theorem nrctlOf_rate (old : W64) : getField (nrctlOf old v) 0 4 = if 6 ≤ getField v 0 4 ∧ getField v 0 4 ≤ 12 then getField v 0 4 else getField old 0 4 := by
  rw [nrctlOf, getField_setField_ne _ _ (by omega)]
  split
  · exact (getField_setField _ _ _ _ (by decide)).trans (Nat.mod_mod _ _)
  · rfl

/-! ## The aperture (R386) -/

theorem aperture_read {off : W64} {n : Nat} {d : BitVec 512} {pa : Nat} (hboot : 4 ≤ s.bootStep) (hpos : 0 < n) (hn : n ≤ 64)
    (hc : s.memClean = true) (hpa : (s.apbase.toNat + off.toNat % 2 ^ 36) % 2 ^ 48 = pa) (hback : s.backedRange pa n = true) :
    exec (.apertureAccess false off n d) s = .next { s with
      hostCpl := if (s.hRead (s.apkey.toNat % 2 ^ 10) pa n).2 = 0 then .success (some (BitVec.ofNat 512 (s.hRead (s.apkey.toNat % 2 ^ 10) pa n).1))
        else .completerAbort } := by
  have hoff : s.windowOff false = false := decide_eq_false (not_lt.2 hboot)
  have hgo : ¬ (n = 0 ∨ (!s.backedRange pa n) = true) := by
    rw [hback]
    exact not_or.2 ⟨hpos.ne', Bool.false_ne_true⟩
  change execApertureAccess false off n d s = _
  simp only [execApertureAccess, hpa, min_eq_left hn, hoff, hgo, Bool.false_eq_true, if_false, dramScrub_of_clean hc, getField_zero]

theorem aperture_write {off : W64} {n : Nat} {d : BitVec 512} {pa : Nat} (hboot : 4 ≤ s.bootStep) (hpos : 0 < n) (hn : n ≤ 64)
    (hpa : (s.apbase.toNat + off.toNat % 2 ^ 36) % 2 ^ 48 = pa) (hback : s.backedRange pa n = true) (hw : s.woundRange pa n = s) :
    exec (.apertureAccess true off n d) s =
      .next { s.hWrite (s.apkey.toNat % 2 ^ 10) pa n (d.toNat % 2 ^ (8 * n)) with hostCpl := .success none } := by
  have hoff : s.windowOff false = false := decide_eq_false (not_lt.2 hboot)
  have hgo : ¬ (n = 0 ∨ (!s.backedRange pa n) = true) := by
    rw [hback]
    exact not_or.2 ⟨hpos.ne', Bool.false_ne_true⟩
  change execApertureAccess true off n d s = _
  simp only [execApertureAccess, hpa, min_eq_left hn, hoff, hgo, Bool.false_eq_true, if_false, if_true, hw, getField_zero]

theorem aperture_unbacked {off : W64} {n : Nat} {d : BitVec 512} {pa : Nat} (w : Bool) (hboot : 4 ≤ s.bootStep) (hn : n ≤ 64)
    (hpa : (s.apbase.toNat + off.toNat % 2 ^ 36) % 2 ^ 48 = pa) (hback : s.backedRange pa n = false) :
    exec (.apertureAccess w off n d) s = .next { s with hostCpl := .unsupportedRequest } := by
  have hoff : s.windowOff false = false := decide_eq_false (not_lt.2 hboot)
  change execApertureAccess w off n d s = _
  simp only [execApertureAccess, hpa, min_eq_left hn, hoff, hback, Bool.not_false, or_true, Bool.false_eq_true, if_false, if_true]

theorem hWrite_lines {t : State} {key pa n v : Nat} {k : BitVec 512} (hk : tget s.keys key = some k) (hf : s.rangeFree pa n)
    (h : RunWritten s t key pa n v (2 ^ n - 1)) {a : Nat} (hlow : pa / 64 ≤ a / 64) (hhigh : a / 64 ≤ (pa + n - 1) / 64) (hpos : 0 < n) :
    (t.hRead key a 1).1 = if pa ≤ a ∧ a < pa + n then v / 2 ^ (8 * (a - pa)) % 256 else (s.hRead key a 1).1 := by
  have hfree : s.heldPa a = none := by
    rw [← hf (max pa (64 * (a / 64))) (by omega) (by omega)]
    exact heldPa_of_line (by omega)
  rw [hRead_byte (by rw [h.keys]; exact hk) ((heldPa_of_engines h.engines a).trans hfree), hRead_byte hk hfree, h.bytes, Nat.pow_mul]
  refine if_congr ⟨fun ⟨h1, h2, _⟩ => ⟨h1, h2⟩, fun ⟨h1, h2⟩ => ⟨h1, h2, ?_⟩⟩ rfl rfl
  rw [Nat.testBit_two_pow_sub_one]
  exact decide_eq_true (by omega)

/-! ## A register for each write (R388) -/

theorem exec_nrseed {byM : Bool} {k : Nat} (hoff : s.windowOff byM = false) (hk : k < 8) :
    exec (.registerWrite byM (0x408 + 16 * k) v) s = .next { s with nrseed := if byM then tput s.nrseed k v else s.nrseed } := by
  have hix : (0x408 + 16 * k - 0x400) / 16 = k := by omega
  change execRegisterWrite byM (0x408 + 16 * k) v s = _
  rw [execRegisterWrite, hoff, if_neg Bool.false_ne_true]
  iterate 10 rw [if_neg (by omega)]
  rw [if_pos (by omega), hix]
  cases byM <;> rfl

theorem exec_tcm {byM : Bool} {a : Nat} (hoff : s.windowOff byM = false) (hal : a % 8 = 0) (ha : a < 2 ^ 18) :
    exec (.registerWrite byM (0x100000 + a) v) s = .next { s with tcm := if byM then Memory.writeN s.tcm a 8 v.toNat else s.tcm } := by
  have hix : 0x100000 + a - 0x100000 = a := by omega
  change execRegisterWrite byM (0x100000 + a) v s = _
  rw [execRegisterWrite, hoff, if_neg Bool.false_ne_true]
  iterate 14 rw [if_neg (by omega)]
  rw [if_pos (by omega), hix]
  cases byM <;> rfl

/-- The registers that hold what is written, with the state that a write leaves; those of the host keep their value when M writes. -/
def State.heldRegisters (s : State) (byM : Bool) (v : W64) : List (Nat × State) :=
  [(0x10, { s with apbase := if byM then s.apbase else v &&& 0xFFF000000000#64 }), (0x18, { s with apkey := if byM then s.apkey else v &&& 0x3FF#64 }),
   (0x210, { s with prq := if byM then s.prq else v }), (0x218, { s with hrq := if byM then s.hrq else v }), (0x300, { s with pwrlim := v.setWidth 16 }),
   (0x308, { s with brlim := v.setWidth 16 }), (0x600, { s with elogsel := v &&& 0xFFFF#64 }), (0x700, { s with fvxaddr := v &&& 0xFFF#64 }),
   (0x708, { s with fvxsync := v &&& 0x1F#64 })]

theorem exec_heldRegister {byM : Bool} (hoff : s.windowOff byM = false) :
    ∀ p ∈ s.heldRegisters byM v, ∃ t, exec (.registerWrite byM p.1 v) s = .next t ∧ t = p.2 := by
  intro p hp
  simp only [State.heldRegisters, List.mem_cons, List.not_mem_nil, or_false] at hp
  refine ⟨p.2, ?_, rfl⟩
  change execRegisterWrite byM p.1 v s = _
  rw [execRegisterWrite, hoff]
  rcases hp with rfl | rfl | rfl | rfl | rfl | rfl | rfl | rfl | rfl <;> cases byM <;> rfl

theorem completes_registerWrite (byM : Bool) (off : Nat) (v : W64) : Completes (.registerWrite byM off v) := by
  intro s
  change Res.goesOn (execRegisterWrite byM off v s)
  unfold execRegisterWrite
  iterate 16 refine goesOn_ite (goesOn_next _) ?_
  exact goesOn_next s

theorem completes_apertureAccess (w : Bool) (off : W64) (n : Nat) (d : BitVec 512) : Completes (.apertureAccess w off n d) := by
  intro s
  change Res.goesOn (execApertureAccess w off n d s)
  unfold execApertureAccess
  exact goesOn_ite (goesOn_next s) (goesOn_ite (goesOn_next _) (goesOn_ite (goesOn_next _) (goesOn_next _)))

end

end Sys2Proof.Machine

namespace Sys2Proof
open Sys2Proof.Machine

theorem windowWrites_complete (m : Bool) (a : Nat) (b : W64) : ∀ i ∈ [Instr.lqregh a b, .lqregl a b, .nrctl a b, .registerWrite m a b], Completes i := by
  intro i hi
  simp only [List.mem_cons, List.not_mem_nil, or_false] at hi
  rcases hi with rfl | rfl | rfl | rfl
  · exact fun s => goesOn_ite (goesOn_next s) (goesOn_next _)
  · exact fun s => goesOn_ite (goesOn_next s) (goesOn_next _)
  · exact fun s => goesOn_ite (goesOn_next s) (goesOn_next _)
  · exact completes_registerWrite m a b

/-- Settles O48: each write of the window as the registers it changes, and the aperture by the bytes of its lines. -/
theorem hostWindow : Obligations.HostWindow := by
  unfold Obligations.HostWindow
  refine ⟨completes_apertureAccess, fun v s => ⟨_, rfl⟩, fun v s => goesOn_ite (goesOn_next s) (goesOn_next _), windowWrites_complete,
    ⟨fun s v q off n w d hboot i hi => ?early, fun s byM v q hq hoff => ?_, fun s v => ⟨⟨_, rfl, rfl, clearIrq_bit⟩, fun n hn => ?nrctl⟩⟩,
    fun s off n d hboot hpos hn hc => ?aperture⟩
  rotate_left
  · have hreg := exec_heldRegister (v := v) hoff
    simp only [State.heldRegisters, List.forall_mem_cons] at hreg
    obtain ⟨hapbase, hapkey, hprq, hhrq, hpwrlim, hbrlim, helogsel, hfvxaddr, hfvxsync, -⟩ := hreg
    refine ⟨fun i hi => ?high, fun hi i hw hhi => ⟨fun hidle hen => ?low, fun l hl hlq => ?busy⟩, fun i hw => ?boot,
      hapbase, hapkey, hprq, hhrq, hpwrlim, hbrlim, helogsel, hfvxaddr, hfvxsync, fun k hk => ?seed, fun a hal ha hwf => ?tcm⟩
    case high =>
      have hself : (s.holdLq q v).lqOf q = { s.lqOf q with heldHi := some (v &&& 0xFFFFFFFFFFFFF000#64) } := tgetD_tput_self ..
      exact ⟨_, exec_lqregh hq hi, rfl, by rw [hself], by rw [hself], by rw [hself], fun p hp => tgetD_tput_ne _ _ _ hp⟩
    case low =>
      subst hhi
      refine ⟨_, (exec_lqregl hq hw).trans (congrArg Host.Outcome.next (commitLq_idle hidle hen)), rfl, ?_, ?_, ?_, ?_, fun p hp => tgetD_tput_ne _ _ _ hp⟩ <;>
        rw [lqOf_put]
    case busy =>
      subst hhi
      refine ⟨_, (exec_lqregl hq hw).trans (congrArg Host.Outcome.next (commitLq_busy hl hlq)), rfl, ?_, ?_, ?_, ?_, fun p hp => tgetD_tput_ne _ _ _ hp⟩ <;>
        rw [lqOf_put] <;> rfl
    case boot =>
      have hex := exec_bootcfg hw
      by_cases hlate : 5 ≤ s.bootStep
      · rw [State.setBootcfg, if_pos hlate] at hex
        exact ⟨s, hex, rfl, fun _ => rfl, fun h => absurd hlate (not_le.2 h)⟩
      · rw [setBootcfg_early (not_le.1 hlate)] at hex
        refine ⟨_, hex, rfl, fun h => absurd h hlate, fun _ => ⟨?_, ?_, ?_, bootcfgOf_pcc _, bootcfgOf_pcc_past _, ?_⟩⟩
        · rw [← getField_zero, ← getField_zero]
          exact bootcfgOf_low _
        · exact (getLsbD_of_getField (bootcfgOf_mode _) Nat.zero_lt_one).trans (testBit_getField v 32 1 0)
        · rw [← getField_top, ← getField_top]
          exact bootcfgOf_top _
        · intro ports
          have hports : portCount (getField v 24 8) = ports := portCount_field v
          split
          · next hok =>
            have h := bootcfgOf_ports s.bootcfg ((portsOk_field v).2 hok)
            rw [hports] at h
            exact h
          · next hbad => exact bootcfgOf_ports_kept s.bootcfg fun h => hbad ((portsOk_field v).1 h)
    case seed =>
      refine ⟨_, exec_nrseed hoff hk, rfl, fun j => ?_⟩
      dsimp only
      cases byM with
      | false => rfl
      | true =>
        by_cases hj : j = k
        · rw [if_pos rfl, if_pos ⟨rfl, hj⟩, hj]
          exact tget_tput_self ..
        · rw [if_pos rfl, if_neg fun h => hj h.2]
          exact tget_tput_ne _ _ hj
    case tcm =>
      refine ⟨_, exec_tcm hoff hal ha, rfl, ?_, fun b hb => ?_, ?_⟩
      · rintro rfl
        rfl
      · cases byM with
        | false => rfl
        | true => exact Memory.read_writeN_out _ _ _ _ _ hb
      · rintro rfl i hi
        rw [Nat.pow_mul]
        exact Memory.read_writeN_in _ _ _ _ _ hi
  case early =>
    have hoff : s.windowOff false = true := decide_eq_true hboot
    simp only [List.mem_cons, List.not_mem_nil, or_false] at hi
    rcases hi with rfl | rfl | rfl | rfl | rfl | rfl | rfl
    · exact if_pos (.inr hoff)
    · exact if_pos (.inr hoff)
    · exact if_pos hoff
    · exact if_pos hoff
    · exact if_pos hoff
    · exact if_pos hoff
    · exact if_pos hboot
  case nrctl =>
    obtain ⟨t, hex, ht, htab, harb⟩ := nrctl_writes (s := s) (v := v) hn
    have hself : t.nrOf n = nrctlOf (s.nrOf n) v := by
      rw [State.nrOf, htab]
      exact tgetD_tput_self ..
    have hrate := nrctlOf_rate (v := v) (s.nrOf n)
    simp only [getField_zero] at hrate
    refine ⟨t, hex, ht, by rw [hself, nrctlOf_seeded], fun h6 h12 => ?_, fun hout => ?_, harb, fun k hk => ?_⟩
    · rw [hself]
      exact hrate.trans (if_pos ⟨h6, h12⟩)
    · rw [hself]
      exact hrate.trans (if_neg fun h => by omega)
    · rw [State.nrOf, htab]
      exact tgetD_tput_ne _ _ _ hk
  case aperture =>
    intro pa key
    refine ⟨fun hback => ⟨⟨_, aperture_read hboot hpos hn hc rfl hback, fun _ => rfl, rfl, rfl, rfl⟩, fun hkey hheld hw hwf => ?_⟩,
      fun hback w => ⟨_, aperture_unbacked w hboot hn rfl hback, rfl⟩⟩
    obtain ⟨k, hk⟩ := Option.isSome_iff_exists.1 hkey
    have hfree := rangeFree_of_heldIn hheld
    have hwr := hWrite_written hk hfree (d.toNat % 2 ^ (8 * n))
    have honly : OnlyLines s (s.hWrite key pa n (d.toNat % 2 ^ (8 * n))) := .hWrite (.refl s)
    refine ⟨_, aperture_write hboot hpos hn rfl hback hw, rfl, honly.meadows, hwr.engines, fun a hlow hhigh => ?_, fun a ha => hwr.out a (.inr ha)⟩
    have hread : ∀ (u : State) (c : HostCpl), ({ u with hostCpl := c } : State).hRead key a 1 = u.hRead key a 1 := fun u c =>
      SameLines.hRead (s := u) rfl key a 1
    rw [hread, hWrite_lines hk hfree hwr hlow hhigh hpos]
    by_cases hin : pa ≤ a ∧ a < pa + n
    · have hb := byte_placed d.toNat 0 (n := n) (i := a - pa) (by omega)
      rw [if_pos hin, if_pos hin, show 2 ^ (8 * (a - pa)) = 256 ^ (a - pa) from Nat.pow_mul ..]
      simpa using hb
    · rw [if_neg hin, if_neg hin]

end Sys2Proof

end

section
/-! SUPPORT. Pages that change hands (O49): what a flip changes of a meadow, an answer's way to its context, and the host's ring. -/
namespace Sys2Proof.Machine

/-! ## Tables whose values are all changed -/

theorem tget_map {α β : Type} (f : α → β) (t : Tab α) (k : Nat) : tget (t.map fun e => (e.1, f e.2)) k = (tget t k).map f := by
  induction t with
  | nil => rfl
  | cons e t ih =>
    obtain ⟨i, v⟩ := e
    by_cases hi : i = k
    · simp [tget, hi]
    · simpa [tget, hi] using ih

section
variable {s t : State} {image e : Nat}

/-! ## Flips (R351, R355, R356) -/

/-- A meadow as a flip of an entry leaves it. -/
def Meadow.flipped (m : Meadow) (g image e : Nat) (f : W64 → W64) (now : Bool) : Meadow :=
  let m1 : Meadow := { m with late := m.late.map fun l => { l with op := l.op.flip image e f } }
  if m.region.isSome && m.imageOf e == image then
    (if now then m1.apply g (.window none [(e, f (tgetD m.window e 0))]) else m1.addLate g 6 (.window none [(e, f (tgetD m.window e 0))]))
  else m1

theorem Meadow.flipped_keeps (m : Meadow) (g image e : Nat) (f : W64 → W64) (now : Bool) :
    (m.flipped g image e f now).ctxs = m.ctxs ∧ (m.flipped g image e f now).region = m.region := by
  unfold Meadow.flipped
  split
  · split <;> exact ⟨rfl, rfl⟩
  · exact ⟨rfl, rfl⟩

/-- A live copy loaded from the image has the new entry at once. -/
theorem Meadow.flipped_window {m : Meadow} (g : Nat) (f : W64 → W64) (hr : m.region.isSome = true) (hi : m.imageOf e = image) :
    tgetD (m.flipped g image e f true).window e 0 = f (tgetD m.window e 0) := by
  unfold Meadow.flipped
  rw [hr, hi, beq_self_eq_true, Bool.and_self, if_pos rfl, if_pos rfl]
  exact tgetD_tputD_self ..

/-- A flip is its write to the image, with the new entry in the meadows. -/
theorem flip_eq (s : State) (image e : Nat) (f : W64 → W64) (now : Bool) : ∃ u, OnlyLines s u ∧
    s.flip image e f now = { u with meadows := s.meadows.map fun m => (m.1, m.2.flipped s.gtc image e f now) } := by
  have h : OnlyLines s ((s.dramScrub (image + 8 * e) 8).hWrite 0 (image + 8 * e) 8 (f ((s.dramScrub (image + 8 * e) 8).imageEntry image e)).toNat) :=
    (OnlyLines.dramScrub (.refl s)).hWrite
  refine ⟨_, h, ?_⟩
  unfold State.flip
  extract_lets s0 s1
  rw [show s1.meadows = s.meadows from h.meadows]
  rfl

theorem flip_mdw (f : W64 → W64) (now : Bool) (c : Nat) (hc : (s.mdw c).region.isSome = true) :
    (s.flip image e f now).mdw c = (s.mdw c).flipped s.gtc image e f now := by
  obtain ⟨u, -, hu⟩ := flip_eq s image e f now
  rw [hu]
  change tgetD (s.meadows.map fun m => (m.1, m.2.flipped s.gtc image e f now)) c {} = _
  rw [State.mdw, tgetD] at hc ⊢
  rw [tget_map (fun m : Meadow => m.flipped s.gtc image e f now), tgetD]
  cases hg : tget s.meadows c with
  | none =>
    rw [hg] at hc
    cases hc
  | some m => rfl

theorem flip_reclaims (f : W64 → W64) (now : Bool) : (s.flip image e f now).reclaims = s.reclaims := by
  obtain ⟨u, h, hu⟩ := flip_eq s image e f now
  rw [hu]
  exact h.reclaims

/-- In a package without latent errors, a flip writes the image's entry under key slot 0. -/
theorem flip_writesBytes (hc : s.memClean = true) (hk : (tget s.keys 0).isSome = true) (hh : s.heldIn (image + 8 * e) 8 = false)
    (hp : plainUnder s 0 (image + 8 * e) 8) (f : W64 → W64) (now : Bool) :
    WritesBytes s (s.flip image e f now) (image + 8 * e) 8 (f (s.imageEntry image e)).toNat (2 ^ 8 - 1) := by
  obtain ⟨k, hk⟩ := Option.isSome_iff_exists.1 hk
  have h := (hWrite_written hk (rangeFree_of_heldIn hh) (f (s.imageEntry image e)).toNat).writesBytes hp
  unfold State.flip
  rw [dramScrub_of_clean hc]
  exact h

/-! ## Entries of the window -/

/-- The entry that the device takes with a frame: its frame, RES and OWN are written. -/
theorem eTaken_bits (frame : W64) (w : W64) {i : Nat} (hi : i < 64) : (eTaken frame.toNat w).getLsbD i =
    if 21 ≤ i ∧ i < 48 then frame.getLsbD i else if 62 ≤ i then true else w.getLsbD i := by
  have hframe (j : Nat) : (frame.toNat / 2 ^ 21).testBit j = frame.getLsbD (21 + j) := by
    rw [Nat.testBit_div_two_pow, BitVec.getLsbD, Nat.add_comm]
  rw [eTaken, getLsbD_setField _ _ _ _ hi, getLsbD_setField _ _ _ _ hi]
  by_cases htop : 62 ≤ i
  · rw [if_pos (by omega), if_neg (by omega), if_pos htop, show 3 = 2 ^ 2 - 1 from rfl, Nat.testBit_two_pow_sub_one]
    exact decide_eq_true (by omega)
  · rw [if_neg (by omega)]
    by_cases hin : 21 ≤ i ∧ i < 48
    · rw [if_pos (by omega), if_pos hin, hframe, show 21 + (i - 21) = i by omega]
    · rw [if_neg (by omega), if_neg hin, if_neg htop]

/-! ## Answers reach their contexts (R211, R357) -/

theorem prqPush_reclaims (v : BitVec 256) : (s.prqPush v).reclaims = s.reclaims := by
  unfold State.prqPush State.prqWrite
  split
  · rfl
  · dsimp only
    split <;> rfl

/-- While no reclaim waits, nothing of the meadows, the keys or memory changes when a page is settled. -/
theorem settlePage_frame (hr : s.reclaims = []) (image e : Nat) : SameCore s (s.settlePage image e) := by
  unfold State.settlePage
  simp only [hr, List.any_nil, Bool.false_eq_true, if_false]
  split
  · exact .refl s
  · split
    · exact .refl s
    · refine SameCore.trans ?_ (prqPush_frame ..).1
      exact ⟨rfl, rfl, rfl, rfl, rfl⟩

/-- What settling a page does to the contexts' stream engines: nothing. -/
theorem settlePage_ctx (image e c x : Nat) (hc : (s.mdw c).region.isSome = true) : (s.settlePage image e).ctx c x = s.ctx c x := by
  unfold State.settlePage
  split
  · rfl
  · split
    · rfl
    · split
      · extract_lets s1
        have h : s1.mdw c = (s.mdw c).flipped s.gtc image e eGiven false := flip_mdw eGiven false c hc
        change (s1.mdw c).ctx x = (s.mdw c).ctx x
        rw [h, Meadow.ctx, (Meadow.flipped_keeps ..).1, Meadow.ctx]
      · split
        · rfl
        · extract_lets n s1
          exact ((prqPush_frame s1 _).1.ctx c x).trans rfl

/-- Only what the contexts have received differs: memory and the copies of the windows stand, as does what waits for a page. -/
def SameWindows (s t : State) : Prop :=
  t.mem = s.mem ∧ t.reclaims = s.reclaims ∧ ∀ c, (t.mdw c).window = (s.mdw c).window

theorem SameWindows.trans {u : State} (h : SameWindows s t) (g : SameWindows t u) : SameWindows s u :=
  ⟨g.1.trans h.1, g.2.1.trans h.2.1, fun c => (g.2.2 c).trans (h.2.2 c)⟩

theorem deliver_windows (s : State) (a : Asker) (status value : Nat) : SameWindows s (s.deliver a status value) := by
  unfold State.deliver
  extract_lets put mine
  split
  · refine ⟨rfl, rfl, fun c => ?_⟩
    by_cases hc : c = a.coord
    · rw [hc, State.modCtx_mdw]
      rfl
    · exact congrArg Meadow.window (State.modMdw_mdw_ne _ _ hc)
  · split <;> exact ⟨rfl, rfl, fun _ => rfl⟩

theorem answerAll_windows (hr : s.reclaims = []) (q : PageReq) (status value : Nat) :
    (s.answerAll q status value).mem = s.mem ∧ ∀ c, ((s.answerAll q status value).mdw c).window = (s.mdw c).window := by
  unfold State.answerAll
  extract_lets s1
  have h (l : List Asker) (u : State) : SameWindows u (l.foldl (fun s a => s.deliver a status value) u) := by
    induction l generalizing u with
    | nil => exact ⟨rfl, rfl, fun _ => rfl⟩
    | cons a l ih => exact (deliver_windows u a status value).trans (ih _)
  obtain ⟨hm, hrec, hw⟩ := h q.askers s1
  have hs := settlePage_frame (hrec.trans hr) q.image q.entry
  exact ⟨hs.2.2.1.trans hm, fun c => by rw [hs.mdw]; exact hw c⟩

/-- The one requester of a page, whose generation is current, has its result. -/
theorem answerAll_result {q : PageReq} {a : Asker} (hq : q.askers = [a]) (hg : (s.ctx a.coord a.ctx).gen = a.gen)
    (hr : (s.mdw a.coord).region.isSome = true) (status value : Nat) :
    ((s.answerAll q status value).ctx a.coord a.ctx).se.results = (s.ctx a.coord a.ctx).se.results ++ [seResult a.tagc status value] := by
  unfold State.answerAll
  extract_lets s1
  rw [hq]
  change ((((s1.deliver a status value)).settlePage q.image q.entry).ctx a.coord a.ctx).se.results = _
  have hd : s1.deliver a status value = s1.modCtx a.coord a.ctx fun k => k.pageAnswer a.tagc a.notify status value := if_pos ⟨hg, hr⟩
  have hr1 : ((s1.deliver a status value).mdw a.coord).region.isSome = true := by
    rw [hd, State.modCtx_mdw]
    exact hr
  rw [settlePage_ctx _ _ _ _ hr1, hd, State.modCtx_ctx]
  exact (Ctx.pageAnswer_se ..).2.1

/-! ## The host's answers and reclaims (R355-R358) -/

theorem hostAnswer_unknown {seq : Nat} (h : ∀ q ∈ s.pageReqs, q.out = true → q.seq ≠ seq) (st fr : Nat) : s.hostAnswer seq st fr = s := by
  unfold State.hostAnswer
  rw [List.find?_eq_none.2 fun q hq => by simpa using h q hq]

theorem hostAnswer_failed {q : PageReq} (h : s.pageReqs.find? (fun p => p.out && p.seq == q.seq) = some q) {st : Nat} (hst : st ≠ 0) (fr : Nat) :
    s.hostAnswer q.seq st fr = s.answerAll q 6 st := by
  unfold State.hostAnswer
  rw [h]
  exact if_pos hst

theorem hostAnswer_taken {q : PageReq} (h : s.pageReqs.find? (fun p => p.out && p.seq == q.seq) = some q) {fr : Nat}
    (hp : s.pinnedEntry q.image q.entry = false) (hf : s.frameOk q fr = true) :
    s.hostAnswer q.seq 0 fr = (s.flip q.image q.entry (eTaken fr) true).answerAll q 0 0 := by
  unfold State.hostAnswer
  rw [h]
  dsimp only
  rw [if_neg (by simp), hp, hf]
  rfl

theorem hostReclaim_started (hp : s.pinnedEntry image e = false) (he : e < 6144) (hq : ∀ q ∈ s.pageReqs, q.out = false) :
    ∃ r, (s.hostReclaim image e).reclaims = s.reclaims ++ [r] ∧ r.image = image ∧ r.entry = e ∧ r.started = true := by
  unfold State.hostReclaim
  rw [if_neg (fun h => h.elim (by simp [hp]) (by omega))]
  have hw : (s.pageReqs.any fun q => q.image = image ∧ q.entry = e ∧ q.out) = false :=
    List.any_eq_false.2 fun q hm => by simp [hq q hm]
  dsimp only
  rw [hw]
  exact ⟨_, congrArg (· ++ _) (flip_reclaims ..), rfl, rfl, rfl⟩

/-- No reclaim is added when a page is settled. -/
theorem settlePage_ids (image e : Nat) : ∀ q ∈ (s.settlePage image e).reclaims, ∃ r ∈ s.reclaims, r.id = q.id := by
  intro q
  unfold State.settlePage
  split
  · exact fun h => ⟨q, h, rfl⟩
  · split
    · exact fun h => ⟨q, h, rfl⟩
    · split
      · extract_lets s1
        intro h
        have h' := List.mem_map.1 h
        obtain ⟨r, hr, rfl⟩ := h'
        rw [show s1.reclaims = s.reclaims from flip_reclaims ..] at hr
        refine ⟨r, hr, ?_⟩
        split <;> rfl
      · split
        · exact fun h => ⟨q, h, rfl⟩
        · rw [prqPush_reclaims]
          exact fun h => ⟨q, h, rfl⟩

theorem reclaimComplete_over {r : Reclaim} (h : s.reclaims.find? (fun q => decide (q.id = r.id)) = some r) (hs : r.started = true)
    (hg : r.since < s.gtc) (hq : s.pageQuiet r.image r.entry r.ord = true) :
    ∃ t, execReclaimComplete r.id s = .next t ∧ ∀ q ∈ t.reclaims, q.id ≠ r.id := by
  unfold execReclaimComplete
  rw [h]
  dsimp only
  rw [if_neg (by rw [hs, hq, decide_eq_false (by omega)]; decide)]
  refine ⟨_, rfl, fun q hm => ?_⟩
  obtain ⟨r', hr', hid⟩ := settlePage_ids _ _ q hm
  rw [prqPush_reclaims] at hr'
  have hne := (List.mem_filter.1 hr').2
  rw [hid] at hne
  simpa using hne

theorem pageRequestTimeout_late {q : PageReq} (h : s.pageReqs.find? (fun p => p.out && p.seq == q.seq) = some q) (hg : q.since + 2 ^ 31 ≤ s.gtc) :
    execPageRequestTimeout q.seq s = .next (s.answerAll q 6 0xFFFF0002) := by
  unfold execPageRequestTimeout
  rw [h]
  exact if_neg (by omega)

/-! ## The host's ring (R390) -/

/-- An entry of the ring is the answer or the reclaim it names. -/
theorem hrqEntry_names (s : State) (a : Nat) :
    let rd (off n : Nat) : Nat := Memory.readN s.host (a + off) n
    (rd 0 1 = 1 → execHrqAnswer (rd 4 4) (BitVec.ofNat 64 (rd 8 8)) (BitVec.ofNat 64 (rd 16 8)) s = .next (s.hrqEntry a)) ∧
      (rd 0 1 = 2 → execHrqReclaim (BitVec.ofNat 64 (rd 16 8)) (rd 24 8 % 2 ^ 13) s = .next (s.hrqEntry a)) ∧
      (rd 0 1 ≠ 1 → rd 0 1 ≠ 2 → s.hrqEntry a = s) := by
  intro rd
  have hrd (off : Nat) : (BitVec.ofNat 64 (rd off 8)).toNat = rd off 8 := Memory.toNat_ofNat_readN s.host (a + off) 8
  refine ⟨fun h => ?_, fun h => ?_, fun h1 h2 => ?_⟩
  · unfold execHrqAnswer State.hrqEntry
    rw [hrd, hrd]
    change _ = Host.Outcome.next (match rd 0 1 with | 1 => _ | 2 => _ | _ => _)
    rw [h]
    rfl
  · unfold execHrqReclaim State.hrqEntry
    rw [hrd]
    change _ = Host.Outcome.next (match rd 0 1 with | 1 => _ | 2 => _ | _ => _)
    rw [h]
    rfl
  · change (match rd 0 1 with | 1 => _ | 2 => _ | _ => s) = s
    split
    · exact absurd ‹_› h1
    · exact absurd ‹_› h2
    · rfl

/-- The state after the first entries of the ring. -/
def State.hrqAfter (s : State) (addr : Nat → Nat) (i : Nat) : State := (List.range i).foldl (fun s i => s.hrqEntry (addr i)) s

theorem hrqAfter_succ (s : State) (addr : Nat → Nat) (i : Nat) : s.hrqAfter addr (i + 1) = (s.hrqAfter addr i).hrqEntry (addr i) := by
  unfold State.hrqAfter
  rw [List.range_succ, List.foldl_append]
  rfl

end

end Sys2Proof.Machine

namespace Sys2Proof
open Sys2Proof.Machine

/-- Settles O49: an answer to a request flips its page and is delivered to the askers; a reclaim flips its page at once, and is over when
the accesses before it are. -/
theorem pageEvents : Obligations.PageEvents := by
  unfold Obligations.PageEvents
  refine ⟨fun a s => ?_, fun a b c s => goesOn_next _, fun a b s => goesOn_next _, fun a i hi s => ?_, fun s v hb => ?_, fun s => ⟨?_, ?_, ?_, ?_, ?_, ?_⟩⟩
  · exact goesOn_ite (goesOn_next _) (goesOn_ite (goesOn_next _) (goesOn_next _))
  · rcases List.mem_cons.1 hi with rfl | hi
    · change Res.goesOn (execReclaimComplete a s)
      unfold execReclaimComplete
      split
      · exact goesOn_next _
      · exact goesOn_ite (goesOn_next _) (goesOn_next _)
    · rw [List.mem_singleton.1 hi]
      change Res.goesOn (execPageRequestTimeout a s)
      unfold execPageRequestTimeout
      split
      · exact goesOn_next _
      · exact goesOn_ite (goesOn_next _) (goesOn_next _)
  · intro r s1
    refine ⟨fun hd => ?_, fun h0 hd => ?_⟩
    · change execHrqdb v s = _
      rw [execHrqdb, if_neg (by omega)]
      exact if_pos hd
    · refine ⟨_, s1.hrqAfter fun i => r.addr (r.head + i), ?_, rfl, fun i hi => ?_, rfl⟩
      · change execHrqdb v s = _
        rw [execHrqdb, if_neg (by omega)]
        exact if_neg (by change ¬(r.depth = 0 ∨ r.depth < r.occ); omega)
      · rw [hrqAfter_succ]
        exact hrqEntry_names _ _
  · exact fun seq st fr h => congrArg Host.Outcome.next (hostAnswer_unknown h ..)
  · intro q frame hq hp hf hr hm taken a
    refine ⟨_, congrArg Host.Outcome.next (hostAnswer_taken hq hp hf), fun c hc hi => ?_, fun a ha hg hreg _ => ?_, fun hk hh _ hpl => ?_⟩
    · rw [(answerAll_windows ((flip_reclaims ..).trans hr) ..).2, flip_mdw _ _ _ hc, Meadow.flipped_window _ _ hc hi]
      exact fun i hi => eTaken_bits _ _ hi
    · have hflip : (s.flip q.image q.entry (eTaken frame.toNat) true).mdw a.coord = _ := flip_mdw _ _ _ hreg
      have hctx : (s.flip q.image q.entry (eTaken frame.toNat) true).ctx a.coord a.ctx = s.ctx a.coord a.ctx := by
        rw [State.ctx, hflip, Meadow.ctx, (Meadow.flipped_keeps ..).1]
        rfl
      rw [answerAll_result ha (by rw [hctx]; exact hg) (by rw [hflip, (Meadow.flipped_keeps ..).2]; exact hreg), hctx]
    · refine ⟨_, fun i hi => eTaken_bits frame (s.imageEntry q.image q.entry) hi, ?_⟩
      have h := flip_writesBytes hm hk hh hpl (eTaken frame.toNat) true
      have hmem := (answerAll_windows ((flip_reclaims (s := s) (image := q.image) (e := q.entry) (eTaken frame.toNat) true).trans hr) q 0 0).1
      exact ⟨fun i hi hb => by rw [hmem]; exact h.1 i hi hb, fun a ha => by rw [hmem]; exact h.2 a ha⟩
  · intro q st fr hq hst hr
    refine ⟨_, congrArg Host.Outcome.next (hostAnswer_failed hq (fun h => hst (BitVec.eq_of_toNat_eq h)) _), fun a => ?_, fun a ha hg hreg _ => ?_⟩
    · rw [(answerAll_windows hr ..).1]
    · exact answerAll_result ha hg hreg ..
  · exact fun q hq hg => ⟨_, pageRequestTimeout_late hq hg, fun a ha hgen hreg _ => answerAll_result ha hgen hreg ..⟩
  · intro image e hp he hq
    obtain ⟨r, h⟩ := hostReclaim_started hp he hq
    exact ⟨_, r, rfl, h⟩
  · exact fun r h hs hg hq => reclaimComplete_over h hs hg hq

end Sys2Proof

end

section
/-! SUPPORT. The alarm and its sources, debug, firmware and reports, and a parity failure of an instruction buffer (O50). -/
namespace Sys2Proof.Machine

section
variable {s t : State} {v : W64}

/-! ## The alarm (R366, R367) -/

/-- What an alarm of a source at a level leaves, and what it does: the level rises, and the source is recorded. -/
structure Alarmed (s t : State) (src lvl : Nat) : Prop where
  level : t.level = max s.level lvl
  sources : t.alarmSrc = s.alarmSrc ||| BitVec.ofNat 4 (2 ^ src)
  mem : t.mem = s.mem
  meadows : t.meadows = s.meadows
  debug : t.debugOpen = s.debugOpen
  firmware : t.firmware = s.firmware
  report : t.report = s.report
  leaf : t.leaf = s.leaf

theorem raiseLevel_alarmed (s : State) (src lvl : Nat) : Alarmed s (s.raiseLevel src lvl) src lvl := by
  unfold State.raiseLevel
  extract_lets s1 s2 s3
  have h2 : Alarmed s s2 src s.level := by
    refine if h : s.level < lvl ∨ lvl = 1 then ?_ else ?_
    · rw [show s2 = _ from if_pos h]
      exact ⟨(max_self _).symm, rfl, rfl, rfl, rfl, rfl, rfl, rfl⟩
    · rw [show s2 = _ from if_neg h]
      exact ⟨(max_self _).symm, rfl, rfl, rfl, rfl, rfl, rfl, rfl⟩
  split
  case isTrue hle => exact { h2 with level := h2.level.trans (by rw [max_self, max_eq_left hle]) }
  case isFalse hlt =>
    have hmax : lvl = max s.level lvl := (max_eq_right (by omega)).symm
    dsimp only [State.freshIx]
    split <;> split <;> exact ⟨hmax, h2.sources, h2.mem, h2.meadows, h2.debug, h2.firmware, h2.report, h2.leaf⟩

theorem alarmed_source {src lvl : Nat} (h : Alarmed s t src lvl) {i : Nat} (hi : i < 4) :
    t.alarmSrc.getLsbD i = (s.alarmSrc.getLsbD i || decide (i = src)) := by
  rw [h.sources, BitVec.getLsbD_or, BitVec.getLsbD_ofNat, decide_eq_true hi, Bool.true_and, Nat.testBit_two_pow]
  simp only [eq_comm]

/-- The bit and the level of each source: SECCFG's field, and level 1 for an admitted certificate. -/
theorem alarm_alarmed (s : State) : ∀ a ∈ ([(.tamper, 0, s.seccfg.toNat % 4), (.debug, 1, s.seccfg.toNat / 4 % 4),
      (.attest, 2, s.seccfg.toNat / 16 % 4), (.firmware, 3, s.seccfg.toNat / 64 % 4), (.debugAdmitted, 1, 1)] : List (AlarmSource × Nat × Nat)),
    Alarmed s (s.alarm a.1) a.2.1 a.2.2 := by
  intro a ha
  have h : s.sourceLevel a.1 = a.2 := by
    simp only [List.mem_cons, List.not_mem_nil, or_false] at ha
    rcases ha with rfl | rfl | rfl | rfl | rfl <;> simp [State.sourceLevel, getField]
  have hr := raiseLevel_alarmed s (s.sourceLevel a.1).1 (s.sourceLevel a.1).2
  rw [h] at hr
  rw [State.alarm, h]
  exact hr

/-! ## SECSTAT and SECCFG (R368) -/

theorem execSecstat_effect (s : State) (v : W64) : ∃ t, execSecstat v s = .next t ∧ memSame s t ∧
    (∀ i, i < 4 → t.alarmSrc.getLsbD i = (s.alarmSrc.getLsbD i && !v.getLsbD (8 + i))) ∧
    (t.level = if v.getLsbD 2 = true ∧ s.level = 1 ∧ s.alarmAt ≠ some s.ticks then 0 else s.level) := by
  have hsrc {i : Nat} (hi : i < 4) : (s.alarmSrc &&& ~~~(v.extractLsb' 8 4)).getLsbD i = (s.alarmSrc.getLsbD i && !v.getLsbD (8 + i)) := by
    rw [BitVec.getLsbD_and, BitVec.getLsbD_not, BitVec.getLsbD_extractLsb', decide_eq_true hi, Bool.true_and, Bool.true_and]
  unfold execSecstat
  extract_lets s1
  by_cases h : v.getLsbD 2 = true ∧ s.level = 1 ∧ s.alarmAt ≠ some s.ticks
  · rw [if_pos h, if_pos (by simpa [and_assoc] using h)]
    exact ⟨_, rfl, fun _ => rfl, fun i hi => hsrc hi, rfl⟩
  · rw [if_neg h, if_neg (by simpa [and_assoc] using h)]
    exact ⟨_, rfl, fun _ => rfl, fun i hi => hsrc hi, rfl⟩

/-- SECCFG's field at a place as a write leaves it: a level of 0 keeps it. -/
def seccfgPut (v c : W64) (lo : Nat) : W64 := if getField v lo 2 = 0 then c else setField c lo 2 (getField v lo 2)

theorem getField_seccfgPut (v c : W64) {lo : Nat} (h : lo + 2 ≤ 64) :
    getField (seccfgPut v c lo) lo 2 = if getField v lo 2 = 0 then getField c lo 2 else getField v lo 2 := by
  unfold seccfgPut
  split
  · rfl
  · rw [getField_setField _ _ _ _ h]
    exact Nat.mod_mod _ _

theorem getField_seccfgPut_ne (v c : W64) {lo lo' : Nat} (h : lo' + 2 ≤ lo ∨ lo + 2 ≤ lo') :
    getField (seccfgPut v c lo) lo' 2 = getField c lo' 2 := by
  unfold seccfgPut
  split
  · rfl
  · exact getField_setField_ne _ _ h

/-- SECCFG as a write leaves it, while it is not locked. -/
def seccfgOf (v c : W64) : W64 := setField ([0, 2, 4, 6].foldl (seccfgPut v) c) 8 1 (getField v 8 1)

theorem seccfgOf_lock (v c : W64) : (seccfgOf v c).getLsbD 8 = v.getLsbD 8 := by
  rw [seccfgOf, getLsbD_setField _ _ _ _ (by decide), if_pos (by decide), testBit_getField, decide_eq_true (by decide), Bool.true_and]

theorem seccfgOf_level (v c : W64) {i : Nat} (hi : i < 4) : getField (seccfgOf v c) (2 * i) 2 =
    if getField v (2 * i) 2 = 0 then getField c (2 * i) 2 else getField v (2 * i) 2 := by
  rw [seccfgOf, getField_setField_ne _ _ (by omega)]
  change getField (seccfgPut v (seccfgPut v (seccfgPut v (seccfgPut v c 0) 2) 4) 6) (2 * i) 2 = _
  match i with
  | 0 => rw [getField_seccfgPut_ne _ _ (by omega), getField_seccfgPut_ne _ _ (by omega), getField_seccfgPut_ne _ _ (by omega), getField_seccfgPut _ _ (by omega)]
  | 1 => rw [getField_seccfgPut_ne _ _ (by omega), getField_seccfgPut_ne _ _ (by omega), getField_seccfgPut _ _ (by omega), getField_seccfgPut_ne _ _ (by omega)]
  | 2 => rw [getField_seccfgPut_ne _ _ (by omega), getField_seccfgPut _ _ (by omega), getField_seccfgPut_ne _ _ (by omega), getField_seccfgPut_ne _ _ (by omega)]
  | 3 => rw [getField_seccfgPut _ _ (by omega), getField_seccfgPut_ne _ _ (by omega), getField_seccfgPut_ne _ _ (by omega), getField_seccfgPut_ne _ _ (by omega)]

theorem execSeccfg_locked (h : s.seccfg.getLsbD 8 = true) : execSeccfg v s = .next s := if_pos h

theorem execSeccfg_open (h : s.seccfg.getLsbD 8 = false) : execSeccfg v s = .next { s with seccfg := seccfgOf v s.seccfg } :=
  if_neg (by rw [h]; exact Bool.false_ne_true)

/-! ## Parity failures of an instruction buffer (R376) -/

/-- An entry makes a log another one. -/
theorem logErr_logs_ne (s : State) (log cause : Nat) (d : W64) : (s.logErr log cause d).logs ≠ s.logs := by
  unfold State.logErr
  extract_lets l e l'
  intro h
  have hl : l' = l := by
    have h' := congrArg (fun t => tgetD t log {}) h
    simpa only [tgetD_tput_self] using h'
  by_cases hn : l.entries.length < 256
  · have := congrArg (fun l => l.entries.length) hl
    rw [show l' = _ from if_pos hn] at this
    simp at this
  · have := congrArg ErrLog.lost hl
    rw [show l' = _ from if_neg hn] at this
    simp at this

theorem Ctx.setNext_nextOf (k : Ctx) (n : Nat) (st : StreamId) : (k.setNext n st).nextOf st = n := by cases st <;> rfl
theorem Ctx.setNext_pcOf (k : Ctx) (n : Nat) (st : StreamId) : (k.setNext n st).pcOf st = k.pcOf st := by cases st <;> rfl
theorem Ctx.setNext_regs (k : Ctx) (n : Nat) (st : StreamId) : (k.setNext n st).sc.regs = k.sc.regs := by cases st <;> rfl

/-- A first failure delays the stream's next issue by a cycle, and is logged. -/
theorem execIbufParity_first {c x : Nat} (st : StreamId) (hp : (s.ctx c x).parity = []) (hr : (s.mdw c).relmask.getLsbD 3 = false) :
    ∃ t, execIbufParity c x st s = .next t ∧ OnlyCtx s t c x ∧
      (t.ctx c x).nextOf st = max ((s.ctx c x).nextOf st) ((s.mdw c).mtc + 1) ∧ (t.ctx c x).pcOf st = (s.ctx c x).pcOf st ∧
      (t.ctx c x).sc.regs = (s.ctx c x).sc.regs ∧ t.logs ≠ s.logs := by
  unfold execIbufParity
  extract_lets m k code a later word n s1
  have hn : n = 1 := by
    have : tget k.parity code = none := by rw [show k.parity = [] from hp]; rfl
    simp only [n, this]
  rw [if_neg (by omega), if_neg (by rw [show m.relmask.getLsbD 3 = false from hr]; exact Bool.false_ne_true)]
  have honly : OnlyCtx s (s.logDie Cause.ibufParity a c x) c x := onlyCtx_of_eq c x rfl rfl rfl
  refine ⟨_, rfl, onlyCtx_trans honly (onlyCtx_modCtx ..), ?_, ?_, ?_, logErr_logs_ne s _ _ _⟩
  · rw [State.modCtx_ctx, Ctx.setNext_nextOf]
    rfl
  · rw [State.modCtx_ctx, Ctx.setNext_pcOf]
    cases st <;> rfl
  · rw [State.modCtx_ctx, Ctx.setNext_regs]
    rfl

end

end Sys2Proof.Machine

namespace Sys2Proof
open Sys2Proof.Machine

/-- Settles O50: an alarm takes the greater of two levels, and the other operations are the admission, the image and the report they name. -/
theorem securityEvents : Obligations.SecurityEvents := by
  unfold Obligations.SecurityEvents
  refine ⟨fun a b c s => ?_, fun a i hi s => ?_, fun a s => goesOn_next _, fun a i hi s => ?_, fun a s => ?_,
    fun s v => ⟨fun a ha => ?_, execSecstat_effect s v, ?_⟩, fun s => ⟨fun n => ?_, fun n => ?_, fun nonce => ⟨fun h => ?_, fun q hq hl => ?_, fun q hq hl => ?_⟩,
      fun c x st hp hr => execIbufParity_first st hp hr⟩⟩
  · change Res.goesOn (execIbufParity a b c s)
    unfold execIbufParity
    exact goesOn_ite (goesOn_next _) (goesOn_ite (goesOn_next _) (goesOn_next _))
  · rcases List.mem_cons.1 hi with rfl | hi
    · change Res.goesOn (execSecstat a s)
      unfold execSecstat
      exact goesOn_ite (goesOn_next _) (goesOn_next _)
    · rw [List.mem_singleton.1 hi]
      change Res.goesOn (execSeccfg a s)
      unfold execSeccfg
      exact goesOn_ite (goesOn_next _) (goesOn_next _)
  · rcases List.mem_cons.1 hi with rfl | hi
    · change Res.goesOn (execDebugAccess a s)
      unfold execDebugAccess
      exact goesOn_ite (goesOn_next _) (goesOn_ite (goesOn_next _) (goesOn_next _))
    · rw [List.mem_singleton.1 hi]
      change Res.goesOn (execFirmwareUpdate a s)
      unfold execFirmwareUpdate
      exact goesOn_ite (goesOn_next _) (goesOn_next _)
  · change Res.goesOn (execAttestationReport a s)
    unfold execAttestationReport
    split
    · exact goesOn_next _
    · exact goesOn_ite (goesOn_next _) (goesOn_next _)
  · have h := alarm_alarmed s a ha
    exact ⟨_, rfl, h.level, fun a => by rw [h.mem], h.meadows, fun i hi => alarmed_source h hi⟩
  · change ∃ t, execSeccfg v s = .next t ∧ _
    cases hlock : s.seccfg.getLsbD 8
    · rw [execSeccfg_open hlock]
      exact ⟨_, rfl, rfl, fun h => absurd h (by decide), fun _ => ⟨seccfgOf_lock .., fun i hi => seccfgOf_level v s.seccfg hi⟩⟩
    · rw [execSeccfg_locked hlock]
      exact ⟨s, rfl, rfl, fun _ => rfl, fun h => absurd h (by decide)⟩
  · change ∃ t, execDebugAccess n s = .next t ∧ _
    unfold execDebugAccess
    cases hok : certOk s.customerPart n
    · rw [if_neg Bool.false_ne_true]
      cases hopen : s.debugOpen
      · have h := alarm_alarmed s (.debug, 1, s.seccfg.toNat / 4 % 4) (by simp)
        exact ⟨_, rfl, fun a => by rw [h.mem], h.meadows, fun h => absurd h (by decide), fun _ => ⟨Eq.trans h.debug hopen, h.level⟩⟩
      · exact ⟨s, rfl, fun _ => rfl, rfl, fun h => absurd h (by decide), fun _ => ⟨hopen, rfl⟩⟩
    · have h := alarm_alarmed { s with debugOpen := true } (.debugAdmitted, 1, 1) (by simp)
      exact ⟨_, rfl, fun a => by rw [h.mem], h.meadows, fun _ => ⟨h.debug, h.level⟩, fun h => absurd h (by decide)⟩
  · change ∃ t, execFirmwareUpdate n s = .next t ∧ _
    unfold execFirmwareUpdate
    cases hok : firmwareOk s.customerPart n
    · have h := alarm_alarmed s (.firmware, 3, s.seccfg.toNat / 64 % 4) (by simp)
      exact ⟨_, rfl, fun a => by rw [h.mem], h.meadows, fun h => absurd h (by decide), fun _ => ⟨h.firmware, h.level⟩⟩
    · exact ⟨_, rfl, fun _ => rfl, rfl, fun _ => rfl, fun h => absurd h (by decide)⟩
  · change execAttestationReport nonce s = _
    unfold execAttestationReport
    rw [h]
  · have h := alarm_alarmed s (.attest, 2, s.seccfg.toNat / 16 % 4) (by simp)
    refine ⟨_, ?_, h.report, h.leaf, h.level⟩
    change execAttestationReport nonce s = _
    unfold execAttestationReport
    rw [hq]
    exact if_pos hl
  · refine ⟨_, s.reportOf q nonce, ?_, rfl, rfl, rfl, rfl, rfl, rfl, rfl, rfl, rfl, ?_⟩
    · change execAttestationReport nonce s = _
      unfold execAttestationReport
      rw [hq]
      exact if_neg (by omega)
    · change ((s.firmware.map _).map _).length = _
      rw [List.length_map, List.length_map]

end Sys2Proof

end

section
/-! SUPPORT. The start of a beat run, MDEQ and BDWAIT (O36). -/
namespace Sys2Proof.Machine

section
variable {s t : State} {c x : Nat} {ic : BitVec 2}

/-! ## Runs whose ports alone change (R306, R307) -/

/-- Two runs that differ in their ports, and in the beats below which demands are raised, only. -/
def BeatRun.SamePlan (b u : BeatRun) : Prop := ∃ ps n, u = { b with ports := ps, raised := n }

theorem BeatRun.SamePlan.refl (b : BeatRun) : b.SamePlan b := ⟨_, _, rfl⟩

theorem BeatRun.SamePlan.trans {b u v : BeatRun} (h : b.SamePlan u) (g : u.SamePlan v) : b.SamePlan v := by
  obtain ⟨ps, n, rfl⟩ := h
  obtain ⟨qs, m, rfl⟩ := g
  exact ⟨qs, m, rfl⟩

theorem BeatRun.SamePlan.foldl {α : Type} {f : BeatRun → α → BeatRun} (hf : ∀ (b : BeatRun) a, b.SamePlan (f b a)) (b : BeatRun) (l : List α) :
    b.SamePlan (l.foldl f b) := by
  induction l generalizing b with
  | nil => exact .refl b
  | cons a l ih => exact (hf b a).trans (ih _)

theorem BeatRun.modPort_plan (b : BeatRun) (p : Nat) (f : BeatPort → BeatPort) : b.SamePlan (b.modPort p f) := ⟨_, _, rfl⟩

theorem BeatRun.demand_plan (b : BeatRun) (n : Nat) : b.SamePlan (b.demand n) := by
  unfold BeatRun.demand
  split
  · exact .refl b
  · refine .foldl (fun b p => ?_) b _
    split
    · exact b.modPort_plan p _
    · exact .refl b

theorem BeatRun.raiseTo_plan (b : BeatRun) (n : Nat) : b.SamePlan (b.raiseTo n) := by
  obtain ⟨ps, r, h⟩ := BeatRun.SamePlan.foldl (f := fun b' i => b'.demand (b.raised + i)) (fun u a => u.demand_plan _) b (List.range (n - b.raised))
  unfold BeatRun.raiseTo
  rw [h]
  exact ⟨_, _, rfl⟩

theorem beatStart_fields (w : MWord) (x g look : Nat) (pc : W32) (regs : List W32) :
    let b := beatStart w x g look pc regs
    b.owner = x ∧ b.w = w ∧ b.pc = pc ∧ b.regs = regs ∧ b.grid = g + look * (128 * w.steps.toNat) ∧ b.beat = 0 ∧ b.slot = 0 ∧ b.ended = false := by
  unfold beatStart
  extract_lets drain b0 b
  obtain ⟨ps, n, h⟩ := b0.raiseTo_plan look
  rw [show b = { b0 with ports := ps, raised := n } from h]
  exact ⟨rfl, rfl, rfl, rfl, rfl, rfl, rfl, rfl⟩

/-! ## MBEAT (R304-R306) -/

/-- A meadow on which an MBEAT has started its run. -/
def Meadow.beatStarted (m : Meadow) (x : Nat) (w : MWord) (g : Nat) : Meadow :=
  { m.mEntered x w true with beat := some (beatStart w x g m.look (m.ctx x).mpc (mWordRegs (m.ctx x) w)), beatEnd := false }

theorem exec_mbeat {w : MWord} (hr : MReady s c x) (hb : (s.mdw c).beat = none) (hg : mUngranted (s.ctx c x) (some w.tile.toNat) (beatFixed w) = none)
    (ht : (s.mdw c).tileBusy x s.gtc w.tile.toNat = false) (ha : (s.mdw c).arrayWord = none)
    (hl : ∀ b ∈ beatFixed w, (s.mdw c).bregLoading s.gtc b = false) (hd : beatDescBad w (mWordRegs (s.ctx c x) w) = none)
    (hc : s.beatCheck c w = none) :
    exec (.mbeat w) s = .next (s.setMdw c (((s.mdw c).beatStarted x w s.gtc).mAdvance x w.ic)) := by
  have hload : (beatFixed w).any ((s.mdw c).bregLoading s.gtc) = false := List.any_eq_false.2 fun b hm => by rw [hl b hm]; exact Bool.false_ne_true
  change execMbeat w s = _
  rw [State.ctx] at hg hd
  simp only [execMbeat, hr.cur, hr.free, hb, hd, hg, ht, ha, hload, hc, Option.isSome_none, Bool.or_self, Bool.false_eq_true, if_false]
  rfl

/-! ## Words of the S-stream to a port (R308, R309) -/

/-- What a change of one meadow leaves of it, every meadow keeps. -/
theorem mdw_modMdw_eq {α : Type} (p : Meadow → α) (s : State) (c : Nat) (f : Meadow → Meadow) (h : p (f (s.mdw c)) = p (s.mdw c)) (d : Nat) :
    p ((s.modMdw c f).mdw d) = p (s.mdw d) := by
  by_cases hd : d = c
  · rw [hd, State.modMdw_mdw, h]
  · rw [State.modMdw_mdw_ne _ _ hd]

/-- The request r is put to the ports of a meadow. -/
def State.askPort (s : State) (q : Nat) (r : BeatReq) : State := s.modMdw q fun m => { m with beatReqs := m.beatReqs ++ [r] }

theorem askPort_ctx (s : State) (q : Nat) (r : BeatReq) (d y : Nat) : (s.askPort q r).ctx d y = s.ctx d y :=
  mdw_modMdw_eq (·.ctx y) s q (fun m => { m with beatReqs := m.beatReqs ++ [r] }) rfl d

theorem askPort_reqs (s : State) (c x q : Nat) (f : Ctx → Ctx) (r : BeatReq) :
    (((s.modCtx c x f).askPort q r).mdw q).beatReqs = (s.mdw q).beatReqs ++ [r] := by
  rw [State.askPort, State.modMdw_mdw]
  exact congrArg (· ++ [r]) (mdw_modMdw_eq (·.beatReqs) s c (fun m => m.modCtx x f) rfl q)

/-- A word of the S-stream whose selector names a meadow that it reaches, behind the guard. -/
theorem port_guard {regs : List Nat} {sel : W32} {bit : Nat} (hr : Ready s c x regs) (hb : selBad sel = false) (hd : s.selDisabled c sel = false) (k : Res) :
    sGuard s regs ((resOp (selBad sel) bit).or (if s.selDisabled c sel then some (Cause.unitDisabled, 0) else none)) k = k := by
  rw [hb, hd]
  exact sGuard_of_ready hr k

section
variable {rd : BitVec 6} {ra rb : BitVec 5}

theorem exec_mdeq (hr : Ready s c x (rd.toNat :: pairRegs ra ++ pairRegs rb)) (hb : selBad ((s.ctx c x).sc.get (2 * rb.toNat + 1)) = false)
    (hd : s.selDisabled c ((s.ctx c x).sc.get (2 * rb.toNat + 1)) = false) (hrel : s.released c x ((s.ctx c x).reachOf .s s.seq) = true) :
    let k := s.ctx c x
    let sel := k.sc.get (2 * rb.toNat + 1)
    let r : BeatReq := { id := s.seq, coord := c, ctx := x, wait := false, rd := rd.toNat, entry := k.sc.getD ra.toNat, n := k.sc.get (2 * rb.toNat),
                         port := selPort sel, at_ := s.gtc, due := s.clock + selLat c sel, sel := sel }
    exec (.mdeq ic rd ra rb) s = if selFar c sel then .next (s.setCore ((k.sc.advance ic s.clock).push rd.toNat (s.clock + 2) 4))
      else .next ((s.nextSeq.2.setCore ((k.sc.advance ic s.clock).push rd.toNat (pendLater s.seq) 0)).askPort (selTarget sel) r) := by
  change execMdeq ic rd ra rb s = _
  unfold execMdeq
  rw [State.curM_stream hr.cur, State.curX_stream hr.cur]
  dsimp only
  rw [port_guard hr hb hd, hrel]
  rfl

/-- An MDEQ whose entry goes to a port issues, and its result is to come in a cycle not yet known. -/
theorem mdeq_asks (hcur : s.cur = .stream c x .s) (q : Nat) (r : BeatReq) :
    let t := (s.nextSeq.2.setCore (((s.ctx c x).sc.advance ic s.clock).push rd.toNat (pendLater s.seq) 0)).askPort q r
    Advanced s t ic ∧ memSame s t ∧ (∀ d n, n ≠ rd.toNat ∨ d < 2 ^ 80 → seen t d n = seen s d n) ∧
      (t.mdw q).beatReqs = (s.mdw q).beatReqs ++ [r] := by
  intro t
  have hcur' : s.nextSeq.2.cur = .stream c x .s := hcur
  have ht : t = (s.nextSeq.2.modCtx c x fun k => { k with sc := ((s.ctx c x).sc.advance ic s.clock).push rd.toNat (pendLater s.seq) 0 }).askPort q r := by
    simp only [t, State.setCore_stream hcur']
  have hcore : t.core = (s.core.advance ic s.clock).push rd.toNat (pendLater s.seq) 0 := by
    have htc : t.cur = .stream c x .s := by rw [ht]; exact hcur
    rw [State.core_stream htc, ht, askPort_ctx, State.modCtx_ctx, State.core_stream hcur]
  refine ⟨advanced_core hcore (SCore.push_pc ..) (SCore.push_nextAt ..), fun a => by rw [ht]; rfl, fun d n hn => ?_, by rw [ht]; exact askPort_reqs ..⟩
  · rw [seen_core hcore, SCore.shows_push_other _ _ _ _ _ _ (hn.imp_right fun h => by unfold pendLater; omega)]
    exact SCore.shows_congr rfl rfl d n

end

section
variable {pd : BitVec 5} {ra rb : BitVec 6}

theorem exec_bdwait (hr : Ready s c x (pairRegs pd ++ [ra.toNat, rb.toNat])) (hb : selBad ((s.ctx c x).sc.get ra.toNat) = false)
    (hd : s.selDisabled c ((s.ctx c x).sc.get ra.toNat) = false) :
    let k := s.ctx c x
    let sel := k.sc.get ra.toNat
    let r : BeatReq := { id := s.seq, coord := c, ctx := x, wait := true, port := selPort sel, at_ := s.gtc,
                         until_ := s.gtc + (k.sc.get rb.toNat).toNat, sel := sel, lat := selLat c sel }
    (k.sWait = none → exec (.bdwait ic pd ra rb) s =
      if selFar c sel || s.otherRegion c (selTarget sel) then .next (s.setCore ((k.sc.advance ic s.clock).pushD pd.toNat (s.clock + 1) (BitVec.ofNat 64 (2 ^ 33))))
      else .next (((s.nextSeq.2.modCtx c x fun k => k.waitsFor (some { id := s.seq, pc := k.sc.pc })).askPort (selTarget sel) r).bdVisit (selTarget sel) r)) ∧
    (∀ u v, k.sWait = some u → u.answer = some (.ok v) → exec (.bdwait ic pd ra rb) s =
      .next ((s.modCtx c x fun k => k.waitsFor none).setCore ((k.sc.advance ic s.clock).pushD pd.toNat (s.clock + 1) v))) := by
  intro k sel r
  change (_ → execBdwait ic pd ra rb s = _) ∧ ∀ u v, _ → _ → execBdwait ic pd ra rb s = _
  unfold execBdwait
  rw [State.curM_stream hr.cur, State.curX_stream hr.cur]
  dsimp only
  rw [port_guard hr hb hd]
  exact ⟨fun hw => by rw [show (s.ctx c x).sWait = none from hw]; rfl, fun u v hw ha => by rw [show (s.ctx c x).sWait = some u from hw]; dsimp only; rw [ha]; rfl⟩

/-- A BDWAIT that finds no run, no end and no passed limit waits. -/
theorem bdVisit_waits {q : Nat} {r : BeatReq} (ho : s.otherRegion r.coord q = false) (hb : (s.mdw q).beat = none) (he : (s.mdw q).beatEnd = false)
    (hu : s.gtc < r.until_) : s.bdVisit q r = s := by
  have hj : s.bdJudge q r = none := by
    unfold State.bdJudge
    rw [ho]
    dsimp only
    rw [hb, he]
    rfl
  unfold State.bdVisit
  rw [hj]
  exact if_neg (by omega)

/-- The word at its place waits, and the request is with the port. -/
theorem bdwait_asks (hcur : s.cur = .stream c x .s) {q : Nat} {r : BeatReq} (hrc : r.coord = c) (ho : s.otherRegion c q = false)
    (hb : (s.mdw q).beat = none) (he : (s.mdw q).beatEnd = false) (hu : s.gtc < r.until_) (w : Ctx → SWait) :
    let t := ((s.nextSeq.2.modCtx c x fun k => k.waitsFor (some (w k))).askPort q r).bdVisit q r
    regsSame s t ∧ memSame s t ∧ (t.ctx c x).sc = (s.ctx c x).sc ∧ (t.mdw q).beatReqs = (s.mdw q).beatReqs ++ [r] ∧
      (t.ctx c x).sWait = some (w (s.ctx c x)) := by
  intro t
  have hp {α : Type} (p : Meadow → α) (h0 : ∀ m f, p (Meadow.modCtx m x f) = p m) (h1 : ∀ m l, p { m with beatReqs := l } = p m) (d : Nat) :
      p (((s.nextSeq.2.modCtx c x fun k => k.waitsFor (some (w k))).askPort q r).mdw d) = p (s.mdw d) :=
    (mdw_modMdw_eq p _ q (fun m => { m with beatReqs := m.beatReqs ++ [r] }) (h1 _ _) d).trans
      (mdw_modMdw_eq p s.nextSeq.2 c (fun m => m.modCtx x fun k => k.waitsFor (some (w k))) (h0 _ _) d)
  have hregion := hp (·.region) (fun _ _ => rfl) fun _ _ => rfl
  have ht : t = (s.nextSeq.2.modCtx c x fun k => k.waitsFor (some (w k))).askPort q r :=
    bdVisit_waits (by rw [State.otherRegion, hregion, hregion, hrc]; exact ho) ((hp (·.beat) (fun _ _ => rfl) (fun _ _ => rfl) q).trans hb)
      ((hp (·.beatEnd) (fun _ _ => rfl) (fun _ _ => rfl) q).trans he) hu
  have hctx : t.ctx c x = (s.ctx c x).waitsFor (some (w (s.ctx c x))) := by
    rw [ht, askPort_ctx]
    exact State.modCtx_ctx ..
  have hcore : t.core = s.core := by
    have htc : t.cur = .stream c x .s := by rw [ht]; exact hcur
    rw [State.core_stream htc, hctx, State.core_stream hcur]
    rfl
  exact ⟨regsSame_core (by rw [hcore]) (by rw [hcore]), fun a => by rw [ht]; rfl, by rw [hctx]; rfl, by rw [ht]; exact askPort_reqs .., by rw [hctx]; rfl⟩

/-- The word issues with its answer. -/
theorem bdwait_answered (hcur : s.cur = .stream c x .s) (v : W64) :
    let t := (s.modCtx c x fun k => k.waitsFor none).setCore (((s.ctx c x).sc.advance ic s.clock).pushD pd.toNat (s.clock + 1) v)
    Advanced s t ic ∧ PairGets s t (s.clock + 1) pd.toNat v ∧ OnlyCtx s t c x ∧ (t.ctx c x).sWait = none := by
  intro t
  have ht : t = s.modCtx c x fun k => { k.waitsFor none with sc := ((s.ctx c x).sc.advance ic s.clock).pushD pd.toNat (s.clock + 1) v } := by
    simp only [t]
    rw [State.setCore_stream (s := s.modCtx c x fun k => k.waitsFor none) (c := c) (x := x) (st := .s) hcur, State.modCtx_modCtx]
    rfl
  obtain ⟨hadv, hgets⟩ := modCtx_issues_pair (ic := ic) hcur (p := pd.toNat) (v := v)
    (f := fun k => { k.waitsFor none with sc := ((s.ctx c x).sc.advance ic s.clock).pushD pd.toNat (s.clock + 1) v }) rfl
  rw [ht]
  exact ⟨hadv, hgets, onlyCtx_modCtx .., by rw [State.modCtx_ctx]; rfl⟩

end

end

end Sys2Proof.Machine

namespace Sys2Proof
open Sys2Proof.Machine

/-- Settles O36: MBEAT starts the run of its word, and MDEQ and BDWAIT are at once answered, or put to a port. -/
theorem beatWords : Obligations.BeatWords := by
  unfold Obligations.BeatWords
  refine ⟨?begins, ?ports⟩
  case begins =>
    intro s c x w hr m k n hb hg ht ha hl hd hc
    have hkeeps : KeepsMStream m (m.beatStarted x w s.gtc) x := (m.mEntered_keeps x w true).trans (.of_ctxs x rfl rfl)
    obtain ⟨ho, hw, hpc, hregs, hgrid, hbeat, hslot, hend⟩ := beatStart_fields w x s.gtc m.look k.mpc (mWordRegs k w)
    refine ⟨_, beatStart w x s.gtc m.look k.mpc (mWordRegs k w), exec_mbeat hr hb hg ht ha hl hd hc, mIssued_setMdw _ hkeeps,
      ?_, ?_, ho, hw, hpc, hregs, hgrid, hbeat, hslot, hend, fun v => ?_⟩
    · rw [State.setMdw_mdw]; rfl
    · rw [State.setMdw_mdw]; rfl
    · rw [State.setMdw_mdw, Meadow.mAdvance_row]
      exact m.mEntered_row x w true v
  case ports =>
    intro s c x ic rd ra6 rb6 pd ra rb k sel bs
    refine ⟨fun hr hbad hdis hrel => ?_, fun hr hbad hdis => ?_⟩
    · have hne : s.cur ≠ .device := by rw [hr.cur]; exact fun h => by cases h
      have hex := exec_mdeq (ic := ic) hr hbad hdis hrel
      refine ⟨fun hfar => ?_, fun hfar => ?_⟩
      · rw [givesReg, hex, if_pos hfar]
        have h := push_gives (s := s) ic 2 rd.toNat 4 hne
        rw [State.core_stream hr.cur] at h ⊢
        exact ⟨_, rfl, h⟩
      · rw [hex, if_neg (by rw [show selFar c _ = false from hfar]; exact Bool.false_ne_true)]
        obtain ⟨hadv, hmem, hseen, hreqs⟩ := mdeq_asks (ic := ic) (rd := rd) hr.cur (selTarget sel)
          { id := s.seq, coord := c, ctx := x, wait := false, rd := rd.toNat, entry := k.sc.getD ra.toNat, n := k.sc.get (2 * rb.toNat),
            port := selPort sel, at_ := s.gtc, due := s.clock + selLat c sel, sel := sel }
        exact ⟨_, _, rfl, hadv, hmem, hseen, hreqs, rfl, rfl, rfl, rfl, rfl, rfl⟩
    · have hne : s.cur ≠ .device := by rw [hr.cur]; exact fun h => by cases h
      obtain ⟨hnone, hans⟩ := exec_bdwait (ic := ic) hr hbad hdis
      refine ⟨fun hw hfar => ?_, fun hw hfar ho hb he hz => ?_, fun u v hw ha => ⟨_, hans u v hw ha, bdwait_answered hr.cur v⟩⟩
      · rw [givesPair, hnone hw, if_pos (by simpa using hfar)]
        have h := pushD_gives (s := s) ic 1 pd.toNat (BitVec.ofNat 64 (2 ^ 33)) hne
        rw [State.core_stream hr.cur] at h ⊢
        exact ⟨_, rfl, h⟩
      · rw [hnone hw, if_neg (by rw [show selFar c _ = false from hfar, show s.otherRegion c _ = false from ho]; exact Bool.false_ne_true)]
        have hpos : 0 < (k.sc.get rb6.toNat).toNat := Nat.pos_of_ne_zero fun h => hz (BitVec.eq_of_toNat_eq h)
        obtain ⟨hregs, hmem, hsc, hreqs, hsw⟩ := bdwait_asks hr.cur
          (r := { id := s.seq, coord := c, ctx := x, wait := true, port := selPort bs, at_ := s.gtc, until_ := s.gtc + (k.sc.get rb6.toNat).toNat,
                  sel := bs, lat := selLat c bs }) rfl ho hb he (Nat.lt_add_of_pos_right hpos) fun k => { id := s.seq, pc := k.sc.pc }
        exact ⟨_, _, rfl, hregs, hmem, hsc, hreqs, rfl, rfl, hsw⟩

end Sys2Proof

end

section
/-! SUPPORT. Slots, drains and the end of a beat run, and the limit of a BDWAIT (O37). -/
namespace Sys2Proof.Machine

section
variable {s t : State} {c : Nat} {b : BeatRun} {m : Meadow}

/-- A state with the meadows, the keys and the memory of one that differs in a meadow alone. -/
theorem onlyMdw_of_eq {u : State} (h : OnlyMdw s t c) (hm : u.meadows = t.meadows) (hk : u.keys = t.keys) (hmem : u.mem = t.mem) : OnlyMdw s u c where
  meadows := fun d hd => by rw [State.mdw, hm]; exact h.meadows d hd
  keys := hk.trans h.keys
  mem := fun a => by rw [hmem]; exact h.mem a

theorem onlyMdw_now (h : OnlyMdw s t c) (es : List Ev) : OnlyMdw s (t.now es) c := onlyMdw_of_eq h rfl rfl rfl

theorem State.now_mdw (s : State) (es : List Ev) (c : Nat) : (s.now es).mdw c = s.mdw c := rfl

theorem bdAnswer_only (s : State) (c : Nat) (r : BeatReq) (a : Answer) : OnlyMdw s (s.bdAnswer c r a) c :=
  onlyMdw_of_eq (onlyMdw_modMdw s c fun m => { m with beatReqs := m.beatReqs.filter fun q => q.id != r.id }) rfl rfl rfl

/-! ## Slots (R310, R312, R313) -/

theorem BeatRun.start_fields (b : BeatRun) (g look : Nat) (za zb : Bool) :
    let u := b.start g look za zb
    u.cur = some b.beat ∧ u.step = 0 ∧ u.stepAt = g ∧ u.beat = b.beat + 1 ∧ u.slot = b.slot := by
  unfold BeatRun.start
  extract_lets n es d b1 u
  obtain ⟨ps, r, h1⟩ : b.SamePlan b1 := .foldl (fun b p => by
    split
    · exact b.modPort_plan p _
    · exact b.modPort_plan p _) b _
  obtain ⟨ps', r', hu⟩ := BeatRun.raiseTo_plan { b1 with
    cur := some n, entries := es ++ d, zeroA := za, zeroB := zb, step := 0, stepAt := g, beat := n + 1, prevRan := true,
    ended := b.count != 0 && n + 1 == b.count } (n + 1 + look)
  rw [show u = _ from hu]
  exact ⟨rfl, rfl, rfl, rfl, by change b1.slot = _; rw [h1]⟩

theorem BeatRun.popHeads_plan (b : BeatRun) : b.SamePlan b.popHeads := .foldl (fun b p => b.modPort_plan p _) b _

/-- A run whose slot has come, as the slot begins. -/
def BeatRun.slotBegun (b : BeatRun) (g : Nat) : BeatRun :=
  { b with slot := b.slot + 1, preemptLeft := b.preemptLeft.map (· - 1), stopAt := g + b.len }

/-- A slot that finds its entries and its buffers starts its beat, or ends the run at a token. -/
theorem execBeatSlotStart_present (hb : (s.mdw c).beat = some b) (hn : b.slotNow s.gtc = true) (hbad : (b.view (s.mdw c)).bad = none)
    (ha : (b.view (s.mdw c)).absent = false) (hwa : (b.view (s.mdw c)).waitA = false) (hwb : (b.view (s.mdw c)).waitB = false) :
    execBeatSlotStart c s = if (b.view (s.mdw c)).token then
        .next (s.modMdw c fun m => { m with beat := some { (b.slotBegun s.gtc).popHeads with ended := true } })
      else .next ((s.modMdw c fun m => { m with beat := some ((b.slotBegun s.gtc).start s.gtc (s.mdw c).lookOld false false) }).now [.tileStepIssue c]) := by
  unfold execBeatSlotStart
  dsimp only
  rw [hb]
  dsimp only
  rw [hn, hbad, ha, hwa, hwb]
  rfl

/-- A slot that misses an entry under STALL, behind a beat, is counted and freezes the meadow. -/
theorem execBeatSlotStart_stalls (hb : (s.mdw c).beat = some b) (hn : b.slotNow s.gtc = true) (hbad : (b.view (s.mdw c)).bad = none)
    (ha : (b.view (s.mdw c)).absent = true) (hp : (s.mdw c).mbpolOld.toNat % 4 = 0) (hran : b.prevRan = true) :
    execBeatSlotStart c s = .next (s.modMdw c fun m =>
      { m.countMiss with beat := some { b.slotBegun s.gtc with prevRan := false, stallUntil := s.gtc + b.len } }) := by
  have hpol : getField (s.mdw c).mbpolOld 0 2 = 0 := (getField_zero ..).trans hp
  unfold execBeatSlotStart
  dsimp only
  rw [hb]
  dsimp only
  rw [hn, hbad, ha, hpol, hran]
  rfl

theorem countMiss_counts (h : m.missCount.toNat < 0xFFFFFFFF) : m.countMiss.missCount.toNat = m.missCount.toNat + 1 := by
  unfold Meadow.countMiss
  dsimp only
  rw [if_neg (fun h' => by rw [h'] at h; exact absurd h (by decide))]
  rw [BitVec.toNat_add]
  exact Nat.mod_eq_of_lt (by change _ + 1 < _; omega)

/-! ## Drains (R149, R311) -/

theorem execBeatDrain_reads {row : Nat} {d : BeatDrain} (hb : (s.mdw c).beat = some b)
    (hd : b.drains.find? (fun q => q.at_ + row == s.gtc && q.rows.length == row) = some d) (he : (s.mdw c).ecc = []) :
    let v := 128 * b.w.tile.toNat + row
    execBeatDrain c row s = .next (s.modMdw c fun m =>
      { m with beat := some { b with drains := b.drains.map fun q => if q = d then { d with rows := d.rows ++ [(m.row v, m.poisoned v)] } else q } }) := by
  intro v
  unfold execBeatDrain
  rw [hb]
  dsimp only
  rw [hd]
  dsimp only
  rw [State.rowScrub_clean he]

/-- A format without block scales. -/
def ElemType.plain (d : ElemType) : Prop := d.cls = .F ∨ d.cls = .E ∨ d.cls = .I

theorem staConvert_plain {e d : ElemType} (hd : ElemType.plain d) (rm : Round) (band : Nat) (r : Row) :
    staConvert e d rm band (r, false) = (packLanes d.width ((rowLanes e r 0).map (convert e d rm 0)), []) := by
  have hb : d.cls ≠ .B := fun h => by simp [ElemType.plain, h] at hd
  unfold staConvert
  split
  · exact absurd rfl hb
  · exact absurd rfl hb
  · exact absurd rfl hb
  · rfl

/-- Of a format without block scales, at most 512 bytes are one change to come. -/
theorem staWrite_plain {e d : ElemType} (hd : ElemType.plain d) (hbufs : m.bufs = []) (hlen : staBytes e d ≤ 512) (own g : Nat) (sbf : Tab W32)
    (rm : Round) (band a : Nat) (r : Row) : m.staWrite own g sbf e d rm band a (r, false) =
      m.addLate g (StreamId.rank .m) (.spad a (staBytes e d) (BitVec.ofNat 4096 (packLanes d.width ((rowLanes e r 0).map (convert e d rm 0))))
        (byteMask (staBytes e d))) own := by
  have hcls : (d.cls == .B) = false := by rcases hd with h | h | h <;> rw [h] <;> rfl
  unfold Meadow.staWrite
  rw [staConvert_plain hd]
  dsimp only
  rw [hcls, if_neg Bool.false_ne_true, if_pos hlen]
  exact Meadow.spadStore_of_bufsOf (Meadow.bufsOf_of_no_bufs hbufs _ _) ..

/-- Byte k of lane j of a packed row. -/
theorem packLanes_byte {w j k : Nat} (hk : 8 * k + 8 ≤ w) (l : List Nat) :
    packLanes w l / 2 ^ (w * j + 8 * k) % 2 ^ 8 = (l[j]?).getD 0 % 2 ^ w / 2 ^ (8 * k) % 2 ^ 8 := by
  rw [Nat.pow_add, ← Nat.div_div_eq_div_mul, ← packLanes_lane]
  refine Nat.eq_of_testBit_eq fun i => ?_
  simp only [Nat.testBit_mod_two_pow, Nat.testBit_div_two_pow]
  by_cases hi : i < 8
  · have : i + 8 * k < w := by omega
    simp [this]
  · simp [hi]

/-- A lane of a row of a tile's element type, none of which is wide. -/
theorem rowLanes_lane {e : ElemType} (hw : e.wide = false) (r : Row) {j : Nat} (hj : j < e.lanes) :
    (rowLanes e r 0)[j]? = some (laneOf e.width r j) := by
  unfold rowLanes
  rw [hw, if_neg Bool.false_ne_true]
  exact lanesOf_lane _ _ _ _ hj

theorem tileElem_narrow (ty : TileType) : ((tileElem ty).getD .f32).wide = false := by cases ty <;> rfl

theorem spadRowAddr_lt (base pitch rot r : Nat) : spadRowAddr base pitch rot r < 2 ^ 20 := by
  unfold spadRowAddr
  dsimp only
  omega

theorem width_of_plain {d : ElemType} (hd : ElemType.plain d) : 8 * (d.width / 8) = d.width := by
  revert hd
  unfold ElemType.plain
  cases d <;> decide

/-- A row's write is one change to come: after the cycle exactly its bytes differ. -/
theorem staWrite_after {e d : ElemType} (hd : ElemType.plain d) (hw : e.wide = false) (hlate : m.late = []) (hbufs : m.bufs = [])
    (hlen : staBytes e d ≤ 512) {a : Nat} (ha : a + staBytes e d ≤ 2 ^ 20) (own g : Nat) (sbf : Tab W32) (rm : Round) (band : Nat) (r : Row) :
    let after := ((m.staWrite own g sbf e d rm band a (r, false)).applyLate (g + 1)).spad
    (∀ z, z < a ∨ a + staBytes e d ≤ z → Memory.read after z = Memory.read m.spad z) ∧
      ∀ j k, j < e.lanes → k < d.width / 8 →
        Memory.read after (a + d.width / 8 * j + k) = BitVec.ofNat 8 (convert e d rm 0 (laneOf e.width r j) % 2 ^ d.width / 2 ^ (8 * k)) := by
  intro after
  have hafter : after = spadWrite m.spad a (staBytes e d)
      (BitVec.ofNat 4096 (packLanes d.width ((rowLanes e r 0).map (convert e d rm 0)))).toNat (byteMask (staBytes e d)).toNat := by
    simp only [after]
    rw [staWrite_plain hd hbufs hlen]
    exact Meadow.applyLate_spad (Meadow.addLate_late hlate ..) hlen
  refine ⟨fun z hz => by rw [hafter]; exact read_spadWrite_out _ _ _ _ _ _ ha hz, fun j k hj hk => ?_⟩
  have hwidth := width_of_plain hd
  have hbytes : staBytes e d = e.lanes * (d.width / 8) := by
    rw [staBytes, ← hwidth, ← Nat.mul_assoc, Nat.mul_comm e.lanes 8, Nat.mul_assoc, Nat.mul_div_cancel_left _ (by decide), Nat.mul_div_cancel_left _ (by decide)]
  have hin : d.width / 8 * j + k < staBytes e d := by
    calc d.width / 8 * j + k < d.width / 8 * j + d.width / 8 := Nat.add_lt_add_left hk _
      _ = d.width / 8 * (j + 1) := rfl
      _ ≤ d.width / 8 * e.lanes := Nat.mul_le_mul_left _ hj
      _ = staBytes e d := by rw [hbytes, Nat.mul_comm]
  have hplace : 8 * (d.width / 8 * j + k) = d.width * j + 8 * k := by rw [Nat.mul_add, ← Nat.mul_assoc, hwidth]
  rw [hafter, Nat.add_assoc, read_spadWrite_in _ _ _ _ _ _ ha hin (testBit_byteMask hin hlen)]
  refine BitVec.eq_of_toNat_eq ?_
  rw [BitVec.toNat_ofNat, toNat_ofNat_byte (by omega), BitVec.toNat_ofNat, hplace, packLanes_byte (by omega), List.getElem?_map, rowLanes_lane hw r hj]
  rfl

/-- A drained row that meets no check is written. -/
theorem drainWrite_writes {q : BeatDrain} {i : Nat} {r : Row} (hbufs : (s.mdw c).bufs = []) :
    let m := s.mdw c
    let src := (tileElem (m.tileTy b.w.tile.toNat)).getD .f32
    let fmt := b.drainFmt
    let d := spadDesc (entryRegs q.entry).1 (entryRegs q.entry).2
    let a := spadRowAddr d.base d.rpitch d.rot i
    rowConflict m.sbf fmt a = false → a % 2 ^ 16 + staBytes src fmt ≤ 2 ^ 16 → rowNaN5 src fmt (r, false) = false →
      s.drainWrite c b q i (r, false) = s.modMdw c fun m => m.staWrite 4 s.gtc m.sbf src fmt b.w.rm 0 a (r, false) := by
  intro m src fmt d a hconf hfit hnan
  have hfault : (staRanges m.sbf src fmt a).findSome? (fun q => m.bufFault .mwrite q.1 q.2) = none :=
    List.findSome?_eq_none_iff.2 fun p _ => Meadow.bufFault_of_bufsOf (Meadow.bufsOf_of_no_bufs hbufs _ _) _
  unfold State.drainWrite
  dsimp only
  rw [if_neg (by rw [show rowConflict _ _ _ = false from hconf]; exact Bool.false_ne_true), if_neg (Nat.not_lt.2 hfit), show List.findSome? _ _ = none from hfault]
  dsimp only
  exact if_neg (by rw [show rowNaN5 _ _ _ = false from hnan]; exact Bool.false_ne_true)

/-! ## The end of a run, and a limit that has passed (R309, R313) -/

theorem execBeatRunEnd_over (hb : (s.mdw c).beat = some b) (ho : (s.mdw c).beatOver s.gtc = true) :
    let m1 : Meadow := { s.mdw c with beat := none, beatEnd := true }
    execBeatRunEnd c s = .next (s.setMdw c (if b.w.full then m1.setTile b.w.tile.toNat true (((s.mdw c).ctx b.owner).reachOf .m s.seq) else m1)) := by
  intro m1
  unfold execBeatRunEnd
  dsimp only
  rw [hb]
  dsimp only
  rw [ho]
  rfl

theorem onlyMdw_setMdw (s : State) (c : Nat) (m : Meadow) : OnlyMdw s (s.setMdw c m) c := ⟨fun _ hd => State.setMdw_mdw_ne _ _ hd, rfl, fun _ => rfl⟩

/-- The value of a BDWAIT that expires: its selector word, and the port's next number. -/
theorem expired_value (sel : W32) {n : Nat} (hn : n < 2 ^ 32) : (sel ++ BitVec.ofNat 32 n : BitVec 64) = BitVec.ofNat 64 (sel.toNat * 2 ^ 32 + n) := by
  refine BitVec.eq_of_toNat_eq ?_
  have hs := sel.isLt
  rw [BitVec.toNat_append, BitVec.toNat_ofNat, BitVec.toNat_ofNat, Nat.mod_eq_of_lt hn, Nat.shiftLeft_eq, Nat.mul_comm, ← Nat.two_pow_add_eq_or_of_lt hn,
    Nat.mod_eq_of_lt (by omega)]

theorem execBdwaitLimitExpiry_late {r : BeatReq} (hf : (s.mdw c).beatReqs.find? (fun q => q.id == r.id) = some r) (hw : r.wait = true)
    (hu : r.until_ ≤ s.gtc) :
    let next := match (s.mdw c).beat with | some b => (b.port r.port).next % 2 ^ 32 | none => 0
    execBdwaitLimitExpiry c r.id s = .next (s.bdAnswer c r (.trap Cause.bdwaitExpired (BitVec.ofNat 64 (r.sel.toNat * 2 ^ 32 + next)))) := by
  intro next
  have hn : next < 2 ^ 32 := by
    simp only [next]
    split
    · exact Nat.mod_lt _ (by decide)
    · decide
  unfold execBdwaitLimitExpiry
  rw [hf]
  dsimp only
  rw [if_neg (by rw [hw, decide_eq_false (by omega)]; decide)]
  exact congrArg (fun v => (.next (s.bdAnswer c r (.trap Cause.bdwaitExpired v)) : Res)) (expired_value r.sel hn)

end

end Sys2Proof.Machine

namespace Sys2Proof
open Sys2Proof.Machine

/-- Settles O37: each event leaves the one state that the lemmas above give. -/
theorem beatEvents : Obligations.BeatEvents := by
  unfold Obligations.BeatEvents
  refine ⟨fun a b i hi s => ?_, fun a i hi s => ?_, ?runs, ?limit⟩
  · rcases List.mem_cons.1 hi with rfl | hi
    · change Res.goesOn (execBdwaitLimitExpiry a b s)
      unfold execBdwaitLimitExpiry
      split
      · exact goesOn_next _
      · exact goesOn_ite (goesOn_next _) (goesOn_next _)
    · rw [List.mem_singleton.1 hi]
      change Res.goesOn (execBeatDrain a b s)
      unfold execBeatDrain
      split
      · exact goesOn_next _
      · split <;> exact goesOn_next _
  · rcases List.mem_cons.1 hi with rfl | hi
    · change Res.goesOn (execBeatSlotStart a s)
      unfold execBeatSlotStart
      dsimp only
      split
      · exact goesOn_next _
      · refine goesOn_ite (goesOn_next _) ?_
        split
        · exact goesOn_next _
        · refine goesOn_ite (goesOn_ite (goesOn_next _) (goesOn_next _)) ?_
          split
          · exact goesOn_next _
          · exact goesOn_ite (goesOn_next _) (goesOn_next _)
          · exact goesOn_next _
    · rw [List.mem_singleton.1 hi]
      change Res.goesOn (execBeatRunEnd a s)
      unfold execBeatRunEnd
      dsimp only
      split
      · exact goesOn_next _
      · exact goesOn_ite (goesOn_next _) (goesOn_next _)
  case runs =>
    intro s c b m hb
    refine ⟨?begins, ?stalls, ?token, ?drain, ?write, ?ends⟩
    case begins =>
      intro hn hbad ha hwa hwb htok
      obtain ⟨hcur, hstep, hat, hbeat, hslot⟩ := (b.slotBegun s.gtc).start_fields s.gtc m.lookOld false false
      refine ⟨_, (b.slotBegun s.gtc).start s.gtc m.lookOld false false,
        (execBeatSlotStart_present hb hn hbad ha hwa hwb).trans (if_neg (by rw [htok]; exact Bool.false_ne_true)),
        onlyMdw_now (onlyMdw_modMdw ..) _, ?_, hcur, hstep, hat, hbeat, hslot, ?_, fun v => ?_⟩
      · rw [State.now_mdw, State.modMdw_mdw]
      · rw [State.now_mdw, State.modMdw_mdw]
      · rw [State.now_mdw, State.modMdw_mdw]
        rfl
    case stalls =>
      intro hn hbad ha hpol hran hmiss
      refine ⟨_, { b.slotBegun s.gtc with prevRan := false, stallUntil := s.gtc + b.len }, execBeatSlotStart_stalls hb hn hbad ha hpol hran, onlyMdw_modMdw .., by rw [State.modMdw_mdw], rfl, rfl, rfl, ?_⟩
      rw [State.modMdw_mdw]
      exact countMiss_counts hmiss
    case token =>
      intro hn hbad ha hwa hwb htok
      obtain ⟨ps, n, hpop⟩ := (b.slotBegun s.gtc).popHeads_plan
      refine ⟨_, _, (execBeatSlotStart_present hb hn hbad ha hwa hwb).trans (if_pos htok), onlyMdw_modMdw .., by rw [State.modMdw_mdw], rfl, ?_,
        by rw [State.modMdw_mdw], fun v => by rw [State.modMdw_mdw]; rfl⟩
      rw [hpop]
      rfl
    case drain =>
      intro d row hd he v
      refine ⟨_, { b with drains := b.drains.map fun q => if q = d then { d with rows := d.rows ++ [(m.row v, m.poisoned v)] } else q },
        execBeatDrain_reads hb hd he, onlyMdw_modMdw .., fun v => by rw [State.modMdw_mdw]; rfl, by rw [State.modMdw_mdw],
        by rw [State.modMdw_mdw], rfl, ?_⟩
      exact List.mem_map.2 ⟨d, List.mem_of_find?_eq_some hd, if_pos rfl⟩
    case write =>
      intro q i r src fmt d a hlate hbufs hcls hconf hlen hfit hnan
      have haddr : a < 2 ^ 20 := spadRowAddr_lt ..
      have ht : s.drainWrite c b q i (r, false) = _ := drainWrite_writes hbufs hconf hfit hnan
      have hend : a + staBytes src fmt ≤ 2 ^ 20 := by omega
      have hafter := staWrite_after (m := m) hcls (tileElem_narrow (m.tileTy b.w.tile.toNat)) hlate hbufs hlen hend 4 s.gtc m.sbf b.w.rm 0 r
      rw [ht]
      refine ⟨onlyMdw_modMdw .., ?_, ?_⟩
      · rw [State.modMdw_mdw, staWrite_plain hcls hbufs hlen]
        rfl
      · rw [State.modMdw_mdw]
        exact hafter
    case ends =>
      intro ho
      refine ⟨_, execBeatRunEnd_over hb ho, onlyMdw_setMdw .., ?_, ?_, fun v => ?_, fun j => ?_⟩
      · rw [State.setMdw_mdw]
        split <;> rfl
      · rw [State.setMdw_mdw]
        split <;> rfl
      · rw [State.setMdw_mdw]
        split <;> rfl
      · rw [State.setMdw_mdw]
        split
        case isTrue hfull =>
          rw [Meadow.setTile_tileFull]
          by_cases hj : j = b.w.tile.toNat <;> simp [hj, hfull, m]
        case isFalse hfull => simp [hfull, m]
  case limit =>
    intro s c r hf hw hu next
    refine ⟨_, _, execBdwaitLimitExpiry_late hf hw hu, bdAnswer_only .., fun q hq => ?_, rfl, rfl, rfl, rfl, rfl⟩
    rw [State.bdAnswer] at hq
    have hq' : q ∈ ((s.modMdw c fun m => { m with beatReqs := m.beatReqs.filter fun q => q.id != r.id }).mdw c).beatReqs := hq
    rw [State.modMdw_mdw] at hq'
    simpa using (List.mem_filter.1 hq').2

end Sys2Proof

end

section
/-! SUPPORT. Heath commands that start and complete, HCOPY of a row, and the load of an HCP (O42). -/
namespace Sys2Proof.Machine

section
variable {s t : State} {key pa len : Nat}

/-! ## Bytes of a number in two parts -/

theorem byte_low (a b : Nat) {n i : Nat} (hi : i < n) : (a % 2 ^ (8 * n) + b * 2 ^ (8 * n)) / 256 ^ i % 256 = a / 256 ^ i % 256 := by
  have hsplit : 2 ^ (8 * n) = 256 ^ i * 256 ^ (n - i) := by rw [← Nat.pow_add, Nat.add_sub_cancel' hi.le, Nat.pow_mul]
  have hdvd : 256 ∣ 256 ^ (n - i) := dvd_pow_self 256 (by omega)
  obtain ⟨m, hm⟩ := hdvd
  have ha := byte_placed a 0 hi
  rw [Nat.mul_zero, Nat.pow_zero, Nat.mul_one, Nat.zero_add] at ha
  rw [← ha, show b * 2 ^ (8 * n) = 256 ^ i * (256 * (b * m)) by rw [hsplit, hm]; ring, Nat.add_mul_div_left _ _ (Nat.pow_pos (by decide)),
    Nat.add_mul_mod_self_left]

theorem byte_high {a : Nat} (b : Nat) {n i : Nat} (ha : a < 2 ^ (8 * n)) (hi : n ≤ i) : (a + b * 2 ^ (8 * n)) / 256 ^ i = b / 256 ^ (i - n) := by
  have hsplit : 256 ^ i = 2 ^ (8 * n) * 256 ^ (i - n) := by rw [Nat.pow_mul, ← Nat.pow_add, Nat.add_sub_cancel' hi]
  rw [hsplit, ← Nat.div_div_eq_div_mul, Nat.add_mul_div_right _ _ (Nat.two_pow_pos _), Nat.div_eq_of_lt ha, Nat.zero_add]

/-! ## Bytes read from free lines (R252, R272) -/

theorem hReadRun_byte {k : BitVec 512} (hk : tget s.keys key = some k) {fuel i : Nat} (hf : s.rangeFree pa len)
    (hfuel : (pa % 64 + len + 63) / 64 ≤ fuel) (hi : i < len) : (s.hReadRun key fuel pa len).1 / 256 ^ i % 256 = s.lineByte key (pa + i) := by
  induction fuel generalizing pa len i with
  | zero => omega
  | succ fuel ih =>
    rw [State.hReadRun, if_neg (by omega), heathLine_free hk (hf pa le_rfl (by omega))]
    dsimp only
    generalize hn : min len (64 - pa % 64) = n
    by_cases hin : i < n
    · have hline : (pa + i) / 64 = pa / 64 := by omega
      have hplace : (pa + i) % 64 = pa % 64 + i := by omega
      rw [byte_low _ _ hin, State.lineByte, dramLine_of_line hline, hplace, Nat.pow_mul, Nat.div_div_eq_div_mul, ← Nat.pow_add]
    · rw [byte_high _ (Nat.mod_lt _ (Nat.two_pow_pos _)) (by omega),
        ih (pa := pa + n) (len := len - n) (i := i - n) (fun a h1 h2 => hf a (by omega) (by omega)) (by omega) (by omega)]
      congr 1
      omega

theorem hRead_bytes {k : BitVec 512} (hk : tget s.keys key = some k) (hf : s.rangeFree pa len) {i : Nat} (hi : i < len) :
    (s.hRead key pa len).1 / 256 ^ i % 256 = s.lineByte key (pa + i) := hReadRun_byte hk hf (by omega) hi

/-! ## Within a page (R250) -/

theorem hGet_page (h : Hcp) (hp : pa % 2 ^ 21 + len ≤ 2 ^ 21) : s.hGet h pa len = s.hRead (h.keyAt pa) pa len := by
  have hmin : min len (2 ^ 21 - pa % 2 ^ 21) = len := by omega
  unfold State.hGet
  extract_lets n a
  rw [if_pos hmin]
  simp only [a, n, hmin]

theorem hPut_page (h : Hcp) (hp : pa % 2 ^ 21 + len ≤ 2 ^ 21) (v : Nat) :
    s.hPut h pa len v = s.hWrite (h.keyAt pa) pa len (v % 2 ^ (8 * len)) := by
  have hmin : min len (2 ^ 21 - pa % 2 ^ 21) = len := by omega
  unfold State.hPut
  extract_lets n s1
  rw [if_pos hmin]
  simp only [s1, n, hmin]

/-! ## Memory as a command has read it (R262) -/

/-- An engine without its lines of a place. -/
def SyncEngine.unheld (e : SyncEngine) (pa : Nat) : SyncEngine := { e with lines := e.lines.filter fun l => l.pa != pa }

theorem seeLine_frees (h : Hcp) (g : Nat × Line × Bool) (d : Nat) (hl : (s.eng d).lines = []) : ((s.seeLine h g).eng d).lines = [] := by
  have he : (s.seeLine h g).eng d = tgetD (s.engines.map fun e => (e.1, e.2.unheld (64 * g.1))) d {} := rfl
  rw [he, tgetD, tget_map (fun e : SyncEngine => e.unheld (64 * g.1))]
  rw [State.eng, tgetD] at hl
  cases hg : tget s.engines d with
  | none => rfl
  | some e =>
    rw [hg] at hl
    change e.lines.filter _ = []
    rw [show e.lines = [] from hl, List.filter_nil]

theorem asRead_frees (c : HCmd) : (s.asRead c).keys = s.keys ∧ ∀ d, (s.eng d).lines = [] → ((s.asRead c).eng d).lines = [] := by
  have h (l : List (Nat × Line × Bool)) (u : State) : (l.foldl (fun u g => u.seeLine (u.hcp c.hcp) g) u).keys = u.keys ∧
      ∀ d, (u.eng d).lines = [] → ((l.foldl (fun u g => u.seeLine (u.hcp c.hcp) g) u).eng d).lines = [] := by
    induction l generalizing u with
    | nil => exact ⟨rfl, fun _ h => h⟩
    | cons g l ih => exact ⟨(ih _).1, fun d hd => (ih _).2 d (seeLine_frees _ _ _ hd)⟩
  exact h c.got s

/-! ## HCOPY of one row of a line's length (R272) -/

theorem woundRange_of_no_sets (h0 : (s.eng 0).sets = []) (h1 : (s.eng 1).sets = []) (pa len : Nat) : s.woundRange pa len = s := if_pos ⟨h0, h1⟩

theorem logKeys_frame (s : State) (h : Hcp) (lines : List Nat) : SameCore s (s.logKeys h lines) := by
  unfold State.logKeys
  induction lines generalizing s with
  | nil => exact .refl s
  | cons l lines ih =>
    refine SameCore.trans ?_ (ih _)
    dsimp only
    split
    · exact ⟨rfl, rfl, rfl, rfl, rfl⟩
    · exact .refl s

/-- A copy of one row of at most 64 bytes that meets no poison writes the bytes it has read. -/
theorem runCopy_row {h : Hcp} {b : HBlock} (hrows : b.f 0x18 32 32 = 1) (hn0 : 0 < b.f 0x18 0 32) (hn : b.f 0x18 0 32 ≤ 64)
    (hv : (s.hGet h (b.copyAt false 0) (b.f 0x18 0 32)).2 = 0) :
    (s.runCopy h b).s = s.hPut h (b.copyAt true 0) (b.f 0x18 0 32) (s.hGet h (b.copyAt false 0) (b.f 0x18 0 32)).1 ∧
      (s.runCopy h b).outs = [(b.copyAt true 0, b.f 0x18 0 32)] ∧ (s.runCopy h b).bad = [] := by
  have hsteps : (b.f 0x18 0 32 + 63) / 64 = 1 := by omega
  have hone : List.range 1 = [0] := rfl
  have hmin : min 64 (b.f 0x18 0 32) = b.f 0x18 0 32 := by omega
  have hbad (dst : Nat) : (((List.range (b.f 0x18 0 32)).filter fun j => 0 / 2 ^ j % 2 = 1).map fun j => (dst + j) / 64 * 64).eraseDups = [] := by
    simp
  unfold State.runCopy
  dsimp only
  rw [hrows, hsteps, hone]
  simp only [List.foldl_cons, List.foldl_nil, Nat.mul_zero, Nat.sub_zero, Nat.add_zero, hmin, hv, hbad, List.map_cons, List.map_nil, List.append_nil, and_self]

/-- The bytes that such a copy leaves: those read, at its destination, and no other byte changes. -/
theorem runCmd_copy {c : HCmd} (h0 : (s.eng 0).lines = [] ∧ (s.eng 0).sets = []) (h1 : (s.eng 1).lines = [] ∧ (s.eng 1).sets = []) :
    let b := HBlock.mk c.block
    let h := s.hcp c.hcp
    let dst := b.copyAt true 0
    let n := b.f 0x18 0 32
    let v := (s.asRead c).hGet h (b.copyAt false 0) n
    b.op = 5 → b.f 0x18 32 32 = 1 → 0 < n → n ≤ 64 → dst % 2 ^ 21 + n ≤ 2 ^ 21 → h.keyAt dst = key → v.2 = 0 →
      plainUnder s key dst n → plainUnder (s.asRead c) key dst n → WritesBytes s (s.runCmd c).1 dst n v.1 (2 ^ n - 1) := by
  intro b h dst n v hop hrows hn0 hn hpage hkey hv hp hpv
  obtain ⟨hcs, hco, hcb⟩ := runCopy_row (s := s.asRead c) hrows hn0 hn hv
  have hrun : (s.runCmd c).1.mem = (s.hPut h dst n (((s.asRead c).hPut h dst n v.1).hGet h dst n).1).mem := by
    unfold State.runCmd
    extract_lets v' r met w p
    have hr : r = v'.runCopy h b := by simp only [r, hop]
    have hw : w = s.hPut h dst n (((s.asRead c).hPut h dst n v.1).hGet h dst n).1 := by
      simp only [w, hr]
      rw [hco, hcs, List.foldl_cons, List.foldl_nil, woundRange_of_no_sets h0.2 h1.2]
    have hpw : p = w := by
      simp only [p, hr]
      rw [hcb]
      rfl
    rw [(logKeys_frame ..).2.2.1, hpw, hw]
  obtain ⟨hkeys, hlines⟩ := asRead_frees (s := s) c
  obtain ⟨k, hk, -⟩ := id hp
  have hkv : tget (s.asRead c).keys key = some k := by rw [hkeys]; exact hk
  have hfree : (s.asRead c).rangeFree dst n := rangeFree_of_no_lines (hlines 0 h0.1) (hlines 1 h1.1)
  rw [hGet_page h hpage, hPut_page h hpage, hPut_page h hpage, hkey] at hrun
  have hwv := hWrite_written hkv hfree (v.1 % 2 ^ (8 * n))
  have hws := (hWrite_written hk (rangeFree_of_no_lines (pa := dst) (len := n) h0.1 h1.1)
    ((((s.asRead c).hWrite key dst n (v.1 % 2 ^ (8 * n))).hRead key dst n).1 % 2 ^ (8 * n))).writesBytes hp
  have hmod {a i : Nat} (hi : i < n) : a % 2 ^ (8 * n) / 256 ^ i % 256 = a / 256 ^ i % 256 := by
    have := byte_low a 0 hi
    rwa [Nat.zero_mul, Nat.add_zero] at this
  refine ⟨fun i hi hm => ?_, fun a ha => by rw [hrun]; exact hws.2 a ha⟩
  have h8 : 2 ^ (8 * i) = 256 ^ i := Nat.pow_mul 2 8 i
  rw [hrun, hws.1 i hi hm, h8, hmod hi,
    hRead_bytes (by rw [hwv.keys]; exact hkv) (rangeFree_of_engines hwv.engines hfree) hi, hwv.bytes,
    if_pos ⟨by omega, by omega, by rw [Nat.add_sub_cancel_left]; exact hm⟩, Nat.add_sub_cancel_left, hmod hi]

/-! ## Commands that start (R262) -/

/-- What of a command stays while it runs. -/
def HCmd.kept (c : HCmd) : Nat × Bool × List W64 × Nat := (c.id, c.started, c.block, c.hcp)

/-- The command of an id is found as before where what stays of the commands is as before. -/
theorem find_kept {l l' : List HCmd} (h : l'.map HCmd.kept = l.map HCmd.kept) {id : Nat} {c : HCmd} (hc : l.find? (fun q => q.id == id) = some c) :
    ∃ u, l'.find? (fun q => q.id == id) = some u ∧ u.kept = c.kept := by
  have hfind (l : List HCmd) : (l.map HCmd.kept).find? (fun k => k.1 == id) = (l.find? fun q => q.id == id).map HCmd.kept := List.find?_map ..
  have h' := (hfind l').symm.trans ((congrArg _ h).trans (hfind l))
  rw [hc, Option.map_some] at h'
  exact Option.map_eq_some_iff.1 h'

theorem modCmd_find {c : HCmd} (hc : s.hcmds.find? (fun q => q.id == c.id) = some c) {f : HCmd → HCmd} (hf : ∀ q, (f q).id = q.id) :
    (s.modCmd c.id f).hcmds.find? (fun q => q.id == c.id) = some (f c) := by
  have hid : ((fun q : HCmd => q.id == c.id) ∘ fun q => if q.id = c.id then f q else q) = fun q => q.id == c.id := by
    funext q
    simp only [Function.comp]
    split <;> simp [hf]
  change (s.hcmds.map fun q => if q.id = c.id then f q else q).find? _ = _
  rw [List.find?_map, hid, hc, Option.map_some, if_pos rfl]

theorem landTake_hcmds (l : Landing) (c : Contrib) : (s.landTake l c).hcmds = s.hcmds := by
  unfold State.landTake State.landWrite
  split
  · rfl
  · extract_lets l1 s1 all lim
    split
    · have h : OnlyLines s1 (s1.arbHeath l1.cmd l1.hcp lim (l1.lineAt c.line) 64) := (OnlyLines.refl s1).arbHeath
      change (s1.arbHeath l1.cmd l1.hcp lim (l1.lineAt c.line) 64).hcmds = _
      rw [h]
      rfl
    · rfl

theorem foldl_hcmds {α : Type} {f : State → α → State} (hf : ∀ u a, (f u a).hcmds = u.hcmds) (l : List α) (u : State) :
    (l.foldl f u).hcmds = u.hcmds := by
  induction l generalizing u with
  | nil => rfl
  | cons a l ih => exact (ih _).trans (hf u a)

/-- A landing that is armed leaves the commands, but for the time when its own may complete. -/
theorem arm_kept (c : HCmd) : (s.arm c).hcmds.map HCmd.kept = s.hcmds.map HCmd.kept := by
  have hcheck (u : State) : (u.landCheck c.id).hcmds.map HCmd.kept = u.hcmds.map HCmd.kept := by
    unfold State.landCheck
    split
    · rfl
    · split
      · change (u.hcmds.map _).map HCmd.kept = _
        rw [List.map_map]
        refine List.map_congr_left fun q _ => ?_
        simp only [Function.comp]
        split
        · split <;> rfl
        · rfl
      · rfl
  unfold State.arm
  extract_lets l s1 src s2
  rw [hcheck]
  simp only [s2]
  split
  · rfl
  · refine congrArg (List.map HCmd.kept) (foldl_hcmds (fun u i => ?_) _ s1)
    split
    · rfl
    · exact landTake_hcmds ..

theorem heathCommandStart_starts {c : HCmd} (hf : s.hcmds.find? (fun q => q.id == c.id) = some c) (hs : c.started = false) (hr : c.readyAt ≤ s.hcpCycle)
    (hn : s.cmdNext c = true) (hl : c.func = 2 → s.landFree c = true) :
    ∃ t u, execHeathCommandStart c.id s = .next t ∧ t.hcmds.find? (fun q => q.id == c.id) = some u ∧ u.started = true ∧
      u.block = c.block ∧ u.hcp = c.hcp ∧ (c.func ≠ 2 → s.hcpCycle < u.doneAt ∧ memSame s t) := by
  have hland : (c.func == 2 && !s.landFree c) = false := by
    by_cases h2 : c.func = 2
    · rw [hl h2]
      simp
    · simp [h2]
  unfold execHeathCommandStart
  rw [hf]
  dsimp only [State.freshIx]
  rw [if_neg (by rw [hs, hn, hland, decide_eq_false (by omega)]; decide)]
  generalize hstart : State.modCmd _ c.id _ = s2
  have h2 : ∃ u, s2.hcmds.find? (fun q => q.id == c.id) = some u ∧ u.started = true ∧ u.block = c.block ∧ u.hcp = c.hcp ∧
      (c.func ≠ 2 → s.hcpCycle < u.doneAt) ∧ s2.mem = s.mem := by
    rw [← hstart]
    refine ⟨_, modCmd_find (s := { s with fresh := s.fresh + 1 }) hf fun _ => rfl, rfl, rfl, rfl, fun h => ?_, rfl⟩
    rw [if_neg h]
    exact Nat.lt_of_lt_of_le (Nat.lt_succ_self _) (Nat.le_add_right _ _)
  clear hstart
  generalize hwalk : (if c.engines = [5] then _ else s2) = s3
  have h3 : s3.hcmds = s2.hcmds ∧ s3.mem = s2.mem := by
    rw [← hwalk]
    split <;> exact ⟨rfl, rfl⟩
  obtain ⟨u, hu, hst, hb, hh, hd, hmem⟩ := h2
  rw [← h3.1] at hu
  split
  case isTrue hfunc =>
    obtain ⟨w, hw, hk⟩ := find_kept (arm_kept (s := s3) c) hu
    simp only [HCmd.kept, Prod.mk.injEq] at hk
    obtain ⟨-, hkst, hkb, hkh⟩ := hk
    exact ⟨_, w, rfl, hw, hkst.trans hst, hkb.trans hb, hkh.trans hh, fun h => absurd hfunc h⟩
  case isFalse hfunc => exact ⟨_, u, rfl, hu, hst, hb, hh, fun h => ⟨hd h, fun a => by rw [h3.2, hmem]⟩⟩

/-! ## Commands that complete (R265) -/

/-- The status of a command is one of those that the rules name. -/
theorem runCmd_status (c : HCmd) : ∀ p ∈ (s.runCmd c).2, p.1 ≤ 9 := by
  intro p hp
  unfold State.runCmd at hp
  simp only [List.mem_append] at hp
  rcases hp with hp | hp <;> split at hp <;> simp_all

theorem runLand_status (l : Landing) : ∀ p ∈ (s.runLand l).2, p.1 ≤ 9 := by
  intro p hp
  unfold State.runLand at hp
  simp only [List.mem_append] at hp
  rcases hp with (hp | hp) | hp <;> split at hp <;> simp_all

/-- One of the statuses that apply is reported, or none. -/
def statusOf (l : List (Nat × Nat)) (ix : Nat) : Nat × Nat :=
  match l with
  | [] => (0, 0)
  | x :: t => ((x :: t)[(Config.unstated ix).toNat % (t.length + 1)]?).getD x

theorem statusOf_le {l : List (Nat × Nat)} (h : ∀ p ∈ l, p.1 ≤ 9) (ix : Nat) : (statusOf l ix).1 ≤ 9 := by
  unfold statusOf
  split
  · decide
  · next x t =>
    cases hg : (x :: t)[(Config.unstated ix).toNat % (t.length + 1)]? with
    | none => exact h x (List.mem_cons_self ..)
    | some p => exact h p (List.mem_of_getElem? hg)

/-- A tag that has completed is not running. -/
theorem tagDone_idle (t : Hcp) (b : HBlock) {status : Nat} (h : status ≤ 9) (detail : Nat) :
    (tgetD (t.tagDone b status detail).status b.tag 0).getLsbD 31 = false := by
  rw [Hcp.tagDone, tgetD_tput_self, BitVec.getLsbD_ofNat]
  exact Bool.and_eq_false_imp.2 fun _ => Nat.testBit_lt_two_pow (by omega)

/-- The state in which a command's result is in memory, before it leaves its queue. -/
def State.cmdRun (s : State) (c : HCmd) : State × List (Nat × Nat) :=
  match s.landings.find? fun l => l.cmd = c.id with
  | some l => s.runLand l
  | none => s.runCmd c

theorem cmdRun_status (c : HCmd) : ∀ p ∈ (s.cmdRun c).2, p.1 ≤ 9 := by
  unfold State.cmdRun
  split
  · exact runLand_status _
  · exact runCmd_status c

/-- What a command that waits for nothing has found when its time is over. -/
structure CmdOver (s : State) (c : HCmd) : Prop where
  found : s.hcmds.find? (fun q => q.id == c.id) = some c
  started : c.started = true
  timed : c.doneAt ≠ 0
  late : c.doneAt ≤ s.hcpCycle
  read : c.todo = []
  served : s.arbDone c.id = true
  committed : s.cmdCommitting c = false
  first : s.cmdBehind c = false
  free : s.cmdHeld c = false
  asked : (HBlock.mk c.block).writes ≠ [] → c.wr ≠ []
  landed : ∀ l ∈ s.landings, l.cmd = c.id → l.todo = []

theorem heathCommandComplete_over {c : HCmd} (h : CmdOver s c) : execHeathCommandComplete c.id s =
    .next (({ (s.cmdRun c).1 with
        fresh := (s.cmdRun c).1.fresh + 1, hcmds := (s.cmdRun c).1.hcmds.filter fun q => q.id != c.id } : State).finishCmd c.hcp ⟨c.block⟩
      (statusOf (s.cmdRun c).2 (s.cmdRun c).1.fresh).1 (statusOf (s.cmdRun c).2 (s.cmdRun c).1.fresh).2) := by
  have hland : ((s.landings.find? fun l => l.cmd = c.id).any fun l => l.todo != []) = false := by
    cases hl : s.landings.find? fun l => l.cmd = c.id with
    | none => rfl
    | some l => simp [h.landed l (List.mem_of_find?_eq_some hl) (by simpa using List.find?_some hl)]
  unfold execHeathCommandComplete
  rw [h.found]
  dsimp only
  rw [if_neg (by rw [h.started, h.read, h.served, hland, decide_eq_false (Nat.not_lt.2 h.late)]; simpa using h.timed),
    if_neg fun hw => h.asked hw.2 hw.1, h.committed, h.first, h.free]
  rfl

theorem heathCommandComplete_effect {c : HCmd} (h : CmdOver s c) : ∃ t, execHeathCommandComplete c.id s = .next t ∧ (∀ q ∈ t.hcmds, q.id ≠ c.id) ∧
    (tgetD (t.hcp c.hcp).status (HBlock.mk c.block).tag 0).getLsbD 31 = false ∧ t.mem = (s.cmdRun c).1.mem := by
  refine ⟨_, heathCommandComplete_over h, ?_, ?_, ?_⟩
  · intro q hq
    rw [(finishCmd_frame ..).2] at hq
    simpa using (List.mem_filter.1 hq).2
  · rw [(finishCmd_frame ..).1.hcp, State.modHcp_hcp]
    exact tagDone_idle _ _ (statusOf_le (cmdRun_status c) _) _
  · exact (finishCmd_frame ..).1.2.2.1

theorem cmdRun_of_no_landing {c : HCmd} (h : ∀ l ∈ s.landings, l.cmd ≠ c.id) : s.cmdRun c = s.runCmd c := by
  unfold State.cmdRun
  rw [List.find?_eq_none.2 fun l hl => by simpa using h l hl]

/-! ## The load of an HCP (R252) -/

/-- What a load that may arrive has found. -/
structure LoadOver (s : State) (h : Nat) (l : HLoad) : Prop where
  found : (s.hcp h).load = some l
  late : l.at_ ≤ s.gtc
  tick : s.hcpTick = true
  served : s.arbDone l.id = true
  stores : (s.hcp h).stores = []
  clean : s.memClean = true
  first : ∀ i ∈ lineNos l.pa l.bytes, s.arrayAhead l.id i false = false ∧ s.heathAhead l.id i false = false

/-- An HCP whose load's data has come. -/
def Hcp.loaded (t : Hcp) (l : HLoad) (v : Nat) : Hcp :=
  { t with
    load := none
    sc := if l.pair then (t.sc.set l.rd (BitVec.ofNat 32 v)).set (l.rd + 1) (BitVec.ofNat 32 (v / 2 ^ 32)) else t.sc.set l.rd (BitVec.ofNat 32 v) }

/-- An HCP whose load has met poison. -/
def Hcp.loadPoisoned (t : Hcp) : Hcp := Hcp.stopWith { t with load := none, sc := { t.sc with pc := t.sc.pc - 4 } } 2 0

theorem hcpLoadArrival_over {h : Nat} {l : HLoad} (hl : LoadOver s h l) : ∃ u, SameCore s u ∧ execHcpLoadArrival h s =
    .next (u.modHcp h fun t => if ((s.issuedAt l.id).hRead l.key l.pa l.bytes).2 ≠ 0 then t.loadPoisoned
      else t.loaded l ((s.issuedAt l.id).hRead l.key l.pa l.bytes).1) := by
  have hahead : (lineNos l.pa l.bytes).any (fun i => s.arrayAhead l.id i false || s.heathAhead l.id i false) = false :=
    List.any_eq_false.2 fun i hi => by rw [(hl.first i hi).1, (hl.first i hi).2]; decide
  refine ⟨_, logKeys_frame s (s.hcp h) ((lineNos l.pa l.bytes).filter fun _ => ((s.issuedAt l.id).hRead l.key l.pa l.bytes).2 != 0), ?_⟩
  unfold execHcpLoadArrival
  rw [hl.found]
  dsimp only
  rw [hl.tick, hl.served, hl.stores, hahead, dramScrub_of_clean hl.clean, if_neg (by simpa using hl.late)]
  rfl

theorem loaded_get (t : Hcp) (l : HLoad) (v r : Nat) : (t.loaded l v).sc.get r = if r = 0 then 0
    else if l.pair = true ∧ r = l.rd + 1 then BitVec.ofNat 32 (v / 2 ^ 32) else if r = l.rd then BitVec.ofNat 32 v else t.sc.get r := by
  by_cases h0 : r = 0
  · rw [if_pos h0, h0, SCore.get_zero]
  rw [if_neg h0]
  have hlow : (t.sc.set l.rd (BitVec.ofNat 32 v)).get r = if r = l.rd then BitVec.ofNat 32 v else t.sc.get r := by
    split
    case isTrue hr => rw [← hr, SCore.get_set_self _ _ _ h0]
    case isFalse hr => exact SCore.get_set_ne _ _ hr
  cases hp : l.pair
  · have hsc : (t.loaded l v).sc = t.sc.set l.rd (BitVec.ofNat 32 v) := if_neg (by rw [hp]; exact Bool.false_ne_true)
    rw [hsc, hlow]
    exact (if_neg fun h => Bool.false_ne_true h.1).symm
  · have hsc : (t.loaded l v).sc = (t.sc.set l.rd (BitVec.ofNat 32 v)).set (l.rd + 1) (BitVec.ofNat 32 (v / 2 ^ 32)) := if_pos hp
    by_cases hr : r = l.rd + 1
    · rw [hsc, if_pos ⟨rfl, hr⟩, hr]
      exact SCore.get_set_self _ _ _ (by omega)
    · rw [hsc, if_neg fun h => hr h.2, ← hlow]
      exact SCore.get_set_ne _ _ hr

theorem loaded_pc (t : Hcp) (l : HLoad) (v : Nat) : (t.loaded l v).sc.pc = t.sc.pc := by
  unfold Hcp.loaded
  split <;> simp

end

end Sys2Proof.Machine

namespace Sys2Proof
open Sys2Proof.Machine

/-- Settles O42: a command starts in its list, leaves it with its status, and of HCOPY with its row's bytes; a load's data reaches its HCP. -/
theorem heathEvents : Obligations.HeathEvents := by
  unfold Obligations.HeathEvents
  refine ⟨?completes, fun s => ⟨?starts, ?ends, ?load⟩⟩
  case completes =>
    intro a i hi s
    simp only [List.mem_cons, List.not_mem_nil, or_false] at hi
    rcases hi with rfl | rfl | rfl
    · change Res.goesOn (execHeathCommandStart a s)
      unfold execHeathCommandStart
      split
      · exact goesOn_next _
      · exact goesOn_ite (goesOn_next _) (goesOn_next _)
    · change Res.goesOn (execHeathCommandComplete a s)
      unfold execHeathCommandComplete
      split
      · exact goesOn_next _
      · exact goesOn_ite (goesOn_next _) (goesOn_ite (goesOn_next _) (goesOn_ite (goesOn_next _) (goesOn_ite (goesOn_next _) (goesOn_next _))))
    · change Res.goesOn (execHcpLoadArrival a s)
      unfold execHcpLoadArrival
      split
      · exact goesOn_next _
      · exact goesOn_ite (goesOn_next _) (goesOn_next _)
  case starts => exact fun c hf hs hr hn hl _ => heathCommandStart_starts hf hs hr hn hl
  case ends =>
    intro c hf hst h0 hd htodo harb hcom hbeh hheld hwr hland
    obtain ⟨t, ht, hcmds, hstatus, hmem⟩ := heathCommandComplete_effect ⟨hf, hst, h0, hd, htodo, harb, hcom, hbeh, hheld, hwr, hland⟩
    refine ⟨t, ht, hcmds, hstatus, ?_⟩
    intro key b h src dst n v hop hrows hn0 hn hpage hkey hv hnone hfree _ _ hp hpv
    have hw := runCmd_copy (s := s) (c := c) (hfree 0 (by decide)) (hfree 1 (by decide)) hop hrows hn0 hn hpage hkey hv hp hpv
    rw [cmdRun_of_no_landing hnone] at hmem
    exact ⟨fun i hi hm => by rw [hmem]; exact hw.1 i hi hm, fun a ha => by rw [hmem]; exact hw.2 a ha⟩
  case load =>
    intro h l hl hat htick harb hst hclean hahead v
    obtain ⟨u, hu, hex⟩ := hcpLoadArrival_over ⟨hl, hat, htick, harb, hst, hclean, hahead⟩
    refine ⟨fun hv => ⟨_, hex, fun a => ?_, ?_, ?_, fun r => ?_⟩, fun hv hend => ⟨_, hex, fun a => ?_, ?_, ?_, ?_⟩⟩
    · exact hu.keeps_mem a
    · rw [State.modHcp_hcp, if_neg (not_not_intro hv)]
      rfl
    · rw [State.modHcp_hcp, if_neg (not_not_intro hv), loaded_pc, hu.hcp]
    · rw [State.modHcp_hcp, if_neg (not_not_intro hv), loaded_get, hu.hcp]
    · exact hu.keeps_mem a
    · rw [State.modHcp_hcp, if_pos hv, hu.hcp, Hcp.loadPoisoned, Hcp.stopWith]
      dsimp only
      rw [hend]
    · rw [State.modHcp_hcp, if_pos hv, hu.hcp, Hcp.loadPoisoned, Hcp.stopWith]
      dsimp only
      rw [hend]
    · rw [State.modHcp_hcp, if_pos hv, hu.hcp, Hcp.loadPoisoned, Hcp.stopWith]
      dsimp only
      rw [hend]

end Sys2Proof

end

section
/-! SUPPORT. Hasp tasks (O18): what the engines' lines, sets and logs keep of each other, and a task's way through its sets. -/
namespace Sys2Proof.Machine

/-- An entry of a table after a write is the one written, or an earlier one. -/
theorem mem_tput {α : Type} {t : Tab α} {k : Nat} {v : α} {e : Nat × α} (h : e ∈ tput t k v) : e = (k, v) ∨ e ∈ t := by
  induction t with
  | nil => exact .inl (by simpa [tput] using h)
  | cons a t ih =>
    obtain ⟨i, u⟩ := a
    rw [tput] at h
    split at h
    · rcases List.mem_cons.1 h with h | h
      · exact .inl h
      · exact .inr h
    · split at h
      · rcases List.mem_cons.1 h with h | h
        · exact .inl h
        · exact .inr (List.mem_cons_of_mem _ h)
      · rcases List.mem_cons.1 h with h | h
        · exact .inr (h ▸ List.mem_cons_self ..)
        · exact (ih h).imp_right (List.mem_cons_of_mem _)

section
variable {s t u : State} {c x d : Nat} {age : AgeKey} {ic : BitVec 2}

/-! ## What changes of held lines leave (R222, R321, R326) -/

/-- The accesses of a context that are on their way to an engine. -/
def SyncEngine.accsOf (e : SyncEngine) (c x : Nat) : List OpenAcc :=
  (e.reqs.filter fun r => r.op.isAccess && !r.heath && r.coord == c && r.ctx == x).map (·.acc)

/-- The meadows, the cycle, and the engines' sets, undo records and open accesses stand. -/
structure TasksKept (s t : State) : Prop where
  meadows : t.meadows = s.meadows
  gtc : t.gtc = s.gtc
  accs : ∀ d c x, (t.eng d).accsOf c x = (s.eng d).accsOf c x
  sets : ∀ d, (t.eng d).sets = (s.eng d).sets
  undo : ∀ d, (t.eng d).log = (s.eng d).log

theorem TasksKept.refl (s : State) : TasksKept s s := ⟨rfl, rfl, fun _ _ _ => rfl, fun _ => rfl, fun _ => rfl⟩

theorem TasksKept.trans (h : TasksKept s t) (g : TasksKept t u) : TasksKept s u :=
  ⟨g.meadows.trans h.meadows, g.gtc.trans h.gtc, fun d c x => (g.accs d c x).trans (h.accs d c x), fun d => (g.sets d).trans (h.sets d),
    fun d => (g.undo d).trans (h.undo d)⟩

theorem TasksKept.foldl {α : Type} {f : State → α → State} (hf : ∀ u a, TasksKept u (f u a)) (l : List α) (s : State) : TasksKept s (l.foldl f s) := by
  induction l generalizing s with
  | nil => exact .refl s
  | cons a l ih => exact (hf s a).trans (ih _)

theorem TasksKept.of_engines (hm : t.meadows = s.meadows) (hg : t.gtc = s.gtc) (he : t.engines = s.engines) : TasksKept s t := by
  have h (d : Nat) : t.eng d = s.eng d := by rw [State.eng, he, State.eng]
  exact ⟨hm, hg, fun d c x => by rw [h], fun d => by rw [h], fun d => by rw [h]⟩

theorem TasksKept.of_modEng (s : State) (d : Nat) {f : SyncEngine → SyncEngine} (ha : ∀ e c x, (f e).accsOf c x = e.accsOf c x)
    (hs : ∀ e, (f e).sets = e.sets) (hl : ∀ e, (f e).log = e.log) : TasksKept s (s.modEng d f) := by
  refine ⟨rfl, rfl, fun j c x => ?_, fun j => ?_, fun j => ?_⟩ <;> by_cases hj : j = d
  · rw [hj, State.modEng_eng, ha]
  · rw [State.modEng_eng_ne _ _ hj]
  · rw [hj, State.modEng_eng, hs]
  · rw [State.modEng_eng_ne _ _ hj]
  · rw [hj, State.modEng_eng, hl]
  · rw [State.modEng_eng_ne _ _ hj]

theorem TasksKept.logErr {log cause : Nat} {v : W64} (h : TasksKept s t) : TasksKept s (t.logErr log cause v) := h.trans (.of_engines rfl rfl rfl)
theorem TasksKept.modHcp {i : Nat} {f : Hcp → Hcp} (h : TasksKept s t) : TasksKept s (t.modHcp i f) := h.trans (.of_engines rfl rfl rfl)
theorem TasksKept.modLanding {i : Nat} {f : Landing → Landing} (h : TasksKept s t) : TasksKept s (t.modLanding i f) :=
  h.trans (.of_engines rfl rfl rfl)

/-- Changes of an engine's lines and of its latent errors. -/
theorem TasksKept.of_lines (s : State) (d : Nat) (f : SyncEngine → List HeldLine) (g : SyncEngine → List Nat) :
    TasksKept s (s.modEng d fun e => { e with lines := f e, ecc := g e }) := .of_modEng s d (fun _ _ _ => rfl) (fun _ => rfl) fun _ => rfl

theorem TasksKept.sramScrub (s : State) (pa len : Nat) : TasksKept s (s.sramScrub pa len) := by
  refine .foldl (fun u d => .foldl (fun u l => ?_) _ u) _ s
  exact (TasksKept.of_lines u d _ _).logErr

theorem TasksKept.dieScrub (s : State) (pa len : Nat) : TasksKept s (s.dieScrub pa len) := by
  refine .foldl (fun u e => ?_) _ s
  dsimp only
  split <;> exact .of_engines rfl rfl rfl

theorem TasksKept.scrubParts (s : State) (ps : List Part) : TasksKept s (s.scrubParts ps) := by
  unfold State.scrubParts
  split
  · exact .refl s
  · refine .foldl (fun u p => ?_) _ s
    split
    · refine .foldl (fun u l => ?_) _ u
      split
      · exact .sramScrub ..
      · exact .dieScrub ..
    · exact .refl u

theorem TasksKept.arrayWrite (s : State) (va pa key : Nat) (l : Line) (mask : BitVec 64) : TasksKept s (s.arrayWrite va pa key l mask) := by
  unfold State.arrayWrite
  split
  · exact .of_lines s _ _ SyncEngine.ecc
  · exact .of_engines rfl rfl rfl

theorem TasksKept.writeBack (s : State) (d : Nat) (h : HeldLine) : TasksKept s (s.writeBack d h) := by
  unfold State.writeBack
  extract_lets bad s0 s1 s2
  have h0 : TasksKept s s0 := by
    simp only [s0]
    split
    · exact .sramScrub ..
    · exact .refl s
  have h2 : TasksKept s1 s2 := by
    simp only [s2]
    split
    · exact .refl s1
    · exact .of_engines rfl rfl rfl
  have h02 : TasksKept s s2 := (h0.trans (.of_lines s0 d _ SyncEngine.ecc)).trans h2
  split
  · exact h02.trans (.of_engines rfl rfl rfl)
  · exact h02

theorem TasksKept.evict (s : State) (d : Nat) (h : HeldLine) : TasksKept s (s.evict d h) := by
  have hseq : TasksKept s (s.writeBack d h).nextSeq.2 := (TasksKept.writeBack s d h).trans (.of_engines rfl rfl rfl)
  unfold State.evict
  dsimp only
  split
  · exact hseq
  · refine hseq.trans ?_
    unfold State.arbPut
    split <;> exact .of_engines rfl rfl rfl

theorem TasksKept.makeRoom (s : State) (d : Nat) : TasksKept s (s.makeRoom d) := by
  unfold State.makeRoom
  dsimp only
  split
  · exact .refl s
  · split
    · exact .evict ..
    · exact .refl s

/-- A change of requests that leaves every access as it is. -/
theorem accsOf_map (e : SyncEngine) {f : SyncReq → SyncReq} (hf : ∀ r, f r = r ∨ r.op.isAccess = false ∧ (f r).op.isAccess = false) (c x : Nat) :
    ({ e with reqs := e.reqs.map f } : SyncEngine).accsOf c x = e.accsOf c x := by
  unfold SyncEngine.accsOf
  induction e.reqs with
  | nil => rfl
  | cons r l ih =>
    rw [List.map_cons]
    rcases hf r with h | ⟨h, h'⟩
    · rw [h, List.filter_cons, List.filter_cons]
      split
      · rw [List.map_cons, List.map_cons, ih]
      · exact ih
    · simp only [List.filter_cons, h, h', Bool.false_and, Bool.false_eq_true, if_false]
      exact ih

/-- A post on its way takes a status; it is no access. -/
theorem TasksKept.of_post (s : State) (d id : Nat) (w : W32) : TasksKept s (s.modEng d fun e => { e with reqs := e.reqs.map fun r =>
    if r.id = id then { r with op := match r.op with | .hpost inc none => .hpost inc (some w) | o => o } else r }) := by
  refine .of_modEng s d (fun e c x => accsOf_map e (fun r => ?_) c x) (fun _ => rfl) fun _ => rfl
  split
  · split
    · next h => exact .inr ⟨by rw [h]; rfl, rfl⟩
    · exact .inl rfl
  · exact .inl rfl

theorem TasksKept.landConflict (s : State) (l : Landing) (line : Nat) : TasksKept s (s.landConflict l line) := by
  unfold State.landConflict
  extract_lets s1 s2
  have h1 : TasksKept s s1 := by
    simp only [s1]
    split
    · exact .refl s
    · exact (TasksKept.refl s).logErr
  have h2 : TasksKept s s2 := h1.modLanding
  split
  · exact h2
  · exact h2.modHcp.trans (.foldl (fun v d => .of_post v d _ _) _ _)

theorem TasksKept.landTouch (s : State) (pa : Nat) : TasksKept s (s.landTouch pa) := by
  refine .foldl (fun u l => ?_) _ s
  dsimp only
  split
  · exact .landConflict ..
  · exact .refl u

theorem TasksKept.reachLine (s : State) (d va pa key : Nat) : TasksKept s (s.reachLine d va pa key) := by
  unfold State.reachLine
  split
  · dsimp only
    refine TasksKept.trans ?_ (.of_lines _ d _ SyncEngine.ecc)
    split
    · exact .sramScrub ..
    · exact .refl s
  · split
    · exact .refl s
    · extract_lets s1 h
      have h1 : TasksKept s s1 := (TasksKept.makeRoom s d).trans (.dieScrub ..)
      exact (h1.trans (.of_lines s1 d _ SyncEngine.ecc)).trans (.landTouch ..)

theorem TasksKept.holdLines (s : State) (c : Nat) (q : HaspSet) : TasksKept s (s.holdLines c q) := by
  refine .foldl (fun u i => ?_) _ s
  dsimp only
  split
  · exact .reachLine ..
  · exact .refl u

/-! ## Sets and undo records of a task that is over (R326, R332) -/

/-- An engine has no set and no undo record of a task. -/
def SyncEngine.freeOf (e : SyncEngine) (age : AgeKey) : Prop := (∀ q ∈ e.sets, q.owner ≠ some age) ∧ ∀ u ∈ e.log, u.owner ≠ age

theorem freeOf_congr {e e' : SyncEngine} (hs : e'.sets = e.sets) (hl : e'.log = e.log) (h : e.freeOf age) : e'.freeOf age :=
  ⟨by rw [hs]; exact h.1, by rw [hl]; exact h.2⟩

/-- An engine whose sets of a task are free. -/
def SyncEngine.setsFreed (e : SyncEngine) (age : AgeKey) : SyncEngine :=
  { e with sets := e.sets.map fun t => if t.owner = some age then { t with owner := none, committing := false } else t }

/-- An engine whose undo records of a task are dropped. -/
def SyncEngine.undoDropped (e : SyncEngine) (age : AgeKey) : SyncEngine := { e with log := e.log.filter fun u => u.owner ≠ age }

theorem setsFreed_owner (e : SyncEngine) : ∀ q ∈ (e.setsFreed age).sets, q.owner ≠ some age := by
  intro q hq
  obtain ⟨r, -, rfl⟩ := List.mem_map.1 hq
  split
  · exact nofun
  · assumption

theorem undoDropped_owner (e : SyncEngine) : ∀ u ∈ (e.undoDropped age).log, u.owner ≠ age := by
  intro u hu
  simpa using (List.mem_filter.1 hu).2

theorem freeSets_engines (s : State) (d : Nat) (age : AgeKey) : (s.freeSets d age).engines = (s.modEng d (·.setsFreed age)).engines := by
  unfold State.freeSets State.noticeRelease
  dsimp only
  split <;> rfl

theorem freeSets_eng (s : State) (d j : Nat) (age : AgeKey) : (s.freeSets d age).eng j = (s.modEng d (·.setsFreed age)).eng j := by
  rw [State.eng, freeSets_engines, State.eng]

/-! ## Commits (R332) -/

/-- No restart waits for the release of a set. -/
def State.noWaits (s : State) : Prop := ∀ m ∈ s.meadows, ∀ j ∈ m.2.ctxs, j.2.hasp.waitSet = none

theorem noticeRelease_self {m : Meadow} (h : ∀ j ∈ m.ctxs, j.2.hasp.waitSet = none) (ws : List (Nat × Nat × Nat)) : m.noticeRelease ws = m := by
  unfold Meadow.noticeRelease
  have hmap : m.ctxs.map (fun k => (k.1, { k.2 with hasp := { k.2.hasp with waitSet := k.2.hasp.waitSet.filter fun w => !ws.contains w } })) = m.ctxs := by
    refine (List.map_congr_left fun j hj => ?_).trans (List.map_id _)
    have hw : { j.2.hasp with waitSet := j.2.hasp.waitSet.filter fun w => !ws.contains w } = j.2.hasp := by
      rw [h j hj, Option.filter_none, ← h j hj]
    rw [hw]
    rfl
  rw [hmap]

theorem freeSets_same (h : s.noWaits) (d : Nat) (age : AgeKey) : SameCore s (s.freeSets d age) := by
  unfold State.freeSets State.noticeRelease
  dsimp only
  split
  · exact ⟨rfl, rfl, rfl, rfl, rfl⟩
  · refine ⟨(List.map_congr_left fun m hm => ?_).trans (List.map_id _), rfl, rfl, rfl, rfl⟩
    rw [noticeRelease_self (h m hm)]
    rfl

theorem noWaits_congr (hm : t.meadows = s.meadows) (h : s.noWaits) : t.noWaits := by rw [State.noWaits, hm]; exact h

/-- What a table gives is in it, or is the default. -/
theorem tgetD_mem {α : Type} (t : Tab α) (k : Nat) (v : α) : tgetD t k v = v ∨ (k, tgetD t k v) ∈ t := by
  rw [tgetD]
  cases hg : tget t k with
  | none => exact .inl rfl
  | some u => exact .inr (tget_mem hg)

theorem noWaits_ctx (h : s.noWaits) (c x : Nat) : (∀ j ∈ (s.mdw c).ctxs, j.2.hasp.waitSet = none) ∧ (s.ctx c x).hasp.waitSet = none := by
  have hctxs : ∀ j ∈ (s.mdw c).ctxs, j.2.hasp.waitSet = none := by
    rcases tgetD_mem s.meadows c {} with hm | hm
    · intro j hj
      rw [State.mdw, hm] at hj
      exact absurd hj List.not_mem_nil
    · exact h _ hm
  refine ⟨hctxs, ?_⟩
  rcases tgetD_mem (s.mdw c).ctxs x {} with hk | hk
  · rw [State.ctx, Meadow.ctx, hk]
  · exact hctxs _ hk

theorem noWaits_modCtx (h : s.noWaits) {f : Ctx → Ctx} (hf : (f (s.ctx c x)).hasp.waitSet = (s.ctx c x).hasp.waitSet) : (s.modCtx c x f).noWaits := by
  obtain ⟨hctxs, hx⟩ := noWaits_ctx h c x
  intro m hm j hj
  rcases mem_tput hm with rfl | hm
  · rcases mem_tput hj with rfl | hj
    · exact hf.trans hx
    · exact hctxs j hj
  · exact h m hm j hj

/-- One engine's part of a commit. -/
def State.commitAt (s : State) (age : AgeKey) (d : Nat) : State := (s.freeSets d age).modEng d (·.undoDropped age)

theorem commitAt_same (h : s.noWaits) (age : AgeKey) (d : Nat) : SameCore s (s.commitAt age d) :=
  (freeSets_same h d age).trans ⟨rfl, rfl, rfl, rfl, rfl⟩

theorem commitAt_free (s : State) (age : AgeKey) (d : Nat) : ((s.commitAt age d).eng d).freeOf age := by
  rw [State.commitAt, State.modEng_eng, freeSets_eng, State.modEng_eng]
  exact ⟨setsFreed_owner _, undoDropped_owner _⟩

theorem commitAt_ne (s : State) (age : AgeKey) {d j : Nat} (h : j ≠ d) : (s.commitAt age d).eng j = s.eng j := by
  rw [State.commitAt, State.modEng_eng_ne _ _ h, freeSets_eng, State.modEng_eng_ne _ _ h]

theorem openAccs_congr (hl : (t.ctx c x).landing = (s.ctx c x).landing) (hs : (t.ctx c x).stores = (s.ctx c x).stores)
    (ha : ∀ d, (t.eng d).accsOf c x = (s.eng d).accsOf c x) : t.openAccs c x = s.openAccs c x := by
  have h (u : State) : u.openAccs c x = ((u.ctx c x).landing.filter fun l => !l.arrived && l.spad.isNone).map (·.acc) ++ (u.ctx c x).stores.map (·.acc) ++
      [0, 1].flatMap fun d => (u.eng d).accsOf c x := rfl
  rw [h, h, hl, hs]
  simp only [ha]

/-- A task whose engines mark its sets. -/
def SyncEngine.marked (e : SyncEngine) (age : AgeKey) : SyncEngine :=
  { e with sets := e.sets.map fun t => if t.owner = some age then { t with committing := true } else t }

theorem marked_accs (s : State) (d j c x : Nat) (age : AgeKey) : ((s.modEng d (·.marked age)).eng j).accsOf c x = (s.eng j).accsOf c x := by
  by_cases hj : j = d
  · rw [hj, State.modEng_eng]
    rfl
  · rw [State.modEng_eng_ne _ _ hj]

/-- The state in which both engines have marked a task's sets. -/
def State.setsMarked (s : State) (age : AgeKey) : State := (s.modEng 0 (·.marked age)).modEng 1 (·.marked age)

/-- A context whose task commits. -/
def Ctx.tendMarked (k : Ctx) (ic : BitVec 2) : Ctx := { k with hasp := { k.hasp with committing := true, ic := ic } }

/-- The state in which TEND has marked a task. -/
def State.tendMarked (s : State) (c x : Nat) (ic : BitVec 2) : State := (s.setsMarked (s.ctx c x).hasp.age).modCtx c x (·.tendMarked ic)

theorem setsMarked_same (s : State) (age : AgeKey) : SameCore s (s.setsMarked age) := ⟨rfl, rfl, rfl, rfl, rfl⟩

theorem State.modCtx_eng (s : State) (c x : Nat) (f : Ctx → Ctx) (d : Nat) : (s.modCtx c x f).eng d = s.eng d := rfl

/-- A context whose task has ended. -/
def Ctx.tendEnded (k : Ctx) (ic : BitVec 2) (mtc : Nat) : Ctx := { k with sc := k.sc.advance ic mtc, hasp := { k.hasp with state := .none, committing := false } }

theorem exec_tend (hcur : s.cur = .stream c x .s) (hst : (s.ctx c x).hasp.state = .active) (hroll : (s.ctx c x).hasp.roll = none)
    (hopen : s.openAccs c x = []) :
    let age := (s.ctx c x).hasp.age
    exec (.tend ic) s = .next ((((s.tendMarked c x ic).commitAt age 0).commitAt age 1).modCtx c x fun k => k.tendEnded ic s.clock) := by
  intro age
  have hctx : (s.tendMarked c x ic).ctx c x = (s.ctx c x).tendMarked ic := by
    rw [State.tendMarked, State.modCtx_ctx, (setsMarked_same s _).ctx]
  have hacc : (s.tendMarked c x ic).openAccs c x = [] := by
    refine (openAccs_congr (s := s) (by rw [hctx]; rfl) (by rw [hctx]; rfl) fun d => ?_).trans hopen
    rw [State.tendMarked, State.modCtx_eng]
    exact (marked_accs _ 1 d c x age).trans (marked_accs s 0 d c x age)
  have hdone : (s.tendMarked c x ic).tendDone c x = true := by
    rw [State.tendDone, State.released, State.unreleased, hacc]
    rfl
  have hsettle : (s.tendMarked c x ic).settleTend c x = (s.tendMarked c x ic).commitHasp c x := by
    unfold State.settleTend
    dsimp only
    rw [hctx]
    exact if_pos ⟨hst, rfl, hroll, hdone⟩
  have hmtc : ((s.tendMarked c x ic).mdw c).mtc = s.clock := by
    rw [State.clock_stream hcur, State.tendMarked, State.modCtx_mdw]
    rfl
  have hcommit : (s.tendMarked c x ic).commitHasp c x =
      (((s.tendMarked c x ic).commitAt age 0).commitAt age 1).modCtx c x fun k => k.tendEnded ic s.clock := by
    unfold State.commitHasp
    dsimp only
    rw [hctx, hmtc]
    rfl
  change execTend ic s = _
  unfold execTend
  rw [State.curM_stream hcur, State.curX_stream hcur]
  dsimp only
  rw [if_neg (not_not_intro hst), hopen, List.any_nil, if_neg Bool.false_ne_true, ← hcommit, ← hsettle]
  rfl

theorem tend_effect (hcur : s.cur = .stream c x .s) (hw : s.noWaits) :
    let age := (s.ctx c x).hasp.age
    let t := (((s.tendMarked c x ic).commitAt age 0).commitAt age 1).modCtx c x fun k => k.tendEnded ic s.clock
    Advanced s t ic ∧ regsSame s t ∧ OnlyCtx s t c x ∧ (t.ctx c x).hasp.state = .none ∧ ∀ d, d < 2 → (t.eng d).freeOf age := by
  intro age t
  have hsame := setsMarked_same s age
  have hmark : (s.tendMarked c x ic).noWaits := noWaits_modCtx (noWaits_congr hsame.1 hw) rfl
  have h0 := commitAt_same hmark age 0
  have h1 := commitAt_same (noWaits_congr h0.1 hmark) age 1
  have hall : SameCore (s.modCtx c x (·.tendMarked ic)) (((s.tendMarked c x ic).commitAt age 0).commitAt age 1) := ((hsame.modCtx _).trans h0).trans h1
  obtain ⟨hadv, hregs, honly, hctx⟩ := (hall.modCtx_trans (g := fun k => k.tendEnded ic s.clock) (.refl _)).issues (ic := ic) hcur rfl
  refine ⟨hadv, hregs, honly, by rw [hctx]; rfl, fun d hd => ?_⟩
  simp only [t]
  rw [State.modCtx_eng]
  interval_cases d
  · rw [commitAt_ne _ _ (by decide)]
    exact commitAt_free ..
  · exact commitAt_free ..

/-! ## Rollbacks (R326, R327) -/

theorem undoLog_free (s : State) (d : Nat) (age : AgeKey) : ((((s.undoLog d age).freeSets d age).eng d).freeOf age) ∧
    ∀ j, j ≠ d → ∀ b, (s.eng j).freeOf b → (((s.undoLog d age).freeSets d age).eng j).freeOf b := by
  have hkept : TasksKept s ((((s.eng d).log.filter fun u => u.owner = age).reverse).foldl
      (fun s u => s.arrayWrite u.va u.pa u.key u.data (BitVec.allOnes 64)) s) := .foldl (fun _ _ => .arrayWrite ..) _ s
  refine ⟨?_, fun j hj b hb => ?_⟩
  · rw [freeSets_eng, State.modEng_eng]
    refine ⟨setsFreed_owner _, ?_⟩
    have h : ((s.undoLog d age).eng d) = _ := State.modEng_eng ..
    rw [h]
    exact undoDropped_owner _
  · rw [freeSets_eng, State.modEng_eng_ne _ _ hj]
    have h : (s.undoLog d age).eng j = _ := State.modEng_eng_ne _ _ hj
    rw [h]
    exact freeOf_congr (hkept.sets j) (hkept.undo j) hb

/-- A rollback begins: no engine has a set or an undo record of the task. -/
theorem haspRoll_free (s : State) (c x : Nat) (why : RollWhy) (w : Option (Nat × Nat × Nat)) {d : Nat} (hd : d < 2) :
    ((s.haspRoll c x why w).eng d).freeOf (s.ctx c x).hasp.age := by
  unfold State.haspRoll State.haspUndo
  dsimp only
  rw [State.modCtx_eng, State.modCtx_eng, List.foldl_cons, List.foldl_cons, List.foldl_nil]
  interval_cases d
  · exact (undoLog_free _ 1 _).2 0 (by decide) _ (undoLog_free s 0 _).1
  · exact (undoLog_free _ 1 _).1

theorem exec_tabort {ra : BitVec 6} (hcur : s.cur = .stream c x .s) (hh : s.held [ra.toNat] = false) (hst : (s.ctx c x).hasp.state = .active)
    (hv : ((s.ctx c x).sc.get ra.toNat).toNat < 0x7FFF) : exec (.tabort ic ra) s =
      .next ((s.setCore ((s.ctx c x).sc.advance ic s.clock)).haspRoll c x (.abort ((s.ctx c x).sc.get ra.toNat).toNat) none) := by
  change execTabort ic ra s = _
  unfold execTabort
  rw [State.curM_stream hcur, State.curX_stream hcur]
  dsimp only
  rw [hh, if_neg Bool.false_ne_true, if_neg (by omega), if_neg (not_not_intro hst)]

/-! ## TBEGIN and TAGE (R331, R334) -/

theorem modCtx_issues_reg (hcur : s.cur = .stream c x .s) {f : Ctx → Ctx} {r : Nat} {v : W32}
    (hf : (f (s.ctx c x)).sc = ((s.ctx c x).sc.advance ic s.clock).push r (s.clock + 1) v) :
    Advanced s (s.modCtx c x f) ic ∧ RegGets s (s.modCtx c x f) (s.clock + 1) r v := by
  have hcore := (State.modCtx_core hcur f).trans hf
  rw [← State.core_stream hcur] at hcore
  exact ⟨advanced_core hcore (SCore.push_pc ..) (SCore.push_nextAt ..), regGets_core hcore rfl rfl⟩

/-- A context whose TBEGIN has started a task, or has started it again. -/
def Ctx.began (k : Ctx) (ic : BitVec 2) (mtc rd : Nat) (v : W32) (h : Hasp) : Ctx := { k with sc := (k.sc.advance ic mtc).push rd (mtc + 1) v, hasp := h }

section
variable {rd : BitVec 6}

theorem exec_tbegin_new (hcur : s.cur = .stream c x .s) (hh : s.held [rd.toNat] = false) (hst : (s.ctx c x).hasp.state = .none) :
    exec (.tbegin ic rd) s = .next (s.modCtx c x fun k => k.began ic s.clock rd.toNat 0
      { state := .active, age := ⟨s.gtc, c, x⟩, tbpc := (s.ctx c x).sc.pc, rd := rd.toNat, restarts := 0, snap := (s.ctx c x).sc.regs }) := by
  change execTbegin ic rd s = _
  unfold execTbegin
  rw [State.curM_stream hcur, State.curX_stream hcur]
  dsimp only
  rw [hh, if_neg Bool.false_ne_true, if_neg (by rw [hst]; decide), if_neg fun h => absurd (hst.symm.trans h.1) (by decide)]
  exact congrArg Host.Outcome.next (State.modCtx_congr rfl)

theorem exec_tbegin_again (hcur : s.cur = .stream c x .s) (hh : s.held [rd.toNat] = false) (hst : (s.ctx c x).hasp.state = .restart)
    (hpc : (s.ctx c x).sc.pc = (s.ctx c x).hasp.tbpc) (hw : (s.ctx c x).hasp.waitSet = none) :
    let n := min ((s.ctx c x).hasp.restarts + 1) 0x7FFF
    exec (.tbegin ic rd) s = .next (s.modCtx c x fun k => k.began ic s.clock rd.toNat (BitVec.ofNat 32 n)
      { (s.ctx c x).hasp with state := .active, rd := rd.toNat, restarts := n, waitSet := none }) := by
  intro n
  change execTbegin ic rd s = _
  unfold execTbegin
  rw [State.curM_stream hcur, State.curX_stream hcur]
  dsimp only
  rw [hh, if_neg Bool.false_ne_true, if_neg (by rw [hst]; decide), if_pos ⟨hst, hpc⟩, hw]
  exact congrArg Host.Outcome.next (State.modCtx_congr rfl)

end

/-! ## A touch of a free set (R323) -/

/-- The load that is judged is its task's. -/
theorem haspLoad_hasp {id : Nat} {e : LandEntry} (h : s.haspLoad? id = some (c, x, e)) : e.hasp = true := by
  obtain ⟨q, -, hq⟩ := List.exists_of_findSome?_eq_some h
  obtain ⟨g, hg, he⟩ := Option.map_eq_some_iff.1 hq
  obtain ⟨-, -, rfl⟩ := Prod.mk.inj he |>.imp_right Prod.mk.inj
  have := List.find?_some hg
  simp at this
  exact this.2

/-- The set that a task takes. -/
def SyncEngine.setTaken (e : SyncEngine) (region ident c x : Nat) (age : AgeKey) : SyncEngine :=
  { e with sets := e.sets.map fun t => if t.region = region ∧ t.ident = ident then { t with owner := some age, holder := (c, x) } else t }

theorem setTaken_owner (e : SyncEngine) (region ident c x : Nat) (age : AgeKey) :
    ∀ u ∈ (e.setTaken region ident c x age).sets, u.region = region → u.ident = ident → u.owner = some age := by
  intro u hu hr hi
  obtain ⟨q, -, rfl⟩ := List.mem_map.1 hu
  split
  · rfl
  · next h =>
    rw [if_neg h] at hr hi
    exact absurd ⟨hr, hi⟩ h

/-- The state in which a task has taken its free set. -/
def State.setTaken (s : State) (c x d : Nat) (q : HaspSet) : State :=
  (s.modEng d (·.setTaken q.region q.ident c x (s.ctx c x).hasp.age)).holdLines c q

theorem touchLoad_free {e : LandEntry} {q : HaspSet} (hset : s.setsOf ((s.mdw c).region.getD 0) e.parts = [(d, q)])
    (hq : (s.eng d).sets.find? (fun t => t.region == q.region && t.ident == q.ident) = some q) (ho : q.owner = none) :
    s.touchLoad c x e = (s.setTaken c x d q).takeData c x e := by
  have htouch : s.touchSet c x (s.ctx c x).hasp.age d q.region q.ident = (s.setTaken c x d q, .go) := by
    unfold State.touchSet
    dsimp only
    rw [hq]
    dsimp only
    rw [ho]
    rfl
  have hall : s.touchAll c x (s.ctx c x).hasp.age [(d, q)] = (s.setTaken c x d q, .go) := by
    rw [State.touchAll, htouch]
    rfl
  unfold State.touchLoad
  dsimp only
  rw [hset, hall]

/-- Meadows, cycle and open accesses alone decide which parts of a task's load are ready. -/
theorem readyParts_congr {e : LandEntry} (he : e.hasp = true) (hm : t.meadows = s.meadows) (hg : t.gtc = s.gtc)
    (ha : ∀ d, (t.eng d).accsOf c x = (s.eng d).accsOf c x) : t.readyParts c x e = s.readyParts c x e := by
  have hctx : t.ctx c x = s.ctx c x := by rw [State.ctx, State.mdw, hm, State.ctx, State.mdw]
  have hopen := openAccs_congr (t := t) (s := s) (c := c) (x := x) (by rw [hctx]) (by rw [hctx]) ha
  have hacc (p : Part) : (e.accOf [p]).hasp = true := he
  simp only [State.readyParts, State.readBlocked, State.blocked, hopen, hg, hacc, he, Bool.not_true, Bool.false_and, Bool.true_or, Bool.or_false]

theorem readyParts_all {e : LandEntry} (he : e.hasp = true) (hs : e.spad = none) (h : s.loadReady c x e = true) :
    s.readyParts c x e = e.openParts := by
  unfold State.loadReady at h
  rw [hs, he] at h
  simp only [Option.isSome_none, Bool.false_eq_true, if_false, if_true, Bool.and_eq_true, decide_eq_true_eq] at h
  exact List.filter_eq_self.2 fun p hp => (List.length_filter_eq_length_iff.1 h.2) p hp

/-- A load all of whose parts that are to come are ready has arrived. -/
theorem arrive_arrived {e : LandEntry} (h : ∀ u ∈ e.todo, ∃ p ∈ e.parts, p.off = u.1) : (s.arrive e e.openParts).arrived = true := by
  have hnil : e.todo.filter (fun t => !e.openParts.any fun p => p.off == t.1) = [] := by
    refine List.filter_eq_nil_iff.2 fun u hu => ?_
    obtain ⟨p, hp, hoff⟩ := h u hu
    have hopen : p ∈ e.openParts := List.mem_filter.2 ⟨hp, List.any_eq_true.2 ⟨u, hu, by simp [hoff]⟩⟩
    have hany : (e.openParts.any fun p => p.off == u.1) = true := List.any_eq_true.2 ⟨p, hopen, by simp [hoff]⟩
    rw [hany]
    exact Bool.false_ne_true
  unfold State.arrive
  dsimp only
  rw [hnil]
  rfl

theorem takeData_arrives {e : LandEntry} (hf : (s.ctx c x).landing.find? (fun g => g.id == e.id) = some e) (hp : s.readyParts c x e = e.openParts)
    (h : ∀ u ∈ e.todo, ∃ p ∈ e.parts, p.off = u.1) :
    (∃ g, ((s.takeData c x e).ctx c x).landing.find? (fun g => g.id == e.id) = some g ∧ g.arrived = true) ∧
      ∀ d, ((s.takeData c x e).eng d).sets = (s.eng d).sets := by
  have hkept := TasksKept.scrubParts s (s.readyParts c x e)
  refine ⟨⟨_, ?_, arrive_arrived (s := s.scrubParts e.openParts) h⟩, hkept.sets⟩
  have hctx : (s.scrubParts e.openParts).ctx c x = s.ctx c x := by
    rw [← hp, State.ctx, State.mdw, hkept.meadows, State.ctx, State.mdw]
  have hid : ((fun g : LandEntry => g.id == e.id) ∘ fun g => if g.id = e.id then (s.scrubParts e.openParts).arrive e e.openParts else g) =
      fun g => g.id == e.id := by
    funext g
    simp only [Function.comp]
    split
    · next hg => rw [hg]; rfl
    · rfl
  unfold State.takeData
  rw [hp]
  dsimp only
  rw [State.modCtx_ctx, hctx]
  change ((s.ctx c x).landing.map fun g => if g.id = e.id then (s.scrubParts e.openParts).arrive e e.openParts else g).find? _ = _
  rw [List.find?_map, hid, hf, Option.map_some, if_pos rfl]

theorem haspTouch_takes {e : LandEntry} {q : HaspSet} (hl : s.haspLoad? e.id = some (c, x, e))
    (hf : (s.ctx c x).landing.find? (fun g => g.id == e.id) = some e) (hs : e.spad = none) (ht : ∀ u ∈ e.todo, ∃ p ∈ e.parts, p.off = u.1)
    (hd : homeDie (((e.parts.head?).map (·.va)).getD 0) = d) (hr : s.loadReady c x e = true)
    (hset : s.setsOf ((s.mdw c).region.getD 0) e.parts = [(d, q)])
    (hq : (s.eng d).sets.find? (fun t => t.region == q.region && t.ident == q.ident) = some q) (ho : q.owner = none) :
    ∃ t, execHaspTouch d e.id s = .next t ∧
      (∀ u ∈ (t.eng d).sets, u.region = q.region → u.ident = q.ident → u.owner = some (s.ctx c x).hasp.age) ∧
      ∃ g, (t.ctx c x).landing.find? (fun g => g.id == e.id) = some g ∧ g.arrived = true := by
  have he := haspLoad_hasp hl
  have hkept := TasksKept.holdLines (s.modEng d (·.setTaken q.region q.ident c x (s.ctx c x).hasp.age)) c q
  have haccs (j : Nat) : ((s.modEng d (·.setTaken q.region q.ident c x (s.ctx c x).hasp.age)).eng j).accsOf c x = (s.eng j).accsOf c x := by
    by_cases hj : j = d
    · rw [hj, State.modEng_eng]
      rfl
    · rw [State.modEng_eng_ne _ _ hj]
  have hm : (s.setTaken c x d q).meadows = s.meadows := hkept.meadows
  have hparts : (s.setTaken c x d q).readyParts c x e = e.openParts :=
    (readyParts_congr he hm hkept.gtc fun j => (hkept.accs j c x).trans (haccs j)).trans (readyParts_all he hs hr)
  have hctx : (s.setTaken c x d q).ctx c x = s.ctx c x := by rw [State.ctx, State.mdw, hm, State.ctx, State.mdw]
  obtain ⟨harr, hsets⟩ := takeData_arrives (by rw [hctx]; exact hf) hparts ht
  refine ⟨(s.setTaken c x d q).takeData c x e, ?_, ?_, harr⟩
  · unfold execHaspTouch
    rw [hl]
    dsimp only
    rw [if_pos ⟨hd, hr⟩, touchLoad_free hset hq ho]
  · rw [hsets d, show ((s.setTaken c x d q).eng d).sets = _ from hkept.sets d, State.modEng_eng]
    exact setTaken_owner _ _ _ _ _ _

/-! ## Registers restored (R327) -/

theorem execHaspRollback_restores {why : RollWhy} (hr : (s.ctx c x).hasp.roll = some why) (ht : (s.ctx c x).trap = none)
    (hl : ∀ l ∈ (s.ctx c x).landing, l.stream ≠ .s) :
    execHaspRollback c x s = .next (s.modCtx c x fun k => k.haspRestore why (s.mdw c).mtc) := by
  have hany : ((s.mdw c).ctx x).landing.any (fun e => e.stream == .s) = false := List.any_eq_false.2 fun l hm => by
    have := hl l hm
    simpa using this
  rw [State.ctx] at hr ht
  unfold execHaspRollback
  dsimp only
  rw [hr]
  dsimp only
  rw [if_neg (by rw [ht, hany]; simp)]
  refine congrArg Host.Outcome.next (State.modCtx_congr ?_)
  rw [State.ctx, ht]
  rfl

end

end Sys2Proof.Machine

namespace Sys2Proof
open Sys2Proof.Machine

/-- Settles O18: each word, touch and rollback leaves the one state that the lemmas above give. -/
theorem haspTasks : Obligations.HaspTasks := by
  unfold Obligations.HaspTasks
  refine ⟨?completes, ?words, ?events⟩
  case completes =>
    intro a b i hi s
    rcases List.mem_cons.1 hi with rfl | hi
    · change Res.goesOn (execHaspTouch a b s)
      unfold execHaspTouch
      split
      · exact goesOn_ite (goesOn_next _) (goesOn_next _)
      · split
        · exact goesOn_ite (goesOn_next _) (goesOn_next _)
        · exact goesOn_next _
    · rw [List.mem_singleton.1 hi]
      change Res.goesOn (execHaspRollback a b s)
      unfold execHaspRollback
      dsimp only
      split
      · exact goesOn_next _
      · exact goesOn_ite (goesOn_next _) (goesOn_next _)
  case words =>
    intro s c x ic rd ra p hcur k h
    refine ⟨?new, ?again, ?tend, ?abort, ?age⟩
    case new =>
      intro hh hst
      obtain ⟨hadv, hgets⟩ := modCtx_issues_reg (ic := ic) hcur (r := rd.toNat) (v := 0) (f := fun j => j.began ic s.clock rd.toNat 0
        { state := .active, age := ⟨s.gtc, c, x⟩, tbpc := k.sc.pc, rd := rd.toNat, restarts := 0, snap := k.sc.regs }) rfl
      refine ⟨_, exec_tbegin_new hcur hh hst, hadv, hgets, onlyCtx_modCtx .., ?_⟩
      rw [State.modCtx_ctx]
      exact ⟨rfl, rfl, rfl, rfl, rfl, rfl⟩
    case again =>
      intro hh hst hpc hw
      obtain ⟨hadv, hgets⟩ := modCtx_issues_reg (ic := ic) hcur (r := rd.toNat) (v := BitVec.ofNat 32 (min (h.restarts + 1) 0x7FFF))
        (f := fun j => j.began ic s.clock rd.toNat (BitVec.ofNat 32 (min (h.restarts + 1) 0x7FFF))
          { h with state := .active, rd := rd.toNat, restarts := min (h.restarts + 1) 0x7FFF, waitSet := none }) rfl
      exact ⟨_, exec_tbegin_again hcur hh hst hpc hw, hadv, onlyCtx_modCtx .., hgets, by rw [State.modCtx_ctx]; rfl⟩
    case tend => exact fun hst hroll hopen hw => ⟨_, exec_tend hcur hst hroll hopen, tend_effect hcur hw⟩
    case abort =>
      intro hh hst hv
      refine ⟨_, exec_tabort hcur hh hst hv, ?_, fun d hd => ?_⟩
      · rw [State.haspRoll, State.modCtx_ctx]
      · have hfree := haspRoll_free (s.setCore (k.sc.advance ic s.clock)) c x (.abort (k.sc.get ra.toNat).toNat) none hd
        have hage : ((s.setCore (k.sc.advance ic s.clock)).ctx c x).hasp.age = h.age := by
          rw [State.setCore_stream hcur, State.modCtx_ctx]
        rw [hage] at hfree
        exact hfree
    case age =>
      intro hh
      have hne : s.cur ≠ .device := by rw [hcur]; exact nofun
      change ∃ t, execTage ic p s = .next t ∧ _
      unfold execTage
      rw [State.curM_stream hcur, State.curX_stream hcur]
      exact ⟨_, sIssue_eq hh, pushD_gives ic 1 _ _ hne⟩
  case events =>
    intro s c x d e q k
    refine ⟨?touch, ?restart, ?abort⟩
    case touch => exact fun hl _ hf hs ht hd hr hset hq ho => haspTouch_takes hl hf hs ht hd hr hset hq ho
    case restart =>
      intro hr ht hl
      refine ⟨_, execHaspRollback_restores hr ht hl, onlyCtx_modCtx .., ?_⟩
      rw [State.modCtx_ctx]
      exact ⟨rfl, rfl, rfl⟩
    case abort =>
      intro n hr ht hl hrd
      refine ⟨_, execHaspRollback_restores hr ht hl, onlyCtx_modCtx .., ?_⟩
      rw [State.modCtx_ctx]
      refine ⟨SCore.set_pc .., rfl, SCore.get_set_self _ _ _ hrd, fun r h0 hne => ?_⟩
      exact (SCore.get_set_ne _ _ hne).trans (if_neg h0)

end Sys2Proof

end

section
/-! SUPPORT. HALT, CTXSV, CTXLD, KEYLD and TWLD (O23). -/
namespace Sys2Proof.Machine

section
variable {s t u : State} {c x : Nat} {ic : BitVec 2}

theorem privU_of_super (hcur : s.cur = .stream c x .s) (hpl : (s.ctx c x).pl ≠ 0) : privU s = none := by
  rw [privU, State.curM_stream hcur, State.curX_stream hcur]
  exact if_neg hpl

/-! ## A meadow that stops (R301, R383) -/

theorem undoLog_only (s : State) (d : Nat) (age : AgeKey) : OnlyLines s (s.undoLog d age) := by
  unfold State.undoLog
  dsimp only
  refine OnlyLines.modEng (OnlyLines.foldl (.refl s) (fun u r hu => ?_) _)
  exact hu.arrayWrite

theorem stopHasp_regions (s : State) (c x : Nat) : (s.stopHasp c x).regions = s.regions := by
  have hundo (s : State) (d : Nat) (age : AgeKey) : ((s.undoLog d age).freeSets d age).regions = s.regions := by
    have hl : OnlyLines s (s.undoLog d age) := undoLog_only ..
    have hf : ((s.undoLog d age).freeSets d age).regions = (s.undoLog d age).regions := by
      unfold State.freeSets State.noticeRelease
      dsimp only
      split <;> rfl
    rw [hf, hl]
  unfold State.stopHasp
  dsimp only
  split
  · unfold State.haspRoll State.haspUndo
    dsimp only
    rw [State.modCtx_regions, State.modCtx_regions, State.modCtx_regions, List.foldl_cons, List.foldl_cons, List.foldl_nil, hundo, hundo]
  · rfl

theorem foldl_regions {α : Type} {f : State → α → State} (hf : ∀ u a, (f u a).regions = u.regions) (l : List α) (u : State) :
    (l.foldl f u).regions = u.regions := by
  induction l generalizing u with
  | nil => rfl
  | cons a l ih => exact (ih _).trans (hf u a)

theorem haltHasps_regions (s : State) (c : Nat) : (s.haltHasps c).regions = s.regions := by
  unfold State.haltHasps
  dsimp only
  split
  · rfl
  · refine foldl_regions (fun u y => ?_) _ s
    split
    · rfl
    · exact stopHasp_regions ..

theorem stopMeadow_regions (s : State) (c : Nat) (why : StopWhy) : (s.stopMeadow c why).regions = s.regions := by
  unfold State.stopMeadow
  split
  · rfl
  · exact (haltHasps_regions ..).trans rfl

/-- A meadow without an active task stops none. -/
theorem haltHasps_idle (h : ∀ y, (s.ctx c y).hasp.state ≠ .active) : s.haltHasps c = s := by
  have hstop (y : Nat) : s.stopHasp c y = s := if_neg fun ha => h y ha.1
  unfold State.haltHasps
  simp only [List.foldl_cons, List.foldl_nil, hstop, ite_self]

/-- A meadow that is asked to stop while none of its contexts has a task, and none stops it already. -/
theorem stopMeadow_idle (hs : (s.mdw c).stopping = none) (h : ∀ y, (s.ctx c y).hasp.state ≠ .active) (why : StopWhy) :
    s.stopMeadow c why = s.modMdw c fun m =>
      { m with stopping := some { why := why, since := s.gtc, asked := s.gtc }, beat := m.beat.map fun b => b.askStop why m.beatLimit.toNat } := by
  have hmod : s.stopMeadow c why = (s.modMdw c fun m =>
      { m with stopping := some { why := why, since := s.gtc, asked := s.gtc }, beat := m.beat.map fun b => b.askStop why m.beatLimit.toNat }).haltHasps c := by
    unfold State.stopMeadow
    rw [hs]
    refine congrArg (State.haltHasps · c) ?_
    unfold State.modMdw
    dsimp only
    rw [hs]
    rfl
  rw [hmod]
  refine haltHasps_idle fun y => ?_
  rw [State.ctx, State.modMdw_mdw]
  exact h y

/-! ## HALT (R374) -/

theorem modRegion_find {g : Nat} {r : Region} (hr : s.regions.find? (fun q => q.id == g) = some r) {f : Region → Region} (hf : ∀ q, (f q).id = q.id) :
    (s.modRegion g f).regions.find? (fun q => q.id == g) = some (f r) := by
  have hid : ((fun q : Region => q.id == g) ∘ fun q => if q.id = g then f q else q) = fun q => q.id == g := by
    funext q
    simp only [Function.comp]
    split <;> simp [hf]
  have hg : r.id = g := by simpa using List.find?_some hr
  change (s.regions.map fun q => if q.id = g then f q else q).find? _ = _
  rw [List.find?_map, hid, hr, Option.map_some, if_pos hg]

/-- A region that ends keeps the end that stands; without one it takes this one. -/
theorem endRegion_fin {g : Nat} {r : Region} (hr : s.regions.find? (fun q => q.id == g) = some r) (hfin : r.fin = none) (why : StopWhy) (e : EndInfo) :
    ∃ q, (s.endRegion g why e).regions.find? (fun q => q.id == g) = some q ∧ q.fin = some e := by
  refine ⟨{ r with fin := r.fin.or (some e) }, ?_, by rw [hfin]; rfl⟩
  unfold State.endRegion
  rw [hr]
  dsimp only
  rw [foldl_regions (fun u d => by split; exact stopMeadow_regions ..; rfl)]
  exact modRegion_find hr fun _ => rfl

section
variable {ra : BitVec 5} {rd rb : BitVec 6}

theorem exec_halt {g : Nat} (hr : Ready s c x (pairRegs ra)) (hpl : (s.ctx c x).pl ≠ 0) (hg : (s.mdw c).region = some g) :
    exec (.halt ic ra) s = .next ((s.setCore ((s.ctx c x).sc.advance ic s.clock)).endRegion g .halt
      { status := 0x22, fctx := ctxid c x, fval := (s.ctx c x).sc.getD ra.toNat }) := by
  change execHalt ic ra s = _
  unfold execHalt
  rw [State.curM_stream hr.cur, State.curX_stream hr.cur]
  dsimp only
  rw [privU_of_super hr.cur hpl, sGuard_of_ready hr, hg]

/-! ## CTXSV and CTXLD (R383) -/

theorem startSave_stops (hcur : s.cur = .stream c x .s) (hs : (s.mdw c).stopping = none) (h : ∀ y, (s.ctx c y).hasp.state ≠ .active) (rd : Nat)
    (why : StopWhy) : ((s.startSave ic rd why).mdw c).stopping = some ⟨why, s.gtc, s.gtc, false⟩ ∧
      (((s.startSave ic rd why).ctx c x).sWait.map (·.issued)) = some true ∧ memSame s (s.startSave ic rd why) := by
  have hctx (y : Nat) : ((s.nextSeq.2.modCtx c x fun k => k.waitsFor (some ((s.ctx c x).issuedWait ic rd s.seq))).ctx c y).hasp = (s.ctx c y).hasp := by
    by_cases hy : y = x
    · rw [hy, State.modCtx_ctx]
      rfl
    · exact congrArg Ctx.hasp ((onlyCtx_modCtx s.nextSeq.2 c x _).ctxs y hy)
  have hstart : s.startSave ic rd why = (s.nextSeq.2.modCtx c x fun k => k.waitsFor (some ((s.ctx c x).issuedWait ic rd s.seq))).modMdw c fun m =>
      { m with stopping := some { why := why, since := s.gtc, asked := s.gtc }, beat := m.beat.map fun b => b.askStop why m.beatLimit.toNat } := by
    change (issueWait ic rd s.seq s.nextSeq.2).stopMeadow s.curM why = _
    rw [issueWait_eq hcur, State.curM_stream hcur]
    exact stopMeadow_idle (by rw [State.modCtx_mdw]; exact hs) (fun y => by rw [hctx]; exact h y) why
  rw [hstart]
  refine ⟨by rw [State.modMdw_mdw], ?_, fun a => rfl⟩
  rw [State.ctx, State.modMdw_mdw]
  change (((s.nextSeq.2.modCtx c x _).ctx c x).sWait.map (·.issued)) = _
  rw [State.modCtx_ctx]
  rfl

theorem exec_ctxsv {ps : List Part} (hr : Ready s c x (rd.toNat :: pairRegs ra)) (hpl : (s.ctx c x).pl ≠ 0) (hw : (s.ctx c x).sWait = none)
    (hal : ((s.ctx c x).sc.getD ra.toNat).toNat % 4096 = 0)
    (hacc : s.access (s.mdw c) .store [(((s.ctx c x).sc.getD ra.toNat).toNat, 2 ^ 21)] = .ok ps) : exec (.ctxsv ic rd ra) s =
      if (s.mdw c).beat.isSome then .next (s.setCore (((s.ctx c x).sc.advance ic s.clock).push rd.toNat (s.clock + 1) 2))
      else .next (s.startSave ic rd.toNat (.save x rd.toNat ((s.ctx c x).sc.getD ra.toNat))) := by
  rw [State.ctx] at hw hal hacc
  change execCtxsv ic rd ra s = _
  unfold execCtxsv
  rw [State.curM_stream hr.cur, State.curX_stream hr.cur]
  dsimp only
  rw [hw, hal, privU_of_super hr.cur hpl]
  exact (sGuard_of_ready hr _).trans (by rw [imageBytes, hacc]; rfl)

theorem exec_ctxld {ps : List Part} (hr : Ready s c x (rd.toNat :: rb.toNat :: pairRegs ra)) (hpl : (s.ctx c x).pl ≠ 0) (hw : (s.ctx c x).sWait = none)
    (hal : ((s.ctx c x).sc.getD ra.toNat).toNat % 4096 = 0) (hop : ((s.ctx c x).sc.get rb.toNat).toNat < 2)
    (hacc : s.access (s.mdw c) { read := true, resident := true } [(((s.ctx c x).sc.getD ra.toNat).toNat, 2 ^ 21)] = .ok ps) {o : Option Nat}
    (ho : s.imageCheck c ((s.ctx c x).sc.getD ra.toNat).toNat (((s.ctx c x).sc.get rb.toNat).getLsbD 0) = o) :
    exec (.ctxld ic rd ra rb) s = match (generalizing := false) o with
      | some v => .next (s.setCore (((s.ctx c x).sc.advance ic s.clock).push rd.toNat (s.clock + 1) (BitVec.ofNat 32 v)))
      | none => .next (s.startSave ic rd.toNat (.load x ((s.ctx c x).sc.getD ra.toNat) (((s.ctx c x).sc.get rb.toNat).getLsbD 0))) := by
  subst ho
  have hres : resOp (decide (1 < ((s.ctx c x).sc.get rb.toNat).toNat)) 11 = none := if_neg (by simpa using Nat.le_of_lt_succ hop)
  rw [State.ctx] at hw hal hacc hres
  change execCtxld ic rd ra rb s = _
  unfold execCtxld
  rw [State.curM_stream hr.cur, State.curX_stream hr.cur]
  dsimp only
  rw [hw, hal, hres, privU_of_super hr.cur hpl]
  exact (sGuard_of_ready hr _).trans (by rw [imageBytes, hacc]; rfl)

/-! ## KEYLD (R362, R363) -/

/-- A context whose word gives its result in a later cycle, in which the stream still holds. -/
def Ctx.heldUntil (k : Ctx) (ic : BitVec 2) (mtc due rd : Nat) (v : W32) : Ctx :=
  { k with sc := ({ k.sc.advance ic mtc with nextAt := max (due + 1) (mtc + icGap ic) }).push rd due v }

theorem heldUntil_gets (hcur : s.cur = .stream c x .s) (hm : u.meadows = s.meadows) (hu : u.cur = s.cur) (due rd : Nat) (v : W32) :
    RegGets s (u.modCtx c x fun k => k.heldUntil ic s.clock due rd v) due rd v := by
  have hctx : u.ctx c x = s.ctx c x := by rw [State.ctx, State.mdw, hm, State.ctx, State.mdw]
  have hcore : (u.modCtx c x fun k => k.heldUntil ic s.clock due rd v).core = ((s.ctx c x).heldUntil ic s.clock due rd v).sc := by
    rw [State.modCtx_core (hu.trans hcur), hctx]
  rw [← hctx, hctx] at hcore
  have hsc : s.core = (s.ctx c x).sc := State.core_stream hcur
  exact regGets_core hcore (by rw [hsc]; rfl) (by rw [hsc]; rfl)

/-- What a register reads is the core's alone. -/
theorem regGets_of_core {r due : Nat} {v : W32} (h : RegGets s t due r v) (hc : u.core = t.core) : RegGets s u due r v := by
  have hseen (d q : Nat) : seen u d q = seen t d q := (seen_core hc ..).trans (seen_core rfl ..).symm
  exact ⟨fun d hd hn => (hseen d r).trans (h.after d hd hn), fun d q hq => (hseen d q).trans (h.other d q hq)⟩

theorem setKey_only (s : State) (slot : Nat) (k : Option (BitVec 512)) : (s.setKey slot k).meadows = s.meadows ∧ (s.setKey slot k).cur = s.cur ∧
    tget (s.setKey slot k).keys slot = k ∧ ∀ n, n ≠ slot → tget (s.setKey slot k).keys n = tget s.keys n := by
  have h : OnlyLines s (s.flushKey slot) := (OnlyLines.refl s).foldl (fun _ _ hu => hu.foldl (fun _ _ hv => hv.evict) _) _
  refine ⟨h.meadows, by change (s.flushKey slot).cur = _; rw [h], ?_, fun n hn => ?_⟩
  · cases k with
    | none => exact tget_tdel_self ..
    | some v => exact tget_tput_self ..
  · cases k with
    | none => exact tget_tdel_ne _ hn
    | some v => exact tget_tput_ne _ _ hn

/-- What KEYLD does once its blob's place may be read: the statuses of R363 in their order. -/
theorem exec_keyld {ps : List Part} (hr : Ready s c x (rd.toNat :: rb.toNat :: pairRegs ra)) (hpl : (s.ctx c x).pl ≠ 0)
    (hal : ((s.ctx c x).sc.getD ra.toNat).toNat % 8 = 0) (hres : ((s.ctx c x).sc.get rb.toNat).toNat / 2 ^ 10 % 2 ^ 21 = 0)
    (hacc : s.access (s.mdw c) .load [(((s.ctx c x).sc.getD ra.toNat).toNat, 72)] = .ok ps) (hwait : s.ownReadWaits c x ps = false)
    (hclean : s.memClean = true) :
    let w := (s.ctx c x).sc.get rb.toNat
    let slot := getField w 0 10
    let s0 := s.freshIx.2
    ∃ due, s.clock < due ∧
      (slot = 0 → exec (.keyld ic rd ra rb) s = .next (s0.modCtx c x fun k => k.heldUntil ic s.clock due rd.toNat 3)) ∧
      (slot ≠ 0 → s.level < 2 → w.getLsbD 31 = true →
        exec (.keyld ic rd ra rb) s = .next ((s0.setKey slot none).modCtx c x fun k => k.heldUntil ic s.clock due rd.toNat 0)) ∧
      (slot ≠ 0 → s.level < 2 → w.getLsbD 31 = false → (s.readParts ps).2.1 = 0 →
        exec (.keyld ic rd ra rb) s = match s.unwrap (BitVec.ofNat 576 (s.readParts ps).1) with
          | none => .next (s0.modCtx c x fun k => k.heldUntil ic s.clock due rd.toNat 1)
          | some key => if key.extractLsb' 0 256 = key.extractLsb' 256 256 then .next (s0.modCtx c x fun k => k.heldUntil ic s.clock due rd.toNat 2)
            else .next ((s0.setKey slot (some key)).modCtx c x fun k => k.heldUntil ic s.clock due rd.toNat 0)) := by
  intro w slot s0
  rw [State.ctx] at hal hres hacc
  have hfield : getField (((s.mdw c).ctx x).sc.get rb.toNat) 10 21 = 0 := hres
  refine ⟨s.clock + s.partsLatency (c / 256) ps + Config.excess s.fresh + 1, by omega, ?_⟩
  change (_ → execKeyld ic rd ra rb s = _) ∧ (_ → _ → _ → execKeyld ic rd ra rb s = _) ∧ (_ → _ → _ → _ → execKeyld ic rd ra rb s = _)
  unfold execKeyld
  rw [State.curM_stream hr.cur, State.curX_stream hr.cur]
  dsimp only
  rw [hal, hfield, if_neg (show ¬((s.mdw c).ctx x).pl = 0 from hpl),
    show ∀ k : Res, sGuard s (rd.toNat :: rb.toNat :: pairRegs ra) (((resOp (decide (0 ≠ 0)) 17).or (resOp (decide (0 ≠ 0)) 11)).or none) k = k from sGuard_of_ready hr,
    hacc]
  dsimp only
  rw [hwait, if_neg Bool.false_ne_true, State.scrubParts, if_pos hclean]
  refine ⟨fun h0 => if_pos h0, fun h0 hl h31 => ?_, fun h0 hl h31 hp => ?_⟩
  · exact (if_neg h0).trans ((if_neg (Nat.not_le.2 hl)).trans (if_pos h31))
  · refine (if_neg h0).trans ((if_neg (Nat.not_le.2 hl)).trans ((if_neg (show ¬w.getLsbD 31 = true by rw [h31]; exact Bool.false_ne_true)).trans
      ((if_neg (not_not_intro hp)).trans ?_)))
    rfl

/-! ## TWLD (R353) -/

theorem exec_twld {es : List (Nat × W64)} (hr : Ready s c x (rd.toNat :: rb.toNat :: pairRegs ra)) (hpl : (s.ctx c x).pl ≠ 0) :
    let m := s.mdw c
    let a := ((s.ctx c x).sc.getD ra.toNat).toNat
    let first := ((s.ctx c x).sc.get rb.toNat).toNat % 2 ^ 16
    let count := ((s.ctx c x).sc.get rb.toNat).toNat / 2 ^ 16 % 2 ^ 16
    let due := s.clock + (count + 7) / 8 + Config.excess s.fresh
    a % 64 = 0 → 0 < count → first + count ≤ 6144 → s.backed (a + 8 * first) = true → s.memClean = true →
    (∀ l ∈ lineNos (a + 8 * first) (8 * count), (s.heathLine (64 * l) 0).2 = false) → es = s.imageEntries a first count →
    s.windowFault (s.regionKey m) (es.foldl (fun t e => tputD t e.1 e.2 0) m.window) (es.map (·.1)) = none →
    exec (.twld ic rd ra rb) s = .next ((s.freshIx.2.modCtx c x fun k => k.heldUntil ic s.clock due rd.toNat 0).modMdw c fun m =>
      m.addLate (s.gtc + (due - s.clock)) 6 (.window (some a) es)) := by
  intro m a first count due hal hcount hfit hback hclean hpoison hes hfault
  have hfind : (lineNos (a + 8 * first) (8 * count)).find? (fun l => (s.heathLine (64 * l) 0).2) = none :=
    List.find?_eq_none.2 fun l hl => by rw [hpoison l hl]; exact Bool.false_ne_true
  rw [State.ctx] at hpl
  subst hes
  have hwin : s.windowFault (s.regionKey (s.mdw c)) ((s.imageEntries a first count).foldl (fun t e => tputD t e.1 e.2 0) (s.mdw c).window)
      ((s.imageEntries a first count).map (·.1)) = none := hfault
  have hfield : getField (((s.mdw c).ctx x).sc.get rb.toNat) 0 16 = first := getField_zero ..
  have hcnt : getField (((s.mdw c).ctx x).sc.get rb.toNat) 16 16 = count := rfl
  have hop : resOp (decide (count = 0 ∨ 6144 < first + count)) 11 = none := if_neg (by simp; omega)
  have hadr : resOp (decide (a % 64 ≠ 0)) 17 = none := if_neg (by simp [hal])
  change execTwld ic rd ra rb s = _
  unfold execTwld
  rw [State.curM_stream hr.cur, State.curX_stream hr.cur]
  dsimp only
  rw [hfield, hcnt, hop, show (((s.mdw c).ctx x).sc.getD ra.toNat).toNat = a from rfl, hadr, if_neg hpl]
  refine (sGuard_of_ready hr _).trans ?_
  refine (if_neg (show ¬(!s.backed (a + 8 * first)) = true by rw [hback]; decide)).trans ?_
  rw [dramScrub_of_clean hclean, hfind]
  dsimp only
  rw [hwin]
  dsimp only
  rw [State.modCtx_modCtx]
  rfl

/-- The copy is made once its result's cycle is over. -/
theorem addWindow_after {m : Meadow} (hl : m.late = []) (g a : Nat) (es : List (Nat × W64)) :
    ((m.addLate g 6 (.window (some a) es)).applyLate (g + 1)).window = es.foldl (fun t e => tputD t e.1 e.2 0) m.window := by
  rw [Meadow.applyLate_single (Meadow.addLate_late hl ..) rfl]
  rfl

end

end

end Sys2Proof.Machine

namespace Sys2Proof
open Sys2Proof.Machine

/-- Settles O23: each word leaves the one state that the lemmas above give. -/
theorem supervisorWords : Obligations.SupervisorWords := by
  unfold Obligations.SupervisorWords
  refine ⟨?words, ?twld⟩
  case words =>
    intro s c x ic rd rb ra hpl hidle m k a w
    have hcore (hcur : s.cur = .stream c x .s) : s.core = k.sc := State.core_stream hcur
    have gives (hcur : s.cur = .stream c x .s) {i : Instr} {v : W32}
        (hi : exec i s = .next (s.setCore ((k.sc.advance ic s.clock).push rd.toNat (s.clock + 1) v))) : givesReg s i ic 1 rd.toNat v := by
      have h := push_gives (s := s) ic 1 rd.toNat v (by rw [hcur]; exact nofun)
      rw [hcore hcur] at h
      rw [givesReg, hi, hcore hcur]
      exact ⟨_, rfl, h⟩
    refine ⟨?halt, ?save, ?load, ?key⟩
    case halt =>
      intro g r hr hg hreg hfin
      refine ⟨_, exec_halt hr hpl hg, endRegion_fin ?_ hfin _ _⟩
      rw [State.setCore_stream hr.cur]
      exact hreg
    case save =>
      intro ps hr hw hal hacc
      have hex := exec_ctxsv (ic := ic) hr hpl hw hal hacc
      refine ⟨fun hb hs => ⟨_, hex.trans (if_neg (by rw [show (s.mdw c).beat = none from hb]; exact Bool.false_ne_true)), ?_⟩,
        fun hb => gives hr.cur (hex.trans (if_pos hb))⟩
      exact startSave_stops hr.cur hs hidle _ _
    case load =>
      intro ps hr hw hal hop hacc
      refine ⟨fun hc hs => ?_, fun v hc => gives hr.cur (exec_ctxld hr hpl hw hal hop hacc hc)⟩
      obtain ⟨hstop, -, hmem⟩ := startSave_stops (ic := ic) hr.cur hs hidle rd.toNat (.load x (k.sc.getD ra.toNat) ((k.sc.get rb.toNat).getLsbD 0))
      exact ⟨_, exec_ctxld hr hpl hw hal hop hacc hc, hstop, hmem⟩
    case key =>
      intro ps hr hal hres hacc hwait hclean
      obtain ⟨due, hlt, hzero, herase, hload⟩ := exec_keyld (ic := ic) hr hpl hal hres hacc hwait hclean
      have hslot : getField (k.sc.get rb.toNat) 0 10 = w % 2 ^ 10 := getField_zero ..
      have same (v : W32) : RegGets s (s.freshIx.2.modCtx c x fun k => k.heldUntil ic s.clock due rd.toNat v) due rd.toNat v :=
        heldUntil_gets (u := s.freshIx.2) hr.cur rfl rfl due rd.toNat v
      have changed (key : Option (BitVec 512)) (v : W32) :
          RegGets s ((s.freshIx.2.setKey (w % 2 ^ 10) key).modCtx c x fun k => k.heldUntil ic s.clock due rd.toNat v) due rd.toNat v ∧
            tget (s.freshIx.2.setKey (w % 2 ^ 10) key).keys (w % 2 ^ 10) = key ∧
            ∀ n, n ≠ w % 2 ^ 10 → tget (s.freshIx.2.setKey (w % 2 ^ 10) key).keys n = tget s.keys n := by
        obtain ⟨hm, hc, hkey, hne⟩ := setKey_only s.freshIx.2 (w % 2 ^ 10) key
        exact ⟨heldUntil_gets hr.cur hm hc due rd.toNat v, hkey, hne⟩
      rw [State.ctx, hslot] at hzero herase hload
      refine ⟨fun h0 => ?_, fun h0 hl h31 => ?_, fun h0 hl h31 hp => ?_⟩
      · exact ⟨_, due, hzero h0, hlt, same 3, onlyCtx_trans (onlyCtx_of_eq (t := s.freshIx.2) c x rfl rfl rfl) (onlyCtx_modCtx ..)⟩
      · have hbit : (k.sc.get rb.toNat).getLsbD 31 = true :=
          Nat.testBit_of_two_pow_le_and_two_pow_add_one_gt h31 (k.sc.get rb.toNat).isLt
        obtain ⟨hgets, hkey, hne⟩ := changed none 0
        exact ⟨_, due, herase h0 hl hbit, hlt, hgets, hkey, hne⟩
      · have hbit : (k.sc.get rb.toNat).getLsbD 31 = false := Nat.testBit_lt_two_pow h31
        have hex := hload h0 hl hbit hp
        generalize s.unwrap (BitVec.ofNat 576 (s.readParts ps).1) = key at hex ⊢
        cases key with
        | none => exact ⟨_, due, hex, hlt, fun _ _ => rfl, same 1, rfl⟩
        | some key =>
          dsimp only at hex ⊢
          by_cases hkey : key.extractLsb' 0 256 = key.extractLsb' 256 256
          · rw [if_pos hkey] at hex
            exact ⟨_, due, hex, hlt, fun _ _ => rfl, by rw [if_pos hkey]; exact ⟨same 2, rfl⟩⟩
          · rw [if_neg hkey] at hex
            obtain ⟨hgets, hset, hne⟩ := changed (some key) 0
            exact ⟨_, due, hex, hlt, hne, by rw [if_neg hkey]; exact ⟨hgets, hset⟩⟩
  case twld =>
    intro s c x ic rd rb ra hr hpl m k a first count es after hal hcount hfit hback hclean hpoison hfault
    have hex := exec_twld (ic := ic) (es := es) hr hpl hal hcount hfit hback hclean hpoison rfl hfault
    refine ⟨_, s.clock + (count + 7) / 8 + Config.excess s.fresh, hex, by omega, ?_, ?_, ?_, fun hl => ?_⟩
    · have hgets := heldUntil_gets (ic := ic) (u := s.freshIx.2) hr.cur rfl rfl (s.clock + (count + 7) / 8 + Config.excess s.fresh) rd.toNat 0
      exact regGets_of_core hgets (State.modMdw_core _ _ _ fun _ => rfl)
    · have hctx := onlyCtx_of_eq (s := s) (t := s.freshIx.2) c x rfl rfl rfl
      exact onlyMdw_trans (onlyMdw_of_ctx (onlyCtx_trans hctx (onlyCtx_modCtx ..))) (onlyMdw_modMdw ..)
    · rw [State.modMdw_mdw, State.modCtx_mdw]
      rfl
    · rw [State.modMdw_mdw, State.modCtx_mdw]
      exact addWindow_after (m := (s.freshIx.2.mdw c).modCtx x _) hl _ a es

end Sys2Proof

end
